-- ==== Sys2Proof/Word.lean ====
section
/-!
DEFINITION. The words of the VA-9 and their plainest arithmetic (R1, R2, R155).
-/
namespace Sys2Proof

/-- A byte of memory. -/
abbrev Byte := BitVec 8
/-- A 32-bit register word. -/
abbrev Word := BitVec 32
/-- A 64-bit value: a register pair, a counter or a virtual address. -/
abbrev DWord := BitVec 64
/-- One bit per thread of a warp. -/
abbrev Mask := BitVec 32

/-- The low word of a pair. -/
def DWord.lo (x : DWord) : Word := x.setWidth 32
/-- The high word of a pair. -/
def DWord.hi (x : DWord) : Word := (x >>> 32).setWidth 32
/-- `cat(hi, lo)` of R7. -/
def DWord.ofWords (lo hi : Word) : DWord := (hi.setWidth 64 <<< 32) ||| lo.setWidth 64
/-- A word as the zero-extended 64-bit value the shared operand path carries. -/
def Word.toD (x : Word) : DWord := x.setWidth 64

end Sys2Proof
end

