-- ==== Sys2Proof/Config.lean ====
section
/-!
DEFINITION. What an implementation fixes and the manual leaves open: free values, each an opaque constant
with no body, so that no proof can see a value of it.
-/
namespace Sys2Proof.Config

/-- A byte the manual leaves undefined (log 3, log 22): the argument is the model's counter of free values. -/
opaque freeByte : Nat → Byte
/-- What an address of memory that was written under another key reads as (R414, log 4). -/
opaque scrambled : Nat → Byte
/-- Offset of an approximate SFU result inside its bound, in 2^-20 of the bound's unit (R222, log 5);
the argument is the operation's number and the operand. -/
opaque sfuOffset : Nat → Word → Int
/-- The granules whose reads for a table meet an uncorrectable error in a lane cycle, each with its syndrome (R73, log 3). -/
opaque tableErrors : Nat → List (Nat × BitVec 16)
/-- The way that an L1 replaces (R105: not architectural, log 6). -/
opaque l1Victim : Nat → Nat
/-- Which of the sectors that have come for a load is written first (R108: in any order); the argument is the model's counter of free
values (log 3). -/
opaque sectorFirst : Nat → Nat
/-- Where the choice of a number that is in no use begins: group slots, catalogue handles, RKEYs and QPNs (log 32); the
argument is the model's counter of free values. -/
opaque name : Nat → Nat
/-- Entry address of a die's curator program (log 33). -/
opaque curatorEntry : Nat → Nat
/-- The SHA-384 hash of a firmware image and the device's signature over an attestation (R424, R425, log 7). -/
opaque sign : List Nat → Nat
/-- The deepest level whose cached pointer a walk finds (R72: not visible to software, log 41). -/
opaque pointerDepth : Nat → Nat
/-- The bank and the row of a channel that bits <7> and <35:13> of an offset name, taken as one number (R27, log 8). -/
opaque dramBank : Nat → Nat
opaque dramRow : Nat → Nat
/-- The three filter hashes of a row number (R35, log 8). -/
opaque rowHash : Nat → Nat → Nat

end Sys2Proof.Config
end

