-- ==== Sys2Proof/Syntax.lean ====
section
/-!
DEFINITION. Syntax: operand selectors, instruction forms, the operands of the machine's events, and `Instr`, one
constructor per row of spec/opcode_table.json.
-/
namespace Sys2Proof

/-- A 9-bit operand selector (R173). -/
inductive Sel where
  | v (n : Fin 192)     -- 0x000 to 0x0BF
  | q (n : Fin 8)       -- 0x0C0 to 0x0C7
  | lr | zr | tix       -- 0x0C8, 0x0C9, 0x0CA
  | rsvLow (n : Fin 53) -- 0x0CB to 0x0FF, reserved
  | s (n : Fin 64)      -- 0x100 to 0x13F
  | rsvHigh (n : Fin 63) -- 0x140 to 0x17E, reserved
  | lit                 -- 0x17F, the literal word
  | imm (i : BitVec 7)  -- 0x180 to 0x1FF
  deriving DecidableEq, Repr

/-- A guard: p or k by the opcode's class, index 7 naming pt or kt (R177). -/
structure Guard where
  neg : Bool
  idx : Fin 8
  deriving DecidableEq, Repr

/-- The fields of a long or literal form after its opcode (R171). -/
structure LongOp where
  g   : Guard
  /-- The S bit. -/
  w   : Bool
  d   : Sel
  a   : Sel
  b   : Sel
  c   : Sel
  fn  : BitVec 8
  fn2 : BitVec 5
  /-- The literal word of a literal form. -/
  lit : Option Word
  deriving DecidableEq, Repr

/-- The fields of a short form after its opcode (R172). -/
structure ShortOp where
  g   : Guard
  sfn : BitVec 2
  d   : Sel
  a   : Sel
  deriving DecidableEq, Repr

/-- A fetched word that is not an instruction, with what its reason depends on (R180). -/
inductive Illegal where
  | length                                  -- LEN = 0b11
  | short (sopc : BitVec 6) (x : ShortOp)
  | long (opc : BitVec 8) (x : LongOp)
  deriving DecidableEq, Repr

/-- A core: core 16 of a die is its curator core (R16). -/
structure CoreId where
  die  : Nat
  core : Nat
  deriving DecidableEq, Repr

/-- A warp slot (R138). -/
structure WarpId where
  die  : Nat
  core : Nat
  lane : Nat
  slot : Nat
  deriving DecidableEq, Repr

/-- The core that a warp slot belongs to. -/
def WarpId.coreId (w : WarpId) : CoreId := ⟨w.die, w.core⟩

/-- What stands in a memory's cells where an access reads: no error, or one in a granule of the access, counted from its first (in a
damson buffer, a 64-byte unit): its symbols, data symbols first, with their flipped bits. `seen` says whether the code notices an error of more than two symbols, which it need not; the syndrome is what a report
of it carries (R41, R48). -/
inductive Ecc where
  | good
  | error (granule : Nat) (symbols : List (Nat × BitVec 16)) (seen : Bool) (syndrome : BitVec 16)
  deriving DecidableEq, Repr

/-- The header and the tag of a CCP message with the port by which it comes (R401, R409). -/
structure Ccp where
  magic   : Nat
  version : Nat
  type    : Nat
  wing    : Nat                 -- the sender; 15 is the operator
  flags   : Nat
  length  : Nat
  seq     : Nat
  tag     : Option Nat          -- the control key under which TAG is right; none if it is so under no key (log 7)
  bodyOk  : Bool                -- LENGTH is that of the body, and one that its TYPE has
  port    : Nat
  deriving DecidableEq, Repr

/-- Two keys wrapped under a third (R413, R417, log 7). -/
structure Wrapped where
  under  : Nat
  first  : Nat
  second : Nat
  deriving DecidableEq, Repr

/-- One patch entry of a kick frame (R368). -/
structure Patch where
  slot  : Nat
  value : DWord
  deriving DecidableEq, Repr

/-- The body of WINGSET: the wing, its new entry, and, where their 72 bytes are not all zero, the new control and wrapping keys, wrapped
together (R403, R417). -/
structure WingBody where
  wing    : Nat
  catUnit : Bool
  bufs    : BitVec 8
  ports   : BitVec 16
  dies    : BitVec 9
  keys    : Option Wrapped
  deriving DecidableEq, Repr

/-- The body of QPCREATE (R406). -/
structure QpBody where
  port     : Nat
  remote   : Nat
  rqpn     : Nat
  txPsn    : Nat
  rxPsn    : Nat
  asid     : Nat
  ringVa   : Nat
  ringSize : Nat
  bellVa   : Nat
  doneVa   : Nat
  deriving DecidableEq, Repr

/-- The body of MRREG (R407). -/
structure MrBody where
  asid   : Nat
  va     : Nat
  len    : Nat
  readOk : Bool
  writeOk : Bool
  cntVa  : Option Nat
  deriving DecidableEq, Repr

/-- A management register (R43, R411, R419, R423). -/
inductive MgmtReg where
  | hmcfg (stack : Nat) | hmstat (stack : Nat) | hmerr (stack : Nat)
  | reset | powerCap | descBase
  deriving DecidableEq, Repr

/-- Which firmware image an FWLOAD carries (R424). -/
inductive FwKind where
  | docent | curator | buffer
  deriving DecidableEq, Repr

/-- An FWLOAD's image: the parts that the docent judges (R424). -/
structure FwImage where
  kind     : FwKind
  hash     : Nat
  version  : Nat
  rollback : Nat
  rsaOk    : Bool
  slhOk    : Bool
  deriving DecidableEq, Repr

/-- What a frame received at a port is: a CCP message, RoCEv2 traffic for a queue pair, or anything else (R401, R406, R409). -/
inductive FrameKind where
  | ccp (m : Ccp) | roce (qp : Nat) | other
  deriving DecidableEq, Repr

/-- The unit that training or a failure concerns (R416, R422). -/
inductive Unit' where
  | die (d : Nat) | stack (d : Nat) | buffer (n : Nat)
  deriving DecidableEq, Repr

/-- One constructor per row of spec/opcode_table.json, in the table's order: the short forms, a fetched word that is not
an instruction, the long forms, and the steps that the machine's other agents take. -/
inductive Instr where
  | nopShort (x : ShortOp)
  | movShort (x : ShortOp)
  | iaddShort (x : ShortOp)
  | isubShort (x : ShortOp)
  | imulShort (x : ShortOp)
  | iminShort (x : ShortOp)
  | imaxShort (x : ShortOp)
  | inegShort (x : ShortOp)
  | iabsShort (x : ShortOp)
  | andShort (x : ShortOp)
  | orShort (x : ShortOp)
  | xorShort (x : ShortOp)
  | notShort (x : ShortOp)
  | shlShort (x : ShortOp)
  | shrShort (x : ShortOp)
  | sarShort (x : ShortOp)
  | popcShort (x : ShortOp)
  | clzShort (x : ShortOp)
  | ctzShort (x : ShortOp)
  | brevShort (x : ShortOp)
  | faddShort (x : ShortOp)
  | fsubShort (x : ShortOp)
  | fmulShort (x : ShortOp)
  | fminShort (x : ShortOp)
  | fmaxShort (x : ShortOp)
  | faddPackedShort (x : ShortOp)
  | fmulPackedShort (x : ShortOp)
  | rcpShort (x : ShortOp)
  | rsqShort (x : ShortOp)
  | sqrtShort (x : ShortOp)
  | exp2Short (x : ShortOp)
  | log2Short (x : ShortOp)
  | sinShort (x : ShortOp)
  | cosShort (x : ShortOp)
  | tanhShort (x : ShortOp)
  | cvtShort (x : ShortOp)
  | yieldShort (x : ShortOp)
  | exitShort (x : ShortOp)
  | retShort (x : ShortOp)
  | illegalEncoding (x : Illegal)
  | iadd (x : LongOp)
  | isub (x : LongOp)
  | imul (x : LongOp)
  | imulh (x : LongOp)
  | imad (x : LongOp)
  | imin (x : LongOp)
  | imax (x : LongOp)
  | iabs (x : LongOp)
  | ineg (x : LongOp)
  | idiv (x : LongOp)
  | lea (x : LongOp)
  | iset (x : LongOp)
  | sel (x : LongOp)
  | mov (x : LongOp)
  | idp4 (x : LongOp)
  | plop (x : LongOp)
  | andB (x : LongOp)
  | orB (x : LongOp)
  | xorB (x : LongOp)
  | btab (x : LongOp)
  | notB (x : LongOp)
  | shl (x : LongOp)
  | shr (x : LongOp)
  | sar (x : LongOp)
  | shf (x : LongOp)
  | bfe (x : LongOp)
  | bfi (x : LongOp)
  | popc (x : LongOp)
  | clz (x : LongOp)
  | ctz (x : LongOp)
  | brev (x : LongOp)
  | fadd (x : LongOp)
  | fsub (x : LongOp)
  | fmul (x : LongOp)
  | ffma (x : LongOp)
  | fmin (x : LongOp)
  | fmax (x : LongOp)
  | fset (x : LongOp)
  | fclass (x : LongOp)
  | frnd (x : LongOp)
  | fdot2 (x : LongOp)
  | fscale (x : LongOp)
  | cvt (x : LongOp)
  | cvtpk (x : LongOp)
  | cvtupk (x : LongOp)
  | rcp (x : LongOp)
  | rsq (x : LongOp)
  | sqrt (x : LongOp)
  | exp2 (x : LongOp)
  | log2 (x : LongOp)
  | sin (x : LongOp)
  | cos (x : LongOp)
  | tanh (x : LongOp)
  | fdiv (x : LongOp)
  | shfl (x : LongOp)
  | poll (x : LongOp)
  | redx (x : LongOp)
  | redxi (x : LongOp)
  | scan (x : LongOp)
  | matchT (x : LongOp)
  | elect (x : LongOp)
  | isect (x : LongOp)
  | brank (x : LongOp)
  | treestep (x : LongOp)
  | kset (x : LongOp)
  | kmov (x : LongOp)
  | bra (x : LongOp)
  | brx (x : LongOp)
  | call (x : LongOp)
  | ret (x : LongOp)
  | reconv (x : LongOp)
  | yield (x : LongOp)
  | exit (x : LongOp)
  | execMask (x : LongOp)
  | nop (x : LongOp)
  | waitc (x : LongOp)
  | trap (x : LongOp)
  | bkpt (x : LongOp)
  | sleep (x : LongOp)
  | ld (x : LongOp)
  | ldDec (x : LongOp)
  | st (x : LongOp)
  | stEnc (x : LongOp)
  | ldu (x : LongOp)
  | ldg (x : LongOp)
  | pref (x : LongOp)
  | cctl (x : LongOp)
  | atom (x : LongOp)
  | atomcas (x : LongOp)
  | red (x : LongOp)
  | fence (x : LongOp)
  | promote (x : LongOp)
  | ldacq (x : LongOp)
  | strel (x : LongOp)
  | cadd (x : LongOp)
  | cwait (x : LongOp)
  | cread (x : LongOp)
  | bar (x : LongOp)
  | barsig (x : LongOp)
  | fork (x : LongOp)
  | spawn (x : LongOp)
  | mbxrd (x : LongOp)
  | fwd (x : LongOp)
  | mma (x : LongOp)
  | mmal (x : LongOp)
  | mmv (x : LongOp)
  | mzero (x : LongOp)
  | mlda (x : LongOp)
  | msta (x : LongOp)
  | mbatch (x : LongOp)
  | mwait (x : LongOp)
  | copy (x : LongOp)
  | cptr (x : LongOp)
  | qfence (x : LongOp)
  | bin (x : LongOp)
  | binplay (x : LongOp)
  | route (x : LongOp)
  | embpool (x : LongOp)
  | getsys (x : LongOp)
  | setsys (x : LongOp)
  | setsysAsgen (x : LongOp)
  | setsysCtxpush (x : LongOp)
  | setsysPreempt (x : LongOp)
  | time (x : LongOp)
  | tretRes (x : LongOp)
  | tretKill (x : LongOp)
  | fetchBlockReturn (w : WarpId) (e : Ecc)
  | coalescingWindowClose (c : CoreId)
  | walkEntryRead (die : Nat) (walk : Nat) (e : Ecc)
  | formatEntryRead (c : CoreId) (e : Ecc)
  | l1FillReturn (pid : Nat)
  | loadDataReturn (c : CoreId) (rid : Nat)
  | storeAck (pid : Nat)
  | combiningEntryAge (c : CoreId)
  | peerProbe (c : CoreId) (rid : Nat)
  | peerProbeAnswer (c : CoreId) (rid : Nat)
  | meshHop (pid : Nat) (granted : Nat) (merge : Bool)
  | interposerLinkCrossing (pid : Nat)
  | slotBoundary
  | l2Request (pid : Nat)
  | atomicUnitService (pid : Nat)
  | cwaitAnswer (pid : Nat)
  | cwaitRetry (c : CoreId) (rid : Nat)
  | hbmAccess (stack : Nat) (channel : Nat) (e : Ecc)
  | maintenanceSlot (stack : Nat) (refreshDone : Bool) (e : Ecc) (overwritten : Bool)
  | hbmTemperatureSample (stack : Nat) (celsius : Nat)
  | bufferAccess (buffer : Nat) (e : Ecc)
  | bufferRefresh (buffer : Nat)
  | bufferScrub (buffer : Nat) (e : Ecc)
  | bagTakeUp (c : CoreId) (e : Ecc)
  | bufferPool (c : CoreId) (view : Nat) (e : Ecc)
  | partialVectorCombine (c : CoreId)
  | copyEntryStart (c : CoreId) (ch : Nat)
  | deliveryUnitPerformed (c : CoreId) (ch : Nat) (e : Ecc)
  | copyEntryComplete (c : CoreId) (ch : Nat)
  | qfenceEntryComplete (c : CoreId) (fence : Nat)
  | guardedOffEntry (c : CoreId) (queue : Nat) (slot : Nat)
  | binplayEntry (c : CoreId) (e : Ecc)
  | matrixEntryStart (c : CoreId) (e : Ecc)
  | tileWrite (c : CoreId)
  | collectorRowDrop (c : CoreId) (lane : Nat)
  | rowBlockStart (c : CoreId) (block : Nat)
  | mmvStreamData (c : CoreId) (e : Ecc)
  | batchComplete (c : CoreId) (slot : Nat)
  | rotDemotion (w : WarpId)
  | sleepExpiry (w : WarpId)
  | generationBroadcast (c : CoreId)
  | generationRaiseComplete
  | catload (m : Ccp) (image : List Byte)
  | catdrop (m : Ccp) (cat : Nat)
  | kick (m : Ccp) (cat : Nat) (kickSeq : Nat) (patches : List Patch)
  | replayStart (wing : Nat) (cat : Nat)
  | nodeDispatch (wing : Nat) (cat : Nat)
  | workPacketSend (wing : Nat) (cat : Nat)
  | mailboxPacketArrival (die : Nat)
  | cohortRelease (wing : Nat) (cat : Nat)
  | groupEnd (c : CoreId) (slot : Nat)
  | groupEndNotice (c : CoreId)
  | nodeEnd (unit : Nat)
  | replayEnd (wing : Nat) (cat : Nat)
  | coreStop (c : CoreId)
  | otherWarpsResume (c : CoreId)
  | deferredTrap (c : CoreId) (slot : Nat)
  | swapOut (c : CoreId) (slot : Nat)
  | frameWaitResume (c : CoreId) (slot : Nat)
  | preemptionStop (c : CoreId) (slot : Nat)
  | watchdog (w : WarpId)
  | portFrameReceive (port : Nat) (kind : FrameKind)
  | roceWrite (qp : Nat) (rkey : Nat) (va : Nat) (data : List Byte)
  | roceWriteImmediate (qp : Nat) (rkey : Nat) (va : Nat) (data : List Byte) (imm : Word)
  | roceRead (qp : Nat) (rkey : Nat) (va : Nat) (len : Nat)
  | sendDescriptorTake (qp : Nat)
  | descriptorComplete (qp : Nat) (nak : Bool) (data : List Byte)
  | resync (m : Ccp)
  | genraise (m : Ccp) (asid : Nat)
  | preempt (m : Ccp) (die : Nat) (core : Nat) (slot : Nat)
  | mrreg (m : Ccp) (b : MrBody)
  | mrdrop (m : Ccp) (rkey : Nat)
  | qpcreate (m : Ccp) (b : QpBody)
  | qpdestroy (m : Ccp) (qp : Nat)
  | wingset (m : Ccp) (b : WingBody)
  | wingquiesce (m : Ccp) (wing : Nat)
  | wingQuiesced (wing : Nat)
  | slotset (m : Ccp) (owners : List (Nat × BitVec 8))
  | keyload (m : Ccp) (pair : Wrapped) (retain : Bool)
  | keyrevoke (m : Ccp) (wing : Nat)
  | keyrevokeComplete (wing : Nat)
  | zeroingComplete (u : Unit')
  | mgmtrd (m : Ccp) (r : MgmtReg)
  | mgmtwr (m : Ccp) (r : MgmtReg) (value : DWord)
  | hmcfgCntClr (stack : Nat)
  | filterFullClear (stack : Nat)
  | warmReset
  | fwload (m : Ccp) (image : FwImage)
  | attest (m : Ccp) (nonce : Nat)
  | powerGood (selfTestOk : Bool)
  | stage1Reached (failed : List Unit') (slowRows : List (Nat × Nat × Nat))
  | stage2Reached
  | junctionTemperatureSample (die : Nat) (celsius : Nat)
  | powerCapExceeded (milliwatts : Nat)
  | coreFence (c : CoreId)
  | stackFence (u : Unit')
  | portLinkFailure (port : Nat)
  | curatorReload (die : Nat)
  | uncoreResetEntry (die : Nat)
  | uncoreResetExit (die : Nat)
  | coreDomainResetExit (die : Nat)
  | coreDomainResetEntry (die : Nat)
  | dieFence (die : Nat)
  | promotionRequest (c : CoreId) (issuer : CoreId)
  | dcqcnRateReduction (qp : Nat)
  deriving DecidableEq, Repr

end Sys2Proof
end

