-- ==== Sys2Proof/Machine/Legal.lean ====
section
/-!
DEFINITION. Which encodings are instructions: the field columns, FN and FN2 values of every opcode, and the reason
of an encoding that is none, in the order of R180 (R143, R148, R150, R173 to R180, R190, R191, R206, R228, R263,
R277, R302, R350, R375, R395).
-/
namespace Sys2Proof.Machine

/-- What an encoding table says of a selector field (R191, R228, R263, R277, R302). -/
inductive Field where
  | any        -- its use depends on a value that is not listed
  | unused     -- must hold 0x000
  | d32 | d64  -- destination operands
  | s32 | s64  -- source operands
  | pk         -- predicate or tile-predicate field
  | tile       -- m0 to m15
  | u32 | u64  -- uniform sources
  | sDst       -- s register or zr
  | pairDst    -- sd or d pair
  | dPair      -- d pair
  | brPair     -- d or sd pair
  | vDst       -- v register only
  | vPairDst   -- d pair only, a load's destination
  | vQuad      -- v4n to v4n+3, a load's destination
  | vSrc | vQuadSrc -- a store's data register
  | run (n : Nat) -- n consecutive v registers
  | runDst (n : Nat) -- the same as a load's destination
  | sReg       -- s register only (KMOV get)
  | sPut       -- s register, immediate or literal (KMOV put)
  | lduDst32 | lduDst64 -- v, s or zr (LDU, GETSYS), and their pairs
  | uAb32 | uAb64 -- LDU base and offset; what is not uniform takes class 5 (R286)
  deriving DecidableEq, Repr

/-- The row of an encoding table for one FN and FN2 (R8). -/
structure Row where
  d : Field := .unused
  a : Field := .unused
  b : Field := .unused
  c : Field := .unused
  /-- FN and FN2 are listed. -/
  ok : Bool := true
  /-- Another bit that the table reserves is not zero. -/
  rsv : Bool := false
  /-- S = 1 is accepted (R150). -/
  sOk : Bool := true
  /-- The instruction requires an unnegated pt guard. -/
  pt : Bool := false

/-- TYPE codes of R176. -/
def tyOf (fn : BitVec 8) : Nat := (fn >>> 4).toNat
/-- SAT / FTZ. -/
def fnBit3 (fn : BitVec 8) : Bool := fn.getLsbD 3
def fnBit2 (fn : BitVec 8) : Bool := fn.getLsbD 2
def fnRnd (fn : BitVec 8) : Nat := (fn.setWidth 2).toNat

/-- Width 64 of a TYPE code. -/
def ty64 (t : Nat) : Bool := t == 6 || t == 7 || t == 12
def fS (wide : Bool) : Field := if wide then .s64 else .s32
def fD (wide : Bool) : Field := if wide then .d64 else .d32

/-- Rows of the integer, logic and bit opcodes (R191). -/
def rowInt (op : Nat) (fn : BitVec 8) (fn2 : Nat) : Row :=
  let t := tyOf fn
  let sat := fnBit3 fn
  let b2 := fnBit2 fn
  let r0 := fnRnd fn == 0
  let w := ty64 t
  let z := fn2 == 0
  let all := t ≤ 7
  let i4 := t == 0 || t == 1 || t == 6 || t == 7
  let absTy := t == 0 || t == 2 || t == 4 || t == 6
  let b := t == 11 || t == 12
  match op with
  | 0x00 | 0x01 | 0x02 =>
    { d := fD w, a := fS w, b := fS w, ok := all && !(sat && w) && !b2 && r0 && z }
  | 0x03 => { d := fD w, a := fS w, b := fS w, ok := i4 && !sat && !b2 && r0 && z }
  | 0x04 =>
    { d := fD (w || b2), a := fS w, b := fS w, c := fS (w || b2),
      ok := i4 && !(sat && (w || b2)) && !(b2 && w) && r0 && z }
  | 0x05 | 0x06 => { d := fD w, a := fS w, b := fS w, ok := all && !sat && !b2 && r0 && z }
  | 0x07 | 0x08 => { d := fD w, a := fS w, ok := absTy && !(sat && w) && !b2 && r0 && z }
  | 0x09 => { d := fD w, a := fS w, b := fS w, ok := i4 && !sat && r0 && z }
  | 0x0A => { d := .d64, a := .s64, b := .s32, ok := (t == 0 || t == 1) && (fn.setWidth 4 == 0) }
  | 0x0B =>
    let comb := fn2 % 4
    { d := .pk, a := fS w, b := fS w, c := if comb == 0 then .unused else .pk,
      ok := i4 && !sat && r0 && fn2 / 4 < 6, rsv := comb == 0 && b2 }
  | 0x0C => { d := fD w, a := fS w, b := fS w, c := .pk, ok := b && !sat && r0 && z }
  | 0x0D => { d := fD w, a := fS w, ok := b && !sat && !b2 && r0 && z }
  | 0x0E => { d := .d32, a := .s32, b := .s32, c := .s32, ok := (t == 0 || t == 1) && !b2 && r0 && fn2 < 4 }
  | 0x0F => { d := .pk, a := .pk, b := .pk, c := .pk, ok := z }
  | 0x10 | 0x11 | 0x12 => { d := fD w, a := fS w, b := fS w, ok := b && !sat && !b2 && r0 && z }
  | 0x13 =>
    let q := fn2 == 1
    { d := fD q, a := fS q, b := fS q, c := fS q, ok := fn2 < 2 }
  | 0x14 => { d := fD w, a := fS w, ok := b && !sat && !b2 && r0 && z }
  | 0x15 | 0x16 | 0x17 => { d := fD w, a := fS w, b := .s32, ok := b && !sat && !b2 && r0 && z }
  | 0x18 => { d := .d32, a := .s32, b := .s32, c := .s32, ok := t == 11 && !sat && !b2 && r0 && fn2 < 2 }
  | 0x19 => { d := .d32, a := .s32, b := .s32, c := .s32, ok := (t == 0 || t == 1) && !sat && !b2 && r0 && z }
  | 0x1A => { d := .d32, a := .s32, b := .s32, c := .s32, ok := t == 11 && !sat && !b2 && r0 && z }
  | 0x1B | 0x1C | 0x1D => { d := .d32, a := fS w, ok := b && !sat && !b2 && r0 && z }
  | _ => { d := fD w, a := fS w, ok := b && !sat && !b2 && r0 && z }       -- 0x1E BREV

/-- Rows of the float, conversion and special-function opcodes (R206, R214 to R220). -/
def rowFloat (op : Nat) (fn : BitVec 8) (fn2 : Nat) : Row :=
  let t := tyOf fn
  let ftz := fnBit3 fn
  let b2 := fnBit2 fn
  let rnd := fnRnd fn
  let z := fn2 == 0
  let fl := t == 8 || t == 9 || t == 10
  match op with
  | 0x20 | 0x21 | 0x22 => { d := .d32, a := .s32, b := .s32, ok := fl && !b2 && z }
  | 0x23 => { d := .d32, a := .s32, b := .s32, c := .s32, ok := fl && !b2 && z }
  | 0x24 | 0x25 => { d := .d32, a := .s32, b := .s32, ok := fl && rnd == 0 && z }
  | 0x26 =>
    let comb := fn2 % 4
    { d := .pk, a := .s32, b := .s32, c := if comb == 0 then .unused else .pk,
      ok := t == 8 && rnd == 0, rsv := comb == 0 && b2 }
  | 0x27 => { d := .d32, a := .s32, ok := t == 8 && !ftz && !b2 && rnd == 0 && z }
  | 0x28 => { d := .d32, a := .s32, ok := t == 8 && !b2 && z }
  | 0x29 => { d := .d32, a := .s32, b := .s32, c := .s32, ok := (t == 9 || t == 10) && !b2 && z }
  | 0x2A => { d := .d32, a := .s32, b := .s32, ok := t == 8 && !b2 && z }
  | 0x30 =>
    let st := fn2 % 16
    let int (x : Nat) := x == 0 || x == 1 || x == 6 || x == 7
    let good :=
      fn2 < 16 &&
      ((t == 8 && int st && !ftz && !b2) || (int t && st == 8 && !b2) ||
       (t == 8 && (st == 9 || st == 10) && rnd == 0) ||
       (t == 9 && st == 10 && !b2) || (t == 10 && st == 9 && !b2))
    { d := if good then fD (ty64 t) else .any, a := if good then fS (ty64 st) else .any, ok := good }
  | 0x31 =>
    let n := 1
    match t with
    | 0 | 1 => { d := .d32, a := .s32, b := .s32, ok := !b2 && z }
    | 2 => { d := .run n, a := .run n, ok := !ftz && !b2 && 1 ≤ fn2 && fn2 < 16 }
    | 3 => { d := .run n, a := .run n, ok := !ftz && !b2 && rnd == 0 && 1 ≤ fn2 && fn2 < 16 }
    | _ => { d := .any, a := .any, b := .any, ok := false }
  | 0x32 =>
    match t with
    | 0 | 1 => { d := .d64, a := .s32, ok := !b2 && rnd == 0 && z }
    | 2 => { d := .run 1, a := .s32, b := .s32, ok := !ftz && !b2 && rnd == 0 && 1 ≤ fn2 && fn2 < 16 }
    | _ => { d := .any, a := .s32, b := .any, ok := false }
  | 0x42 => { d := .d32, a := .s32, ok := t == 8 && !b2 && z }
  | 0x48 => { d := .d32, a := .s32, b := .s32, ok := t == 8 && !b2 && z }
  | _ => { d := .d32, a := .s32, ok := t == 8 && !b2 && rnd == 0 && z }    -- 0x40, 41, 43 to 47

/-- A fold's TYPE, FTZ and RND beside its op (R228). -/
def foldOk (fn : BitVec 8) (op : Nat) : Bool :=
  let t := tyOf fn
  let arith := t == 0 || t == 1 || t == 8
  !fnBit2 fn && (if op ≤ 2 then arith else op ≤ 5 && t == 11) && (!fnBit3 fn || t == 8) &&
    (fnRnd fn == 0 || (t == 8 && op == 0))

/-- Rows of the cross-thread, sparse and tree opcodes (R228). -/
def rowCross (op : Nat) (fn : BitVec 8) (fn2 : Nat) : Row :=
  let b32 := fn == 0xB0
  let b64 := fn == 0xC0
  match op with
  | 0x50 => { d := fD b64, a := fS b64, b := .s32, c := .pk, ok := (b32 || b64) && fn2 < 4, sOk := false }
  | 0x51 =>
    { d := if fn2 == 0 then .d32 else if fn2 < 4 then .pk else .any, a := .pk,
      ok := (fn == 0 || fn == 4) && fn2 < 4, sOk := false }
  | 0x52 => { d := .d32, a := .s32, ok := foldOk fn fn2, sOk := false }
  | 0x53 => { d := .d64, a := .s32, b := .s32, ok := (fn == 0 || fn == 0x10) && fn2 < 2, sOk := false }
  | 0x54 => { d := .d32, a := .s32, ok := fn2 < 16 && foldOk fn (fn2 % 8), sOk := false }
  | 0x55 =>
    { d := .d32, a := fS b64, c := if fn2 == 0 then .unused else if fn2 == 1 then .pk else .any,
      ok := (b32 || b64) && fn2 < 2, sOk := false }
  | 0x56 => { d := .d32, c := .pk, ok := fn == 0 && fn2 == 0, sOk := false }
  | 0x60 | 0x61 => { d := .d32, a := .s32, b := .s32, c := .s32, ok := b32 && fn2 < 2, sOk := false }
  | 0x62 => { d := .d32, a := .s64, b := .s32, c := .pk, ok := fn == 0 && fn2 == 0, sOk := false }
  | 0x63 => { d := .pk, a := .pk, ok := (fn == 0 || fn == 4) && fn2 < 2, sOk := false }
  | _ =>
    { d := if fn2 == 0 then .sReg else if fn2 == 1 then .unused else .any,
      a := if fn2 == 1 then .sPut else if fn2 == 0 then .unused else .any,
      ok := fn == 0 && fn2 < 2, sOk := false, pt := true }                  -- 0x64 KMOV

/-- Rows of the control opcodes (R350, R395). -/
def rowControl (op : Nat) (fn : BitVec 8) (fn2 : Nat) : Row :=
  let z := fn == 0 && fn2 == 0
  match op with
  | 0x70 => { a := .u32, ok := z }
  | 0x71 => { a := .brPair, ok := z }
  | 0x72 => { d := .dPair, a := if fn2 == 0 then .u32 else if fn2 == 1 then .s64 else .any,
              ok := fn == 0 && fn2 < 2 }
  | 0x73 => { a := .brPair, ok := z }
  | 0x74 => { ok := fn.toNat < 16 && fn2 == 0, sOk := false }
  | 0x77 =>
    { d := if fn2 == 3 then .sDst else if fn2 < 3 then .unused else .any,
      a := if fn2 < 3 then .u32 else if fn2 == 3 then .unused else .any,
      ok := fn == 0 && fn2 < 4, sOk := false }
  | 0x79 => { ok := fn.toNat < 64 && fn2 < 4, sOk := false }
  | 0x7A | 0x7B | 0x7C => { a := .u32, ok := z, sOk := false }
  | _ => { ok := z, sOk := false }                                        -- 75, 76, 78

/-- Width of the data register of an access size (R279). -/
def szD (sz : Nat) : Field :=
  if sz == 5 then .vPairDst else if sz == 6 then .vQuad else .vDst

/-- The base of R276 by space. -/
def abF (space : Nat) : Field := if space == 0 then .s64 else if space < 3 then .s32 else .any

/-- TYPE and op pairs of ATOM and RED (R294). -/
def atomOk (t op : Nat) : Bool :=
  if op ≤ 2 then t == 0 || t == 1 || t == 6 || t == 7 || t == 8
  else op ≤ 6 && (t == 11 || t == 12)

/-- Rows of the memory, atomic and ordering opcodes (R277 to R279, R294, R299). -/
def rowMem (op : Nat) (fn : BitVec 8) (fn2 : Nat) : Row :=
  let sz := tyOf fn
  let nc := (fn.toNat / 4) % 4
  let raw := fn.toNat % 4
  let space := fn2 % 4
  let hint := (fn2 / 4) % 4
  let top := fn2 / 16
  let t := tyOf fn
  match op with
  | 0x80 =>
    let plain := sz ≤ 6 && nc == 0 && raw == 0
    let dec := (sz == 8 || sz == 9) && space == 0
    { d := if sz == 8 then .runDst (2 ^ nc) else if sz == 9 then .runDst ((2 ^ nc + 1) / 2)
           else if sz ≤ 6 then szD sz else .any,
      a := abF space, b := .s32,
      ok := (plain || dec) && space < 3 && top == 0 && (hint == 0 || (hint == 1 && space == 0)),
      sOk := space == 0 }
  | 0x81 =>
    let plain := (sz == 0 || sz == 2 || (4 ≤ sz && sz ≤ 6)) && nc == 0 && raw == 0
    let enc := sz == 10 && space == 0
    { a := abF space, b := .s32,
      c := if sz == 10 then .run (2 ^ nc) else if sz == 0 || sz == 2 then .vSrc else if sz == 4 then .s32
           else if sz == 5 then .s64 else if sz == 6 then .vQuadSrc else .any,
      ok := (plain || enc) && space < 3 && top == 0 && (hint == 0 || (hint == 2 && space == 0)),
      sOk := space == 0 }
  | 0x82 =>
    { d := if sz == 5 then .lduDst64 else if sz < 5 then .lduDst32 else .any,
      a := if space == 0 then .uAb64 else if space < 3 then .uAb32 else .any, b := .uAb32,
      ok := sz ≤ 5 && fn.toNat % 16 == 0 && space < 3 && top == 0 && (hint == 0 || (hint == 1 && space == 0)),
      pt := true }
  | 0x83 => { d := if 4 ≤ sz && sz ≤ 6 then szD sz else .any, a := .s64, b := .s32,
              ok := 4 ≤ sz && sz ≤ 6 && fn.toNat % 16 == 0 && fn2 == 0, sOk := false }
  | 0x84 => { a := .s64, b := .s32, ok := fn == 0 && (fn2 == 0 || fn2 == 4) }
  | 0x85 => { a := .s64, b := .s32, ok := fn == 0 && (fn2 == 0 || fn2 == 4), sOk := false }
  | 0x90 =>
    let ok := atomOk t (fn.toNat % 16) && !(top == 1 && ty64 t)
    { d := fD (ty64 t), a := if top == 1 then .s32 else .s64, b := .s32, c := fS (ty64 t), ok := ok, sOk := false }
  | 0x91 =>
    let ok := (t == 11 || t == 12) && fn.toNat % 2 == 0 && !(top == 1 && t == 12)
    { d := fD (ty64 t), a := if top == 1 then .s32 else .s64, b := fS (ty64 t), c := fS (ty64 t), ok := ok,
      sOk := false }
  | 0x92 =>
    let ok := atomOk t (fn.toNat % 16) && fn.toNat % 16 != 6 && !(top == 1 && ty64 t) && (hint == 0 || hint == 2)
    { a := if top == 1 then .s32 else .s64, b := .s32, c := fS (ty64 t), ok := ok, sOk := false }
  | 0x93 => { ok := fn == 0 && fn2 < 16 && hint != 0, sOk := false }
  | 0x94 => { a := .u64, ok := fn == 0 && fn2 == 0, sOk := false }
  | 0x95 =>
    let rem := hint % 2 == 1
    { d := if sz == 5 then .vPairDst else if sz == 4 then .vDst else .any, a := .s64, b := .s32,
      c := if rem then .u64 else .unused,
      ok := (sz == 4 || sz == 5) && fn.toNat % 16 == 0 && fn2 < 8 && (!rem || space == 0 || space == 3), sOk := false }
  | _ => -- 0x96 STREL
    { a := .s64, b := .s32, c := if sz == 5 then .s64 else if sz == 4 then .s32 else .any,
      ok := (sz == 4 || sz == 5) && fn.toNat % 16 == 0 && fn2 < 4, sOk := false }

/-- Rows of the counter, barrier, work-creation, matrix, engine and system opcodes (R263, R302, R375, R395). -/
def rowWarp (op : Nat) (fn : BitVec 8) (fn2 : Nat) : Row :=
  let f0 := fn == 0
  let glob := fn2 / 16 == 1
  let order := (fn2 / 4) % 4
  match op with
  | 0xA0 => { a := if glob then .u64 else .u32, b := .u64, ok := f0 && (order == 0 || order == 2) }
  | 0xA1 => { a := if glob then .u64 else .u32, b := .u64, ok := f0 && (order == 0 || order == 1) }
  | 0xA2 => { d := .pairDst, a := if glob then .u64 else .u32, ok := f0 && fn2 % 16 == 0 }
  | 0xA3 => { a := .u32, b := .u64, ok := f0 && fn2 < 4 }
  | 0xA4 => { a := .u32, b := .u32, ok := f0 && fn2 < 4 }
  | 0xB0 => { d := .sDst, a := .u32, b := .u32, c := .u32, ok := f0 && fn2 == 0 }
  | 0xB1 => { d := .sDst, a := .u32, b := .u32, ok := f0 && fn2 == 0 }
  | 0xB2 => { d := .sDst, a := .u32, ok := f0 && fn2 < 2 }
  | 0xB3 => { a := .u32, b := .u32, ok := f0 && fn2 == 0 }
  | 0xC0 => { d := .tile, a := .u64, b := .u64, c := .u32, ok := fn2 < 2 }
  | 0xC1 => { d := .tile, a := .s32, b := .u64, c := .u64, ok := fn2 < 16, sOk := false }
  | 0xC2 => { d := .tile, a := .u64, b := .u64, c := .u32, ok := fn2 < 2, rsv := fn.toNat % 16 != 0 }
  | 0xC3 => { d := .tile, ok := f0 && fn2 == 0 }
  | 0xC4 => { d := .tile, a := .u64, b := .u32, ok := f0 && fn2 < 2 }
  | 0xC5 => { d := .tile, a := .u64, b := .u32, ok := f0 && fn2 < 4 }
  | 0xC6 =>
    { d := .sDst,
      a := if fn2 % 4 == 0 then .unused else if fn2 == 1 then .u32 else if fn2 == 2 then .u64 else .any,
      b := if fn2 % 4 == 0 then .unused else if fn2 < 3 then .u32 else .any, ok := f0 && fn2 < 3 }
  | 0xC7 => { a := .u32, ok := f0 && fn2 == 0 }
  | 0xD0 => { a := .u32, ok := f0 && fn2 < 8 }
  | 0xD1 => { d := .pairDst, a := .u32, ok := f0 && fn2 == 0 }
  | 0xD2 =>
    { a := .u32,
      b := if fn2 % 4 == 0 then .unused else if fn2 == 1 then .u32 else if fn2 == 2 then .u64 else .any,
      c := if fn2 % 4 == 0 then .unused else if fn2 < 3 then .u32 else .any, ok := f0 && fn2 < 3 }
  | 0xD3 => { a := .u64, b := .s32, c := .s32, ok := fn.toNat < 16 && fn.toNat % 2 == 0 && fn2 == 0, sOk := false }
  | 0xD4 => { a := .u32, ok := f0 && fn2 == 0 }
  | 0xD5 => { d := .d32, a := .u64, b := .s32, c := .s32, ok := fn.toNat < 16 && fn.toNat % 2 == 0 && fn2 == 0,
              sOk := false }
  | 0xD6 => { a := .u32, ok := f0 && fn2 < 2 }
  | 0xE0 =>
    let wide := fn == 0x0C || fn == 0x0D || fn == 0x0E || fn == 0x10
    { d := if wide then .pairDst else if fn.toNat < 0x14 then .lduDst32 else .any, ok := fn.toNat < 0x14 && fn2 == 0, sOk := false }
  | 0xE1 =>
    let okw := fn == 0x09 || fn == 0x0B || fn == 0x0F || fn == 0x10 || fn == 0x11 || fn == 0x13
    { a := if fn == 0x10 then .u64 else if okw then .u32 else .any, ok := okw && fn2 == 0, sOk := false }
  | 0xE2 => { d := .pairDst, ok := f0 && fn2 == 0, sOk := false }
  | _ => { d := .sDst, a := .u64, ok := f0 && fn2 < 2, sOk := false }     -- 0xE3 TRET

/-- The assigned major opcodes (R179). -/
def opcAssigned (op : Nat) : Bool :=
  op ≤ 0x1E || (0x20 ≤ op && op ≤ 0x2A) || (0x30 ≤ op && op ≤ 0x32) || (0x40 ≤ op && op ≤ 0x48) ||
  (0x50 ≤ op && op ≤ 0x56) || (0x60 ≤ op && op ≤ 0x64) || (0x70 ≤ op && op ≤ 0x7C) ||
  (0x80 ≤ op && op ≤ 0x85) || (0x90 ≤ op && op ≤ 0x96) || (0xA0 ≤ op && op ≤ 0xA4) ||
  (0xB0 ≤ op && op ≤ 0xB3) || (0xC0 ≤ op && op ≤ 0xC7) || (0xD0 ≤ op && op ≤ 0xD6) || (0xE0 ≤ op && op ≤ 0xE3)

/-- The encoding-table row of an assigned opcode. -/
def rowOf (opc : BitVec 8) (fn : BitVec 8) (fn2 : BitVec 5) : Row :=
  let op := opc.toNat
  let f2 := fn2.toNat
  if op < 0x20 then rowInt op fn f2
  else if op < 0x50 then rowFloat op fn f2
  else if op < 0x70 then rowCross op fn f2
  else if op < 0x80 then rowControl op fn f2
  else if op < 0xA0 then rowMem op fn f2
  else rowWarp op fn f2

/-- Reason codes of R180. -/
def rLENGTH : Nat := 0x20
def rOPCODE : Nat := 0x21
def rUNIT : Nat := 0x22
def rRESERVED : Nat := 0x23
def rFUNCTION : Nat := 0x24
def rSELECTOR : Nat := 0x25
def rLITERAL : Nat := 0x26
def rDEST : Nat := 0x27
def rVREGS : Nat := 0x28
def rSBIT : Nat := 0x29

/-- What one field breaks. -/
inductive Bad where
  | fine | selector | literal | dest | vregs
  deriving DecidableEq, Repr

/-- The literal in a position that takes one. -/
def litBad (l : Bool) : Bad := if l then .fine else .literal
/-- `n` registers from v n under a limit of `vr` registers (R143). -/
def vBad (vr : Nat) (n k : Nat) : Bad := if n + k ≤ vr then .fine else .vregs
/-- An even register number. -/
def evenBad (n : Nat) (b : Bad) : Bad := if n % 2 == 0 then b else .selector

/-- What a selector breaks in a field: `l` says the word is a literal form, `vr` the warp's VREGS and `nt` the
group's tiles (R143, R174, R190, R263, R279, R286). DEDUCED (log 27): R291 has LDACQ load like LD, so every destination register of
it but a v, tix included, is SELECTOR, as R279 and R299 say of LD and LDG, where R174 in general says DEST for tix. -/
def fieldBad (f : Field) (l : Bool) (vr nt : Nat) (s : Sel) : Bad :=
  match f, s with
  | .any, _ => .fine
  | .unused, _ => .fine
  | .pk, .v n => if n.val < 8 then .fine else .selector
  | .pk, _ => .selector
  | .tile, .v n => if n.val < 16 && n.val < nt then .fine else .selector
  | .tile, _ => .selector
  | .d32, .v n => vBad vr n 1
  | .d32, .q _ | .d32, .lr | .d32, .zr | .d32, .s _ => .fine
  | .d32, .tix | .d32, .imm _ => .dest
  | .d32, .lit => if l then .dest else .literal
  | .d32, .rsvLow _ | .d32, .rsvHigh _ => .selector
  | .d64, .v n | .pairDst, .v n => evenBad n (vBad vr n 2)
  | .d64, .s n | .pairDst, .s n => evenBad n .fine
  | .d64, .zr | .pairDst, .zr => .fine
  | .d64, .tix | .d64, .imm _ | .pairDst, .tix | .pairDst, .imm _ => .dest
  | .d64, .lit | .pairDst, .lit => if l then .dest else .literal
  | .d64, .q _ | .d64, .lr | .d64, .rsvLow _ | .d64, .rsvHigh _ => .selector
  | .pairDst, .q _ | .pairDst, .lr | .pairDst, .rsvLow _ | .pairDst, .rsvHigh _ => .selector
  | .s32, .v n => vBad vr n 1
  | .s32, .q _ | .s32, .lr | .s32, .zr | .s32, .tix | .s32, .s _ | .s32, .imm _ => .fine
  | .s32, .lit => litBad l
  | .s32, .rsvLow _ | .s32, .rsvHigh _ => .selector
  | .s64, .v n => evenBad n (vBad vr n 2)
  | .s64, .s n => evenBad n .fine
  | .s64, .zr | .s64, .imm _ => .fine
  | .s64, .lit => litBad l
  | .s64, .q _ | .s64, .lr | .s64, .tix | .s64, .rsvLow _ | .s64, .rsvHigh _ => .selector
  | .u32, .s _ | .u32, .zr | .u32, .imm _ => .fine
  | .u32, .lit => litBad l
  | .u32, _ => .selector
  | .u64, .s n => evenBad n .fine
  | .u64, .zr | .u64, .imm _ => .fine
  | .u64, .lit => litBad l
  | .u64, _ => .selector
  | .sDst, .s _ | .sDst, .zr => .fine
  | .sDst, _ => .selector
  | .dPair, .v n => evenBad n (vBad vr n 2)
  | .dPair, _ => .selector
  | .brPair, .v n => evenBad n (vBad vr n 2)
  | .brPair, .s n => evenBad n .fine
  | .brPair, _ => .selector
  | .vDst, .v n => vBad vr n 1
  | .vDst, .imm _ | .vPairDst, .imm _ | .vQuad, .imm _ | .runDst _, .imm _ => .dest
  | .vDst, .lit | .vPairDst, .lit | .vQuad, .lit | .runDst _, .lit => if l then .dest else .literal
  | .vDst, _ => .selector
  | .vPairDst, .v n => evenBad n (vBad vr n 2)
  | .vPairDst, _ => .selector
  | .vQuad, .v n => if n.val % 4 == 0 then vBad vr n 4 else .selector
  | .vQuad, _ => .selector
  | .run k, .v n | .runDst k, .v n => vBad vr n k
  | .run _, _ | .runDst _, _ => .selector
  | .vSrc, .v n => vBad vr n 1
  | .vSrc, _ => .selector
  | .vQuadSrc, .v n => if n.val % 4 == 0 then vBad vr n 4 else .selector
  | .vQuadSrc, _ => .selector
  | .sReg, .s _ => .fine
  | .sReg, _ => .selector
  | .sPut, .s _ | .sPut, .imm _ => .fine
  | .sPut, .lit => litBad l
  | .sPut, _ => .selector
  | .lduDst32, .v n => vBad vr n 1
  | .lduDst32, .s _ | .lduDst32, .zr | .lduDst64, .zr => .fine
  | .lduDst32, .tix | .lduDst32, .imm _ | .lduDst64, .tix | .lduDst64, .imm _ => .dest
  | .lduDst32, .lit | .lduDst64, .lit => if l then .dest else .literal
  | .lduDst32, _ => .selector
  | .lduDst64, .v n => evenBad n (vBad vr n 2)
  | .lduDst64, .s n => evenBad n .fine
  | .lduDst64, _ => .selector
  | .uAb32, .v n => vBad vr n 1
  | .uAb32, .s _ | .uAb32, .zr | .uAb32, .imm _ | .uAb32, .q _ | .uAb32, .lr | .uAb32, .tix => .fine
  | .uAb32, .lit => litBad l
  | .uAb32, _ => .selector
  | .uAb64, .v n => evenBad n (vBad vr n 2)
  | .uAb64, .s n => evenBad n .fine
  | .uAb64, .zr | .uAb64, .imm _ => .fine
  | .uAb64, .lit => litBad l
  | .uAb64, _ => .selector

/-- Selector 0x000. -/
def Sel.isZero (s : Sel) : Bool := s == .v 0
/-- Selectors that name the literal. -/
def Sel.isLit (s : Sel) : Bool := s == .lit
/-- A field that can hold the literal as a source. -/
def Field.isSource : Field → Bool
  | .s32 | .s64 | .u32 | .u64 | .sPut | .uAb32 | .uAb64 => true
  | _ => false

/-- An unused field that is not 0x000. -/
def rsvField (f : Field) (s : Sel) : Bool := f == .unused && !Sel.isZero s

/-- Whether the guard rule of R148 applies: S on opcodes 0x00 to 0x48, or an s destination, which makes any instruction a warp-once one
(R149). -/
def warpOnceGuard (opc : BitVec 8) (x : LongOp) : Bool :=
  (opc.toNat ≤ 0x48 && x.w) || (match x.d with | .s _ => true | _ => false)

/-- What a warp's core and group decide about an encoding (R16, R143, R263). -/
structure Limits where
  curator : Bool
  vregs   : Nat
  tiles   : Nat
  deriving DecidableEq, Repr

/-- Limits under which no encoding is judged illegal for its warp's sake. -/
def Limits.widest : Limits := ⟨false, 192, 16⟩

/-- An opcode or channel that the curator core lacks (R16, R300). -/
def unitMissing (opc : BitVec 8) (x : LongOp) : Bool :=
  let op := opc.toNat
  (0xC0 ≤ op && op ≤ 0xC7) || op == 0xD3 || op == 0xD4 || op == 0xD5 || op == 0xD6 ||
  (op == 0xD0 && 2 ≤ x.fn2.toNat % 8)

/-- The reason for which a long or literal form is not an instruction (R180). -/
def longReason (lim : Limits) (opc : BitVec 8) (x : LongOp) : Option Nat :=
  if !opcAssigned opc.toNat then some rOPCODE else
  let r := rowOf opc x.fn x.fn2
  let l := x.lit.isSome
  let bads := [fieldBad r.d l lim.vregs lim.tiles x.d, fieldBad r.a l lim.vregs lim.tiles x.a,
               fieldBad r.b l lim.vregs lim.tiles x.b, fieldBad r.c l lim.vregs lim.tiles x.c]
  let names := (r.a.isSource && Sel.isLit x.a) || (r.b.isSource && Sel.isLit x.b) || (r.c.isSource && Sel.isLit x.c)
  let pt := x.g == ⟨false, 7⟩
  if lim.curator && unitMissing opc x then some rUNIT
  else if rsvField r.d x.d || rsvField r.a x.a || rsvField r.b x.b || rsvField r.c x.c || r.rsv then some rRESERVED
  else if !r.ok then some rFUNCTION
  else if bads.contains .selector then some rSELECTOR
  else if bads.contains .literal || (l && !names) then some rLITERAL
  else if bads.contains .dest then some rDEST
  else if bads.contains .vregs then some rVREGS
  else if (x.w && !r.sOk) || ((r.pt || warpOnceGuard opc x) && !pt) then some rSBIT
  else none

/-- The long equivalent of a short opcode: opcode, FN and FN2 for its SFN, whether it is binary, unary or takes
no operands (R178, R215). -/
inductive Shape2 where
  | none | unary | binary
  deriving DecidableEq, Repr

/-- A row of the short opcode table (R178). -/
structure ShortRow where
  opc : BitVec 8
  kind : Shape2
  /-- FN and FN2 by SFN. -/
  fns : List (BitVec 8 × BitVec 5)

/-- The short opcode table (R178). -/
def shortRow (sopc : BitVec 6) : Option ShortRow :=
  match sopc.toNat with
  | 0x00 => some ⟨0x78, .none, [(0x00, 0)]⟩
  | 0x01 => some ⟨0x0D, .unary, [(0xB0, 0)]⟩
  | 0x02 => some ⟨0x00, .binary, [(0x00, 0), (0x08, 0), (0x18, 0)]⟩
  | 0x03 => some ⟨0x01, .binary, [(0x00, 0), (0x08, 0), (0x18, 0)]⟩
  | 0x04 => some ⟨0x02, .binary, [(0x00, 0), (0x10, 0)]⟩
  | 0x05 => some ⟨0x05, .binary, [(0x00, 0), (0x10, 0)]⟩
  | 0x06 => some ⟨0x06, .binary, [(0x00, 0), (0x10, 0)]⟩
  | 0x07 => some ⟨0x08, .unary, [(0x00, 0), (0x08, 0)]⟩
  | 0x08 => some ⟨0x07, .unary, [(0x00, 0), (0x08, 0)]⟩
  | 0x09 => some ⟨0x10, .binary, [(0xB0, 0)]⟩
  | 0x0A => some ⟨0x11, .binary, [(0xB0, 0)]⟩
  | 0x0B => some ⟨0x12, .binary, [(0xB0, 0)]⟩
  | 0x0C => some ⟨0x14, .unary, [(0xB0, 0)]⟩
  | 0x0D => some ⟨0x15, .binary, [(0xB0, 0)]⟩
  | 0x0E => some ⟨0x16, .binary, [(0xB0, 0)]⟩
  | 0x0F => some ⟨0x17, .binary, [(0xB0, 0)]⟩
  | 0x10 => some ⟨0x1B, .unary, [(0xB0, 0)]⟩
  | 0x11 => some ⟨0x1C, .unary, [(0xB0, 0)]⟩
  | 0x12 => some ⟨0x1D, .unary, [(0xB0, 0)]⟩
  | 0x13 => some ⟨0x1E, .unary, [(0xB0, 0)]⟩
  | 0x14 => some ⟨0x20, .binary, [(0x80, 0), (0x81, 0), (0x82, 0), (0x83, 0)]⟩
  | 0x15 => some ⟨0x21, .binary, [(0x80, 0), (0x81, 0), (0x82, 0), (0x83, 0)]⟩
  | 0x16 => some ⟨0x22, .binary, [(0x80, 0), (0x81, 0), (0x82, 0), (0x83, 0)]⟩
  | 0x17 => some ⟨0x24, .binary, [(0x80, 0)]⟩
  | 0x18 => some ⟨0x25, .binary, [(0x80, 0)]⟩
  | 0x19 => some ⟨0x20, .binary, [(0x90, 0), (0xA0, 0)]⟩
  | 0x1A => some ⟨0x22, .binary, [(0x90, 0), (0xA0, 0)]⟩
  | 0x1B => some ⟨0x40, .unary, [(0x80, 0), (0x88, 0)]⟩
  | 0x1C => some ⟨0x41, .unary, [(0x80, 0), (0x88, 0)]⟩
  | 0x1D => some ⟨0x42, .unary, [(0x80, 0), (0x88, 0)]⟩
  | 0x1E => some ⟨0x43, .unary, [(0x80, 0), (0x88, 0)]⟩
  | 0x1F => some ⟨0x44, .unary, [(0x80, 0), (0x88, 0)]⟩
  | 0x20 => some ⟨0x45, .unary, [(0x80, 0), (0x88, 0)]⟩
  | 0x21 => some ⟨0x46, .unary, [(0x80, 0), (0x88, 0)]⟩
  | 0x22 => some ⟨0x47, .unary, [(0x80, 0), (0x88, 0)]⟩
  | 0x23 => some ⟨0x30, .unary, [(0x80, 0), (0x80, 1), (0x01, 8), (0x11, 8)]⟩
  | 0x24 => some ⟨0x75, .none, [(0x00, 0)]⟩
  | 0x25 => some ⟨0x76, .none, [(0x00, 0)]⟩
  | 0x26 => some ⟨0x73, .none, [(0x00, 0)]⟩
  | _ => none

/-- The long form of a short one (R178): S = 0 and SELC = 0x000. -/
def longOf (r : ShortRow) (x : ShortOp) (f : BitVec 8 × BitVec 5) : LongOp :=
  match r.kind with
  | .none => { g := x.g, w := false, d := .v 0, a := .v 0, b := .v 0, c := .v 0, fn := f.1, fn2 := f.2, lit := none }
  | .unary => { g := x.g, w := false, d := x.d, a := x.a, b := .v 0, c := .v 0, fn := f.1, fn2 := f.2, lit := none }
  | .binary => { g := x.g, w := false, d := x.d, a := x.d, b := x.a, c := .v 0, fn := f.1, fn2 := f.2, lit := none }

/-- The long form that a short form stands for: `sopc` is its short opcode. -/
def shortLong (sopc : BitVec 6) (x : ShortOp) : LongOp :=
  match shortRow sopc with
  | some r => longOf r x (r.fns.getD x.sfn.toNat (0, 0))
  | none => longOf ⟨0x78, .none, []⟩ x (0, 0)

/-- The reason for which a short form is not an instruction (R178, R180). -/
def shortReason (lim : Limits) (sopc : BitVec 6) (x : ShortOp) : Option Nat :=
  match shortRow sopc with
  | none => some rOPCODE
  | some r =>
    if r.kind == .none && !(Sel.isZero x.d && Sel.isZero x.a) then some rRESERVED
    else match r.fns[x.sfn.toNat]? with
      | none => some rFUNCTION
      | some f => longReason lim r.opc (longOf r x f)

end Sys2Proof.Machine
end

