-- ==== Sys2Proof/Machine/State.lean ====
section
/-!
DEFINITION. The state of the module as plain data, the reasons a step can stop, and the state after a cold reset.
-/
namespace Sys2Proof.Machine

/-- Sparse bytes: strictly rising addresses, no entry equal to what an unlisted address reads as. -/
abbrev Mem := List Host.Cell

/-! ### Registers and warps (R138, R141, R341, R393) -/

/-- A shape tag with its base and stride (R145). -/
inductive Shape where
  | general
  | uniform (base : Word)
  | affine (base stride : Word)
  deriving DecidableEq, Repr

/-- A v or q register or lr: the values of the 32 threads and the shape tag. -/
structure VReg where
  tag  : Shape
  vals : List Word
  deriving DecidableEq, Repr

/-- The classes of outstanding memory instructions (R109). -/
inductive Cls where
  | gld | gst | spm | none
  deriving DecidableEq, Repr

/-- The room that an instruction waits for before it can issue. -/
inductive Room where
  | count (c : Cls)                        -- in a count of outstanding instructions (R109)
  | held (ctr : Nat)                       -- the core still holds an add of the warp to a local counter (R304)
  | channel (n : Nat)                      -- in a copy channel (R119)
  | queues (l : List Nat)                  -- in other engine queues: 8 binning, 9 pooling, 10 the group's matrix queue
  | window                                 -- in the skew collector (R247)
  | frames                                 -- in the frame queue of the die (R387)
  | mailbox (die : Nat)                    -- in the mailbox of a die (R379)
  deriving DecidableEq, Repr

/-- What a blocked split waits for. `len` is the length of an instruction that completes when its wait ends, and `acq` the acquire that it
makes then, and whether at die scope or wider. -/
inductive Wait where
  | count (gld gst spm : Option Nat) (len : Nat)   -- WAITC (R360)
  | instr (iids : List Nat)                -- outstanding instructions, phase by phase
  | walk                                   -- translation or format reads of this instruction
  | localCtr (b : Nat) (val : DWord) (len : Nat) (acq : Option Bool)   -- CWAIT.l and BAR (R307)
  | answer (iid : Nat) (len : Nat) (acq : Option Bool)                 -- a global CWAIT, until home answers (R306)
  | batch (n : Nat)                        -- MWAIT, MBATCH (R258)
  | room (r : Room)                        -- the instruction tries again once there is room
  | mailbox                                -- MBXRD (R378)
  | sleep (until_ : Nat)                   -- SLEEP (R361)
  | raise                                  -- SETSYS sys.asgen until the raise completes (R81)
  | promote                                -- PROMOTE, LDACQ.rem acknowledgements (R293)
  | resumed                                -- issues again when the split next runs (R391)
  deriving DecidableEq, Repr

/-- STATE of a split (R341). -/
inductive SplitSt where
  | ready
  | running
  | blocked (w : Wait)
  | reconv (token : Nat)
  deriving DecidableEq, Repr

/-- A split: a program counter and a thread mask (R341). `phase` says how far a waiting instruction has come. -/
structure Split where
  pc    : Nat
  st    : SplitSt
  mask  : Mask
  rot   : Nat
  phase : Nat
  deriving DecidableEq, Repr

/-- What an instruction in progress takes of its lane: slot A alone or with the SFU port, or slot B alone, with the coalescer port
or with the engine port (R151, R154). -/
inductive Takes where
  | none | alu | sfu | once | mem | engine
  deriving DecidableEq, Repr

/-- The 64-byte instruction buffer of a warp (R138, R347). -/
structure IBuf where
  base  : Nat
  bytes : List Byte
  deriving DecidableEq, Repr

/-- The result of a walk that failed, kept for the instruction that waits for it (R73). -/
structure WalkFail where
  va     : Nat
  cls    : Nat
  reason : Nat
  aux    : DWord
  deriving DecidableEq, Repr

/-- Progress of BIN or ROUTE (R136, R393). -/
structure Progress where
  next  : Nat
  claim : Option Nat
  resid : Bool                  -- the claim is of a residual slot
  deriving DecidableEq, Repr

/-- A resident warp. -/
structure Warp where
  id       : WarpId
  /-- Group slot of its group (R30). -/
  grp      : Nat
  /-- Warp index within the group. -/
  widx     : Nat
  vregs    : Nat
  v        : List VReg
  q        : List VReg
  lr       : VReg
  s        : List Word
  /-- p0 to p6, bit t for thread t. -/
  p        : List Mask
  /-- k0 to k6. -/
  k        : BitVec 7
  exec     : Mask
  fflags   : BitVec 6
  splits   : List Split
  ibufs    : List IBuf
  /-- Block that the warp has asked for and not received. -/
  fetching : Option Nat
  gld      : Nat
  gst      : Nat
  spm      : Nat
  privbase : Nat
  wdlimit  : BitVec 16
  /-- Cycle from which the watchdog count of a waiting warp runs (R399). -/
  waitFrom : Option Nat
  progress : Option Progress
  fails    : List WalkFail
  /-- Cycle from which its next instruction may issue (R140). -/
  readyAt  : Nat
  /-- Held: by a trap, a swap-out, a pre-emption or a cohort placement (R374, R383). -/
  held     : Bool
  /-- FORK's counter that its retirement adds to (R377). -/
  joinCtr  : Option Nat
  /-- Cycle in which its instruction became ready: its age (R152). -/
  age      : Nat := 0
  /-- What its last issued instruction takes of its lane until `readyAt` (R151, R154). -/
  takes    : Takes := .none
  /-- Masks of the ready splits whose first block has been prefetched (R347). -/
  ahead    : List Mask := []
  /-- The last cycles before `readyAt` in which it takes nothing of its lane: a refill of its buffer (R347, R351). -/
  lag      : Nat := 0
  /-- Cycle of its creation, which tells it from an earlier warp with its index (R377, R450). -/
  born     : Nat := 0
  deriving DecidableEq, Repr

/-! ### Traps (R382 to R385) -/

/-- A trap record (R385). -/
structure TrapRec where
  cls      : Nat
  reason   : Nat
  thread   : Nat
  kind     : Nat
  deferred : Bool
  va       : Option Nat
  warp     : Nat
  lane     : Nat
  split    : Nat
  pc       : Nat
  aux      : DWord
  deriving DecidableEq, Repr

/-- A trap that is pending at a core, with what R384 chooses by; `skip` bytes of the trapping instruction are passed over
when it is delivered (R390: TRAP and BKPT). -/
structure PendTrap where
  slot : Nat
  age  : Nat
  trapRec : TrapRec
  skip : Nat := 0
  late : Bool := false          -- deferred, and to name the instruction at the boundary where it is raised (R385)
  since : Nat := 0              -- of a deferred one, the cycle of its event (R450)
  deriving DecidableEq, Repr

/-- Who issued an engine entry (R450). -/
structure Issuer where
  warp  : WarpId
  widx  : Nat
  split : Nat
  pc    : Nat
  age   : Nat
  deriving DecidableEq, Repr

/-! ### Requests in flight (R99 to R109) -/

/-- One thread's part of an access to one line: its thread, its byte offset in the thread's element, its place
and its bytes (those to store, or those that a load has received). -/
structure Piece where
  thread : Nat
  off    : Nat
  va     : Nat
  pa     : Nat
  len    : Nat
  data   : List Byte
  deriving DecidableEq, Repr

/-- Element types of atomics and register operations (R176). -/
inductive Ty where
  | s32 | u32 | s16x2 | u16x2 | s8x4 | u8x4 | s64 | u64 | f32 | f16x2 | bf16x2 | b32 | b64
  deriving DecidableEq, Repr

/-- The operation of an atomic (R294, R297, R304). -/
inductive AOp where
  | add | min | max | and | or | xor | exch
  | cas (cmp : DWord)
  | cadd
  deriving DecidableEq, Repr

/-- What a request asks for. -/
inductive ReqKind where
  | load | store | prefL1 | prefL2
  | atom (op : AOp) (ty : Ty) (operand : DWord) (returns : Bool)
  | cwait (val : DWord)
  | cread
  | cctl (inv : Bool)
  deriving DecidableEq, Repr

/-- How the pieces of a window become requests: one for each line, granule or bank row, or one for each piece (R101, R118). -/
inductive ReqShape where
  | line | granule | row | single
  deriving DecidableEq, Repr

/-- How far a request has come. In the first two stages it stands for one piece of one thread's access. -/
inductive Stage where
  | lane                        -- its access has not left its lane (R99)
  | window (n opened : Nat)     -- in the window that opened with request `n` in cycle `opened` (R100)
  | bank (since : Nat)          -- a scratchpad row that waits for its bank (R118)
  | waiting                     -- formed, waits for the instruction's other windows (R103)
  | probe (core : Nat)          -- peer probe to be answered (R95)
  | probed (line : Option (List Byte))   -- answer on its way: a copy of the line, or a refusal
  | fabric (pid : Nat)
  | joined (rid : Nat)          -- joined the pending fill of another request (R101)
  | monitor                     -- CWAIT holds a monitor at home (R307)
  | retry (cycle : Nat)         -- CWAIT told to retry
  | ready                       -- data captured
  deriving DecidableEq, Repr

/-- A request of a core (R101). -/
structure Req where
  rid    : Nat
  iid    : Nat
  core   : CoreId
  kind   : ReqKind
  spm    : Bool
  line   : Nat
  vaLine : Nat
  cp     : Nat
  ro     : Bool
  priv   : Bool
  noAlloc : Bool                -- .na, .by or LDG
  acq    : Bool                 -- an acquire read, or a store written through: home serves it
  seq    : Nat
  gran   : Option Nat           -- 16-byte granule form (R28)
  pieces : List Piece
  stage  : Stage
  wg     : Nat                  -- wing of the page (R29)
  acqBit : Bool                 -- carries ACQ = 1: never probes a peer, never merges (R84, R95, R97)
  stale  : Bool                 -- of a fill: its line may have changed since home served it, so nothing of it is kept
  kept   : List (Nat × Byte)    -- of a read: bytes of its line, by offset, that have left the L1 dirty since the read entered it
  deriving DecidableEq, Repr

/-- A page format entry (R76). -/
structure Fmt where
  blk   : Nat
  pol   : Nat
  bias  : Int
  sgn   : Nat
  eb    : Nat
  mb    : Nat
  dbase : Nat
  sbase : Nat
  deriving DecidableEq, Repr

/-- How the bytes of an outstanding load reach its destination. -/
inductive LdForm where
  | plain (n : Nat) (signed : Bool)
  | warpOnce (n : Nat) (signed : Bool)                      -- LDU
  | dec (fmts : List (Option Fmt)) (raw : Nat) (ne : Nat) (bf16 : Bool)   -- by thread: its page's format, or raw
  | atom (w : Nat)
  | cas (w : Nat) (pd : Nat)
  | none
  deriving DecidableEq, Repr

/-- An outstanding memory instruction (R109). -/
structure Outst where
  iid   : Nat
  warp  : WarpId
  grp   : Nat                   -- group slot and ASID of its warp's group (R30, R81)
  asid  : Nat
  cls   : Cls
  pc    : Nat
  split : Nat
  age   : Nat
  dst   : Sel
  form  : LdForm
  left  : Nat                   -- requests not yet finished
  got   : List Piece
  shape : ReqShape
  whole : Bool                  -- on the whole-instruction path (R102)
  pace  : Nat                   -- lane cycles that one access takes for its operands (R139)
  leaves : Nat                  -- cycle from which its next access may leave its lane
  deriving DecidableEq, Repr

/-- An operation the core holds until the release before it completes (R292, R304, R309). -/
inductive HeldOp where
  | reqs (iid : Nat)                                        -- stores or atomics formed and held
  | localAdd (ctr : Nat) (amt : DWord)                      -- BARSIG, CADD.l.rel
  deriving DecidableEq, Repr

/-- A held operation and the instructions that must leave their count first. -/
structure Held where
  slot  : Nat
  needs : List Nat
  wide  : Bool                  -- die scope or wider: the L1 is written back too
  who   : Issuer
  op    : HeldOp
  deriving DecidableEq, Repr

/-- A byte of an L1 line; `dirty` holds its release epoch (R105, R334). -/
structure L1Byte where
  val   : Byte
  valid : Bool
  dirty : Option Nat
  deriving DecidableEq, Repr

/-- An L1 line (R105). -/
structure L1Line where
  set   : Nat
  line  : Nat
  cp    : Nat
  ro    : Bool
  wg    : Nat
  priv  : Option WarpId
  bytes : List L1Byte
  deriving DecidableEq, Repr

/-- A combining-buffer entry (R110). -/
structure CombEntry where
  pa    : Nat
  width : Nat
  op    : AOp
  ty    : Ty
  val   : DWord
  cp    : Nat
  born  : Nat
  wg    : Nat                   -- wing of the page (R29)
  slot  : Nat                   -- group slot of the warp whose RED took the entry (R30)
  deriving DecidableEq, Repr

/-- A leaf of a page table with its page (R70). -/
structure Leaf where
  base : Nat                    -- PA of the page
  size : Nat
  wg   : Nat
  fmt  : Nat
  pool : Bool
  pin  : Bool
  cp   : Nat
  sys  : Bool
  x    : Bool
  ro   : Bool
  deriving DecidableEq, Repr

/-- An entry of a core's translation cache, tagged with (ASID, generation) (R72). -/
structure TlbEntry where
  asid : Nat
  gen  : Nat
  vpn  : Nat                    -- VA of the page
  leaf : Leaf
  deriving DecidableEq, Repr

/-- A cached pointer entry: it gives the table of a level for the addresses from `va` on (R72). -/
structure PtrEntry where
  asid  : Nat
  gen   : Nat
  level : Nat
  va    : Nat
  table : Nat
  deriving DecidableEq, Repr

/-- An entry of a core's format cache (R78); none marks an entry judged unusable. -/
structure FmtEntry where
  asid : Nat
  gen  : Nat
  idx  : Nat
  fmt  : Option Fmt
  deriving DecidableEq, Repr

/-- A walk in progress for a warp (R69, R71). -/
structure Walk where
  core  : CoreId
  warp  : WarpId
  asid  : Nat
  gen   : Nat
  va    : Nat
  level : Nat
  table : Nat
  ptrs  : List PtrEntry         -- the pointers that it has passed, cached once it succeeds (R72)
  deriving DecidableEq, Repr

/-- A format-table read in progress (R78). -/
structure FmtRead where
  warp : WarpId
  asid : Nat
  idx  : Nat
  deriving DecidableEq, Repr

/-! ### Engines (R119 to R137, R243 to R260) -/

/-- The counter that an engine entry names (R125). -/
inductive CtrRef where
  | none
  | loc (b : Nat)
  | glob (va : Nat)
  deriving DecidableEq, Repr

/-- A copy, BINPLAY or pooling entry: the command as read at issue and its progress (R394). -/
structure EngEntry where
  eid    : Nat
  slot   : Nat
  off    : Bool                 -- false k guard (R129)
  cmd    : List Byte
  hdr    : List Nat             -- arena header read at issue (R317): NREG, CAP, SHIFT
  done   : Nat                  -- bytes delivered, or bags done
  started : Bool
  stopped : Bool                -- stopped at a page that failed its checks (R126)
  trapT  : Bool                 -- EMBPOOL.t
  reject : Bool                 -- a bag was rejected under .t
  needs  : List Nat             -- the warp's memory instructions that it comes after (R127)
  who    : Issuer
  srcFmt : Option (Nat × Option Fmt) := none   -- under DEC, the format of its first source page once it has been read (R122)
  deriving DecidableEq, Repr

/-- An item of a copy, binning or pooling queue: an entry or a fence mark (R127, R128). -/
inductive QItem where
  | entry (e : EngEntry)
  | fence (fid : Nat)
  deriving DecidableEq, Repr

/-- A queue fence (R128). -/
structure Fence where
  fid  : Nat
  slot : Nat
  mask : BitVec 11
  ctr  : CtrRef
  amt  : Nat
  needs : List Nat
  who  : Issuer
  deriving DecidableEq, Repr

/-- An entry of a matrix queue (R245, R394): the opcode and fields of its instruction and its sources as read
at issue. -/
structure MxEntry where
  eid   : Nat
  opc   : BitVec 8
  x     : LongOp
  a     : DWord
  b     : DWord
  c     : DWord
  off   : Bool
  batch : Nat                   -- of a batch mark
  fence : Option Nat            -- a QFENCE mark
  fmts  : Option (List (Option Fmt))   -- its operands' formats as read at issue; none of a restored entry (R390)
  needs : List Nat
  stopped : Bool                -- stopped by a fault until its group resumes (R260)
  who   : Issuer
  deriving DecidableEq, Repr

/-- A row of the skew collector. `since` is the cycle in which its lane claimed it, or in which it was dropped. -/
structure SkewRow where
  lane    : Nat
  elems   : List Word
  claimed : Bool
  dropped : Bool
  done    : Bool                -- its row block has started
  since   : Nat
  deriving DecidableEq, Repr

/-- A window of the skew collector (R247), kept until its entry has been performed. `bytes` are those of operand B that the engine has
read from the scratchpad so far: `data` bytes of its elements, then `scales` of its scale tiles (R250). -/
structure Window where
  eid    : Nat
  slot   : Nat
  x      : LongOp
  mask   : DWord
  b      : DWord
  data   : Nat
  scales : Nat
  bytes  : List Byte
  rows   : List SkewRow
  opened : Nat
  closed : Bool
  deriving DecidableEq, Repr

/-- A 64 x 64 accumulator tile, row by row (R243). -/
abbrev Tile := List (List Word)

/-- A product, a row block or a move that a matrix engine has begun, with the tile rows that it will write; it holds the engine, or an
eighth of it, until 12 cycles before (R246, R250). -/
structure MxRun where
  slot    : Nat
  eid     : Nat
  tile    : Nat
  rows    : List (Nat × List Word)
  writeAt : Nat
  streaming : Bool
  deriving DecidableEq, Repr

/-- A bag that the pooling queue has taken up (R53). -/
structure Bag where
  idx     : List Nat
  weights : List Word
  rows    : List (Nat × Nat × Nat)   -- by index: the row's view buffer, virtual and physical address
  fmt     : Option Fmt               -- of its segment's pages (R54)
  scales  : List (Nat × Nat)         -- 2 MiB blocks of its scale region: virtual and physical address
  views   : List Nat            -- participating view buffers not yet read
  parts   : List (Nat × List Word)
  inv     : Bool
  ovf     : Bool
  uncorr  : Option DWord        -- AUX of an uncorrectable error met by a row read (R61)
  deriving DecidableEq, Repr

/-! ### Groups and cores (R340, R372, R392) -/

/-- Where a group is in its life. -/
inductive Phase where
  | running
  | cohort                      -- created, held in placement (R374)
  | held (cause : Nat)          -- chosen for swap-out (R383, R391)
  | frameWait (cause : Nat)     -- no frame (R387)
  | stuck (cause : Nat)         -- its context could not be written (R400)
  | swapped (frame : Nat) (cause : Nat)
  deriving DecidableEq, Repr

/-- WARPS, VREGS, TILES, COUNTERS, SPM and PRIV of a group (R365); `warps` counts them. -/
structure Res where
  warps    : Nat
  vregs    : Nat
  tiles    : Nat
  counters : Nat
  spm      : Nat
  priv     : Nat
  deriving DecidableEq, Repr

/-- What the machine keeps of an engine entry that a context image has no field for (log 31). -/
structure Side where
  window : Option Window        -- of an MMAL window that stands behind a stopped entry (R251)
  srcFmt : Option (Nat × Option Fmt)   -- of a copy under DEC (R122)
  off    : Bool
  done   : Nat                  -- of a BINPLAY entry: performed but for its add (R125)
  hdr    : List Nat
  trapT  : Bool
  reject : Bool
  fence  : Option Nat
  batch  : Nat
  who    : Issuer
  deriving DecidableEq, Repr

/-- What the machine keeps of a swapped group's warp that a context image has no field for (log 31). -/
structure WarpSide where
  widx   : Nat
  join   : Option Nat           -- its FORK counter
  resid  : Bool                 -- its claim is of a residual slot (R136)
  mwait  : Option (Nat × Nat)   -- the list position of its split that waits at MWAIT, and its batch (R274)
  born   : Nat                  -- cycle of its creation (R450)
  deriving DecidableEq, Repr

/-- A group. -/
structure Group where
  core      : CoreId
  slot      : Nat
  wing      : Nat
  asid      : Nat
  cat       : Nat
  node      : Nat
  gidx      : Nat
  ngroups   : Nat
  res       : Res
  privva    : Nat
  /-- First byte of its scratchpad allocation (R117). -/
  spmBase   : Nat
  tiles     : List Tile
  ctrs      : List DWord
  wptr      : List DWord
  nextb     : Nat
  batchDone : BitVec 16
  mxq       : List MxEntry
  phase     : Phase
  trap      : TrapRec
  /-- sys.trapinfo (R397). -/
  trapinfo  : DWord
  preempt   : Option Nat        -- cause of a pending pre-emption (R391)
  deferred  : List PendTrap     -- deferred traps to be raised (R382, R450)
  /-- Warp slots reserved to a swapped group (R388). -/
  reserved  : List WarpId
  /-- PARAMS and ENTRY of its packet (R371). -/
  params    : List Word
  entry     : Nat
  /-- Of a swapped group: what its warp records and its engine records do not hold. -/
  keeps     : List WarpSide
  saved     : List Side
  deriving DecidableEq, Repr

/-- Whether a domain runs (R15, R418, R421, R422). -/
inductive Domain where
  | running | reset | fenced
  deriving DecidableEq, Repr

/-- The stop of a core (R383). -/
inductive Stop where
  | none
  | stopping (since : Nat) (traps : List PendTrap)   -- `since`: the cycle of the first trap
  | resuming (at_ : Nat)
  deriving DecidableEq, Repr

/-- A PROMOTE in progress (R293). -/
structure Promote where
  warp : WarpId
  left : List CoreId
  deriving DecidableEq, Repr

/-- A core (R16); core 16 of a die is its curator core. -/
structure Core where
  id       : CoreId
  fenced   : Bool
  stop     : Stop
  place    : Nat                -- placement pointer (R372)
  /-- Lane of each quad that its coalescer, SFU and engine port granted last (R99, R154). -/
  ports    : List (Nat × Nat × Nat)
  spm      : Mem                -- scratchpad (R117)
  busyBanks : List Nat          -- scratchpad banks that engines have used in this lane cycle (R118)
  granted   : List Nat          -- quads whose engine port has taken an operation in this lane cycle (R154)
  bankTurn : List Nat           -- quad that each of the 32 banks granted last (R118)
  l1       : List L1Line
  epoch    : Nat                -- current release epoch (R334)
  tlb      : List TlbEntry
  fmts     : List FmtEntry
  fmtReads : List FmtRead
  gens     : List (Nat × Nat)   -- generation held for each ASID (R80)
  predict  : List (Nat × Nat)   -- peer prediction table (R95)
  seq      : Nat                -- store-sequence tag (R98)
  comb     : List CombEntry
  outst    : List Outst
  reqs     : List Req
  heldOps  : List Held
  promotes : List Promote
  chans    : List (List QItem)
  binq     : List QItem
  poolq    : List QItem
  bag      : Option Bag
  fences   : List Fence
  windows  : List Window
  runs     : List MxRun         -- whose tile rows have not been written
  turn     : Nat                -- group slot the matrix engine served last (R245)
  notices  : List (List Byte)   -- KIND 3 notices waiting (R371)
  deriving DecidableEq, Repr

/-- A compute die. -/
structure Die where
  id       : Nat
  coreDom  : Domain
  uncore   : Domain
  zeroing  : Bool
  mailbox  : List (List Byte)   -- packets of 64 bytes, oldest first (R371)
  inbound  : List (List Byte)   -- packets of KIND 2 and KIND 4 on their way to it
  frames   : List Nat           -- frame queue (R387)
  walks    : List Walk
  ptrs     : List PtrEntry      -- pointer entries that the walkers have cached (R72)
  curatorLoaded : Bool
  mailboxRead : Bool            -- the curator warp has read it once (R416)
  clockStep : Nat               -- 0 is 1.3 GHz (R423)
  deriving DecidableEq, Repr

/-! ### Memory side (R24 to R65, R94 to R98) -/

/-- A line of a home L2 slice: the validity and dirtiness of its eight granules, and the last-reader hint. -/
structure L2Line where
  line  : Nat
  home  : Nat                   -- die
  valid : List Bool
  dirty : List Bool
  data  : List Byte
  hint  : Option Nat
  wg    : Nat                   -- wing of the page that filled it (R29)
  deriving DecidableEq, Repr

/-- A request queued at a stack or buffer controller (R29, R48). -/
structure MemReq where
  src   : Nat
  slot  : Nat                   -- 0xFFF untagged
  kind  : Nat                   -- 0 read, 1 full write, 2 masked write
  gran  : Option Nat
  sectors : BitVec 4
  wg    : Nat
  line  : Nat
  bytes : List (Nat × Byte)     -- a write's bytes, by offset in the line
  ack   : Option Nat            -- the packet it serves
  deriving DecidableEq, Repr

/-- A turn of a channel scheduler: group key and accesses served (R32). -/
structure Turn where
  src   : Nat
  slot  : Nat
  count : Nat
  deriving DecidableEq, Repr

/-- A channel of a stack (R26, R32). -/
structure Channel where
  queue : List MemReq
  turn  : Option Turn
  deriving DecidableEq, Repr

/-- An HBM4 stack's controllers (R24 to R43). -/
structure Stack where
  id        : Nat               -- die whose home memory it is
  trained   : Bool
  fenced    : Bool
  zeroing   : Bool
  scrubHours : BitVec 8
  fastAll   : Bool
  temp      : Nat
  halved    : Bool
  overflow  : Bool
  filterFull : Bool
  corrected : Nat
  uncorrected : Nat
  hourErrs  : List Nat          -- cycles of the uncorrectable errors of the last hour (R422)
  f32       : List (Nat × Nat × Nat)   -- set bits of the banks' refresh filters: channel, bank, bit (R35)
  f64       : List (Nat × Nat × Nat)
  maint     : Option Nat        -- the maintenance slot in which its channels hold demand accesses back (R34)
  scrubAt   : Nat               -- next granule offset of the patrol scrubber (R39)
  refreshes : Nat               -- refresh rounds made
  chans     : List Channel
  deriving DecidableEq, Repr

/-- A damson buffer (R21, R44 to R50). -/
structure Buffer where
  id        : Nat
  trained   : Bool
  fenced    : Bool
  zeroing   : Bool
  corrected : Nat
  uncorrected : Nat
  hourErrs  : List Nat
  scrubAt   : Nat
  refreshes : Nat
  queue     : List MemReq
  deriving DecidableEq, Repr

/-- Where a packet stands (R85, R90). -/
inductive Loc where
  | mesh (die : Nat) (router : Nat)
  | edge                        -- at its die's vertical port, for a buffer in the tile beneath (R91)
  | tile (n : Nat)              -- n = 5 x row + column of the grid (R90)
  | home                        -- ejected at its destination
  deriving DecidableEq, Repr

/-- A packet of a request or of its response (R83, R84). -/
structure Packet where
  pid    : Nat
  core   : CoreId
  rid    : Nat
  resp   : Bool
  sys    : Bool                 -- of class SYS: home-bypass traffic (R83)
  wing   : Nat
  smask  : BitVec 4             -- sectors that it asks for, of merged readers too (R84, R97)
  via    : Nat                  -- the tile from which it came to its tile, itself for the vertical port (R91)
  arrived : Nat                 -- its place in the order of arrivals at homes (R296)
  due    : Nat := 0             -- the cycle before which it cannot have come to another die (R339)
  loc    : Loc
  die    : Nat                  -- destination die
  router : Nat                  -- destination router
  merged : List (CoreId × Nat)  -- further readers (R97)
  waiting : Bool                -- at home, waits for memory
  fault  : Bool                 -- the read was uncorrectable (R42)
  data   : List Byte            -- the line as a response carries it
  value  : DWord                -- an atomic's old value or a counter's value
  ok     : Bool                 -- ATOMCAS succeeded, or CWAIT's condition holds
  hint   : Option Nat           -- last reader that a response carries (R95)
  deriving DecidableEq, Repr

/-- A monitor of a home slice (R307). -/
structure Monitor where
  pa   : Nat
  val  : DWord
  pid  : Nat
  deriving DecidableEq, Repr

/-! ### Launch (R364 to R374) -/

/-- A node of a stored catalogue (R365). -/
structure Node where
  entry  : Nat
  id     : Nat
  asid   : Nat
  groups : Nat
  cohort : Bool
  dies   : BitVec 9
  res    : Res
  privva : Nat
  params : List Word
  deriving DecidableEq, Repr

/-- A patch slot (R365). -/
structure Slot where
  node   : Nat
  offset : Nat
  wide   : Bool
  deriving DecidableEq, Repr

/-- How far a node of a replay has come (R370). -/
structure NodeRun where
  id         : Nat
  dispatched : Bool
  sent       : Nat              -- packets sent
  created    : Nat              -- groups created
  ended      : Nat
  released   : Bool             -- a cohort's groups have been released (R374)
  dieList    : List Nat
  deriving DecidableEq, Repr

/-- A running replay (R370). -/
structure Replay where
  seq    : Nat
  nodes  : List Node            -- with the parameters copied at the start
  runs   : List NodeRun
  refused : Option (Nat × Nat)  -- status and node, once sending has stopped
  deriving DecidableEq, Repr

/-- A stored catalogue (R364). -/
structure Catalogue where
  handle  : Nat
  wing    : Nat
  imageva : Nat
  donectr : Nat
  doneasid : Nat
  nodes   : List Node
  edges   : List (Nat × Nat)
  slots   : List Slot
  queued  : List Nat            -- SEQs of queued kicks
  replay  : Option Replay
  deriving DecidableEq, Repr

/-- An end that a core has reported to a catalogue unit (R370, R371). -/
structure EndReport where
  unit   : Nat
  wing   : Nat
  cat    : Nat
  node   : Nat
  killed : Bool
  deriving DecidableEq, Repr

/-! ### Wings, keys, RoCEv2 and the docent (R402 to R425) -/

/-- STATE of a wing (R402). -/
inductive WingSt where
  | free | active | quiesced | revoked
  deriving DecidableEq, Repr

/-- STATE of a key slot (R412). -/
inductive KeySt where
  | empty | loaded | zeroising
  deriving DecidableEq, Repr

/-- What a security unit holds of a key slot (R412). -/
structure KeySlot where
  st     : KeySt
  retain : Bool
  pair   : Option (Nat × Nat)
  deriving DecidableEq, Repr

/-- A wing: its table entry, key slot, kick register, sequence numbers and queue of error reports. -/
structure Wing where
  id       : Nat
  st       : WingSt
  catUnit  : Bool
  bufs     : BitVec 8
  ports    : BitVec 16
  dies     : BitVec 9
  quiescing : Bool
  revoking : Option (Nat × Nat) -- sender and SEQ of the KEYREVOKE being performed
  keySt    : KeySt
  keyMirror : KeySlot           -- the slot as the other security unit holds it (R19)
  retain   : Bool
  pair     : Option (Nat × Nat)
  pairsSeen : List (Nat × Nat)  -- key pairs this wing has had, oldest first
  control  : Option Nat
  wrapping : Option Nat
  kickSeq  : Nat
  kickReg  : List Byte          -- kick register: the kick frame last written (R368)
  inSeq    : Nat
  outSeq   : Nat
  dropped  : Nat                -- CCP messages dropped (R418)
  reports  : List (List Nat)    -- error reports not yet sent
  lost     : Nat
  deriving DecidableEq, Repr

/-- A registered memory region (R407). -/
structure Region where
  rkey    : Nat
  wing    : Nat
  asid    : Nat
  va      : Nat
  len     : Nat
  readOk  : Bool
  writeOk : Bool
  cntVa   : Option Nat
  deriving DecidableEq, Repr

/-- A descriptor that a queue pair has taken and not completed: its operation, local address and length, and the status with which it
completes, where that is known already (R408). -/
structure SendDesc where
  op     : Nat
  lva    : Nat
  len    : Nat
  status : Option Nat
  deriving DecidableEq, Repr

/-- An incoming WRITE being placed: its region, the bytes yet to be placed, and the immediate (R407). -/
structure Placing where
  region : Region
  va     : Nat
  len    : Nat
  data   : List Byte
  imm    : Option Word
  deriving DecidableEq, Repr

/-- A queue pair (R406, R408). -/
structure Qp where
  qpn      : Nat
  wing     : Nat
  body     : QpBody
  taken    : Nat                -- descriptors taken
  completed : Nat
  rxPsn    : Nat
  rate     : Nat                -- DCQCN rate, in 1/256 of the line rate
  sent     : List SendDesc      -- descriptors taken and not completed, in ring order
  writes   : List Placing       -- incoming WRITEs not wholly placed, in PSN order
  deriving DecidableEq, Repr

/-- A port (R401). -/
structure Port where
  id      : Nat
  up      : Bool
  dropped : Nat
  deriving DecidableEq, Repr

/-- What the module sends through its ports, most recent first; a reply leaves by the port that its request came by. -/
inductive Out where
  | reply (wing seq code : Nat) (body : List Nat)
  | done (wing ccpSeq seq status node : Nat)
  | errrep (wing ccpSeq lost : Nat) (body : List Nat)
  | roceAck (qp : Nat) (data : List Byte)
  | roceNak (qp : Nat)
  | roceSend (qp op rva rkey imm len : Nat) (data : List Byte)
  deriving DecidableEq, Repr

/-- A running firmware image and the one that the next reset installs (R424). -/
structure Firmware where
  hash     : Nat
  version  : Nat
  rollback : Nat
  next     : Option FwImage
  deriving DecidableEq, Repr

/-- A generation raise in progress (R81). -/
structure Raise where
  asid    : Nat
  gen     : Nat
  wrapped : Bool
  left    : List CoreId         -- receivers that have not acknowledged
  older   : List (CoreId × Nat) -- requests translated under an older generation
  combs   : List (CoreId × Nat) -- cores that have acknowledged, each with the cycle: what their combining buffers held then is older
  warp    : Option WarpId
  ccp     : Option (Nat × Nat)  -- wing and SEQ of a GENRAISE
  deriving DecidableEq, Repr

/-- The docent and the I/O dies (R17 to R20, R416 to R424). -/
structure Docent where
  stage     : Nat
  socket    : Nat
  keySocket : Nat               -- of the security unit that holds the key slots; the other holds their mirror (R17, R18)
  warmLast  : Bool
  trained   : Bool              -- memory PHYs retrained (R420)
  descBase  : Nat               -- physical base of the ASID descriptors (R68)
  powerCap  : Nat               -- milliwatts
  opKey     : Nat               -- operator control key, of the one-time store (R417)
  ccpTurn   : Nat               -- sender of the message served last (R409)
  opIn      : Nat
  opOut     : Nat
  opDropped : Nat
  opReports : List (List Nat)
  opLost    : Nat
  wheel     : List (BitVec 8)   -- written owner entries of the 64 slots (R92)
  wheelNext : Option (List (BitVec 8))
  wheelSlot : Nat
  fwDocent  : Firmware
  fwCurator : Firmware
  fwBuffer  : Firmware
  deriving DecidableEq, Repr

/-- The state of the module. -/
structure State where
  /-- Lane cycles since the cold reset; TIME is clk x 10 div 13 (R3, R398). -/
  clk     : Nat
  /-- Events that the outside world and the unmodelled timing present next (log 1). -/
  agenda  : List Instr
  /-- The warp slot whose instruction is executed. -/
  cur     : WarpId
  /-- Counter of free values (log 3). -/
  free    : Nat
  /-- The granules whose reads for a walk, a descriptor or a format entry meet an uncorrectable error in this cycle, each with its
  syndrome (R73; which ones is free, log 3). -/
  tableErrs : List (Nat × BitVec 16)
  /-- Names given to requests, instructions, packets and entries. -/
  names   : Nat
  mem     : Mem
  l2      : List L2Line
  monitors : List Monitor
  packets : List Packet
  hbms    : List Stack
  buffers : List Buffer
  dies    : List Die
  cores   : List Core
  groups  : List Group
  warps   : List Warp
  cats    : List Catalogue
  ends    : List EndReport
  wings   : List Wing
  regions : List Region
  qps     : List Qp
  ports   : List Port
  raises  : List Raise
  docent  : Docent
  out     : List Out
  deriving DecidableEq, Repr

/-- Why a step stops with a fault. -/
inductive Fault where
  /-- `exec` was asked to issue an instruction while no warp stands in the slot `cur`. Raised by the issue
  operation only; `step` selects a resident warp first. Safe. -/
  | noWarp
  deriving DecidableEq, Repr

/-- Why a step refuses. -/
inductive Refusal where
  /-- An instruction without a meaning yet. Raised by `exec` only. Safe. -/
  | notModelled (mnemonic : String)
  deriving DecidableEq, Repr

/-! ### After a cold reset -/

/-- A register of 32 equal threads, tagged uniform (R141). -/
def VReg.uniform (x : Word) : VReg := ⟨.uniform x, List.replicate 32 x⟩

/-- The record of a core before any trap (R385). -/
def TrapRec.zero : TrapRec := ⟨0, 0, 0, 0, false, none, 0, 0, 0, 0, 0⟩

/-- A core after a cold reset (R99, R372). -/
def Core.reset (id : CoreId) : Core where
  id := id
  fenced := false
  stop := .none
  place := 0
  ports := List.replicate 16 (3, 3, 3)
  spm := []
  busyBanks := []
  granted := []
  bankTurn := List.replicate 32 15
  l1 := []
  epoch := 0
  tlb := []
  fmts := []
  fmtReads := []
  gens := []
  predict := []
  seq := 0
  comb := []
  outst := []
  reqs := []
  heldOps := []
  promotes := []
  chans := List.replicate 8 []
  binq := []
  poolq := []
  bag := none
  fences := []
  windows := []
  runs := []
  turn := 0
  notices := []

/-- A die after a cold reset: its curator program is loaded at Stage 2. -/
def Die.reset (id : Nat) : Die where
  id := id
  coreDom := .running
  uncore := .running
  zeroing := false
  mailbox := []
  inbound := []
  frames := []
  walks := []
  ptrs := []
  curatorLoaded := false
  mailboxRead := false
  clockStep := 0

/-- A stack after a cold reset (R43): SCRUB_HOURS 24, everything else 0. -/
def Stack.reset (id : Nat) : Stack where
  id := id
  trained := false
  fenced := false
  zeroing := false
  scrubHours := 24
  fastAll := false
  temp := 0
  halved := false
  overflow := false
  filterFull := false
  corrected := 0
  uncorrected := 0
  hourErrs := []
  f32 := []
  f64 := []
  maint := none
  scrubAt := 0
  refreshes := 0
  chans := List.replicate 32 ⟨[], none⟩

/-- A damson buffer after a cold reset. -/
def Buffer.reset (id : Nat) : Buffer :=
  ⟨id, false, false, false, 0, 0, [], 0, 0, []⟩

/-- A wing after a cold reset: free, with an empty key slot (R402, R410, R412). -/
def Wing.reset (id : Nat) : Wing where
  id := id
  st := .free
  catUnit := false
  bufs := 0
  ports := 0
  dies := 0
  quiescing := false
  revoking := none
  keySt := .empty
  keyMirror := ⟨.empty, false, none⟩
  retain := false
  pair := none
  pairsSeen := []
  control := none
  wrapping := none
  kickSeq := 0
  kickReg := []
  inSeq := 0
  outSeq := 0
  dropped := 0
  reports := []
  lost := 0

/-- A firmware image as shipped (log 9). -/
def Firmware.reset : Firmware := ⟨0, 0, 0, none⟩

/-- The docent at Stage 0 (R18, R92, R416). -/
def Docent.reset : Docent where
  stage := 0
  socket := 18
  keySocket := 18
  warmLast := false
  trained := false
  descBase := 0x090000000000
  powerCap := 1800000
  opKey := 0
  ccpTurn := 15
  opIn := 0
  opOut := 0
  opDropped := 0
  opReports := []
  opLost := 0
  wheel := List.replicate 64 0
  wheelNext := none
  wheelSlot := 0
  fwDocent := .reset
  fwCurator := .reset
  fwBuffer := .reset

/-- The 17 cores of a die. -/
def coresOf (d : Nat) : List Core := (List.range 17).map fun c => Core.reset ⟨d, c⟩

/-- The module right after a cold reset, at Stage 0 (R5, R416). -/
def State.reset : State where
  clk := 0
  agenda := []
  cur := ⟨0, 0, 0, 0⟩
  free := 0
  tableErrs := []
  names := 1
  mem := []
  l2 := []
  monitors := []
  packets := []
  hbms := (List.range 9).map Stack.reset
  buffers := (List.range 8).map Buffer.reset
  dies := (List.range 9).map Die.reset
  cores := (List.range 9).flatMap coresOf
  groups := []
  warps := []
  cats := []
  ends := []
  wings := (List.range 15).map Wing.reset
  regions := []
  qps := []
  ports := (List.range 16).map fun p => ⟨p, true, 0⟩
  raises := []
  docent := .reset
  out := []

end Sys2Proof.Machine
end

