-- ==== Sys2Proof/Machine/Flags.lean ====
section
/-!
DEFINITION. The sticky flags of sys.fflags (R161), the values of packed elements (R155, R192), integer saturation
(R156) and the two's-complement readings that every chapter shares.
-/
namespace Sys2Proof.Machine

/-- The flags that one thread-operation raises, in the layout of sys.fflags (R161). -/
abbrev Flags := BitVec 6

def flNX : Flags := 0b000001
def flUF : Flags := 0b000010
def flOF : Flags := 0b000100
def flDZ : Flags := 0b001000
def flNV : Flags := 0b010000
def flSI : Flags := 0b100000

/-- A flag under a condition. -/
def flagIf (b : Bool) (f : Flags) : Flags := if b then f else 0

/-- Bits <lo+w-1:lo> of a number. -/
def bitsN (x lo w : Nat) : Nat := x / 2 ^ lo % 2 ^ w

/-- One bit of a number. -/
def bitN (x i : Nat) : Bool := x / 2 ^ i % 2 == 1

/-- `sext(x, n)` of R7. -/
def sextN (x n : Nat) : Int :=
  let y := x % 2 ^ n
  if n != 0 && 2 ^ (n - 1) ≤ y then (y : Int) - (2 ^ n : Nat) else y

/-- An exact integer reduced to `n` bits. -/
def wrapN (n : Nat) (z : Int) : Nat := (z % ((2 ^ n : Nat) : Int)).toNat

/-- Floor of the logarithm to the base 2 of a non-zero number. -/
def log2N (n : Nat) : Nat := Nat.log2 n

/-- Signed TYPE codes (R176). -/
def tySigned (t : Nat) : Bool := t == 0 || t == 2 || t == 4 || t == 6
/-- `ne(T)` of R192. -/
def neT (t : Nat) : Nat := if t == 2 || t == 3 || t == 9 || t == 10 then 2 else if t == 4 || t == 5 then 4 else 1
/-- `ew(T)` of R192. -/
def ewT (t : Nat) : Nat :=
  if t == 2 || t == 3 || t == 9 || t == 10 then 16 else if t == 4 || t == 5 then 8 else if ty64 t then 64 else 32
/-- Packed TYPE codes (R155, R157). -/
def tyPacked (t : Nat) : Bool := (2 ≤ t && t ≤ 5) || t == 9 || t == 10

/-- `el(x, i, T)` of R192. -/
def el (t : Nat) (x : Nat) (i : Nat) : Int :=
  let w := ewT t
  let e := bitsN x (w * i) w
  if tySigned t then sextN e w else e
/-- `lo(T)` and `hi(T)` of R192. -/
def loT (t : Nat) : Int := if tySigned t then -((2 ^ (ewT t - 1) : Nat) : Int) else 0
def hiT (t : Nat) : Int := if tySigned t then ((2 ^ (ewT t - 1) : Nat) : Int) - 1 else ((2 ^ ewT t : Nat) : Int) - 1

/-- `sat(x, lo, hi)` of R7. -/
def satI (z lo hi : Int) : Int := if z < lo then lo else if hi < z then hi else z

/-- `put(z, T)` of R192 with the SI flag. -/
def putT (sat : Bool) (t : Nat) (z : Int) : Int × Flags :=
  if sat then
    let c := satI z (loT t) (hiT t)
    (c, flagIf (c != z) flSI)
  else (z, 0)

/-- Results of elements 0 to n - 1 placed at their width, with their flags ORed. -/
def packEls (w : Nat) : List (Nat × Flags) → Nat × Flags
  | [] => (0, 0)
  | (e, fl) :: es =>
    let r := packEls w es
    (e % 2 ^ w + 2 ^ w * r.1, fl ||| r.2)

/-- OR of a list of flags. -/
def orFlags (l : List Flags) : Flags := l.foldl (fun a b => a ||| b) 0

/-- A mask from a test on thread numbers. -/
def maskOf (f : Nat → Bool) : Mask :=
  BitVec.ofNat 32 (((List.range 32).filter f).foldl (fun a t => a + 2 ^ t) 0)
/-- Threads of a mask, ascending. -/
def threadsOf (m : Mask) : List Nat := (List.range 32).filter m.getLsbD
/-- Number of threads of a mask. -/
def countOf (m : Mask) : Nat := (threadsOf m).length
/-- Lowest thread of a mask (0 of an empty one). -/
def lowestOf (m : Mask) : Nat := (threadsOf m).headD 0

end Sys2Proof.Machine
end

