-- ==== Sys2Proof/Machine/Operands.lean ====
section
/-!
DEFINITION. Reading and writing a warp's registers: operand values (R173 to R175), predicates and guards (R177, R190),
shape tags (R145, R146), last result (R144), and the issue of one ALU instruction over its threads (R147 to R149).
-/
namespace Sys2Proof.Machine

/-! ### Registers -/

/-- Thread t's value of a register. -/
def VReg.get (r : VReg) (t : Nat) : Word := r.vals.getD t 0

/-- A uniform tag's base is the value that thread 0 holds. -/
def Shape.based (sh : Shape) (v0 : Word) : Shape :=
  match sh with
  | .uniform _ => .uniform v0
  | other => other

/-- A register after the threads of `m` have written `f` and its tag has become `sh`. -/
def VReg.write (r : VReg) (m : Mask) (sh : Shape) (f : Nat → Word) : VReg :=
  ⟨sh.based (f 0), (List.range 32).map fun t => if m.getLsbD t then f t else r.get t⟩

def Warp.getV (w : Warp) (n : Nat) : VReg := w.v.getD n (VReg.uniform 0)
def Warp.setV (w : Warp) (n : Nat) (r : VReg) : Warp := { w with v := w.v.set n r }
def Warp.getQ (w : Warp) (n : Nat) : VReg := w.q.getD n (VReg.uniform 0)
def Warp.setQ (w : Warp) (n : Nat) (r : VReg) : Warp := { w with q := w.q.set n r }
def Warp.setLr (w : Warp) (r : VReg) : Warp := { w with lr := r }
def Warp.getS (w : Warp) (n : Nat) : Word := w.s.getD n 0
def Warp.setS (w : Warp) (n : Nat) (x : Word) : Warp := { w with s := w.s.set n x }
/-- A uniform pair sd (R141). -/
def Warp.getSd (w : Warp) (n : Nat) : DWord := DWord.ofWords (w.getS n) (w.getS (n + 1))
def Warp.setSd (w : Warp) (n : Nat) (x : DWord) : Warp := (w.setS n x.lo).setS (n + 1) x.hi

/-- Predicate n of every thread; 7 is pt (R141). -/
def Warp.getP (w : Warp) (n : Nat) : Mask := if n == 7 then BitVec.allOnes 32 else w.p.getD n 0
/-- A write of a predicate in the threads of `m`; a write to pt is discarded (R144). -/
def Warp.setP (w : Warp) (n : Nat) (m : Mask) (x : Mask) : Warp :=
  if n == 7 then w else { w with p := w.p.set n ((w.getP n &&& ~~~m) ||| (x &&& m)) }
/-- Tile predicate n; 7 is kt. -/
def Warp.getK (w : Warp) (n : Nat) : Bool := n == 7 || w.k.getLsbD n
def Warp.setK (w : Warp) (n : Nat) (b : Bool) : Warp :=
  if n == 7 then w
  else { w with k := if b then w.k ||| ((1 : BitVec 7) <<< n) else w.k &&& ~~~((1 : BitVec 7) <<< n) }

/-- The flags of completed thread-operations (R162). -/
def Warp.orFlags (w : Warp) (f : Flags) : Warp := { w with fflags := w.fflags ||| f }

/-! ### Splits and active threads -/

/-- The running split. -/
def Warp.running (w : Warp) : Option Split := w.splits.find? fun p => p.st == .running
/-- Its list position. -/
def Warp.runPos (w : Warp) : Nat := w.splits.findIdx fun p => p.st == .running
/-- The running split changed. -/
def Warp.modRunning (w : Warp) (f : Split → Split) : Warp :=
  { w with splits := w.splits.map fun p => if p.st == .running then f p else p }
/-- Mask of the running split. -/
def Warp.splitMask (w : Warp) : Mask := ((w.running).map (·.mask)).getD 0
/-- Address of the instruction that the running split is at. -/
def Warp.pc (w : Warp) : Nat := ((w.running).map (·.pc)).getD 0
/-- How far the running split's instruction has come. -/
def Warp.phase (w : Warp) : Nat := ((w.running).map (·.phase)).getD 0

/-- Threads for which a p guard passes (R177). -/
def Warp.guard (w : Warp) (g : Guard) : Mask :=
  if g.neg then ~~~(w.getP g.idx.val) else w.getP g.idx.val
/-- `active(t)` of R7. -/
def Warp.active (w : Warp) (g : Guard) : Mask := w.splitMask &&& w.exec &&& w.guard g
/-- Whether a warp-level instruction with a p guard acts (R177). -/
def Warp.acts (w : Warp) (g : Guard) : Bool :=
  if g.idx.val == 7 then !g.neg else (w.splitMask &&& w.guard g) != 0
/-- Whether a tile-class instruction acts (R177). -/
def Warp.actsK (w : Warp) (g : Guard) : Bool := w.getK g.idx.val != g.neg

/-! ### Operand values -/

/-- What a source field holds and how a constant becomes its value (R175, R190). -/
inductive Src where
  | none
  | i32                          -- 32-bit integer, b32, count
  | p16 | p8                     -- packed integer elements
  | f32 | f16 | bf16             -- float elements, the last two packed
  | d64                          -- a pair
  | pred                         -- a predicate field
  deriving DecidableEq, Repr

/-- The float format code of an integer from -64 to 63: `mb` mantissa bits, exponent bias `bias` (R175). -/
def immFloat (mb bias sgnBit : Nat) (i : Int) : Nat :=
  if i == 0 then 0 else
  let m := i.natAbs
  let e := log2N m
  (if i < 0 then 2 ^ sgnBit else 0) + (e + bias) * 2 ^ mb + (m - 2 ^ e) * 2 ^ (mb - e)

/-- Value of an immediate in a field (R175). -/
def immVal (k : Src) (i : BitVec 7) : DWord :=
  let z := i.toInt
  match k with
  | .d64 => BitVec.ofInt 64 z
  | .p16 => BitVec.ofNat 64 (wrapN 16 z * 0x10001)
  | .p8 => BitVec.ofNat 64 (wrapN 8 z * 0x1010101)
  | .f32 => BitVec.ofNat 64 (immFloat 23 127 31 z)
  | .f16 => BitVec.ofNat 64 (immFloat 10 15 15 z * 0x10001)
  | .bf16 => BitVec.ofNat 64 (immFloat 7 127 15 z * 0x10001)
  | _ => (BitVec.ofInt 32 z).setWidth 64

/-- Value of the literal word in a field (R175). -/
def litVal (k : Src) (l : Option Word) : DWord :=
  let w := l.getD 0
  match k with
  | .d64 => w.signExtend 64
  | _ => w.setWidth 64

/-- Thread t's value of a source field (R173 to R175). -/
def Warp.src (w : Warp) (lit : Option Word) (k : Src) (s : Sel) (t : Nat) : DWord :=
  match k with
  | .none => 0
  | .pred =>
    match s with
    | .v n => if (w.getP n.val).getLsbD t then 1 else 0
    | _ => 0
  | .d64 =>
    match s with
    | .v n => DWord.ofWords ((w.getV n.val).get t) ((w.getV (n.val + 1)).get t)
    | .s n => w.getSd n.val
    | .lit => litVal k lit
    | .imm i => immVal k i
    | _ => 0
  | _ =>
    match s with
    | .v n => ((w.getV n.val).get t).toD
    | .q n => ((w.getQ n.val).get t).toD
    | .lr => (w.lr.get t).toD
    | .tix => BitVec.ofNat 64 t
    | .s n => (w.getS n.val).toD
    | .lit => litVal k lit
    | .imm i => immVal k i
    | _ => 0

/-- A uniform source, read once for the warp. -/
def Warp.usrc (w : Warp) (lit : Option Word) (k : Src) (s : Sel) : DWord := w.src lit k s 0

/-- The shape of a pair from its halves (R145). -/
def Shape.pair (a b : Shape) : Shape :=
  match a, b with
  | .uniform x, .uniform _ => .uniform x
  | .general, _ | _, .general => .general
  | .affine x y, _ => .affine x y
  | _, .affine x y => .affine x y

/-- The shape of a source field (R145, R190). -/
def Warp.shapeOf (w : Warp) (lit : Option Word) (k : Src) (s : Sel) : Shape :=
  match k with
  | .none => .uniform 0
  | .pred => if s == .v 7 then .uniform 1 else .general
  | .d64 =>
    match s with
    | .v n => (w.getV n.val).tag.pair (w.getV (n.val + 1)).tag
    | _ => .uniform (w.usrc lit k s).lo
  | _ =>
    match s with
    | .v n => (w.getV n.val).tag
    | .q n => (w.getQ n.val).tag
    | .lr => w.lr.tag
    | .tix => .affine 0 1
    | _ => .uniform (w.usrc lit k s).lo

def Shape.isU : Shape → Bool
  | .uniform _ => true
  | _ => false
def Shape.isGeneral : Shape → Bool
  | .general => true
  | _ => false
def Shape.isAffine : Shape → Bool
  | .affine _ _ => true
  | _ => false
def Shape.base : Shape → Word
  | .general => 0
  | .uniform b => b
  | .affine b _ => b
def Shape.stride : Shape → Word
  | .affine _ s => s
  | _ => 0
/-- An affine result; with stride 0 it is tagged uniform (R145). -/
def Shape.mk' (base stride : Word) : Shape := if stride == 0 then .uniform base else .affine base stride

/-! ### Destinations -/

/-- A write of lr in the threads of `m` (R144). -/
def Warp.writeLr (w : Warp) (m : Mask) (sh : Shape) (f : Nat → DWord) : Warp :=
  w.setLr (w.lr.write m sh fun t => (f t).lo)

/-- A write of a v, q, lr or zr destination, or of a pair, in the threads of `m`, without lr (R141, R174). -/
def Warp.writeReg (w : Warp) (d : Sel) (wide : Bool) (m : Mask) (sh : Shape) (f : Nat → DWord) : Warp :=
  match d with
  | .v n =>
    let w1 := w.setV n.val ((w.getV n.val).write m sh fun t => (f t).lo)
    if wide then w1.setV (n.val + 1) ((w1.getV (n.val + 1)).write m sh fun t => (f t).hi) else w1
  | .q n => w.setQ n.val ((w.getQ n.val).write m sh fun t => (f t).lo)
  | .lr => w.setLr (w.lr.write m sh fun t => (f t).lo)
  | .s n => if wide then w.setSd n.val (f 0) else w.setS n.val (f 0).lo
  | _ => w

/-- The same, with lr where R144 has it written. -/
def Warp.writeDst (w : Warp) (d : Sel) (wide : Bool) (m : Mask) (sh : Shape) (f : Nat → DWord) : Warp :=
  match d with
  | .s _ => w.writeReg d wide m sh f
  | _ => (w.writeReg d wide m sh f).writeLr m sh f

/-- An s register or the even half of an sd pair. -/
def selIsS : Sel → Bool
  | .s _ => true
  | _ => false

/-- The predicate number of a predicate field (R190). -/
def predNo (s : Sel) : Nat :=
  match s with
  | .v n => n.val
  | _ => 7

/-! ### Issue of an ALU instruction -/

/-- An ALU instruction: how its source fields are read, the width of its destination or a predicate destination,
whether its encoding preserves shape (R146), its affine case, its cost beyond the bank rule, and its function on
one thread's values. -/
structure Alu where
  a : Src := .none
  b : Src := .none
  c : Src := .none
  wide : Bool := false
  pdst : Bool := false
  keep : Bool := true
  aff : Shape → Shape → Shape → Shape := fun _ _ _ => .general
  f : DWord → DWord → DWord → DWord × Flags

/-- The tag that R146 gives the result; general where the instruction does not preserve shape. -/
def Alu.shape (op : Alu) (w : Warp) (x : LongOp) : Shape :=
  let sa := w.shapeOf x.lit op.a x.a
  let sb := w.shapeOf x.lit op.b x.b
  let sc := w.shapeOf x.lit op.c x.c
  if !op.keep || sa.isGeneral || sb.isGeneral || sc.isGeneral then .general
  else if sa.isU && sb.isU && sc.isU then .uniform 0
  else if op.wide || op.pdst || op.a == .d64 || op.b == .d64 || op.c == .d64 then .general
  else op.aff sa sb sc

/-- Thread t's result and flags. -/
def Alu.result (op : Alu) (w : Warp) (x : LongOp) (t : Nat) : DWord × Flags :=
  op.f (w.src x.lit op.a x.a t) (w.src x.lit op.b x.b t) (w.src x.lit op.c x.c t)

/-- Flags of the threads of a mask. -/
def Alu.flags (op : Alu) (w : Warp) (x : LongOp) (m : Mask) : Flags :=
  orFlags ((threadsOf m).map fun t => (op.result w x t).2)

/-- The results written in the threads of `m` under a tag, with lr and the flags (R144, R162). -/
def Alu.write (op : Alu) (w : Warp) (x : LongOp) (m : Mask) (sh : Shape) : Warp :=
  let w1 := w.orFlags (op.flags w x m)
  if op.pdst then w1.setP (predNo x.d) m (maskOf fun t => (op.result w x t).1.getLsbD 0)
  else w1.writeDst x.d op.wide m sh fun t => (op.result w x t).1

/-- Whether an instruction acts once for the warp by request: the S bit or an s destination (R148, R149). -/
def Alu.once (op : Alu) (x : LongOp) : Bool := x.w || (!op.pdst && selIsS x.d)

/-- A general v register's number in a source field. -/
def Warp.bankWords (w : Warp) (k : Src) (s : Sel) : List Nat :=
  match k, s with
  | .none, _ | .pred, _ => []
  | .d64, .v n => [n.val, n.val + 1].filter fun r => (w.getV r).tag.isGeneral
  | _, .v n => [n.val].filter fun r => (w.getV r).tag.isGeneral
  | _, _ => []

/-- Largest number of distinct words in one of the four banks, at least 1 (R189). -/
def bankCost (l : List Nat) : Nat :=
  let n (b : Nat) := ((l.eraseDups).filter fun r => r % 4 == b).length
  max 1 (max (max (n 0) (n 1)) (max (n 2) (n 3)))

/-- Lane cycles of one thread-operation (R189). -/
def Alu.opCost (op : Alu) (w : Warp) (x : LongOp) : Nat :=
  bankCost (w.bankWords op.a x.a ++ w.bankWords op.b x.b ++ w.bankWords op.c x.c)

/-- The outcome of issuing an ALU instruction: its warp and lane cycles, or none for class 5, SHAPE. -/
def Alu.issue (op : Alu) (w : Warp) (x : LongOp) : Option (Warp × Nat) :=
  let sh := op.shape w x
  if op.once x then
    if sh.isGeneral || (selIsS x.d && !op.pdst && !sh.isU) then none
    else some (op.write w x (BitVec.allOnes 32) sh, 1)
  else
    let m := w.active x.g
    let tag := if m == BitVec.allOnes 32 then sh else .general
    let cost := if sh.isGeneral then max 1 (countOf m * op.opCost w x) else 1
    some (if m == 0 then w else op.write w x m tag, cost)

end Sys2Proof.Machine
end

