-- ==== Sys2Proof/Machine/IntOps.lean ====
section
/-!
DEFINITION. What the integer, address, logic and bit instructions compute on one thread's values (R189 to R203), each as
the `Alu` that the issue operation runs over the threads.
-/
namespace Sys2Proof.Machine

/-- How a constant source of an integer TYPE is read (R175). -/
def srcI (t : Nat) : Src :=
  if ty64 t then .d64 else if t == 2 || t == 3 then .p16 else if t == 4 || t == 5 then .p8 else .i32

/-- The element loop of R193: f on the exact elements, then `put` and the slice. -/
def elemF (t : Nat) (sat : Bool) (f : Int → Int → Int → Int) (a b c : DWord) : DWord × Flags :=
  let w := ewT t
  let r := packEls w ((List.range (neT t)).map fun i =>
    let z := putT sat t (f (el t a.toNat i) (el t b.toNat i) (el t c.toNat i))
    (wrapN w z.1, z.2))
  (BitVec.ofNat 64 r.1, r.2)

/-- The shape of a packed or `.sat` form is never preserved (R146). -/
def keepI (x : LongOp) (sat : Bool) : Bool := !sat && !tyPacked (tyOf x.fn)

/-- An element-wise instruction of R193 with one or two sources. -/
def aluElem (x : LongOp) (f : Int → Int → Int → Int) (bin : Bool) (hasSat : Bool)
    (aff : Shape → Shape → Shape → Shape) : Alu :=
  let t := tyOf x.fn
  let sat := hasSat && fnBit3 x.fn
  { a := srcI t, b := if bin then srcI t else .none, wide := ty64 t, keep := keepI x sat, aff := aff,
    f := elemF t sat f }

/-- Bases and strides of affine or uniform sources added, subtracted, negated or multiplied (R146). -/
def affAdd (a b : Shape) : Shape := Shape.mk' (a.base + b.base) (a.stride + b.stride)
def affSub (a b : Shape) : Shape := Shape.mk' (a.base - b.base) (a.stride - b.stride)
def affMul (a b : Shape) : Shape :=
  if b.isU then Shape.mk' (a.base * b.base) (a.stride * b.base)
  else if a.isU then Shape.mk' (b.base * a.base) (b.stride * a.base)
  else .general
/-- IMAD preserves A × U plus U or A; a uniform product plus an affine source is not listed (R146). -/
def affMad (a b c : Shape) : Shape :=
  if a.isAffine != b.isAffine then affAdd (affMul a b) c else .general
/-- SHL of an affine source by a uniform count (R146, R201). -/
def affShl (a b : Shape) : Shape :=
  if b.isU then
    let n := (b.base.setWidth 8).toNat
    Shape.mk' (a.base <<< n) (a.stride <<< n)
  else .general

def aluIadd (x : LongOp) : Alu := aluElem x (fun a b _ => a + b) true true fun a b _ => affAdd a b
def aluIsub (x : LongOp) : Alu := aluElem x (fun a b _ => a - b) true true fun a b _ => affSub a b
def aluImul (x : LongOp) : Alu := aluElem x (fun a b _ => a * b) true true fun a b _ => affMul a b
/-- The high half: floor of the product by 2^w (R193). -/
def aluImulh (x : LongOp) : Alu :=
  aluElem x (fun a b _ => (a * b) / ((2 ^ ewT (tyOf x.fn) : Nat) : Int)) true false fun _ _ _ => .general
def aluImin (x : LongOp) : Alu := aluElem x (fun a b _ => min a b) true false fun _ _ _ => .general
def aluImax (x : LongOp) : Alu := aluElem x (fun a b _ => max a b) true false fun _ _ _ => .general
def aluIabs (x : LongOp) : Alu := aluElem x (fun a _ _ => (a.natAbs : Int)) false true fun _ _ _ => .general
def aluIneg (x : LongOp) : Alu :=
  aluElem x (fun a _ _ => -a) false true fun a _ _ => Shape.mk' (-a.base) (-a.stride)

/-- IMAD and IMAD.wide (R193, R194). -/
def aluImad (x : LongOp) : Alu :=
  let t := tyOf x.fn
  let sat := fnBit3 x.fn
  if fnBit2 x.fn then
    { a := .i32, b := .i32, c := .d64, wide := true,
      f := fun a b c =>
        let z := el t a.toNat 0 * el t b.toNat 0 + (if t == 0 then c.toInt else (c.toNat : Int))
        (BitVec.ofInt 64 z, 0) }
  else
    { a := srcI t, b := srcI t, c := srcI t, wide := ty64 t, keep := keepI x sat, aff := affMad,
      f := elemF t sat fun a b c => a * b + c }

/-- Quotient or remainder with truncation toward zero, and the corners (R195). -/
def idivZ (t : Nat) (rem : Bool) (x y : Int) : Int :=
  if y == 0 then (if rem then x else ((2 ^ ewT t : Nat) : Int) - 1)
  else if tySigned t && x == loT t && y == -1 then (if rem then 0 else loT t)
  else if rem then x.tmod y else x.tdiv y

def aluIdiv (x : LongOp) : Alu :=
  aluElem x (fun a b _ => idivZ (tyOf x.fn) (fnBit2 x.fn) a b) true false fun _ _ _ => .general

/-- LEA: base plus scaled index, wrapping at 64 bits (R197). -/
def aluLea (x : LongOp) : Alu :=
  { a := .d64, b := .i32, wide := true,
    f := fun a b _ => (BitVec.ofInt 64 ((a.toNat : Int) + el (tyOf x.fn) b.toNat 0 * ((2 ^ x.fn2.toNat : Nat) : Int)), 0) }

/-- The comparisons of ISET (R191, R199). -/
def cmpI (code : Nat) (a b : Int) : Bool :=
  match code with
  | 0 => a == b
  | 1 => a != b
  | 2 => a < b
  | 3 => a ≤ b
  | 4 => b < a
  | _ => b ≤ a

/-- The comb codes of ISET and FSET (R199). -/
def combP (comb : Nat) (c q : Bool) : Bool :=
  match comb with
  | 0 => c
  | 1 => c && q
  | 2 => c || q
  | _ => c != q

/-- A truth value as a word. -/
def bword (b : Bool) : DWord := if b then 1 else 0

def aluIset (x : LongOp) : Alu :=
  let t := tyOf x.fn
  let comb := x.fn2.toNat % 4
  { a := srcI t, b := srcI t, c := if comb == 0 then .none else .pred, pdst := true,
    f := fun a b c =>
      (bword (combP comb (cmpI (x.fn2.toNat / 4) (el t a.toNat 0) (el t b.toNat 0)) (c.getLsbD 0 != fnBit2 x.fn)), 0) }

def aluSel (x : LongOp) : Alu :=
  let t := tyOf x.fn
  { a := srcI t, b := srcI t, c := .pred, wide := ty64 t,
    f := fun a b c => (if c.getLsbD 0 != fnBit2 x.fn then a else b, 0) }

def aluMov (x : LongOp) : Alu :=
  let t := tyOf x.fn
  { a := srcI t, wide := ty64 t, aff := fun a _ _ => a, f := fun a _ _ => (a, 0) }

/-- Four byte products, signed or unsigned per xy, added to C (R196). -/
def aluIdp4 (x : LongOp) : Alu :=
  let t := tyOf x.fn
  let ta := if x.fn2.getLsbD 0 then 5 else 4
  let tb := if x.fn2.getLsbD 1 then 5 else 4
  let sat := fnBit3 x.fn
  { a := .p8, b := .p8, c := .i32, keep := !sat,
    f := fun a b c =>
      let s := (List.range 4).foldl (fun acc i => acc + el ta a.toNat i * el tb b.toNat i) (0 : Int)
      let z := putT sat t (el t c.toNat 0 + s)
      (BitVec.ofNat 64 (wrapN 32 z.1), z.2) }

/-- A predicate from three predicates through a table (R199). -/
def aluPlop (x : LongOp) : Alu :=
  { a := .pred, b := .pred, c := .pred, pdst := true,
    f := fun a b c => (bword (x.fn.getLsbD (4 * a.toNat + 2 * b.toNat + c.toNat)), 0) }

/-- A two-source logic instruction (R200). -/
def aluLogic (x : LongOp) (f : DWord → DWord → DWord) : Alu :=
  let t := tyOf x.fn
  { a := srcI t, b := srcI t, wide := ty64 t, f := fun a b _ => (f a b, 0) }

def aluAnd (x : LongOp) : Alu := aluLogic x fun a b => a &&& b
def aluOr (x : LongOp) : Alu := aluLogic x fun a b => a ||| b
def aluXor (x : LongOp) : Alu := aluLogic x fun a b => a ^^^ b

/-- The bits of a table applied to three words: bit a + 2 b + 4 c (R200). -/
def btab (lut : BitVec 8) (a b c : DWord) : DWord :=
  (List.range 8).foldl (fun acc i =>
    if lut.getLsbD i then
      acc ||| ((if bitN i 0 then a else ~~~a) &&& (if bitN i 1 then b else ~~~b) &&& (if bitN i 2 then c else ~~~c))
    else acc) 0

def aluBtab (x : LongOp) : Alu :=
  let q := x.fn2 == 1
  let k : Src := if q then .d64 else .i32
  { a := k, b := k, c := k, wide := q, f := fun a b c => (btab x.fn a b c, 0) }

def aluNot (x : LongOp) : Alu :=
  let t := tyOf x.fn
  { a := srcI t, wide := ty64 t, f := fun a _ _ => (~~~a, 0) }

/-- A shift of a 32- or 64-bit source by the low byte of a 32-bit count (R201). -/
def aluShift (x : LongOp) (f : Nat → Nat → Nat → Nat) (aff : Shape → Shape → Shape → Shape) : Alu :=
  let t := tyOf x.fn
  let w := ewT t
  { a := srcI t, b := .i32, wide := ty64 t, aff := aff,
    f := fun a b _ => (BitVec.ofNat 64 (f w (a.toNat % 2 ^ w) (b.toNat % 256)), 0) }

def aluShl (x : LongOp) : Alu := aluShift x (fun w a n => (a <<< n) % 2 ^ w) fun a b _ => affShl a b
def aluShr (x : LongOp) : Alu := aluShift x (fun _ a n => a >>> n) fun _ _ _ => .general
def aluSar (x : LongOp) : Alu :=
  aluShift x (fun w a n => wrapN w (sextN a w / ((2 ^ n : Nat) : Int))) fun _ _ _ => .general

/-- SHF keeps one half of a shifted concatenation (R201). -/
def aluShf (x : LongOp) : Alu :=
  { a := .i32, b := .i32, c := .i32,
    f := fun a b c =>
      let n := min (c.toNat % 256) 32
      let k := b.toNat % 2 ^ 32 * 2 ^ 32 + a.toNat % 2 ^ 32
      (BitVec.ofNat 64 (if x.fn2 == 0 then bitsN (k * 2 ^ n) 32 32 else bitsN k n 32), 0) }

/-- A bit field extracted with zero or sign extension (R202). -/
def aluBfe (x : LongOp) : Alu :=
  let sg := tyOf x.fn == 0
  { a := .i32, b := .i32, c := .i32,
    f := fun a b c =>
      let n := min (c.toNat % 256) 32
      let v : Int := if sg then sextN a.toNat 32 else (a.toNat % 2 ^ 32 : Nat)
      let f := (v / ((2 ^ (b.toNat % 256) : Nat) : Int)) % ((2 ^ n : Nat) : Int)
      let z := if n == 0 then 0 else if sg then wrapN 32 (sextN f.toNat n) else f.toNat
      (BitVec.ofNat 64 z, 0) }

/-- A bit field inserted (R202). -/
def aluBfi (_x : LongOp) : Alu :=
  { a := .i32, b := .i32, c := .i32,
    f := fun ins base c =>
      let pos := c.toNat % 256
      let n := min (c.toNat / 256 % 256) 32
      let mask : Word := BitVec.ofNat 32 ((2 ^ n - 1) * 2 ^ pos)
      let v : Word := BitVec.ofNat 32 (ins.toNat % 2 ^ 32 * 2 ^ pos)
      (((base.lo &&& ~~~mask) ||| (v &&& mask)).toD, 0) }

/-- Set bits, leading zeros and trailing zeros of a `w`-bit value (R203). -/
def popcN (w a : Nat) : Nat := ((List.range w).filter fun i => bitN a i).length
def clzN (w a : Nat) : Nat := if a == 0 then w else w - 1 - log2N a
def ctzN (w a : Nat) : Nat := ((List.range w).find? fun i => bitN a i).getD w
/-- Bit w - 1 - j into bit j (R203). -/
def brevN (w a : Nat) : Nat := (List.range w).foldl (fun acc j => acc + if bitN a (w - 1 - j) then 2 ^ j else 0) 0

/-- A count written to a 32-bit destination, or BREV at the source's width (R203). -/
def aluBits (x : LongOp) (f : Nat → Nat → Nat) (dwide : Bool) : Alu :=
  let t := tyOf x.fn
  let w := ewT t
  { a := srcI t, wide := dwide && ty64 t, f := fun a _ _ => (BitVec.ofNat 64 (f w (a.toNat % 2 ^ w)), 0) }

def aluPopc (x : LongOp) : Alu := aluBits x popcN false
def aluClz (x : LongOp) : Alu := aluBits x clzN false
def aluCtz (x : LongOp) : Alu := aluBits x ctzN false
def aluBrev (x : LongOp) : Alu := aluBits x brevN true

end Sys2Proof.Machine
end

