-- ==== Sys2Proof/Machine/Float.lean ====
section
/-!
DEFINITION. Exact binary values, the IEEE formats, rounding, special values and flags (R157 to R161), and what the float
and conversion instructions compute on one thread's values (R207 to R221).
-/
namespace Sys2Proof.Machine

/-! ### Values and formats -/

/-- A value of a format or an exact result: a finite one is plus or minus m times 2^e. -/
inductive FVal where
  | nan (signalling : Bool)
  | inf (neg : Bool)
  | fin (neg : Bool) (m : Nat) (e : Int)
  deriving DecidableEq, Repr

/-- An IEEE format: exponent and mantissa bits (R157). -/
structure FFmt where
  eb : Nat
  mb : Nat
  deriving DecidableEq, Repr

def fp32 : FFmt := ⟨8, 23⟩
def fp16 : FFmt := ⟨5, 10⟩
def bf16 : FFmt := ⟨8, 7⟩
def FFmt.bias (f : FFmt) : Nat := 2 ^ (f.eb - 1) - 1
def FFmt.emin (f : FFmt) : Int := 1 - (f.bias : Int)
def FFmt.width (f : FFmt) : Nat := 1 + f.eb + f.mb
/-- All-ones exponent field. -/
def FFmt.infBits (f : FFmt) : Nat := (2 ^ f.eb - 1) * 2 ^ f.mb
/-- The canonical NaN (R157). -/
def FFmt.nanBits (f : FFmt) : Nat := f.infBits + 2 ^ (f.mb - 1)
def FFmt.signBit (f : FFmt) (neg : Bool) : Nat := if neg then 2 ^ (f.eb + f.mb) else 0

def FVal.isNan : FVal → Bool
  | .nan _ => true
  | _ => false
def FVal.isSnan : FVal → Bool
  | .nan s => s
  | _ => false
def FVal.isInf : FVal → Bool
  | .inf _ => true
  | _ => false
def FVal.isZero : FVal → Bool
  | .fin _ m _ => m == 0
  | _ => false
def FVal.sign : FVal → Bool
  | .nan _ => false
  | .inf s => s
  | .fin s _ _ => s
def FVal.negate : FVal → FVal
  | .nan s => .nan s
  | .inf s => .inf (!s)
  | .fin s m e => .fin (!s) m e

/-- The value of a bit pattern; under `.ftz` a subnormal reads as a zero of its sign (R158, R159). -/
def unpackF (f : FFmt) (ftz : Bool) (bits : Nat) : FVal :=
  let s := bitN bits (f.eb + f.mb)
  let e := bitsN bits f.mb f.eb
  let m := bitsN bits 0 f.mb
  if e == 2 ^ f.eb - 1 then (if m == 0 then .inf s else .nan (!(bitN m (f.mb - 1))))
  else if e == 0 then .fin s (if ftz then 0 else m) (f.emin - f.mb)
  else .fin s (m + 2 ^ f.mb) ((e : Int) - f.bias - f.mb)

/-- Whether rounding moves away from zero: the kept integer, the remainder and half a unit (R160). DESIGN CHOICE (log 39): in a page
format with MB = 0, where no mantissa is odd, a tie of RNE goes to the larger magnitude of two codes that are not zero, and to zero between
zero and the smallest code. -/
def roundUp (md : Nat) (neg : Bool) (k rem half : Nat) : Bool :=
  match md with
  | 0 => half < rem || (rem == half && rem != 0 && k % 2 == 1)
  | 1 => false
  | 2 => neg && rem != 0
  | _ => !neg && rem != 0

/-- The integer nearest to m times 2^e under a mode, by magnitude, and whether it is inexact. A value below 2^-3
rounds as 2^-3 does. -/
def roundInt (md : Nat) (neg : Bool) (m : Nat) (e : Int) : Nat × Bool :=
  if m == 0 then (0, false)
  else if 0 ≤ e then (m * 2 ^ e.toNat, false)
  else
    let big := (log2N m : Int) + e
    let (m, e) := if big < -3 then (1, (-3 : Int)) else (m, e)
    let sh := (-e).toNat
    let k := m / 2 ^ sh
    let rem := m % 2 ^ sh
    let up := roundUp md neg k (2 * rem) (2 ^ sh)
    (if up then k + 1 else k, rem != 0)

/-- Whether overflow gives an infinity (R160). -/
def overflowInf (md : Nat) (neg : Bool) : Bool := md == 0 || (md == 2 && neg) || (md == 3 && !neg)

/-- A non-zero value rounded to a format whose least normal exponent is `emin` and whose largest magnitude field is
`top`: the magnitude field, and the flags without flushing; overflow answers none. Tininess is judged after
rounding (R158) where `tinyOn`. -/
def roundMag (mb : Nat) (emin : Int) (top : Nat) (tinyOn : Bool) (md : Nat) (neg : Bool) (m : Nat) (e : Int) :
    Option (Nat × Bool × Bool) :=
  let big := (log2N m : Int) + e
  let emaxI : Int := emin + (top / 2 ^ mb : Nat)
  if emaxI + 1 < big then none
  else
    let q := max big emin - mb
    let (k, inex) := roundInt md neg m (e - q)
    let mag := ((max big emin - emin).toNat) * 2 ^ mb + k
    let tiny := tinyOn && big < emin &&
      (let k2 := (roundInt md neg m (e - (big - mb))).1
       !(big + 1 == emin && k2 == 2 ^ (mb + 1)))
    if top < mag then none else some (mag, inex, tiny)

/-- An exact result rounded to an IEEE format (R158 to R160). -/
def roundF (f : FFmt) (md : Nat) (ftz : Bool) : FVal → Nat × Flags
  | .nan _ => (f.nanBits, 0)
  | .inf s => (f.signBit s + f.infBits, 0)
  | .fin s 0 _ => (f.signBit s, 0)
  | .fin s m e =>
    match roundMag f.mb f.emin (f.infBits - 1) true md s m e with
    | none => (f.signBit s + (if overflowInf md s then f.infBits else f.infBits - 1), flOF ||| flNX)
    | some (mag, inex, tiny) =>
      if tiny && ftz then (f.signBit s, flUF ||| flNX)
      else (f.signBit s + mag, flagIf inex flNX ||| flagIf (inex && tiny) flUF)

/-! ### Exact operations (R159, R207) -/

/-- NV for a signalling operand. -/
def nvOf (x y : FVal) : Flags := flagIf (x.isSnan || y.isSnan) flNV

/-- An exact sum with the sign that IEEE 754 gives a zero (R207). -/
def addF (md : Nat) (x y : FVal) : FVal × Flags :=
  match x, y with
  | .nan _, _ | _, .nan _ => (.nan false, nvOf x y)
  | .inf s, .inf t => if s == t then (x, 0) else (.nan false, flNV)
  | .inf _, _ => (x, 0)
  | _, .inf _ => (y, 0)
  | .fin s m e, .fin t n g =>
    if m == 0 && n == 0 then (.fin (if s == t then s else md == 2) 0 0, 0)
    else if m == 0 then (y, 0)
    else if n == 0 then (x, 0)
    else
      let lo := min e g
      let a : Int := (m * 2 ^ (e - lo).toNat : Nat)
      let b : Int := (n * 2 ^ (g - lo).toNat : Nat)
      let z := (if s then -a else a) + (if t then -b else b)
      if z == 0 then (.fin (md == 2) 0 0, 0) else (.fin (z < 0) z.natAbs lo, 0)

/-- An exact product. -/
def mulF (x y : FVal) : FVal × Flags :=
  match x, y with
  | .nan _, _ | _, .nan _ => (.nan false, nvOf x y)
  | .inf s, .inf t => (.inf (s != t), 0)
  | .inf s, .fin t n _ => if n == 0 then (.nan false, flNV) else (.inf (s != t), 0)
  | .fin s m _, .inf t => if m == 0 then (.nan false, flNV) else (.inf (s != t), 0)
  | .fin s m e, .fin t n g => (.fin (s != t) (m * n) (e + g), 0)

/-- An exact product and sum. -/
def fmaF (md : Nat) (x y z : FVal) : FVal × Flags :=
  let p := mulF x y
  let r := addF md p.1 z
  (r.1, p.2 ||| r.2)

/-! ### Arithmetic instructions -/

/-- The element format of a float TYPE (R176). -/
def fmtOf (t : Nat) : FFmt := if t == 9 then fp16 else if t == 10 then bf16 else fp32
/-- How a constant source of a float TYPE is read (R175). -/
def srcF (t : Nat) : Src := if t == 9 then .f16 else if t == 10 then .bf16 else .f32
/-- Element i of a register as a value. -/
def fel (t : Nat) (ftz : Bool) (x : DWord) (i : Nat) : FVal :=
  let f := fmtOf t
  unpackF f ftz (bitsN x.toNat (f.width * i) f.width)

/-- The element loop of R207: exact result, one rounding, flags ORed. -/
def floatEls (t : Nat) (g : Nat → Nat × Flags) : DWord × Flags :=
  let r := packEls (fmtOf t).width ((List.range (neT t)).map g)
  (BitVec.ofNat 64 r.1, r.2)

/-- An element-wise float instruction with one rounding. -/
def aluFloat (x : LongOp) (three : Bool) (g : Nat → FVal → FVal → FVal → FVal × Flags) : Alu :=
  let t := tyOf x.fn
  let ftz := fnBit3 x.fn
  let md := fnRnd x.fn
  { a := srcF t, b := srcF t, c := if three then srcF t else .none, keep := !tyPacked t,
    f := fun a b c => floatEls t fun i =>
      let r := g md (fel t ftz a i) (fel t ftz b i) (fel t ftz c i)
      let q := roundF (fmtOf t) md ftz r.1
      (q.1, r.2 ||| q.2) }

def aluFadd (x : LongOp) : Alu := aluFloat x false fun md a b _ => addF md a b
def aluFsub (x : LongOp) : Alu := aluFloat x false fun md a b _ => addF md a b.negate
def aluFmul (x : LongOp) : Alu := aluFloat x false fun _ a b _ => mulF a b
def aluFfma (x : LongOp) : Alu := aluFloat x true fun md a b c => fmaF md a b c

/-- The order of finite and infinite values as integers at a common scale; -0 lies below +0 (R211). -/
def FVal.le (x y : FVal) : Bool :=
  match x, y with
  | .inf s, .inf t => s || !t
  | .inf s, _ => s
  | _, .inf t => !t
  | .fin s m e, .fin t n g =>
    if m == 0 && n == 0 then s || !t
    else
      let lo := min e g
      let a : Int := (m * 2 ^ (e - lo).toNat : Nat)
      let b : Int := (n * 2 ^ (g - lo).toNat : Nat)
      (if s then -a else a) ≤ (if t then -b else b)
  | _, _ => false

/-- FMIN and FMAX on two elements (R211). -/
def minmaxF (f : FFmt) (ftz nanMode isMax : Bool) (a b : Nat) : Nat × Flags :=
  let x := unpackF f ftz a
  let y := unpackF f ftz b
  let nv := nvOf x y
  if (x.isNan && y.isNan) || ((x.isNan || y.isNan) && nanMode) then (f.nanBits, nv)
  else if x.isNan then ((roundF f 0 false y).1, nv)
  else if y.isNan then ((roundF f 0 false x).1, nv)
  else
    let pick := if isMax then (if y.le x then x else y) else (if x.le y then x else y)
    ((roundF f 0 false pick).1, nv)

def aluMinMax (x : LongOp) (isMax : Bool) : Alu :=
  let t := tyOf x.fn
  let f := fmtOf t
  { a := srcF t, b := srcF t, keep := !tyPacked t,
    f := fun a b _ => floatEls t fun i =>
      minmaxF f (fnBit3 x.fn) (fnBit2 x.fn) isMax (bitsN a.toNat (f.width * i) f.width)
        (bitsN b.toNat (f.width * i) f.width) }

def aluFmin (x : LongOp) : Alu := aluMinMax x false
def aluFmax (x : LongOp) : Alu := aluMinMax x true

/-- The compares of R212. -/
def cmpF (code : Nat) (x y : FVal) : Bool × Flags :=
  let nan := x.isNan || y.isNan
  let eq := (x.isZero && y.isZero) || (x.le y && y.le x)
  let lt := x.le y && !eq
  let gt := y.le x && !eq
  let r :=
    match code with
    | 0 => !nan && eq
    | 1 => nan || !eq
    | 2 => !nan && lt
    | 3 => !nan && (lt || eq)
    | 4 => !nan && gt
    | 5 => !nan && (gt || eq)
    | 6 => !nan
    | _ => nan
  (r, nvOf x y ||| flagIf (nan && 2 ≤ code && code ≤ 5) flNV)

def aluFset (x : LongOp) : Alu :=
  let ftz := fnBit3 x.fn
  let comb := x.fn2.toNat % 4
  { a := .f32, b := .f32, c := if comb == 0 then .none else .pred, pdst := true,
    f := fun a b c =>
      let r := cmpF (x.fn2.toNat / 4) (fel 8 ftz a 0) (fel 8 ftz b 0)
      (bword (combP comb r.1 (c.getLsbD 0 != fnBit2 x.fn)), r.2) }

/-- The class bit of R213. -/
def classF (bits : Nat) : Nat :=
  match unpackF fp32 false bits with
  | .inf s => if s then 0 else 7
  | .nan s => if s then 8 else 9
  | .fin s m _ =>
    if m == 0 then (if s then 3 else 4)
    else if bitsN bits 23 8 == 0 then (if s then 2 else 5) else if s then 1 else 6

def aluFclass (_x : LongOp) : Alu :=
  { a := .f32, f := fun a _ _ => (BitVec.ofNat 64 (2 ^ classF (a.toNat % 2 ^ 32)), 0) }

/-- A NaN operand's result (R159). -/
def nanRes (f : FFmt) (x : FVal) : Nat × Flags := (f.nanBits, flagIf x.isSnan flNV)

/-- FRND (R210). -/
def frndF (md : Nat) (x : FVal) : Nat × Flags :=
  match x with
  | .nan _ => nanRes fp32 x
  | .inf _ => ((roundF fp32 0 false x).1, 0)
  | .fin s m e => ((roundF fp32 0 false (.fin s (roundInt md s m e).1 0)).1, 0)

def aluFrnd (x : LongOp) : Alu :=
  { a := .f32,
    f := fun a _ _ => let r := frndF (fnRnd x.fn) (fel 8 (fnBit3 x.fn) a 0); (BitVec.ofNat 64 r.1, r.2) }

/-- Infinities of both signs among some terms (R208). -/
def opposed (l : List FVal) : Bool := l.contains (.inf false) && l.contains (.inf true)

/-- FDOT2 (R208). -/
def aluFdot2 (x : LongOp) : Alu :=
  let t := tyOf x.fn
  let ftz := fnBit3 x.fn
  let md := fnRnd x.fn
  { a := srcF t, b := srcF t, c := .f32, keep := false,
    f := fun a b c =>
      let p := mulF (fel t ftz a 0) (fel t ftz b 0)
      let q := fmaF md (fel t ftz a 1) (fel t ftz b 1) p.1
      let r := addF md q.1 (fel 8 ftz c 0)
      let z := roundF fp32 md ftz r.1
      let terms := [p.1, (mulF (fel t ftz a 1) (fel t ftz b 1)).1, fel 8 ftz c 0]
      (BitVec.ofNat 64 z.1, p.2 ||| q.2 ||| r.2 ||| z.2 ||| flagIf (opposed terms) flNV) }

/-- FSCALE (R209). -/
def fscaleF (md : Nat) (ftz : Bool) (x : FVal) (n : Int) : Nat × Flags :=
  match x with
  | .nan _ => nanRes fp32 x
  | .inf _ => roundF fp32 0 false x
  | .fin s m e => if m == 0 then roundF fp32 0 false x else roundF fp32 md ftz (.fin s m (e + n))

def aluFscale (x : LongOp) : Alu :=
  { a := .f32, b := .i32,
    f := fun a b _ =>
      let r := fscaleF (fnRnd x.fn) (fnBit3 x.fn) (fel 8 (fnBit3 x.fn) a 0) (sextN b.toNat 32)
      (BitVec.ofNat 64 r.1, r.2) }

/-! ### Conversion (R214 to R221) -/

/-- FP32 to an integer type (R215). -/
def cvtToInt (dt md : Nat) (x : FVal) : Int × Flags :=
  match x with
  | .nan _ => (0, flNV)
  | .inf s => (if s then loT dt else hiT dt, flNV)
  | .fin s m e =>
    let (k, inex) := roundInt md s m e
    let y : Int := if s then -(k : Int) else k
    if y < loT dt then (loT dt, flNV)
    else if hiT dt < y then (hiT dt, flNV)
    else (y, flagIf inex flNX)

/-- A value converted from one format to another with one rounding (R215, R217). -/
def cvtF (f : FFmt) (md : Nat) (ftz : Bool) (x : FVal) : Nat × Flags :=
  match x with
  | .nan _ => nanRes f x
  | _ => roundF f md ftz x

/-- CVT (R214, R215). -/
def cvtVal (x : LongOp) (a : DWord) : DWord × Flags :=
  let dt := tyOf x.fn
  let st := x.fn2.toNat % 16
  let ftz := fnBit3 x.fn
  let md := fnRnd x.fn
  if dt == 8 && st ≤ 7 then
    let v := el st a.toNat 0
    let r := roundF fp32 md false (.fin (v < 0) v.natAbs 0)
    (BitVec.ofNat 64 r.1, r.2)
  else if st == 8 then
    let r := cvtToInt dt md (fel 8 ftz a 0)
    (BitVec.ofInt 64 r.1, r.2)
  else if dt == 8 then
    let r := cvtF fp32 0 false (fel st ftz a (if fnBit2 x.fn then 1 else 0))
    (BitVec.ofNat 64 r.1, r.2)
  else floatEls dt fun i => cvtF (fmtOf dt) md ftz (fel st ftz a i)

/-- How CVT's source is read. -/
def srcCvt (st : Nat) : Src := if st ≤ 7 then srcI st else srcF st

def aluCvt (x : LongOp) : Alu :=
  let dt := tyOf x.fn
  let st := x.fn2.toNat % 16
  { a := srcCvt st, wide := ty64 dt, keep := !tyPacked dt && !tyPacked st, f := fun a _ _ => cvtVal x a }

/-- Kinds 0 and 1 of CVTPK (R217). -/
def aluCvtpk (x : LongOp) : Alu :=
  let f := if tyOf x.fn == 0 then fp16 else bf16
  let ftz := fnBit3 x.fn
  { a := .f32, b := .f32, keep := false,
    f := fun a b _ =>
      let lo := cvtF f (fnRnd x.fn) ftz (fel 8 ftz a 0)
      let hi := cvtF f (fnRnd x.fn) ftz (fel 8 ftz b 0)
      (BitVec.ofNat 64 (lo.1 + 2 ^ 16 * hi.1), lo.2 ||| hi.2) }

/-- Kinds 0 and 1 of CVTUPK (R220). -/
def aluCvtupk (x : LongOp) : Alu :=
  let t := if tyOf x.fn == 0 then 9 else 10
  let ftz := fnBit3 x.fn
  { a := srcF t, wide := true, keep := false,
    f := fun a _ _ =>
      let lo := cvtF fp32 0 false (fel t ftz a 0)
      let hi := cvtF fp32 0 false (fel t ftz a 1)
      (BitVec.ofNat 64 (lo.1 + 2 ^ 32 * hi.1), lo.2 ||| hi.2) }

end Sys2Proof.Machine
end

