-- ==== Sys2Proof/Machine/Format.lean ====
section
/-!
DEFINITION. Page formats (R76 to R79, R163 to R165), E8M0 scales and the decoding path to FP32 (R166), block encoding (R167)
and the values of the page-format forms of CVTPK and CVTUPK (R219, R221).
-/
namespace Sys2Proof.Machine

/-- W of R77. -/
def Fmt.width (f : Fmt) : Nat := f.sgn + f.eb + f.mb
/-- Container bits (R77). -/
def Fmt.cb (f : Fmt) : Nat := if f.width ≤ 4 then 4 else 8
/-- Block length N; 0 where unscaled (R76, R79). -/
def Fmt.blkN (f : Fmt) : Nat := if f.blk == 0 then 0 else 4 * 2 ^ f.blk
/-- Block byte size Z (R79). -/
def Fmt.blkZ (f : Fmt) : Nat := f.blkN * f.cb / 8

/-- A format-table entry's fields with VALID (R76); the bytes of an entry as two numbers and a word. -/
def Fmt.ofEntry (w dbase sbase : Nat) : Fmt where
  blk := bitsN w 26 2
  pol := bitsN w 24 2
  bias := sextN (bitsN w 16 8) 8
  sgn := bitsN w 8 1
  eb := bitsN w 4 4
  mb := bitsN w 0 4
  dbase := dbase
  sbase := sbase

/-- Whether an entry's fields are usable, VALID apart (R78). -/
def Fmt.usable (f : Fmt) : Bool :=
  f.pol != 3 && 2 ≤ f.width && f.width ≤ 8 && f.mb ≤ 7 && f.eb ≤ 6 &&
  !(f.pol == 0 && f.eb < 2) && !(f.pol == 1 && f.eb < 1) && !(f.pol == 1 && f.eb == 1 && f.mb == 0) &&
  f.dbase < 2 ^ 56 && f.sbase < 2 ^ 56 && (f.blk == 0 || f.dbase % f.blkZ == 0)

/-- An entry from its 32 bits of fields and its two bases, or none when unusable (R78). -/
def Fmt.parse (w dbase sbase : Nat) : Option Fmt :=
  let f := Fmt.ofEntry w dbase sbase
  if bitN w 31 && f.usable then some f else none

/-- Magnitude field of the largest finite code (R164). -/
def Fmt.top (f : Fmt) : Nat :=
  let e1 := 2 ^ f.eb - 1
  let m1 := 2 ^ f.mb - 1
  match f.pol with
  | 0 => (e1 - 1) * 2 ^ f.mb + m1
  | 1 => if f.mb == 0 then e1 - 1 else e1 * 2 ^ f.mb + (m1 - 1)
  | _ => e1 * 2 ^ f.mb + m1

/-- Least exponent of a normal code (R163). -/
def Fmt.emin (f : Fmt) : Int := 1 - f.bias

/-- The finite value of a magnitude field (R163). -/
def Fmt.magVal (f : Fmt) (neg : Bool) (mag : Nat) : FVal :=
  let e := mag / 2 ^ f.mb
  let m := mag % 2 ^ f.mb
  if e == 0 then .fin neg m (f.emin - f.mb) else .fin neg (2 ^ f.mb + m) ((e : Int) - f.bias - f.mb)

/-- The value of an element code (R77, R163, R164). -/
def Fmt.value (f : Fmt) (code : Nat) : FVal :=
  let c := code % 2 ^ f.width
  let s := f.sgn == 1 && bitN c (f.eb + f.mb)
  let mag := c % 2 ^ (f.eb + f.mb)
  let e := mag / 2 ^ f.mb
  let m := mag % 2 ^ f.mb
  let e1 := 2 ^ f.eb - 1
  if f.eb != 0 && e == e1 && f.pol == 0 then (if m == 0 then .inf s else .nan false)
  else if f.eb != 0 && e == e1 && f.pol == 1 && m == 2 ^ f.mb - 1 then .nan false
  else f.magVal s mag

/-- floor(log2(largest finite value)) (R164). -/
def Fmt.emax (f : Fmt) : Int :=
  match f.magVal false f.top with
  | .fin _ m e => (log2N m : Int) + e
  | _ => 0

/-- A value encoded to a page format (R165); `sat` is the last line of R167. -/
def Fmt.encode (f : Fmt) (md : Nat) (sat : Bool) (x : FVal) : Nat × Flags :=
  let e1 := (2 ^ f.eb - 1) * 2 ^ f.mb
  let sb (s : Bool) : Nat := if s && f.sgn == 1 then 2 ^ (f.eb + f.mb) else 0
  match x with
  | .nan _ =>
    (match f.pol with
     | 0 => e1 + (if f.mb == 0 then 0 else 2 ^ (f.mb - 1))
     | 1 => e1 + (2 ^ f.mb - 1)
     | _ => 0, flNV)
  | .inf s =>
    if f.sgn == 0 && s then (0, flNV)
    else if f.pol == 0 then (sb s + e1, 0)
    else (sb s + f.top, flOF)
  | .fin s 0 _ => (sb s, 0)
  | .fin s m e =>
    if f.sgn == 0 && s then (0, flNV)
    else
      match roundMag f.mb f.emin f.top (f.eb != 0) md s m e with
      | none => (sb s + (if f.pol == 0 && !sat && overflowInf md s then e1 else f.top), flOF ||| flNX)
      | some (mag, inex, tiny) => (sb s + mag, flagIf inex flNX ||| flagIf (inex && tiny) flUF)

/-- An E8M0 scale (R166). -/
def scaleVal (c : Nat) : FVal := if c == 0xFF then .nan false else .fin false 1 ((c : Int) - 127)

/-- An element value times its scale, rounded to FP32 (R166). -/
def scaledF32 (x sc : FVal) : Nat :=
  match sc, x with
  | .nan _, _ | _, .nan _ => fp32.nanBits
  | _, .inf _ => (roundF fp32 0 false x).1
  | _, _ => (roundF fp32 0 false (mulF x sc).1).1

/-- An element code decoded to FP32 (R166). -/
def Fmt.decode (f : Fmt) (scale code : Nat) : Nat :=
  scaledF32 (f.value code) (if f.blk == 0 then .fin false 1 0 else scaleVal scale)

/-- Raw element types: 0 BF16, 1 FP16, 2 signed INT8, 3 unsigned INT8 (R263). -/
def rawVal (raw code : Nat) : FVal :=
  match raw with
  | 0 => unpackF bf16 false (code % 2 ^ 16)
  | 1 => unpackF fp16 false (code % 2 ^ 16)
  | 2 => let v := sextN code 8; .fin (v < 0) v.natAbs 0
  | _ => .fin false (code % 2 ^ 8) 0

/-- Container bits of a raw type (R263). -/
def rawBits (raw : Nat) : Nat := if raw ≤ 1 then 16 else 8

/-- An FP32 pattern rounded to BF16 or FP16 with RNE (R166). -/
def f32To (f : FFmt) (bits : Nat) : Nat := (roundF f 0 false (unpackF fp32 false bits)).1

/-- Element codes packed into containers of `cb` bits, the first lowest (R77). -/
def packCodes (cb : Nat) : List Nat → Nat
  | [] => 0
  | c :: cs => c % 2 ^ cb + 2 ^ cb * packCodes cb cs

/-- Block encoding (R167): codes, scale code and flags. -/
def Fmt.blockEncode (f : Fmt) (xs : List FVal) : List Nat × Nat × Flags :=
  if xs.any fun x => x.isNan || x.isInf then (xs.map fun _ => 0, 0xFF, flNV)
  else
    let logs := xs.filterMap fun x =>
      match x with
      | .fin _ m e => if m == 0 then none else some ((log2N m : Int) + e)
      | _ => none
    let c : Nat :=
      match logs with
      | [] => 127
      | l :: ls => (satI (ls.foldl max l - f.emax + 127) 0 254).toNat
    let rs := xs.map fun x =>
      match x with
      | .fin s m e => f.encode 0 true (.fin s m (e - ((c : Int) - 127)))
      | y => f.encode 0 true y
    (rs.map (·.1), c, orFlags (rs.map (·.2)))

/-- CVTPK.enc of one thread's values: the word and the flags (R219). -/
def Fmt.encWord (f : Fmt) (md : Nat) (xs : List Word) : Word × Flags :=
  let rs := xs.map fun x => f.encode md false (unpackF fp32 false x.toNat)
  (BitVec.ofNat 32 (packCodes f.cb (rs.map (·.1))), orFlags (rs.map (·.2)))

/-- A list cut into runs of `n`. -/
def chunks (n : Nat) : Nat → List α → List (List α)
  | 0, _ => []
  | k + 1, l => l.take n :: chunks n k (l.drop n)

/-- CVTPK.blk of one thread's values: the code words followed by the scale, and the flags (R219). -/
def Fmt.blkWords (f : Fmt) (xs : List Word) : List Word × Flags :=
  let (codes, c, fl) := f.blockEncode (xs.map fun x => unpackF fp32 false x.toNat)
  let n := 32 / f.cb
  ((chunks n (f.blkN * f.cb / 32) codes).map (fun l => BitVec.ofNat 32 (packCodes f.cb l)) ++ [BitVec.ofNat 32 c], fl)

/-- CVTUPK.dec of one thread's word (R221). -/
def Fmt.decWords (f : Fmt) (a b : Word) : List Word :=
  (List.range (32 / f.cb)).map fun i =>
    BitVec.ofNat 32 (f.decode (b.toNat % 256) (bitsN a.toNat (f.cb * i) f.cb))

end Sys2Proof.Machine
end

