-- ==== Sys2Proof/Machine/Opcodes.lean ====
section
/-!
DEFINITION. The instruction that each major and each short opcode names, and the opcode of each instruction (R178,
R179).
-/
namespace Sys2Proof

/-- SZ of a memory instruction (R277). -/
def szF (x : LongOp) : Nat := (x.fn >>> 4).toNat

/-- The instruction of a major opcode (R179). -/
def ofOpc (opc : Nat) (x : LongOp) : Option Instr :=
  match opc with
  | 0x00 => some (.iadd x)
  | 0x01 => some (.isub x)
  | 0x02 => some (.imul x)
  | 0x03 => some (.imulh x)
  | 0x04 => some (.imad x)
  | 0x05 => some (.imin x)
  | 0x06 => some (.imax x)
  | 0x07 => some (.iabs x)
  | 0x08 => some (.ineg x)
  | 0x09 => some (.idiv x)
  | 0x0A => some (.lea x)
  | 0x0B => some (.iset x)
  | 0x0C => some (.sel x)
  | 0x0D => some (.mov x)
  | 0x0E => some (.idp4 x)
  | 0x0F => some (.plop x)
  | 0x10 => some (.andB x)
  | 0x11 => some (.orB x)
  | 0x12 => some (.xorB x)
  | 0x13 => some (.btab x)
  | 0x14 => some (.notB x)
  | 0x15 => some (.shl x)
  | 0x16 => some (.shr x)
  | 0x17 => some (.sar x)
  | 0x18 => some (.shf x)
  | 0x19 => some (.bfe x)
  | 0x1A => some (.bfi x)
  | 0x1B => some (.popc x)
  | 0x1C => some (.clz x)
  | 0x1D => some (.ctz x)
  | 0x1E => some (.brev x)
  | 0x20 => some (.fadd x)
  | 0x21 => some (.fsub x)
  | 0x22 => some (.fmul x)
  | 0x23 => some (.ffma x)
  | 0x24 => some (.fmin x)
  | 0x25 => some (.fmax x)
  | 0x26 => some (.fset x)
  | 0x27 => some (.fclass x)
  | 0x28 => some (.frnd x)
  | 0x29 => some (.fdot2 x)
  | 0x2A => some (.fscale x)
  | 0x30 => some (.cvt x)
  | 0x31 => some (.cvtpk x)
  | 0x32 => some (.cvtupk x)
  | 0x40 => some (.rcp x)
  | 0x41 => some (.rsq x)
  | 0x42 => some (.sqrt x)
  | 0x43 => some (.exp2 x)
  | 0x44 => some (.log2 x)
  | 0x45 => some (.sin x)
  | 0x46 => some (.cos x)
  | 0x47 => some (.tanh x)
  | 0x48 => some (.fdiv x)
  | 0x50 => some (.shfl x)
  | 0x51 => some (.poll x)
  | 0x52 => some (.redx x)
  | 0x53 => some (.redxi x)
  | 0x54 => some (.scan x)
  | 0x55 => some (.matchT x)
  | 0x56 => some (.elect x)
  | 0x60 => some (.isect x)
  | 0x61 => some (.brank x)
  | 0x62 => some (.treestep x)
  | 0x63 => some (.kset x)
  | 0x64 => some (.kmov x)
  | 0x70 => some (.bra x)
  | 0x71 => some (.brx x)
  | 0x72 => some (.call x)
  | 0x73 => some (.ret x)
  | 0x74 => some (.reconv x)
  | 0x75 => some (.yield x)
  | 0x76 => some (.exit x)
  | 0x77 => some (.execMask x)
  | 0x78 => some (.nop x)
  | 0x79 => some (.waitc x)
  | 0x7A => some (.trap x)
  | 0x7B => some (.bkpt x)
  | 0x7C => some (.sleep x)
  | 0x80 => some (if szF x == 8 || szF x == 9 then .ldDec x else .ld x)
  | 0x81 => some (if szF x == 10 then .stEnc x else .st x)
  | 0x82 => some (.ldu x)
  | 0x83 => some (.ldg x)
  | 0x84 => some (.pref x)
  | 0x85 => some (.cctl x)
  | 0x90 => some (.atom x)
  | 0x91 => some (.atomcas x)
  | 0x92 => some (.red x)
  | 0x93 => some (.fence x)
  | 0x94 => some (.promote x)
  | 0x95 => some (.ldacq x)
  | 0x96 => some (.strel x)
  | 0xA0 => some (.cadd x)
  | 0xA1 => some (.cwait x)
  | 0xA2 => some (.cread x)
  | 0xA3 => some (.bar x)
  | 0xA4 => some (.barsig x)
  | 0xB0 => some (.fork x)
  | 0xB1 => some (.spawn x)
  | 0xB2 => some (.mbxrd x)
  | 0xB3 => some (.fwd x)
  | 0xC0 => some (.mma x)
  | 0xC1 => some (.mmal x)
  | 0xC2 => some (.mmv x)
  | 0xC3 => some (.mzero x)
  | 0xC4 => some (.mlda x)
  | 0xC5 => some (.msta x)
  | 0xC6 => some (.mbatch x)
  | 0xC7 => some (.mwait x)
  | 0xD0 => some (.copy x)
  | 0xD1 => some (.cptr x)
  | 0xD2 => some (.qfence x)
  | 0xD3 => some (.bin x)
  | 0xD4 => some (.binplay x)
  | 0xD5 => some (.route x)
  | 0xD6 => some (.embpool x)
  | 0xE0 => some (.getsys x)
  | 0xE1 => some (if x.fn == 0x0F then .setsysAsgen x else if x.fn == 0x10 then .setsysCtxpush x else if x.fn == 0x11 then .setsysPreempt x else .setsys x)
  | 0xE2 => some (.time x)
  | 0xE3 => some (if x.fn2 == 0 then .tretRes x else .tretKill x)
  | _ => none

/-- The instruction of a short opcode (R178). -/
def ofSopc (sopc : Nat) (x : ShortOp) : Option Instr :=
  match sopc with
  | 0x00 => some (.nopShort x)
  | 0x01 => some (.movShort x)
  | 0x02 => some (.iaddShort x)
  | 0x03 => some (.isubShort x)
  | 0x04 => some (.imulShort x)
  | 0x05 => some (.iminShort x)
  | 0x06 => some (.imaxShort x)
  | 0x07 => some (.inegShort x)
  | 0x08 => some (.iabsShort x)
  | 0x09 => some (.andShort x)
  | 0x0A => some (.orShort x)
  | 0x0B => some (.xorShort x)
  | 0x0C => some (.notShort x)
  | 0x0D => some (.shlShort x)
  | 0x0E => some (.shrShort x)
  | 0x0F => some (.sarShort x)
  | 0x10 => some (.popcShort x)
  | 0x11 => some (.clzShort x)
  | 0x12 => some (.ctzShort x)
  | 0x13 => some (.brevShort x)
  | 0x14 => some (.faddShort x)
  | 0x15 => some (.fsubShort x)
  | 0x16 => some (.fmulShort x)
  | 0x17 => some (.fminShort x)
  | 0x18 => some (.fmaxShort x)
  | 0x19 => some (.faddPackedShort x)
  | 0x1A => some (.fmulPackedShort x)
  | 0x1B => some (.rcpShort x)
  | 0x1C => some (.rsqShort x)
  | 0x1D => some (.sqrtShort x)
  | 0x1E => some (.exp2Short x)
  | 0x1F => some (.log2Short x)
  | 0x20 => some (.sinShort x)
  | 0x21 => some (.cosShort x)
  | 0x22 => some (.tanhShort x)
  | 0x23 => some (.cvtShort x)
  | 0x24 => some (.yieldShort x)
  | 0x25 => some (.exitShort x)
  | 0x26 => some (.retShort x)
  | _ => none

/-- Opcode and fields of a long-form instruction. -/
def Instr.long? : Instr → Option (BitVec 8 × LongOp)
  | .iadd x => some (0x00, x)
  | .isub x => some (0x01, x)
  | .imul x => some (0x02, x)
  | .imulh x => some (0x03, x)
  | .imad x => some (0x04, x)
  | .imin x => some (0x05, x)
  | .imax x => some (0x06, x)
  | .iabs x => some (0x07, x)
  | .ineg x => some (0x08, x)
  | .idiv x => some (0x09, x)
  | .lea x => some (0x0A, x)
  | .iset x => some (0x0B, x)
  | .sel x => some (0x0C, x)
  | .mov x => some (0x0D, x)
  | .idp4 x => some (0x0E, x)
  | .plop x => some (0x0F, x)
  | .andB x => some (0x10, x)
  | .orB x => some (0x11, x)
  | .xorB x => some (0x12, x)
  | .btab x => some (0x13, x)
  | .notB x => some (0x14, x)
  | .shl x => some (0x15, x)
  | .shr x => some (0x16, x)
  | .sar x => some (0x17, x)
  | .shf x => some (0x18, x)
  | .bfe x => some (0x19, x)
  | .bfi x => some (0x1A, x)
  | .popc x => some (0x1B, x)
  | .clz x => some (0x1C, x)
  | .ctz x => some (0x1D, x)
  | .brev x => some (0x1E, x)
  | .fadd x => some (0x20, x)
  | .fsub x => some (0x21, x)
  | .fmul x => some (0x22, x)
  | .ffma x => some (0x23, x)
  | .fmin x => some (0x24, x)
  | .fmax x => some (0x25, x)
  | .fset x => some (0x26, x)
  | .fclass x => some (0x27, x)
  | .frnd x => some (0x28, x)
  | .fdot2 x => some (0x29, x)
  | .fscale x => some (0x2A, x)
  | .cvt x => some (0x30, x)
  | .cvtpk x => some (0x31, x)
  | .cvtupk x => some (0x32, x)
  | .rcp x => some (0x40, x)
  | .rsq x => some (0x41, x)
  | .sqrt x => some (0x42, x)
  | .exp2 x => some (0x43, x)
  | .log2 x => some (0x44, x)
  | .sin x => some (0x45, x)
  | .cos x => some (0x46, x)
  | .tanh x => some (0x47, x)
  | .fdiv x => some (0x48, x)
  | .shfl x => some (0x50, x)
  | .poll x => some (0x51, x)
  | .redx x => some (0x52, x)
  | .redxi x => some (0x53, x)
  | .scan x => some (0x54, x)
  | .matchT x => some (0x55, x)
  | .elect x => some (0x56, x)
  | .isect x => some (0x60, x)
  | .brank x => some (0x61, x)
  | .treestep x => some (0x62, x)
  | .kset x => some (0x63, x)
  | .kmov x => some (0x64, x)
  | .bra x => some (0x70, x)
  | .brx x => some (0x71, x)
  | .call x => some (0x72, x)
  | .ret x => some (0x73, x)
  | .reconv x => some (0x74, x)
  | .yield x => some (0x75, x)
  | .exit x => some (0x76, x)
  | .execMask x => some (0x77, x)
  | .nop x => some (0x78, x)
  | .waitc x => some (0x79, x)
  | .trap x => some (0x7A, x)
  | .bkpt x => some (0x7B, x)
  | .sleep x => some (0x7C, x)
  | .ld x => some (0x80, x)
  | .ldDec x => some (0x80, x)
  | .st x => some (0x81, x)
  | .stEnc x => some (0x81, x)
  | .ldu x => some (0x82, x)
  | .ldg x => some (0x83, x)
  | .pref x => some (0x84, x)
  | .cctl x => some (0x85, x)
  | .atom x => some (0x90, x)
  | .atomcas x => some (0x91, x)
  | .red x => some (0x92, x)
  | .fence x => some (0x93, x)
  | .promote x => some (0x94, x)
  | .ldacq x => some (0x95, x)
  | .strel x => some (0x96, x)
  | .cadd x => some (0xA0, x)
  | .cwait x => some (0xA1, x)
  | .cread x => some (0xA2, x)
  | .bar x => some (0xA3, x)
  | .barsig x => some (0xA4, x)
  | .fork x => some (0xB0, x)
  | .spawn x => some (0xB1, x)
  | .mbxrd x => some (0xB2, x)
  | .fwd x => some (0xB3, x)
  | .mma x => some (0xC0, x)
  | .mmal x => some (0xC1, x)
  | .mmv x => some (0xC2, x)
  | .mzero x => some (0xC3, x)
  | .mlda x => some (0xC4, x)
  | .msta x => some (0xC5, x)
  | .mbatch x => some (0xC6, x)
  | .mwait x => some (0xC7, x)
  | .copy x => some (0xD0, x)
  | .cptr x => some (0xD1, x)
  | .qfence x => some (0xD2, x)
  | .bin x => some (0xD3, x)
  | .binplay x => some (0xD4, x)
  | .route x => some (0xD5, x)
  | .embpool x => some (0xD6, x)
  | .getsys x => some (0xE0, x)
  | .setsys x => some (0xE1, x)
  | .setsysAsgen x => some (0xE1, x)
  | .setsysCtxpush x => some (0xE1, x)
  | .setsysPreempt x => some (0xE1, x)
  | .time x => some (0xE2, x)
  | .tretRes x => some (0xE3, x)
  | .tretKill x => some (0xE3, x)
  | _ => none

/-- Short opcode and fields of a short-form instruction. -/
def Instr.short? : Instr → Option (BitVec 6 × ShortOp)
  | .nopShort x => some (0x00, x)
  | .movShort x => some (0x01, x)
  | .iaddShort x => some (0x02, x)
  | .isubShort x => some (0x03, x)
  | .imulShort x => some (0x04, x)
  | .iminShort x => some (0x05, x)
  | .imaxShort x => some (0x06, x)
  | .inegShort x => some (0x07, x)
  | .iabsShort x => some (0x08, x)
  | .andShort x => some (0x09, x)
  | .orShort x => some (0x0A, x)
  | .xorShort x => some (0x0B, x)
  | .notShort x => some (0x0C, x)
  | .shlShort x => some (0x0D, x)
  | .shrShort x => some (0x0E, x)
  | .sarShort x => some (0x0F, x)
  | .popcShort x => some (0x10, x)
  | .clzShort x => some (0x11, x)
  | .ctzShort x => some (0x12, x)
  | .brevShort x => some (0x13, x)
  | .faddShort x => some (0x14, x)
  | .fsubShort x => some (0x15, x)
  | .fmulShort x => some (0x16, x)
  | .fminShort x => some (0x17, x)
  | .fmaxShort x => some (0x18, x)
  | .faddPackedShort x => some (0x19, x)
  | .fmulPackedShort x => some (0x1A, x)
  | .rcpShort x => some (0x1B, x)
  | .rsqShort x => some (0x1C, x)
  | .sqrtShort x => some (0x1D, x)
  | .exp2Short x => some (0x1E, x)
  | .log2Short x => some (0x1F, x)
  | .sinShort x => some (0x20, x)
  | .cosShort x => some (0x21, x)
  | .tanhShort x => some (0x22, x)
  | .cvtShort x => some (0x23, x)
  | .yieldShort x => some (0x24, x)
  | .exitShort x => some (0x25, x)
  | .retShort x => some (0x26, x)
  | _ => none

end Sys2Proof
end

