-- ==== Sys2Proof/WellFormed.lean ====
section
/-!
DEFINITION. Which terms of `Instr` stand for an instruction: a long or short form must be listed by its encoding
table whatever warp issues it (R180); an event names a unit that exists.
-/
namespace Sys2Proof

open Sys2Proof.Machine

/-- A core of the module (R16). -/
def CoreId.exists (c : CoreId) : Bool := c.die < 9 && c.core < 17
/-- A warp slot of a core: 64 lanes of a user core, 4 of a curator core, 8 slots each (R15, R16, R138). -/
def WarpId.exists (w : WarpId) : Bool :=
  w.coreId.exists && w.slot < 8 && w.lane < (if w.core == 16 then 4 else 64)
/-- A unit that training or a failure can concern. -/
def Unit'.exists : Unit' → Bool
  | .die d => d < 9
  | .stack d => d < 9
  | .buffer n => n < 8

/-- An encoding that no table lists, or that some warp's core, VREGS or tiles make illegal (R180). -/
def Illegal.wf : Illegal → Bool
  | .length => true
  | .short sopc x => (shortReason .widest sopc x).isSome
  | .long opc x => (longReason .widest opc x).isSome

/-- A long-form instruction stands under the opcode and fields that its encoding table lists. -/
def wfLong (i : Instr) (opc : BitVec 8) (x : LongOp) : Bool :=
  longReason .widest opc x == none && ofOpc opc.toNat x == some i
/-- The same of a short form. -/
def wfShort (i : Instr) (sopc : BitVec 6) (x : ShortOp) : Bool :=
  shortReason .widest sopc x == none && ofSopc sopc.toNat x == some i

/-- The unit that an event concerns exists. -/
def wfEvent : Instr → Bool
  | .fetchBlockReturn w _ | .rotDemotion w | .sleepExpiry w | .watchdog w => w.exists
  | .coalescingWindowClose c | .formatEntryRead c _ | .loadDataReturn c _ | .combiningEntryAge c | .peerProbe c _
  | .peerProbeAnswer c _ | .cwaitRetry c _ | .bagTakeUp c _ | .bufferPool c _ _ | .partialVectorCombine c
  | .copyEntryStart c _ | .deliveryUnitPerformed c _ _ | .copyEntryComplete c _ | .qfenceEntryComplete c _
  | .guardedOffEntry c _ _ | .binplayEntry c _ | .matrixEntryStart c _ | .tileWrite c | .collectorRowDrop c _
  | .rowBlockStart c _ | .mmvStreamData c _ | .batchComplete c _ | .generationBroadcast c | .groupEnd c _
  | .groupEndNotice c | .coreStop c | .otherWarpsResume c | .deferredTrap c _ | .swapOut c _ | .frameWaitResume c _
  | .preemptionStop c _ | .coreFence c => c.exists
  | .promotionRequest c i => c.exists && i.exists
  | .walkEntryRead d _ _ | .mailboxPacketArrival d | .junctionTemperatureSample d _ | .curatorReload d
  | .uncoreResetEntry d | .uncoreResetExit d | .coreDomainResetExit d | .coreDomainResetEntry d | .dieFence d => d < 9
  | .hbmAccess s c _ => s < 9 && c < 32
  | .maintenanceSlot s _ _ _ | .hbmTemperatureSample s _ | .hmcfgCntClr s | .filterFullClear s => s < 9
  | .bufferAccess b _ | .bufferRefresh b | .bufferScrub b _ => b < 8
  | .zeroingComplete u | .stackFence u => u.exists
  | .replayStart w _ | .nodeDispatch w _ | .workPacketSend w _ | .cohortRelease w _ | .replayEnd w _ | .nodeEnd w
  | .wingQuiesced w | .keyrevokeComplete w => w < 15
  | .portFrameReceive p _ | .portLinkFailure p => p < 16
  | _ => true

/-- The terms of `Instr` that stand for an instruction or for a step of a unit that exists. -/
def wellFormed (i : Instr) : Bool :=
  match i.short?, i.long? with
  | some (sopc, x), _ => wfShort i sopc x
  | none, some (opc, x) => wfLong i opc x
  | none, none =>
    match i with
    | .illegalEncoding x => x.wf
    | e => wfEvent e

end Sys2Proof
end

