-- ==== Sys2Proof/Decode.lean ====
section
/-!
DEFINITION. The decoder, total on any bytes (R170 to R172, R178, R179), and an encoder written from the same field
tables.
-/
namespace Sys2Proof

open Sys2Proof.Machine

/-- A 9-bit selector (R173). -/
def Sel.ofBits (b : BitVec 9) : Sel :=
  let n := b.toNat
  if h : n < 192 then .v ⟨n, h⟩
  else if h : n - 192 < 8 then .q ⟨n - 192, h⟩
  else if n == 0xC8 then .lr
  else if n == 0xC9 then .zr
  else if n == 0xCA then .tix
  else if h : n - 0xCB < 53 then .rsvLow ⟨n - 0xCB, h⟩
  else if h : n - 0x100 < 64 then .s ⟨n - 0x100, h⟩
  else if h : n - 0x140 < 63 then .rsvHigh ⟨n - 0x140, h⟩
  else if n == 0x17F then .lit
  else .imm (b.setWidth 7)

/-- The 9 bits of a selector. -/
def Sel.toBits : Sel → BitVec 9
  | .v n => BitVec.ofNat 9 n.val
  | .q n => BitVec.ofNat 9 (0x0C0 + n.val)
  | .lr => 0x0C8
  | .zr => 0x0C9
  | .tix => 0x0CA
  | .rsvLow n => BitVec.ofNat 9 (0x0CB + n.val)
  | .s n => BitVec.ofNat 9 (0x100 + n.val)
  | .rsvHigh n => BitVec.ofNat 9 (0x140 + n.val)
  | .lit => 0x17F
  | .imm i => 0x180 ||| i.setWidth 9

/-- Bits <lo+w-1:lo> of a number. -/
def field (x lo w : Nat) : Nat := x / 2 ^ lo % 2 ^ w

/-- GIDX and GNEG. -/
def Guard.ofBits (idx neg : Nat) : Guard := ⟨neg % 2 == 1, Fin.ofNat 8 idx⟩

/-- The fields of a long form from its 64 bits and its literal word (R171). -/
def LongOp.ofBits (w : Nat) (lit : Option Word) : LongOp where
  g := Guard.ofBits (field w 10 3) (field w 13 1)
  w := field w 14 1 == 1
  d := Sel.ofBits (BitVec.ofNat 9 (field w 15 9))
  a := Sel.ofBits (BitVec.ofNat 9 (field w 24 9))
  b := Sel.ofBits (BitVec.ofNat 9 (field w 33 9))
  c := Sel.ofBits (BitVec.ofNat 9 (field w 42 9))
  fn := BitVec.ofNat 8 (field w 51 8)
  fn2 := BitVec.ofNat 5 (field w 59 5)
  lit := lit

/-- The fields of a short form from its 32 bits (R172). -/
def ShortOp.ofBits (w : Nat) : ShortOp where
  g := Guard.ofBits (field w 8 3) (field w 11 1)
  sfn := BitVec.ofNat 2 (field w 30 2)
  d := Sel.ofBits (BitVec.ofNat 9 (field w 12 9))
  a := Sel.ofBits (BitVec.ofNat 9 (field w 21 9))

/-- A long or literal form: an instruction, or an encoding that is none whatever warp issues it (R180). -/
def decodeLong (opc : BitVec 8) (x : LongOp) : Instr :=
  match longReason .widest opc x, ofOpc opc.toNat x with
  | none, some i => i
  | _, _ => .illegalEncoding (.long opc x)

/-- A short form. -/
def decodeShort (sopc : BitVec 6) (x : ShortOp) : Instr :=
  match shortReason .widest sopc x, ofSopc sopc.toNat x with
  | none, some i => i
  | _, _ => .illegalEncoding (.short sopc x)

/-- The length in bytes that the first word gives (R170); 4 where bits <1:0> are 0b11. -/
def lengthOf (first : Nat) : Nat :=
  match first % 4 with
  | 1 => 8
  | 2 => 12
  | _ => 4

/-- An instruction from its three words; `w0` alone decides how many of them it has (R170). -/
def decodeWords (w0 w1 w2 : Nat) : Instr :=
  match w0 % 4 with
  | 0 => decodeShort (BitVec.ofNat 6 (field w0 2 6)) (ShortOp.ofBits w0)
  | 1 => decodeLong (BitVec.ofNat 8 (field w0 2 8)) (LongOp.ofBits (w0 + w1 * 2 ^ 32) none)
  | 2 => decodeLong (BitVec.ofNat 8 (field w0 2 8)) (LongOp.ofBits (w0 + w1 * 2 ^ 32) (some (BitVec.ofNat 32 w2)))
  | _ => .illegalEncoding .length

/-- A little-endian number from bytes (R2). -/
def leNat : List Byte → Nat
  | [] => 0
  | b :: bs => b.toNat + 256 * leNat bs

/-- `n` bytes of a number, little-endian (R2). -/
def leBytes : Nat → Nat → List Byte
  | 0, _ => []
  | n + 1, x => BitVec.ofNat 8 x :: leBytes n (x / 256)

/-- The decoder: the instruction at the head of some bytes and its length; bytes that are missing read as zero. -/
def decode (bs : List Byte) : Instr × Nat :=
  let w0 := leNat (bs.take 4)
  let w1 := leNat ((bs.drop 4).take 4)
  let w2 := leNat ((bs.drop 8).take 4)
  (decodeWords w0 w1 w2, lengthOf w0)

/-- GIDX and GNEG as the three bits and one bit above them. -/
def Guard.toNat (g : Guard) : Nat := g.idx.val + if g.neg then 8 else 0

/-- The 64 bits of a long form (R171). -/
def LongOp.toNat (opc : BitVec 8) (x : LongOp) : Nat :=
  (if x.lit.isSome then 2 else 1) + opc.toNat * 2 ^ 2 + x.g.toNat * 2 ^ 10 + (if x.w then 2 ^ 14 else 0) +
  x.d.toBits.toNat * 2 ^ 15 + x.a.toBits.toNat * 2 ^ 24 + x.b.toBits.toNat * 2 ^ 33 + x.c.toBits.toNat * 2 ^ 42 +
  x.fn.toNat * 2 ^ 51 + x.fn2.toNat * 2 ^ 59

/-- The 32 bits of a short form (R172). -/
def ShortOp.toNat (sopc : BitVec 6) (x : ShortOp) : Nat :=
  sopc.toNat * 2 ^ 2 + x.g.toNat * 2 ^ 8 + x.d.toBits.toNat * 2 ^ 12 + x.a.toBits.toNat * 2 ^ 21 +
  x.sfn.toNat * 2 ^ 30

/-- The words of an instruction in memory order; a row that is an event of the machine has none. -/
def encode (i : Instr) : List Word :=
  match i.short?, i.long? with
  | some (sopc, x), _ => [BitVec.ofNat 32 (x.toNat sopc)]
  | none, some (opc, x) =>
    let n := x.toNat opc
    [BitVec.ofNat 32 n, BitVec.ofNat 32 (n / 2 ^ 32)] ++ x.lit.toList
  | none, none => []

/-- The bytes of an instruction. -/
def encodeBytes (i : Instr) : List Byte := (encode i).flatMap fun w => leBytes 4 w.toNat

/-- The instruction that the decoder reads from an instruction whose bits are `w`, of which the table gives `nbits`;
the bits above them are zero. The words stand in memory order, each little-endian (R2). -/
def decodeTableWord (nbits w : Nat) : Option Instr :=
  match decode (leBytes 12 (w % 2 ^ nbits)) with
  | (.illegalEncoding _, _) => none
  | (i, _) => some i

end Sys2Proof
end

