-- ==== Sys2Proof/Machine/Ops.lean ====
section
/-!
DEFINITION. Named operations on the machine: access to units, sparse memory, names, splits (R341 to R344), issue and
retirement of an instruction (R139, R140, R180), raising a trap (R382 to R385) and reports to the outside (R415).
-/
namespace Sys2Proof.Machine

/-- The outcome of a step of this machine. -/
abbrev Result := Host.Outcome State Fault Refusal

/-! ### Units -/

def State.warp? (s : State) (id : WarpId) : Option Warp := s.warps.find? fun w => w.id == id
def State.modWarp (s : State) (id : WarpId) (f : Warp → Warp) : State :=
  { s with warps := s.warps.map fun w => if w.id == id then f w else w }
def State.setWarp (s : State) (w : Warp) : State := s.modWarp w.id fun _ => w

def State.core (s : State) (c : CoreId) : Core := (s.cores.find? fun k => k.id == c).getD (Core.reset c)
def State.modCore (s : State) (c : CoreId) (f : Core → Core) : State :=
  { s with cores := s.cores.map fun k => if k.id == c then f k else k }

def State.group? (s : State) (c : CoreId) (slot : Nat) : Option Group :=
  s.groups.find? fun g => g.core == c && g.slot == slot
def State.modGroup (s : State) (c : CoreId) (slot : Nat) (f : Group → Group) : State :=
  { s with groups := s.groups.map fun g => if g.core == c && g.slot == slot then f g else g }

def State.die (s : State) (d : Nat) : Die := (s.dies.find? fun x => x.id == d).getD (Die.reset d)
def State.modDie (s : State) (d : Nat) (f : Die → Die) : State :=
  { s with dies := s.dies.map fun x => if x.id == d then f x else x }

def State.wing (s : State) (n : Nat) : Wing := (s.wings.find? fun x => x.id == n).getD (Wing.reset n)
def State.modWing (s : State) (n : Nat) (f : Wing → Wing) : State :=
  { s with wings := s.wings.map fun x => if x.id == n then f x else x }

def State.stack (s : State) (d : Nat) : Stack := (s.hbms.find? fun x => x.id == d).getD (Stack.reset d)
def State.modStack (s : State) (d : Nat) (f : Stack → Stack) : State :=
  { s with hbms := s.hbms.map fun x => if x.id == d then f x else x }
def State.buffer (s : State) (n : Nat) : Buffer := (s.buffers.find? fun x => x.id == n).getD (Buffer.reset n)
def State.modBuffer (s : State) (n : Nat) (f : Buffer → Buffer) : State :=
  { s with buffers := s.buffers.map fun x => if x.id == n then f x else x }

def State.cat? (s : State) (wing handle : Nat) : Option Catalogue :=
  s.cats.find? fun c => c.wing == wing && c.handle == handle
def State.modCat (s : State) (wing handle : Nat) (f : Catalogue → Catalogue) : State :=
  { s with cats := s.cats.map fun c => if c.wing == wing && c.handle == handle then f c else c }

def State.qp? (s : State) (n : Nat) : Option Qp := s.qps.find? fun q => q.qpn == n
def State.modQp (s : State) (n : Nat) (f : Qp → Qp) : State :=
  { s with qps := s.qps.map fun q => if q.qpn == n then f q else q }

/-- A new name for a request, packet, instruction or entry. -/
def State.fresh (s : State) : Nat × State := (s.names, { s with names := s.names + 1 })

/-- A free value's number (log 3). -/
def State.freshFree (s : State) : Nat × State := (s.free, { s with free := s.free + 1 })

/-- A number from `lo` to `lo + n - 1` that is not used: which one is a free value (log 32). -/
def State.pickUnused (s : State) (used : List Nat) (lo n : Nat) : Option Nat × State :=
  let (k, s1) := s.freshFree
  (((List.range (used.length + 1)).map fun i => lo + (Config.name k + i) % n).find? fun x => !used.contains x, s1)

/-- The group of a warp. -/
def State.groupOf (s : State) (w : Warp) : Option Group := s.group? w.id.coreId w.grp

/-- A group that holds nothing, in whose place no group stands. -/
def Group.nobody (c : CoreId) (slot : Nat) : Group where
  core := c
  slot := slot
  wing := 15
  asid := 0
  cat := 0
  node := 0
  gidx := 0
  ngroups := 0
  res := ⟨0, 0, 0, 0, 0, 0⟩
  privva := 0
  spmBase := 0
  tiles := []
  ctrs := []
  wptr := List.replicate 8 0
  nextb := 0
  batchDone := 0
  mxq := []
  phase := .running
  trap := .zero
  trapinfo := 0
  preempt := none
  deferred := []
  reserved := []
  params := []
  entry := 0
  keeps := []
  saved := []

/-- The group of a warp; every warp that the machine makes has one. -/
def State.grp (s : State) (w : Warp) : Group := (s.groupOf w).getD (Group.nobody w.id.coreId w.grp)

/-- The warps of a group on its core. -/
def State.warpsOf (s : State) (c : CoreId) (slot : Nat) : List Warp :=
  s.warps.filter fun w => w.id.coreId == c && w.grp == slot

/-- Core 16 of a die (R16). -/
def isCurator (c : CoreId) : Bool := c.core == 16

/-- Mesh router of a core (R85). -/
def routerOf (c : CoreId) : Nat :=
  if isCurator c then 0 else (2 * (c.core % 4) + 1) + 8 * (2 * (c.core / 4) + 1)

/-- TIME in clock ticks (R3, R398): 1.3 lane cycles a tick. -/
def State.time (s : State) : Nat := s.clk * 10 / 13

/-! ### Sparse memory -/

/-- The byte at an address; `d` says what an unlisted address reads as. -/
def memGet (d : Nat → Byte) : Mem → Nat → Byte
  | [], k => d k
  | (a, b) :: m, k => if a == k then b else if k < a then d k else memGet d m k

/-- A byte written, in canonical form. -/
def memPut (d : Nat → Byte) : Mem → Nat → Byte → Mem
  | [], k, b => if b == d k then [] else [(k, b)]
  | (a, x) :: m, k, b =>
    if k < a then (if b == d k then (a, x) :: m else (k, b) :: (a, x) :: m)
    else if a == k then (if b == d k then m else (k, b) :: m)
    else (a, x) :: memPut d m k b

/-- Canonical form: strictly rising addresses above `lo`, no entry equal to what an unlisted address reads as. -/
def memWfFrom (d : Nat → Byte) (lo : Nat) : Mem → Bool
  | [] => true
  | (a, b) :: m => lo ≤ a && b != d a && memWfFrom d (a + 1) m
def Mem.wf (d : Nat → Byte) (m : Mem) : Bool := memWfFrom d 0 m

/-- Bytes written from an address upward. -/
def memPuts (d : Nat → Byte) : Mem → Nat → List Byte → Mem
  | m, _, [] => m
  | m, k, b :: bs => memPuts d (memPut d m k b) (k + 1) bs

/-- `n` bytes from an address upward. -/
def memGets (d : Nat → Byte) (m : Mem) (k n : Nat) : List Byte := (List.range n).map fun i => memGet d m (k + i)

/-- Entries whose address meets a test, removed. -/
def memDrop (p : Nat → Bool) (m : Mem) : Mem := m.filter fun c => !p c.1

/-- What a scratchpad byte that nothing has written reads as (log 10). -/
def spmUnlisted (_ : Nat) : Byte := 0

/-! ### Splits (R341 to R343) -/

/-- The list position of the next split to run after position `i`: the first ready one in list order, wrapping
round; `i` itself comes last (R342). -/
def nextReady (l : List Split) (i : Nat) : Option Nat :=
  let n := l.length
  ((List.range n).map fun k => (i + 1 + k) % n).find? fun k => (l[k]?.map (·.st)) == some .ready

/-- The split at a position becomes running, with ROT 0 (R341). -/
def runAt (l : List Split) (k : Nat) : List Split :=
  l.mapIdx fun j p => if j == k then { p with st := .running, rot := 0 } else p

/-- The splits at the highest token present merge, when every live split waits at RECONV (R348). -/
def mergeReconv (l : List Split) : List Split :=
  let tok (p : Split) : Option Nat := match p.st with | .reconv t => some t | _ => none
  if l.isEmpty || l.any fun p => (tok p).isNone then l
  else
    let top := (l.filterMap tok).foldl max 0
    let inn := l.filter fun p => tok p == some top
    let mask := inn.foldl (fun m p => m ||| p.mask) 0
    let low := (inn.find? fun p => p.mask.getLsbD (lowestOf mask)).map (·.pc)
    let merged : Split := { pc := low.getD 0, st := .running, mask := mask, rot := 0, phase := 0 }
    let at_ := l.findIdx fun p => tok p == some top
    (l.mapIdx fun j p => if j == at_ then merged else p).filter fun p => tok p != some top

/-- Waits in the middle of an instruction, or before it at issue, which stop the whole warp (R109, R119, R282, R290, R291, R293). -/
def Wait.stalls : Wait → Bool
  | .instr _ | .walk | .raise | .promote | .room (.count _) | .room (.held _) | .room (.channel _) => true
  | _ => false

/-- Waits that the watchdog counts: WAITC, CWAIT, BAR, MWAIT, MBXRD and queue room (R399). -/
def Wait.watched : Wait → Bool
  | .room (.count _) | .room (.held _) => false
  | .count _ _ _ _ | .localCtr _ _ _ _ | .answer _ _ _ | .batch _ | .room _ | .mailbox => true
  | _ => false

/-- Whether a warp is unready in a wait that the watchdog counts (R399). -/
def Warp.inWatch (w : Warp) : Bool :=
  w.running.isNone && w.splits.any fun p => match p.st with | .blocked x => x.watched | _ => false

/-- A warp whose watchdog count runs from cycle `clk`, or on from where it stands, while it is in such a wait (R399). -/
def Warp.watchFrom (w : Warp) (clk : Nat) : Warp :=
  { w with waitFrom := if w.inWatch then some (w.waitFrom.getD clk) else none }

/-- Whether a split holds its warp at its instruction, so that no sibling runs: in the middle of one, or at MWAIT (R274). -/
def Split.stalls (p : Split) : Bool :=
  match p.st with
  | .blocked (.batch _) => p.phase == 1
  | .blocked w => w.stalls
  | _ => false

/-- A running split is chosen after the one at position `i` has stopped running (R342, R348). -/
def Warp.schedule (w : Warp) (i : Nat) : Warp :=
  if w.running.isSome || w.splits.any Split.stalls then w
  else
    match nextReady w.splits i with
    | some k => { w with splits := runAt w.splits k }
    | none => { w with splits := mergeReconv w.splits }

/-- Cycles until the first instruction of a split that has been chosen may issue: 6 where its address lies outside the buffered block,
unless it runs on in sequence to `next`, or its first block has been prefetched (R347). -/
def Warp.turnCost (w : Warp) (next : Option Nat) : Nat :=
  match w.running with
  | none => 1
  | some p =>
    if (w.ibufs.any fun b => b.base ≤ p.pc && p.pc < b.base + 64) || next == some p.pc || w.ahead.contains p.mask then 1 else 6

/-- What has been prefetched for the running split, and for those beyond the eighth, is not kept (R347). -/
def Warp.prefetched (w : Warp) : Warp :=
  { w with ahead := w.ahead.filter fun m => ((w.splits.take 8).any fun p => p.mask == m && p.st != .running) }

/-- A warp none of whose splits ran, as it stands in cycle `clk` once one has been chosen (R342, R347). -/
def Warp.turned (w : Warp) (clk : Nat) : Warp :=
  if w.running.isNone then w
  else
    let at_ := if w.turnCost none == 1 then w.readyAt else max w.readyAt (clk + 6)
    { w with readyAt := at_, lag := w.lag + (at_ - w.readyAt) }.prefetched

/-- Whether an instruction of the warp still takes something of its lane in cycle `clk`. -/
def Warp.inSlot (w : Warp) (clk : Nat) : Bool := clk + w.lag < w.readyAt

/-- The same of a warp whose split has become ready in cycle `clk`: its instruction is as old as that (R152). -/
def Warp.chosen (w : Warp) (clk : Nat) : Warp :=
  if w.running.isNone then w else let x := w.turned clk; { x with age := max clk x.readyAt }

/-- Whether a split is in the middle of its instruction, at no boundary (R383). -/
def Split.inside (p : Split) : Bool :=
  match p.st with
  | .blocked (.instr _) | .blocked .walk | .blocked .raise | .blocked .promote => true
  | .running => p.phase != 0
  | _ => false

/-- Whether an instruction of the warp waits for a walk: it is part-way through, and goes on at a stop of its core (R383). -/
def Warp.walking (w : Warp) : Bool := w.splits.any fun p => p.st == .blocked .walk

/-- Whether a warp stands at an instruction boundary in cycle `clk` (R382, R391). -/
def Warp.atBoundary (w : Warp) (clk : Nat) : Bool := w.readyAt ≤ clk && !w.splits.any Split.inside

/-- Threads that have not exited (R340). -/
def Warp.live (w : Warp) : Mask := w.splits.foldl (fun m p => m ||| p.mask) 0

/-! ### Traps (R382 to R385) -/

/-- An uncorrectable error that an access has met in a table: the wing that a report of it goes to, the granule and the syndrome (R42,
R73). -/
structure MemErr where
  wing : Nat
  pa   : Nat
  syn  : BitVec 16
  deriving DecidableEq, Repr

/-- What a trap record says beside the place of its instruction, and the error in a table that it comes from. -/
structure Cause where
  cls    : Nat
  reason : Nat := 0
  thread : Nat := 0xFF
  kind   : Nat := 0
  va     : Option Nat := none
  aux    : DWord := 0
  err    : Option MemErr := none
  deriving DecidableEq, Repr

/-- The place that a record names and the age that R384 uses. -/
def Warp.issuer (w : Warp) : Issuer := ⟨w.id, w.widx, w.runPos, w.pc, w.age⟩

/-- A trap record (R385). -/
def mkRecord (i : Issuer) (deferred : Bool) (c : Cause) : TrapRec where
  cls := c.cls
  reason := c.reason
  thread := c.thread
  kind := c.kind
  deferred := deferred
  va := c.va
  warp := i.widx
  lane := i.warp.lane
  split := i.split
  pc := i.pc
  aux := c.aux

/-- A trap that becomes pending at a core in cycle `clk`: the core stops from the next cycle on (R383). -/
def Core.pend (clk : Nat) (k : Core) (t : PendTrap) : Core :=
  { k with stop :=
      match k.stop with
      | .stopping n l => .stopping n (l ++ [t])
      | _ => .stopping clk [t] }

/-- TAKING A TRAP, precisely, at a warp's running instruction: the instruction has no effect, its record is formed and
the core stops (R382, R383, R385). CORE_STOP then chooses each group's trap and performs its fate. -/
def State.trap (s : State) (w : Warp) (c : Cause) : State :=
  s.modCore w.id.coreId fun k => k.pend s.clk { slot := w.grp, age := w.age, trapRec := mkRecord w.issuer false c }

/-- A deferred trap charged to the issuer of an instruction or entry (R382, R450): it waits in the group until
DEFERRED_TRAP raises it. A `late` one will name the instruction at the boundary (R385). -/
def State.deferTrap (s : State) (c : CoreId) (slot : Nat) (i : Issuer) (cause : Cause) (late : Bool := false) : State :=
  s.modGroup c slot fun g =>
    { g with deferred := g.deferred ++ [{ slot := slot, age := i.age, trapRec := mkRecord i true cause, late := late, since := s.clk }] }

/-! ### Error reports (R415) -/

/-- Source numbers of an error report. -/
inductive RepSrc where
  | stack | buffer | core | port | security | catalogue
  deriving DecidableEq, Repr

def RepSrc.no : RepSrc → Nat
  | .stack => 0 | .buffer => 1 | .core => 2 | .port => 3 | .security => 4 | .catalogue => 5

/-- A trap record as the 32 bytes of R385, as four 64-bit numbers. -/
def TrapRec.toNats (t : TrapRec) : List Nat :=
  [t.cls + t.reason * 2 ^ 8 + t.thread * 2 ^ 16 +
     (t.kind * 16 + (if t.deferred then 2 else 0) + (if t.va.isSome then 1 else 0)) * 2 ^ 24 +
     t.warp * 2 ^ 32 + t.lane * 2 ^ 48 + t.split * 2 ^ 56,
   t.pc, t.va.getD 0, t.aux.toNat]

/-- Its 32 bytes. -/
def TrapRec.bytes (t : TrapRec) : List Byte := t.toNats.flatMap (leBytes 8)

/-- The record of a report that has no owning warp (R415). -/
def ownerless (c : Cause) : TrapRec :=
  { cls := c.cls, reason := c.reason, thread := 0xFF, kind := c.kind, deferred := false, va := c.va, warp := 0,
    lane := 0, split := 0, pc := 0, aux := c.aux }

/-- An error report's body: class, source, reason, place, flags, address, syndrome and record (R415). -/
def reportBody (src : RepSrc) (cls reason place : Nat) (pa : Option Nat) (corrected : Bool) (syn : Nat)
    (t : Option TrapRec) : List Nat :=
  [cls + 16 * src.no, reason, place,
   (if pa.isSome then 1 else 0) + (if t.isSome then 2 else 0) + (if corrected then 4 else 0),
   (pa.getD 0) / 16 * 16, syn] ++ ((t.map TrapRec.toNats).getD [0, 0, 0, 0])

/-- A report for a wing, or for the operator where `wing` is 15: each has a queue of 64, and a report beyond it is counted
in LOST (R415). -/
def State.report (s : State) (wing : Nat) (body : List Nat) : State :=
  if wing < 15 then
    s.modWing wing fun w =>
      if w.reports.length < 64 then { w with reports := w.reports ++ [body] } else { w with lost := w.lost + 1 }
  else
    { s with docent :=
        if s.docent.opReports.length < 64 then { s.docent with opReports := s.docent.opReports ++ [body] }
        else { s.docent with opLost := s.docent.opLost + 1 } }

/-! ### Issue and retirement -/

/-- What the issuing warp's core and group decide about an encoding (R16, R143, R263). -/
def State.limits (s : State) (w : Warp) : Limits :=
  ⟨isCurator w.id.coreId, w.vregs, ((s.groupOf w).map (·.tiles.length)).getD 0⟩

/-- Whether CPTR or QFENCE names by value, in a uniform source A, a channel or queue that the curator core lacks (R16, R263, R300). -/
def Warp.namesLacking (w : Warp) (opc : BitVec 8) (x : LongOp) : Bool :=
  let uniform : Bool :=
    match x.a with
    | .s _ | .zr | .imm _ => true
    | .lit => x.lit.isSome
    | _ => false
  let a := (w.usrc x.lit .i32 x.a).lo.toNat
  isCurator w.id.coreId && uniform && ((opc == 0xD1 && 2 ≤ a % 8) || (opc == 0xD2 && a / 4 % 512 != 0))

/-- The reason for which a long or literal form is not an instruction for a warp; UNIT comes before all that the other fields could give
(R180). -/
def State.longCheck (s : State) (w : Warp) (opc : BitVec 8) (x : LongOp) : Option Nat :=
  if w.namesLacking opc x then some rUNIT else longReason (s.limits w) opc x

/-- Length in bytes of a long or literal form (R170). -/
def longLen (x : LongOp) : Nat := if x.lit.isSome then 12 else 8

/-- The running split moves past its instruction (R343). -/
def Split.advance (p : Split) (len : Nat) : Split :=
  { p with pc := (p.pc + len) % 2 ^ 64, rot := min 4096 (p.rot + 1), phase := 0 }

/-- A warp retires its instruction after `cost` lane cycles (R139, R140); issuing resets the watchdog count (R399). -/
def State.retire (s : State) (w : Warp) (len cost : Nat) : State :=
  s.setWarp { (w.modRunning fun p => p.advance len) with readyAt := s.clk + cost, age := s.clk + cost, waitFrom := none }

/-- The same of a warp named by its slot. -/
def State.retireAt (s : State) (id : WarpId) (len cost : Nat) : State :=
  s.modWarp id fun w =>
    { (w.modRunning fun p => p.advance len) with readyAt := s.clk + cost, age := s.clk + cost, waitFrom := none }

/-- The running split blocks at its instruction, which issues again; another that is chosen in its place is ready from the next cycle on,
or once its block has been fetched (R152, R341, R342, R347). -/
def State.block (s : State) (w : Warp) (wt : Wait) (phase : Nat) : State :=
  let i := w.runPos
  let w1 := w.modRunning fun p => { p with st := .blocked wt, phase := phase }
  let w2 := (({ w1 with readyAt := s.clk + 1 }.schedule i).turned s.clk).watchFrom s.clk
  s.setWarp (if w2.running.isSome then { w2 with age := w2.readyAt } else w2)

/-- The same of a warp named by its slot. -/
def State.blockAt (s : State) (id : WarpId) (wt : Wait) (phase : Nat) : State :=
  match s.warp? id with
  | none => s
  | some w => s.block w wt phase

/-- Issue of an instruction by the warp in slot `cur`: its encoding is judged for that warp first (R180). -/
def State.issue (s : State) (opc : BitVec 8) (x : LongOp) (f : Warp → Result) : Result :=
  match s.warp? s.cur with
  | none => .fault .noWarp
  | some w =>
    if w.running.isNone then .fault .noWarp
    else
      match s.longCheck w opc x with
      | some r => .next (s.trap w { cls := 4, reason := r })
      | none => f w

/-- Class 5, SHAPE (R148, R149, R362). -/
def causeShape : Cause := { cls := 5, reason := 0x31 }

/-- Issue of an ALU instruction of `len` bytes (R147 to R149, R189, R205). -/
def State.issueAlu (s : State) (len : Nat) (opc : BitVec 8) (x : LongOp) (op : Alu) : Result :=
  s.issue opc x fun w =>
    match op.issue w x with
    | none => .next (s.trap w causeShape)
    | some (w1, cost) => .next (s.retire w1 len cost)

/-- The long form that a short form stands for, issued with the short form's length (R178). -/
def State.issueShort (s : State) (sopc : BitVec 6) (x : ShortOp) (opc : BitVec 8) (op : LongOp → Alu) : Result :=
  match s.warp? s.cur with
  | none => .fault .noWarp
  | some w =>
    if w.running.isNone then .fault .noWarp
    else
      match shortReason (s.limits w) sopc x with
      | some r => .next (s.trap w { cls := 4, reason := r })
      | none => s.issueAlu 4 opc (shortLong sopc x) (op (shortLong sopc x))

/-- Issue of a warp-level instruction: under a guard that does not pass it retires in one lane cycle with no effect
(R177). -/
def State.issueWarp (s : State) (opc : BitVec 8) (x : LongOp) (f : Warp → Result) : Result :=
  s.issue opc x fun w => if w.acts x.g then f w else .next (s.retire w (longLen x) 1)

end Sys2Proof.Machine
end

