-- ==== Sys2Proof/Machine/Memory.lean ====
section
/-!
DEFINITION. The memory side: physical addresses (R24, R27, R44, R45, R67), DRAM under its keys (R412), controller
queues (R29, R31, R48), home slices (R94), packets (R84 to R90) and monitors (R307).
-/
namespace Sys2Proof.Machine

/-! ### Physical addresses -/

/-- Selector PA<47:40> and offset PA<39:0> (R67). -/
def paSel (pa : Nat) : Nat := pa / 2 ^ 40
def paOff (pa : Nat) : Nat := pa % 2 ^ 40

/-- An HBM4 stack's selector (R24). -/
def isStackPA (pa : Nat) : Bool := 0x09 ≤ paSel pa && paSel pa ≤ 0x11
/-- A capacity view's selector (R44). -/
def isViewPA (pa : Nat) : Bool := 0x20 ≤ paSel pa && paSel pa ≤ 0x2E

/-- B and the first buffer of a view (R44). -/
def viewOf (sel : Nat) : Nat × Nat :=
  if sel < 0x28 then (1, sel - 0x20)
  else if sel < 0x2C then (2, 2 * (sel - 0x28))
  else if sel < 0x2E then (4, 4 * (sel - 0x2C))
  else (8, 0)

/-- Buffers that a view names (R44). -/
def viewBuffers (sel : Nat) : List Nat := (List.range (viewOf sel).1).map fun i => (viewOf sel).2 + i

/-- Selector and offset of mappable memory (R24, R44, R67). -/
def paMappable (pa : Nat) : Bool :=
  (isStackPA pa && paOff pa < 0x1000000000) ||
  (isViewPA pa && paOff pa < (viewOf (paSel pa)).1 * 2 ^ 38)

/-- The address of a byte's one DRAM location: a capacity byte is named through its buffer's own view (R45, R46). -/
def canonPA (pa : Nat) : Nat :=
  if isViewPA pa then
    let (b, first) := viewOf (paSel pa)
    let o := paOff pa
    let p := 2 ^ 18 / b
    let j := o % 2 ^ 21 / p
    let loc := o / 2 ^ 21 * p + o % 2 ^ 21 % p
    (0x20 + first + j % b) * 2 ^ 40 + loc / 2 ^ 18 * 2 ^ 21 + j / b * 2 ^ 18 + loc % 2 ^ 18
  else pa

/-- Die of a stack's home, by physical address. -/
def stackDie (pa : Nat) : Nat := paSel pa - 9
/-- Buffer that holds a capacity byte. -/
def bufferNo (pa : Nat) : Nat := paSel (canonPA pa) - 0x20
/-- Channel of a stack offset (R27). -/
def channelOf (pa : Nat) : Nat := Nat.xor (bitsN (paOff pa) 8 5) (bitsN (paOff pa) 13 5)

/-- Line address and offset in it. -/
def lineOf (a : Nat) : Nat := a / 128 * 128

/-! ### Wings and DRAM (R402, R412) -/

/-- A wing that holds resources. -/
def Wing.holds (w : Wing) : Bool := w.st != .free

/-- The wing that owns the memory behind an address. -/
def State.ownerOf (s : State) (pa : Nat) : Option Wing :=
  s.wings.find? fun w =>
    w.holds && (if isViewPA pa then w.bufs.getLsbD (bufferNo pa) else w.dies.getLsbD (stackDie pa))

/-- Whether memory refuses every access: its stack or buffer is fenced, or its wing is revoked (R414, R422). -/
def State.memDown (s : State) (pa : Nat) : Bool :=
  (if isViewPA pa then (s.buffer (bufferNo pa)).fenced else (s.stack (stackDie pa)).fenced) ||
  ((s.ownerOf pa).map fun w => w.st == .revoked).getD false

/-- AUX of a machine check: the granule, with the syndrome above it (R385). -/
def auxOf (pa : Nat) (syn : BitVec 16) : DWord := BitVec.ofNat 64 (pa % 2 ^ 48 / 16 * 16 + syn.toNat * 2 ^ 48)

/-- Number of the key pair under which a byte is read and written, from 1 on; 0 where none is in force: of memory that no wing owns, or
whose wing's slot is empty (log 4). -/
def State.epochOf (s : State) (pa : Nat) : Nat :=
  match s.ownerOf pa with
  | none => 0
  | some w => if w.pair.isNone then 0 else 1 + w.pairsSeen.findIdx fun p => some p == w.pair

/-- How many numbers there are for a byte. -/
def State.epochsOf (s : State) (pa : Nat) : Nat := 1 + ((s.ownerOf pa).map (·.pairsSeen.length)).getD 0

/-- What a DRAM byte that nothing has written reads as: 0 where no pair is in force (log 11), an unknown byte under a pair (log 4). -/
def dramUnlisted (k : Nat) : Byte := if k < 2 ^ 48 then 0 else Config.scrambled k

/-- A byte of DRAM. -/
def State.dramByte (s : State) (pa : Nat) : Byte :=
  memGet dramUnlisted s.mem (s.epochOf pa * 2 ^ 48 + canonPA pa)

/-- One byte written. -/
def State.dramPut (s : State) (pa : Nat) (b : Byte) : State :=
  { s with mem := memPut dramUnlisted s.mem (s.epochOf pa * 2 ^ 48 + canonPA pa) b }

/-- The granule of a written byte under the wing's other key pairs (R412, R414): its plaintext is unknown. -/
def State.dramScramble (s : State) (pa : Nat) : State :=
  let e := s.epochOf pa
  let g := canonPA pa / 16 * 16
  ((List.range (s.epochsOf pa)).filter (· != e)).foldl
    (fun st e2 =>
      (List.range 16).foldl
        (fun st i =>
          let k := e2 * 2 ^ 48 + g + i
          { st with mem := memPut dramUnlisted st.mem k (Config.scrambled k) }) st) s

/-- Bytes written from an address upward. -/
def State.dramPuts (s : State) : Nat → List Byte → State
  | _, [] => s
  | pa, b :: bs => ((s.dramPut pa b).dramScramble pa).dramPuts (pa + 1) bs

/-- What is kept of some memory, dropped under every key pair (R404, log 4). -/
def State.dramZero (s : State) (p : Nat → Bool) : State :=
  { s with mem := memDrop (fun k => p (k % 2 ^ 48)) s.mem }

/-! ### Errors that a controller finds (R42, R43) -/

/-- A saturating count of 16 bits (R43). -/
def sat16 (n : Nat) : Nat := min 0xFFFF (n + 1)

/-- Of some cycles, those less than an hour back, at 1.3 lane cycles in a nanosecond (R3, R422). -/
def withinHour (now : Nat) (l : List Nat) : List Nat := l.filter fun c => now < c + 4680000000000

/-- A correctable error is counted. -/
def State.countCorrected (s : State) (pa : Nat) : State :=
  if isViewPA pa then s.modBuffer (bufferNo pa) fun b => { b with corrected := sat16 b.corrected }
  else s.modStack (stackDie pa) fun k => { k with corrected := sat16 k.corrected }

/-- An uncorrectable error is counted and reported to the wing that the access names (R42, R48, R415). -/
def State.uncorrectable (s : State) (wing pa : Nat) (syn : BitVec 16) : State :=
  if isViewPA pa then
    (s.modBuffer (bufferNo pa) fun b =>
      { b with uncorrected := sat16 b.uncorrected, hourErrs := withinHour s.clk b.hourErrs ++ [s.clk] }).report wing
      (reportBody .buffer 0 0 (bufferNo pa) (some pa) false syn.toNat none)
  else
    (s.modStack (stackDie pa) fun k =>
      { k with uncorrected := sat16 k.uncorrected, hourErrs := withinHour s.clk k.hourErrs ++ [s.clk] }).report wing
      (reportBody .stack 0 0 (9 + stackDie pa) (some pa) false syn.toNat none)

/-- The error in a table that a failed access met is counted and reported; an access that met none changes nothing. -/
def State.found (s : State) (c : Cause) : State :=
  match c.err with
  | some e => s.uncorrectable e.wing e.pa e.syn
  | none => s

/-- A precise trap of an instruction whose own access at home has failed (R73, R383). -/
def State.trapFound (s : State) (w : Warp) (c : Cause) : State := (s.found c).trap w c

/-! ### Controller queues -/

/-- The queue that serves an address. -/
def State.memQueue (s : State) (pa : Nat) : List MemReq :=
  if isViewPA pa then (s.buffer (bufferNo pa)).queue
  else ((s.stack (stackDie pa)).chans.getD (channelOf pa) ⟨[], none⟩).queue

/-- A request enters the queue that serves its address. -/
def State.enqueueMem (s : State) (pa : Nat) (r : MemReq) : State :=
  if isViewPA pa then s.modBuffer (bufferNo pa) fun b => { b with queue := b.queue ++ [r] }
  else
    s.modStack (stackDie pa) fun k =>
      { k with chans := k.chans.mapIdx fun i c =>
          if i == channelOf pa then { c with queue := c.queue ++ [r] } else c }

/-- The byte that the newest queued write holds for an address. -/
def queuedByte (q : List MemReq) (line off : Nat) : Option Byte :=
  q.foldl (fun acc r =>
    if r.line == line then
      match r.bytes.find? fun c => c.1 == off with
      | some c => some c.2
      | none => acc
    else acc) none

/-- A byte as memory will hold it once its queue is served. -/
def State.memByte (s : State) (pa : Nat) : Byte :=
  match queuedByte (s.memQueue pa) (lineOf (canonPA pa)) (pa % 128) with
  | some b => b
  | none => s.dramByte pa

/-! ### Home slices (R94) -/

/-- The home slice of a line, 0 to 255 on its die. -/
def sliceOf (pa : Nat) : Nat :=
  let l := paOff pa / 128
  Nat.xor (Nat.xor (Nat.xor (bitsN l 0 8) (bitsN l 8 8)) (Nat.xor (bitsN l 16 8) (bitsN l 24 8))) (bitsN l 32 1)

/-- Bits set of a die mask, ascending. -/
def diesOf (m : BitVec 9) : List Nat := (List.range 9).filter m.getLsbD

/-- The home die of a line. -/
def State.homeDie (s : State) (pa : Nat) : Nat :=
  if isViewPA pa then
    let ds := ((s.ownerOf pa).map fun w => diesOf w.dies).getD []
    let l := paOff pa / 128
    ds.getD (Nat.xor (bitsN l 0 16) (bitsN l 16 16) % ds.length) 0
  else stackDie pa

/-- The mesh router of a line's home slice. -/
def homeRouter (pa : Nat) : Nat := sliceOf pa / 4

/-- A line of L2. -/
def State.l2Line? (s : State) (line : Nat) : Option L2Line := s.l2.find? fun l => l.line == line

/-- Whether a granule of the line is in L2. -/
def L2Line.has (l : L2Line) (off : Nat) : Bool := l.valid.getD (off / 16) false

/-- A byte as its home holds it (R326). -/
def State.devByte (s : State) (pa : Nat) : Byte :=
  match s.l2Line? (lineOf pa) with
  | some l => if l.has (pa % 128) then l.data.getD (pa % 128) 0 else s.memByte pa
  | none => s.memByte pa

/-- Bytes from an address upward as their homes hold them. -/
def State.devBytes (s : State) (pa n : Nat) : List Byte := (List.range n).map fun i => s.devByte (pa + i)
/-- The same as a little-endian number. -/
def State.devNat (s : State) (pa n : Nat) : Nat := leNat (s.devBytes pa n)
/-- The line of an address. -/
def State.devLine (s : State) (pa : Nat) : List Byte := s.devBytes (lineOf pa) 128

/-- Whether L2 stands aside: the home die's uncore is in reset (R421). -/
def State.bypass (s : State) (pa : Nat) : Bool := (s.die (s.homeDie pa)).uncore != .running

/-- Bytes of a line by offset. -/
abbrev LineBytes := List (Nat × Byte)

/-- The unit that carries check bits of its own: a granule of a stack, 64 bytes of a damson buffer (R41, R48). -/
def checkUnit (pa : Nat) : Nat := if isViewPA pa then 64 else 16

/-- Bytes of a symbol of the check code: 16 bits in a stack, 8 in a damson buffer (R41, R48). -/
def symbolBytes (pa : Nat) : Nat := if isViewPA pa then 1 else 2

/-- Whether bytes of a line fill every unit that they touch (R31, R48). -/
def fillsUnits (u : Nat) (bs : LineBytes) : Bool :=
  (List.range (128 / u)).all fun k => !(bs.any fun c => c.1 / u == k) || (List.range u).all fun i => bs.any fun c => c.1 == u * k + i

/-- The granule that holds all of some offsets of a stack's line, for an uncached access of one granule (R28). -/
def oneGranule (pa : Nat) (uncached : Bool) (offs : List Nat) : Option Nat :=
  match offs with
  | [] => none
  | o :: rest => if uncached && isStackPA pa && rest.all (fun x => x / 16 == o / 16) then some (o / 16) else none

/-- The sectors of some offsets, as a mask. -/
def sectorMask (offs : List Nat) : BitVec 4 :=
  BitVec.ofNat 4 (((List.range 4).filter fun i => offs.any fun o => o / 32 == i).foldl (fun a i => a + 2 ^ i) 0)

/-- A write request of some bytes of a line to memory; one that does not fill its units is masked (R28, R29, R31, R48). -/
def mkWrite (src slot wg pa : Nat) (uncached : Bool) (bytes : LineBytes) (ack : Option Nat) : MemReq where
  src := src
  slot := slot
  kind := if fillsUnits (checkUnit pa) bytes then 1 else 2
  gran := oneGranule pa uncached (bytes.map (·.1))
  sectors := sectorMask (bytes.map (·.1))
  wg := wg
  line := lineOf (canonPA pa)
  bytes := bytes
  ack := ack

/-- A write-back of a line's dirty granules; to a damson buffer those of a unit that are not dirty make it a masked write (R31,
R48). -/
def State.l2WriteBack (s : State) (l : L2Line) : State :=
  let bytes := ((List.range 128).filter fun i => l.dirty.getD (i / 16) false).map fun i => (i, l.data.getD i 0)
  if bytes.isEmpty then s else s.enqueueMem l.line (mkWrite l.home 0xFFF l.wg l.line false bytes none)

/-- A line replaced in L2, or added; a slice holds 1,024 lines (R16), and another one leaves it first (log 6). -/
def State.l2Set (s : State) (l : L2Line) : State :=
  if (s.l2Line? l.line).isSome then { s with l2 := s.l2.map fun o => if o.line == l.line then l else o }
  else
    let peers := s.l2.filter fun o => o.home == l.home && sliceOf o.line == sliceOf l.line
    if peers.length < 1024 then { s with l2 := l :: s.l2 }
    else
      let (k, s1) := s.freshFree
      match peers[Config.l1Victim k % peers.length]? with
      | none => { s with l2 := l :: s.l2 }
      | some v =>
        let s2 := s1.l2WriteBack v
        { s2 with l2 := l :: s2.l2.filter fun o => o.line != v.line }

/-- An empty line, for a page of a wing. -/
def State.l2Empty (s : State) (line wg : Nat) : L2Line :=
  ⟨line, s.homeDie line, List.replicate 8 false, List.replicate 8 false, List.replicate 128 0, none, wg⟩

/-- Granules of a line that `p` names are filled with what memory holds, if they are not valid. -/
def State.l2Fill (s : State) (line wg : Nat) (p : Nat → Bool) : L2Line :=
  let l := (s.l2Line? line).getD (s.l2Empty line wg)
  { l with
    data := (List.range 128).map fun i => if l.has i || !p (i / 16) then l.data.getD i 0 else s.memByte (line + i)
    valid := l.valid.mapIdx fun g v => v || p g }

/-- Bytes put into a line's data. -/
def putBytes (data : List Byte) (bs : LineBytes) : List Byte := bs.foldl (fun d c => d.set c.1 c.2) data

/-- A granule that some of the bytes lie in. -/
def touches (bs : LineBytes) (g : Nat) : Bool := bs.any fun c => c.1 / 16 == g

/-! ### Packets -/

/-- The tile beneath a compute die or in an I/O die's column; 18 and 19 are the I/O dies (R12, R90). -/
def gridTile (row sock : Nat) : Nat :=
  if sock < 9 then 5 * (sock / 3) + sock % 3 + 1 else if sock == 18 then 5 * row else 5 * row + 4

/-- The row in which a packet enters and leaves: the source's if it goes to an I/O die, the destination's if it comes from one, and row
1 between the I/O dies (R90). -/
def entryRow (src dst : Nat) : Nat :=
  if src < 9 then src / 3 else if dst < 9 then dst / 3 else 1

/-- The tiles at the ends of a route (R90). -/
def firstTile (src dst : Nat) : Nat := gridTile (entryRow src dst) src
def lastTile (src dst : Nat) : Nat := gridTile (entryRow src dst) dst

/-- The I/O die that carries a port, and that of a capacity channel (R17). -/
def portSocket (port : Nat) : Nat := if port < 8 then 18 else 19
def channelSocket (ch : Nat) : Nat := if ch < 4 then 18 else 19

/-- Where a packet enters the fabric (R86). -/
def injectLoc (srcDie srcRouter dstDie dstRouter : Nat) : Loc :=
  if srcDie != dstDie then .edge else if srcRouter == dstRouter then .home else .mesh srcDie srcRouter

def State.packet? (s : State) (pid : Nat) : Option Packet := s.packets.find? fun p => p.pid == pid
def State.modPacket (s : State) (pid : Nat) (f : Packet → Packet) : State :=
  { s with packets := s.packets.map fun p => if p.pid == pid then f p else p }
def State.dropPacket (s : State) (pid : Nat) : State := { s with packets := s.packets.filter fun p => p.pid != pid }

/-- A request of a core. -/
def State.req? (s : State) (c : CoreId) (rid : Nat) : Option Req := (s.core c).reqs.find? fun r => r.rid == rid
def State.modReq (s : State) (c : CoreId) (rid : Nat) (f : Req → Req) : State :=
  s.modCore c fun k => { k with reqs := k.reqs.map fun r => if r.rid == rid then f r else r }
def State.dropReq (s : State) (c : CoreId) (rid : Nat) : State :=
  s.modCore c fun k => { k with reqs := k.reqs.filter fun r => r.rid != rid }

/-- A read packet without its first reader goes on for the next (R97). -/
def Packet.handOver (p : Packet) : Option Packet :=
  match p.merged with
  | [] => none
  | m :: ms => some { p with core := m.1, rid := m.2, merged := ms }

/-- A packet whose request is gone. -/
def State.forsake (s : State) (pid : Nat) : State :=
  { s with packets := s.packets.filterMap fun (p : Packet) => if p.pid == pid then p.handOver else some p }

/-- A packet turns round at its home: the response leaves for its core, and each merged reader gets a response of its own
(R97). -/
def State.respond (s : State) (pid : Nat) (f : Packet → Packet) : State :=
  match s.packet? pid with
  | none => s
  | some p =>
    let back (q : Packet) (c : CoreId) (rid : Nat) : Packet :=
      { q with
        core := c, rid := rid, resp := true, waiting := false, merged := [], die := c.die, router := routerOf c,
        hint := if c.die == p.die then q.hint else none
        via := firstTile p.die c.die, loc := injectLoc p.die p.router c.die (routerOf c) }
    let q := f p
    let s1 := { s with packets := s.packets.map fun o => if o.pid == pid then back q p.core p.rid else o }
    p.merged.foldl (fun st m =>
      let (n, st1) := st.fresh
      let st2 := { st1 with packets := st1.packets ++ [{ (back q m.1 m.2) with pid := n }] }
      st2.modReq m.1 m.2 fun r => { r with stage := .fabric n }) s1

/-- Monitors of a line that now hold answer their requests (R307). -/
def State.pokeMonitors (s : State) (line : Nat) : State :=
  let hit (m : Monitor) : Bool := lineOf m.pa == line && m.val.toNat ≤ s.devNat m.pa 8
  (s.monitors.filter hit).foldl (fun st m => st.respond m.pid fun p => { p with ok := true })
    { s with monitors := s.monitors.filter fun m => !hit m }

/-! ### Writes performed at home -/

/-- Bytes of one line merged into L2, dirty (a write under CP 0, or passed on by a write-back). -/
def State.l2Merge (s : State) (line wg : Nat) (bs : LineBytes) : State :=
  let l := s.l2Fill line wg (touches bs)
  (s.l2Set { l with data := putBytes l.data bs, dirty := l.dirty.mapIdx fun g d => d || touches bs g }).pokeMonitors line

/-- Bytes of one line written through L2 to memory: what L2 holds of them is brought up to date (R31, R105). -/
def State.l2Through (s : State) (src slot wg line : Nat) (uncached : Bool) (bs : LineBytes) (ack : Option Nat) : State :=
  let s1 :=
    match s.l2Line? line with
    | none => s
    | some l => s.l2Set { l with data := putBytes l.data (bs.filter fun c => l.has c.1) }
  (s1.enqueueMem line (mkWrite src slot wg line (uncached || s.bypass line) bs ack)).pokeMonitors line

/-- Bytes of one line performed at their home at once (R324): under write-back they stay in L2. -/
def State.homeWrite (s : State) (src slot wg cp line : Nat) (bs : LineBytes) : State :=
  if bs.isEmpty then s
  else if cp == 0 && !s.bypass line then s.l2Merge line wg bs
  else s.l2Through src slot wg line (cp == 2) bs none

/-- The lines of a run of bytes, each with its bytes. -/
def splitLines (pa : Nat) (bs : List Byte) : List (Nat × LineBytes) :=
  let first := pa / 128
  let last := (pa + bs.length - 1) / 128
  if bs.isEmpty then []
  else (List.range (last - first + 1)).map fun i =>
    let line := (first + i) * 128
    let lo := max pa line
    let hi := min (pa + bs.length) (line + 128)
    (line, (List.range (hi - lo)).map fun j => (lo + j - line, bs.getD (lo + j - pa) 0))

/-- A run of bytes of one page performed at home. -/
def State.homePuts (s : State) (src slot wg cp pa : Nat) (bs : List Byte) : State :=
  (splitLines pa bs).foldl (fun st l => st.homeWrite src slot wg cp l.1 l.2) s

end Sys2Proof.Machine
end

