-- ==== Sys2Proof/Machine/Translate.lean ====
section
/-!
DEFINITION. Translation, protection and page formats (R66 to R82).
-/
namespace Sys2Proof.Machine

/-! ### Descriptors and walks -/

/-- An address-space descriptor (R68). -/
structure Desc where
  root    : Nat
  fmtbase : Nat
  valid   : Bool
  wg      : Nat
  gen     : Nat
  deriving DecidableEq, Repr

/-- Where the descriptor of an address space lies. -/
def State.descPA (s : State) (asid : Nat) : Nat := s.docent.descBase + 32 * (asid % 2 ^ 16)

/-- The descriptor of an address space, as its home holds it. -/
def State.desc (s : State) (asid : Nat) : Desc :=
  let a := s.descPA asid
  let w := s.devNat (a + 16) 4
  { root := bitsN (s.devNat a 8) 20 28 * 2 ^ 20, fmtbase := bitsN (s.devNat (a + 8) 8) 9 39 * 2 ^ 9,
    valid := bitN w 31, wg := bitsN w 24 4, gen := bitsN w 0 20 }

/-- What a table may lie in (R68, R71): a stack, of the descriptor's wing unless the address space is 0. -/
def State.tableOk (s : State) (asid wg pa : Nat) : Bool :=
  isStackPA pa && paOff pa < 0x1000000000 && (asid == 0 || (s.wing wg).dies.getLsbD (stackDie pa))

/-- The index of a level (R69). -/
def walkIndex (level va : Nat) : Nat :=
  match level with
  | 0 => bitsN va 39 17
  | 1 => bitsN va 30 9
  | 2 => bitsN va 21 9
  | _ => bitsN va 16 5

/-- Alignment of a table of a level, and size of a leaf of it (R69). -/
def tableSize (level : Nat) : Nat := match level with | 0 => 2 ^ 20 | 1 => 4096 | 2 => 4096 | _ => 256
def leafSize (level : Nat) : Nat := match level with | 1 => 2 ^ 30 | 2 => 2 ^ 21 | _ => 2 ^ 16

/-- Reasons of class 1 and 2, and of a failed table read (R75). -/
def rNOTVALID : Nat := 0x01
def rNONCANON : Nat := 0x02
def rBADENTRY : Nat := 0x03
def rBADPA : Nat := 0x04
def rSYS : Nat := 0x08
def rFETCH : Nat := 0x09
def rWRITE : Nat := 0x0A
def rWING : Nat := 0x0B
def rBADFMT : Nat := 0x0C
def rSCALERANGE : Nat := 0x0D
def rWALKERR : Nat := 0x10

/-- What a table entry leads to. -/
inductive EntryRes where
  | fail (reason : Nat)
  | table (pa : Nat)
  | leaf (l : Leaf)
  deriving DecidableEq, Repr

/-- The leaf that an entry's bits describe at a level (R70). -/
def leafOf (level e : Nat) : Leaf where
  base := bitsN e 8 40 * 256
  size := leafSize level
  wg := bitsN e 60 4
  fmt := bitsN e 56 4
  pool := bitN e 55
  pin := bitN e 54
  cp := bitsN e 52 2
  sys := bitN e 4
  x := bitN e 3
  ro := bitN e 2

/-- A table entry checked in the order of R71. -/
def State.entryCheck (s : State) (asid wg level e : Nat) : EntryRes :=
  let ptr := bitN e 1
  let addr := bitsN e 8 40 * 256
  if !bitN e 0 then .fail rNOTVALID
  else if (level == 0 && !ptr) || (level == 3 && ptr) then .fail rBADENTRY
  else if ptr then
    if addr % tableSize (level + 1) != 0 then .fail rBADENTRY
    else if !s.tableOk asid wg addr then .fail rBADPA
    else .table addr
  else
    let l := leafOf level e
    if l.base % l.size != 0 || l.cp == 3 then .fail rBADENTRY
    else if !paMappable l.base then .fail rBADPA
    else .leaf l

/-- A failed access: class, reason, address, AUX, and the error in a table that it met. -/
structure AccFail where
  cls    : Nat
  reason : Nat
  va     : Nat
  aux    : DWord
  err    : Option MemErr
  deriving DecidableEq, Repr

/-- A fault of class 1 or 2 at an address (R75). -/
def plainFail (cls reason va : Nat) : AccFail := ⟨cls, reason, va, 0, none⟩

/-- A read of a descriptor, a table entry or a format entry for an access to `va`: memory that is fenced or revoked refuses it, and it may
meet an uncorrectable error unless the home slice holds the granule (R68, R73, R414, R422). -/
def State.tableRead (s : State) (wing reason va pa : Nat) : Option AccFail :=
  if s.memDown pa then some ⟨0, reason, va, auxOf pa 0, none⟩
  else if match s.l2Line? (lineOf pa) with | some l => l.has (pa % 128) | none => false then none
  else
    (s.tableErrs.find? fun e => e.1 == pa / 16 * 16).map fun e =>
      ⟨0, reason, va, auxOf pa e.2, some ⟨wing, pa / 16 * 16, e.2⟩⟩

/-- A walk made at once from a level on (R69): `fuel` levels are left. -/
def State.walkFrom (s : State) (asid wg va : Nat) : Nat → Nat → Nat → Except AccFail Leaf
  | 0, _, _ => .error (plainFail 1 rBADENTRY va)
  | fuel + 1, level, table =>
    let pa := table + 8 * walkIndex level va
    match s.tableRead wg rWALKERR va pa with
    | some f => .error f
    | none =>
      match s.entryCheck asid wg level (s.devNat pa 8) with
      | .fail r => .error (plainFail 1 r va)
      | .leaf l => .ok l
      | .table t => s.walkFrom asid wg va fuel (level + 1) t

/-- The failure of the read of an address space's descriptor (R68). -/
def State.descFail (s : State) (asid va : Nat) : Option AccFail := s.tableRead (s.desc asid).wg rWALKERR va (s.descPA asid)

/-- The leaf of a virtual address, walked at once (engines, the docent). -/
def State.walkNow (s : State) (asid va : Nat) : Except AccFail Leaf :=
  if 2 ^ 56 ≤ va then .error (plainFail 1 rNONCANON va)
  else
    match s.descFail asid va with
    | some f => .error f
    | none =>
      let d := s.desc asid
      if !s.tableOk asid d.wg d.root then .error (plainFail 1 rBADPA va) else s.walkFrom asid d.wg va 4 0 d.root

/-- Physical address under a leaf. -/
def Leaf.pa (l : Leaf) (va : Nat) : Nat := l.base + va % l.size

/-! ### Protection (R73, R74) -/

/-- Access kinds of R73, as R385 numbers them. -/
inductive Kind where
  | fetch | read | write | atomic
  deriving DecidableEq, Repr

def Kind.no : Kind → Nat
  | .fetch => 0 | .read => 1 | .write => 2 | .atomic => 3

/-- Whether no wing owns the memory of a page. -/
def State.unowned (s : State) (l : Leaf) : Bool :=
  s.wings.all fun w =>
    !(w.holds && (if isViewPA l.base then (viewBuffers (paSel l.base)).any fun b => w.bufs.getLsbD b
                  else w.dies.getLsbD (stackDie l.base)))

/-- The first check of R74 that fails: `curator` says that a warp on the curator core makes the access. The curator of a die
that no wing owns has no wing to compare; it reaches stacks that no wing owns (log 34), and never an unassigned buffer (R47). -/
def State.protect (s : State) (curator : Bool) (wing : Nat) (k : Kind) (l : Leaf) : Option Nat :=
  if l.sys && !curator then some rSYS
  else if k == .fetch && !l.x then some rFETCH
  else if (k == .write || k == .atomic) && l.ro then some rWRITE
  else
    let w := s.wing wing
    let mine :=
      if curator && wing == 15 then !isViewPA l.base && s.unowned l
      else l.wg == wing &&
      (if isViewPA l.base then (viewBuffers (paSel l.base)).all fun b => w.bufs.getLsbD b
       else w.dies.getLsbD (stackDie l.base))
    if mine then none else some rWING

/-- Who makes an access: its core, address space and wing. -/
structure Who where
  core : CoreId
  asid : Nat
  wing : Nat
  slot : Nat
  deriving DecidableEq, Repr

/-- The parties of a group's accesses; those of a curator are untagged (R30). -/
def Group.whoIs (g : Group) : Who := ⟨g.core, g.asid, g.wing, if isCurator g.core then 0xFFF else g.slot⟩

/-- The generation that a core holds for an address space (R80). -/
def State.genOf (s : State) (c : CoreId) (asid : Nat) : Nat :=
  match (s.core c).gens.find? fun g => g.1 == asid with
  | some g => g.2
  | none => (s.desc asid).gen

/-- A cached translation that hits (R80). -/
def State.tlb? (s : State) (c : CoreId) (asid va : Nat) : Option Leaf :=
  let g := s.genOf c asid
  ((s.core c).tlb.find? fun e => e.asid == asid && e.gen == g && e.vpn == va / e.leaf.size * e.leaf.size).map (·.leaf)

/-- The leaf of an address, from the core's translation cache or walked at once. -/
def State.leafNow (s : State) (c : CoreId) (asid va : Nat) : Except AccFail Leaf :=
  match s.tlb? c asid va with
  | some l => .ok l
  | none => s.walkNow asid va

/-- One address translated and protected at once. -/
def State.accessNow (s : State) (w : Who) (k : Kind) (va : Nat) : Except AccFail Leaf :=
  match s.leafNow w.core w.asid va with
  | .error f => .error f
  | .ok l =>
    match s.protect (isCurator w.core) w.wing k l with
    | some r => .error (plainFail 2 r va)
    | none => .ok l

/-- The pages of a run of bytes, translated and protected at once in ascending order: each with its first address, its
bytes and its leaf. `fuel` bounds the pages. -/
def State.pagesNow (s : State) (w : Who) (k : Kind) : Nat → Nat → Nat → Except AccFail (List (Nat × Nat × Leaf))
  | 0, _, _ => .ok []
  | fuel + 1, va, n =>
    if n == 0 then .ok []
    else
      match s.accessNow w k va with
      | .error f => .error f
      | .ok l =>
        let len := min n (l.size - va % l.size)
        match s.pagesNow w k fuel (va + len) (n - len) with
        | .error f => .error f
        | .ok ps => .ok ((va, len, l) :: ps)

/-- Bytes of a run of pages as their homes hold them. -/
def State.readPages (s : State) (ps : List (Nat × Nat × Leaf)) : List Byte :=
  ps.flatMap fun p => s.devBytes (p.2.2.pa p.1) p.2.1

/-- Pages that a run of `n` bytes may touch at most. -/
def pageFuel (n : Nat) : Nat := n / 65536 + 2

/-- The pages of a run of bytes, once memory that is fenced or revoked is asked too: it refuses with class 0 (R422). -/
def State.pagesUp (s : State) (w : Who) (k : Kind) (va n : Nat) : Except AccFail (List (Nat × Nat × Leaf)) :=
  match s.pagesNow w k (pageFuel n) va n with
  | .error f => .error f
  | .ok ps =>
    match ps.find? fun p => s.memDown (p.2.2.pa p.1) with
    | some p => .error ⟨0, 0, p.1, auxOf (p.2.2.pa p.1) 0, none⟩
    | none => .ok ps

/-- Bytes read at home on behalf of a group, or the failure. -/
def State.readVA (s : State) (w : Who) (k : Kind) (va n : Nat) : Except AccFail (List Byte) :=
  match s.pagesUp w k va n with
  | .error f => .error f
  | .ok ps => .ok (s.readPages ps)

/-- Bytes stored at home through a run of pages, which together are as long as the bytes. -/
def State.writePages (s : State) (w : Who) : List (Nat × Nat × Leaf) → List Byte → State
  | [], _ => s
  | (va, len, l) :: ps, bs =>
    (s.homePuts w.core.die w.slot l.wg l.cp (l.pa va) (bs.take len)).writePages w ps (bs.drop len)

/-! ### Translation cache (R72, R80) -/

/-- A leaf enters a core's translation cache of 4,096 entries; which one leaves a full cache is not said, here the oldest (log 6). -/
def Core.tlbPut (k : Core) (e : TlbEntry) : Core := { k with tlb := (e :: k.tlb).take 4096 }

/-- What the translation cache knows of an address. -/
inductive Tr where
  | hit (l : Leaf)
  | miss
  | fail (f : AccFail)
  deriving DecidableEq, Repr

/-- Whether two addresses lie in one 64 KiB frame. -/
def sameFrame (a b : Nat) : Bool := a / 65536 == b / 65536

/-- One address through the translation cache, the warp's failed walks, and protection (R66, R73, R74). -/
def State.lookup (s : State) (w : Warp) (g : Group) (k : Kind) (va : Nat) : Tr :=
  if 2 ^ 56 ≤ va then .fail (plainFail 1 rNONCANON va)
  else
    match w.fails.find? fun f => sameFrame f.va va with
    | some f => .fail ⟨f.cls, f.reason, va, f.aux, none⟩
    | none =>
      match s.tlb? g.core g.asid va with
      | none => .miss
      | some l =>
        match s.protect (isCurator g.core) g.wing k l with
        | some r => .fail (plainFail 2 r va)
        | none => .hit l

/-- A walk's warp learns of a failure (R73). -/
def State.walkFailed (s : State) (w : WarpId) (f : WalkFail) : State := s.modWarp w fun x => { x with fails := x.fails ++ [f] }

/-- The first address that a table of a level serves (R69). -/
def tableVA (level va : Nat) : Nat :=
  let n := match level with | 1 => 2 ^ 39 | 2 => 2 ^ 30 | 3 => 2 ^ 21 | _ => 2 ^ 56
  va / n * n

/-- A walk goes down to a table, whose pointer it will leave in the cache. -/
def Walk.down (k : Walk) (table : Nat) : Walk :=
  { k with level := k.level + 1, table := table, ptrs := ⟨k.asid, k.gen, k.level + 1, tableVA (k.level + 1) k.va, table⟩ :: k.ptrs }

/-- The pointer entries that a walk has passed are cached: a walk that fails leaves none (R72). -/
def Die.keepPtrs (d : Die) (k : Walk) : Die :=
  { d with ptrs := k.ptrs ++ d.ptrs.filter fun q => !(k.ptrs.any fun p => q.asid == p.asid && q.level == p.level && q.va == p.va) }

/-- Where a walk begins: at the table of the deepest cached pointer down to a level, else at ROOT, which is checked first (R71, R72). -/
def State.walkStart (s : State) (c : CoreId) (asid va depth : Nat) : Except AccFail (Nat × Nat) :=
  let d := s.desc asid
  let cached := [3, 2, 1].findSome? fun n =>
    if depth < n then none
    else (s.die c.die).ptrs.find? fun p => p.asid == asid && p.gen == s.genOf c asid && p.level == n && p.va == tableVA n va
  match cached with
  | some p => .ok (p.level, p.table)
  | none =>
    match s.descFail asid va with
    | some f => .error f
    | none => if s.tableOk asid d.wg d.root then .ok (0, d.root) else .error (plainFail 1 rBADPA va)

/-- A walk for a warp; how deep a cached pointer it finds is not visible to software, and free (R72, log 41). -/
def State.startWalk (s : State) (c : CoreId) (w : WarpId) (asid va : Nat) : State :=
  let (n, s1) := s.freshFree
  match s.walkStart c asid va (Config.pointerDepth n) with
  | .error f => (s1.found { cls := f.cls, err := f.err }).walkFailed w ⟨f.va, f.cls, f.reason, f.aux⟩
  | .ok (level, table) =>
    s1.modDie c.die fun d => { d with walks := d.walks ++ [⟨c, w, asid, s.genOf c asid, va, level, table, []⟩] }

/-- Walks for the addresses that missed, one for each 64 KiB frame. -/
def State.startWalks (s : State) (w : Warp) (g : Group) (vas : List Nat) : State :=
  ((vas.map fun a => a / 65536 * 65536).eraseDups).foldl (fun st a => st.startWalk g.core w.id g.asid a) s

/-! ### Format entries (R76, R78) -/

/-- The address of a format entry, if the table may be read (R78). -/
def State.fmtEntryPA (s : State) (asid idx : Nat) : Option Nat :=
  let d := s.desc asid
  if s.tableOk asid d.wg d.fmtbase then some (d.fmtbase + 32 * idx) else none

/-- The failure of the read of a format entry, or of the descriptor that names its table (R68, R414, R422). -/
def State.fmtFail (s : State) (asid idx va : Nat) : Option AccFail :=
  match s.descFail asid va, s.fmtEntryPA asid idx with
  | some f, _ => some { f with reason := 0 }
  | none, some a => let wg := (s.desc asid).wg; (s.tableRead wg 0 va a).or (s.tableRead wg 0 va (a + 16))
  | none, none => none

/-- A format entry as memory holds it; none where it is unusable. -/
def State.fmtNow (s : State) (asid idx : Nat) : Option Fmt :=
  match s.fmtEntryPA asid idx with
  | none => none
  | some a => Fmt.parse (s.devNat a 4) (s.devNat (a + 8) 8) (s.devNat (a + 16) 8)

/-- What a core's format cache knows of an entry: none for a miss, then whether it is usable. -/
def State.fmt? (s : State) (c : CoreId) (asid idx : Nat) : Option (Option Fmt) :=
  let g := s.genOf c asid
  ((s.core c).fmts.find? fun e => e.asid == asid && e.gen == g && e.idx == idx).map (·.fmt)

/-- The same as an engine of the core reads it for an access to `va`: through the core's format cache (R78). -/
def State.fmtFor (s : State) (c : CoreId) (asid idx va : Nat) : Except AccFail (Option Fmt) :=
  match s.fmt? c asid idx, s.fmtFail asid idx va with
  | some f, _ => .ok f
  | none, some e => .error e
  | none, none => .ok (s.fmtNow asid idx)

/-- The address under which a failed read of a format entry is kept. -/
def fmtFailVA : Nat := 2 ^ 64
/-- A failed read of a format entry (R218). -/
def Warp.fmtFail? (w : Warp) : Option WalkFail := w.fails.find? fun f => f.va == fmtFailVA

/-- A format entry that missed is asked for. -/
def State.startFmtRead (s : State) (w : Warp) (g : Group) (idx : Nat) : State :=
  s.modCore g.core fun k => { k with fmtReads := k.fmtReads ++ [⟨w.id, g.asid, idx⟩] }

/-- The scale byte of an element at a virtual address (R79), or none before DBASE. -/
def Fmt.scaleVA (f : Fmt) (va : Nat) : Option Nat :=
  if va < f.dbase then none else some ((f.sbase + (va - f.dbase) / f.blkZ) % 2 ^ 56)

end Sys2Proof.Machine
end

