-- ==== Sys2Proof/Machine/L1.lean ====
section
/-!
DEFINITION. The L1 of a core (R105 to R107, R334), its combining buffer (R110 to R112), atomics at home (R294, R295,
R304) and the actions of releases and acquires (R289).
-/
namespace Sys2Proof.Machine

/-! ### Lines -/

/-- The set of a virtual line (R105). -/
def l1Set (vaLine : Nat) : Nat := vaLine / 128 % 128

def Core.l1Line? (k : Core) (set line : Nat) : Option L1Line := k.l1.find? fun l => l.set == set && l.line == line

def l1Invalid : L1Byte := ⟨0, false, none⟩

/-- A line's bytes that a test names, by offset. -/
def L1Line.pick (l : L1Line) (p : L1Byte → Bool) : LineBytes :=
  (l.bytes.mapIdx fun i b => (i, b)).filterMap fun c => if p c.2 then some (c.1, c.2.val) else none

/-- Whether a byte is dirty, and of an epoch before `e` (R334). -/
def L1Byte.isDirty (b : L1Byte) : Bool := b.dirty.isSome
def L1Byte.before (e : Nat) (b : L1Byte) : Bool := match b.dirty with | some n => n < e | none => false

/-- Whether a request's fill of its line is on its way. -/
def Req.filling (r : Req) : Bool :=
  (r.kind == .load || r.kind == .prefL1) && !r.noAlloc && !r.acq && r.gran.isNone && r.cp != 2 &&
  match r.stage with | .fabric _ | .probe _ | .probed _ => true | _ => false

/-- The fills on their way that a test names come too late for an order that has just been made: what they bring is not kept, and
no later read joins them (R107, R121, R282, R325). -/
def Core.taint (k : Core) (p : Req → Bool) : Core :=
  { k with reqs := k.reqs.map fun r => if r.filling && p r then { r with stale := true } else r }

/-- Whether a request reads a line that is on its way to it. -/
def Req.reading (r : Req) (line : Nat) : Bool :=
  r.kind == .load && !r.spm && !r.acq && r.line == line && match r.stage with | .fabric _ | .joined _ => true | _ => false

/-- Whether a request writes memory at its home or in its L1. -/
def Req.writes (r : Req) : Bool :=
  match r.kind with
  | .store | .atom _ _ _ _ => true
  | _ => false

/-- Whether a write of a line is on its way from the core to its home. -/
def Core.writing (k : Core) (line : Nat) : Bool :=
  k.reqs.any fun r => r.line == line && r.writes && match r.stage with | .fabric _ => true | _ => false

/-- Whether home has served the read that a request, or the one whose fill it has joined, sent there. -/
def State.served (s : State) (r : Req) : Bool :=
  let carrier := match r.stage with | .joined rid => (s.req? r.core rid).getD r | _ => r
  match carrier.stage with
  | .fabric pid => match s.packet? pid with | some p => p.resp | none => false
  | _ => false

/-- Dirty bytes leave a line: the reads of the line that its home has served already do not lose them, and no fill on its way is kept
(R105, R282); a read that home serves later finds them there. -/
def State.leave (s : State) (c : CoreId) (line : Nat) (bs : LineBytes) : State :=
  if bs.isEmpty then s
  else
    s.modCore c fun k =>
      let k1 := k.taint fun r => r.line == line
      { k1 with reqs := k1.reqs.map fun r => if r.reading line && s.served r then { r with kept := bs ++ r.kept } else r }

/-- A line's bytes as a response carries them, under those that the read has kept. -/
def Req.patch (r : Req) (data : List Byte) : List Byte :=
  (List.range 128).map fun i => ((r.kept.find? fun b => b.1 == i).map (·.2)).getD (data.getD i 0)

/-- Bytes of a line, chosen by a test, written home with their masks; they stay, clean. -/
def State.l1Home (s : State) (c : CoreId) (l : L1Line) (p : L1Byte → Bool) : State :=
  (((s.leave c l.line (l.pick p)).homeWrite c.die 0xFFF l.wg 0 l.line (l.pick p))).modCore c fun k =>
    { k with l1 := k.l1.map fun o =>
        if o.set == l.set && o.line == l.line then
          { o with bytes := o.bytes.map fun b => if p b then { b with dirty := none } else b }
        else o }

/-- Bytes of every non-private line, chosen by a test, written home. -/
def State.l1Flush (s : State) (c : CoreId) (p : L1Byte → Bool) : State :=
  (s.core c).l1.foldl (fun st l => if l.priv.isSome then st else st.l1Home c l p) s

/-- The dirty bytes of releases before the last go home, before what the core sends there now (R334, R335). -/
def State.l1Older (s : State) (c : CoreId) : State := s.l1Flush c (L1Byte.before (s.core c).epoch)

/-- The newest epoch among a line's dirty bytes. -/
def L1Line.newest (l : L1Line) : Nat := (l.bytes.filterMap (·.dirty)).foldl max 0

/-- A line's dirty bytes written home; dirty bytes of older epochs go first (R334). -/
def State.l1Clean (s : State) (c : CoreId) (set line : Nat) : State :=
  match (s.core c).l1Line? set line with
  | none => s
  | some l =>
    if l.bytes.any L1Byte.isDirty then
      let s1 := if l.priv.isSome then s else s.l1Flush c (L1Byte.before l.newest)
      s1.l1Home c l L1Byte.isDirty
    else s

/-- A line invalidated. -/
def State.l1Drop (s : State) (c : CoreId) (set line : Nat) : State :=
  s.modCore c fun k => { k with l1 := k.l1.filter fun o => !(o.set == set && o.line == line) }

/-- A line cleaned and invalidated in every set that holds it. -/
def State.l1Purge (s : State) (c : CoreId) (line : Nat) : State :=
  ((s.core c).l1.filter fun o => o.line == line).foldl (fun st o => (st.l1Clean c o.set o.line).l1Drop c o.set o.line)
    (s.modCore c fun k => k.taint fun r => r.line == line)

/-- The warp that a line is private to, as a request of a warp would tag it (R114). -/
def Req.privOf (r : Req) (warp : WarpId) : Option WarpId := if r.priv then some warp else none

/-- A line that a request of a warp reaches under another tag than its own: a private line holds data of one warp only, so a line with
another tag is written back and dropped (R114); and a line filled under RO = 1 that an access under RO = 0 reaches loses its clean bytes,
since no acquire has invalidated them (R107, R326). -/
def State.adopt (s : State) (r : Req) (warp : WarpId) : State :=
  match (s.core r.core).l1Line? (l1Set r.vaLine) r.line with
  | none => s
  | some l =>
    if l.priv != r.privOf warp then s.l1Purge r.core r.line
    else if l.ro && !r.ro then
      s.modCore r.core fun k => { k with l1 := k.l1.map fun o =>
        if o.set == l.set && o.line == l.line then
          { o with ro := false, bytes := o.bytes.map fun b => if b.isDirty then b else l1Invalid }
        else o }
    else s

/-- A way is made free in a set of 16 (R105); which line leaves it is not architectural (log 6). -/
def State.l1Room (s : State) (c : CoreId) (set : Nat) : State :=
  let ways := (s.core c).l1.filter fun o => o.set == set
  if ways.length < 16 then s
  else
    let (n, s1) := s.freshFree
    match ways[Config.l1Victim n % ways.length]? with
    | none => s1
    | some v => (s1.l1Clean c v.set v.line).l1Drop c v.set v.line

/-- A line present in the L1, added with no valid byte where it is absent. -/
def State.l1Alloc (s : State) (r : Req) (warp : WarpId) (wg : Nat) : State :=
  let set := l1Set r.vaLine
  if ((s.core r.core).l1Line? set r.line).isSome then s
  else
    let s1 := s.l1Room r.core set
    s1.modCore r.core fun k =>
      { k with l1 :=
          ⟨set, r.line, r.cp, r.ro, wg, r.privOf warp, List.replicate 128 l1Invalid⟩ :: k.l1 }

/-- A line's bytes changed. -/
def State.l1Map (s : State) (c : CoreId) (set line : Nat) (f : Nat → L1Byte → L1Byte) : State :=
  s.modCore c fun k =>
    { k with l1 := k.l1.map fun o => if o.set == set && o.line == line then { o with bytes := o.bytes.mapIdx f } else o }

/-- The place of a request's first piece: the word of an atomic. -/
def Req.wordPA (r : Req) : Nat := ((r.pieces.head?).map (·.pa)).getD 0

/-- The sectors that a request needs. -/
def Req.sectors (r : Req) : List Nat :=
  (List.range 4).filter fun i => r.pieces.any fun p => (p.pa % 128) / 32 ≤ i && i ≤ (p.pa % 128 + p.len - 1) / 32

/-- The part of a piece that lies in a sector of its line. -/
def Piece.inSector (p : Piece) (i : Nat) : Option Piece :=
  let at_ := p.pa % 128
  let lo := max at_ (32 * i)
  let n := min (at_ + p.len) (32 * i + 32) - lo
  let d := lo - at_
  if n == 0 then none
  else some { p with off := p.off + d, va := p.va + d, pa := p.pa + d, len := n, data := (p.data.drop d).take n }

/-- A request's pieces, cut to the sectors that a test names (R108). -/
def Req.inSectors (r : Req) (f : Nat → Bool) : List Piece :=
  r.pieces.flatMap fun p => ((List.range 4).filter f).filterMap p.inSector

/-- The bytes that a store's pieces write, by offset; later threads' bytes stand last (R101). -/
def Req.storeBytes (r : Req) : LineBytes :=
  r.pieces.flatMap fun p => p.data.mapIdx fun i b => (p.pa % 128 + i, b)
/-- The last byte written at each offset. -/
def lastBytes (bs : LineBytes) : LineBytes :=
  (List.range 128).filterMap fun i => ((bs.filter fun c => c.1 == i).getLast?).map fun c => (i, c.2)

/-- Whether every byte of a sector is valid; of a sector that is not, only the dirty bytes count (R105). -/
def L1Line.sectorOk (l : L1Line) (i : Nat) : Bool := (List.range 32).all fun j => (l.bytes.getD (32 * i + j) l1Invalid).valid

/-- Whether the L1 holds every sector that a request needs. -/
def L1Line.hasAll (l : L1Line) (r : Req) : Bool := r.sectors.all l.sectorOk

/-- Pieces filled from a line of bytes. -/
def fillPieces (ps : List Piece) (byte : Nat → Byte) : List Piece :=
  ps.map fun p => { p with data := (List.range p.len).map fun i => byte (p.pa % 128 + i) }

/-- Whether the L1's byte stands before the one that a response carries: its sector is wholly valid, or it is dirty (R105). -/
def L1Line.keeps (l : L1Line) (i : Nat) : Bool := l.sectorOk (i / 32) || (l.bytes.getD i l1Invalid).isDirty

/-- A line's byte as the L1 holds it, else as a response carries it. -/
def overlay (l : Option L1Line) (data : List Byte) (i : Nat) : Byte :=
  match l with
  | some o => if o.keeps i then (o.bytes.getD i l1Invalid).val else data.getD i 0
  | none => data.getD i 0

/-- Store bytes merged into a line, dirty in the current epoch; or, of a store that is sent home too, clean, and only where the
line's byte is valid already (R105, log 6). -/
def State.l1Merge (s : State) (c : CoreId) (set line : Nat) (bs : LineBytes) (dirty : Bool) : State :=
  let e := (s.core c).epoch
  s.l1Map c set line fun i b =>
    match bs.find? fun x => x.1 == i with
    | some x => if dirty then ⟨x.2, true, some e⟩ else if b.valid then ⟨x.2, true, none⟩ else b
    | none => b

/-- Whether a fill may join the line that the L1 holds meanwhile: it is of the same warp, or of none, and no fill under RO = 1 joins a
line that acquires invalidate (R107, R114). -/
def L1Line.takes (l : L1Line) (r : Req) (warp : WarpId) : Bool := l.priv == r.privOf warp && (l.ro || !r.ro)

/-- A response's sectors installed; wholly valid sectors and dirty bytes stay (R105). -/
def State.l1Install (s : State) (r : Req) (warp : WarpId) (wg : Nat) (secs : List Nat) (data : List Byte) : State :=
  let held := (s.core r.core).l1Line? (l1Set r.vaLine) r.line
  let s1 := if held.all fun l => l.takes r warp then (s.adopt r warp).l1Alloc r warp wg else s
  match (s1.core r.core).l1Line? (l1Set r.vaLine) r.line with
  | none => s1
  | some l =>
    if !l.takes r warp then s1
    else
      s1.l1Map r.core (l1Set r.vaLine) r.line fun i b =>
        if secs.contains (i / 32) && !l.keeps i then ⟨data.getD i 0, true, none⟩ else b

/-! ### Atomics at home -/

/-- Width in bytes of an atomic's word. -/
def Ty.bytes : Ty → Nat
  | .s64 | .u64 | .b64 => 8
  | _ => 4

/-- Signed reading of a word of a type. -/
def Ty.toZ (t : Ty) (x : DWord) : Int :=
  match t with
  | .s32 => x.lo.toInt
  | .s64 => x.toInt
  | .u64 | .b64 => x.toNat
  | _ => x.lo.toNat

/-- new(old, c) of R294, R297 and R304. -/
def AOp.apply (op : AOp) (ty : Ty) (old c : DWord) : DWord :=
  match op with
  | .add =>
    match ty with
    | .f32 =>
      let a := unpackF fp32 false old.lo.toNat
      let b := unpackF fp32 false c.lo.toNat
      BitVec.ofNat 64 (roundF fp32 0 false (addF 0 a b).1).1
    | .s64 | .u64 => old + c
    | _ => (old.lo + c.lo).toD
  | .min =>
    match ty with
    | .f32 => BitVec.ofNat 64 (minmaxF fp32 false false false old.lo.toNat c.lo.toNat).1
    | _ => if ty.toZ c < ty.toZ old then c else old
  | .max =>
    match ty with
    | .f32 => BitVec.ofNat 64 (minmaxF fp32 false false true old.lo.toNat c.lo.toNat).1
    | _ => if ty.toZ old < ty.toZ c then c else old
  | .and => old &&& c
  | .or => old ||| c
  | .xor => old ^^^ c
  | .exch => c
  | .cas cmp => if old == cmp then c else old
  | .cadd => BitVec.ofNat 64 (Nat.min (old.toNat + c.toNat) (2 ^ 64 - 1))

/-- A word at its home. -/
def State.homeWord (s : State) (pa w : Nat) : DWord := BitVec.ofNat 64 (s.devNat pa w)
/-- A word written at its home. -/
def State.homeSetWord (s : State) (src slot wg cp pa w : Nat) (x : DWord) : State :=
  s.homePuts src slot wg cp pa (leBytes w x.toNat)

/-- An add to a counter that saturates (R304, R305): the state, and whether it passed 2^64 - 1. -/
def State.homeAdd (s : State) (src slot wg cp pa : Nat) (amt : DWord) : State × Bool :=
  let old := s.homeWord pa 8
  (s.homeSetWord src slot wg cp pa 8 (AOp.cadd.apply .u64 old amt), 2 ^ 64 ≤ old.toNat + amt.toNat)

/-! ### The combining buffer -/

/-- A group takes class 0 at its next instruction boundary (R42): its lowest live warp stands for it. Of two groups that share a slot it
is the older one (log 43). -/
def State.groupCheck (s : State) (die slot : Nat) (cause : Cause) : State :=
  match s.groups.find? fun g => g.core.die == die && g.slot == slot with
  | none => s
  | some g =>
    let w := ((s.warpsOf g.core g.slot).head?)
    let i : Issuer := match w with
      | some x => ⟨x.id, x.widx, x.runPos, x.pc, x.age⟩
      | none => ⟨⟨die, g.core.core, 0, 0⟩, 0, 0, 0, 0⟩
    s.deferTrap g.core g.slot i cause true

/-- An entry sent: the L1 gives up its line, as before any RED that leaves the core, and one RED at the home slice's atomic unit
is acknowledged (R105, R110, R334, log 6); a home that refuses it charges class 0 to its group (R421, R422). -/
def State.combSend (s0 : State) (c : CoreId) (e : CombEntry) : State :=
  let s := (s0.l1Purge c (lineOf e.pa)).l1Older c
  let s1 :=
    if s.memDown e.pa || s.bypass e.pa then s.groupCheck c.die e.slot { cls := 0, kind := Kind.atomic.no, aux := auxOf e.pa 0 }
    else
      s.homeSetWord c.die (if isCurator c then 0xFFF else e.slot) e.wg e.cp e.pa e.width
        (e.op.apply e.ty (s.homeWord e.pa e.width) e.val)
  s1.modCore c fun k => { k with comb := k.comb.filter fun o => o.pa != e.pa }

/-- Every entry that a test names, sent. -/
def State.combFlush (s : State) (c : CoreId) (p : CombEntry → Bool) : State :=
  ((s.core c).comb.filter p).foldl (fun st e => st.combSend c e) s

/-- The entries whose word overlaps some bytes, sent (R112). -/
def State.combTouch (s : State) (c : CoreId) (pa len : Nat) : State :=
  s.combFlush c fun e => e.pa < pa + len && pa < e.pa + e.width

/-- A relaxed RED of one thread enters the buffer (R110, R111). -/
def State.combPut (s : State) (c : CoreId) (e : CombEntry) : State :=
  match (s.core c).comb.find? fun o => o.pa == e.pa && o.width == e.width && o.op == e.op && o.ty == e.ty with
  | some o =>
    s.modCore c fun k =>
      { k with comb := k.comb.map fun x => if x.pa == o.pa then { x with val := o.op.apply o.ty o.val e.val } else x }
  | none =>
    let s1 := s.combTouch c e.pa e.width
    let s2 :=
      if (s1.core c).comb.length < 64 then s1
      else match (s1.core c).comb.head? with
        | some o => s1.combSend c o
        | none => s1
    s2.modCore c fun k => { k with comb := k.comb ++ [e] }

/-! ### Releases and acquires (R107, R289) -/

/-- The release actions once the stores it covers have left their count: the buffer is sent, a wide release writes
back every dirty byte that is not private, and a new epoch begins (R334). -/
def State.releaseActs (s : State) (c : CoreId) (wide : Bool) : State :=
  let s1 := s.combFlush c fun _ => true
  let s2 := if wide then s1.l1Flush c L1Byte.isDirty else s1
  s2.modCore c fun k => { k with epoch := k.epoch + 1 }

/-- The acquire actions of die scope or wider: every clean byte of a non-private line of a page with RO = 0 goes. -/
def State.acquireActs (s : State) (c : CoreId) (wide : Bool) : State :=
  if wide then
    s.modCore c fun k =>
      { (k.taint fun r => !r.ro && !r.priv) with l1 := k.l1.map fun l =>
          if l.ro || l.priv.isSome then l
          else { l with bytes := l.bytes.map fun b => if b.isDirty then b else l1Invalid } }
  else s

/-- Scope code of R278: core scope is code 1. -/
def wideScope (scope : Nat) : Bool := scope != 1

/-- PROMOTE reaches a core: its buffer is sent and its dirty bytes go home (R293). -/
def State.promoted (s : State) (c : CoreId) : State :=
  (s.combFlush c fun _ => true).l1Flush c L1Byte.isDirty

/-- A warp's private lines, written back and dropped, or dropped only (R114). -/
def State.privOut (s : State) (w : WarpId) (keep : Bool) : State :=
  let c := w.coreId
  let mine := (s.core c).l1.filter fun l => l.priv == some w
  let s1 := if keep then mine.foldl (fun st l => st.l1Home c l L1Byte.isDirty) s else s
  s1.modCore c fun k => { k with l1 := k.l1.filter fun l => l.priv != some w }

end Sys2Proof.Machine
end

