-- ==== Sys2Proof/Machine/Lsu.lean ====
section
/-!
DEFINITION. The load and store path of a core: addresses (R276, R113, R117), the checks of R103 and R115, windows and
requests (R100 to R102), entry into the L1 (R105, R106), completion (R108, R109) and held releases (R292).
-/
namespace Sys2Proof.Machine

/-! ### Addresses -/

/-- The effective address of a thread (R276); ATOMCAS has no offset. -/
def Warp.ea (w : Warp) (x : LongOp) (global offset : Bool) (t : Nat) : Nat :=
  let off : Word := if offset then (w.src x.lit .i32 x.b t).lo else 0
  if global then (w.src x.lit .d64 x.a t + off.signExtend 64).toNat else ((w.src x.lit .i32 x.a t).lo + off).toNat

/-- The places of `n` bytes at private offset `b` of thread `t` (R113): offset in the element, address, length. -/
def privParts (base t b n : Nat) : List (Nat × Nat × Nat) :=
  if n ≤ 4 then [(0, base + b / 4 * 128 + t * 4 + b % 4, n)]
  else (List.range (n / 4)).map fun i => (4 * i, base + (b / 4 + i) * 128 + t * 4, 4)

/-- The attributes that a piece's request follows. -/
structure Attr where
  wg : Nat
  cp : Nat
  ro : Bool
  deriving DecidableEq, Repr

/-- A thread's access: its address and its pieces with their pages' attributes. -/
structure Acc where
  thread : Nat
  va     : Nat
  pieces : List (Piece × Attr)
  deriving DecidableEq, Repr

/-- What the checks of R103 find for one access. -/
inductive AccRes where
  | good (a : Acc)
  | miss (vas : List Nat)
  | fmt (idx : Nat)                      -- a format entry that is not in the cache
  | bad (c : Cause)
  deriving DecidableEq, Repr

/-- Class 3 reasons (R116). -/
def rALIGN : Nat := 0x70
def rSTRADDLE : Nat := 0x71
def rTARGET : Nat := 0x72
def rRUNSHAPE : Nat := 0x73

/-- The cause of a failed translation or protection check. -/
def AccFail.cause (f : AccFail) (t : Nat) (k : Kind) : Cause :=
  { cls := f.cls, reason := f.reason, thread := t, kind := k.no, va := some f.va, aux := f.aux }

/-- Class 3, ALIGN. -/
def causeAlign (t : Nat) (k : Kind) (va : Nat) : Cause :=
  { cls := 3, reason := rALIGN, thread := t, kind := k.no, va := some va }

/-- A run of bytes of one page cut at its lines. -/
def linePieces (t off va pa len : Nat) : List Piece :=
  let first := 128 - va % 128
  if len ≤ first then [⟨t, off, va, pa, len, []⟩]
  else [⟨t, off, va, pa, first, []⟩, ⟨t, off + first, va + first, pa + first, len - first, []⟩]

/-- One part of an access: its pages translated and checked, then the page-crossing check (R73, R115). -/
def State.checkPart (s : State) (w : Warp) (g : Group) (k : Kind) (t : Nat) (part : Nat × Nat × Nat) : AccRes :=
  let (off, va, len) := part
  let attr (l : Leaf) : Attr := ⟨l.wg, l.cp, l.ro⟩
  match s.lookup w g k va with
  | .fail f => .bad (f.cause t k)
  | .miss => .miss [va]
  | .hit l =>
    let room := l.size - va % l.size
    if len ≤ room then .good ⟨t, va, (linePieces t off va (l.pa va) len).map fun p => (p, attr l)⟩
    else
      match s.lookup w g k (va + room) with
      | .fail f => .bad (f.cause t k)
      | .miss => .miss [va + room]
      | .hit l2 =>
        if l.cp != l2.cp || l.fmt != l2.fmt || l.wg != l2.wg then
          .bad { cls := 3, reason := rSTRADDLE, thread := t, kind := k.no, va := some (va + room) }
        else
          .good ⟨t, va, [(⟨t, off, va, l.pa va, room, []⟩, attr l),
            (⟨t, off + room, va + room, l2.pa (va + room), len - room, []⟩, attr l2)]⟩

/-- Results of the parts of one access, in order: the first that fails stands, then what is missing. -/
def AccRes.join (a b : AccRes) : AccRes :=
  match a, b with
  | .bad c, _ => .bad c
  | .miss l, .miss m => .miss (l ++ m)
  | .miss l, _ => .miss l
  | .fmt i, _ => .fmt i
  | .good _, .bad c => .bad c
  | .good _, .miss m => .miss m
  | .good _, .fmt i => .fmt i
  | .good x, .good y => .good { x with pieces := x.pieces ++ y.pieces }

/-- All parts of an access checked. -/
def State.checkParts (s : State) (w : Warp) (g : Group) (k : Kind) (t : Nat) (parts : List (Nat × Nat × Nat)) : AccRes :=
  let va := (parts.headD (0, 0, 0)).2.1
  (parts.map (s.checkPart w g k t)).foldl AccRes.join (.good ⟨t, va, []⟩)

/-- A private access: word by word, never under a page's own caching (R113, R114). DESIGN CHOICE (log 6): a relaxed RED.pv on a page of
CP 2 too takes R114's write-back caching, and rests in the combining buffer, where R110 lets no RED to an uncached page rest. -/
def State.checkPriv (s : State) (w : Warp) (g : Group) (k : Kind) (t b n : Nat) : AccRes :=
  if b % n != 0 then .bad (causeAlign t k b)
  else
    match s.checkParts w g (if k == .read then .write else k) t (privParts w.privbase t b n) with
    | .good a => .good { a with pieces := a.pieces.map fun p => (p.1, { p.2 with cp := 0 }) }
    | .bad c => .bad { c with kind := k.no }
    | r => r

/-- Beyond every scratchpad: an access there loads zeros or is discarded (R117). -/
def spmBeyond : Nat := 2 ^ 40

/-- A scratchpad access (R115, R117). -/
def Group.checkSpm (g : Group) (k : Kind) (t a n : Nat) : AccRes :=
  if a % n != 0 then .bad (causeAlign t k a)
  else
    let pa := if a + n ≤ g.res.spm * 512 then g.spmBase + a else spmBeyond
    .good ⟨t, a, [(⟨t, 0, a, pa, n, []⟩, ⟨0, 0, false⟩)]⟩

/-- What an instruction's accesses come to: they all pass, it waits, or the lowest failing thread's trap is raised. -/
inductive Checked where
  | good (l : List Acc)
  | wait (vas : List Nat) (fmts : List Nat)
  | bad (c : Cause)
  deriving DecidableEq, Repr

/-- The results of the active threads, ascending (R103). -/
def checkAll : List AccRes → Checked
  | [] => .good []
  | .bad c :: _ => .bad c
  | .good a :: rs =>
    match checkAll rs with
    | .good l => .good (a :: l)
    | .wait v f => .wait v f
    | .bad c => .bad c
  | .miss vas :: rs =>
    match checkAll rs with
    | .wait v f => .wait (vas ++ v) f
    | _ => .wait vas []
  | .fmt i :: rs =>
    match checkAll rs with
    | .wait v f => .wait v (i :: f)
    | _ => .wait [] [i]

/-! ### Requests -/

/-- A key inserted in ascending order. -/
def insertAsc (k : Nat) : List Nat → List Nat
  | [] => [k]
  | x :: xs => if k < x then k :: x :: xs else if k == x then x :: xs else x :: insertAsc k xs

/-- What every request of an instruction shares; an atomic's kind holds its thread's operand. -/
structure ReqOpts where
  kind    : Nat → ReqKind
  spm     : Bool := false
  priv    : Bool := false
  noAlloc : Bool := false
  acq     : Bool := false
  acqBit  : Bool := false
  pace    : Nat := 1

/-- A request from its pieces. -/
def mkReq (rid iid : Nat) (core : CoreId) (seq : Nat) (o : ReqOpts) (shape : ReqShape) (ps : List (Piece × Attr)) : Req :=
  let p0 := (ps.head?.map (·.1)).getD ⟨0, 0, 0, 0, 0, []⟩
  let at_ := (ps.head?.map (·.2)).getD ⟨0, 0, false⟩
  { rid := rid, iid := iid, core := core, kind := o.kind p0.thread, spm := o.spm, line := lineOf p0.pa, vaLine := lineOf p0.va,
    cp := at_.cp, ro := at_.ro, priv := o.priv, noAlloc := o.noAlloc, acq := o.acq, seq := seq,
    gran := if shape == .granule then some (p0.pa % 128 / 16) else none, pieces := ps.map (·.1), stage := .lane, wg := at_.wg,
    acqBit := o.acqBit, stale := false, kept := [] }

/-! ### Issue of a memory instruction -/

/-- The count that a class moves (R109). -/
def Warp.count (w : Warp) (c : Cls) : Nat :=
  match c with | .gld => w.gld | .gst => w.gst | .spm => w.spm | .none => 0
def Warp.addCount (w : Warp) (c : Cls) (up : Bool) : Warp :=
  let f (n : Nat) : Nat := if up then n + 1 else n - 1
  match c with
  | .gld => { w with gld := f w.gld }
  | .gst => { w with gst := f w.gst }
  | .spm => { w with spm := f w.spm }
  | .none => w

/-- One request for each piece, named from `rid` on; windows join them (R101). -/
def nameReqs (rid iid : Nat) (core : CoreId) (seq : Nat) (o : ReqOpts) (shape : ReqShape) : List (Piece × Attr) → List Req
  | [] => []
  | p :: rest => mkReq rid iid core seq o shape [p] :: nameReqs (rid + 1) iid core seq o shape rest

/-- An instruction's accesses, all checked, stand ready in their lane; it is counted once (R99, R109). -/
def State.launch (s : State) (w : Warp) (g : Group) (o : ReqOpts) (shape : ReqShape) (whole : Bool) (cls : Cls) (dst : Sel)
    (form : LdForm) (accs : List Acc) : State × Nat :=
  let (iid, s1) := s.fresh
  let reqs := nameReqs s1.names iid g.core (s.core g.core).seq o shape (accs.flatMap (·.pieces))
  let out : Outst :=
    { iid := iid, warp := w.id, grp := g.slot, asid := g.asid, cls := cls, pc := w.pc, split := w.runPos, age := w.age, dst := dst, form := form,
      left := reqs.length, got := [], shape := shape, whole := whole, pace := o.pace, leaves := s.clk + o.pace - 1 }
  let s2 := { s1 with names := s1.names + reqs.length }
  let s3 := s2.modCore g.core fun k => { k with reqs := k.reqs ++ reqs, outst := k.outst ++ [out] }
  (s3.modWarp w.id fun x => { x.addCount cls true with fails := [] }, iid)

/-! ### The quad port and the windows (R99, R100) -/

/-- The warp of a request's instruction. -/
def Core.warpOf (k : Core) (r : Req) : WarpId :=
  ((k.outst.find? fun o => o.iid == r.iid).map (·.warp)).getD ⟨r.core.die, r.core.core, 0, 0⟩

/-- The thread of a request's first piece. -/
def Req.thread (r : Req) : Nat := ((r.pieces.head?).map (·.thread)).getD 0

/-- The lines that some accesses need (R100). -/
def linesOf (rs : List Req) : List Nat := ((rs.flatMap (·.pieces)).map fun p => p.va / 128).eraseDups

/-- The window that an access joins which leaves in cycle `c`: the newest of its instruction, or one of its own (R100). -/
def Core.joinWindow (k : Core) (o : Outst) (c : Nat) (acc : List Req) : Stage :=
  let own : Stage := .window ((acc.head?.map (·.rid)).getD 0) c
  let mine := k.reqs.filter fun r => r.iid == o.iid && match r.stage with | .window _ _ => true | _ => false
  match (mine.getLast?.map (·.stage)).getD own with
  | .window n opened =>
    let win := mine.filter fun r => r.stage == .window n opened
    if opened + 7 < c || (o.shape != .row && 4 < (linesOf (win ++ acc)).length) then own else .window n opened
  | _ => own

/-- The requests of an instruction's next access, or of all its accesses on the whole-instruction path (R99, R102). -/
def Core.nextAccess (k : Core) (o : Outst) : List Req :=
  let mine := k.reqs.filter fun r => r.iid == o.iid && r.stage == .lane
  if o.whole then mine else mine.filter fun r => some r.thread == mine.head?.map Req.thread

/-- An access leaves its lane. -/
def State.leaveLane (s : State) (c : CoreId) (o : Outst) : State :=
  let acc := (s.core c).nextAccess o
  let st := (s.core c).joinWindow o s.clk acc
  s.modCore c fun k =>
    { k with
      reqs := k.reqs.map fun r => if acc.any fun a => a.rid == r.rid then { r with stage := st } else r
      outst := k.outst.map fun x => if x.iid == o.iid then { x with leaves := s.clk + x.pace } else x }

/-- Whether accesses of an instruction have not left their lane. -/
def Core.inLane (k : Core) (iid : Nat) : Bool := k.reqs.any fun r => r.iid == iid && r.stage == .lane

/-- Whether a request is of a window. -/
def Req.inWindow (r : Req) (iid n : Nat) : Bool := r.iid == iid && match r.stage with | .window m _ => m == n | _ => false

/-- The requests that a window forms, in the order in which each was first needed, ascending for the whole-instruction path; they take
the first of its names (R101, R102, R118). -/
def formReqs (shape : ReqShape) (asc : Bool) (mine : List Req) : List Req :=
  if shape == .single then mine
  else
    let u := if shape == .line then 128 else 16
    let key (r : Req) : Nat := ((r.pieces.head?).map (·.va)).getD 0 / u
    let keys := if asc then mine.foldl (fun l r => insertAsc (key r) l) [] else (mine.map key).eraseDups
    (keys.zip mine).filterMap fun e =>
      let group := mine.filter fun r => key r == e.1
      group.head?.map fun r => { r with rid := e.2.rid, pieces := group.flatMap (·.pieces) }

/-- Requests of a core beyond its L1 (R104). -/
def Core.beyond (k : Core) : Nat :=
  (k.reqs.filter fun r => match r.stage with | .fabric _ | .probe _ | .probed _ | .monitor | .retry _ => true | _ => false).length

/-- Whether a window's requests have room beyond the L1, beside those there and those that the same instruction's earlier windows
have formed; scratchpad rows need none (R104). -/
def Core.closeFits (k : Core) (iid n : Nat) : Bool :=
  let formed := (k.outst.find? fun o => o.iid == iid).map fun o => (formReqs o.shape o.whole (k.reqs.filter (·.inWindow iid n))).length
  (k.reqs.any fun r => r.inWindow iid n && r.spm) ||
  k.beyond + (k.reqs.filter fun r => r.iid == iid && r.stage == .waiting).length + formed.getD 0 ≤ 2048

/-- Whether no later access of its instruction can join the window of a request (R100). -/
def Core.windowDue (k : Core) (clk iid n opened : Nat) : Bool :=
  opened + 7 < clk || !k.inLane iid || k.reqs.any fun q => q.iid == iid && match q.stage with | .window m _ => n < m | _ => false

/-- The window that closes next: no later access of its instruction can join it, and its requests have room (R100, R104). -/
def Core.closing (k : Core) (clk : Nat) : Option (Nat × Nat) :=
  k.reqs.findSome? fun r =>
    match r.stage with
    | .window n opened => if k.windowDue clk r.iid n opened && k.closeFits r.iid n then some (r.iid, n) else none
    | _ => none

/-- Whether a window of an older instruction of a lane waits at close for room: the lane's next instruction does not get the port
meanwhile (R104). -/
def Core.heldBefore (k : Core) (clk lane iid : Nat) : Bool :=
  k.reqs.any fun r =>
    r.iid < iid && (k.warpOf r).lane == lane &&
    match r.stage with
    | .window n opened => k.windowDue clk r.iid n opened && !k.closeFits r.iid n
    | _ => false

/-- The instruction whose access stands ready in a lane. -/
def Core.laneHead (k : Core) (clk lane : Nat) : Option Outst :=
  (k.outst.find? fun o => o.warp.lane == lane && k.inLane o.iid).bind fun o =>
    if o.leaves ≤ clk && !k.heldBefore clk lane o.iid then some o else none

/-- The lanes of a quad in grant order, after the one granted last (R99). -/
def turnFrom (last : Nat) : List Nat := (List.range 4).map fun i => (last + 1 + i) % 4

/-- The coalescer port of a quad grants one lane (R99). -/
def State.grantQuad (s : State) (c : CoreId) (q : Nat) : State :=
  let k := s.core c
  match (turnFrom (k.ports.getD q (3, 3, 3)).1).findSome? fun i => (k.laneHead s.clk (4 * q + i)).map fun o => (i, o) with
  | none => s
  | some (i, o) =>
    (s.leaveLane c o).modCore c fun k => { k with ports := k.ports.mapIdx fun j p => if j == q then (i, p.2) else p }

/-- Every quad's coalescer port grants one lane. -/
def State.grantPorts (s : State) (c : CoreId) : State := (List.range 16).foldl (fun st q => st.grantQuad c q) s

/-- Walks and format reads begin for an instruction, whose split waits for them (R69, R78). -/
def State.waitWalk (s : State) (w : Warp) (g : Group) (vas fmts : List Nat) (phase : Nat) : State :=
  let s1 := s.block w .walk phase
  let s2 := if vas.isEmpty then s1 else s1.startWalks w g vas
  (fmts.eraseDups).foldl (fun st i => st.startFmtRead w g i) s2

/-! ### Completion -/

/-- One request of an instruction is done: with the last one the instruction leaves its count (R109). -/
def State.finishReq (s : State) (c : CoreId) (iid : Nat) : State :=
  match (s.core c).outst.find? fun o => o.iid == iid with
  | none => s
  | some o =>
    if o.left ≤ 1 then
      (s.modCore c fun k => { k with outst := k.outst.filter fun x => x.iid != iid }).modWarp o.warp
        fun w => w.addCount o.cls false
    else s.modCore c fun k =>
      { k with outst := k.outst.map fun x => if x.iid == iid then { x with left := x.left - 1 } else x }

/-- A request leaves its core, and its instruction may be done. -/
def State.endReq (s : State) (r : Req) : State := (s.dropReq r.core r.rid).finishReq r.core r.iid

/-- Bytes `lo` to `lo + n - 1` of a thread's element, if all of them have been received. -/
def gotFrom (got : List Piece) (t lo n : Nat) : Option (List Byte) :=
  let mine := got.filter fun p => p.thread == t
  let at_ (i : Nat) : Option Byte :=
    (mine.find? fun p => p.off ≤ i && i < p.off + p.len).bind fun p => p.data[i - p.off]?
  (List.range n).mapM fun i => at_ (lo + i)

/-- Bytes that have been received for a thread's element, if all `n` of them have. -/
def gotBytes (got : List Piece) (t n : Nat) : Option (List Byte) := gotFrom got t 0 n

/-- A register's word of one thread written by a load; the register is general (R108, R146). -/
def Warp.loadWord (w : Warp) (n t : Nat) (x : Word) : Warp :=
  w.setV n ⟨.general, (List.range 32).map fun u => if u == t then x else (w.getV n).get u⟩

/-- Words from a register upward. -/
def Warp.loadWords (w : Warp) (n t : Nat) : List Word → Warp
  | [] => w
  | x :: xs => (w.loadWord n t x).loadWords (n + 1) t xs

/-- A loaded element of at most 4 bytes as a register word (R279). -/
def extendLoad (n : Nat) (signed : Bool) (bs : List Byte) : Word :=
  let x := leNat bs
  if signed then BitVec.ofInt 32 (sextN x (8 * n)) else BitVec.ofNat 32 x

/-- Words of a byte list. -/
def wordsOf (bs : List Byte) : List Word :=
  (List.range (bs.length / 4)).map fun i => BitVec.ofNat 32 (leNat ((bs.drop (4 * i)).take 4))

/-- Bytes of a run of `ne` elements (R284). -/
def runBytes (cb ne : Nat) : Nat := max 1 (ne * cb / 8)

/-- Container bits of a thread's run under its page's format, or raw (R284). -/
def fmtBits (f : Option Fmt) (raw : Nat) : Nat := match f with | some x => x.cb | none => rawBits raw

/-- Bytes that a thread's access of a load brings: the element, and the scale byte of a block format. -/
def LdForm.len (f : LdForm) (t : Nat) : Nat :=
  match f with
  | .plain n _ | .warpOnce n _ | .atom n | .cas n _ => n
  | .dec fmts raw ne _ =>
    let ft := (fmts.getD t Option.none)
    runBytes (fmtBits ft raw) ne + (match ft with | some x => if x.blk == 0 then 0 else 1 | Option.none => 0)
  | .none => 0

/-- The FP32 patterns of a decoded run (R284). -/
def decodeRun (f : Option Fmt) (raw ne : Nat) (bs : List Byte) : List Nat :=
  let cb := fmtBits f raw
  let x := leNat (bs.take (runBytes cb ne))
  let sc := (bs.getD (runBytes cb ne) 127).toNat
  (List.range ne).map fun i =>
    let code := bitsN x (cb * i) cb
    match f with
    | some ft => ft.decode sc code
    | none => (roundF fp32 0 false (rawVal raw code)).1

/-- BF16 halves in words; a missing last half is zero (R284). -/
def packHalves : List Nat → List Word
  | [] => []
  | [a] => [BitVec.ofNat 32 a]
  | a :: b :: rest => BitVec.ofNat 32 (a + b * 2 ^ 16) :: packHalves rest

/-- A value written to an atomic's destination (R144: no lr). -/
def Warp.writeOne (w : Warp) (d : Sel) (wide : Bool) (t : Nat) (x : DWord) : Warp :=
  w.writeReg d wide (maskOf fun u => u == t) .general fun _ => x

/-- All bytes of thread t's element have come: its destination is written (R108, R283 to R286, R295, R297). -/
def Warp.receive (w : Warp) (o : Outst) (t : Nat) (bs : List Byte) : Warp :=
  let base := match o.dst with | .v n => n.val | _ => 0
  match o.form with
  | .plain n signed => if n ≤ 4 then w.loadWord base t (extendLoad n signed bs) else w.loadWords base t (wordsOf bs)
  | .warpOnce n signed =>
    let x : DWord := if n ≤ 4 then (extendLoad n signed bs).toD else BitVec.ofNat 64 (leNat bs)
    w.writeReg o.dst (n == 8) (BitVec.allOnes 32) (.uniform 0) fun _ => x
  | .dec fmts raw ne bf =>
    let vals := decodeRun (fmts.getD t none) raw ne bs
    w.loadWords base t (if bf then packHalves (vals.map (f32To bf16)) else vals.map (BitVec.ofNat 32))
  | .atom n | .cas n _ => w.writeOne o.dst (n == 8) t (BitVec.ofNat 64 (leNat bs))
  | .none => w

/-- The words of a wide element whose last bytes have just come are written; the others keep what they hold (R108). -/
def Warp.receiveWords (w : Warp) (o : Outst) (t n : Nat) (got : List Piece) : Warp :=
  let base := match o.dst with | .v n => n.val | _ => 0
  (List.range (n / 4)).foldl (fun a i =>
    match gotFrom o.got t (4 * i) 4, gotFrom got t (4 * i) 4 with
    | none, some bs => a.loadWord (base + i) t (BitVec.ofNat 32 (leNat bs))
    | _, _ => a) w

/-- What has come for a thread is written: the words of a wide element as they come, and any other element whole (R108). -/
def Warp.receiveThread (w : Warp) (o : Outst) (got : List Piece) (t : Nat) : Warp :=
  let whole : Warp := match gotBytes got t (o.form.len t) with | some bs => w.receive o t bs | none => w
  match o.form with
  | .plain n _ => if 4 < n then w.receiveWords o t n got else whole
  | _ => whole

/-- Received pieces join their instruction, and what they complete is written (R108). -/
def State.receive (s : State) (r : Req) : State :=
  match (s.core r.core).outst.find? fun o => o.iid == r.iid with
  | none => s
  | some o =>
    let got := o.got ++ r.pieces
    let s1 := s.modCore r.core fun k =>
      { k with outst := k.outst.map fun x => if x.iid == r.iid then { x with got := got } else x }
    s1.modWarp o.warp fun w => ((r.pieces.map (·.thread)).eraseDups).foldl (fun a t => a.receiveThread o got t) w

/-- The issuer of an outstanding instruction (R385). -/
def State.issuerOf (s : State) (o : Outst) : Issuer :=
  ⟨o.warp, ((s.warp? o.warp).map (·.widx)).getD 0, o.split, o.pc, o.age⟩

/-- The group slot that an instruction's traps are charged to: none once its group was killed. -/
def State.charged (s : State) (o : Outst) : Nat := ((s.warp? o.warp).map (·.grp)).getD 0xFFF

/-- The access kind of a request (R73). -/
def ReqKind.access : ReqKind → Kind
  | .load | .prefL1 | .prefL2 | .cread => .read
  | .store | .cctl _ => .write
  | .atom _ _ _ _ | .cwait _ => .atomic

/-- The piece of a request that touches the granule or unit at an address, else its first. -/
def Req.pieceAt (r : Req) (pa : Nat) : Option Piece :=
  (r.pieces.find? fun p => p.pa < pa + checkUnit pa && pa < p.pa + p.len) <|> r.pieces.head?

/-- A machine check met by a request: class 0, deferred, at the instruction that issued it and for the thread whose piece asked for the
granule; AUX holds the granule and the syndrome (R42, R385). A masked write's names the instruction at the boundary. VA is the
piece's (log 43). -/
def State.machineCheck (s : State) (r : Req) (aux : DWord) : State :=
  match (s.core r.core).outst.find? fun o => o.iid == r.iid with
  | none => s
  | some o =>
    let p := r.pieceAt (aux.toNat % 2 ^ 48)
    s.deferTrap r.core (s.charged o) (s.issuerOf o)
      { cls := 0, thread := (p.map (·.thread)).getD 0xFF, kind := r.kind.access.no, va := p.map (·.va), aux := aux } (r.kind == .store)

/-! ### The scratchpad (R117, R118) -/

def State.spmByte (s : State) (c : CoreId) (a : Nat) : Byte := memGet spmUnlisted (s.core c).spm a
def State.spmBytes (s : State) (c : CoreId) (a n : Nat) : List Byte := memGets spmUnlisted (s.core c).spm a n
def State.spmPuts (s : State) (c : CoreId) (a : Nat) (bs : List Byte) : State :=
  s.modCore c fun k => { k with spm := memPuts spmUnlisted k.spm a bs }

/-- A scratchpad request performed at its bank. -/
def State.spmServe (s : State) (r : Req) : State :=
  match r.kind with
  | .store =>
    let s1 := r.pieces.foldl (fun st p => if p.pa == spmBeyond then st else st.spmPuts r.core p.pa p.data) s
    s1.endReq r
  | _ =>
    s.modReq r.core r.rid fun q =>
      { q with
        pieces := q.pieces.map fun p =>
          { p with data := if p.pa == spmBeyond then List.replicate p.len 0 else s.spmBytes r.core p.pa p.len }
        stage := .ready }

/-- The bank of a scratchpad request (R117). -/
def Req.bank (r : Req) : Nat := ((r.pieces.head?).map fun p => if p.pa == spmBeyond then p.va else p.pa).getD 0 / 16 % 32

/-- The row that a bank serves in this cycle: by quad, round-robin, and the oldest of a quad; while an engine uses the bank, only a row
that has waited 16 cycles (R118). -/
def Core.bankNext (k : Core) (clk b : Nat) : Option Req :=
  let last := k.bankTurn.getD b 15
  (List.range 16).findSome? fun i =>
    (k.reqs.find? fun r =>
      match r.stage with
      | .bank _ => r.bank == b && (k.warpOf r).lane / 4 == (last + 1 + i) % 16
      | _ => false).bind fun r =>
    match r.stage with
    | .bank since => if k.busyBanks.contains b && clk < since + 16 then none else some r
    | _ => none

/-- Each bank serves one row of a lane's window (R118). -/
def State.serveBanks (s : State) (c : CoreId) : State :=
  (List.range 32).foldl (fun st b =>
    match (st.core c).bankNext st.clk b with
    | some r =>
      (st.spmServe r).modCore c fun k =>
        { k with bankTurn := k.bankTurn.mapIdx fun i q => if i == b then ((st.core c).warpOf r).lane / 4 else q }
    | none => st) s

/-! ### Entry into the L1 -/

/-- The SMASK of a request; a prefetch into L2 asks for its whole line (R84, R288). -/
def Req.smask (r : Req) : BitVec 4 :=
  if r.kind == .prefL2 then 15 else BitVec.ofNat 4 (r.sectors.foldl (fun a i => a + 2 ^ i) 0)

/-- The request leaves for its home (R84, R86, R94). -/
def State.sendReq (s : State) (r : Req) : State :=
  let hd := s.homeDie r.line
  let hr := homeRouter r.line
  let (pid, s1) := s.fresh
  let p : Packet :=
    { pid := pid, core := r.core, rid := r.rid, resp := false, sys := s.bypass r.line, wing := r.wg, smask := r.smask,
      via := firstTile r.core.die hd, arrived := pid, loc := injectLoc r.core.die (routerOf r.core) hd hr, die := hd, router := hr,
      merged := [], waiting := false, fault := false, data := [], value := 0, ok := false, hint := none }
  let s2 := { s1 with packets := s1.packets ++ [p] }
  s2.modReq r.core r.rid fun q => { q with stage := .fabric pid, seq := (s.core r.core).seq }

/-- Whether a request is a read of its line (R98). -/
def Req.isRead (r : Req) : Bool := match r.kind with | .load | .prefL1 | .prefL2 => true | _ => false

/-- A read must wait while an outstanding read carries the same tag from 16 acknowledgements before (R98). -/
def Core.seqHeld (k : Core) : Bool :=
  k.reqs.any fun r =>
    (match r.stage with | .fabric _ => true | _ => false) && r.isRead && r.seq != k.seq && r.seq % 16 == k.seq % 16

/-- A read leaves for its home, unless its tag is still in use (R98). While a write of its line is on its way from the core, home may serve
the read first, so that what it brings is not kept (R105, R282, R325). -/
def State.sendRead (s : State) (r : Req) : State :=
  let k := s.core r.core
  if k.seqHeld then s else (s.sendReq r).modReq r.core r.rid fun q => { q with stale := k.writing r.line, kept := [] }

/-- The combining-buffer entries whose words a request's pieces touch are sent (R112). -/
def State.combTouchAll (s : State) (r : Req) : State :=
  r.pieces.foldl (fun st p => st.combTouch r.core p.pa p.len) s

/-- The wing tag of a request's line. -/
def State.wgOf (s : State) (pa : Nat) : Nat := ((s.ownerOf pa).map (·.id)).getD 15

/-- The index of the prediction table (R95). -/
def predictIdx (line : Nat) : Nat := let l := paOff line / 128; Nat.xor (bitsN l 0 8) (bitsN l 8 8)

/-- The core that the prediction table names for a request that may probe (R95, R96). -/
def State.probeTarget (s : State) (r : Req) : Option Nat :=
  if r.kind == .load && r.ro && !r.acq && !r.acqBit && r.gran.isNone && !r.priv then
    match (s.core r.core).predict.find? fun e => e.1 == predictIdx r.line with
    | some e =>
      if e.2 != r.core.core && (s.die r.core.die).coreDom == .running && !(s.core ⟨r.core.die, e.2⟩).fenced then some e.2
      else none
    | none => none
  else none

/-- The pending fill of its line that a read joins: one that no order since has overtaken, and that fills the line for it too (R101, R107,
R114). -/
def Core.fillFor (k : Core) (r : Req) : Option Req :=
  k.reqs.find? fun o =>
    o.line == r.line && o.rid != r.rid && o.filling && !o.stale && (!o.ro || r.ro) &&
    o.privOf (k.warpOf o) == r.privOf (k.warpOf r)

/-- A read joins a pending fill. Where a peer's answer is on its way that does not bring its sectors, the fill goes home for all of them
(R95, R101). -/
def State.joinFill (s : State) (r o : Req) : State :=
  let asked := (o :: ((s.core o.core).reqs.filter fun q => q.stage == .joined o.rid)).flatMap Req.sectors
  let s1 :=
    match o.stage with
    | .probed (some _) =>
      if r.sectors.all asked.contains then s else s.modReq o.core o.rid fun q => { q with stage := .probed none }
    | _ => s
  s1.modReq r.core r.rid fun q => { q with stage := .joined o.rid }

/-- The sectors that the L1 holds of a load's line are captured, as a request of their own; the load goes on for the others (R105, R108). -/
def State.takeHits (s : State) (r : Req) (l : L1Line) : State :=
  let hits := r.inSectors l.sectorOk
  if hits.isEmpty then s
  else
    let (rid, s1) := s.fresh
    let part : Req := { r with rid := rid, pieces := fillPieces hits (overlay (some l) []), stage := .ready }
    s1.modCore r.core fun k =>
      { k with
        reqs := k.reqs.flatMap fun q => if q.rid == r.rid then [{ q with pieces := r.inSectors fun i => !l.sectorOk i }, part] else [q]
        outst := k.outst.map fun o => if o.iid == r.iid then { o with left := o.left + 1 } else o }

/-- A read that its L1 does not serve: it joins a fill, asks a peer, or leaves for its home (R95, R101). -/
def State.missLoad (s : State) (r : Req) : State :=
  match if r.cp == 2 then none else (s.core r.core).fillFor r with
  | some o => s.joinFill r o
  | none =>
    match s.probeTarget r with
    | some c => s.modReq r.core r.rid fun q => { q with stage := .probe c, stale := (s.core r.core).writing r.line }
    | none => s.sendRead r

/-- A load or prefetch enters the L1 (R105, R106, R291). -/
def State.enterLoad (s0 : State) (r : Req) : State :=
  let s := if r.acq then s0.l1Purge r.core r.line else s0.adopt r ((s0.core r.core).warpOf r)
  let line := if r.acq || (r.cp == 2 && !r.priv) then none else (s.core r.core).l1Line? (l1Set r.vaLine) r.line
  match line with
  | none =>
    if r.acq then s.sendRead r
    else if r.kind == .prefL1 && r.cp == 2 then s.endReq r
    else s.missLoad r
  | some l =>
    if l.hasAll r then
      if r.kind == .prefL1 then s.endReq r
      else s.modReq r.core r.rid fun q => { q with pieces := fillPieces q.pieces (overlay line []), stage := .ready }
    else if r.kind == .load then
      let s1 := s.takeHits r l
      s1.missLoad ((s1.req? r.core r.rid).getD r)
    else s.missLoad r

/-- A write leaves its core for home: dirty bytes of earlier releases go before it, and a fill of its line that is on its way may miss it
(R105, R282, R334, R335). -/
def State.sendWrite (s : State) (r : Req) : State :=
  ((s.l1Older r.core).modCore r.core fun k => k.taint fun q => q.line == r.line).sendReq r

/-- A store enters the L1 (R105, R106, R114, R292); one under write-back to memory that refuses every access is refused here (R422). -/
def State.enterStore (s0 : State) (r : Req) : State :=
  let warp := (s0.core r.core).warpOf r
  let s := s0.adopt r warp
  let set := l1Set r.vaLine
  let bs := lastBytes r.storeBytes
  if r.cp == 0 && !r.acq && s.memDown r.line then (s.machineCheck r (auxOf r.wordPA 0)).endReq r
  else
    match (s.core r.core).l1Line? set r.line with
    | some l =>
      if r.acq then (s.l1Merge r.core set r.line bs false).sendWrite r
      else if r.cp == 0 && !r.noAlloc then (s.l1Merge r.core set r.line bs true).endReq r
      else if r.noAlloc && l.bytes.any L1Byte.isDirty then
        (((s.l1Merge r.core set r.line bs true).l1Clean r.core set r.line).l1Drop r.core set r.line).endReq r
      else if r.noAlloc then (s.l1Drop r.core set r.line).sendWrite r
      else (s.l1Merge r.core set r.line bs false).sendWrite r
    | none =>
      if r.cp == 0 && !r.noAlloc && !r.acq then
        ((s.l1Alloc r warp (s.wgOf r.line)).l1Merge r.core set r.line bs true).endReq r
      else s.sendWrite r

/-- An atomic, RED, counter access or CCTL enters the L1 (R105, R110, R288, R303). -/
def State.enterOther (s : State) (r : Req) : State :=
  match r.kind with
  | .atom op ty operand false =>
    match r.pieces.head? with
    | some p =>
      if !r.acq && r.cp != 2 && op != .cadd && !s.bypass r.line then
        if s.memDown r.line then (s.machineCheck r (auxOf r.wordPA 0)).endReq r
        else
          let o := (s.core r.core).outst.find? fun o => o.iid == r.iid
          (s.combPut r.core
            { pa := p.pa, width := p.len, op := op, ty := ty, val := operand, cp := r.cp, born := s.clk, wg := r.wg,
              slot := (o.map (·.grp)).getD 0xFFF }).endReq r
      else ((s.combTouchAll r).l1Purge r.core r.line).sendWrite r
    | none => s.endReq r
  | .cctl inv =>
    let s0 := s.combTouchAll r
    let s1 := if inv then s0.l1Purge r.core r.line
              else ((s0.core r.core).l1.filter fun o => o.line == r.line).foldl (fun st o => st.l1Clean r.core o.set o.line) s0
    s1.endReq r
  | .atom _ _ _ true => ((s.combTouchAll r).l1Purge r.core r.line).sendWrite r
  | _ => ((s.combTouchAll r).l1Purge r.core r.line).sendReq r

/-- A request enters the L1 (R103). -/
def State.enterReq (s : State) (r : Req) : State :=
  match r.kind with
  | .load | .prefL1 => (s.combTouchAll r).enterLoad r
  | .prefL2 => (s.combTouchAll r).sendRead r
  | .store => (s.combTouchAll r).enterStore r
  | _ => s.enterOther r

/-! ### Order within a warp and held releases (R282, R292) -/

/-- Whether two requests touch a common byte. -/
def Req.overlaps (a b : Req) : Bool :=
  a.pieces.any fun p => b.pieces.any fun q => p.pa < q.pa + q.len && q.pa < p.pa + p.len

/-- Whether a held operation of the core still waits for the instruction's release (R292). -/
def Core.holds (k : Core) (iid : Nat) : Bool :=
  k.heldOps.any fun h => match h.op with | .reqs i => i == iid | _ => false

/-- Requests that stand before one in its core's list. -/
def reqsBefore : List Req → Nat → List Req
  | [], _ => []
  | r :: rs, rid => if r.rid == rid then [] else r :: reqsBefore rs rid

/-- Whether a waiting request may enter: its instruction's accesses have left their lane and its windows have closed, no release
holds it, the core has room for one more beyond its L1, no older access of its warp to its bytes is still on its way, nor an
older store of its own instruction, and no store to its bytes is on its way home from the core, whatever the warp: nobody at the core sees
a store that is written through before it is performed (R103, R104, R282, R324). -/
def Core.mayEnter (k : Core) (r : Req) : Bool :=
  r.stage == .waiting && !k.holds r.iid && k.beyond < 2048 &&
  !(k.reqs.any fun o => o.iid == r.iid && match o.stage with | .lane | .window _ _ => true | _ => false) &&
  !((reqsBefore k.reqs r.rid).any fun o =>
      (o.iid != r.iid || r.kind == .store) && o.stage != .ready && !o.spm && k.warpOf o == k.warpOf r && (o.writes || r.writes) &&
      o.overlaps r) &&
  !(k.reqs.any fun o => o.kind == .store && !o.spm && (match o.stage with | .fabric _ => true | _ => false) && o.overlaps r)

/-- Waiting requests that may enter the L1 enter it, in order. -/
def State.pump (s : State) (c : CoreId) : State :=
  ((s.core c).reqs.map (·.rid)).foldl
    (fun st rid =>
      match st.req? c rid with
      | some r => if (st.core c).mayEnter r then st.enterReq r else st
      | none => st) s

/-- Whether the instructions that a held operation waits for have all left their counts. -/
def Core.needsDone (k : Core) (h : Held) : Bool := h.needs.all fun i => !(k.outst.any fun o => o.iid == i)

/-- An add to a local counter; one that saturates charges class 6 to its issuer, an engine's entry or an instruction (R305, R385). -/
def State.localAdd (s : State) (c : CoreId) (slot ctr : Nat) (amt : DWord) (who : Issuer) (engine : Bool := false) : State :=
  match s.group? c slot with
  | none => s
  | some g =>
    let old := g.ctrs.getD ctr 0
    let s1 := s.modGroup c slot fun x =>
      { x with ctrs := x.ctrs.set ctr (BitVec.ofNat 64 (min (old.toNat + amt.toNat) (2 ^ 64 - 1))) }
    if 2 ^ 64 ≤ old.toNat + amt.toNat then s1.deferTrap c slot who { cls := 6, aux := BitVec.ofNat 64 ctr } !engine else s1

/-- A held operation whose release may be made is released; requests then wait no longer (R292, R304, R309). -/
def State.releaseHeld (s : State) (c : CoreId) (h : Held) : State :=
  if (s.core c).needsDone h then
    let s1 := (s.releaseActs c h.wide).modCore c fun k => { k with heldOps := k.heldOps.filter fun x => x != h }
    match h.op with
    | .reqs _ => s1
    | .localAdd ctr amt => s1.localAdd c h.slot ctr amt h.who
  else s

/-- Retired warps whose counts are zero leave their slots, and what private lines their last accesses left go too; a FORK child makes
its join add, a release at core scope (R114, R356, R377). -/
def State.reapWarp (s0 : State) (w : Warp) : State :=
  if w.splits.isEmpty && w.gld == 0 && w.gst == 0 && w.spm == 0 then
    let s := s0.privOut w.id false
    let s1 := { s with warps := s.warps.filter fun x => x.id != w.id }
    match w.joinCtr with
    | some b => (s1.releaseActs w.id.coreId false).localAdd w.id.coreId w.grp b 1 ⟨w.id, w.widx, 0, 0, w.age⟩
    | none => s1
  else s0

/-- The same for every warp of a core. -/
def State.reap (s : State) (c : CoreId) : State :=
  ((s.warps.filter fun w => w.id.coreId == c && w.splits.isEmpty)).foldl State.reapWarp s

/-- Held operations whose release may be made are released, and waiting requests enter. -/
def State.moveOn (s : State) (c : CoreId) : State := (((s.core c).heldOps).foldl (fun st h => st.releaseHeld c h) s).pump c

/-- What follows a change at a core: held operations, waiting requests and retired warps move as far as they can. A request that
its L1 completes may let a held operation go, so there is a pass for each of them, and one more. -/
def State.settle (s : State) (c : CoreId) : State :=
  (((s.core c).heldOps.foldl (fun st _ => st.moveOn c) s).moveOn c).reap c

/-- Outstanding instructions of a warp, of the classes that a test names; prefetches count in none. -/
def State.outstOf (s : State) (w : WarpId) (p : Cls → Bool) : List Nat :=
  ((s.core w.coreId).outst.filter fun o => o.warp == w && o.cls != .none && p o.cls).map (·.iid)

/-- Whether an outstanding instruction writes memory: those of the GST class, and atomics that answer (R109, R289, R327). -/
def Outst.writes (o : Outst) : Bool :=
  o.cls == .gst || match o.form with | .atom _ | .cas _ _ => true | _ => false

/-- Outstanding instructions of a warp that a release covers (R289, R327). -/
def State.releaseNeeds (s : State) (w : WarpId) : List Nat :=
  ((s.core w.coreId).outst.filter fun o => o.warp == w && o.writes).map (·.iid)

end Sys2Proof.Machine
end

