-- ==== Sys2Proof/Machine/MemInstr.lean ====
section
/-!
DEFINITION. Loads, stores, prefetches, atomics and ordering instructions (R276 to R299).
-/
namespace Sys2Proof.Machine

/-! ### What the per-thread instructions share -/

/-- Bytes of an access size (R279). -/
def szBytes (sz : Nat) : Nat :=
  match sz with | 0 | 1 => 1 | 2 | 3 => 2 | 4 => 4 | 5 => 8 | _ => 16

/-- Access size, space, hint and scope fields. -/
def szOf (x : LongOp) : Nat := tyOf x.fn
def spaceOf (x : LongOp) : Nat := x.fn2.toNat % 4
def hintOf (x : LongOp) : Nat := x.fn2.toNat / 4 % 4
def neOf (x : LongOp) : Nat := 2 ^ (x.fn.toNat / 4 % 4)
def scopeOf (x : LongOp) : Nat := x.fn2.toNat % 4
/-- `.pv` of an atomic. -/
def isPv (x : LongOp) : Bool := x.fn2.getLsbD 4

/-- One thread's plain access in its space, aligned where `aligned` asks for it (R115, R280). -/
def State.checkPlain (s : State) (w : Warp) (g : Group) (x : LongOp) (space : Nat) (k : Kind) (n : Nat) (aligned : Bool)
    (t : Nat) : AccRes :=
  let ea := w.ea x (space == 0) true t
  match space with
  | 0 => if aligned && ea % n != 0 then .bad (causeAlign t k ea) else s.checkParts w g k t [(0, ea, n)]
  | 1 => g.checkSpm k t ea n
  | _ => s.checkPriv w g k t ea n

/-- Whether the address operands are tagged uniform or affine and the footprint of `n t` bytes a thread spans at most four lines
(R102). -/
def Warp.wholeRun (w : Warp) (x : LongOp) (n : Nat → Nat) (m : Mask) : Bool :=
  let lines := (threadsOf m).flatMap fun t =>
    let ea := w.ea x true true t
    [ea / 128, (ea + n t - 1) / 128]
  !(w.shapeOf x.lit .d64 x.a).isGeneral && !(w.shapeOf x.lit .i32 x.b).isGeneral && (lines.eraseDups).length ≤ 4

/-- The same of accesses of one size. -/
def Warp.wholePath (w : Warp) (x : LongOp) (n : Nat) (m : Mask) : Bool := w.wholeRun x (fun _ => n) m

/-- Class 5, ADDR (R281, R286). -/
def causeAddr : Cause := { cls := 5, reason := 0x32 }

/-- The registers that a load names become general as it issues (R146). -/
def Warp.makeGeneral (w : Warp) (d : Sel) (n : Nat) : Warp :=
  match d with
  | .v b => (List.range n).foldl (fun a i => a.setV (b.val + i) ⟨.general, (a.getV (b.val + i)).vals⟩) w
  | .q b => w.setQ b.val ⟨.general, (w.getQ b.val).vals⟩
  | .lr => w.setLr ⟨.general, w.lr.vals⟩
  | _ => w

/-- Pieces given the bytes that their threads store. -/
def fillStores (f : Nat → List Byte) (l : List Acc) : List Acc :=
  l.map fun a => { a with pieces := a.pieces.map fun p => ({ p.1 with data := ((f a.thread).drop p.1.off).take p.1.len }, p.2) }

/-- A per-thread memory instruction's issue up to the checks of R103: with no active thread it retires in one lane
cycle (R280), a full count makes it wait (R109), missing translations are walked, and a failure traps. -/
def State.perThread (s : State) (w : Warp) (x : LongOp) (cls : Cls) (check : Group → Nat → AccRes)
    (go : Group → List Acc → Result) : Result :=
  let m := w.active x.g
  let g := s.grp w
  if m == 0 then .next (s.retire w (longLen x) 1)
  else if 63 ≤ w.count cls then .next (s.block w (.room (.count cls)) w.phase)
  else
    match checkAll ((threadsOf m).map (check g)) with
    | .bad c => .next (s.trap w c)
    | .wait vas fmts => .next (s.waitWalk w g vas fmts w.phase)
    | .good accs => go g accs

/-- The general v registers among `n` that a data source names. -/
def Warp.dataWords (w : Warp) (s : Sel) (n : Nat) : List Nat :=
  match s with
  | .v b => ((List.range n).map fun i => b.val + i).filter fun r => (w.getV r).tag.isGeneral
  | _ => []

/-- Lane cycles that one thread's access takes to read its base, its offset and the data words given (R139, R153). -/
def portPace (w : Warp) (x : LongOp) (global : Bool) (data : List Nat) : Nat :=
  bankCost (w.bankWords (if global then .d64 else .i32) x.a ++ w.bankWords .i32 x.b ++ data)

/-- Lane cycles of a per-thread instruction on the port (R99, R102, R139). -/
def portCost (whole : Bool) (w : Warp) (x : LongOp) (pace : Nat) : Nat := if whole then 1 else countOf (w.active x.g) * pace

/-! ### LD and ST -/

/-- LD of SZ 0 to 6 (R283). -/
def State.loadPlain (s : State) (w : Warp) (x : LongOp) : Result :=
  let sz := szOf x
  let n := szBytes sz
  let space := spaceOf x
  let cls : Cls := if space == 1 then .spm else .gld
  let whole := space == 0 && w.wholePath x n (w.active x.g)
  if x.w && !whole && w.active x.g != 0 then .next (s.trap w causeAddr)
  else
    s.perThread w x cls (fun g => s.checkPlain w g x space .read n false) fun g accs =>
      let pace := portPace w x (space == 0) []
      let o : ReqOpts :=
        { kind := fun _ => .load, spm := space == 1, priv := space == 2, noAlloc := hintOf x == 1, pace := pace }
      let s1 := (s.launch w g o (if space == 1 then .row else .line) whole cls x.d
        (.plain n (sz == 1 || sz == 3)) accs).1
      .next ((s1.modWarp w.id fun u => u.makeGeneral x.d (max 1 (n / 4))).retireAt w.id (longLen x) (portCost whole w x pace))

/-- LD (R283). -/
def execLd (x : LongOp) (s : State) : Result := s.issue 0x80 x fun w => s.loadPlain w x

/-- The page format of a thread's run: none where the page is raw, and what is still to come or fails. -/
def State.runFormat (s : State) (w : Warp) (g : Group) (k : Kind) (t ea : Nat) : Except AccRes (Option Fmt) :=
  match s.lookup w g k ea with
  | .fail f => .error (.bad (f.cause t k))
  | .miss => .error (.miss [ea])
  | .hit l =>
    if l.fmt == 0 then .ok none
    else if (s.fmtEntryPA g.asid l.fmt).isNone then
      .error (.bad { cls := 2, reason := rBADFMT, thread := t, kind := k.no, va := some ea })
    else
      match s.fmt? g.core g.asid l.fmt with
      | none =>
        match w.fmtFail? with
        | some e => .error (.bad { cls := e.cls, reason := e.reason, thread := t, kind := k.no, va := some ea, aux := e.aux })
        | none => .error (.fmt l.fmt)
      | some none => .error (.bad { cls := 2, reason := rBADFMT, thread := t, kind := k.no, va := some ea })
      | some (some f) => .ok (some f)

/-- The run of a thread of LD.dec or ST.enc, with its scale byte behind it (R284, R285). An address that is misaligned under every
format is not translated (R103). -/
def State.checkRun (s : State) (w : Warp) (g : Group) (x : LongOp) (k : Kind) (raw ne : Nat) (t : Nat) : AccRes :=
  let ea := w.ea x true true t
  match s.runFormat w g k t ea with
  | .error r => if ea % runBytes 4 ne != 0 then .bad (causeAlign t k ea) else r
  | .ok f =>
    let cb := fmtBits f raw
    let len := runBytes cb ne
    if ea % len != 0 then .bad (causeAlign t k ea)
    else if k == .write && cb == 4 && ne % 2 == 1 then
      .bad { cls := 3, reason := rRUNSHAPE, thread := t, kind := k.no, va := some ea }
    else
      let data := s.checkParts w g k t [(0, ea, len)]
      match f with
      | none => data
      | some ft =>
        if ft.blk == 0 then data
        else
          match ft.scaleVA ea with
          | none => data.join (.bad { cls := 2, reason := rSCALERANGE, thread := t, kind := k.no, va := some ea })
          | some sva => data.join (s.checkParts w g .read t [(len, sva, 1)])

/-- The formats of the threads of a mask. -/
def State.runFormats (s : State) (w : Warp) (g : Group) (x : LongOp) (k : Kind) (m : Mask) : List (Option Fmt) :=
  (List.range 32).map fun t =>
    if m.getLsbD t then
      match s.runFormat w g k t (w.ea x true true t) with
      | .ok f => f
      | .error _ => none
    else none

/-- Bytes of a thread's run at its address: its page's format says how many (R284, R285), and until that is known the fewest that any
format gives, of containers of 4 bits. -/
def State.runLen (s : State) (w : Warp) (x : LongOp) (k : Kind) (raw t : Nat) : Nat :=
  runBytes (match s.runFormat w (s.grp w) k t (w.ea x true true t) with | .ok f => fmtBits f raw | .error _ => 4) (neOf x)

/-- LD.dec (R284). -/
def State.loadDec (s : State) (w : Warp) (x : LongOp) : Result :=
  let ne := neOf x
  let raw := x.fn.toNat % 4
  let bf := szOf x == 9
  let m := w.active x.g
  let whole := w.wholeRun x (s.runLen w x .read raw) m
  if x.w && !whole && m != 0 then .next (s.trap w causeAddr)
  else
    s.perThread w x .gld (fun g => s.checkRun w g x .read raw ne) fun g accs =>
      let form : LdForm := .dec (s.runFormats w g x .read m) raw ne bf
      let pace := portPace w x true []
      let s1 := (s.launch w g { kind := fun _ => .load, noAlloc := hintOf x == 1, pace := pace } .line whole .gld x.d form accs).1
      .next ((s1.modWarp w.id fun u => u.makeGeneral x.d (if bf then (ne + 1) / 2 else ne)).retireAt w.id (longLen x)
        (portCost whole w x pace))

/-- LD.dec (R284). -/
def execLdDec (x : LongOp) (s : State) : Result := s.issue 0x80 x fun w => s.loadDec w x

/-- Bytes of thread t's store data in source C (R279). -/
def Warp.storeData (w : Warp) (x : LongOp) (n t : Nat) : List Byte :=
  if n == 16 then
    match x.c with
    | .v b => (List.range 4).flatMap fun i => leBytes 4 ((w.getV (b.val + i)).get t).toNat
    | _ => List.replicate 16 0
  else leBytes n (w.src x.lit (if n == 8 then .d64 else .i32) x.c t).toNat

/-- ST of the plain sizes (R283). -/
def State.storePlain (s : State) (w : Warp) (x : LongOp) : Result :=
  let n := szBytes (szOf x)
  let space := spaceOf x
  let cls : Cls := if space == 1 then .spm else .gst
  let whole := space == 0 && w.wholePath x n (w.active x.g)
  if x.w && !whole && w.active x.g != 0 then .next (s.trap w causeAddr)
  else
    s.perThread w x cls (fun g => s.checkPlain w g x space .write n false) fun g accs =>
      let pace := portPace w x (space == 0) (w.dataWords x.c (max 1 (n / 4)))
      let o : ReqOpts :=
        { kind := fun _ => .store, spm := space == 1, priv := space == 2, noAlloc := hintOf x == 2, pace := pace }
      let s1 := (s.launch w g o (if space == 1 then .row else .line) whole cls .zr .none
        (fillStores (w.storeData x n) accs)).1
      .next (s1.retireAt w.id (longLen x) (portCost whole w x pace))

/-- ST (R283). -/
def execSt (x : LongOp) (s : State) : Result := s.issue 0x81 x fun w => s.storePlain w x

/-- A byte as the core reads it: from its L1 where a read would be served there, else from home (R105). -/
def State.coreByte (s : State) (c : CoreId) (va pa : Nat) : Byte :=
  overlay ((s.core c).l1Line? (l1Set (lineOf va)) (lineOf pa)) (s.devLine pa) (pa % 128)

/-- A value divided by a scale that is a power of two, exactly (R285). -/
def divScale (c : Nat) (x : FVal) : FVal :=
  if c == 0xFF then .nan false
  else match x with
    | .fin sg m e => .fin sg m (e - ((c : Int) - 127))
    | y => y

/-- The bytes of a run that ST.enc writes, and its flags (R285). -/
def encodeRun (f : Option Fmt) (md : Nat) (scale : Nat) (xs : List Word) : List Byte × Flags :=
  let rs : List (Nat × Flags) := xs.map fun v =>
    let z := unpackF fp32 false v.toNat
    match f with
    | none => let r := roundF bf16 md false z; (r.1, r.2 ||| flagIf z.isSnan flNV)
    | some ft => ft.encode md false (if ft.blk == 0 then z else divScale scale z)
  let cb := fmtBits f 0
  (leBytes (runBytes cb xs.length) (packCodes cb (rs.map (·.1))), orFlags (rs.map (·.2)))

/-- An access without its scale byte, and the scale byte's value. -/
def State.takeScale (s : State) (c : CoreId) (len : Nat) (a : Acc) : Acc × Nat :=
  let sc := (a.pieces.find? fun p => p.1.off == len).map fun p => (s.coreByte c p.1.va p.1.pa).toNat
  ({ a with pieces := a.pieces.filter fun p => p.1.off < len }, sc.getD 127)

/-- The scale bytes of the runs that ST.enc is to write: address and length (R285). -/
def State.scaleRuns (s : State) (w : Warp) (x : LongOp) (accs : List Acc) : List (Nat × Nat) :=
  accs.flatMap fun a => (a.pieces.filter fun p => p.1.off == s.runLen w x .write 0 a.thread).map fun p => (p.1.pa, p.1.len)

/-- The core's combining-buffer entries on those scale bytes are sent before they are read (R112). -/
def State.scalesSent (s : State) (w : Warp) (x : LongOp) (accs : List Acc) : State :=
  (s.scaleRuns w x accs).foldl (fun st r => st.combTouch w.id.coreId r.1 r.2) s

/-- The warp's own writes on their way to bytes that it is to read itself, in memory or in the scratchpad (R118, R282). -/
def State.ownWrites (s : State) (w : WarpId) (spm : Bool) (runs : List (Nat × Nat)) : List Nat :=
  let k := s.core w.coreId
  ((k.reqs.filter fun r => r.writes && r.spm == spm && k.warpOf r == w &&
    r.pieces.any fun p => runs.any fun q => p.pa < q.1 + q.2 && q.1 < p.pa + p.len).map (·.iid)).eraseDups

/-- The warp's own accesses on their way to scratchpad bytes that it is to write itself (R118). -/
def State.ownSpm (s : State) (w : WarpId) (a n : Nat) : List Nat :=
  let k := s.core w.coreId
  ((k.reqs.filter fun r => r.spm && r.stage != .ready && k.warpOf r == w &&
    r.pieces.any fun p => p.pa < a + n && a < p.pa + p.len).map (·.iid)).eraseDups

/-- ST.enc: the scales are read after the warp's own earlier writes to them (R282, R285). -/
def State.storeEnc (s : State) (w : Warp) (x : LongOp) : Result :=
  let ne := neOf x
  let md := x.fn.toNat % 4
  let m := w.active x.g
  let whole := w.wholeRun x (s.runLen w x .write 0) m
  if x.w && !whole && m != 0 then .next (s.trap w causeAddr)
  else
    s.perThread w x .gst (fun g => s.checkRun w g x .write 0 ne) fun g accs =>
      let fmts := s.runFormats w g x .write m
      let own := s.ownWrites w.id false (s.scaleRuns w x accs)
      if !own.isEmpty then .next (s.block w (.instr own) w.phase)
      else
      let s0 := s.scalesSent w x accs
      let vals (t : Nat) : List Word :=
        match x.c with
        | .v b => (List.range ne).map fun i => (w.getV (b.val + i)).get t
        | _ => []
      let done := accs.map fun a =>
        let f := (fmts.getD a.thread none)
        let (a1, sc) := s0.takeScale g.core (s.runLen w x .write 0 a.thread) a
        let (bs, fl) := encodeRun f md sc (vals a.thread)
        ((fillStores (fun _ => bs) [a1]).headD a1, fl)
      let pace := portPace w x true (w.dataWords x.c ne)
      let s1 := (s0.launch w g { kind := fun _ => .store, noAlloc := hintOf x == 2, pace := pace } .line whole .gst .zr .none
        (done.map (·.1))).1
      .next ((s1.modWarp w.id fun u => u.orFlags (orFlags (done.map (·.2)))).retireAt w.id (longLen x) (portCost whole w x pace))

/-- ST.enc (R285). -/
def execStEnc (x : LongOp) (s : State) : Result := s.issue 0x81 x fun w => s.storeEnc w x

/-! ### LDU, LDG, PREF, CCTL -/

/-- A base or offset that LDU accepts (R286). -/
def Warp.lduOperand (w : Warp) (x : LongOp) (k : Src) (s : Sel) : Bool :=
  match s with
  | .s _ | .zr | .imm _ | .lit => true
  | .v _ => (w.shapeOf x.lit k s).isU
  | _ => false

/-- LDU (R286). -/
def State.loadUniform (s : State) (w : Warp) (x : LongOp) : Result :=
  let sz := szOf x
  let n := szBytes sz
  let space := spaceOf x
  let cls : Cls := if space == 1 then .spm else .gld
  let g := s.grp w
  if !(w.lduOperand x (if space == 0 then .d64 else .i32) x.a && w.lduOperand x .i32 x.b) then .next (s.trap w causeAddr)
  else if 63 ≤ w.count cls then .next (s.block w (.room (.count cls)) w.phase)
  else
    match checkAll [s.checkPlain w g x space .read n false 0] with
    | .bad c => .next (s.trap w c)
    | .wait vas fmts => .next (s.waitWalk w g vas fmts w.phase)
    | .good accs =>
      let o : ReqOpts := { kind := fun _ => .load, spm := space == 1, priv := space == 2, noAlloc := hintOf x == 1 }
      let s1 := (s.launch w g o (if space == 1 then .row else .line) true cls x.d
        (.warpOnce n (sz == 1 || sz == 3)) accs).1
      .next (s1.retireAt w.id (longLen x) 1)

/-- LDU (R286). -/
def execLdu (x : LongOp) (s : State) : Result := s.issue 0x82 x fun w => s.loadUniform w x

/-- LDG (R287). -/
def State.gather (s : State) (w : Warp) (x : LongOp) : Result :=
  let n := szBytes (szOf x)
  s.perThread w x .gld (fun g => s.checkPlain w g x 0 .read n true) fun g accs =>
    let pace := portPace w x true []
    let s1 := (s.launch w g { kind := fun _ => .load, noAlloc := true, pace := pace } .granule false .gld x.d (.plain n false) accs).1
    .next ((s1.modWarp w.id fun u => u.makeGeneral x.d (n / 4)).retireAt w.id (longLen x) (portCost false w x pace))

/-- LDG (R287). -/
def execLdg (x : LongOp) (s : State) : Result := s.issue 0x83 x fun w => s.gather w x

/-- An access whose failure does nothing (R288). -/
def AccRes.quiet (r : AccRes) (t : Nat) : AccRes :=
  match r with
  | .bad _ => .good ⟨t, 0, []⟩
  | q => q

/-- One thread's whole line, for PREF and CCTL. -/
def State.checkLine (s : State) (w : Warp) (g : Group) (x : LongOp) (t : Nat) : AccRes :=
  (s.checkParts w g .read t [(0, lineOf (w.ea x true true t), 128)]).quiet t

/-- PREF and CCTL: failed accesses do nothing and nothing is written (R288). -/
def State.lineOps (s : State) (w : Warp) (x : LongOp) (kind : ReqKind) (cls : Cls) (whole : Bool) : Result :=
  s.perThread w x cls (fun g => s.checkLine w g x) fun g accs =>
    let live := accs.filter fun a => !a.pieces.isEmpty
    let pace := portPace w x true []
    if live.isEmpty then
      .next ((s.modWarp w.id fun u => { u with fails := [] }).retireAt w.id (longLen x) (portCost whole w x pace))
    else
      .next ((s.launch w g { kind := fun _ => kind, pace := pace } .line whole cls .zr .none live).1.retireAt w.id (longLen x)
        (portCost whole w x pace))

/-- PREF (R288). -/
def State.prefetch (s : State) (w : Warp) (x : LongOp) : Result :=
  let whole := w.wholePath x 1 (w.active x.g)
  if x.w && !whole && w.active x.g != 0 then .next (s.trap w causeAddr)
  else s.lineOps w x (if hintOf x == 0 then .prefL1 else .prefL2) .none whole

/-- PREF (R288). -/
def execPref (x : LongOp) (s : State) : Result := s.issue 0x84 x fun w => s.prefetch w x

/-- CCTL (R288). -/
def execCctl (x : LongOp) (s : State) : Result :=
  s.issue 0x85 x fun w => s.lineOps w x (.cctl (hintOf x == 1)) .gst false

/-! ### Atomics -/

/-- The element type of a TYPE code (R176). -/
def tyCode (t : Nat) : Ty :=
  match t with
  | 0 => .s32 | 1 => .u32 | 2 => .s16x2 | 3 => .u16x2 | 4 => .s8x4 | 5 => .u8x4 | 6 => .s64 | 7 => .u64
  | 8 => .f32 | 9 => .f16x2 | 10 => .bf16x2 | 11 => .b32 | _ => .b64

/-- How the operand of an atomic is read (R175). -/
def srcAtom (t : Nat) : Src := if ty64 t then .d64 else if t == 8 then .f32 else .i32

/-- The operation of ATOM and RED (R294). -/
def aopCode (n : Nat) : AOp :=
  match n with
  | 0 => .add | 1 => .min | 2 => .max | 3 => .and | 4 => .or | 5 => .xor | _ => .exch

/-- One thread's atomic access; its home must be in service (R115, R421). -/
def State.checkAtom (s : State) (w : Warp) (g : Group) (x : LongOp) (n : Nat) (offset : Bool) (t : Nat) : AccRes :=
  let pv := isPv x
  let ea := w.ea x (!pv) offset t
  let r := if pv then s.checkPriv w g .atomic t ea n
           else if ea % n != 0 then .bad (causeAlign t .atomic ea) else s.checkParts w g .atomic t [(0, ea, n)]
  match r with
  | .good a =>
    match a.pieces.find? fun p => s.bypass p.1.pa with
    | some p => .bad { cls := 0, thread := t, kind := 3, va := some p.1.va, aux := BitVec.ofNat 64 p.1.pa }
    | none => .good a
  | q => q

/-- The core holds an instruction's requests until the release before them is complete (R292, R295). -/
def State.hold (s : State) (w : Warp) (g : Group) (needs : List Nat) (wide : Bool) (iid : Nat) : State :=
  s.modCore g.core fun k => { k with heldOps := k.heldOps ++ [⟨g.slot, needs, wide, w.issuer, .reqs iid⟩] }

/-- Order codes (R278). -/
def isAcq (order : Nat) : Bool := order == 1 || order == 3
def isRel (order : Nat) : Bool := order == 2 || order == 3

/-- What ATOM, ATOMCAS and RED share (R295). -/
def State.atomic (s : State) (w : Warp) (x : LongOp) (cls : Cls) (offset : Bool) (form : LdForm)
    (kind : Nat → ReqKind) : Result :=
  let order := hintOf x
  let wide := wideScope (scopeOf x)
  let n := (tyCode (tyOf x.fn)).bytes
  if cls == .gld && selIsS x.d then .next (s.trap w causeShape)
  else if w.phase == 2 then .next ((s.acquireActs w.id.coreId wide).retireAt w.id (longLen x) 1)
  else
    s.perThread w x cls (fun g => s.checkAtom w g x n offset) fun g accs =>
      let needs := s.releaseNeeds w.id
      let pace := portPace w x (!isPv x) (w.dataWords x.c (n / 4) ++ if offset then [] else w.dataWords x.b (n / 4))
      let o : ReqOpts := { kind := kind, priv := isPv x, acq := isRel order, pace := pace }
      let (s1, iid) := s.launch w g o .single false cls x.d form accs
      let s2 := if isRel order then s1.hold w g needs wide iid else s1
      let s3 := s2.modWarp w.id fun u => if cls == .gld then u.makeGeneral x.d (n / 4) else u
      if isAcq order then .next (s3.blockAt w.id (.instr [iid]) 2)
      else .next (s3.retireAt w.id (longLen x) (portCost false w x pace))

/-- ATOM (R295). -/
def execAtom (x : LongOp) (s : State) : Result :=
  s.issue 0x90 x fun w =>
    let t := tyOf x.fn
    s.atomic w x .gld true (.atom (tyCode t).bytes) fun u =>
      .atom (aopCode (x.fn.toNat % 16)) (tyCode t) (w.src x.lit (srcAtom t) x.c u) true

/-- ATOMCAS (R297). -/
def execAtomcas (x : LongOp) (s : State) : Result :=
  s.issue 0x91 x fun w =>
    let t := tyOf x.fn
    let k : Src := srcAtom t
    s.atomic w x .gld false (.cas (tyCode t).bytes (x.fn.toNat / 2 % 8)) fun u =>
      .atom (.cas (w.src x.lit k x.b u)) (tyCode t) (w.src x.lit k x.c u) true

/-- RED (R295). -/
def execRed (x : LongOp) (s : State) : Result :=
  s.issue 0x92 x fun w =>
    let t := tyOf x.fn
    s.atomic w x .gst true .none fun u =>
      .atom (aopCode (x.fn.toNat % 16)) (tyCode t) (w.src x.lit (srcAtom t) x.c u) false

/-! ### Ordering -/

/-- FENCE: it waits for the instructions that its release and acquire cover, then makes their actions (R289, R290). -/
def State.fence (s : State) (w : Warp) (x : LongOp) : Result :=
  let sem := hintOf x
  let wide := wideScope (scopeOf x)
  let needs := (if isAcq sem then s.outstOf w.id (· == .gld) else []) ++ if isRel sem then s.releaseNeeds w.id else []
  if w.phase == 0 && !needs.isEmpty then .next (s.block w (.instr needs) 1)
  else
    let s1 := if isRel sem then s.releaseActs w.id.coreId wide else s
    let s2 := if isAcq sem then s1.acquireActs w.id.coreId wide else s1
    .next (s2.retireAt w.id (longLen x) 1)

/-- FENCE (R290). -/
def execFence (x : LongOp) (s : State) : Result := s.issueWarp 0x93 x fun w => s.fence w x

/-- The cores that a PROMOTE mask names, within the group's wing (R293). -/
def State.promoteCores (s : State) (g : Group) (mask : DWord) : List CoreId :=
  ((List.range 9).filter fun d => mask.getLsbD (16 + d) && (s.wing g.wing).dies.getLsbD d).flatMap fun d =>
    ((List.range 16).filter fun c => mask.getLsbD c).map fun c => ⟨d, c⟩

/-- A promotion leaves for the named cores, and the split waits for their acknowledgements (R293). -/
def State.startPromote (s : State) (w : Warp) (g : Group) (cores : List CoreId) : State :=
  (s.modCore g.core fun k => { k with promotes := k.promotes ++ [⟨w.id, cores⟩] }).block w .promote 1

/-- PROMOTE (R293). -/
def State.promote (s : State) (w : Warp) (x : LongOp) : Result :=
  let g := s.grp w
  let cores := s.promoteCores g (w.usrc x.lit .d64 x.a)
  if w.phase == 0 && !cores.isEmpty then .next (s.startPromote w g cores)
  else .next ((s.acquireActs g.core true).retireAt w.id (longLen x) 1)

/-- PROMOTE (R293). -/
def execPromote (x : LongOp) (s : State) : Result := s.issueWarp 0x94 x fun w => s.promote w x

/-- LDACQ: once every access has passed its checks, with `.rem` a promotion and the acquire after it; then loads that carry ACQ, at
home under the wide scopes; then the acquire actions (R103, R291, R293). -/
def State.loadAcquire (s : State) (w : Warp) (x : LongOp) : Result :=
  let n := szBytes (szOf x)
  let wide := wideScope (scopeOf x)
  let g := s.grp w
  let cores := if hintOf x % 2 == 1 then s.promoteCores g (w.usrc x.lit .d64 x.c) else []
  if w.phase == 2 then .next ((s.acquireActs g.core wide).retireAt w.id (longLen x) 1)
  else
    s.perThread w x .gld (fun g => s.checkPlain w g x 0 .read n true) fun g accs =>
      if w.phase == 0 && !cores.isEmpty then .next (s.startPromote w g cores)
      else
        let s0 := if hintOf x % 2 == 1 then s.acquireActs g.core true else s
        let o : ReqOpts := { kind := fun _ => .load, acq := wide, acqBit := true, pace := portPace w x true [] }
        let (s1, iid) := s0.launch w g o .line false .gld x.d (.plain n false) accs
        .next ((s1.modWarp w.id fun u => u.makeGeneral x.d (n / 4)).blockAt w.id (.instr [iid]) 2)

/-- LDACQ (R291). -/
def execLdacq (x : LongOp) (s : State) : Result := s.issue 0x95 x fun w => s.loadAcquire w x

/-- STREL: the core holds its stores until the release actions are complete (R292). -/
def State.storeRelease (s : State) (w : Warp) (x : LongOp) : Result :=
  let n := szBytes (szOf x)
  let wide := wideScope (scopeOf x)
  s.perThread w x .gst (fun g => s.checkPlain w g x 0 .write n true) fun g accs =>
    let needs := s.releaseNeeds w.id
    let pace := portPace w x true (w.dataWords x.c (max 1 (n / 4)))
    let (s1, iid) := s.launch w g { kind := fun _ => .store, acq := wide, pace := pace } .line false .gst .zr .none
      (fillStores (w.storeData x n) accs)
    .next ((s1.hold w g needs wide iid).retireAt w.id (longLen x) (portCost false w x pace))

/-- STREL (R292). -/
def execStrel (x : LongOp) (s : State) : Result := s.issue 0x96 x fun w => s.storeRelease w x

end Sys2Proof.Machine
end

