-- ==== Sys2Proof/Machine/Pack.lean ====
section
/-!
DEFINITION. CVTPK and CVTUPK (R216 to R221).
-/
namespace Sys2Proof.Machine

/-- A run form's work on one thread: the registers it reads and writes, its cost, and its words, with the index of the
word that lr takes (R218, R219, R221). -/
structure RunForm where
  srcs : Nat
  dsts : Nat
  cost : Nat
  f    : List Word → Word → Word → List Word × Flags
  lr   : Nat

/-- CVTPK.enc (R219). -/
def runEnc (f : Fmt) (md : Nat) : RunForm :=
  let n := 32 / f.cb
  { srcs := n, dsts := 1, cost := n + 1, lr := 0,
    f := fun xs _ _ => let r := f.encWord md xs; ([r.1], r.2) }

/-- CVTPK.blk (R219). -/
def runBlk (f : Fmt) : RunForm :=
  let nw := f.blkN * f.cb / 32
  { srcs := f.blkN, dsts := nw + 1, cost := f.blkN + nw + 1, lr := nw - 1, f := fun xs _ _ => f.blkWords xs }

/-- CVTUPK.dec (R221). -/
def runDec (f : Fmt) : RunForm :=
  let n := 32 / f.cb
  { srcs := 0, dsts := n, cost := n, lr := n - 1, f := fun _ a b => (f.decWords a b, 0) }

/-- Number of a v register selector. -/
def vNo (s : Sel) : Nat := match s with | .v n => n.val | _ => 0

/-- One thread of a run form: every source is read before any destination is written (R218). -/
def Warp.runThread (w : Warp) (x : LongOp) (r : RunForm) (t : Nat) : Warp :=
  let xs := (List.range r.srcs).map fun i => (w.getV (vNo x.a + i)).get t
  let (out, fl) := r.f xs (w.src x.lit .i32 x.a t).lo (w.src x.lit .i32 x.b t).lo
  let w1 := (w.orFlags fl).loadWords (vNo x.d) t out
  w1.writeLr (maskOf fun u => u == t) .general fun _ => (out.getD r.lr 0).toD

/-- The run form of a CVTPK or CVTUPK under a format entry; none where it does not take such an entry (R218). -/
def runOf (opc : BitVec 8) (x : LongOp) (f : Fmt) : Option RunForm :=
  if opc == 0x32 then some (runDec f)
  else if tyOf x.fn == 2 then some (runEnc f (fnRnd x.fn))
  else if f.blk == 0 then none
  else some (runBlk f)

/-- Whether a run form names a register beyond VREGS (R218). -/
def RunForm.beyond (r : RunForm) (w : Warp) (x : LongOp) : Bool :=
  w.vregs < vNo x.d + r.dsts || (r.srcs != 0 && w.vregs < vNo x.a + r.srcs)

/-- A run form once its entry is known: its runs must lie below VREGS and `.w` is not met (R218). -/
def State.runForm (s : State) (w : Warp) (x : LongOp) (r : RunForm) : Result :=
  let m := w.active x.g
  if r.beyond w x then .next (s.trap w { cls := 4, reason := rVREGS })
  else if x.w then .next (s.trap w causeShape)
  else if m == 0 then .next (s.retire w (longLen x) 1)
  else
    .next (s.retire ((threadsOf m).foldl (fun u t => u.runThread x r t) w) (longLen x) (countOf m * r.cost))

/-- The format entry that a run form names. -/
def runIdx (x : LongOp) : Nat := x.fn2.toNat % 16

/-- The format entry of a run form, read through the format cache (R218). -/
def State.runEntry (s : State) (w : Warp) (opc : BitVec 8) (x : LongOp) : Result :=
  let g := s.grp w
  let bad : Result := .next (s.trap w { cls := 2, reason := rBADFMT })
  if (s.fmtEntryPA g.asid (runIdx x)).isNone then bad
  else
    match s.fmt? g.core g.asid (runIdx x) with
    | none =>
      match w.fmtFail? with
      | some e => .next ((s.modWarp w.id fun u => { u with fails := [] }).trap w { cls := e.cls, reason := e.reason, aux := e.aux })
      | none => .next (s.waitWalk w g [] [runIdx x] w.phase)
    | some none => bad
    | some (some e) =>
      match runOf opc x e with
      | none => bad
      | some r => s.runForm w x r

/-- A long or literal form that is not an instruction takes class 4. A run form that breaks the S bit's rule alone is judged for VREGS
before it, which takes its format entry (R180, R218). -/
def State.notLegal (s : State) (w : Warp) (opc : BitVec 8) (x : LongOp) (reason : Nat) : State :=
  let g := s.grp w
  let traps (r : Nat) : State := (s.modWarp w.id fun u => { u with fails := [] }).trap w { cls := 4, reason := r }
  if reason != rSBIT || !((opc == 0x31 || opc == 0x32) && 2 ≤ tyOf x.fn) || (s.fmtEntryPA g.asid (runIdx x)).isNone then
    s.trap w { cls := 4, reason := reason }
  else
    match s.fmt? g.core g.asid (runIdx x) with
    | none => if w.fmtFail?.isSome then traps reason else s.waitWalk w g [] [runIdx x] w.phase
    | some e => traps (if ((e.bind (runOf opc x)).map fun r => r.beyond w x).getD false then rVREGS else reason)

/-- Issue of a run form. -/
def State.issueRun (s : State) (opc : BitVec 8) (x : LongOp) : Result :=
  match s.warp? s.cur with
  | none => .fault .noWarp
  | some w =>
    if w.running.isNone then .fault .noWarp
    else
      match s.longCheck w opc x with
      | some r => .next (s.notLegal w opc x r)
      | none => s.runEntry w opc x

/-- CVTPK (R217, R219). -/
def execCvtpk (x : LongOp) (s : State) : Result :=
  if tyOf x.fn ≤ 1 then s.issueAlu (longLen x) 0x31 x (aluCvtpk x) else s.issueRun 0x31 x

/-- CVTUPK (R220, R221). -/
def execCvtupk (x : LongOp) (s : State) : Result :=
  if tyOf x.fn ≤ 1 then s.issueAlu (longLen x) 0x32 x (aluCvtupk x) else s.issueRun 0x32 x

end Sys2Proof.Machine
end

