-- ==== Sys2Proof/Machine/Control.lean ====
section
/-!
DEFINITION. Control flow: branches and divergence (R345, R346, R352 to R354), reconvergence (R348), the split spill area
(R344) and the other control instructions (R355 to R361).
-/
namespace Sys2Proof.Machine

/-! ### Split entries and the spill area -/

/-- STATE and TOKEN of an entry (R341); a sleep ends where the entry is stored (R361). -/
def SplitSt.code : SplitSt → Nat × Nat
  | .ready => (0, 0)
  | .running => (1, 0)
  | .blocked (.sleep _) => (0, 0)
  | .blocked _ => (2, 0)
  | .reconv t => (3, t)

/-- The 16 bytes of an entry (R341). -/
def Split.bytes (p : Split) : List Byte :=
  leBytes 8 (p.pc % 2 ^ 56 / 4 * 4 + p.st.code.1) ++ leBytes 4 p.mask.toNat ++
    leBytes 4 (p.st.code.2 * 2 ^ 28 + p.rot)

/-- An entry from its 16 bytes. -/
def Split.ofBytes (bs : List Byte) : Split :=
  let a := leNat (bs.take 8)
  let x := leNat ((bs.drop 12).take 4)
  { pc := bitsN a 2 54 * 4
    st := match a % 4 with
      | 0 => .ready
      | 1 => .running
      | 2 => .blocked .resumed
      | _ => .reconv (bitsN x 28 4)
    mask := BitVec.ofNat 32 (leNat ((bs.drop 8).take 4))
    rot := bitsN x 0 13
    phase := 0 }

/-- Address of the spill area (R344). -/
def Warp.spillVA (w : Warp) (g : Group) : Nat := w.privbase + g.res.priv * 128

/-- Bytes stored to a warp's private memory through its core's L1, after the combining-buffer entries that they touch (R112, R114). -/
def State.privPut (s : State) (w : Warp) (g : Group) (pa va : Nat) (wg : Nat) (bs : List Byte) : State :=
  let r := mkReq 0 0 g.core 0 { kind := fun _ => .store, priv := true } .line [(⟨0, 0, va, pa, bs.length, []⟩, ⟨wg, 0, false⟩)]
  (((s.combTouch g.core pa bs.length).adopt r w.id).l1Alloc r w.id wg).l1Merge g.core (l1Set (lineOf va)) (lineOf pa) (bs.mapIdx fun i b => (pa % 128 + i, b)) true

/-- The entries beyond the eighth written to the spill area, or the failure of its page (R344). -/
def State.spillOut (s : State) (w : Warp) (g : Group) : Except AccFail State :=
  let rest := w.splits.drop 8
  if rest.isEmpty then .ok s
  else
    match s.accessNow g.whoIs .write (w.spillVA g), s.accessNow g.whoIs .write (w.spillVA g + 16 * rest.length - 1) with
    | .error f, _ => .error f
    | _, .error f => .error f
    | .ok _, .ok _ =>
      .ok ((rest.mapIdx fun j p => (j, p)).foldl
        (fun st c =>
          let va := w.spillVA g + 16 * c.1
          match st.accessNow g.whoIs .write va with
          | .ok l => st.privPut w g (l.pa va) va l.wg c.2.bytes
          | .error _ => st) s)

/-- What becomes of an entry, known by its mask, as a list of splits gives way to another: the first entry that has threads of it, so that
a running entry that divides keeps its place (R345). -/
def heirOf (new : List Mask) (m : Mask) : Option Mask := new.find? fun n => n &&& m != 0

/-- Entries that move out of the spill area or into it (R344). -/
def spillsOut (old new : List Mask) : List Mask :=
  (old.drop 8).filter fun m => !(match heirOf new m with | some n => (new.drop 8).contains n | none => false)
def spillsIn (old new : List Mask) : List Mask := (new.drop 8).filter fun n => !((old.drop 8).any fun m => heirOf new m == some n)

/-- The first failure of the ends of a run of `n` bytes of the spill area: its page must have RO = 0, even where it is read (R114). -/
def State.spillEnds (s : State) (w : Warp) (g : Group) (k : Kind) (n : Nat) : Option Cause :=
  let at_ (va : Nat) : Option Cause :=
    match s.accessNow g.whoIs k va with
    | .ok l => if l.ro then some { cls := 2, reason := rWRITE, kind := k.no, va := some va } else none
    | .error f => some { cls := f.cls, reason := f.reason, kind := k.no, va := some f.va, aux := f.aux, err := f.err }
  if n == 0 then none else at_ (w.spillVA g) <|> at_ (w.spillVA g + n - 1)

/-- The fault of the spill area as a list gives way to another: where entries leave it, it is read, and where those in it change, it is
written (R344). -/
def State.spillFault (s : State) (w : Warp) (g : Group) (old new : List Mask) : Option Cause :=
  if old.drop 8 == new.drop 8 then none
  else
    (if (spillsOut old new).isEmpty then none else s.spillEnds w g .read (16 * (old.length - 8))) <|>
      s.spillEnds w g .write (16 * (new.length - 8))

/-- A control instruction has changed the list of splits: the warp retires it with its slot-B cycles and those of the entries that move,
and goes on `lag` cycles later still, unless the spill area faults, which traps with nothing changed (R344, R347). -/
def State.commitSplits (s : State) (old new : Warp) (cost lag : Nat) : State :=
  let a := old.splits.map (·.mask)
  let b := new.splits.map (·.mask)
  match s.spillFault old (s.grp old) a b with
  | some c => s.trapFound old c
  | none =>
    let at_ := s.clk + cost + lag + 4 * ((spillsOut a b).length + (spillsIn a b).length)
    let s1 : State :=
      if a.drop 8 == b.drop 8 then s else match s.spillOut new (s.grp old) with | .ok u => u | .error _ => s
    s1.setWarp ({ new with readyAt := at_, age := at_, lag := lag, waitFrom := none }.watchFrom s.clk).prefetched

/-! ### Branches -/

/-- The threads of `m` by target, each group with its lowest thread first (R345). -/
def byTarget (tgt : Nat → Nat) (ts : List Nat) : List (Nat × Mask) :=
  ((ts.map tgt).eraseDups).map fun p => (p, maskOf fun t => ts.contains t && tgt t == p)

/-- Whether a PC lies in the 64-byte block of another (R347). -/
def sameBlock (a b : Nat) : Bool := a / 64 == b / 64

/-- The running split divides into parts, each a PC and a mask (R345); leaving its block empties the buffer, and the first blocks of the
parts that become ready are prefetched (R347). -/
def Warp.divide (w : Warp) (parts : List (Nat × Mask)) : Warp :=
  let pc := w.pc
  let pick := (parts.findIdx fun p => sameBlock p.1 pc) % (max 1 parts.length)
  let pick := if parts.any fun p => sameBlock p.1 pc then pick else 0
  match parts[pick]? with
  | none => w
  | some first =>
    let rest := (parts.mapIdx fun i p => (i, p)).filterMap fun c =>
      if c.1 == pick then none else some { pc := c.2.1, st := .ready, mask := c.2.2, rot := 0, phase := 0 : Split }
    let i := w.runPos
    let splits := (w.splits.mapIdx fun j p =>
      if j == i then { p with pc := first.1, mask := first.2, rot := min 4096 (p.rot + 1), phase := 0 : Split } :: rest
      else [p]).flatten
    { w with splits := splits, ibufs := if sameBlock first.1 pc then w.ibufs else [], ahead := w.ahead ++ rest.map (·.mask) }

/-- Class 5, BRANCH (R346). -/
def causeBranch : Cause := { cls := 5, reason := 0x30 }

/-- What a branch does before it divides: CALL writes its link in the threads that branch (R353). -/
def Warp.link (w : Warp) (d : Option Sel) (t : Mask) (ret : Nat) : Warp :=
  match d with
  | some s => if t == 0 then w else w.writeReg s true t .general fun _ => BitVec.ofNat 64 ret
  | none => w

/-- BRA, BRX, CALL and RET: `reg` says that the target is read per thread and must be a multiple of 4 (R345, R346,
R352). -/
def State.branch (s : State) (w : Warp) (x : LongOp) (len : Nat) (reg : Bool) (tgt : Nat → Nat) (lnk : Option Sel) (cost : Nat) :
    Result :=
  let m := w.splitMask
  let pass := m &&& w.guard x.g
  let t := if x.w then pass else pass &&& w.exec
  let ts := threadsOf t
  let next := (w.pc + len) % 2 ^ 64
  if x.w && (!(t == 0 || t == m) || 1 < ((ts.map tgt).eraseDups).length) then .next (s.trap w causeBranch)
  else
    match if reg then ts.find? fun u => tgt u % 4 != 0 else none with
    | some u => .next (s.trap w { cls := 3, reason := rTARGET, thread := if x.w then 0xFF else u })
    | none =>
      let parts := (if m &&& ~~~t == 0 then [] else [(next, m &&& ~~~t)]) ++ byTarget tgt ts
      let w1 := (w.link lnk t next).divide parts
      .next (s.commitSplits w w1 cost (if sameBlock w1.pc w.pc || w1.pc == next then 0 else 5))

/-- The target of a word offset (R352). -/
def Warp.relTarget (w : Warp) (x : LongOp) : Nat :=
  (BitVec.ofNat 64 w.pc + 4 * ((w.usrc x.lit .i32 x.a).lo.signExtend 64)).toNat % 2 ^ 56

/-- Cycles of a branch through a register pair (R351). -/
def Warp.pairCost (w : Warp) (x : LongOp) (a : Sel) : Nat :=
  if (w.shapeOf x.lit .d64 a).isGeneral then max 1 (countOf (w.active x.g)) else 1

/-- BRA (R352). -/
def execBra (x : LongOp) (s : State) : Result :=
  s.issue 0x70 x fun w => s.branch w x (longLen x) false (fun _ => w.relTarget x) none 1

/-- BRX (R352). -/
def execBrx (x : LongOp) (s : State) : Result :=
  s.issue 0x71 x fun w =>
    s.branch w x (longLen x) true (fun t => (w.src x.lit .d64 x.a t).toNat) none (w.pairCost x x.a)

/-- CALL and CALL.x (R353). -/
def execCall (x : LongOp) (s : State) : Result :=
  s.issue 0x72 x fun w =>
    if x.fn2 == 0 then s.branch w x (longLen x) false (fun _ => w.relTarget x) (some x.d) 1
    else s.branch w x (longLen x) true (fun t => (w.src x.lit .d64 x.a t).toNat) (some x.d) (w.pairCost x x.a)

/-- RET through a pair (R354). -/
def State.ret (s : State) (w : Warp) (x : LongOp) (len : Nat) : Result :=
  s.branch w x len true (fun t => (w.src x.lit .d64 x.a t).toNat) none (w.pairCost x x.a)

/-- RET (R354). -/
def execRet (x : LongOp) (s : State) : Result := s.issue 0x73 x fun w => s.ret w x (longLen x)

/-! ### Other control instructions -/

/-- Under a guard that does not pass, a warp-level control instruction retires with no effect (R177, R351). -/
def State.control (s : State) (w : Warp) (x : LongOp) (len : Nat) (f : Result) : Result :=
  if w.acts x.g then f else .next (s.retire w len 1)

/-- A split reaches RECONV: its address is that after the instruction (R348). -/
def Warp.reconv (w : Warp) (token len : Nat) : Warp :=
  let i := w.runPos
  (w.modRunning fun p => { p with pc := (p.pc + len) % 2 ^ 64, st := .reconv token, phase := 0 }).schedule i

/-- A warp moves to the splits that an instruction of `len` bytes has left, and to the one that is chosen among them (R342, R344, R347). -/
def State.turnTo (s : State) (w w1 : Warp) (len : Nat) : State :=
  s.commitSplits w w1 1 (w1.turnCost (some ((w.pc + len) % 2 ^ 64)) - 1)

/-- RECONV (R348, R355). -/
def execReconv (x : LongOp) (s : State) : Result :=
  s.issue 0x74 x fun w =>
    s.control w x (longLen x) (.next (s.turnTo w (w.reconv (x.fn.toNat % 16) (longLen x)) (longLen x)))

/-- The running split goes to the end of the list, ready, with ROT 0, and R342 chooses (R357). -/
def Warp.demote (w : Warp) (len : Nat) : Warp :=
  match w.running with
  | none => w
  | some p =>
    let q : Split := { p with pc := (p.pc + len) % 2 ^ 64, st := .ready, rot := 0, phase := 0 }
    let l := (w.splits.filter fun o => o.st != .running) ++ [q]
    { w with splits := l }.schedule (l.length - 1)

/-- YIELD (R357). -/
def State.yield (s : State) (w : Warp) (x : LongOp) (len : Nat) : Result :=
  s.control w x len (.next (s.turnTo w (w.demote len) len))

/-- YIELD (R357). -/
def execYield (x : LongOp) (s : State) : Result := s.issue 0x75 x fun w => s.yield w x (longLen x)

/-- The running split is left empty and removed, and R342 chooses (R356). -/
def Warp.exitSplit (w : Warp) : Warp :=
  let i := w.runPos
  let l := w.splits.filter fun o => o.st != .running
  { w with splits := l }.schedule (i + l.length - 1)

/-- EXIT: the threads for which the guard passes, whatever EXEC holds; with none left the warp retires (R356). -/
def State.exit (s : State) (w : Warp) (x : LongOp) (len : Nat) : Result :=
  let t := w.splitMask &&& w.guard x.g
  if w.splitMask &&& ~~~t != 0 then .next (s.retire (w.modRunning fun p => { p with mask := p.mask &&& ~~~t }) len 1)
  else if w.exitSplit.splits.isEmpty then .next (((s.setWarp w.exitSplit).privOut w.id false).reap w.id.coreId)
  else .next (s.turnTo w w.exitSplit len)

/-- EXIT (R356). -/
def execExit (x : LongOp) (s : State) : Result := s.issue 0x76 x fun w => s.exit w x (longLen x)

/-- EXEC's new value, or the register that `.get` writes (R358). -/
def Warp.execOp (w : Warp) (x : LongOp) : Warp :=
  let a := (w.usrc x.lit .i32 x.a).lo
  match x.fn2.toNat with
  | 0 => { w with exec := a }
  | 1 => { w with exec := w.exec &&& a }
  | 2 => { w with exec := w.exec ||| a }
  | _ =>
    match x.d with
    | .s n => w.setS n.val w.exec
    | _ => w

/-- EXEC (R358). -/
def execExecMask (x : LongOp) (s : State) : Result :=
  s.issue 0x77 x fun w => s.control w x (longLen x) (.next (s.retire (w.execOp x) (longLen x) 1))

/-- NOP (R359). -/
def State.nop (s : State) (w : Warp) (len : Nat) : Result := .next (s.retire w len 1)

/-- NOP (R359). -/
def execNop (x : LongOp) (s : State) : Result := s.issue 0x78 x fun w => s.nop w (longLen x)

/-- The limits that WAITC names: 3 is `.all` (R350, R360). -/
def waitLimits (cls n : Nat) : Option Nat × Option Nat × Option Nat :=
  let o (b : Bool) : Option Nat := if b then some n else none
  (o (cls == 0 || cls == 3), o (cls == 1 || cls == 3), o (cls == 2 || cls == 3))

/-- Whether a warp's counts are at or below limits (R360). -/
def Warp.countsOk (w : Warp) (g t p : Option Nat) : Bool :=
  let le (n : Nat) (l : Option Nat) : Bool := match l with | some k => n ≤ k | none => true
  le w.gld g && le w.gst t && le w.spm p

/-- WAITC (R360). -/
def State.waitc (s : State) (w : Warp) (x : LongOp) : Result :=
  let (g, t, p) := waitLimits x.fn2.toNat x.fn.toNat
  if w.countsOk g t p then .next (s.retire w (longLen x) 1) else .next (s.block w (.count g t p (longLen x)) 0)

/-- WAITC (R360). -/
def execWaitc (x : LongOp) (s : State) : Result := s.issue 0x79 x fun w => s.control w x (longLen x) (s.waitc w x)

/-- SLEEP retires, and its split is blocked for a<23:0> lane cycles, at least 1 (R361). -/
def State.sleep (s : State) (w : Warp) (x : LongOp) : State :=
  let n := max 1 ((w.usrc x.lit .i32 x.a).toNat % 2 ^ 24)
  let i := w.runPos
  let w1 := w.modRunning fun p => { p.advance (longLen x) with st := .blocked (.sleep (s.clk + n)) }
  let w2 := { w1.schedule i with readyAt := s.clk + 1, age := s.clk + 1, waitFrom := none }.turned s.clk
  s.setWarp ({ w2 with age := w2.readyAt }.watchFrom s.clk)

/-- SLEEP (R361). -/
def execSleep (x : LongOp) (s : State) : Result := s.issue 0x7C x fun w => s.control w x (longLen x) (.next (s.sleep w x))

/-! ### A fetched word that is not an instruction -/

/-- The reason of a word that is not an instruction (R180). -/
def State.illegalReason (s : State) (w : Warp) : Illegal → Nat
  | .length => rLENGTH
  | .short sopc x => (shortReason (s.limits w) sopc x).getD rOPCODE
  | .long opc x => (s.longCheck w opc x).getD rOPCODE

/-- ILLEGAL_ENCODING: class 4, precisely, whatever the split mask, EXEC and guard (R180). -/
def execIllegalEncoding (x : Illegal) (s : State) : Result :=
  match s.warp? s.cur with
  | none => .fault .noWarp
  | some w =>
    if w.running.isNone then .fault .noWarp
    else
      match x with
      | .long opc y => .next (s.notLegal w opc y (s.illegalReason w x))
      | _ => .next (s.trap w { cls := 4, reason := s.illegalReason w x })

end Sys2Proof.Machine
end

