-- ==== Sys2Proof/Machine/CoreEvents.lean ====
section
/-!
DEFINITION. The steps of a core's own units: fetch, windows, walks, format reads, fills and returns, the combining buffer,
peer probes, promotion, rotation and sleep (R71, R78, R95, R100 to R112, R293, R343, R347, R361).
-/
namespace Sys2Proof.Machine

/-! ### Errors met by reads (R42) -/

/-- What the check bits make of an access: no error, one corrected, one that is not, or one that is not noticed, each in the granule
or unit that starts at an address (R41, R48). -/
inductive Check where
  | good
  | corrected (pa : Nat)
  | uncorrectable (pa : Nat) (syn : BitVec 16)
  | wrong (pa : Nat) (flips : List (Nat × BitVec 16))
  deriving DecidableEq, Repr

/-- The symbols that hold an error, each once, with its flipped bits. -/
def errSymbols (syms : List (Nat × BitVec 16)) : List (Nat × BitVec 16) :=
  ((syms.map (·.1)).eraseDups.map fun i => (i, (syms.filter fun x => x.1 == i).foldl (fun a x => a ^^^ x.2) 0)).filter (·.2 != 0)

/-- An error of one symbol is corrected, one of two is detected, and a wider one as it happens (R41, R48). -/
def checkOf (pa : Nat) (syms : List (Nat × BitVec 16)) (seen : Bool) (syn : BitVec 16) : Check :=
  let bad := errSymbols (syms.map fun x => (x.1, if symbolBytes pa == 2 then x.2 else x.2 % 256))
  match bad with
  | [] => .good
  | [_] => .corrected pa
  | [_, _] => .uncorrectable pa syn
  | _ => if seen then .uncorrectable pa syn else .wrong pa bad

/-- The granules or units that some bytes lie in. -/
def unitsOf (pa n : Nat) : List Nat :=
  let u := checkUnit pa
  (List.range ((pa % u + n + u - 1) / u)).map fun i => (pa / u + i) * u

/-- What a controller's read of some units meets. -/
def eccCheck (e : Ecc) (units : List Nat) : Check :=
  match e with
  | .error g syms seen syn =>
    match units[g % units.length]? with
    | some u => checkOf u syms seen syn
    | none => .good
  | _ => .good

/-- A check of a read at home: what its slice holds is not read from memory. -/
def State.atHomeCheck (s : State) (k : Check) : Check :=
  let here (a : Nat) : Bool := match s.l2Line? (lineOf a) with | some l => l.has (a % 128) | none => false
  match k with
  | .corrected a => if here a then .good else .corrected a
  | .uncorrectable a syn => if here a then .good else .uncorrectable a syn
  | .wrong a fs => if here a then .good else .wrong a fs
  | .good => .good

/-- What a read of `n` bytes at home meets. -/
def State.homeCheck (s : State) (e : Ecc) (pa n : Nat) : Check := s.atHomeCheck (eccCheck e (unitsOf pa n))

/-- AUX of a machine check, where the access met an uncorrectable error. -/
def Check.aux : Check → Option DWord
  | .uncorrectable pa syn => some (auxOf pa syn)
  | _ => none

/-- The unit of an uncorrectable error, with that AUX. -/
def Check.lost : Check → Option (Nat × DWord)
  | .uncorrectable pa syn => some (pa, auxOf pa syn)
  | _ => none

/-- What a check's outcome does to the counts and reports: `wing` is the one that the access names (R42). -/
def State.checked (s : State) (wing : Nat) (k : Check) : State :=
  match k with
  | .corrected pa => s.countCorrected pa
  | .uncorrectable pa syn => s.uncorrectable wing pa syn
  | _ => s

/-- The memory as an access reads it: where an error goes unnoticed, its data symbols are flipped (R41). -/
def State.asRead (s : State) (k : Check) : State :=
  match k with
  | .wrong pa flips =>
    let w := symbolBytes pa
    (flips.filter fun x => x.1 * w < checkUnit pa).foldl
      (fun st x => (List.range w).foldl
        (fun st i => let a := pa + w * x.1 + i; st.dramPut a (st.dramByte a ^^^ (x.2.ushiftRight (8 * i)).setWidth 8)) st) s
  | _ => s

/-! ### Fetch (R347) -/

/-- A 64-byte block arrives, or its fetch faults at the running split's instruction; a page that is not in the translation cache is
walked for first (R72, R73, R347). DESIGN CHOICE (log 43): a block whose read is uncorrectable, or which memory refuses, raises class 0
precisely at that instruction, with the syndrome's AUX and no faulting address. -/
def State.fetchReturn (s : State) (id : WarpId) (e : Ecc) : State :=
  match s.warp? id with
  | none => s
  | some w =>
    match w.fetching with
    | none => s
    | some base =>
      let g := s.grp w
      let w1 := { w with fetching := none, fails := w.fails.filter fun f => !sameFrame f.va base }
      match s.lookup w g .fetch base with
      | .miss => if (s.die id.die).walks.any fun k => k.warp == id && sameFrame k.va base then s else s.startWalks w g [base]
      | .fail f => (s.setWarp w1).trap w1 { cls := f.cls, reason := f.reason, va := some (max base w.pc), aux := f.aux }
      | .hit l =>
        let pa := l.pa base
        let k := s.homeCheck e pa 64
        let s1 := (s.setWarp w1).checked l.wg k
        match if s.memDown pa then some (auxOf pa 0) else k.aux with
        | some aux => s1.trap w1 { cls := 0, aux := aux }
        | none =>
          let keep := w.ibufs.filter fun b => b.base + 64 == base
          s1.setWarp { w1 with ibufs := ⟨base, (s.asRead k).devBytes pa 64⟩ :: keep }

/-- FETCH_BLOCK_RETURN (R347). -/
def execFetchBlockReturn (w : WarpId) (e : Ecc) (s : State) : Result := .next (s.fetchReturn w e)

/-! ### Windows (R100 to R104) -/

/-- The requests that a window has formed stand in its place in the core's list: scratchpad rows wait for their banks, and the others
for their instruction's other windows and then to enter the L1 (R101, R103, R118). -/
def Core.formWindow (k : Core) (o : Outst) (n clk : Nat) : Core :=
  let mine := k.reqs.filter (·.inWindow o.iid n)
  let formed := formReqs o.shape o.whole mine
  { k with
    reqs := k.reqs.filterMap fun r =>
      if r.inWindow o.iid n then
        (formed.find? fun q => q.rid == r.rid).map fun q => { q with stage := if q.spm then .bank clk else .waiting }
      else some r
    outst := k.outst.map fun x => if x.iid == o.iid then { x with left := x.left - (mine.length - formed.length) } else x }

/-- A window closes (R100 to R104). -/
def State.windowClose (s : State) (c : CoreId) : State :=
  let k := s.core c
  match k.closing s.clk with
  | none => s
  | some (iid, n) =>
    match k.outst.find? fun o => o.iid == iid with
    | none => s
    | some o => (s.modCore c fun k => k.formWindow o n s.clk).settle c

/-- COALESCING_WINDOW_CLOSE (R100). -/
def execCoalescingWindowClose (c : CoreId) (s : State) : Result := .next (s.windowClose c)

/-! ### Walks and format reads (R71, R78) -/

/-- A walk replaced, or removed. -/
def State.setWalk (s : State) (die i : Nat) (k : Option Walk) : State :=
  s.modDie die fun d =>
    { d with walks := match k with | some x => d.walks.set i x | none => d.walks.eraseIdx i }

/-- A walker receives an entry: it goes on, completes or fails (R71); a walk of an older generation starts again (R81). -/
def State.walkRead (s : State) (die i : Nat) (e : Ecc) : State :=
  match (s.die die).walks[i]? with
  | none => s
  | some k =>
    if 64 ≤ i then s
    else
      let d := s.desc k.asid
      let pa := k.table + 8 * walkIndex k.level k.va
      let c := s.homeCheck e pa 8
      let s1 := s.checked d.wg c
      if s.genOf k.core k.asid != k.gen then (s.setWalk die i none).startWalk k.core k.warp k.asid k.va
      else
        match if s.memDown pa then some (auxOf pa 0) else c.aux with
        | some aux => (s1.setWalk die i none).walkFailed k.warp ⟨k.va, 0, rWALKERR, aux⟩
        | none =>
          match s.entryCheck k.asid d.wg k.level ((s.asRead c).devNat pa 8) with
          | .fail r => (s1.setWalk die i none).walkFailed k.warp ⟨k.va, 1, r, 0⟩
          | .table t => s1.setWalk die i (some (k.down t))
          | .leaf l =>
            ((s1.setWalk die i none).modDie die fun d => d.keepPtrs k).modCore k.core fun c =>
              c.tlbPut ⟨k.asid, k.gen, k.va / l.size * l.size, l⟩

/-- WALK_ENTRY_READ (R71). -/
def execWalkEntryRead (die walk : Nat) (e : Ecc) (s : State) : Result := .next (s.walkRead die walk e)

/-- A format entry arrives and is judged (R78). -/
def State.formatRead (s : State) (c : CoreId) (e : Ecc) : State :=
  match (s.core c).fmtReads.head? with
  | none => s
  | some r =>
    let gen := s.genOf c r.asid
    let done (st : State) : State :=
      st.modCore c fun k => { k with fmtReads := k.fmtReads.filter fun x => !(x.asid == r.asid && x.idx == r.idx) }
    match s.fmtEntryPA r.asid r.idx with
    | none => (done s).modCore c fun k => { k with fmts := ⟨r.asid, gen, r.idx, none⟩ :: k.fmts }
    | some pa =>
      let k := s.homeCheck e pa 32
      let s1 := done (s.checked (s.desc r.asid).wg k)
      match if s.memDown pa then some (auxOf pa 0) else k.aux with
      | some aux => s1.walkFailed r.warp ⟨fmtFailVA, 0, 0, aux⟩
      | none => s1.modCore c fun k' => { k' with fmts := ⟨r.asid, gen, r.idx, (s.asRead k).fmtNow r.asid r.idx⟩ :: k'.fmts }

/-- FORMAT_ENTRY_READ (R78). -/
def execFormatEntryRead (c : CoreId) (e : Ecc) (s : State) : Result := .next (s.formatRead c e)

/-! ### Fills and returns (R105, R108, R109) -/

/-- The requests that have joined a request's fill (R101). -/
def Core.joiners (k : Core) (rid : Nat) : List Req := k.reqs.filter fun q => q.stage == .joined rid

/-- A request is given what has come for its line, under the bytes that the L1 holds and those that it held. -/
def State.takeLine (s : State) (data : List Byte) (q : Req) : State :=
  let line := if q.acq then none else (s.core q.core).l1Line? (l1Set q.vaLine) q.line
  if q.kind == .load then
    s.modReq q.core q.rid fun x => { x with pieces := fillPieces x.pieces (overlay line (x.patch data)), stage := .ready }
  else s.endReq q

/-- The prediction table takes the last reader that a response names, a running core of the die (R95). -/
def State.predictFrom (s : State) (c : CoreId) (line : Nat) (hint : Option Nat) : State :=
  match hint with
  | some n =>
    if n != c.core && (s.die c.die).coreDom == .running && !(s.core ⟨c.die, n⟩).fenced then
      s.modCore c fun k => { k with predict := (predictIdx line, n) :: k.predict.filter fun e => e.1 != predictIdx line }
    else s
  | none => s

/-- Whether the sectors that a read asks for are allocated in the L1: unless its page is uncached, its hint says not to, or it gathers
(R105, R106, R287, R288). -/
def Req.allocates (r : Req) : Bool :=
  r.kind != .prefL2 && !r.noAlloc && !r.acq && r.gran.isNone && (r.cp != 2 || r.priv)

/-- A line arrives for a load or prefetch, and for those that joined it: the sectors of those that allocate are installed unless the fill
is stale; `secs` are the sectors that have come, and a joined request that needs others tries again (R101, R105, R106). -/
def State.fill (s : State) (r : Req) (secs : List Nat) (data : List Byte) (hint : Option Nat) : State :=
  let k := s.core r.core
  let warp := k.warpOf r
  let (got, others) := (k.joiners r.rid).partition fun q => q.sectors.all fun i => secs.contains i
  let install := r.isRead && !r.stale && r.kept.isEmpty && (!r.priv || (s.warp? warp).isSome)
  let s1 := if install then s.l1Install r warp (s.wgOf r.line) (((r :: got).filter Req.allocates).flatMap Req.sectors) data else s
  let s2 := (r :: got).foldl (fun st q => st.takeLine data q) s1
  let s3 := others.foldl (fun st q => st.modReq q.core q.rid fun x => { x with stage := .waiting }) s2
  s3.predictFrom r.core r.line hint

/-- A packet that has come back to its core. -/
def State.returned? (s : State) (pid : Nat) : Option (Packet × Req) :=
  match s.packet? pid with
  | none => none
  | some p =>
    if p.resp && p.loc == .home then (s.req? p.core p.rid).map fun r => (p, r) else none

/-- A read of a warp that met an uncorrectable error: nothing is installed; every warp whose request waits on the fill
takes class 0, and its request is done (R42). -/
def State.fillFault (s : State) (r : Req) (aux : DWord) : State :=
  (r :: (s.core r.core).joiners r.rid).foldl (fun st q => (if q.kind == .load then st.machineCheck q aux else st).endReq q) s

/-- The fill of a load or prefetch. -/
def State.l1Fill (s : State) (pid : Nat) : State :=
  match s.returned? pid with
  | none => s
  | some (p, r) =>
    match r.kind with
    | .load | .prefL1 | .prefL2 =>
      let s1 := s.dropPacket pid
      (if p.fault then s1.fillFault r p.value else s1.fill r (List.range 4) p.data p.hint).settle r.core
    | _ => s

/-- L1_FILL_RETURN (R105). -/
def execL1FillReturn (pid : Nat) (s : State) : Result := .next (s.l1Fill pid)

/-- The predicate that ATOMCAS writes for a thread (R297). -/
def State.casPred (s : State) (r : Req) (ok : Bool) : State :=
  match (s.core r.core).outst.find? fun o => o.iid == r.iid with
  | none => s
  | some o =>
    match o.form with
    | .cas _ pd =>
      let t := ((r.pieces.head?).map (·.thread)).getD 0
      s.modWarp o.warp fun w => w.setP pd (maskOf fun u => u == t) (if ok then BitVec.allOnes 32 else 0)
    | _ => s

/-- One sector of what has come for a request is written to its destination, of several a free one; with the last the request leaves its
core (R108, R109). -/
def State.sectorReturn (s : State) (r : Req) : State :=
  match r.sectors with
  | i :: j :: rest =>
    let (n, s1) := s.freshFree
    let l := i :: j :: rest
    let now := l.getD (Config.sectorFirst n % l.length) i
    (s1.receive { r with pieces := r.inSectors (· == now) }).modReq r.core r.rid fun q => { q with pieces := r.inSectors (· != now) }
  | _ => ((s.receive r).endReq r).settle r.core

/-- A request whose data has come is written to its destination and leaves its core (R108, R109). -/
def State.loadReturn (s : State) (c : CoreId) (rid : Nat) : State :=
  match s.req? c rid with
  | none => s
  | some r =>
    match r.stage with
    | .ready => s.sectorReturn r
    | .fabric pid =>
      match s.returned? pid with
      | none => s
      | some (p, q) =>
        let answers := match r.kind with | .atom _ _ _ ret => ret | .cread => true | _ => false
        if !answers || q.rid != rid then s
        else if p.fault then ((((s.dropPacket pid).machineCheck r p.value).endReq r)).settle c
        else
          let r1 := { r with pieces := r.pieces.map fun e => { e with data := leBytes e.len p.value.toNat } }
          ((((s.dropPacket pid).receive r1).casPred r p.ok).endReq r).settle c
    | _ => s

/-- LOAD_DATA_RETURN (R108). -/
def execLoadDataReturn (c : CoreId) (rid : Nat) (s : State) : Result := .next (s.loadReturn c rid)

/-- Home acknowledges a store, RED or add: the core's SEQ advances (R98, R109). -/
def State.ack (s : State) (pid : Nat) : State :=
  match s.returned? pid with
  | none => s
  | some (p, r) =>
    let acks := match r.kind with | .store => true | .atom _ _ _ ret => !ret | _ => false
    if !acks then s
    else
      let s1 := (s.dropPacket pid).modCore r.core fun k => { k with seq := k.seq + 1 }
      ((if p.fault then s1.machineCheck r p.value else s1).endReq r).settle r.core

/-- STORE_ACK (R109). -/
def execStoreAck (pid : Nat) (s : State) : Result := .next (s.ack pid)

/-- COMBINING_ENTRY_AGE: entries of 1,024 lane cycles are sent (R112). -/
def execCombiningEntryAge (c : CoreId) (s : State) : Result :=
  .next (s.combFlush c fun e => e.born + 1024 ≤ s.clk)

/-! ### Peer forwarding (R95, R96) -/

/-- The sectors that a request and those that joined it ask for. -/
def State.askedSectors (s : State) (r : Req) : List Nat :=
  ((r :: (s.core r.core).joiners r.rid).flatMap Req.sectors).eraseDups

/-- Whether a sector of a peer's line holds what its home has held: no byte of it is dirty (R96). -/
def L1Line.sectorClean (l : L1Line) (i : Nat) : Bool :=
  l.sectorOk i && !(List.range 32).any fun j => (l.bytes.getD (32 * i + j) l1Invalid).isDirty

/-- A probed core's copy of the line, when every requested sector is present there and none of its own stores to the line is on its
way home (R95, R96). Of a line in two of its sets it looks at one (log 6). -/
def State.peerCopy (s : State) (r : Req) (n : Nat) : Option (List Byte) :=
  let peer := s.core ⟨r.core.die, n⟩
  if peer.fenced || (s.die r.core.die).coreDom != .running then none
  else
    match peer.l1.find? fun l => l.line == r.line with
    | none => none
    | some l =>
      if (s.askedSectors r).all l.sectorClean && !(peer.reqs.any fun q => q.line == r.line && q.writes) then
        some (l.bytes.map (·.val))
      else none

/-- PEER_PROBE: the probed core answers or refuses; its L1 does not change (R95). -/
def State.probe (s : State) (c : CoreId) (rid : Nat) : State :=
  match s.req? c rid with
  | none => s
  | some r =>
    match r.stage with
    | .probe n => s.modReq c rid fun q => { q with stage := .probed (s.peerCopy r n) }
    | _ => s

/-- PEER_PROBE (R95). -/
def execPeerProbe (c : CoreId) (rid : Nat) (s : State) : Result := .next (s.probe c rid)

/-- The requester receives the copy, or sends its read to home: of a refusal, and where an order has overtaken the copy (R95, R325). -/
def State.probeAnswer (s : State) (c : CoreId) (rid : Nat) : State :=
  match s.req? c rid with
  | none => s
  | some r =>
    match r.stage with
    | .probed (some d) => if r.stale then s.sendRead r else (s.fill r (s.askedSectors r) d none).settle c
    | .probed none => s.sendRead r
    | _ => s

/-- PEER_PROBE_ANSWER (R95). -/
def execPeerProbeAnswer (c : CoreId) (rid : Nat) (s : State) : Result := .next (s.probeAnswer c rid)

/-! ### Promotion, rotation and sleep -/

/-- A core named by PROMOTE acts and acknowledges (R293). -/
def State.promotionRequest (s : State) (c issuer : CoreId) : State :=
  if (s.core issuer).promotes.any fun p => p.left.contains c then
    (s.promoted c).modCore issuer fun k =>
      { k with promotes := (k.promotes.map fun p => { p with left := p.left.filter (· != c) }).filter fun p => !p.left.isEmpty }
  else s

/-- PROMOTION_REQUEST (R293). -/
def execPromotionRequest (c issuer : CoreId) (s : State) : Result := .next (s.promotionRequest c issuer)

/-- Whether the running split has issued 4,096 instructions while a sibling is ready (R343). -/
def Warp.rotDue (w : Warp) : Bool :=
  match w.running with
  | some p => 4096 ≤ p.rot && w.splits.any fun q => q.st == .ready
  | none => false

/-- ROT_DEMOTION: the running split is demoted as YIELD demotes it (R343). -/
def execRotDemotion (id : WarpId) (s : State) : Result :=
  match s.warp? id with
  | none => .next s
  | some w => .next (if w.rotDue then s.turnTo w (w.demote 0) 0 else s)

/-- Splits whose sleep is over become ready (R361). -/
def Warp.wakeSleep (w : Warp) (clk : Nat) : Warp :=
  let due (p : Split) : Bool := match p.st with | .blocked (.sleep n) => n ≤ clk | _ => false
  if w.splits.any due then
    let x := { w with splits := w.splits.map fun p => if due p then { p with st := .ready } else p }.schedule (w.splits.length - 1)
    (if w.running.isSome then x else x.chosen clk).watchFrom clk
  else w

/-- SLEEP_EXPIRY (R361). -/
def execSleepExpiry (id : WarpId) (s : State) : Result := .next (s.modWarp id fun w => w.wakeSleep s.clk)

end Sys2Proof.Machine
end

