-- ==== Sys2Proof/Machine/Counter.lean ====
section
/-!
DEFINITION. Counters and barriers: CADD, CWAIT, CREAD, BAR and BARSIG (R300, R303 to R309).
-/
namespace Sys2Proof.Machine

/-! ### Operands -/

/-- Class 7, at issue (R301, R385): `queue` is what AUX names. -/
def causeReject (reason queue : Nat) : Cause := { cls := 7, reason := reason, aux := BitVec.ofNat 64 queue }

/-- Reasons of R301. -/
def rCPGEOM : Nat := 0x50
def rCPRANGE : Nat := 0x51
def rCMDALIGN : Nat := 0x52
def rARENA : Nat := 0x53
def rREGION : Nat := 0x54
def rPOOLREJ : Nat := 0x55
def rCNTREF : Nat := 0x56
def rQSET : Nat := 0x57

/-- AUX of an instruction that names no single queue (R385). -/
def noQueue : Nat := 0xFF

/-- Whether a counter instruction names a global counter (R302). -/
def isGlobal (x : LongOp) : Bool := x.fn2.getLsbD 4

/-- The local counter that an operand names: its low byte (R303). -/
def localNo (a : DWord) : Nat := a.toNat % 256

/-- A global counter's access: alignment, translation, protection, and a home in service (R303, R421); a failure is the
warp's, not a thread's. -/
def State.checkCounter (s : State) (w : Warp) (g : Group) (k : Kind) (va : Nat) : AccRes :=
  if va % 8 != 0 then .bad (causeAlign 0xFF k va)
  else
    match s.checkParts w g k 0 [(0, va, 8)] with
    | .bad c => .bad { c with thread := 0xFF }
    | .good a =>
      match a.pieces.find? fun p => k == .atomic && s.bypass p.1.pa with
      | some p => .bad { cls := 0, kind := k.no, va := some p.1.va, aux := auxOf p.1.pa 0 }
      | none => .good a
    | r => r

/-- A warp-level access to a global counter: it waits for a full count and for translation, traps, or goes on. -/
def State.counterAccess (s : State) (w : Warp) (x : LongOp) (cls : Cls) (k : Kind) (go : Group → List Acc → Result) : Result :=
  let g := s.grp w
  if 63 ≤ w.count cls then .next (s.block w (.room (.count cls)) w.phase)
  else
    match checkAll [s.checkCounter w g k (w.usrc x.lit .d64 x.a).toNat] with
    | .bad c => .next (s.trap w c)
    | .wait vas fmts => .next (s.waitWalk w g vas fmts w.phase)
    | .good accs => go g accs

/-- Whether the core still holds an add of this warp to a local counter (R304, R309). -/
def State.heldAdd (s : State) (w : Warp) (ctr : Nat) : Bool :=
  (s.core w.id.coreId).heldOps.any fun h =>
    h.who.warp == w.id && (match h.op with | .localAdd c _ => c == ctr | _ => false)

/-- A local counter instruction: its index must be declared (R303), and the warp's own held add comes first. -/
def State.localCounter (s : State) (w : Warp) (ctr : Nat) (go : Group → DWord → Result) : Result :=
  let g := s.grp w
  if g.ctrs.length ≤ ctr then .next (s.trap w (causeReject rCNTREF noQueue))
  else if s.heldAdd w ctr then .next (s.block w (.room (.held ctr)) w.phase)
  else go g (g.ctrs.getD ctr 0)

/-- The core holds an add to a local counter until the release before it is complete (R304, R309). -/
def State.holdLocal (s : State) (w : Warp) (g : Group) (wide : Bool) (ctr : Nat) (amt : DWord) : State :=
  let needs := s.releaseNeeds w.id
  (s.modCore g.core fun k =>
    { k with heldOps := k.heldOps ++ [⟨g.slot, needs, wide, w.issuer, .localAdd ctr amt⟩] }).settle g.core

/-! ### CADD, CWAIT, CREAD -/

/-- CADD of a global counter (R303, R304). -/
def State.caddGlobal (s : State) (w : Warp) (x : LongOp) : Result :=
  let rel := isRel (hintOf x)
  s.counterAccess w x .gst .atomic fun g accs =>
    let needs := s.releaseNeeds w.id
    let amt := w.usrc x.lit .d64 x.b
    let (s1, iid) := s.launch w g { kind := fun _ => .atom .cadd .u64 amt false, acq := rel } .single false .gst .zr .none accs
    let s2 := if rel then s1.hold w g needs (wideScope (scopeOf x)) iid else s1
    .next (s2.retireAt w.id (longLen x) 1)

/-- CADD of a local counter (R304, R305). -/
def State.caddLocal (s : State) (w : Warp) (x : LongOp) : Result :=
  let ctr := localNo (w.usrc x.lit .i32 x.a)
  let amt := w.usrc x.lit .d64 x.b
  s.localCounter w ctr fun g _ =>
    let s1 :=
      if isRel (hintOf x) then s.holdLocal w g (wideScope (scopeOf x)) ctr amt
      else s.localAdd g.core g.slot ctr amt w.issuer
    .next (s1.retireAt w.id (longLen x) 1)

/-- CADD (R304). -/
def execCadd (x : LongOp) (s : State) : Result :=
  s.issueWarp 0xA0 x fun w => if isGlobal x then s.caddGlobal w x else s.caddLocal w x

/-- A wait for a counter is over: its acquire actions, then it retires (R306). -/
def State.counterDone (s : State) (w : Warp) (x : LongOp) (acq : Bool) : State :=
  (if acq then s.acquireActs w.id.coreId (wideScope (scopeOf x)) else s).retireAt w.id (longLen x) 1

/-- The acquire that a wait makes when it ends: whether it acts on the L1. -/
def endAcq (acq : Bool) (x : LongOp) : Option Bool := if acq then some (wideScope (scopeOf x)) else none

/-- CWAIT of a global counter: the split waits for home's answer, which completes it (R306, R307). -/
def State.cwaitGlobal (s : State) (w : Warp) (x : LongOp) : Result :=
  s.counterAccess w x .gld .atomic fun g accs =>
    let (s1, iid) := s.launch w g { kind := fun _ => .cwait (w.usrc x.lit .d64 x.b), acq := true } .single false .gld .zr
      .none accs
    .next (s1.blockAt w.id (.answer iid (longLen x) (endAcq (isAcq (hintOf x)) x)) 0)

/-- CWAIT of a local counter (R306, R307). -/
def State.cwaitLocal (s : State) (w : Warp) (x : LongOp) : Result :=
  let ctr := localNo (w.usrc x.lit .i32 x.a)
  let val := w.usrc x.lit .d64 x.b
  s.localCounter w ctr fun _ now =>
    if val.toNat ≤ now.toNat then .next (s.counterDone w x (isAcq (hintOf x)))
    else .next (s.block w (.localCtr ctr val (longLen x) (endAcq (isAcq (hintOf x)) x)) 0)

/-- CWAIT (R306). -/
def execCwait (x : LongOp) (s : State) : Result :=
  s.issueWarp 0xA1 x fun w => if isGlobal x then s.cwaitGlobal w x else s.cwaitLocal w x

/-- A pair destination written once for the warp (R149, R308). -/
def Warp.writePair (w : Warp) (d : Sel) (x : DWord) : Warp :=
  w.writeReg d true (BitVec.allOnes 32) (.uniform 0) fun _ => x

/-- CREAD of a global counter: the warp waits for the value (R308). -/
def State.creadGlobal (s : State) (w : Warp) (x : LongOp) : Result :=
  if w.phase == 1 then .next (s.retire w (longLen x) 1)
  else
    s.counterAccess w x .gld .read fun g accs =>
      let (s1, iid) := s.launch w g { kind := fun _ => .cread, acq := true } .single false .gld x.d (.warpOnce 8 false) accs
      .next (s1.blockAt w.id (.instr [iid]) 1)

/-- CREAD of a local counter (R308). -/
def State.creadLocal (s : State) (w : Warp) (x : LongOp) : Result :=
  s.localCounter w (localNo (w.usrc x.lit .i32 x.a)) fun _ now => .next (s.retire (w.writePair x.d now) (longLen x) 1)

/-- CREAD (R308). -/
def execCread (x : LongOp) (s : State) : Result :=
  s.issueWarp 0xA2 x fun w => if isGlobal x then s.creadGlobal w x else s.creadLocal w x

/-! ### BAR and BARSIG -/

/-- BAR: the release actions and the arrival, then the wait, at whose end it makes its acquire actions and completes (R309). -/
def State.bar (s : State) (w : Warp) (x : LongOp) : Result :=
  let ctr := localNo (w.usrc x.lit .i32 x.a)
  let target := w.usrc x.lit .d64 x.b
  s.localCounter w ctr fun g _ =>
    .next ((s.holdLocal w g (wideScope (scopeOf x)) ctr 1).blockAt w.id (.localCtr ctr target (longLen x) (endAcq true x)) 0)

/-- BAR (R309). -/
def execBar (x : LongOp) (s : State) : Result := s.issueWarp 0xA3 x fun w => s.bar w x

/-- BARSIG signals and does not wait; the core holds the add until the release actions are complete (R309). -/
def State.barsig (s : State) (w : Warp) (x : LongOp) : Result :=
  let ctr := localNo (w.usrc x.lit .i32 x.a)
  let amt : DWord := (w.usrc x.lit .i32 x.b).lo.toD
  s.localCounter w ctr fun g _ =>
    .next ((s.holdLocal w g (wideScope (scopeOf x)) ctr amt).retireAt w.id (longLen x) 1)

/-- BARSIG (R309). -/
def execBarsig (x : LongOp) (s : State) : Result := s.issueWarp 0xA4 x fun w => s.barsig w x

end Sys2Proof.Machine
end

