-- ==== Sys2Proof/Machine/Engine.lean ====
section
/-!
DEFINITION. What the engines of a core share: their accesses to memory (R121, R332), their counter adds (R124, R125, R305),
their traps (R126, R450), and the commands of COPY, BINPLAY and EMBPOOL (R300, R310, R316, R318).
-/
namespace Sys2Proof.Machine

/-! ### Accesses -/

/-- A run of pages: each with its first address, its bytes and its leaf. -/
abbrev Pages := List (Nat × Nat × Leaf)

/-- Whether some of a run's bytes lie in a line of memory. -/
def coversLine (ps : Pages) (line : Nat) : Bool :=
  ps.any fun p => line < p.2.2.pa p.1 + p.2.1 && p.2.2.pa p.1 < line + 128

/-- Whether some of a run's bytes lie in a word of memory. -/
def coversWord (ps : Pages) (pa n : Nat) : Bool :=
  ps.any fun p => pa < p.2.2.pa p.1 + p.2.1 && p.2.2.pa p.1 < pa + n

/-- The cause of an engine's failed access: no thread is named (R450). -/
def AccFail.engine (f : AccFail) (k : Kind) : Cause :=
  { cls := f.cls, reason := f.reason, kind := k.no, va := some f.va, aux := f.aux, err := f.err }

/-- The pages of an engine's access, all checked: translation, protection, memory in service, and for an atomic a home that
is not bypassed (R73, R421, R422). -/
def State.engPages (s : State) (w : Who) (k : Kind) (va n : Nat) : Except Cause Pages :=
  match s.pagesUp w k va n with
  | .error f => .error (f.engine k)
  | .ok ps =>
    match ps.find? fun p => k == .atomic && s.bypass (p.2.2.pa p.1) with
    | some p => .error { cls := 0, kind := k.no, va := some p.1, aux := auxOf (p.2.2.pa p.1) 0 }
    | none => .ok ps

/-- What an engine's reads meet in memory: the check, and the wing that a report of it goes to. -/
structure EngCheck where
  check  : Check
  wing   : Nat

/-- An error in the pages that an engine reads (R42). -/
def State.engCheck (s : State) (reads : Pages) (e : Ecc) : EngCheck :=
  ⟨s.atHomeCheck (eccCheck e (reads.flatMap fun p => unitsOf (p.2.2.pa p.1) p.2.1)), ((reads.head?).map fun p => p.2.2.wg).getD 15⟩

/-- The machine check of an uncorrectable error. -/
def EngCheck.cause (k : EngCheck) : Option Cause := k.check.aux.map fun a => { cls := 0, kind := 1, aux := a }

/-- The counts and reports of what an engine's reads meet. -/
def State.engChecked (s : State) (k : EngCheck) : State := s.checked k.wing k.check

/-- The issuing core's own dirty bytes and combined REDs go home before an engine reads them there (R332). -/
def State.engPull (s : State) (c : CoreId) (ps : Pages) : State :=
  let s1 := s.combFlush c fun e => coversWord ps e.pa e.width
  ((s1.core c).l1.filter fun l => coversLine ps l.line).foldl (fun st l => st.l1Clean c l.set l.line) s1

/-- An engine's read of checked pages: the state after it and the bytes. -/
def State.engRead (s : State) (c : CoreId) (ps : Pages) : State × List Byte :=
  let s1 := s.engPull c ps
  (s1, s1.readPages ps)

/-- An engine's write of checked pages: copies of their lines in the issuing core's L1 go first, and its fills of them that are on
their way are not kept (R121, R123). -/
def State.engWrite (s : State) (w : Who) (ps : Pages) (bs : List Byte) : State :=
  let s1 := s.combFlush w.core fun e => coversWord ps e.pa e.width
  let s2 := ((s1.core w.core).l1.filter fun l => coversLine ps l.line).foldl (fun st l => st.l1Purge w.core l.line) s1
  (s2.modCore w.core fun k => k.taint fun r => coversLine ps r.line).writePages w ps bs

/-- Bytes of a list from an offset on, as a little-endian number. -/
def bytesNat (bs : List Byte) (off n : Nat) : Nat := leNat ((bs.drop off).take n)

/-- Whether `n` bytes at an offset lie inside a group's scratchpad allocation (R117). -/
def Group.inSpm (g : Group) (off n : Nat) : Bool := off + n ≤ g.res.spm * 512

/-- Bytes of a group's scratchpad. -/
def State.grpSpm (s : State) (g : Group) (off n : Nat) : List Byte := s.spmBytes g.core (g.spmBase + off) n
/-- Bytes written into a group's scratchpad. -/
def State.grpSpmPuts (s : State) (g : Group) (off : Nat) (bs : List Byte) : State := s.spmPuts g.core (g.spmBase + off) bs
/-- Runs of a group's scratchpad, each with its first byte and its length. -/
abbrev SpmRuns := List (Nat × Nat)

/-- The banks of some runs of a group's scratchpad (R118). -/
def Group.banks (g : Group) (runs : SpmRuns) : List Nat :=
  (runs.flatMap fun r =>
    if r.2 == 0 then [] else (List.range (min 32 ((r.1 % 16 + r.2 + 15) / 16))).map fun i => ((g.spmBase + r.1) / 16 + i) % 32).eraseDups

/-- An engine uses the banks of some runs in this lane cycle (R118). -/
def State.useBanks (s : State) (g : Group) (runs : SpmRuns) : State :=
  let banks := g.banks runs
  s.modCore g.core fun k => { k with busyBanks := k.busyBanks ++ banks.filter fun b => !k.busyBanks.contains b }

/-- Whether an engine may use the banks of some runs in this lane cycle: no engine has, and no lane's row there has waited 16 cycles
(R118). -/
def State.banksFree (s : State) (g : Group) (runs : SpmRuns) : Bool :=
  let k := s.core g.core
  let late (b : Nat) : Bool := k.reqs.any fun r =>
    match r.stage, r.pieces.head? with | .bank since, some p => since + 16 ≤ s.clk && p.pa / 16 % 32 == b | _, _ => false
  (g.banks runs).all fun b => !k.busyBanks.contains b && !late b

/-! ### Traps and counters -/

/-- A trap that an entry charges to its issuer (R450). -/
def State.engTrap (s : State) (g : Group) (i : Issuer) (c : Cause) : State := (s.found c).deferTrap g.core g.slot i c

/-- An engine's counter add: a CADD with release semantics at device scope (R124, R125, R305). -/
def State.engineAdd (s : State) (g : Group) (r : CtrRef) (amt : Nat) (i : Issuer) : Except Cause State :=
  match r with
  | .none => .ok s
  | .loc b => .ok ((s.releaseActs g.core true).localAdd g.core g.slot b (BitVec.ofNat 64 amt) i true)
  | .glob va =>
    match s.engPages g.whoIs .atomic va 8 with
    | .error c => .error c
    | .ok ps =>
      match ps.head? with
      | none => .ok s
      | some p =>
        let pa := p.2.2.pa va
        let s1 := (s.releaseActs g.core true).l1Purge g.core (lineOf pa)
        let (s2, spill) := s1.homeAdd g.core.die g.whoIs.slot p.2.2.wg p.2.2.cp pa (BitVec.ofNat 64 amt)
        .ok (if spill then s2.engTrap g i { cls := 6, aux := BitVec.ofNat 64 va } else s2)

/-- The counter that a kind, a local index and a global address name (R310). -/
def ctrOf (kind idx addr : Nat) : CtrRef :=
  match kind with
  | 1 => .loc idx
  | 2 => .glob addr
  | _ => .none

/-- The check of an entry's counter at issue (R125, R300): `kind` 3 names none. -/
def State.checkCtr (s : State) (g : Group) (kind : Nat) (r : CtrRef) (queue : Nat) : Option Cause :=
  if kind == 3 then some (causeReject rCNTREF queue)
  else
    match r with
    | .none => none
    | .loc b => if b < g.ctrs.length then none else some (causeReject rCNTREF queue)
    | .glob va =>
      if va % 8 != 0 then some (causeReject rCNTREF queue)
      else
        match s.engPages g.whoIs .atomic va 8 with
        | .error c => some c
        | .ok _ => none

/-! ### Commands -/

/-- A copy command (R310). -/
structure CopyCmd where
  src     : Nat
  dst     : Nat
  rowLen  : Nat
  rows    : Nat
  dec     : Nat
  dspm    : Bool
  sspm    : Bool
  sstride : Nat
  dstride : Nat
  ctrKind : Nat
  ctr     : CtrRef
  amt     : Nat
  raw     : Nat

/-- The 48 bytes of a copy command. -/
def CopyCmd.parse (b : List Byte) : CopyCmd :=
  let f := bytesNat b 22 1
  let sspm := bitN f 0
  let dspm := bitN f 1
  { src := if sspm then bytesNat b 0 4 else bytesNat b 0 8
    dst := if dspm then bytesNat b 8 4 else bytesNat b 8 8
    rowLen := bytesNat b 16 4, rows := bytesNat b 20 2, dec := bitsN f 2 2, dspm := dspm, sspm := sspm
    sstride := bytesNat b 24 4, dstride := bytesNat b 28 4, ctrKind := bitsN f 4 2
    ctr := ctrOf (bitsN f 4 2) (bytesNat b 23 1) (bytesNat b 32 8), amt := bytesNat b 40 4, raw := bytesNat b 44 1 % 4 }

/-- Bytes of a destination element under DEC, and of a destination row. -/
def CopyCmd.elemBytes (c : CopyCmd) : Nat := match c.dec with | 1 => 4 | 2 => 2 | _ => 1
def CopyCmd.rowBytes (c : CopyCmd) : Nat := c.rowLen * c.elemBytes
/-- Destination bytes of the whole entry. -/
def CopyCmd.total (c : CopyCmd) : Nat := c.rows * c.rowBytes

/-- The limits of R120 and R310, in the order of R301. -/
def CopyCmd.reject (c : CopyCmd) (g : Group) : Option Nat :=
  let lenOk := 1 ≤ c.rowLen && c.rowLen ≤ (if c.dec == 0 then 2 ^ 24 else 2 ^ 22)
  if c.rows == 0 || !lenOk || c.dec == 3 || (c.dec != 0 && c.sspm) || (1 < c.rows && c.dstride < c.rowBytes) then some rCPGEOM
  else if c.sspm && !g.inSpm c.src ((c.rows - 1) * c.sstride + c.rowLen) then some rCPRANGE
  else if c.dspm && !g.inSpm c.dst ((c.rows - 1) * c.dstride + c.rowBytes) then some rCPRANGE
  else none

/-- A BINPLAY command (R316). -/
structure PlayCmd where
  abase   : Nat
  tva     : Nat
  sva     : Nat
  region  : Nat
  off     : Nat
  op      : Nat
  ctrKind : Nat
  ctr     : CtrRef
  amt     : Nat

def PlayCmd.parse (b : List Byte) : PlayCmd :=
  let f := bytesNat b 45 1
  { abase := bytesNat b 0 8, tva := bytesNat b 8 8, sva := bytesNat b 16 8, region := bytesNat b 24 4, off := bytesNat b 28 4
    op := bitsN f 0 2, ctrKind := bitsN f 2 2
    ctr := ctrOf (bitsN f 2 2) (bytesNat b 44 1) (bytesNat b 32 8), amt := bytesNat b 40 4 }

/-- An arena header (R130). -/
structure Arena where
  nreg  : Nat
  cap   : Nat
  shift : Nat

def Arena.parse (b : List Byte) : Arena := ⟨bytesNat b 0 4, bytesNat b 4 4, bytesNat b 8 1⟩
def Arena.ok (a : Arena) : Bool :=
  1 ≤ a.nreg && a.nreg ≤ 2 ^ 24 && 1 ≤ a.cap && a.cap ≤ 2 ^ 24 && 4 ≤ a.shift && a.shift ≤ 16
/-- The count word of a region, and a slot's entry (R130). -/
def Arena.countVA (abase g : Nat) : Nat := abase + 128 + 8 * g
def Arena.ebase (a : Arena) (abase : Nat) : Nat := (abase + 128 + 8 * a.nreg + 127) / 128 * 128
def Arena.slotVA (a : Arena) (abase g j : Nat) : Nat := a.ebase abase + 8 * (g * a.cap + j)

/-- The remaining checks of BINPLAY, in the order of R301. -/
def PlayCmd.reject (c : PlayCmd) (a : Arena) (g : Group) : Option Nat :=
  if !g.inSpm c.off (4 * 2 ^ a.shift) then some rCPRANGE
  else if c.tva % 4 != 0 || c.sva % 8 != 0 || c.off % 16 != 0 then some rCMDALIGN
  else if c.abase % 128 != 0 || !a.ok then some rARENA
  else if a.nreg ≤ c.region then some rREGION
  else none

/-- A pooling command (R318). -/
structure PoolCmd where
  tbase   : Nat
  nrows   : Nat
  rowLen  : Nat
  raw     : Nat
  dspm    : Bool
  obf     : Bool
  mode    : Nat
  stride  : Nat
  nbags   : Nat
  idxOff  : Nat
  offOff  : Nat
  wOff    : Nat
  stOff   : Nat
  dst     : Nat
  pitch   : Nat
  ctrKind : Nat
  ctr     : CtrRef
  amt     : Nat

def PoolCmd.parse (b : List Byte) : PoolCmd :=
  let f := bytesNat b 14 1
  let dspm := bitN f 3
  { tbase := bytesNat b 0 8, nrows := bytesNat b 8 4, rowLen := bytesNat b 12 2 % 2048, raw := bitsN f 6 2, dspm := dspm
    obf := bitN f 2, mode := bitsN f 0 2, stride := bytesNat b 16 4, nbags := bytesNat b 20 4, idxOff := bytesNat b 24 4
    offOff := bytesNat b 28 4, wOff := bytesNat b 32 4, stOff := bytesNat b 36 4
    dst := if dspm then bytesNat b 40 4 else bytesNat b 40 8, pitch := bytesNat b 48 4, ctrKind := bitsN f 4 2
    ctr := ctrOf (bitsN f 4 2) (bytesNat b 15 1) (bytesNat b 56 8), amt := bytesNat b 52 4 }

/-- Bytes of an output row. -/
def PoolCmd.outBytes (c : PoolCmd) : Nat := c.rowLen * (if c.obf then 2 else 4)

/-- The checks of EMBPOOL at issue, in the order of R301 (R318). -/
def PoolCmd.reject (c : PoolCmd) (g : Group) : Option Nat :=
  if c.nbags == 0 || 65535 < c.nbags || c.pitch < c.outBytes then some rCPGEOM
  else if !g.inSpm c.offOff (4 * (c.nbags + 1)) || !g.inSpm c.stOff (4 * c.nbags) ||
      (c.dspm && !g.inSpm c.dst ((c.nbags - 1) * c.pitch + c.outBytes)) then some rCPRANGE
  else if c.idxOff % 4 != 0 || c.offOff % 4 != 0 || c.stOff % 4 != 0 || c.pitch % 4 != 0 || (c.mode == 1 && c.wOff % 4 != 0) then
    some rCMDALIGN
  else none

/-- The counter and amount of an entry's command, by queue: 8 is the binning queue, 9 the pooling queue. -/
def EngEntry.counter (e : EngEntry) (queue : Nat) : CtrRef × Nat :=
  if queue == 8 then let c := PlayCmd.parse e.cmd; (c.ctr, c.amt)
  else if queue == 9 then let c := PoolCmd.parse e.cmd; (c.ctr, c.amt)
  else let c := CopyCmd.parse e.cmd; (c.ctr, c.amt)

/-! ### Queues -/

/-- A shared queue of a core: 0 to 7 a copy channel, 8 the binning queue, 9 the pooling queue. -/
def Core.queue (k : Core) (n : Nat) : List QItem :=
  if n == 8 then k.binq else if n == 9 then k.poolq else k.chans.getD n []
/-- The same, changed. -/
def Core.modQueue (k : Core) (n : Nat) (f : List QItem → List QItem) : Core :=
  if n == 8 then { k with binq := f k.binq }
  else if n == 9 then { k with poolq := f k.poolq }
  else { k with chans := k.chans.mapIdx fun i q => if i == n then f q else q }
/-- Entries that a shared queue holds (R119, R300). -/
def queueDepth (n : Nat) : Nat := if n == 8 then 16 else if n == 9 then 8 else 32

/-- The entry at the head of a shared queue. -/
def Core.headEntry (k : Core) (n : Nat) : Option EngEntry :=
  match (k.queue n).head? with
  | some (.entry e) => some e
  | _ => none

def State.modQueue (s : State) (c : CoreId) (n : Nat) (f : List QItem → List QItem) : State :=
  s.modCore c fun k => k.modQueue n f

/-- The head entry changed, or removed. -/
def State.setHead (s : State) (c : CoreId) (n : Nat) (e : EngEntry) : State :=
  s.modQueue c n fun q => match q with | _ :: r => .entry e :: r | [] => []
def State.popHead (s : State) (c : CoreId) (n : Nat) : State := s.modQueue c n fun q => q.drop 1

/-- The entries of a group leave a shared queue (R126, R320). -/
def State.discardQueue (s : State) (c : CoreId) (n slot : Nat) : State :=
  s.modQueue c n fun q => q.filter fun i => match i with | .entry e => e.slot != slot | .fence _ => true

/-- A fence's marks leave the queues. -/
def State.dropFence (s : State) (c : CoreId) (f : Fence) : State :=
  let s1 := (List.range 10).foldl (fun st n => st.modQueue c n fun q => q.filter (· != .fence f.fid)) s
  (s1.modGroup c f.slot fun g => { g with mxq := g.mxq.filter fun m => m.fence != some f.fid }).modCore c fun k =>
    { k with fences := k.fences.filter fun o => o.fid != f.fid }

/-- A group's fences that have a mark in a queue leave all their queues without their adds (R126, R128). -/
def State.discardFences (s : State) (g : Group) (n : Nat) : State :=
  ((s.core g.core).fences.filter fun f => f.slot == g.slot && f.mask.getLsbD n).foldl (fun st f => st.dropFence g.core f) s

/-- What follows a failed access of an entry: class 1 stops it where it stands, and the others discard it and the group's
later entries and fences in its queue (R126, R128, R320). -/
def State.engFail (s : State) (g : Group) (n : Nat) (e : EngEntry) (c : Cause) : State :=
  let s1 := s.engTrap g e.who c
  if c.cls == 1 then s1.setHead g.core n { e with stopped := true } else (s1.discardFences g n).discardQueue g.core n g.slot

/-- Whether the warp's accesses before an entry have been performed (R127). -/
def Core.needsOver (k : Core) (needs : List Nat) : Bool := needs.all fun i => !(k.outst.any fun o => o.iid == i)

/-- The head entry is complete: its counter add is made and it leaves its queue; a failed add stops it or discards what
is behind it (R124, R125). -/
def State.completeEntry (s : State) (g : Group) (n : Nat) (e : EngEntry) : State :=
  let (r, amt) := e.counter n
  match s.engineAdd g r amt e.who with
  | .ok s1 => s1.popHead g.core n
  | .error c => s.engFail g n e c

/-! ### Issue of a command -/

/-- An entry enters a queue, and its warp retires the instruction. -/
def State.enqueueEntry (s : State) (w : Warp) (x : LongOp) (g : Group) (n : Nat) (cmd : List Byte) (hdr : List Nat)
    (off trapT : Bool) : State :=
  let (eid, s1) := s.fresh
  let e : EngEntry :=
    { eid := eid, slot := g.slot, off := off, cmd := cmd, hdr := hdr, done := 0, started := false, stopped := false,
      trapT := trapT, reject := false, needs := s.outstOf w.id fun _ => true, who := w.issuer }
  (s1.modQueue g.core n fun q => q ++ [.entry e]).retire w (longLen x) 1

/-- What the checks of a command's own fields come to: a trap in a state, a wait for the warp's own writes, or the header's numbers. -/
inductive CmdRes where
  | bad (s : State) (c : Cause)
  | wait (iids : List Nat)
  | good (s : State) (hdr : List Nat)

/-- Issue of COPY, BINPLAY or EMBPOOL: the placement of the command, its bytes once the warp's own stores to them have landed, its
counter, then, under a true guard, the checks of `more` (R118, R129, R300). -/
def State.command (s : State) (w : Warp) (x : LongOp) (n size : Nat) (trapT : Bool)
    (ctr : List Byte → Nat × CtrRef) (more : Group → List Byte → CmdRes) : Result :=
  let g := s.grp w
  let cmd := (w.usrc x.lit .i32 x.a).lo.toNat
  let off := !w.actsK x.g
  if cmd % 16 != 0 then .next (s.trap w (causeReject rCMDALIGN n))
  else if !g.inSpm cmd size then .next (s.trap w (causeReject rCPRANGE n))
  else if !(s.ownWrites w.id true [(g.spmBase + cmd, size)]).isEmpty then
    .next (s.block w (.instr (s.ownWrites w.id true [(g.spmBase + cmd, size)])) w.phase)
  else
    let bs := s.grpSpm g cmd size
    let (kind, r) := ctr bs
    match s.checkCtr g kind r n with
    | some c => .next (s.trap w c)
    | none =>
      match if off then .good s [] else more g bs with
      | .bad s1 c => .next (s1.trapFound w c)
      | .wait iids => .next (s.block w (.instr iids) w.phase)
      | .good s1 hdr =>
        if queueDepth n ≤ ((s1.core g.core).queue n).length then .next (s1.block w (.room (if n < 8 then .channel n else .queues [n])) w.phase)
        else .next (s1.enqueueEntry w x g n bs hdr off trapT)

/-- COPY (R310, R311). -/
def execCopy (x : LongOp) (s : State) : Result :=
  s.issue 0xD0 x fun w =>
    let n := x.fn2.toNat % 8
    s.command w x n 48 false (fun b => let c := CopyCmd.parse b; (c.ctrKind, c.ctr)) fun g b =>
      match (CopyCmd.parse b).reject g with
      | some r => .bad s (causeReject r n)
      | none => .good s []

/-- The physical runs of some pages. -/
def runsOf (ps : Pages) : List (Nat × Nat) := ps.map fun p => (p.2.2.pa p.1, p.2.1)

/-- BINPLAY (R316, R317). -/
def execBinplay (x : LongOp) (s : State) : Result :=
  s.issue 0xD4 x fun w =>
    s.command w x 8 48 false (fun b => let c := PlayCmd.parse b; (c.ctrKind, c.ctr)) fun g b =>
      let c := PlayCmd.parse b
      match s.engPages g.whoIs .read c.abase 16 with
      | .error f => .bad s f
      | .ok ps =>
        let own := s.ownWrites w.id false (runsOf ps)
        if !own.isEmpty then .wait own
        else
          let (s1, bs) := s.engRead g.core ps
          let a := Arena.parse bs
          match c.reject a g with
          | some r => .bad s1 (causeReject r 8)
          | none => .good s1 [a.nreg, a.cap, a.shift]

/-- EMBPOOL (R318, R319). -/
def execEmbpool (x : LongOp) (s : State) : Result :=
  s.issue 0xD6 x fun w =>
    s.command w x 9 64 (x.fn2.getLsbD 0) (fun b => let c := PoolCmd.parse b; (c.ctrKind, c.ctr)) fun g b =>
      match (PoolCmd.parse b).reject g with
      | some r => .bad s (causeReject r 9)
      | none => .good s []

/-! ### CPTR and QFENCE -/

/-- CPTR (R312). -/
def execCptr (x : LongOp) (s : State) : Result :=
  s.issue 0xD1 x fun w =>
    let ch := (w.usrc x.lit .i32 x.a).toNat % 8
    if w.acts x.g then .next (s.retire (w.writePair x.d ((s.grp w).wptr.getD ch 0)) (longLen x) 1)
    else .next (s.retire w (longLen x) 1)

/-- Queues that a QFENCE mask names (R313): 10 is the issuing group's matrix queue. -/
def fenceQueues (mask : BitVec 11) : List Nat := (List.range 11).filter mask.getLsbD

/-- Entries of a group's matrix queue (R261). -/
def mxDepth : Nat := 32

/-- Whether a queue that a fence names has room (R313). -/
def State.queueRoom (s : State) (g : Group) (n : Nat) : Bool :=
  if n == 10 then g.mxq.length < mxDepth else ((s.core g.core).queue n).length < queueDepth n

/-- The counter operand of QFENCE and MBATCH: 1 local, 2 global (R273, R313). -/
def ctrOperand (form : Nat) (a : DWord) : CtrRef :=
  match form with
  | 1 => .loc (localNo a)
  | 2 => .glob a.toNat
  | _ => .none

/-- A fence's mark as an entry of the matrix queue. -/
def fenceMark (fid : Nat) (x : LongOp) (i : Issuer) : MxEntry :=
  { eid := fid, opc := 0xD2, x := x, a := 0, b := 0, c := 0, off := false, batch := 0, fence := some fid, fmts := none,
    needs := [], stopped := false, who := i }

/-- QFENCE enters all the queues that it names at once; naming none, it completes and makes its add, once the warp's earlier writes
that the release covers are performed (R128, R313, R328). -/
def State.qfence (s : State) (w : Warp) (x : LongOp) : Result :=
  let g := s.grp w
  let form := x.fn2.toNat % 4
  let m := (w.usrc x.lit .i32 x.a).lo
  let r := ctrOperand form (w.usrc x.lit (if form == 2 then .d64 else .i32) x.b)
  let amt := (w.usrc x.lit .i32 x.c).lo.toNat
  match s.checkCtr g 0 r noQueue with
  | some c => .next (s.trap w c)
  | none =>
    if 2048 ≤ m.toNat then .next (s.trap w (causeReject rQSET noQueue))
    else
      let mask : BitVec 11 := m.setWidth 11
      let qs := fenceQueues mask
      if qs.isEmpty && w.phase == 0 && !(s.releaseNeeds w.id).isEmpty then .next (s.block w (.instr (s.releaseNeeds w.id)) 1)
      else if qs.isEmpty then
        match s.engineAdd g r amt w.issuer with
        | .ok s1 => .next (s1.retireAt w.id (longLen x) 1)
        | .error c => .next (s.trapFound w c)
      else if !(qs.all (s.queueRoom g)) then .next (s.block w (.room (.queues qs)) w.phase)
      else
        let (fid, s1) := s.fresh
        let f : Fence := ⟨fid, g.slot, mask, r, amt, s.outstOf w.id fun _ => true, w.issuer⟩
        let s2 := s1.modCore g.core fun k => { k with fences := k.fences ++ [f] }
        let s3 := (qs.filter (· != 10)).foldl (fun st n => st.modQueue g.core n fun q => q ++ [.fence fid]) s2
        let s4 := if mask.getLsbD 10 then
            s3.modGroup g.core g.slot fun u => { u with mxq := u.mxq ++ [fenceMark fid x w.issuer] } else s3
        .next (s4.retireAt w.id (longLen x) 1)

/-- QFENCE (R313). -/
def execQfence (x : LongOp) (s : State) : Result :=
  s.issue 0xD2 x fun w =>
    if w.acts x.g then s.qfence w x else .next (s.retire w (longLen x) 1)

end Sys2Proof.Machine
end

