-- ==== Sys2Proof/Machine/Bin.lean ====
section
/-!
DEFINITION. BIN and ROUTE, performed thread by thread (R130, R131, R134 to R137, R314, R315).
-/
namespace Sys2Proof.Machine

/-- What one thread leaves: its state and warp, or a fault with the progress that is kept (R136). -/
inductive ThreadRes where
  | done (s : State) (w : Warp)
  | fault (s : State) (w : Warp) (p : Progress) (c : Cause)

/-- The checks of one word that a thread acts on; a fault names the thread. -/
def State.threadPages (s : State) (g : Group) (k : Kind) (t va n : Nat) : Except Cause Pages :=
  match s.engPages g.whoIs k va n with
  | .error c => .error { c with thread := t }
  | .ok ps => .ok ps

/-- The same for an append: a store whose access is of kind Atomic (R73). -/
def State.appendPages (s : State) (g : Group) (t va n : Nat) : Except Cause Pages :=
  match s.threadPages g .write t va n with
  | .error c => .error { c with kind := Kind.atomic.no }
  | .ok ps => .ok ps

/-- Physical address of the first byte of a run. -/
def pagesPA (ps : Pages) : Nat := ((ps.head?).map fun p => p.2.2.pa p.1).getD 0

/-- A relaxed atomic at home on `n` bytes: the old bytes, and the state after the new ones are written; the core's L1
gives up its copy first (R105, R333). -/
def State.engAtomic (s : State) (w : Who) (ps : Pages) (f : Nat → Nat) (n : Nat) : State × Nat :=
  let s1 := (s.combFlush w.core fun e => coversWord ps e.pa e.width).l1Purge w.core (lineOf (pagesPA ps))
  let old := s1.devNat (pagesPA ps) n
  (s1.writePages w ps (leBytes n (f old)), old)

/-- One predicate bit of thread t. -/
def Warp.setPred (w : Warp) (pd t : Nat) (b : Bool) : Warp :=
  w.setP pd (maskOf fun u => u == t) (if b then BitVec.allOnes 32 else 0)

/-- The predicate that BIN and ROUTE name (R302). -/
def pdOf (x : LongOp) : Nat := x.fn.toNat / 2 % 8

/-- BIN's work for one thread (R131); its appends are accesses of kind Atomic (R73). -/
def State.binThread (s : State) (g : Group) (w : Warp) (x : LongOp) (a : Arena) (abase t : Nat) (claim : Option Nat) : ThreadRes :=
  let idx := (w.src x.lit .i32 x.b t).lo.toNat
  let val := (w.src x.lit .i32 x.c t).lo.toNat
  let region := idx / 2 ^ a.shift
  let finish (st : State) (slot : Nat) : ThreadRes :=
    if slot < a.cap then
      match st.appendPages g t (a.slotVA abase region slot) 8 with
      | .error c => .fault st w ⟨t, some slot, false⟩ c
      | .ok ps => .done (st.engWrite g.whoIs ps (leBytes 8 (idx + val * 2 ^ 32))) (w.setPred (pdOf x) t true)
    else .done st (w.setPred (pdOf x) t false)
  if a.nreg ≤ region then .done s (w.setPred (pdOf x) t false)
  else
    match claim with
    | some slot => finish s slot
    | none =>
      match s.threadPages g .atomic t (Arena.countVA abase region) 8 with
      | .error c => .fault s w ⟨t, none, false⟩ c
      | .ok ps =>
        let (s1, old) := s.engAtomic g.whoIs ps (· + 1) 8
        finish s1 old

/-- A route header (R134). -/
structure RouteHdr where
  nexp    : Nat
  rescap  : Nat
  resbase : Nat

def RouteHdr.parse (b : List Byte) : RouteHdr := ⟨bytesNat b 0 4, bytesNat b 4 4, bytesNat b 8 8⟩
def RouteHdr.ok (h : RouteHdr) : Bool := 1 ≤ h.nexp && h.nexp ≤ 4096 && h.resbase % 8 == 0

/-- Address of an expert's entry (R134). -/
def expertVA (rbase e : Nat) : Nat := rbase + 128 + 16 * e

/-- ROUTE's claim for one thread: a slot of the expert, else a residual index (R135); the flag says residual. -/
def State.routeClaim (s : State) (g : Group) (h : RouteHdr) (rbase e t : Nat) : Except Cause (State × Nat × Bool) :=
  let resid (st : State) : Except Cause (State × Nat × Bool) :=
    match st.threadPages g .atomic t (rbase + 64) 8 with
    | .error c => .error c
    | .ok ps =>
      let (s1, old) := st.engAtomic g.whoIs ps (· + 1) 8
      .ok (s1, old, true)
  if e < h.nexp then
    match s.threadPages g .atomic t (expertVA rbase e) 8 with
    | .error c => .error c
    | .ok ps =>
      let (s1, old) := s.engAtomic g.whoIs ps (fun v => if v % 2 ^ 32 < v / 2 ^ 32 then v + 1 else v) 8
      if old % 2 ^ 32 < old / 2 ^ 32 then .ok (s1, old % 2 ^ 32, false) else resid s1
  else resid s

/-- ROUTE's work for one thread (R135); its appends are accesses of kind Atomic (R73). -/
def State.routeThread (s : State) (g : Group) (w : Warp) (x : LongOp) (h : RouteHdr) (rbase t : Nat)
    (claim : Option (Nat × Bool)) : ThreadRes :=
  let e := (w.src x.lit .i32 x.b t).lo.toNat
  let tok := (w.src x.lit .i32 x.c t).lo.toNat
  let result (placed : Bool) (k : Nat) : Warp :=
    (w.writeReg x.d false (maskOf fun u => u == t) .general fun _ => BitVec.ofNat 64 (k % 2 ^ 32)).setPred (pdOf x) t placed
  let finish (st : State) (k : Nat) (resid : Bool) : ThreadRes :=
    let write (ps : Except Cause Pages) (bs : List Byte) : ThreadRes :=
      match ps with
      | .error c => .fault st w ⟨t, some k, resid⟩ c
      | .ok ps => .done (st.engWrite g.whoIs ps bs) (result (!resid) k)
    if resid then
      if k < h.rescap then
        let flags := if h.nexp ≤ e then 1 else 2
        write (st.appendPages g t (h.resbase + 8 * k) 8) (leBytes 8 (tok + (flags * 2 ^ 30 + e % 2 ^ 30) * 2 ^ 32))
      else .done st (result false k)
    else
      match st.threadPages g .read t (expertVA rbase e + 8) 8 with
      | .error c => .fault st w ⟨t, some k, resid⟩ c
      | .ok ps =>
        let (st, bs) := st.engRead g.core ps
        let bin := leNat bs
        write (st.appendPages g t (bin + 4 * k) 4) (leBytes 4 tok)
  match claim with
  | some (k, resid) => finish s k resid
  | none =>
    match s.routeClaim g h rbase e t with
    | .error c => .fault s w ⟨t, none, false⟩ c
    | .ok (s1, k, resid) => finish s1 k resid

/-- The threads of a list one after the other; the first of them may hold a claim. -/
def runThreads (f : State → Warp → Nat → Option (Nat × Bool) → ThreadRes) :
    State → Warp → Option (Nat × Bool) → List Nat → ThreadRes
  | s, w, _, [] => .done s w
  | s, w, cl, t :: ts =>
    match f s w t cl with
    | .done s1 w1 => runThreads f s1 w1 none ts
    | r => r

/-- A thread-serial instruction from where its warp left it (R136): a fault keeps its progress and traps. A thread whose two sources lie in
one bank takes two cycles (R139, R153). -/
def State.serial (s : State) (w : Warp) (x : LongOp) (f : State → Warp → Nat → Option (Nat × Bool) → ThreadRes) : Result :=
  let p := w.progress.getD ⟨0, none, false⟩
  let ts := (threadsOf (w.active x.g)).filter fun t => p.next ≤ t
  match runThreads f s w (p.claim.map fun k => (k, p.resid)) ts with
  | .done s1 w1 =>
    .next (s1.retire { w1 with progress := none } (longLen x)
      (max 1 (ts.length * bankCost (w.bankWords .i32 x.b ++ w.bankWords .i32 x.c))))
  | .fault s1 w1 q c =>
    let w2 := { w1 with progress := some q }
    .next ((s1.setWarp w2).trap w2 c)

/-- The warp's memory accesses on their way, which its BIN or ROUTE comes after: both act at home (R282). -/
def State.ownAccesses (s : State) (w : Warp) : List Nat := s.outstOf w.id (· != .spm)

/-- BIN: the header is read and checked once, before thread 0 acts (R314). DESIGN CHOICE (log 31): one that resumes reads and checks it
again, since the progress that R136 keeps holds no header. -/
def State.binInstr (s : State) (w : Warp) (x : LongOp) : Result :=
  let g := s.grp w
  let abase := (w.usrc x.lit .d64 x.a).toNat
  if w.active x.g == 0 then .next (s.retire w (longLen x) 1)
  else if !(s.ownAccesses w).isEmpty then .next (s.block w (.instr (s.ownAccesses w)) w.phase)
  else
    match s.engPages g.whoIs .read abase 16 with
    | .error c => .next (s.trapFound w c)
    | .ok ps =>
      let (s1, bs) := s.engRead g.core ps
      let a := Arena.parse bs
      if abase % 128 != 0 || !a.ok then .next (s1.trap w (causeReject rARENA noQueue))
      else s1.serial w x fun st u t cl => st.binThread g u x a abase t (cl.map (·.1))

/-- BIN (R131, R314). -/
def execBin (x : LongOp) (s : State) : Result := s.issue 0xD3 x fun w => s.binInstr w x

/-- ROUTE (R315); one that resumes reads and checks its header again (DESIGN CHOICE, log 31). An s destination traps (DEDUCED, log 15). -/
def State.routeInstr (s : State) (w : Warp) (x : LongOp) : Result :=
  let g := s.grp w
  let rbase := (w.usrc x.lit .d64 x.a).toNat
  if selIsS x.d then .next (s.trap w causeShape)
  else if w.active x.g == 0 then .next (s.retire w (longLen x) 1)
  else if !(s.ownAccesses w).isEmpty then .next (s.block w (.instr (s.ownAccesses w)) w.phase)
  else
    match s.engPages g.whoIs .read rbase 16 with
    | .error c => .next (s.trapFound w c)
    | .ok ps =>
      let (s1, bs) := s.engRead g.core ps
      let h := RouteHdr.parse bs
      if rbase % 128 != 0 || !h.ok then .next (s1.trap w (causeReject rARENA noQueue))
      else s1.serial w x fun st u t cl => st.routeThread g u x h rbase t cl

/-- ROUTE (R135, R315). -/
def execRoute (x : LongOp) (s : State) : Result := s.issue 0xD5 x fun w => s.routeInstr w x

end Sys2Proof.Machine
end

