-- ==== Sys2Proof/Machine/CopyEvents.lean ====
section
/-!
DEFINITION. The steps of the copy channels, of queue fences, of guarded-off entries and of the binning queue (R121 to R129,
R132).
-/
namespace Sys2Proof.Machine

/-! ### Copy channels -/

/-- The group of an entry, and the entry at the head of a queue that may go on: it has not been stopped. -/
def State.headOf (s : State) (c : CoreId) (n : Nat) : Option (Group × EngEntry) :=
  match (s.core c).headEntry n with
  | none => none
  | some e => if e.stopped then none else (s.group? c e.slot).map fun g => (g, e)

/-- A channel takes up its next entry: the one ahead of it is complete, and what its warp did before it is performed
(R121, R127). -/
def State.copyStart (s : State) (c : CoreId) (ch : Nat) : State :=
  if 8 ≤ ch then s
  else
    match s.headOf c ch with
    | none => s
    | some (_, e) =>
      if e.off || e.started || !(s.core c).needsOver e.needs then s else s.setHead c ch { e with started := true }

/-- COPY_ENTRY_START (R121). -/
def execCopyEntryStart (c : CoreId) (ch : Nat) (s : State) : Result := .next (s.copyStart c ch)

/-- Place of destination byte `k` of an entry, and of its source byte without DEC (R120). -/
def CopyCmd.dstAt (c : CopyCmd) (k : Nat) : Nat := c.dst + k / c.rowBytes * c.dstride + k % c.rowBytes
def CopyCmd.srcAt (c : CopyCmd) (k : Nat) : Nat := c.src + k / c.rowBytes * c.sstride + k % c.rowBytes

/-- Bytes of the delivery unit that begins at destination byte `k` (R121). -/
def CopyCmd.unitAt (c : CopyCmd) (k : Nat) : Nat :=
  let room := min (64 - c.dstAt k % 64) (c.total - k)
  if c.rows ≤ 1 || c.dstride == c.rowBytes then room else min room (c.rowBytes - k % c.rowBytes)

/-- A destination byte before it is read: the pages that its value comes from, and the value once they have been pulled. -/
structure SrcByte where
  pages : Pages
  val   : State → Byte

/-- A source byte without DEC. -/
def State.plainByte (s : State) (g : Group) (c : CopyCmd) (k : Nat) : Except Cause SrcByte :=
  if c.sspm then .ok ⟨[], fun st => st.spmByte g.core (g.spmBase + c.srcAt k)⟩
  else
    match s.engPages g.whoIs .read (c.srcAt k) 1 with
    | .error f => .error f
    | .ok ps => .ok ⟨ps, fun st => (st.readPages ps).headD 0⟩

/-- The format of an entry's elements: that of its first source page, 0 and none where the page is raw (R122). -/
def State.copyFmt (s : State) (g : Group) (c : CopyCmd) : Except Cause (Nat × Option Fmt) :=
  match s.engPages g.whoIs .read c.src 1 with
  | .error f => .error f
  | .ok ps =>
    let n := ((ps.head?).map fun p => p.2.2.fmt).getD 0
    if n == 0 then .ok (0, none)
    else
      match s.fmtFor g.core g.asid n c.src with
      | .error f => .error (f.engine .read)
      | .ok none => .error { cls := 2, reason := rBADFMT, kind := 1, va := some c.src }
      | .ok (some f) => .ok (n, some f)

/-- A decoded element's value as a little-endian number of the destination's width (R122, R311). -/
def decodeElem (f : Option Fmt) (raw dec scale code : Nat) : Nat :=
  let v := match f with
    | some ft => ft.decode scale code
    | none => (roundF fp32 0 false (rawVal raw code)).1
  if dec == 2 then f32To bf16 v else v

/-- A destination byte under DEC: its element's pages must all have the entry's FMT (R122). -/
def State.decByte (s : State) (g : Group) (c : CopyCmd) (n : Nat) (f : Option Fmt) (k : Nat) : Except Cause SrcByte :=
  let cb := fmtBits f c.raw
  let i := k % c.rowBytes / c.elemBytes
  let va := c.src + k / c.rowBytes * c.sstride + i * cb / 8
  match s.engPages g.whoIs .read va (max 1 (cb / 8)) with
  | .error e => .error e
  | .ok ps =>
    match ps.find? fun p => p.2.2.fmt != n with
    | some p => .error { cls := 3, reason := rSTRADDLE, kind := 1, va := some (p.1 / p.2.2.size * p.2.2.size) }
    | none =>
      let value (sps : Pages) (st : State) : Byte :=
        let code := leNat (st.readPages ps) / 2 ^ (i * cb % 8) % 2 ^ cb
        let sc := ((st.readPages sps).headD 127).toNat
        (leBytes 4 (decodeElem f c.raw c.dec sc code)).getD (k % c.rowBytes % c.elemBytes) 0
      match f with
      | none => .ok ⟨ps, value []⟩
      | some ft =>
        if ft.blk == 0 then .ok ⟨ps, value []⟩
        else
          match ft.scaleVA va with
          | none => .error { cls := 2, reason := rSCALERANGE, kind := 1, va := some va }
          | some sva =>
            match s.engPages g.whoIs .read sva 1 with
            | .error e => .error e
            | .ok sps => .ok ⟨ps ++ sps, value sps⟩

/-- The format of an entry's elements: what it has read already, else what its first source page says (R122). -/
def State.entryFmt (s : State) (g : Group) (e : EngEntry) : Except Cause (Nat × Option Fmt) :=
  match e.srcFmt with
  | some f => .ok f
  | none => s.copyFmt g (CopyCmd.parse e.cmd)

/-- The source of destination bytes `k` to `k + n - 1`. -/
def State.copySource (s : State) (g : Group) (e : EngEntry) (k n : Nat) : List (Except Cause SrcByte) :=
  let c := CopyCmd.parse e.cmd
  if c.dec == 0 then (List.range n).map fun i => s.plainByte g c (k + i)
  else
    match s.entryFmt g e with
    | .error f => [.error f]
    | .ok (fn, f) => (List.range n).map fun i => s.decByte g c fn f (k + i)

/-- The bytes before the first that fails, and that failure. -/
def goodPrefix : List (Except Cause SrcByte) → List SrcByte × Option Cause
  | [] => ([], none)
  | .error c :: _ => ([], some c)
  | .ok b :: rs => let r := goodPrefix rs; (b :: r.1, r.2)

/-- The bytes of the scratchpad that an entry's next delivery unit reads and writes. -/
def CopyCmd.spmRuns (c : CopyCmd) (k : Nat) : SpmRuns :=
  (if c.sspm then (List.range (c.unitAt k)).map fun i => (c.srcAt (k + i), 1) else []) ++
    (if c.dspm then [(c.dstAt k, c.unitAt k)] else [])

/-- A delivery unit of the channel's head entry is performed and the group's write-pointer advances; a page that fails
its checks stops the entry before its first byte (R121 to R123, R126). -/
def State.deliver (s : State) (c : CoreId) (ch : Nat) (ecc : Ecc) : State :=
  if 8 ≤ ch then s
  else
    match s.headOf c ch with
    | none => s
    | some (g, e) =>
      let cmd := CopyCmd.parse e.cmd
      if !e.started || cmd.total ≤ e.done then s
      else
        let source (st : State) := goodPrefix (st.copySource g e e.done (cmd.unitAt e.done))
        let reads := (source s).1.flatMap (·.pages)
        let k := s.engCheck reads ecc
        let (good, bad) := source (s.asRead k.check)
        let src := good.flatMap (·.pages)
        match k.cause with
        | some cause => (s.engChecked k).engFail g ch e cause
        | none =>
          match good, bad with
          | [], some f => (s.engChecked k).engFail g ch e f
          | _, _ =>
            let s1 := (s.engChecked k).engPull c src
            let bs := good.map fun b => b.val (s1.asRead k.check)
            let done (st : State) : State :=
              ((st.useBanks g (cmd.spmRuns e.done)).setHead c ch { e with
                done := e.done + bs.length
                srcFmt := if cmd.dec == 0 then none else (s.entryFmt g e).toOption }).modGroup c g.slot fun u =>
                { u with wptr := u.wptr.set ch (u.wptr.getD ch 0 + BitVec.ofNat 64 bs.length) }
            if cmd.dspm then done (s1.grpSpmPuts g (cmd.dstAt e.done) bs)
            else
              match s.engPages g.whoIs .write (cmd.dstAt e.done) bs.length with
              | .error f => (s.engChecked k).engFail g ch e f
              | .ok ps => done (s1.engWrite g.whoIs ps bs)

/-- DELIVERY_UNIT_PERFORMED (R123). -/
def execDeliveryUnitPerformed (c : CoreId) (ch : Nat) (e : Ecc) (s : State) : Result := .next (s.deliver c ch e)

/-- Whether memory has taken every write that a group's engines have sent through L2: home acknowledges them no sooner (R50, R124). -/
def State.landed (s : State) (g : Group) : Bool :=
  let ours (m : MemReq) : Bool := m.kind != 0 && m.ack.isNone && m.src == g.core.die && m.slot == g.whoIs.slot
  !(s.hbms.any fun k => k.chans.any fun c => c.queue.any ours) && !(s.buffers.any fun b => b.queue.any ours)

/-- A copy entry whose bytes are all delivered and acknowledged makes its counter add and leaves its channel (R124). -/
def State.copyComplete (s : State) (c : CoreId) (ch : Nat) : State :=
  if 8 ≤ ch then s
  else
    match s.headOf c ch with
    | none => s
    | some (g, e) => if e.started && (CopyCmd.parse e.cmd).total ≤ e.done && s.landed g then s.completeEntry g ch e else s

/-- COPY_ENTRY_COMPLETE (R124). -/
def execCopyEntryComplete (c : CoreId) (ch : Nat) (s : State) : Result := .next (s.copyComplete c ch)

/-! ### Queue fences (R128) -/

/-- Whether a fence's mark stands at the head of a queue. -/
def State.fenceAtHead (s : State) (f : Fence) (c : CoreId) (n : Nat) : Bool :=
  if n == 10 then ((s.group? c f.slot).bind fun g => (g.mxq.head?).bind (·.fence)) == some f.fid
  else ((s.core c).queue n).head? == some (.fence f.fid)

/-- Whether every entry ahead of a fence in its queues is complete. -/
def State.fenceReady (s : State) (c : CoreId) (f : Fence) : Bool :=
  (s.core c).needsOver f.needs && (fenceQueues f.mask).all (s.fenceAtHead f c)

/-- The group's fences that have a mark behind that of a fence (R128). -/
def State.fencesBehind (s : State) (g : Group) (f : Fence) : List Fence :=
  (s.core g.core).fences.filter fun o =>
    o.slot == g.slot && (fenceQueues f.mask).any fun n =>
      if n == 10 then (g.mxq.drop (g.mxq.findIdx (·.fence == some f.fid) + 1)).any (·.fence == some o.fid)
      else let q := (s.core g.core).queue n; (q.drop (q.idxOf (.fence f.fid) + 1)).contains (.fence o.fid)

/-- The group's entries and fences behind a fence leave the queues that it names (R125, R126). -/
def State.discardBehind (s : State) (g : Group) (f : Fence) : State :=
  let cut (q : List QItem) : List QItem :=
    let i := q.idxOf (.fence f.fid)
    q.take (i + 1) ++ (q.drop (i + 1)).filter fun x => match x with | .entry e => e.slot != g.slot | .fence _ => true
  let s1 := ((fenceQueues f.mask).filter (· != 10)).foldl (fun st n => st.modQueue g.core n cut) s
  let s2 := if f.mask.getLsbD 10 then
      s1.modGroup g.core g.slot fun u => { u with mxq := u.mxq.take ((u.mxq.findIdx fun e => e.fence == some f.fid) + 1) }
    else s1
  (s.fencesBehind g f).foldl (fun st o => st.dropFence g.core o) s2

/-- A fence completes: its counter add is made, and entries behind it may begin (R128). A failed add is charged to its
issuer; after class 1 the fence stands until the group is swapped out, and else what is behind it is discarded (R125). -/
def State.fenceComplete (s : State) (c : CoreId) (fid : Nat) : State :=
  match (s.core c).fences.find? fun f => f.fid == fid with
  | none => s
  | some f =>
    match s.group? c f.slot with
    | none => s.dropFence c f
    | some g =>
      if !s.fenceReady c f || g.deferred.any fun t => t.trapRec.pc == f.who.pc then s
      else
        match s.engineAdd g f.ctr f.amt f.who with
        | .ok s1 => s1.dropFence c f
        | .error e =>
          if e.cls == 1 then s.engTrap g f.who e else ((s.engTrap g f.who e).discardBehind g f).dropFence c f

/-- QFENCE_ENTRY_COMPLETE (R128). -/
def execQfenceEntryComplete (c : CoreId) (fence : Nat) (s : State) : Result := .next (s.fenceComplete c fence)

/-! ### Guarded-off entries (R129, R259) -/

/-- The head of a group's matrix queue leaves it. -/
def State.popMx (s : State) (c : CoreId) (slot : Nat) : State := s.modGroup c slot fun g => { g with mxq := g.mxq.drop 1 }

/-- A guarded-off entry at the head of a queue: 0 to 9 makes its counter add, a release after what its warp did before it (R124,
R127), and one of the matrix queue completes at once. -/
def State.guardedOff (s : State) (c : CoreId) (queue slot : Nat) : State :=
  if queue == 10 then
    match s.group? c slot with
    | none => s
    | some g => if (g.mxq.head?.map (·.off)).getD false then s.popMx c slot else s
  else if 10 < queue then s
  else
    match s.headOf c queue with
    | none => s
    | some (g, e) => if e.off && e.slot == slot && (s.core c).needsOver e.needs then s.completeEntry g queue e else s

/-- GUARDED_OFF_ENTRY (R129). -/
def execGuardedOffEntry (c : CoreId) (queue slot : Nat) (s : State) : Result := .next (s.guardedOff c queue slot)

/-! ### BINPLAY (R132) -/

/-- One replayed update of a scratchpad word (R132). -/
def playOp (op w v : Nat) : Nat :=
  match op with
  | 0 => (roundF fp32 0 false (addF 0 (unpackF fp32 false w) (unpackF fp32 false v)).1).1
  | 1 => (w + v) % 2 ^ 32
  | 2 => if sextN w 32 < sextN v 32 then v else w
  | _ => if sextN v 32 < sextN w 32 then v else w

/-- The entries of a region applied in order to the words of the target. -/
def playAll (op shift : Nat) : List (Nat × Nat) → List Word → List Word
  | [], ws => ws
  | (x, v) :: es, ws =>
    let i := x % 2 ^ shift
    playAll op shift es (ws.set i (BitVec.ofNat 32 (playOp op (ws.getD i 0).toNat v)))

/-- Pairs of index and value of `n` entries. -/
def entryPairs (bs : List Byte) (n : Nat) : List (Nat × Nat) :=
  (List.range n).map fun j => (bytesNat bs (8 * j) 4, bytesNat bs (8 * j + 4) 4)

/-- The pages that a replay touches: count word, slots, target, status (R132). -/
structure PlayPages where
  count  : Pages
  slots  : Pages
  target : Pages
  status : Pages

/-- All of them translated and checked before anything is done. -/
def State.playPages (s : State) (g : Group) (c : PlayCmd) (a : Arena) : Except Cause PlayPages :=
  let size := 4 * 2 ^ a.shift
  match s.engPages g.whoIs .atomic (Arena.countVA c.abase c.region) 8,
      s.engPages g.whoIs .read (a.slotVA c.abase c.region 0) (8 * a.cap),
      s.engPages g.whoIs .write (c.tva + size * c.region) size, s.engPages g.whoIs .write c.sva 8 with
  | .error e, _, _, _ => .error e
  | _, .error e, _, _ => .error e
  | _, _, .error e, _ => .error e
  | _, _, _, .error e => .error e
  | .ok p, .ok q, .ok r, .ok t => .ok ⟨p, q, r, t⟩

/-- The replay itself: the exchange with its acquire, the target through the scratchpad, the write-back, the status. -/
def State.play (s : State) (g : Group) (c : PlayCmd) (a : Arena) (p : PlayPages) (ck : Check) : State :=
  let size := 4 * 2 ^ a.shift
  let s1 := s.engPull g.core p.count
  let n := leNat ((s1.asRead ck).readPages p.count)
  let s2 := (s1.engWrite g.whoIs p.count (leBytes 8 0)).acquireActs g.core true
  let s3 := s2.engPull g.core p.target
  let tgt := (s3.asRead ck).readPages p.target
  let k := min n a.cap
  let s4 := s3.engPull g.core p.slots
  let ents := (s4.asRead ck).readPages p.slots
  let out := (playAll c.op a.shift (entryPairs ents k) (wordsOf tgt)).flatMap fun w => leBytes 4 w.toNat
  let s5 := (s4.grpSpmPuts g c.off (out.take size)).engWrite g.whoIs p.target out
  s5.engWrite g.whoIs p.status (leBytes 8 (min n 0xFFFFFFFF + if a.cap < n then 2 ^ 32 else 0))

/-- The bytes of the scratchpad that a replay uses (R132). -/
def EngEntry.playRuns (e : EngEntry) (c : PlayCmd) : SpmRuns := [(c.off, 4 * 2 ^ e.hdr.getD 2 4)]

/-- The head entry of the binning queue is performed, with its counter add (R132). -/
def State.binplay (s : State) (c : CoreId) (ecc : Ecc) : State :=
  match s.headOf c 8 with
  | none => s
  | some (g, e) =>
    if e.off || !(s.core c).needsOver e.needs then s
    else if e.done != 0 then s.completeEntry g 8 e
    else
      let cmd := PlayCmd.parse e.cmd
      let a : Arena := ⟨e.hdr.getD 0 1, e.hdr.getD 1 1, e.hdr.getD 2 4⟩
      match s.playPages g cmd a with
      | .error f => s.engFail g 8 e f
      | .ok p =>
        let k := s.engCheck (p.count ++ p.target ++ p.slots) ecc
        match k.cause with
        | some cause => (s.engChecked k).engFail g 8 e cause
        | none =>
          let e1 := { e with done := 1 }
          ((((s.engChecked k).play g cmd a p k.check).useBanks g (e.playRuns cmd)).setHead c 8 e1).completeEntry g 8 e1

/-- BINPLAY_ENTRY (R132). -/
def execBinplayEntry (c : CoreId) (e : Ecc) (s : State) : Result := .next (s.binplay c e)

end Sys2Proof.Machine
end

