-- ==== Sys2Proof/Machine/Pool.lean ====
section
/-!
DEFINITION. The pooling queue: taking up and checking a bag, the partial vectors of the damson buffers, and their combination
(R50 to R64, R319, R320).
-/
namespace Sys2Proof.Machine

/-! ### Outcome codes (R59) -/

def cOK : Nat := 0x00
def cEMPTY : Nat := 0x01
def cGEOM : Nat := 0x10
def cRANGE : Nat := 0x11
def cSEGCROSS : Nat := 0x12
def cNOMAP : Nat := 0x13
def cNOPOOL : Nat := 0x14
def cNOPIN : Nat := 0x15
def cATTRMIX : Nat := 0x16
def cWING : Nat := 0x17
def cBUFDOWN : Nat := 0x18
def cUNCORR : Nat := 0x20

/-! ### A table's layout (R51, R52) -/

/-- What the first segment page gives: B, the page's format and the element bits. -/
structure Table where
  b    : Nat
  fmt  : Option Fmt
  bits : Nat

/-- Element bits of RAWTYPE (R318). -/
def poolRawBits (raw : Nat) : Nat := match raw with | 0 => 32 | 1 | 2 => 16 | _ => 8

/-- Bytes of a piece. -/
def Table.piece (t : Table) : Nat := 2 ^ 18 / t.b
/-- Bytes of a row (R51). -/
def Table.rowBytes (t : Table) (c : PoolCmd) : Nat := (c.rowLen * t.bits + 7) / 8
/-- Rows of a segment (R52). -/
def Table.rows (t : Table) (c : PoolCmd) : Nat := 8 * t.b * (t.piece / max 1 c.stride)
/-- Segment of a row, and its place in it (R52). -/
def Table.segOf (t : Table) (c : PoolCmd) (r : Nat) : Nat := r / max 1 (t.rows c)
def Table.inSeg (t : Table) (c : PoolCmd) (r : Nat) : Nat := r % max 1 (t.rows c)
/-- Virtual address of a row (R52). -/
def Table.rowVA (t : Table) (c : PoolCmd) (r : Nat) : Nat :=
  let i := t.inSeg c r
  c.tbase + t.segOf c r * 0x200000 + i % (8 * t.b) * t.piece + i / (8 * t.b) * c.stride
/-- View buffer that holds a row (R52). -/
def Table.viewOf (t : Table) (c : PoolCmd) (r : Nat) : Nat := t.inSeg c r % t.b

/-- The format that the leaf of an address names for a group: unusable answers none. -/
def State.leafFmt (s : State) (g : Group) (va : Nat) (l : Leaf) : Except AccFail (Option (Option Fmt)) :=
  if l.fmt == 0 then .ok (some none) else (s.fmtFor g.core g.asid l.fmt va).map (·.map some)

/-- Element bits of a page's format, or of RAWTYPE: of a page format those of its container (R51, R77, log 42). -/
def elemBits (c : PoolCmd) (f : Option Fmt) : Nat := match f with | some x => x.cb | none => poolRawBits c.raw

/-- The table as its first segment page shows it, when that page is valid, lies in a capacity selector and names a
usable format (R59). -/
def State.tableOf (s : State) (g : Group) (c : PoolCmd) : Option Table :=
  match s.leafNow g.core g.asid c.tbase with
  | .error _ => none
  | .ok l =>
    if !isViewPA l.base then none
    else (s.leafFmt g c.tbase l).toOption.join.map fun f => { b := (Machine.viewOf (paSel l.base)).1, fmt := f, bits := elemBits c f }

/-! ### Bags (R53, R57, R59) -/

/-- Index words of bag `b`: its start and end in the index array, as OFFS gives them when it is taken up (R319). -/
def State.bagEnds (s : State) (g : Group) (c : PoolCmd) (b : Nat) : Nat × Nat :=
  (leNat (s.grpSpm g (c.offOff + 4 * b) 4), leNat (s.grpSpm g (c.offOff + 4 * b + 4) 4))

/-- Words of a scratchpad array. -/
def State.spmWords (s : State) (g : Group) (off n : Nat) : List Word := wordsOf (s.grpSpm g off (4 * n))

/-- Check 1 (R51, R59, R319). -/
def poolGeom (g : Group) (c : PoolCmd) (t : Option Table) (lo hi : Nat) : Bool :=
  let n := hi - lo
  c.tbase % 2 ^ 21 != 0 || c.nrows == 0 || c.rowLen == 0 || 1024 < c.rowLen || c.stride % 16 != 0 || hi < lo ||
  (n != 0 && !g.inSpm (c.idxOff + 4 * lo) (4 * n)) || (n != 0 && c.mode == 1 && !g.inSpm (c.wOff + 4 * lo) (4 * n)) ||
  (match t with
   | some u => c.stride < u.rowBytes c || u.piece < c.stride
   | none => false)

/-- The leaves of the 32 frames of a 2 MiB block. -/
def State.blockLeaves (s : State) (g : Group) (base : Nat) : List (Nat × Except AccFail Leaf) :=
  (List.range 32).map fun i => (base + 65536 * i, s.leafNow g.core g.asid (base + 65536 * i))

/-- The valid leaves of a block, in order. -/
def okLeaves (l : List (Nat × Except AccFail Leaf)) : List Leaf := l.filterMap fun e => e.2.toOption

/-- Whether a block is mapped as R50 asks: aligned, in order, with equal attributes, and not write-back. -/
def poolAttrs (base : Nat) (ls : List Leaf) : Bool :=
  match ls.head? with
  | none => false
  | some l =>
    let pa := l.pa base
    pa % 2 ^ 21 == 0 && l.cp != 0 &&
    (ls.mapIdx fun i x => x.pa (base + 65536 * i) == pa + 65536 * i && x.cp == l.cp && x.fmt == l.fmt && x.wg == l.wg).all id

/-- The 2 MiB blocks that hold the scales of a segment's elements; the run of scale bytes wraps with the address (R54, R79). -/
def scaleBlocks (f : Option Fmt) (base : Nat) : List Nat :=
  match f with
  | none => []
  | some f =>
    if f.blk == 0 || base + 0x1FFFFF < f.dbase then []
    else
      let lo := (f.sbase + (max base f.dbase - f.dbase) / f.blkZ) / 2 ^ 21
      let hi := (f.sbase + (base + 0x1FFFFF - f.dbase) / f.blkZ) / 2 ^ 21
      (List.range (hi - lo + 1)).map fun i => (lo + i) * 2 ^ 21 % 2 ^ 56

/-- The bytes of the scratchpad that bag `b` reads as it is taken up (R319). -/
def State.bagRuns (s : State) (g : Group) (c : PoolCmd) (b : Nat) : SpmRuns :=
  let (lo, hi) := s.bagEnds g c b
  [(c.offOff + 4 * b, 8), (c.idxOff + 4 * lo, 4 * (hi - lo))] ++ (if c.mode == 1 then [(c.wOff + 4 * lo, 4 * (hi - lo))] else [])

/-- The bytes of the scratchpad that bag `b`'s result and status take (R320). -/
def PoolCmd.outRuns (c : PoolCmd) (b : Nat) : SpmRuns :=
  (c.stOff + 4 * b, 4) :: if c.dspm then [(c.dst + b * c.pitch, c.outBytes)] else []

/-- Where a bag's segment begins. -/
def Table.segBase (t : Table) (c : PoolCmd) (idx : List Nat) : Nat := c.tbase + t.segOf c (idx.headD 0) * 0x200000

/-- The format of a segment's pages, as its first shows it; none where that page or its format entry cannot be used. -/
def State.segFmt (s : State) (g : Group) (base : Nat) : Option (Option Fmt) :=
  match s.leafNow g.core g.asid base with
  | .error _ => none
  | .ok l => (s.leafFmt g base l).toOption.join

/-- Whether a page is what check 4 asks of it (R59). -/
def State.poolPage (s : State) (g : Group) (r : Nat × Except AccFail Leaf) : Bool :=
  match r.2 with
  | .error _ => false
  | .ok l => isViewPA l.base && (s.leafFmt g r.1 l).toOption.join.isSome

/-- The 2 MiB blocks of a bag's segment and of its scales (R50, R54). -/
def State.bagBlocks (s : State) (g : Group) (c : PoolCmd) (u : Table) (idx : List Nat) : List Nat :=
  let base := u.segBase c idx
  base :: scaleBlocks ((s.segFmt g base).getD none) base

/-- The table reads of a page that fail by an error or because memory refuses them: its walk, then its format entry (R60, R73). -/
def State.pageFail (s : State) (g : Group) (r : Nat × Except AccFail Leaf) : Option AccFail :=
  match r.2 with
  | .error f => if f.cls == 0 then some f else none
  | .ok l => match s.leafFmt g r.1 l with | .error f => some f | .ok _ => none

/-- The first such failure among the table reads that checks 4 to 8 of a bag make (R60): those of the table's first segment, of the bag's
own and of its scale regions. -/
def State.bagFail (s : State) (g : Group) (c : PoolCmd) (t : Option Table) (idx : List Nat) : Option AccFail :=
  let blocks := match t with | none => [] | some u => s.bagBlocks g c u idx
  ((c.tbase :: blocks).flatMap (s.blockLeaves g)).findSome? (s.pageFail g)

/-- Checks 2 to 9 of a bag that is not empty, in order (R59); a table read that fails ends them (R60). -/
def State.bagCode (s : State) (g : Group) (c : PoolCmd) (t : Option Table) (idx : List Nat) : Nat :=
  if idx.any fun x => c.nrows ≤ x then cRANGE
  else
    match t with
    | none => if (s.bagFail g c none idx).isSome then cUNCORR else cNOMAP
    | some u =>
      if 1 < ((idx.map (u.segOf c)).eraseDups).length then cSEGCROSS
      else
        let base := u.segBase c idx
        let fmt := (s.segFmt g base).getD none
        let maps := (s.bagBlocks g c u idx).map fun b => (b, s.blockLeaves g b)
        let leaves := maps.map fun m => (m.1, okLeaves m.2)
        let all := leaves.flatMap (·.2)
        let pages := s.blockLeaves g c.tbase ++ maps.flatMap (·.2)
        let low := match fmt with
          | some f => f.blk != 0 && idx.any fun x => u.rowVA c x < f.dbase
          | none => false
        if (s.bagFail g c t idx).isSome then cUNCORR
        else if low || !(pages.all (s.poolPage g)) then cNOMAP
        else if all.any fun l => !l.pool then cNOPOOL
        else if all.any fun l => !l.pin then cNOPIN
        else if !(leaves.all fun m => poolAttrs m.1 m.2) then cATTRMIX
        else if all.any fun l => l.wg != g.wing || !((viewBuffers (paSel l.base)).all (s.wing g.wing).bufs.getLsbD) then cWING
        else if all.any fun l => (viewBuffers (paSel l.base)).any fun b => (s.buffer b).fenced || !(s.buffer b).trained then cBUFDOWN
        else cOK

/-! ### Status, destination and completion (R55, R58, R61, R62, R64, R320) -/

/-- A bag's status word (R58). -/
def bagStatus (n : Nat) (inv ovf : Bool) (code : Nat) : Nat :=
  min n 0xFFFF * 2 ^ 16 + (if inv then 512 else 0) + (if ovf then 256 else 0) + code

/-- A command whose bags are all done: its counter add, and the rejection trap of `.t`, which is charged again when a stopped add is
made after a resume (R62, R64, R384). -/
def State.poolComplete (s : State) (g : Group) (e : EngEntry) : State :=
  let s1 := s.completeEntry g 9 e
  if e.reject then s1.engTrap g e.who { (causeReject rPOOLREJ 9) with thread := 0xFF } else s1

/-- A bag is finished: its status word is written; with the command's last one the rejection trap of `.t` is charged and
the counter add made (R62, R64). -/
def State.bagDone (s : State) (g : Group) (e : EngEntry) (c : PoolCmd) (status code : Nat) : State :=
  let s1 := (s.grpSpmPuts g (c.stOff + 4 * e.done) (leBytes 4 status)).modCore g.core fun k => { k with bag := none }
  let e1 := { e with done := e.done + 1, reject := e.reject || (e.trapT && 0x10 ≤ code && code ≤ 0x18) }
  let s2 := s1.setHead g.core 9 e1
  if e1.done < c.nbags then s2 else s2.poolComplete g e1

/-- A bag's vector written to its destination (R55, R320). -/
def State.bagWrite (s : State) (g : Group) (c : PoolCmd) (b : Nat) (bs : List Byte) : Except Cause State :=
  let at_ := c.dst + b * c.pitch
  if c.dspm then .ok (s.grpSpmPuts g at_ bs)
  else
    match s.engPages g.whoIs .write at_ bs.length with
    | .error f => .error f
    | .ok ps => .ok (s.engWrite g.whoIs ps bs)

/-- A bag that has passed its checks, with the places of its rows and of their scales, which are physical from here on (R53). -/
def State.newBag (s : State) (g : Group) (c : PoolCmd) (u : Table) (idx : List Nat) (ws : List Word) : Bag :=
  let base := u.segBase c idx
  let fmt := (s.segFmt g base).getD none
  let pa (va : Nat) : Nat := match s.leafNow g.core g.asid va with | .ok l => l.pa va | .error _ => 0
  { idx := idx, weights := ws, rows := idx.map fun x => (u.viewOf c x, u.rowVA c x, pa base + (u.rowVA c x - base)), fmt := fmt,
    scales := (scaleBlocks fmt base).map fun b => (b, pa b)
    views := (List.range u.b).filter fun v => idx.any fun x => u.viewOf c x == v
    parts := [], inv := false, ovf := false, uncorr := none }

/-- The pooling queue takes up the next bag of its head command: it is rejected, empty, or split by buffer (R53, R57 to
R61). -/
def State.takeBag (s : State) (c : CoreId) : State :=
  match s.headOf c 9 with
  | none => s
  | some (g, e) =>
    if e.off || (s.core c).bag.isSome || !(s.core c).needsOver e.needs then s
    else
      let cmd := PoolCmd.parse e.cmd
      if cmd.nbags ≤ e.done then s.poolComplete g e
      else
        let (lo, hi) := s.bagEnds g cmd e.done
        let t := s.tableOf g cmd
        let n := hi - lo
        if poolGeom g cmd t lo hi then s.bagDone g e cmd (bagStatus n false false cGEOM) cGEOM
        else if n == 0 then
          match s.bagWrite g cmd e.done (List.replicate cmd.outBytes 0) with
          | .error f => s.engFail g 9 e f
          | .ok s1 => s1.bagDone g e cmd (bagStatus 0 false false cEMPTY) cEMPTY
        else
          let idx := (s.spmWords g (cmd.idxOff + 4 * lo) n).map (·.toNat)
          let ws := if cmd.mode == 1 then s.spmWords g (cmd.wOff + 4 * lo) n else []
          match s.bagCode g cmd t idx, t with
          | 0, some u => (s.useBanks g (s.bagRuns g cmd e.done)).modCore c fun k => { k with bag := some (s.newBag g cmd u idx ws) }
          | code, _ =>
            let s1 := s.bagDone g e cmd (bagStatus n false false code) code
            match if code == cUNCORR then s.bagFail g cmd t idx else none with
            | some f => s1.engTrap g e.who (f.engine .read)
            | none => s1

/-- BAG_TAKE_UP (R59). It reads no memory but tables, whose errors the state holds (R60). -/
def execBagTakeUp (c : CoreId) (_tables : Ecc) (s : State) : Result := .next (s.takeBag c)

/-! ### Pooling (R54, R56) -/

/-- An FP32 result with what R56 notes of it: an infinity from finite operands, a NaN from operands that are none. -/
structure Noted where
  bits : Nat
  inv  : Bool
  ovf  : Bool

/-- A rounded sum or product and what is noted of it. -/
def note (f : FFmt) (ops : List FVal) (r : FVal) : Noted :=
  let bits := (roundF f 0 false r).1
  let out := unpackF f false bits
  ⟨bits, out.isNan && !(ops.any FVal.isNan), out.isInf && !(ops.any fun x => x.isInf || x.isNan)⟩

/-- An element of a raw table row, converted exactly (R54, R318). -/
def poolRaw (raw code : Nat) : Nat :=
  match raw with
  | 0 => code % 2 ^ 32
  | 1 => (roundF fp32 0 false (unpackF bf16 false code)).1
  | 2 => (roundF fp32 0 false (unpackF fp16 false code)).1
  | _ => (roundF fp32 0 false (rawVal 2 code)).1

/-- Bytes of a row as its buffer reads them: past no older write, and never from L2 (R32, R50, R53, R63). -/
def State.rowBytes (s : State) (pa n : Nat) : List Byte := (List.range n).map fun i => s.memByte (pa + i)

/-- Where the scale byte of an element lies (R54, R79). -/
def Bag.scalePA (b : Bag) (va : Nat) : Option Nat :=
  (b.fmt.bind fun f => if f.blk == 0 then none else f.scaleVA va).bind fun sva =>
    (b.scales.find? fun x => x.1 ≤ sva && sva < x.1 + 2 ^ 21).map fun x => x.2 + (sva - x.1)

/-- Element e of a row as FP32, in the format of the row's own page (R54, R78); an infinity that decoding yields sets no OVF (R56, log 42). -/
def State.rowElem (s : State) (c : PoolCmd) (b : Bag) (va pa e : Nat) : Nat :=
  let bits := elemBits c b.fmt
  let bit := e * bits
  let code := leNat (s.rowBytes (pa + bit / 8) (max 1 (bits / 8))) / 2 ^ (bit % 8) % 2 ^ bits
  match b.fmt with
  | none => poolRaw c.raw code
  | some f => f.decode (match b.scalePA (va + bit / 8) with | some p => (s.memByte p).toNat | none => 127) code

/-- One row folded into an element's partial (R56): mode 1 is WSUM, 3 is MAX. -/
def foldElem (mode : Nat) (w : Word) (acc : Noted) (v : Nat) : Noted :=
  let a := unpackF fp32 false acc.bits
  let x := unpackF fp32 false v
  let r : Noted :=
    match mode with
    | 3 => ⟨(minmaxF fp32 false true true acc.bits v).1, false, false⟩
    | 1 => let y := unpackF fp32 false w.toNat; note fp32 [a, x, y] (fmaF 0 y x a).1
    | _ => note fp32 [a, x] (addF 0 a x).1
  ⟨r.bits, acc.inv || r.inv, acc.ovf || r.ovf⟩

/-- The rows of one buffer folded in list order. -/
def State.foldRows (s : State) (c : PoolCmd) (b : Bag) (e : Nat) : List (Nat × Nat × Word) → Noted → Noted
  | [], acc => acc
  | (va, pa, w) :: rest, acc => s.foldRows c b e rest (foldElem c.mode w acc (s.rowElem c b va pa e))

/-- The rows of a bag that one view buffer holds, in list order, with their weights. -/
def Bag.rowsOf (b : Bag) (view : Nat) : List (Nat × Nat × Word) :=
  ((b.rows.mapIdx fun i r => (r, b.weights.getD i 0)).filter fun x => x.1.1 == view).map fun x => (x.1.2.1, x.1.2.2, x.2)

/-- The initial accumulator: minus infinity for MAX, else minus zero. -/
def poolInit (mode : Nat) : Noted := ⟨if mode == 3 then 0xFF800000 else 0x80000000, false, false⟩

/-- The units of a buffer that a bag's rows of a view and their scales lie in, by the buffer's own view (R48, log 43). -/
def rowUnits (cmd : PoolCmd) (b : Bag) (rows : List (Nat × Nat × Word)) : List Nat :=
  let bits := elemBits cmd b.fmt
  let len := (cmd.rowLen * bits + 7) / 8
  let scales (va : Nat) : List Nat := (List.range cmd.rowLen).filterMap fun e => b.scalePA (va + e * bits / 8)
  (rows.flatMap fun r => unitsOf (canonPA r.2.1) len ++ (scales r.1).map fun a => canonPA a / 64 * 64).eraseDups

/-- A buffer folds its rows of the bag and returns its partial vector; an uncorrectable error in what it reads, rows and scales, marks the
bag (R53, R56, R61). -/
def State.poolView (s : State) (c : CoreId) (view : Nat) (ecc : Ecc) : State :=
  match s.headOf c 9, (s.core c).bag with
  | some (g, e), some b =>
    if !b.views.contains view then s
    else
      let cmd := PoolCmd.parse e.cmd
      let rows := b.rowsOf view
      let k := eccCheck ecc (rowUnits cmd b rows)
      let out := (List.range cmd.rowLen).map fun i => (s.asRead k).foldRows cmd b i rows (poolInit cmd.mode)
      let bag : Bag :=
        { b with
          views := b.views.filter (· != view), parts := b.parts ++ [(view, out.map fun r => BitVec.ofNat 32 r.bits)],
          inv := b.inv || out.any (·.inv), ovf := b.ovf || out.any (·.ovf), uncorr := if k.aux.isSome then k.aux else b.uncorr }
      (s.checked g.wing k).modCore c fun k => { k with bag := some bag }
  | _, _ => s

/-- BUFFER_POOL (R56). -/
def execBufferPool (c : CoreId) (view : Nat) (e : Ecc) (s : State) : Result := .next (s.poolView c view e)

/-! ### Combination (R55, R56) -/

/-- A value divided by a count, rounded to FP32 (R56): the quotient with a sticky bit below it rounds as the exact one. -/
def divCount (bits n : Nat) : Noted :=
  let x := unpackF fp32 false bits
  match x with
  | .fin sg m e =>
    let q := m * 2 ^ 64 / n
    note fp32 [x] (.fin sg (2 * q + if m * 2 ^ 64 % n == 0 then 0 else 1) (e - 65))
  | y => ⟨(roundF fp32 0 false y).1, false, false⟩

/-- Two partial elements combined. -/
def combineElem (mode : Nat) (acc : Noted) (v : Nat) : Noted :=
  let r := foldElem (if mode == 3 then 3 else 0) 0 acc v
  ⟨r.bits, r.inv, r.ovf⟩

/-- The parts in ascending view order (R56). -/
def partsAsc (b : Bag) : List (List Word) :=
  (List.range 8).filterMap fun v => (b.parts.find? fun p => p.1 == v).map (·.2)

/-- Element i of the final vector. -/
def finalElem (c : PoolCmd) (b : Bag) (i : Nat) : Noted :=
  match partsAsc b with
  | [] => ⟨0, false, false⟩
  | p :: ps =>
    let r := ps.foldl (fun acc q => combineElem c.mode acc (q.getD i 0).toNat) ⟨(p.getD i 0).toNat, false, false⟩
    let m := if c.mode == 2 then divCount r.bits b.idx.length else r
    let r2 : Noted := ⟨m.bits, r.inv || m.inv, r.ovf || m.ovf⟩
    if c.obf then
      let x := unpackF fp32 false r2.bits
      let o := note bf16 [x] x
      ⟨o.bits, r2.inv, r2.ovf || o.ovf⟩
    else r2

/-- The bytes that the destination of a bag with an uncorrectable row receives, and one for its INV and OVF bits: they are
free (R61, log 22). -/
def State.freeBytes (s : State) (n : Nat) : State × List Byte :=
  ({ s with free := s.free + n }, (List.range n).map fun i => Config.freeByte (s.free + i))

/-- The I/O die combines the partial vectors and writes the bag's result and status (R55, R56, R61, R320). -/
def State.combine (s : State) (c : CoreId) : State :=
  match s.headOf c 9, (s.core c).bag with
  | some (g, e), some b =>
    if !b.views.isEmpty then s
    else
      let cmd := PoolCmd.parse e.cmd
      let n := b.idx.length
      let write (st : State) (bs : List Byte) (fin : State → State) : State :=
        match st.bagWrite g cmd e.done bs with
        | .error f => (s.modCore c fun k => { k with bag := none }).engFail g 9 e f
        | .ok s1 => fin (s1.useBanks g (cmd.outRuns e.done))
      match b.uncorr with
      | some aux =>
        let (s1, bs) := s.freeBytes (cmd.outBytes + 1)
        let fl := bs.headD 0
        write s1 (bs.drop 1) fun st =>
          (st.bagDone g e cmd (bagStatus n (fl.getLsbD 0) (fl.getLsbD 1) cUNCORR) cUNCORR).engTrap g e.who { cls := 0, kind := Kind.read.no, aux := aux }
      | none =>
        let out := (List.range cmd.rowLen).map (finalElem cmd b)
        write s (out.flatMap fun r => leBytes (if cmd.obf then 2 else 4) r.bits) fun st =>
          st.bagDone g e cmd (bagStatus n (b.inv || out.any (·.inv)) (b.ovf || out.any (·.ovf)) cOK) cOK
  | _, _ => s

/-- PARTIAL_VECTOR_COMBINE (R55). -/
def execPartialVectorCombine (c : CoreId) (s : State) : Result := .next (s.combine c)

end Sys2Proof.Machine
end

