-- ==== Sys2Proof/Machine/Matrix.lean ====
section
/-!
DEFINITION. What the matrix engine computes: operands (R265, R266), classical order (R168, R169), recombined order (R254,
R255, R257) and engine cycles (R246).
-/
namespace Sys2Proof.Machine

/-! ### Operands -/

/-- An operand's element type: a page format, or a raw type code (R263). -/
structure MxType where
  fmt : Option Fmt
  raw : Nat

/-- INT8, signed or not (R266). -/
def MxType.isInt (t : MxType) : Bool := t.fmt.isNone && 2 ≤ t.raw
/-- Container bits, block length, and whether scales are read (R265). -/
def MxType.bits (t : MxType) : Nat := fmtBits t.fmt t.raw
def MxType.block (t : MxType) : Nat := match t.fmt with | some f => f.blkN | none => 0
/-- Mantissa bits (R255). -/
def MxType.mb (t : MxType) : Nat := match t.fmt with | some f => f.mb | none => if t.raw == 0 then 7 else 10
/-- K-step (R246). -/
def MxType.step (t : MxType) : Nat :=
  match t.fmt with
  | some f => if f.width ≤ 4 then 16 else 8
  | none => if 2 ≤ t.raw then 8 else 4

/-- The value of a float element under its scale, exactly (R168). -/
def MxType.fval (t : MxType) (scale code : Nat) : FVal :=
  match t.fmt with
  | some f => if f.blk == 0 then f.value code else (mulF (f.value code) (scaleVal scale)).1
  | none => rawVal t.raw code

/-- The value of an INT8 element (R169). -/
def MxType.ival (t : MxType) (code : Nat) : Int := if t.raw == 2 then sextN code 8 else (code % 256 : Nat)

/-- An operand as element codes and scale codes by row (or column) and inner index. -/
structure Operand where
  ty    : MxType
  code  : Nat → Nat → Nat
  scale : Nat → Nat → Nat

def Operand.fval (o : Operand) (i k : Nat) : FVal := o.ty.fval (o.scale i k) (o.code i k)
def Operand.ival (o : Operand) (i k : Nat) : Int := o.ty.ival (o.code i k)

/-- Rows of an operand beyond the last are +0 (R250, R253). -/
def Operand.only (o : Operand) (p : Nat → Bool) (i k : Nat) : FVal := if p i then o.fval i k else .fin false 0 0
def Operand.onlyInt (o : Operand) (p : Nat → Bool) (i k : Nat) : Int := if p i then o.ival i k else 0

/-- Place of an element in an operand of inner length K (R265). -/
def elemByte (off bits kLen i k : Nat) : Nat := off + i * (kLen * bits / 8) + k * bits / 8

/-- An operand read by `get` at its elements and its scale tiles, which begin at two offsets (R265). -/
def operandAt (get : Nat → Nat → List Byte) (ty : MxType) (kLen data scales : Nat) : Operand where
  ty := ty
  code := fun i k => leNat (get (elemByte data ty.bits kLen i k) (max 1 (ty.bits / 8))) / 2 ^ (k * ty.bits % 8) % 2 ^ ty.bits
  scale := fun i k => if ty.block == 0 then 127 else leNat (get (scales + i * (kLen / ty.block) + k / ty.block) 1)

/-- An operand in a group's scratchpad: data offset in the low word, scale offset in the high word (R265). -/
def State.spmOperand (s : State) (g : Group) (ty : MxType) (kLen : Nat) (a : DWord) : Operand :=
  operandAt (s.grpSpm g) ty kLen a.lo.toNat a.hi.toNat

/-! ### Classical order (R168, R169) -/

/-- Floor of log2 of a non-zero magnitude. -/
def FVal.log2 : FVal → Option Int
  | .fin _ m e => if m == 0 then none else some ((log2N m : Int) + e)
  | _ => none

/-- A value truncated toward zero to a multiple of 2^q, as that multiple. -/
def FVal.truncTo (q : Int) : FVal → Int
  | .fin s m e =>
    let n : Nat := if q ≤ e then m * 2 ^ (e - q).toNat else m / 2 ^ (q - e).toNat
    if s then -(n : Int) else n
  | _ => 0

/-- S of a chunk's exact products (R168). -/
def chunkSum (ps : List FVal) : FVal :=
  if (ps.any FVal.isNan) || (ps.contains (.inf true) && ps.contains (.inf false)) then .nan false
  else
    match ps.find? FVal.isInf with
    | some x => x
    | none =>
      match ps.filterMap FVal.log2 with
      | [] => .fin (ps.all FVal.sign) 0 0
      | l :: ls =>
        let q := ls.foldl max l - 28
        let z := (ps.map (FVal.truncTo q)).foldl (· + ·) 0
        if z == 0 then .fin false 0 0 else .fin (z < 0) z.natAbs q

/-- A rounded FP32 sum, as bits. -/
def f32Add (x y : FVal) : Nat := (roundF fp32 0 false (addF 0 x y).1).1

/-- The chunks of 16 products, a short last one padded with +0. -/
def fpChunks (a b : Nat → FVal) (kLen : Nat) : List (List FVal) :=
  (List.range ((kLen + 15) / 16)).map fun c =>
    (List.range 16).map fun j => if 16 * c + j < kLen then (mulF (a (16 * c + j)) (b (16 * c + j))).1 else .fin false 0 0

/-- An accumulator's bits after its chunks in ascending order (R168). -/
def accumulate (acc : Nat) (chunks : List (List FVal)) : Nat :=
  chunks.foldl (fun x ps => f32Add (unpackF fp32 false x) (chunkSum ps)) acc

/-- An INT8 accumulator (R169). -/
def accumulateInt (acc : Nat) (a b : Nat → Int) (kLen : Nat) : Nat :=
  wrapN 32 ((acc : Int) + ((List.range kLen).map fun k => a k * b k).foldl (· + ·) 0)

/-! ### Recombined order (R255) -/

/-- A value rounded with RNE to `p` significant bits, with no bound on its exponent. -/
def roundSig (p : Nat) (x : FVal) : FVal :=
  match x with
  | .fin s m e =>
    if m == 0 then x
    else
      let q := (log2N m : Int) + e - (p - 1 : Nat)
      let (k, _) := roundInt 0 s m (e - q)
      .fin s k q
  | y => y

/-- g() of a sum, or of a difference, under a format of `mb` mantissa bits. -/
def preSum (mb : Nat) (x y : FVal) : FVal := roundSig (mb + 4) (addF 0 x y).1
def preDiff (mb : Nat) (x y : FVal) : FVal := preSum mb x y.negate

/-- P of one element: `a` and `b` are the operands' rows and columns as functions of the inner index; `ma` and `mb` their
mantissa bits; local row, local column and the halves name the element (R255). -/
def recombined (a b : Nat → Nat → FVal) (ma mb kLen nLen i j : Nat) : Nat :=
  let h := kLen / 2
  let n2 := nLen / 2
  let r := i % 32
  let c := j % n2
  let a11 := fun k => a r k
  let a12 := fun k => a r (h + k)
  let a21 := fun k => a (32 + r) k
  let a22 := fun k => a (32 + r) (h + k)
  let b11 := fun k => b c k
  let b12 := fun k => b (n2 + c) k
  let b21 := fun k => b c (h + k)
  let b22 := fun k => b (n2 + c) (h + k)
  let mul (x y : Nat → FVal) : FVal := unpackF fp32 false (accumulate 0 (fpChunks x y h))
  let add (x y : FVal) : FVal := unpackF fp32 false (f32Add x y)
  let sub (x y : FVal) : FVal := add x y.negate
  let m1 := mul (fun k => preSum ma (a11 k) (a22 k)) (fun k => preSum mb (b11 k) (b22 k))
  let m2 := mul (fun k => preSum ma (a21 k) (a22 k)) b11
  let m3 := mul a11 (fun k => preDiff mb (b12 k) (b22 k))
  let m4 := mul a22 (fun k => preDiff mb (b21 k) (b11 k))
  let m5 := mul (fun k => preSum ma (a11 k) (a12 k)) b22
  let m6 := mul (fun k => preDiff ma (a21 k) (a11 k)) (fun k => preSum mb (b11 k) (b12 k))
  let m7 := mul (fun k => preDiff ma (a12 k) (a22 k)) (fun k => preSum mb (b21 k) (b22 k))
  let p :=
    if i < 32 then (if j < n2 then add (sub (add m1 m4) m5) m7 else add m3 m5)
    else (if j < n2 then add m2 m4 else add (add (sub m1 m2) m3) m6)
  (roundF fp32 0 false p).1

/-! ### A product -/

/-- Inner length, columns and order of a product. -/
structure Shape3 where
  k   : Nat
  n   : Nat
  recomb : Bool

/-- The word that a product leaves at (i, j); `rows` says which rows of A are present (R168, R169, R255). -/
def productElem (sh : Shape3) (rows : Nat → Bool) (a b : Operand) (i j : Nat) (acc : Word) : Word :=
  if a.ty.isInt then BitVec.ofNat 32 (accumulateInt acc.toNat (fun k => a.onlyInt rows i k) (fun k => b.ival j k) sh.k)
  else if sh.recomb then
    BitVec.ofNat 32 (f32Add (unpackF fp32 false acc.toNat)
      (unpackF fp32 false (recombined (a.only rows) b.fval a.ty.mb b.ty.mb sh.k sh.n i j)))
  else BitVec.ofNat 32 (accumulate acc.toNat (fpChunks (fun k => a.only rows i k) (fun k => b.fval j k) sh.k))

/-- A tile's row i after a product: columns from N on keep their values (R246). -/
def productRow (sh : Shape3) (rows : Nat → Bool) (a b : Operand) (i : Nat) (old : List Word) : List Word :=
  (List.range 64).map fun j => if j < sh.n then productElem sh rows a b i j (old.getD j 0) else old.getD j 0

/-- Engine cycles of a product (R246). -/
def engineCycles (sh : Shape3) (ks : Nat) : Nat :=
  if sh.recomb then (7 * sh.k + 8 * ks - 1) / (8 * ks) else (sh.k + ks - 1) / ks

/-! ### The shape word (R264) and R254 -/

def shapeK (c : Word) : Nat := bitsN c.toNat 16 13
def shapeN (c : Word) : Nat := 16 * (bitsN c.toNat 14 2 + 1)
def shapeV (c : Word) : Nat := bitsN c.toNat 11 3 + 1
def shapeTA (c : Word) : Nat := bitsN c.toNat 6 2
def shapeTB (c : Word) : Nat := bitsN c.toNat 4 2
/-- Whether the reserved bits are 0 and K lies in its limits. -/
def shapeOk (c : Word) : Bool :=
  bitsN c.toNat 29 3 == 0 && bitsN c.toNat 8 3 == 0 && bitsN c.toNat 0 4 == 0 &&
  16 ≤ shapeK c && shapeK c ≤ 4096 && shapeK c % 16 == 0

/-- The order of MMA and MMV (R254). -/
def Shape3.ofWord (c : Word) (cl : Bool) : Shape3 :=
  ⟨shapeK c, shapeN c, !cl && 64 ≤ shapeK c && shapeK c % 32 == 0⟩

/-- The parameters that an MMAL names (R263). -/
def mmalK (x : LongOp) : Nat := if x.fn2.getLsbD 0 then 32 else 16
def mmalN (x : LongOp) : Nat := 16 * (x.fn2.toNat / 2 % 4 + 1)
def Shape3.ofMmal (x : LongOp) : Shape3 := ⟨mmalK x, mmalN x, x.fn2.getLsbD 3⟩

end Sys2Proof.Machine
end

