-- ==== Sys2Proof/Machine/MatrixInstr.lean ====
section
/-!
DEFINITION. Opcodes 0xC0 to 0xC7 at issue: their checks and their entries (R258, R261 to R274), and the skew collector
(R247 to R249).
-/
namespace Sys2Proof.Machine

/-! ### Checks (R261, R262) -/

def rMXSHAPE : Nat := 0x40
def rMXRANGE : Nat := 0x41
def rMXALIGN : Nat := 0x42
def rMXTYPE : Nat := 0x43
def rMXMASK : Nat := 0x44
def rMXCOUNTER : Nat := 0x45

/-- The matrix queue's number in AUX. -/
def mxQueue : Nat := 10

/-- The first condition of a list that holds. -/
def firstReason (l : List (Bool × Nat)) : Option Nat := (l.find? (·.1)).map (·.2)

/-- Whether a block length divides K. -/
def blockOk (t : MxType) (k : Nat) : Bool := t.block == 0 || k % t.block == 0

/-- Whether an operand of `rows` rows lies in the allocation, with its scales (R267). -/
def operandIn (g : Group) (t : MxType) (k rows : Nat) (a : DWord) : Bool :=
  g.inSpm a.lo.toNat (rows * (k * t.bits / 8)) && (t.block == 0 || g.inSpm a.hi.toNat (rows * (k / t.block)))

/-- What an entry's formats come to at issue. -/
inductive FmtRead' where
  | ok (l : List (Option Fmt))
  | wait (idxs : List Nat)
  | bad (c : Cause)

/-- The format entries that an instruction names, read through the format cache (R218, R265). -/
def State.issueFmts (s : State) (w : Warp) (g : Group) (idxs : List Nat) : FmtRead' :=
  let named := idxs.filter (· != 0)
  let bad : FmtRead' := .bad { cls := 2, reason := rBADFMT }
  if named.any fun i => (s.fmtEntryPA g.asid i).isNone then bad
  else
    let miss := named.filter fun i => (s.fmt? g.core g.asid i).isNone
    if !miss.isEmpty then
      match w.fmtFail? with
      | some e => .bad { cls := e.cls, reason := e.reason, aux := e.aux }
      | none => .wait miss
    else if named.any fun i => s.fmt? g.core g.asid i == some none then bad
    else .ok (idxs.map fun i => if i == 0 then none else (s.fmt? g.core g.asid i).getD none)

/-- An entry enters its group's matrix queue (R245). -/
def State.pushMx (s : State) (g : Group) (e : MxEntry) : State :=
  s.modGroup g.core g.slot fun u => { u with mxq := u.mxq ++ [e] }

/-- A new matrix entry of an instruction. -/
def mxEntry (eid : Nat) (s : State) (w : Warp) (opc : BitVec 8) (x : LongOp) (a b c : DWord) (off : Bool)
    (fmts : List (Option Fmt)) : MxEntry :=
  { eid := eid, opc := opc, x := x, a := a, b := b, c := c, off := off, batch := 0, fence := none, fmts := some fmts,
    needs := s.outstOf w.id fun _ => true, stopped := false, who := w.issuer }

/-- Issue of a tile-class instruction: under a true k guard its formats are read and `reject` gives the class 7 reason;
under a false one the entry enters the queue all the same (R259, R261). -/
def State.tileInstr (s : State) (opc : BitVec 8) (x : LongOp) (idxs : List Nat) (a b c : Src)
    (reject : Group → List (Option Fmt) → DWord → DWord → DWord → Option Nat) : Result :=
  s.issue opc x fun w =>
    let g := s.grp w
    let va := w.usrc x.lit a x.a
    let vb := w.usrc x.lit b x.b
    let vc := w.usrc x.lit c x.c
    let enter (off : Bool) (fmts : List (Option Fmt)) : Result :=
      if mxDepth ≤ g.mxq.length then .next (s.block w (.room (.queues [10])) w.phase)
      else
        let (eid, s1) := s.fresh
        .next (((s1.pushMx g (mxEntry eid s w opc x va vb vc off fmts)).modWarp w.id fun u => { u with fails := [] }).retireAt
          w.id (longLen x) 1)
    if !w.actsK x.g then enter true (idxs.map fun _ => none)
    else
      match s.issueFmts w g idxs with
      | .bad e => .next (s.trap w e)
      | .wait l => .next (s.waitWalk w g [] l w.phase)
      | .ok fmts =>
        match reject g fmts va vb vc with
        | some r => .next (s.trap w (causeReject r mxQueue))
        | none => enter false fmts

/-- The format at a position of a list. -/
def fmtAt (l : List (Option Fmt)) (i : Nat) : Option Fmt := l.getD i none

/-- Operand types of MMA. -/
def mmaTypes (fmts : List (Option Fmt)) (c : Word) : MxType × MxType :=
  (⟨fmtAt fmts 0, shapeTA c⟩, ⟨fmtAt fmts 1, shapeTB c⟩)

/-- MMA (R264 to R267). -/
def execMma (x : LongOp) (s : State) : Result :=
  s.tileInstr 0xC0 x [x.fn.toNat / 16, x.fn.toNat % 16] .d64 .d64 .i32 fun g fmts a b c =>
    let w := c.lo
    let (ta, tb) := mmaTypes fmts w
    let k := shapeK w
    firstReason
      [(!shapeOk w || shapeV w != 1 || !blockOk ta k || !blockOk tb k, rMXSHAPE),
       (!operandIn g ta k 64 a || !operandIn g tb k (shapeN w) b, rMXRANGE),
       (a.lo.toNat % 16 != 0 || b.lo.toNat % 16 != 0, rMXALIGN),
       (ta.isInt != tb.isInt, rMXTYPE)]

/-- The vectors' type of MMV. -/
def mmvType (fmts : List (Option Fmt)) (c : Word) : MxType := ⟨fmtAt fmts 0, shapeTA c⟩

/-- MMV (R264 to R266, R270). -/
def execMmv (x : LongOp) (s : State) : Result :=
  s.tileInstr 0xC2 x [x.fn.toNat / 16] .d64 .d64 .i32 fun g fmts a b c =>
    let w := c.lo
    let tv := mmvType fmts w
    firstReason
      [(!shapeOk w || !blockOk tv (shapeK w), rMXSHAPE),
       (!operandIn g tv (shapeK w) (shapeV w) b, rMXRANGE),
       (a.toNat % 64 != 0 || b.lo.toNat % 16 != 0, rMXALIGN),
       (!tv.isInt && (MxType.mk none (shapeTB w)).isInt, rMXTYPE)]

/-- MZERO (R271). -/
def execMzero (x : LongOp) (s : State) : Result := s.tileInstr 0xC3 x [] .none .none .none fun _ _ _ _ _ => none

/-- The checks of MLDA and MSTA (R272): `row` is the bytes of a row. -/
def moveReject (g : Group) (glob : Bool) (row : Nat) (a pitch : DWord) : Option Nat :=
  let p := pitch.lo.toNat
  firstReason
    [(!glob && !g.inSpm a.lo.toNat (63 * p + row), rMXRANGE),
     ((if glob then a.toNat % 16 else a.lo.toNat % 16) != 0 || p % 16 != 0 || p < row, rMXALIGN)]

/-- MLDA (R272). -/
def execMlda (x : LongOp) (s : State) : Result :=
  s.tileInstr 0xC4 x [] .d64 .i32 .none fun g _ a b _ => moveReject g (x.fn2.getLsbD 0) 256 a b

/-- Bytes of a stored row of MSTA. -/
def mstaRow (x : LongOp) : Nat := if x.fn2.getLsbD 1 then 128 else 256

/-- MSTA (R272). -/
def execMsta (x : LongOp) (s : State) : Result :=
  s.tileInstr 0xC5 x [] .d64 .i32 .none fun g _ a b _ => moveReject g (x.fn2.getLsbD 0) (mstaRow x) a b

/-! ### Batches (R258, R273, R274) -/

/-- Whether batch n of a group is complete. -/
def Group.batchOver (g : Group) (n : Nat) : Bool := g.batchDone.getLsbD n

/-- An s destination written once (R149). -/
def Warp.writeS (w : Warp) (d : Sel) (x : Word) : Warp :=
  match d with
  | .s n => w.setS n.val x
  | _ => w

/-- A mark of the batch NEXTB enters the queue (R258). -/
def State.pushBatch (s : State) (g : Group) (e : MxEntry) : State :=
  s.modGroup g.core g.slot fun u =>
    { u with
      mxq := u.mxq ++ [{ e with batch := u.nextb }], nextb := (u.nextb + 1) % 16,
      batchDone := u.batchDone &&& ~~~((1 : BitVec 16) <<< u.nextb) }

/-- MBATCH (R258, R273). -/
def State.mbatch (s : State) (w : Warp) (x : LongOp) : Result :=
  let g := s.grp w
  let form := x.fn2.toNat % 4
  let a := w.usrc x.lit (if form == 2 then .d64 else .i32) x.a
  let amt := w.usrc x.lit .i32 x.b
  let bad :=
    match ctrOperand form a with
    | .none => none
    | .loc b => if b < g.ctrs.length then none else some (causeReject rMXCOUNTER mxQueue)
    | .glob va => if va % 8 != 0 then some (causeReject rMXCOUNTER mxQueue) else s.checkCtr g 0 (.glob va) mxQueue
  match bad with
  | some c => .next (s.trap w c)
  | none =>
    if !g.batchOver g.nextb then .next (s.block w (.batch g.nextb) w.phase)
    else if mxDepth ≤ g.mxq.length then .next (s.block w (.room (.queues [10])) w.phase)
    else
      let (eid, s1) := s.fresh
      let s2 := s1.pushBatch g (mxEntry eid s w 0xC6 x a amt 0 false [])
      .next (s2.retire (w.writeS x.d (BitVec.ofNat 32 g.nextb)) (longLen x) 1)

/-- MBATCH (R273). -/
def execMbatch (x : LongOp) (s : State) : Result := s.issueWarp 0xC6 x fun w => s.mbatch w x

/-- MWAIT (R274). -/
def State.mwait (s : State) (w : Warp) (x : LongOp) : Result :=
  let n := (w.usrc x.lit .i32 x.a).toNat % 16
  if w.phase == 1 || (s.grp w).batchOver n then .next (s.retire w (longLen x) 1)
  else .next (s.block w (.batch n) 1)

/-- MWAIT (R274). -/
def execMwait (x : LongOp) (s : State) : Result := s.issueWarp 0xC7 x fun w => s.mwait w x

/-! ### The skew collector (R247 to R249) -/

/-- When a port turns to a lane's row: after the rows of the lower lanes of its port (R248); none while one of them is
still waited for. -/
def Window.reach (v : Window) (lane : Nat) : Option Nat :=
  let k := mmalK v.x
  let before := v.rows.filter fun r => r.lane % 8 == lane % 8 && r.lane < lane
  before.foldl (fun t r =>
    match t with
    | none => none
    | some n => if r.dropped then some r.since else if r.claimed then some (max n r.since + k) else none) (some v.opened)

/-- Whether a row has arrived before a cycle: its port has taken its last element in an earlier one (R247, R248). -/
def Window.arrived (v : Window) (clk : Nat) (r : SkewRow) : Bool :=
  r.claimed && !r.dropped &&
    match v.reach r.lane with
    | some n => max n r.since + mmalK v.x ≤ clk
    | none => false

/-- Whether every row of the mask has arrived or been dropped (R249). -/
def Window.isClosed (v : Window) (clk : Nat) : Bool := v.closed || v.rows.all fun r => r.dropped || v.arrived clk r

/-- The open window of a core. -/
def Core.openWin (k : Core) (clk : Nat) : Option Window := k.windows.find? fun v => !v.isClosed clk

def State.modWindow (s : State) (c : CoreId) (eid : Nat) (f : Window → Window) : State :=
  s.modCore c fun k => { k with windows := k.windows.map fun v => if v.eid == eid then f v else v }

/-- The elements that a lane's MMAL supplies: +0 from an inactive thread (R248, R268, R269). -/
def Warp.mmalRow (w : Warp) (x : LongOp) (k : Nat) : List Word :=
  (List.range k).map fun j => if (w.active x.g).getLsbD j then (w.src x.lit .i32 x.a j).lo else 0

/-- Types of MMAL's operands (R263, R268). -/
def mmalTypes (x : LongOp) (fmts : List (Option Fmt)) : MxType × MxType :=
  (⟨none, x.fn.toNat / 4 % 4⟩, ⟨fmtAt fmts 0, x.fn.toNat % 4⟩)

/-- The lane mask of a window as rows not yet claimed. -/
def maskRows (m : DWord) : List SkewRow :=
  ((List.range 64).filter m.getLsbD).map fun l => ⟨l, [], false, false, false, 0⟩

/-- Bytes of a window's operand B: its elements, and its scale tiles (R265, R267). -/
def mmalBytes (x : LongOp) (tb : MxType) : Nat × Nat :=
  (mmalN x * (mmalK x * tb.bits / 8), if tb.block == 0 then 0 else mmalN x * (mmalK x / tb.block))

/-- A lane's row claimed. -/
def Window.claim (v : Window) (lane clk : Nat) (elems : List Word) : Window :=
  { v with rows := v.rows.map fun r => if r.lane == lane then { r with claimed := true, elems := elems, since := clk } else r }

/-- MMAL that opens a window: its checks, room in the matrix queue, its warp's own stores to B, then the window and its entry (R118,
R247, R268). -/
def State.mmalOpen (s : State) (w : Warp) (x : LongOp) (g : Group) : Result :=
  match s.issueFmts w g [x.fn.toNat / 16] with
  | .bad e => .next (s.trap w e)
  | .wait l => .next (s.waitWalk w g [] l w.phase)
  | .ok fmts =>
    let (ta, tb) := mmalTypes x fmts
    let mask := w.usrc x.lit .d64 x.b
    let b := w.usrc x.lit .d64 x.c
    let k := mmalK x
    match firstReason
        [(!blockOk tb k, rMXSHAPE), (!operandIn g tb k (mmalN x) b, rMXRANGE), (b.lo.toNat % 16 != 0, rMXALIGN),
         (ta.isInt != tb.isInt, rMXTYPE), (!mask.getLsbD w.id.lane, rMXMASK)] with
    | some r => .next (s.trap w (causeReject r mxQueue))
    | none =>
      let (data, scales) := mmalBytes x tb
      let own := s.ownWrites w.id true [(g.spmBase + b.lo.toNat, data), (g.spmBase + b.hi.toNat, scales)]
      if mxDepth ≤ g.mxq.length then .next (s.block w (.room (.queues [10])) w.phase)
      else if !own.isEmpty then .next (s.block w (.instr own) w.phase)
      else
        let (eid, s1) := s.fresh
        let v : Window :=
          { eid := eid, slot := g.slot, x := x, mask := mask, b := b, data := data, scales := scales, bytes := []
            rows := maskRows mask, opened := s.clk, closed := false }
        let s2 := (s1.pushMx g (mxEntry eid s w 0xC1 x 0 mask b false fmts)).modCore g.core fun q =>
          { q with windows := q.windows ++ [v.claim w.id.lane s.clk (w.mmalRow x k)] }
        .next ((s2.modWarp w.id fun u => { u with fails := [] }).retireAt w.id (longLen x) (max 1 (countOf (w.active x.g))))

/-- MMAL (R247 to R249, R268, R269). -/
def State.mmal (s : State) (w : Warp) (x : LongOp) : Result :=
  let g := s.grp w
  match (s.core g.core).openWin s.clk with
  | none => s.mmalOpen w x g
  | some v =>
    if v.slot != g.slot then .next (s.block w (.room .window) w.phase)
    else
      match v.rows.find? fun r => r.lane == w.id.lane with
      | none => .next (s.trap w (causeReject rMXMASK mxQueue))
      | some r =>
        if r.claimed || r.dropped then .next (s.block w (.room .window) w.phase)
        else
          .next ((s.modWindow g.core v.eid fun u => u.claim w.id.lane s.clk (w.mmalRow x (mmalK v.x))).retireAt w.id (longLen x)
            (max 1 (countOf (w.active x.g))))

/-- MMAL (R268). -/
def execMmal (x : LongOp) (s : State) : Result := s.issue 0xC1 x fun w => s.mmal w x

end Sys2Proof.Machine
end

