-- ==== Sys2Proof/Machine/MatrixEvents.lean ====
section
/-!
DEFINITION. The steps of the matrix engine and the skew collector (R245, R246, R249, R250, R253, R258, R260).
-/
namespace Sys2Proof.Machine

/-! ### Windows (R248 to R250) -/

/-- Whether the engine has read all of a window's operand B (R250). -/
def Window.fed (v : Window) : Bool := v.data + v.scales ≤ v.bytes.length

/-- Whether row block b may start, or with b = 8 the whole recombined window (R250). -/
def Window.blockReady (v : Window) (clk b : Nat) : Bool :=
  let mine := v.rows.filter fun r => b == 8 || r.lane / 8 == b
  (Shape3.ofMmal v.x).recomb == (b == 8) && v.fed && (mine.any fun r => !r.dropped && !r.done) &&
    mine.all fun r => r.dropped || v.arrived clk r

/-- The first row block of a window that may start. -/
def Window.nextBlock (v : Window) (clk : Nat) : Option Nat := (List.range 9).find? (v.blockReady clk)

/-- Whether a window holds the engine: its first block has started, and its last has not ended (R250). -/
def Window.holds (k : Core) (clk : Nat) (v : Window) : Bool :=
  (v.rows.any (·.done)) &&
    ((v.rows.any fun r => !r.done && !r.dropped) || k.runs.any fun r => r.eid == v.eid && clk + 12 ≤ r.writeAt)

/-- A window all of whose rows have been performed and written, or dropped. -/
def Window.over (k : Core) (v : Window) : Bool :=
  (v.rows.all fun r => r.done || r.dropped) && !k.runs.any fun r => r.eid == v.eid

/-- The byte of a window's operand B numbered `i`, by its offset in the group's scratchpad (R265). -/
def Window.offset (v : Window) (i : Nat) : Nat := if i < v.data then v.b.lo.toNat + i else v.b.hi.toNat + (i - v.data)

/-- A lane cycle in which the engine reads the next 512 bytes of B of each window that has not all of them, first in the order of the
banks (R118, R250). -/
def State.feedWindows (s : State) (c : CoreId) : State :=
  ((s.core c).windows.filter fun v => !v.fed).foldl (fun st v =>
    match st.group? c v.slot with
    | none => st
    | some g =>
      let offs := (List.range (min 512 (v.data + v.scales - v.bytes.length))).map fun i => v.offset (v.bytes.length + i)
      let banks := (offs.map fun o => (g.spmBase + o) / 16 % 32).eraseDups
      (st.modWindow c v.eid fun u => { u with bytes := u.bytes ++ offs.flatMap fun o => st.grpSpm g o 1 }).modCore c fun k =>
        { k with busyBanks := k.busyBanks ++ banks.filter fun n => !k.busyBanks.contains n }) s

/-! ### The engine's turn (R245) -/

/-- Whether an entry at the head of its queue may be performed, or begun, now: it is no fence mark, guarded off or stopped, what it
comes after is over, and of a window a row block may start (R127, R245, R250). -/
def MxEntry.due (k : Core) (clk : Nat) (e : MxEntry) : Bool :=
  !e.off && !e.stopped && e.fence.isNone && k.needsOver e.needs &&
    (e.opc != 0xC1 || k.windows.any fun v => v.eid == e.eid && (v.nextBlock clk).isSome)

/-- The head of a group's matrix queue. -/
def Group.mxHead (g : Group) : Option MxEntry := g.mxq.head?

/-- Whether the engine takes entries of a group: one that is held has only those up to its last window performed (R251,
R260). -/
def Core.serves (k : Core) (g : Group) : Bool := g.phase == .running || k.windows.any fun v => v.slot == g.slot

/-- Whether the engine may take an entry of a group: nothing is in its engine cycles or streams, no window holds the engine, and the
entry before it of the same group has been written (R245, R250). -/
def Core.freeFor (k : Core) (clk : Nat) (g : Group) : Bool :=
  (k.runs.all fun r => !r.streaming && r.writeAt < clk + 12 && r.slot != g.slot) && !k.windows.any (Window.holds k clk)

/-- The group whose head entry the engine takes: the next in rotating slot order after the one it served last, among those whose heads
may be performed. A window whose first row block cannot start yet does not hold the engine (R250; log 20). -/
def State.nextTurn (s : State) (c : CoreId) : Option (Group × MxEntry) :=
  let k := s.core c
  let can := s.groups.filterMap fun g =>
    if g.core == c && k.serves g then
      g.mxHead.bind fun e => if e.due k s.clk && k.freeFor s.clk g then some (g, e) else none
    else none
  let key (g : Group) : Nat := if k.turn < g.slot then g.slot else g.slot + 4096
  can.foldl (fun best x =>
    match best with
    | none => some x
    | some b => if key x.1 < key b.1 then some x else best) none

/-- A tile of a group. -/
def Group.tile (g : Group) (n : Nat) : Tile := g.tiles.getD n []
/-- Its row i. -/
def Group.tileRow (g : Group) (n i : Nat) : List Word := (g.tile n).getD i (List.replicate 64 0)

/-- The tile that an entry names. -/
def tileOf (x : LongOp) : Nat := match x.d with | .v n => n.val | _ => 0

/-- A fault of the entry at the head: class 1 leaves it for the resume, and the others discard it and the group's later
matrix entries (R260). -/
def State.mxFail (s : State) (g : Group) (e : MxEntry) (c : Cause) : State :=
  let s1 := (s.engTrap g e.who c).modCore g.core fun k => { k with runs := k.runs.filter fun r => r.eid != e.eid, turn := g.slot }
  if c.cls == 1 then
    s1.modGroup g.core g.slot fun u => { u with mxq := u.mxq.map fun m => if m.eid == e.eid then { m with stopped := true } else m }
  else
    ((s1.discardFences g 10).modGroup g.core g.slot fun u => { u with mxq := [] }).modCore g.core fun k =>
      { k with windows := k.windows.filter fun v => v.slot != g.slot }

/-- The formats of an entry; a restored one reads its entries again, and one that has become unusable raises class 2,
BADFMT (R390). -/
def State.entryFmts (s : State) (g : Group) (e : MxEntry) (idxs : List Nat) : Except Cause (List (Option Fmt)) :=
  match e.fmts with
  | some l => .ok l
  | none =>
    idxs.foldr (fun i r =>
      match if i == 0 then .ok (some none) else (s.fmtFor g.core g.asid i 0).map (·.map some), r with
      | .error f, _ => .error { f.engine .read with va := none }
      | .ok none, _ => .error { cls := 2, reason := rBADFMT }
      | .ok (some _), .error c => .error c
      | .ok (some f), .ok l => .ok (f :: l)) (.ok [])

/-- When results are written whose engine cycles begin in cycle `clk`: 12 cycles after the last of them (R246). -/
def resultAt (clk cycles : Nat) : Nat := clk + cycles + 11

/-- What a started entry does. -/
inductive MxStart where
  | run (s : State) (rows : List (Nat × List Word)) (cycles : Nat)
  | stream
  | done (s : State)
  | fail (s : State) (c : Cause)

/-! ### Moves (R272) -/

/-- The pages of a run that pass before the first that fails, and that failure (R126). -/
def State.prefixPages (s : State) (w : Who) (k : Kind) : Nat → Nat → Nat → Pages × Option Cause
  | 0, _, _ => ([], none)
  | fuel + 1, va, n =>
    if n == 0 then ([], none)
    else
      match s.engPages w k va 1 with
      | .error c => ([], some c)
      | .ok ps =>
        let size := (ps.head?.map fun p => p.2.2.size).getD 65536
        let len := min n (size - va % size)
        let r := s.prefixPages w k fuel (va + len) (n - len)
        (ps.map (fun p => (p.1, len, p.2.2)) ++ r.1, r.2)

/-- The pages of MLDA's rows in memory. -/
def State.rowPages (s : State) (g : Group) (glob : Bool) (a pitch : Nat) : Pages :=
  if glob then (List.range 64).flatMap fun i => (s.engPages g.whoIs .read (a + i * pitch) 256).toOption.getD [] else []

/-- MLDA's rows from memory, or the failure of its first page that fails; `k` is what its reads meet. -/
def State.loadRows (s : State) (g : Group) (glob : Bool) (a pitch : Nat) (k : Check) : Except Cause (State × List (List Byte)) :=
  (List.range 64).foldl
    (fun r i =>
      match r with
      | .error c => .error c
      | .ok (st, rows) =>
        if glob then
          match (st.asRead k).engPages g.whoIs .read (a + i * pitch) 256 with
          | .error c => .error c
          | .ok ps => let s1 := st.engPull g.core ps; .ok (s1, rows ++ [(s1.asRead k).readPages ps])
        else .ok (st, rows ++ [st.grpSpm g (a + i * pitch) 256]))
    (.ok (s, []))

/-- Bytes of a tile row as MSTA stores them. -/
def storeRow (bf : Bool) (row : List Word) : List Byte :=
  row.flatMap fun w => if bf then leBytes 2 (f32To bf16 w.toNat) else leBytes 4 w.toNat

/-- MSTA's rows written in order; those before a page that fails stand. -/
def State.storeRows (s : State) (g : Group) (glob bf : Bool) (a pitch : Nat) : List (Nat × List Word) → State × Option Cause
  | [] => (s, none)
  | (i, row) :: rest =>
    let bs := storeRow bf row
    if glob then
      let (ps, bad) := s.prefixPages g.whoIs .write 4 (a + i * pitch) bs.length
      let s1 := s.engWrite g.whoIs ps bs
      match bad with
      | some c => (s1, some c)
      | none => s1.storeRows g glob bf a pitch rest
    else (s.grpSpmPuts g (a + i * pitch) bs).storeRows g glob bf a pitch rest

/-! ### MATRIX_ENTRY_START (R245) -/

/-- The rows of a tile numbered. -/
def Group.rows (g : Group) (n : Nat) : List (Nat × List Word) := (List.range 64).map fun i => (i, g.tileRow n i)

/-- The bytes of the scratchpad that an operand of some rows holds, with its scales (R265). -/
def operandRuns (ty : MxType) (rows kLen : Nat) (a : DWord) : SpmRuns :=
  [(a.lo.toNat, rows * kLen * ty.bits / 8), (a.hi.toNat, if ty.block == 0 then 0 else rows * (kLen / ty.block))]

/-- The bytes of the scratchpad that an entry reads or writes as it starts (R118, R252, R272). -/
def State.mxRuns (s : State) (g : Group) (e : MxEntry) : SpmRuns :=
  match e.opc.toNat with
  | 0xC0 =>
    match s.entryFmts g e [e.x.fn.toNat / 16, e.x.fn.toNat % 16] with
    | .error _ => []
    | .ok fmts =>
      let sh := Shape3.ofWord e.c.lo (e.x.fn2.getLsbD 0)
      let (ta, tb) := mmaTypes fmts e.c.lo
      operandRuns ta 64 sh.k e.a ++ operandRuns tb sh.n sh.k e.b
  | 0xC2 =>
    match s.entryFmts g e [e.x.fn.toNat / 16] with
    | .error _ => []
    | .ok fmts => operandRuns (mmvType fmts e.c.lo) (shapeV e.c.lo) (Shape3.ofWord e.c.lo (e.x.fn2.getLsbD 0)).k e.b
  | 0xC4 | 0xC5 =>
    if e.x.fn2.getLsbD 0 then []
    else (List.range 64).map fun i => (e.a.lo.toNat + i * e.b.lo.toNat, if e.opc == 0xC5 && e.x.fn2.getLsbD 1 then 128 else 256)
  | _ => []

/-- The head entry's operation as it starts. -/
def State.mxBegin (s : State) (g : Group) (e : MxEntry) (ecc : Ecc) : MxStart :=
  let x := e.x
  let t := tileOf x
  match e.opc.toNat with
  | 0xC0 =>
    match s.entryFmts g e [x.fn.toNat / 16, x.fn.toNat % 16] with
    | .error c => .fail s c
    | .ok fmts =>
      let w := e.c.lo
      let sh := Shape3.ofWord w (x.fn2.getLsbD 0)
      let (ta, tb) := mmaTypes fmts w
      let a := s.spmOperand g ta sh.k e.a
      let b := s.spmOperand g tb sh.k e.b
      .run s ((List.range 64).map fun i => (i, productRow sh (fun _ => true) a b i (g.tileRow t i)))
        (engineCycles sh (min ta.step tb.step))
  | 0xC2 => .stream
  | 0xC3 => .run s ((List.range 64).map fun i => (i, List.replicate 64 0)) 16
  | 0xC4 =>
    let glob := x.fn2.getLsbD 0
    let a := if glob then e.a.toNat else e.a.lo.toNat
    let k := s.engCheck (s.rowPages g glob a e.b.lo.toNat) ecc
    match k.cause with
    | some c => .fail (s.engChecked k) c
    | none =>
      match s.loadRows g glob a e.b.lo.toNat k.check with
      | .error c => .fail (s.engChecked k) c
      | .ok (s1, rows) => .run (s1.engChecked k) (rows.mapIdx fun i bs => (i, wordsOf bs)) 32
  | 0xC5 =>
    let glob := x.fn2.getLsbD 0
    let (s1, bad) := s.storeRows g glob (x.fn2.getLsbD 1) (if glob then e.a.toNat else e.a.lo.toNat) e.b.lo.toNat (g.rows t)
    match bad with
    | some c => .fail s1 c
    | none => .done s1
  | _ => .done s

/-- The head entry has been performed: it leaves its queue, and the engine turns to the next group. -/
def State.mxDone (s : State) (g : Group) : State :=
  (s.popMx g.core g.slot).modCore g.core fun k => { k with turn := g.slot }

/-- A run begins: it is the turn of its group. -/
def State.beginRun (s : State) (c : CoreId) (r : MxRun) : State :=
  s.modCore c fun k => { k with runs := k.runs ++ [r], turn := r.slot }

/-- The engine takes the head entry of the next group's queue, but for windows and batch marks, whose steps are their own (R245,
R246). -/
def State.mxStart (s : State) (c : CoreId) (ecc : Ecc) : State :=
  match s.nextTurn c with
  | none => s
  | some (g, e) =>
    if e.opc == 0xC1 || e.opc == 0xC6 then s
    else
      let u := s.useBanks g (s.mxRuns g e)
      match u.mxBegin g e ecc with
      | .fail s1 cause => s1.mxFail g e cause
      | .done s1 => s1.mxDone g
      | .stream => u.beginRun c ⟨g.slot, e.eid, tileOf e.x, [], 0, true⟩
      | .run s1 rows cycles => s1.beginRun c ⟨g.slot, e.eid, tileOf e.x, rows, resultAt s.clk cycles, false⟩

/-- MATRIX_ENTRY_START (R245). -/
def execMatrixEntryStart (c : CoreId) (e : Ecc) (s : State) : Result := .next (s.mxStart c e)

/-! ### TILE_WRITE (R246) -/

/-- Rows written into a tile. -/
def Group.writeRows (g : Group) (t : Nat) (rows : List (Nat × List Word)) : Group :=
  { g with tiles := g.tiles.mapIdx fun n tile =>
      if n == t then (List.range 64).map fun i =>
        match rows.find? fun r => r.1 == i with
        | some r => r.2
        | none => tile.getD i (List.replicate 64 0)
      else tile }

/-- A window that is over leaves the collector, and its entry the queue. -/
def State.endWindow (s : State) (c : CoreId) (eid : Nat) : State :=
  match (s.core c).windows.find? fun v => v.eid == eid with
  | none => s
  | some v =>
    if v.over (s.core c) then
      (s.modGroup c v.slot fun g => { g with mxq := g.mxq.filter fun m => m.eid != eid }).modCore c fun k =>
        { k with windows := k.windows.filter fun o => o.eid != eid }
    else s

/-- The first results that are due are written to their tile (R246). -/
def State.tileWrite (s : State) (c : CoreId) : State :=
  match (s.core c).runs.find? fun r => !r.streaming && r.writeAt ≤ s.clk with
  | none => s
  | some r =>
    let s1 := (s.modGroup c r.slot fun g => g.writeRows r.tile r.rows).modCore c fun k => { k with runs := k.runs.erase r }
    if (s.core c).windows.any fun v => v.eid == r.eid then s1.endWindow c r.eid else s1.popMx c r.slot

/-- TILE_WRITE (R246). -/
def execTileWrite (c : CoreId) (s : State) : Result := .next (s.tileWrite c)

/-! ### The skew collector (R249, R250) -/

/-- Whether a lane's row is waited for too long. -/
def Window.dropDue (v : Window) (clk : Nat) (r : SkewRow) : Bool :=
  !r.claimed && !r.dropped && match v.reach r.lane with | some n => n + 256 ≤ clk | none => false

/-- COLLECTOR_ROW_DROP: a row that its lane has not claimed 256 cycles after its turn is dropped (R249). -/
def State.rowDrop (s : State) (c : CoreId) (lane : Nat) : State :=
  match (s.core c).openWin s.clk with
  | none => s
  | some v =>
    if v.rows.any fun r => r.lane == lane && v.dropDue s.clk r then
      (s.modWindow c v.eid fun u =>
        { u with rows := u.rows.map fun r => if r.lane == lane then { r with dropped := true, since := s.clk } else r }).endWindow
        c v.eid
    else s

/-- COLLECTOR_ROW_DROP (R249). -/
def execCollectorRowDrop (c : CoreId) (lane : Nat) (s : State) : Result := .next (s.rowDrop c lane)

/-- The window whose row blocks may start: the one that holds the engine, or else the one whose turn it is. -/
def State.headWindow (s : State) (c : CoreId) : Option (Group × MxEntry × Window) :=
  let k := s.core c
  match k.windows.find? (Window.holds k s.clk) with
  | some v => (s.group? c v.slot).bind fun g => (g.mxq.find? fun e => e.eid == v.eid).map fun e => (g, e, v)
  | none => (s.nextTurn c).bind fun t => (k.windows.find? fun v => v.eid == t.2.eid).map fun v => (t.1, t.2, v)

/-- A window's claimed rows as operand A: row i is lane i's. -/
def Window.operandA (v : Window) (ty : MxType) : Operand where
  ty := ty
  code := fun i k =>
    let w := (((v.rows.find? fun r => r.lane == i).map fun r => (r.elems.getD k 0).toNat).getD 0)
    w % 2 ^ ty.bits
  scale := fun _ _ => 127

/-- Rows that a window's product has in A. -/
def Window.present (v : Window) (i : Nat) : Bool := v.rows.any fun r => r.lane == i && r.claimed && !r.dropped

/-- A window's operand B, as the engine has read it (R250). -/
def Window.operandB (v : Window) (ty : MxType) (kLen : Nat) : Operand :=
  operandAt (fun off n => (v.bytes.drop off).take n) ty kLen 0 v.data

/-- Rows of a block, computed from the tile as it stands. -/
def blockRows (g : Group) (e : MxEntry) (v : Window) (fmts : List (Option Fmt)) (b : Nat) : List (Nat × List Word) :=
  let sh := Shape3.ofMmal v.x
  let (ta, tb) := mmalTypes v.x fmts
  ((List.range 64).filter fun i => v.present i && (b == 8 || i / 8 == b)).map fun i =>
    (i, productRow sh v.present (v.operandA ta) (v.operandB tb sh.k) i (g.tileRow (tileOf e.x) i))

/-- A row block, or the whole recombined window, starts in its own part of the engine (R250). -/
def State.blockStart (s : State) (c : CoreId) (b : Nat) : State :=
  match s.headWindow c with
  | none => s
  | some (g, e, v) =>
    if !v.blockReady s.clk b then s
    else
      match s.entryFmts g e [e.x.fn.toNat / 16] with
      | .error cause => s.mxFail g e cause
      | .ok fmts =>
        let (ta, tb) := mmalTypes v.x fmts
        let cycles := engineCycles (Shape3.ofMmal v.x) (min ta.step tb.step)
        (s.beginRun c ⟨g.slot, e.eid, tileOf e.x, blockRows g e v fmts b, resultAt s.clk cycles, false⟩).modWindow c v.eid fun u =>
          { u with rows := u.rows.map fun r => if b == 8 || r.lane / 8 == b then { r with done := !r.dropped } else r }

/-- ROW_BLOCK_START (R250). -/
def execRowBlockStart (c : CoreId) (block : Nat) (s : State) : Result := .next (s.blockStart c block)

/-! ### MMV's stream (R253, R270) -/

/-- The pages of a stream, each with the FMT, CP and WG of the first (R270). -/
def State.streamPages (s : State) (w : Who) (l : Leaf) : Nat → Nat → Nat → Except Cause Pages
  | 0, _, _ => .ok []
  | fuel + 1, va, n =>
    if n == 0 then .ok []
    else
      match s.engPages w .read va 1 with
      | .error c => .error c
      | .ok ps =>
        match ps.head? with
        | none => .ok []
        | some (_, _, m) =>
          if m.fmt != l.fmt || m.cp != l.cp || m.wg != l.wg then
            .error { cls := 3, reason := rSTRADDLE, kind := 1, va := some (va / m.size * m.size) }
          else
            let len := min n (m.size - va % m.size)
            match s.streamPages w l fuel (va + len) (n - len) with
            | .error c => .error c
            | .ok r => .ok ((va, len, m) :: r)

/-- Bytes from a weight row to the next (R270). -/
def weightPitch (k bits : Nat) : Nat := (k * bits + 511) / 512 * 64

/-- The weights as operand B: column n is weight row n; scales follow R79. -/
def State.weightOperand (s : State) (g : Group) (ty : MxType) (w pitch : Nat) : Operand where
  ty := ty
  code := fun n k =>
    let va := w + n * pitch + k * ty.bits / 8
    match s.leafNow g.core g.asid va with
    | .ok l => leNat (s.devBytes (l.pa va) (max 1 (ty.bits / 8))) / 2 ^ (k * ty.bits % 8) % 2 ^ ty.bits
    | .error _ => 0
  scale := fun n k =>
    match ty.fmt with
    | some f =>
      match f.scaleVA (w + n * pitch + k * ty.bits / 8) with
      | some va => (match s.leafNow g.core g.asid va with | .ok l => (s.devByte (l.pa va)).toNat | .error _ => 127)
      | none => 127
    | none => 127

/-- The scale bytes of a stream, checked: they are one run, which may wrap with the address (R79). -/
def State.streamScales (s : State) (g : Group) (ty : MxType) (w n : Nat) : Except Cause Pages :=
  match ty.fmt with
  | none => .ok []
  | some f =>
    if f.blk == 0 then .ok []
    else
      match f.scaleVA w, f.scaleVA (w + n - 1) with
      | some lo, some hi =>
        if lo ≤ hi then s.engPages g.whoIs .read lo (hi - lo + 1)
        else
          match s.engPages g.whoIs .read 0 (hi + 1), s.engPages g.whoIs .read lo (2 ^ 56 - lo) with
          | .ok a, .ok b => .ok (b ++ a)
          | .error c, _ => .error c
          | _, .error c => .error c
      | _, _ => .error { cls := 2, reason := rSCALERANGE, kind := 1, va := some w }

/-- The weights' type from the FMT of the first weight page; INT8 and float operands do not mix (R266, R270). -/
def State.weightType (s : State) (g : Group) (l : Leaf) (tv : MxType) (c : Word) (w : Nat) : Except Cause MxType :=
  let bad : Except Cause MxType := .error { cls := 2, reason := rBADFMT, kind := 1, va := some w }
  if l.fmt == 0 then
    let t : MxType := ⟨none, shapeTB c⟩
    if t.isInt == tv.isInt then .ok t else bad
  else if tv.isInt then bad
  else
    match s.fmtFor g.core g.asid l.fmt w with
    | .error f => .error (f.engine .read)
    | .ok none => bad
    | .ok (some f) => .ok ⟨some f, 0⟩

/-- What an MMV comes to once its stream has ended: the rows that it writes and its engine cycles; `k` is what its reads meet. -/
def State.mmvResult (s0 : State) (g : Group) (e : MxEntry) (k : Check) : Except Cause (State × List (Nat × List Word) × Nat) :=
  let s := s0.asRead k
  let c := e.c.lo
  let sh := Shape3.ofWord c (e.x.fn2.getLsbD 0)
  let w := e.a.toNat
  match s.entryFmts g e [e.x.fn.toNat / 16] with
  | .error f => .error f
  | .ok fmts =>
    let tv := mmvType fmts c
    match s.engPages g.whoIs .read w 1 with
    | .error f => .error f
    | .ok first =>
      match first.head? with
      | none => .error { cls := 2, reason := rBADFMT }
      | some (_, _, l) =>
        match s.weightType g l tv c w with
        | .error f => .error f
        | .ok tw =>
          let pitch := weightPitch sh.k tw.bits
          match s.streamPages g.whoIs l (pageFuel (sh.n * pitch)) w (sh.n * pitch) with
          | .error f => .error f
          | .ok ps =>
            match s.streamScales g tw w (sh.n * pitch) with
            | .error f => .error f
            | .ok sps =>
              let s1 := s0.engPull g.core (ps ++ sps)
              let a := s1.spmOperand g tv sh.k e.b
              let b := (s1.asRead k).weightOperand g tw w pitch
              let v := shapeV c
              .ok (s1, (List.range v).map fun i =>
                  (i, productRow sh (fun r => r < v) a b i (g.tileRow (tileOf e.x) i)),
                engineCycles sh (min tv.step tw.step))

/-- The pages of an MMV's weights, in the order of their bytes, and those of their scales; where they fail, the first of them. -/
def State.mmvPages (s : State) (g : Group) (e : MxEntry) : Pages :=
  let sh := Shape3.ofWord e.c.lo (e.x.fn2.getLsbD 0)
  let w := e.a.toNat
  match (s.engPages g.whoIs .read w 1).toOption.bind List.head? with
  | none => []
  | some (_, _, l) =>
    let f := if l.fmt == 0 then none else (s.fmtFor g.core g.asid l.fmt w).toOption.join
    let ty : MxType := ⟨f, if f.isSome then 0 else shapeTB e.c.lo⟩
    let n := sh.n * weightPitch sh.k ty.bits
    ((s.engPages g.whoIs .read w n).toOption.getD [(w, 1, l)]) ++ (s.streamScales g ty w n).toOption.getD []

/-- The weight bytes of the MMV that the engine holds have arrived: the stream ends or faults (R253, R260, R270). -/
def State.mmvStream (s : State) (c : CoreId) (ecc : Ecc) : State :=
  match (s.core c).runs.find? (·.streaming) with
  | none => s
  | some r =>
    match (s.group? c r.slot).bind fun g => g.mxHead.map fun e => (g, e) with
    | none => s
    | some (g, e) =>
      let k := s.engCheck (s.mmvPages g e) ecc
      match k.cause with
      | some cause => (s.engChecked k).mxFail g e cause
      | none =>
        match s.mmvResult g e k.check with
        | .error f => (s.engChecked k).mxFail g e f
        | .ok (s1, rows, cycles) =>
          (s1.engChecked k).modCore c fun k =>
            { k with runs := k.runs.map fun q =>
                if q.streaming then { r with rows := rows, streaming := false, writeAt := resultAt s.clk cycles } else q }

/-- MMV_STREAM_DATA (R253). -/
def execMmvStreamData (c : CoreId) (e : Ecc) (s : State) : Result := .next (s.mmvStream c e)

/-! ### Batches (R258) -/

/-- Splits of a warp that wait for batch n go on in cycle `clk`. -/
def Warp.wakeBatch (w : Warp) (n clk : Nat) : Warp :=
  let due (p : Split) : Bool := p.st == .blocked (.batch n)
  if w.splits.any due then
    let w1 : Warp :=
      { w with splits := w.splits.map fun p => if due p then { p with st := if p.stalls then .running else .ready } else p }
    let x := w1.schedule (w.splits.length - 1)
    (if w.running.isSome then x else x.chosen clk).watchFrom clk
  else w

/-- The same for every warp of a group. -/
def State.wakeBatch (s : State) (c : CoreId) (slot n : Nat) : State :=
  { s with warps := s.warps.map fun w => if w.id.coreId == c && w.grp == slot then w.wakeBatch n s.clk else w }

/-- The engine takes a batch mark in its turn: the batch is complete, its counter add is made, a release after what its warp did before
it, and MWAIT wakes (R127, R245, R258). -/
def State.batchComplete (s : State) (c : CoreId) (slot : Nat) : State :=
  match s.nextTurn c with
  | none => s
  | some (g, e) =>
    if e.opc != 0xC6 || g.slot != slot then s
    else
      match s.engineAdd g (ctrOperand (e.x.fn2.toNat % 4) e.a) e.b.lo.toNat e.who with
      | .error f => s.mxFail g e f
      | .ok s1 =>
        ((s1.mxDone g).modGroup c slot fun u => { u with batchDone := u.batchDone ||| ((1 : BitVec 16) <<< e.batch) }).wakeBatch
          c slot e.batch

/-- BATCH_COMPLETE (R258). -/
def execBatchComplete (c : CoreId) (slot : Nat) (s : State) : Result := .next (s.batchComplete c slot)

end Sys2Proof.Machine
end

