-- ==== Sys2Proof/Machine/Groups.lean ====
section
/-!
DEFINITION. The life of a group: work packets and the mailbox (R371), placement (R372), creation (R373), its end and its
killing (R370, R386).
-/
namespace Sys2Proof.Machine

/-! ### Work packets (R365, R371) -/

/-- A work packet (R371). -/
structure WorkPkt where
  params  : List Word
  cat     : Nat
  entry   : Nat
  privva  : Nat
  res     : Nat                 -- bytes 48 to 51
  kind    : Nat
  spm     : Nat
  priv    : Nat
  asid    : Nat
  node    : Nat
  gidx    : Nat
  ngroups : Nat
  deriving DecidableEq, Repr

/-- WARPS, VREGS, TILES and COUNTERS as a 32-bit field (R365); WARPS is one less than the warps. -/
def resBits (r : Res) : Nat :=
  (r.warps - 1) % 2 ^ 10 * 2 ^ 22 + r.vregs % 2 ^ 8 * 2 ^ 14 + r.tiles % 2 ^ 5 * 2 ^ 9 + r.counters % 2 ^ 9
/-- The same read back. -/
def resOf (bits spm priv : Nat) : Res :=
  ⟨bitsN bits 22 10 + 1, bitsN bits 14 8, bitsN bits 9 5, bitsN bits 0 9, spm, priv⟩

/-- Whether the fields lie in the ranges of R365. -/
def Res.ok (r : Res) : Bool :=
  1 ≤ r.warps && r.warps ≤ 512 && 8 ≤ r.vregs && r.vregs ≤ 192 && r.vregs % 8 == 0 && r.tiles ≤ 16 && r.counters ≤ 256 &&
  r.spm ≤ 4096 && r.priv ≤ 65535

/-- The 64 bytes of a packet (R371). -/
def WorkPkt.bytes (p : WorkPkt) : List Byte :=
  ((List.range 8).flatMap fun i => leBytes 4 (p.params.getD i 0).toNat) ++ leBytes 8 (p.cat % 256 * 2 ^ 56 + p.entry % 2 ^ 56) ++
    leBytes 8 p.privva ++ leBytes 4 p.res ++ leBytes 2 (p.kind % 8 * 2 ^ 13 + p.spm % 2 ^ 13) ++ leBytes 2 p.priv ++
    leBytes 2 p.asid ++ leBytes 2 p.node ++ leBytes 2 p.gidx ++ leBytes 2 p.ngroups

/-- A packet from its bytes. -/
def WorkPkt.parse (b : List Byte) : WorkPkt :=
  let e := bytesNat b 32 8
  let k := bytesNat b 52 2
  { params := (List.range 8).map fun i => BitVec.ofNat 32 (bytesNat b (4 * i) 4), cat := bitsN e 56 8, entry := bitsN e 0 56
    privva := bytesNat b 40 8, res := bytesNat b 48 4, kind := bitsN k 13 3, spm := bitsN k 0 13, priv := bytesNat b 54 2
    asid := bytesNat b 56 2, node := bytesNat b 58 2, gidx := bytesNat b 60 2, ngroups := bytesNat b 62 2 }

/-- KIND of a packet's bytes. -/
def pktKind (b : List Byte) : Nat := bitsN (bytesNat b 52 2) 13 3
/-- The same packet under another KIND. -/
def pktSetKind (b : List Byte) (k : Nat) : List Byte :=
  (b.take 53 ++ [BitVec.ofNat 8 (bytesNat b 53 1 % 32 + k * 32)]) ++ b.drop 54

/-! ### The mailbox (R371, R379) -/

/-- Packets of a catalogue unit that its mailbox holds. -/
def Die.unitPackets (d : Die) : Nat := (d.mailbox.filter fun b => pktKind b ≤ 1).length
/-- Room for a packet of the catalogue unit: 48 of 64 entries at most. -/
def Die.unitRoom (d : Die) : Bool := d.unitPackets < 48 && d.mailbox.length < 64
/-- A free entry beyond the 48 of the catalogue unit (R379). -/
def Die.otherRoom (d : Die) : Bool := (d.mailbox.filter fun b => 2 ≤ pktKind b).length + d.inbound.length < 16

/-- A packet enters a mailbox. -/
def State.mail (s : State) (die : Nat) (b : List Byte) : State := s.modDie die fun d => { d with mailbox := d.mailbox ++ [b] }

/-- MAILBOX_PACKET_ARRIVAL: a packet of KIND 2 or 4 on its way enters the mailbox; a blocked MBXRD finds it there (R371,
R378). -/
def execMailboxPacketArrival (die : Nat) (s : State) : Result :=
  .next (s.modDie die fun d =>
    match d.inbound with
    | b :: rest => if d.mailbox.length < 64 then { d with mailbox := d.mailbox ++ [b], inbound := rest } else d
    | [] => d)

/-! ### Placement (R142, R372) -/

/-- Lanes and scratchpad bytes of a core (R15, R16). -/
def lanesOf (c : CoreId) : Nat := if isCurator c then 4 else 64
def spmSize (c : CoreId) : Nat := if isCurator c then 2 ^ 18 else 2 ^ 21

/-- Whether a group is on its core, not swapped out of it. -/
def Group.resident (g : Group) : Bool := match g.phase with | .swapped _ _ => false | _ => true

/-- Groups resident on a core. -/
def State.residents (s : State) (c : CoreId) : List Group := s.groups.filter fun g => g.core == c && g.resident

/-- Warp slots of a core that are occupied, each with its lane, slot and registers; a reserved one holds none (R388). -/
def State.occupied (s : State) (c : CoreId) : List (Nat × Nat × Nat) :=
  ((s.warps.filter fun w => w.id.coreId == c).map fun w => (w.id.lane, w.id.slot, if w.splits.isEmpty then 0 else w.vregs)) ++
    (s.groups.filter fun g => g.core == c).flatMap fun g => g.reserved.map fun r => (r.lane, r.slot, 0)

/-- Registers that a lane's warps hold. -/
def laneRegs (occ : List (Nat × Nat × Nat)) (lane : Nat) : Nat :=
  (occ.filter fun o => o.1 == lane).foldl (fun n o => n + o.2.2) 0

/-- The lowest free slot of a lane with room for `vregs` registers (R142). -/
def laneSlot (occ : List (Nat × Nat × Nat)) (vregs lane : Nat) : Option Nat :=
  if 192 < laneRegs occ lane + vregs then none
  else (List.range 8).find? fun n => !occ.any fun o => o.1 == lane && o.2.1 == n

/-- Warps placed in ascending index (R372): lane and slot of each. -/
def placeWarps (lanes ptr vregs : Nat) : List (Nat × Nat × Nat) → List Nat → Option (List (Nat × Nat))
  | _, [] => some []
  | occ, w :: ws =>
    let try_ (i : Nat) : Option (Nat × Nat) :=
      let l := (ptr + w + i) % lanes
      (laneSlot occ vregs l).map fun n => (l, n)
    match (List.range lanes).findSome? try_ with
    | none => none
    | some (l, n) => (placeWarps lanes ptr vregs ((l, n, vregs) :: occ) ws).map fun r => (l, n) :: r

/-- The placement pointer after a placement. -/
def nextPlace (lanes ptr : Nat) (l : List (Nat × Nat)) : Nat :=
  match l.getLast? with
  | some (x, _) => (x + 1) % lanes
  | none => ptr

/-- Scratchpad ranges that groups of a core hold, in bytes. -/
def State.spmHeld (s : State) (c : CoreId) : List (Nat × Nat) :=
  ((s.residents c).filter fun g => g.res.spm != 0).map fun g => (g.spmBase, g.res.spm * 512)

/-- The lowest free range of `n` bytes (R372). -/
def State.spmFit (s : State) (c : CoreId) (n : Nat) : Option Nat :=
  let held := s.spmHeld c
  let free (b : Nat) : Bool := b + n ≤ spmSize c && held.all fun h => b + n ≤ h.1 || h.1 + h.2 ≤ b
  let starts := (0 :: held.map fun h => h.1 + h.2).filter free
  if n == 0 then some 0 else starts.foldl (fun m b => match m with | none => some b | some a => some (min a b)) none

/-- The limits of R372 other than lanes and the scratchpad range. -/
def State.sumsFit (s : State) (c : CoreId) (r : Res) (newWarps : Nat) : Bool :=
  let g := s.residents c
  g.length + 1 ≤ 64 && (s.occupied c).length + newWarps ≤ 512 &&
  g.foldl (fun n x => n + x.res.tiles) 0 + r.tiles ≤ 32 && g.foldl (fun n x => n + x.res.counters) 0 + r.counters ≤ 256

/-- Where a group's warps and scratchpad would go on a core, if it fits (R372). -/
def State.fit (s : State) (c : CoreId) (r : Res) : Option (List (Nat × Nat) × Nat) :=
  if !s.sumsFit c r r.warps then none
  else
    match s.spmFit c (r.spm * 512), placeWarps (lanesOf c) (s.core c).place r.vregs (s.occupied c) (List.range r.warps) with
    | some b, some l => some (l, b)
    | _, _ => none

/-! ### Creation (R141, R373) -/

/-- The wing that owns a die; 15 where none does. -/
def State.dieWing (s : State) (die : Nat) : Nat :=
  ((s.wings.find? fun w => w.holds && w.dies.getLsbD die).map (·.id)).getD 15

/-- A warp as its creation path makes it (R141, R373, R399). -/
def Warp.create (id : WarpId) (grp widx vregs entry privbase clk : Nat) (sregs : List Word) (held : Bool)
    (join : Option Nat) : Warp where
  id := id
  grp := grp
  widx := widx
  vregs := vregs
  v := List.replicate vregs (.uniform 0)
  q := List.replicate 8 (.uniform 0)
  lr := .uniform 0
  s := sregs
  p := List.replicate 7 0
  k := BitVec.allOnes 7
  exec := BitVec.allOnes 32
  fflags := 0
  splits := [⟨entry, .running, BitVec.allOnes 32, 0, 0⟩]
  ibufs := []
  fetching := none
  gld := 0
  gst := 0
  spm := 0
  privbase := privbase
  wdlimit := 0x4000
  waitFrom := none
  progress := none
  fails := []
  readyAt := clk
  age := clk
  held := held
  joinCtr := join
  born := clk

/-- sys.privbase of a warp (R373). -/
def privBase (privva gidx widx priv : Nat) : Nat := (privva + (gidx * 512 + widx) * (priv * 128 + 512)) % 2 ^ 64

/-- s0 to s63 of a created group's warp (R373). -/
def startRegs (params : List Word) (gidx ngroups widx warps : Nat) : List Word :=
  ((List.range 8).map fun i => params.getD i 0) ++ [gidx, ngroups, widx, warps].map (BitVec.ofNat 32) ++ List.replicate 52 0

/-- A tile of zeros. -/
def Tile.zero : Tile := List.replicate 64 (List.replicate 64 0)

/-- Tagged slots of a die (R30). -/
def dieSlots : Nat := 4095

/-- A group slot of a die that no group holds; with all of them held, one that no group of the core holds (R30). -/
def State.newSlot (s : State) (c : CoreId) : Nat × State :=
  let used := (s.groups.filter fun g => g.core.die == c.die).map (·.slot)
  let here := (s.groups.filter fun g => g.core == c).map (·.slot)
  match s.pickUnused (if used.length < dieSlots then used else here) 0 dieSlots with
  | (some n, s1) => (n, s1)
  | (none, s1) => (0, s1)

/-- A group as it is created (R258, R373). -/
def Group.create (c : CoreId) (slot wing : Nat) (p : WorkPkt) (r : Res) (spmBase : Nat) : Group where
  core := c
  slot := slot
  wing := wing
  asid := p.asid
  cat := p.cat
  node := p.node
  gidx := p.gidx
  ngroups := p.ngroups
  res := r
  privva := p.privva
  spmBase := spmBase
  tiles := List.replicate r.tiles .zero
  ctrs := List.replicate r.counters 0
  wptr := List.replicate 8 0
  nextb := 0
  batchDone := BitVec.allOnes 16
  mxq := []
  phase := if p.kind == 1 then .cohort else .running
  trap := .zero
  trapinfo := 0
  preempt := none
  deferred := []
  reserved := []
  params := p.params
  entry := p.entry
  keeps := []
  saved := []

/-- A group created on a core where it fits (R372 to R374). -/
def State.createGroup (s : State) (c : CoreId) (wing : Nat) (p : WorkPkt) (r : Res) (place : List (Nat × Nat)) (base : Nat) :
    State × Nat :=
  let (slot, s1) := s.newSlot c
  let mk (i : Nat) (pl : Nat × Nat) : Warp :=
    Warp.create ⟨c.die, c.core, pl.1, pl.2⟩ slot i r.vregs p.entry (privBase p.privva p.gidx i r.priv) (s.clk + 1)
      (startRegs p.params p.gidx p.ngroups i r.warps) (p.kind == 1) none
  ({ (s1.modCore c fun k => { k with place := nextPlace (lanesOf c) k.place place }) with
      groups := s1.groups ++ [Group.create c slot wing p r base], warps := s1.warps ++ place.mapIdx mk }, slot)

/-! ### The end of a group (R370, R371) -/

/-- The KIND 3 notice of a group (R371). -/
def Group.notice (g : Group) : List Byte :=
  ({ params := g.params, cat := g.cat, entry := g.entry, privva := g.privva, res := 0, kind := 3, spm := 0, priv := g.res.priv
     asid := g.asid, node := g.node, gidx := g.slot, ngroups := g.ngroups } : WorkPkt).bytes

/-- The core puts a notice into its die's mailbox, or keeps it while the mailbox is full (R371). -/
def State.notify (s : State) (c : CoreId) (b : List Byte) : State :=
  if (s.die c.die).mailbox.length < 64 && (s.core c).notices.isEmpty then s.mail c.die b
  else s.modCore c fun k => { k with notices := k.notices ++ [b] }

/-- GROUP_END_NOTICE: a waiting notice enters the mailbox when it has room (R371). -/
def execGroupEndNotice (c : CoreId) (s : State) : Result :=
  .next (
    match (s.core c).notices with
    | b :: rest =>
      if (s.die c.die).mailbox.length < 64 then (s.mail c.die b).modCore c fun k => { k with notices := rest } else s
    | [] => s)

/-- The catalogue unit of a wing (R20): 0 or 1. -/
def State.unitOf (s : State) (wing : Nat) : Nat := if (s.wing wing).catUnit then 1 else 0

/-- A group leaves its core: the end is reported to its catalogue unit and its die's curator, and its resources are free
(R371, R386). -/
def State.endGroup (s : State) (g : Group) (killed : Bool) : State :=
  let s1 := { s with groups := s.groups.filter fun x => !(x.core == g.core && x.slot == g.slot) }
  let s2 := if g.cat == 0 then s1 else { s1 with ends := s1.ends ++ [⟨s.unitOf g.wing, g.wing, g.cat, g.node, killed⟩] }
  s2.notify g.core g.notice

/-- Entries of a group in a core's engine queues. -/
def Core.hasEntries (k : Core) (slot : Nat) : Bool :=
  (List.range 10).any fun n => (k.queue n).any fun i => match i with | .entry e => e.slot == slot | .fence _ => false

/-- Whether a group has ended but for its release: its warps have retired with their counts at zero, its engine entries
are complete, and no trap of it waits (R370). -/
def State.groupOver (s : State) (g : Group) : Bool :=
  let k := s.core g.core
  g.phase == .running && g.deferred.isEmpty && g.mxq.isEmpty && (s.warpsOf g.core g.slot).isEmpty && !k.hasEntries g.slot &&
  !(k.windows.any fun v => v.slot == g.slot) && !(k.fences.any fun f => f.slot == g.slot) &&
  !(k.heldOps.any fun h => h.slot == g.slot)

/-- GROUP_END: the group-end release, then the report (R370, R371). -/
def State.groupEnd (s : State) (c : CoreId) (slot : Nat) : State :=
  match s.group? c slot with
  | none => s
  | some g => if s.groupOver g then (s.releaseActs c true).endGroup g false else s

/-- GROUP_END (R370). -/
def execGroupEnd (c : CoreId) (slot : Nat) (s : State) : Result := .next (s.groupEnd c slot)

/-! ### Removal of a group's work -/

/-- Walks and format reads of a group's warps are given up. -/
def State.dropWaits (s : State) (c : CoreId) (slot : Nat) : State :=
  let ids := (s.warpsOf c slot).map (·.id)
  (s.modDie c.die fun d => { d with walks := d.walks.filter fun k => !ids.contains k.warp }).modCore c fun k =>
    { k with fmtReads := k.fmtReads.filter fun r => !ids.contains r.warp }

/-- The entries, windows, fences and bag of a group leave their core's engines (R126, R320, R386). -/
def State.dropEntries (s : State) (c : CoreId) (slot : Nat) : State :=
  let bagMine := match (s.core c).headEntry 9 with | some e => e.slot == slot | none => false
  let s1 := (List.range 10).foldl (fun st n => st.discardQueue c n slot) s
  let s2 := ((s.core c).fences.filter fun f => f.slot == slot).foldl (fun st f => st.dropFence c f) s1
  (s2.modGroup c slot fun g => { g with mxq := [] }).modCore c fun k =>
    { k with
      windows := k.windows.filter fun v => v.slot != slot
      runs := k.runs.filter fun r => r.slot != slot
      bag := if bagMine then none else k.bag }

/-- The group number that stands for none: a warp whose group was killed while its accesses are in flight. -/
def noGroup : Nat := 0xFFF

/-- The warps of a group retire at once, without write-back of private data; each slot is free when its counts are zero
(R356, R386). -/
def State.retireWarps (s : State) (c : CoreId) (slot : Nat) : State :=
  let ids := (s.warpsOf c slot).map (·.id)
  let s1 := ids.foldl (fun st w => st.privOut w false) s
  let s2 : State := { s1 with warps := s1.warps.map fun (w : Warp) =>
      if w.id.coreId == c && w.grp == slot then { w with splits := [], joinCtr := none, grp := noGroup, fetching := none } else w }
  s2.reap c

/-- A global CWAIT is given up: its monitor is released, and it issues again on resume (R307, R388). -/
def State.cancelCwait (s : State) (r : Req) : State :=
  match r.stage with
  | .fabric pid =>
    let s1 : State := { s.dropPacket pid with monitors := s.monitors.filter fun m => m.pid != pid }
    s1.endReq r
  | _ => s.endReq r

/-- The global CWAITs of a group's warps. -/
def State.cwaitsOf (s : State) (c : CoreId) (slot : Nat) : List Req :=
  let k := s.core c
  let ids := (s.warpsOf c slot).map (·.id)
  k.reqs.filter fun r => (match r.kind with | .cwait _ => true | _ => false) && ids.contains (k.warpOf r)

/-- Whether home has answered a CWAIT that its condition holds (R307). -/
def State.answered (s : State) (r : Req) : Bool :=
  match r.stage with
  | .fabric pid => match s.packet? pid with | some p => p.resp && p.ok && !p.fault | none => false
  | _ => false

/-- The adds to its local counters that the core holds for a group are given up with the counters (R386). -/
def State.dropHeldAdds (s : State) (c : CoreId) (slot : Nat) : State :=
  s.modCore c fun k => { k with heldOps := k.heldOps.filter fun h => h.slot != slot || match h.op with | .localAdd _ _ => false | .reqs _ => true }

/-- A group is killed (R386): `rep` is the record of its error report, none where no report is sent. -/
def State.killGroup (s : State) (g : Group) (rep : Option TrapRec) : State :=
  let c := g.core
  let s0 := (s.cwaitsOf c g.slot).foldl State.cancelCwait (s.dropWaits c g.slot)
  let s1 := ((s0.combFlush c fun _ => true).dropEntries c g.slot).dropHeldAdds c g.slot
  let s2 := if g.resident then s1.retireWarps c g.slot else s1
  let s3 :=
    match rep with
    | none => s2
    | some t =>
      let pa := if t.cls == 0 && t.aux != 0 then some (t.aux.toNat % 2 ^ 48) else none
      s2.report g.wing (reportBody .core t.cls t.reason c.die pa false (if t.cls == 0 then t.aux.toNat / 2 ^ 48 else 0) (some t))
  s3.endGroup g true

/-- Every group that a test names, killed. -/
def State.killGroups (s : State) (p : Group → Bool) (rep : Option TrapRec) : State :=
  (s.groups.filter p).foldl (fun st g => st.killGroup g rep) s

/-- Groups of a cohort node still held in placement are killed, without reports (R370). -/
def State.killCohort (s : State) (wing cat node : Nat) : State :=
  s.killGroups (fun g => g.wing == wing && g.cat == cat && g.node == node && g.phase == .cohort) none

end Sys2Proof.Machine
end

