-- ==== Sys2Proof/Machine/Launch.lean ====
section
/-!
DEFINITION. Work creation: FORK, SPAWN, MBXRD and FWD (R375 to R379).
-/
namespace Sys2Proof.Machine

/-- Class 2, SYS: an instruction of the curator core issued elsewhere (R375, R397, R399). -/
def causeSys : Cause := { cls := 2, reason := rSYS }

/-- Issue of a warp-level instruction that only the curator core runs (R375, R395). -/
def State.issueCurator (s : State) (opc : BitVec 8) (x : LongOp) (f : Warp → Result) : Result :=
  s.issueWarp opc x fun w => if isCurator w.id.coreId then f w else .next (s.trap w causeSys)

/-- The warp's own scratchpad accesses that come before its reading or writing a packet at an offset (R118). -/
def State.packetWaits (s : State) (w : Warp) (k : Kind) (off : Nat) : List Nat :=
  let a := (s.grp w).spmBase + off
  if k == .write then s.ownSpm w.id a 64 else s.ownWrites w.id true [(a, 64)]

/-- The 64 bytes at a scratchpad offset, a multiple of 16 inside the allocation (R375), after the warp's own accesses to them (R118). -/
def State.packetAt (s : State) (w : Warp) (k : Kind) (off : Nat) (go : Group → Result) : Result :=
  let g := s.grp w
  if off % 16 != 0 then .next (s.trap w (causeAlign 0xFF k off))
  else if !g.inSpm off 64 then .next (s.trap w (causeReject rCPRANGE noQueue))
  else if !(s.packetWaits w k off).isEmpty then .next (s.block w (.instr (s.packetWaits w k off)) w.phase)
  else go g

/-! ### SPAWN (R376) -/

/-- SPAWN's status and the state after its attempt: `c` is the core that it names. -/
def State.spawn (s : State) (c : CoreId) (p : WorkPkt) : State × Word :=
  let r := resOf p.res p.spm p.priv
  if 2 < p.kind || !r.ok then (s, 2)
  else if (s.core c).fenced || (s.die c.die).coreDom != .running then (s, 3)
  else
    match s.fit c r with
    | none => (s, 1)
    | some (place, base) =>
      let wing := s.dieWing c.die
      let (s1, slot) := s.createGroup c wing p r place base
      (s1, 0x80000000 ||| BitVec.ofNat 32 slot)

/-- A cohort group has been created: its catalogue unit counts it, or, where the replay has stopped sending, it is killed at
once (R370, R374). -/
def State.countCohort (s : State) (wing : Nat) (p : WorkPkt) : State :=
  if p.kind != 1 then s
  else
    let running : Option Replay := (s.cat? wing p.cat).bind (·.replay)
    match running with
    | none => s.killCohort wing p.cat p.node
    | some r =>
      if r.refused.isSome then s.killCohort wing p.cat p.node
      else
        s.modCat wing p.cat fun k =>
          { k with replay := k.replay.map fun r =>
              { r with runs := r.runs.map fun n => if n.id == p.node then { n with created := n.created + 1 } else n } }

/-- SPAWN (R376): the warp waits 16 lane cycles. -/
def execSpawn (x : LongOp) (s : State) : Result :=
  s.issueCurator 0xB1 x fun w =>
    let off := (w.usrc x.lit .i32 x.a).lo.toNat
    s.packetAt w .read off fun g =>
      let c : CoreId := ⟨w.id.die, (w.usrc x.lit .i32 x.b).toNat % 16⟩
      let p := WorkPkt.parse (s.grpSpm g off 64)
      let (s1, st) := s.spawn c p
      let s2 := if st.toNat < 2 ^ 31 then s1 else s1.countCohort (s.dieWing c.die) p
      .next ((s2.modWarp w.id fun u => u.writeS x.d st).retireAt w.id (longLen x) 16)

/-! ### FORK (R377) -/

/-- Warp indices of a group that no warp of it holds. -/
def State.freeIndices (s : State) (g : Group) (n : Nat) : List Nat :=
  let used := (s.warpsOf g.core g.slot).map (·.widx)
  ((List.range 1024).filter fun i => !used.contains i).take n

/-- A child of FORK: the parent's s registers but for s10 and s12. -/
def Warp.child (w : Warp) (g : Group) (id : WarpId) (widx n entry clk ctr : Nat) : Warp :=
  Warp.create id w.grp widx w.vregs entry (privBase g.privva g.gidx widx g.res.priv) clk
    ((w.s.set 10 (BitVec.ofNat 32 widx)).set 12 (BitVec.ofNat 32 n)) false (some ctr)

/-- All the children are placed as one addition, or none is. -/
def State.fork (s : State) (w : Warp) (g : Group) (count entry ctr : Nat) : Option State :=
  let c := g.core
  let idx := s.freeIndices g count
  let occ := s.occupied c
  if 512 < occ.length + count then none
  else
    (placeWarps (lanesOf c) (s.core c).place w.vregs occ idx).map fun place =>
      let kids := (idx.zip place).mapIdx fun n e => w.child g ⟨c.die, c.core, e.2.1, e.2.2⟩ e.1 n entry (s.clk + 1) ctr
      { (s.modCore c fun k => { k with place := nextPlace (lanesOf c) k.place place }) with warps := s.warps ++ kids }

/-- FORK: its counter is judged before the count (R301, R377). -/
def execFork (x : LongOp) (s : State) : Result :=
  s.issueWarp 0xB0 x fun w =>
    let g := s.grp w
    let count := (w.usrc x.lit .i32 x.a).toNat % 64
    let ctr := localNo (w.usrc x.lit .i32 x.c)
    let entry := (BitVec.ofNat 64 w.pc + 4 * ((w.usrc x.lit .i32 x.b).lo.signExtend 64)).toNat % 2 ^ 56
    if g.ctrs.length ≤ ctr then .next (s.trap w (causeReject rCNTREF noQueue))
    else if count == 0 || 32 < count then .next (s.trap w (causeReject rCPGEOM noQueue))
    else
      match s.fork w g count entry ctr with
      | none => .next (s.retire (w.writeS x.d 0) (longLen x) 1)
      | some s1 => .next ((s1.modWarp w.id fun u => u.writeS x.d (BitVec.ofNat 32 count)).retireAt w.id (longLen x) 1)

/-! ### MBXRD and FWD (R378, R379) -/

/-- MBXRD: the head packet moves to the scratchpad, or the split waits, or with `.nb` nothing moves. -/
def State.mbxrd (s : State) (w : Warp) (x : LongOp) (off : Nat) (g : Group) : Result :=
  let d := w.id.die
  match (s.die d).mailbox with
  | b :: rest =>
    let s1 := (s.modDie d fun k => { k with mailbox := rest, mailboxRead := k.mailboxRead || w.widx == 0 }).grpSpmPuts g off b
    .next (s1.retire (w.writeS x.d (0x80000000 ||| BitVec.ofNat 32 rest.length)) (longLen x) 1)
  | [] =>
    let s1 := s.modDie d fun k => { k with mailboxRead := k.mailboxRead || w.widx == 0 }
    if x.fn2.getLsbD 0 then .next (s1.retire (w.writeS x.d 0) (longLen x) 1) else .next (s1.block w .mailbox w.phase)

/-- MBXRD (R378). -/
def execMbxrd (x : LongOp) (s : State) : Result :=
  s.issueCurator 0xB2 x fun w =>
    let off := (w.usrc x.lit .i32 x.a).lo.toNat
    s.packetAt w .write off (s.mbxrd w x off)

/-- FWD copies a packet, as KIND 2, towards the mailbox of a die of the same wing, once it has a free entry. -/
def State.fwd (s : State) (w : Warp) (x : LongOp) (off die : Nat) (g : Group) : Result :=
  if 8 < die || s.dieWing die != s.dieWing w.id.die || s.dieWing die == 15 then .next (s.trap w { cls := 2, reason := rWING })
  else if (s.die die).otherRoom then
    .next ((s.modDie die fun d => { d with inbound := d.inbound ++ [pktSetKind (s.grpSpm g off 64) 2] }).retire w (longLen x) 1)
  else .next (s.block w (.room (.mailbox die)) w.phase)

/-- FWD (R379). -/
def execFwd (x : LongOp) (s : State) : Result :=
  s.issueCurator 0xB3 x fun w =>
    let off := (w.usrc x.lit .i32 x.a).lo.toNat
    s.packetAt w .read off (s.fwd w x off ((w.usrc x.lit .i32 x.b).toNat % 16))

end Sys2Proof.Machine
end

