-- ==== Sys2Proof/Machine/Traps.lean ====
section
/-!
DEFINITION. Traps and pre-emption: TRAP and BKPT (R396), the stop of a core (R383, R384), deferred traps (R450), pre-emption
(R391) and the watchdog (R399).
-/
namespace Sys2Proof.Machine

/-! ### TRAP and BKPT (R396) -/

/-- A software trap of a class: its code in AUX; the group resumes behind the instruction (R390, R396). -/
def State.softTrap (s : State) (w : Warp) (x : LongOp) (cls : Nat) : State :=
  let aux := BitVec.ofNat 64 ((w.usrc x.lit .i32 x.a).toNat % 2 ^ 16)
  s.modCore w.id.coreId fun k => k.pend s.clk
    { slot := w.grp, age := w.age, trapRec := mkRecord w.issuer false { cls := cls, aux := aux }, skip := longLen x }

/-- TRAP (R396). -/
def execTrap (x : LongOp) (s : State) : Result := s.issueWarp 0x7A x fun w => .next (s.softTrap w x 8)

/-- BKPT (R396). -/
def execBkpt (x : LongOp) (s : State) : Result := s.issueWarp 0x7B x fun w => .next (s.softTrap w x 9)

/-! ### Holding a group (R383, R388, R391) -/

/-- A window is closed at once: rows that have not arrived are dropped (R251). -/
def Window.close (v : Window) (clk : Nat) : Window :=
  { v with closed := true
           rows := v.rows.map fun r => if v.arrived clk r || r.dropped then r else { r with dropped := true, since := clk } }

/-- A split whose CWAIT has been given up issues it again when its group resumes (R307). -/
def Split.giveUp (iids : List Nat) (p : Split) : Split :=
  match p.st with
  | .blocked (.answer i _ _) => if iids.contains i then { p with st := .blocked .resumed } else p
  | _ => p

/-- A group is held: its warps rest at their boundaries, its open window closes, and its CWAITs are given up, but for those whose answer
is on its way and completes them (R307). -/
def State.holdGroup (s : State) (g : Group) (cause : Nat) (t : TrapRec) : State :=
  let c := g.core
  let gone := (s.cwaitsOf c g.slot).filter fun r => !s.answered r
  let s1 := gone.foldl State.cancelCwait s
  let mine := ((s1.core c).windows.filter fun v => v.slot == g.slot).map (·.eid)
  let s2 := mine.foldl (fun st eid => st.endWindow c eid)
    (s1.modCore c fun k => { k with windows := k.windows.map fun v => if v.slot == g.slot then v.close s.clk else v })
  let s3 := s2.modGroup c g.slot fun u => { u with phase := .held cause, trap := t, preempt := none }
  { s3 with warps := s3.warps.map fun (w : Warp) =>
      if w.id.coreId == c && w.grp == g.slot then
        { w with held := true, fetching := none, splits := w.splits.map (Split.giveUp (gone.map (·.iid))) }
      else w }

/-! ### The stop of a core (R383, R384) -/

/-- Whether a class swaps its group out rather than killing it (R382). -/
def swapClass (cls : Nat) : Bool := cls == 1 || cls == 8 || cls == 9

/-- The order of R384: class, age, warp index, thread. -/
def PendTrap.before (a b : PendTrap) : Bool :=
  let x := a.trapRec
  let y := b.trapRec
  x.cls < y.cls ||
  (x.cls == y.cls && (a.age < b.age ||
    (a.age == b.age && (x.warp < y.warp || (x.warp == y.warp && x.thread < y.thread)))))

/-- The trap of a list that is delivered. -/
def chooseTrap : List PendTrap → Option PendTrap
  | [] => none
  | t :: ts =>
    match chooseTrap ts with
    | none => some t
    | some u => some (if u.before t then u else t)

/-- Bytes 0 to 7 of a record (R397). -/
def TrapRec.info (t : TrapRec) : DWord := BitVec.ofNat 64 ((t.toNats).headD 0)

/-- A trap delivered to its group: its record becomes sys.trapinfo, and its class's fate follows (R382, R386, R387). The group's other
pending traps are dropped (R384). DESIGN CHOICE (log 36): so is the class 7 of an EMBPOOL.t whose entry has left its queue, though no entry
is there to resume and meet its condition again, of which R384 speaks (R62). -/
def State.deliver' (s : State) (g : Group) (t : PendTrap) : State :=
  let r := t.trapRec
  let s1 := s.modGroup g.core g.slot fun u => { u with trapinfo := r.info, deferred := [], preempt := none }
  if swapClass r.cls then
    let skip (w : Warp) : Warp :=
      if w.id.coreId == g.core && w.grp == g.slot && w.widx == r.warp && t.skip != 0 then
        w.modRunning fun p => p.advance t.skip
      else w
    ({ s1 with warps := s1.warps.map skip } : State).holdGroup g 0 r
  else s1.killGroup g (some r)

/-- The instruction at whose boundary a warp stands: list position and address of its running split, else of its first blocked one. -/
def Warp.boundary (w : Warp) : Nat × Nat :=
  if w.running.isSome then (w.runPos, w.pc)
  else
    let i := w.splits.findIdx fun p => match p.st with | .blocked _ => true | _ => false
    (i, ((w.splits[i]?).map (·.pc)).getD 0)

/-- Whether a warp is the one that a trap is charged to, and no later one with its index (R377, R450). -/
def PendTrap.isOf (t : PendTrap) (w : Warp) : Bool := w.widx == t.trapRec.warp && w.born ≤ t.age

/-- Whether a deferred trap of a group may be raised: its warp, or, once that has retired, any live warp, has reached an
instruction boundary; with no warp live it is raised in the cycle after its event (R450). -/
def State.deferDue (s : State) (g : Group) (t : PendTrap) : Bool :=
  let live := (s.warpsOf g.core g.slot).filter fun w => !w.splits.isEmpty
  (g.phase == .running || !swapClass t.trapRec.cls) && g.resident &&
  match live.find? t.isOf with
  | some w => w.atBoundary s.clk
  | none => (live.isEmpty && t.since < s.clk) || live.any fun w => w.atBoundary s.clk

/-- A deferred trap as it is raised: a late one names the instruction at the boundary, of its warp, or, once that has retired, of a live
warp of the group that has reached one (R385). -/
def State.located (s : State) (c : CoreId) (t : PendTrap) : PendTrap :=
  let live := (s.warpsOf c t.slot).filter fun w => !w.splits.isEmpty
  let at_ : Option Warp := ((live.find? t.isOf) <|> (live.find? fun w => w.atBoundary s.clk)) <|> live.head?
  match t.late, at_ with
  | true, some w => { t with late := false, trapRec := { t.trapRec with split := w.boundary.1, pc := w.boundary.2 } }
  | _, _ => t

/-- A group takes one of its pending traps; a group that is held already takes only one that kills it. -/
def State.settleTraps (s : State) (c : CoreId) (l : List PendTrap) (slot : Nat) : State :=
  match s.group? c slot with
  | none => s
  | some g =>
    let mine :=
      (if g.phase == .running then l.filter fun t => t.slot == slot else []) ++ (g.deferred.filter (s.deferDue g)).map (s.located c)
    match chooseTrap mine with
    | none => s
    | some t => s.deliver' g t

/-- Group slots of a core, ascending. -/
def State.slotsOf (s : State) (c : CoreId) : List Nat :=
  (s.groups.filter fun g => g.core == c).foldl (fun l g => insertAsc g.slot l) []

/-- A trap on a curator core holds the warp that raised it, is reported to the operator, and its program is to be loaded
again (R383, R422). -/
def State.curatorTrap (s : State) (c : CoreId) (t : PendTrap) : State :=
  let r := t.trapRec
  let s1 : State := { s with warps := s.warps.map fun (w : Warp) =>
    if w.id.coreId == c && w.grp == t.slot && w.widx == r.warp then { w with held := true } else w }
  (s1.modDie c.die fun d => { d with curatorLoaded := false }).report 15
    (reportBody .core r.cls r.reason c.die none false 0 (some r))

/-- Whether an instruction of a core that waits for a walk has still to finish before the core's groups are settled (R383). -/
def State.unfinished (s : State) (c : CoreId) : Bool := s.warps.any fun w => w.id.coreId == c && w.walking

/-- A core has stopped, in the cycle after that of its traps, and its warps rest at instruction boundaries: each of its groups takes one of
its pending traps, in ascending slot order, and the others resume 64 cycles later (R383, R384). -/
def State.coreStop (s : State) (c : CoreId) : State :=
  match (s.core c).stop with
  | .stopping n l =>
    if s.clk ≤ n || s.unfinished c then s
    else
    let s1 := s.modCore c fun k => { k with stop := .resuming (n + 65) }
    if isCurator c then
      let late := (s.groups.filter fun g => g.core == c).flatMap fun g => g.deferred.map (s.located c)
      let s2 : State := { s1 with groups := s1.groups.map fun (g : Group) => if g.core == c then { g with deferred := [] } else g }
      (l ++ late).foldl (fun st t => st.curatorTrap c t) s2
    else (s.slotsOf c).foldl (fun st n => st.settleTraps c l n) s1
  | _ => s

/-- CORE_STOP (R383). -/
def execCoreStop (c : CoreId) (s : State) : Result := .next (s.coreStop c)

/-- OTHER_WARPS_RESUME: 64 lane cycles after no lane issued any more (R383). -/
def execOtherWarpsResume (c : CoreId) (s : State) : Result :=
  .next (s.modCore c fun k =>
    match k.stop with
    | .resuming n => if n ≤ s.clk then { k with stop := .none } else k
    | _ => k)

/-! ### Deferred traps (R450) -/

/-- DEFERRED_TRAP: the core stops with it (R383, R450). -/
def State.raiseDeferred (s : State) (c : CoreId) (slot : Nat) : State :=
  match s.group? c slot with
  | none => s
  | some g =>
    let due := g.deferred.filter (s.deferDue g)
    if due.isEmpty then s
    else if g.phase == .running then
      (s.modGroup c slot fun u => { u with deferred := u.deferred.filter fun t => !s.deferDue g t }).modCore c fun k =>
        (due.map (s.located c)).foldl (Core.pend s.clk) k
    else
      s.modCore c fun k => { k with stop := match k.stop with | .stopping n l => .stopping n l | _ => .stopping s.clk [] }

/-- DEFERRED_TRAP (R450). -/
def execDeferredTrap (c : CoreId) (slot : Nat) (s : State) : Result := .next (s.raiseDeferred c slot)

/-! ### Pre-emption (R391) -/

/-- A request to pre-empt a group: it is ignored unless the group is resident and runs. -/
def State.requestPreempt (s : State) (c : CoreId) (slot cause : Nat) : State :=
  s.modGroup c slot fun g => if g.phase == .running && g.preempt.isNone then { g with preempt := some cause } else g

/-- Whether every warp of a group stands at an instruction boundary (R391). -/
def State.allAtBoundary (s : State) (g : Group) : Bool := (s.warpsOf g.core g.slot).all fun w => w.splits.isEmpty || w.atBoundary s.clk

/-- PREEMPTION_STOP: once its warps stand at instruction boundaries the group is held for a swap-out, and its core stops as for a trap; one
that is pending comes first (R383, R391). -/
def State.preemptStop (s : State) (c : CoreId) (slot : Nat) : State :=
  match s.group? c slot, (s.core c).stop with
  | _, .stopping _ _ => s
  | some g, _ =>
    match g.preempt with
    | some cause =>
      if g.phase == .running && s.allAtBoundary g && !g.deferred.any (s.deferDue g) then (s.holdGroup g cause .zero).modCore c fun k => { k with stop := .stopping s.clk [] } else s
    | none => s
  | none, _ => s

/-- PREEMPTION_STOP (R391). -/
def execPreemptionStop (c : CoreId) (slot : Nat) (s : State) : Result := .next (s.preemptStop c slot)

/-! ### The watchdog (R399) -/

/-- The split at which a waiting warp's record points: its position and address. -/
def Warp.waitingAt (w : Warp) : Option (Nat × Nat) :=
  if w.running.isSome || w.held then none
  else ((w.splits.mapIdx fun i p => (i, p)).find? fun e => match e.2.st with | .blocked x => x.watched | _ => false).map fun e =>
    (e.1, e.2.pc)

/-- Whether a warp's count has reached sys.wdlimit x 2^16 cycles. -/
def Warp.watchDue (w : Warp) (clk : Nat) : Bool :=
  w.wdlimit != 0 && match w.waitFrom with | some n => n + w.wdlimit.toNat * 65536 ≤ clk | none => false

/-- A waiting warp takes class 10, WAIT (R399). -/
def State.watchdog (s : State) (id : WarpId) : State :=
  match s.warp? id with
  | none => s
  | some w =>
    match w.waitingAt with
    | none => s
    | some (i, pc) =>
      if w.watchDue s.clk then
        (s.setWarp { w with waitFrom := none }).deferTrap id.coreId w.grp ⟨id, w.widx, i, pc, w.age⟩
          { cls := 10, reason := 0x60 }
      else s

/-- WATCHDOG (R399). -/
def execWatchdog (w : WarpId) (s : State) : Result := .next (s.watchdog w)

end Sys2Proof.Machine
end

