-- ==== Sys2Proof/Machine/System.lean ====
section
/-!
DEFINITION. The system instructions GETSYS, SETSYS and TIME (R395, R397, R398), and generation raises (R80 to R82).
-/
namespace Sys2Proof.Machine

/-! ### GETSYS and SETSYS (R397) -/

/-- The value of a system name; sys.tix and the write-only names are not among them. -/
def State.sysValue (s : State) (w : Warp) (g : Group) (name : Nat) : DWord :=
  let n (k : Nat) : DWord := BitVec.ofNat 64 k
  match name with
  | 0x01 => n w.id.lane
  | 0x02 => n w.widx
  | 0x03 => n w.id.core
  | 0x04 => n w.id.die
  | 0x05 => n g.wing
  | 0x06 => n g.slot
  | 0x07 => n ((s.warpsOf g.core g.slot).filter fun x => !x.splits.isEmpty).length
  | 0x08 => n (g.node % 2 ^ 16 + g.cat * 2 ^ 16)
  | 0x09 => w.exec.setWidth 64
  | 0x0A => n (w.runPos + w.splits.length * 2 ^ 8)
  | 0x0B => w.fflags.setWidth 64
  | 0x0C => n (s.desc g.asid).fmtbase
  | 0x0D => n w.privbase
  | 0x0E => g.trapinfo
  | 0x12 => n g.asid
  | 0x13 => w.wdlimit.setWidth 64
  | _ => 0

/-- Names that only a curator core may use: sys.asgen, sys.ctxpush and sys.preempt. -/
def curatorName (name : Nat) : Bool := name == 0x0F || name == 0x10 || name == 0x11
/-- Names of 64 bits. -/
def wideName (name : Nat) : Bool := name == 0x0C || name == 0x0D || name == 0x0E || name == 0x10

/-- A value written for the whole warp: a v or d destination in all 32 threads, tagged uniform (R397, R398). -/
def Warp.writeAll (w : Warp) (d : Sel) (wide : Bool) (x : DWord) : Warp :=
  w.writeReg d wide (BitVec.allOnes 32) (.uniform 0) fun _ => x

/-- GETSYS (R397). -/
def execGetsys (x : LongOp) (s : State) : Result :=
  s.issueWarp 0xE0 x fun w =>
    let name := x.fn.toNat
    if curatorName name && !isCurator w.id.coreId then .next (s.trap w causeSys)
    else if name == 0 then
      if selIsS x.d then .next (s.trap w causeShape)
      else
        let w1 := w.writeReg x.d false (BitVec.allOnes 32) (.affine 0 1) fun t => BitVec.ofNat 64 t
        .next (s.retire w1 (longLen x) 1)
    else .next (s.retire (w.writeAll x.d (wideName name) (s.sysValue w (s.grp w) name)) (longLen x) 1)

/-- sys.exec, sys.fflags or sys.wdlimit written (R397). -/
def Warp.setSys (w : Warp) (name : Nat) (a : Word) : Warp :=
  match name with
  | 0x09 => { w with exec := a }
  | 0x0B => { w with fflags := a.setWidth 6 }
  | 0x13 => { w with wdlimit := a.setWidth 16 }
  | _ => w

/-- SETSYS of sys.exec, sys.fflags or sys.wdlimit (R397). -/
def execSetsys (x : LongOp) (s : State) : Result :=
  s.issueWarp 0xE1 x fun w => .next (s.retire (w.setSys x.fn.toNat (w.usrc x.lit .i32 x.a).lo) (longLen x) 1)

/-- SETSYS sys.ctxpush: a frame joins the queue of 64, or waits for room (R387). -/
def execSetsysCtxpush (x : LongOp) (s : State) : Result :=
  s.issueCurator 0xE1 x fun w =>
    let d := w.id.die
    if 64 ≤ (s.die d).frames.length then .next (s.block w (.room .frames) w.phase)
    else
      .next ((s.modDie d fun k => { k with frames := k.frames ++ [(w.usrc x.lit .d64 x.a).toNat] }).retire w (longLen x) 1)

/-- SETSYS sys.preempt (R391). -/
def execSetsysPreempt (x : LongOp) (s : State) : Result :=
  s.issueCurator 0xE1 x fun w =>
    let a := (w.usrc x.lit .i32 x.a).toNat
    .next ((s.requestPreempt ⟨w.id.die, bitsN a 12 4⟩ (bitsN a 0 12) 1).retireAt w.id (longLen x) 1)

/-- TIME (R398). -/
def execTime (x : LongOp) (s : State) : Result :=
  s.issueWarp 0xE2 x fun w => .next (s.retire (w.writeAll x.d true (BitVec.ofNat 64 s.time)) (longLen x) 1)

/-! ### Generation raises (R80 to R82) -/

/-- Cores that take part in a broadcast: those that run. -/
def State.receivers (s : State) : List CoreId :=
  (s.cores.filter fun k => !k.fenced && (s.die k.id.die).coreDom == .running).map (·.id)

/-- The address space of a request, whatever has become of its group. -/
def Core.asidOf (k : Core) (r : Req) : Option Nat := (k.outst.find? fun o => o.iid == r.iid).map (·.asid)

/-- Requests of a core that an address space's groups have in flight. -/
def State.olderReqs (s : State) (c : CoreId) (asid : Nat) : List (CoreId × Nat) :=
  let k := s.core c
  (k.reqs.filter fun r => k.asidOf r == some asid).map fun r => (c, r.rid)

/-- Where GEN of a descriptor lies. -/
def State.genPA (s : State) (asid : Nat) : Nat := s.descPA asid + 16

/-- A raise begins: GEN goes up by one modulo 2^20 at its home, and the broadcast leaves (R81). -/
def State.startRaise (s : State) (die asid : Nat) (warp : Option WarpId) (ccp : Option (Nat × Nat)) : State :=
  let pa := s.genPA asid
  let old := s.homeWord pa 4
  let gen := (old.toNat % 2 ^ 20 + 1) % 2 ^ 20
  let s1 := s.homeSetWord die 0xFFF 0 0 pa 4 (BitVec.ofNat 64 (old.toNat / 2 ^ 20 * 2 ^ 20 + gen))
  { s1 with raises := s1.raises ++ [⟨asid, gen, gen == 0, s.receivers, [], [], warp, ccp⟩] }

/-- SETSYS sys.asgen: it retires when the raise completes (R80, R81). -/
def execSetsysAsgen (x : LongOp) (s : State) : Result :=
  s.issueCurator 0xE1 x fun w =>
    let asid := (w.usrc x.lit .i32 x.a).toNat % 2 ^ 16
    if w.phase == 1 then .next (s.retire w (longLen x) 1)
    else if s.memDown (s.genPA asid) || s.bypass (s.genPA asid) then
      .next (s.trap w { cls := 0, kind := 3, aux := auxOf (s.genPA asid) 0 })
    else .next ((s.startRaise w.id.die asid (some w.id) none).blockAt w.id .raise 1)

/-- What a core does with a broadcast: entries of the address space with an older tag go, all of them on a wrap (R81). -/
def Core.receiveGen (k : Core) (r : Raise) : Core :=
  { k with
    gens := (r.asid, r.gen) :: k.gens.filter fun g => g.1 != r.asid
    tlb := k.tlb.filter fun e => e.asid != r.asid || (!r.wrapped && e.gen == r.gen)
    fmts := k.fmts.filter fun e => e.asid != r.asid || (!r.wrapped && e.gen == r.gen) }

/-- One raise reaches a core and its die's walkers; walks of an older generation start again at their next read. -/
def State.receiveGen (s : State) (c : CoreId) (r : Raise) : State :=
  (s.modCore c fun k => k.receiveGen r).modDie c.die fun d =>
    { d with ptrs := d.ptrs.filter fun e => e.asid != r.asid || (!r.wrapped && e.gen == r.gen) }

/-- GENERATION_BROADCAST: a receiver acts on the raises that it has not acknowledged, and acknowledges them; what it has translated
before is what their completion waits for (R81, R82). -/
def State.broadcast (s : State) (c : CoreId) : State :=
  let mine := s.raises.filter fun r => r.left.contains c
  let s1 := mine.foldl (fun st r => st.receiveGen c r) s
  { s1 with raises := s1.raises.map fun r =>
      if r.left.contains c then
        { r with left := r.left.filter (· != c), older := r.older ++ s.olderReqs c r.asid, combs := r.combs ++ [(c, s.clk)] }
      else r }

/-- GENERATION_BROADCAST (R81). -/
def execGenerationBroadcast (c : CoreId) (s : State) : Result := .next (s.broadcast c)

/-- Whether a raise is complete: all have acknowledged, and every access translated under an older generation is
performed, among them the REDs that rest in a combining buffer (R81). -/
def State.raiseOver (s : State) (r : Raise) : Bool :=
  r.left.isEmpty && (r.older.all fun o => (s.req? o.1 o.2).isNone) &&
  r.combs.all fun o => !((s.core o.1).comb.any fun e => e.born ≤ o.2)

/-- Something sent through a port. -/
def State.send (s : State) (o : Out) : State := { s with out := o :: s.out }

/-- Every dirty byte of every L1 goes home: a store under write-back that an older generation translated is then performed in the frame
that it had (R81, R82). An L1 may write a line back at any time (R105). -/
def State.l1AllHome (s : State) : State :=
  s.cores.foldl (fun st k =>
    ((st.core k.id).l1.filter fun l => l.bytes.any L1Byte.isDirty).foldl (fun a l => a.l1Clean k.id l.set l.line)
      (st.l1Flush k.id L1Byte.isDirty)) s

/-- The oldest raise that is complete ends: the SETSYS that made it may retire, or its reply goes out (R81). -/
def State.raiseEnd (s : State) : State :=
  match s.raises.find? s.raiseOver with
  | none => s
  | some r =>
    let s1 : State := { s.l1AllHome with raises := s.raises.erase r }
    match r.ccp with
    | some (wing, seq) => s1.send (.reply wing seq 0 [])
    | none => s1

/-- GENERATION_RAISE_COMPLETE (R81). -/
def execGenerationRaiseComplete (s : State) : Result := .next s.raiseEnd

end Sys2Proof.Machine
end

