-- ==== Sys2Proof/Machine/Context.lean ====
section
/-!
DEFINITION. The context image (R392 to R394), swap-out (R387 to R389, R400) and TRET (R390, R399, R400).
-/
namespace Sys2Proof.Machine

/-! ### Engine records (R394) -/

/-- A record before it is written: its queue, and the entry's progress, payload and side data. -/
structure EngRec where
  queue   : Nat
  pos     : Nat
  done    : Nat
  payload : List Byte
  side    : Side

/-- Bytes padded with zeros, or cut, to a length. -/
def padTo (n : Nat) (bs : List Byte) : List Byte := (bs ++ List.replicate n 0).take n

/-- The 96 bytes of a record; a fence mark, for which R394 names no record, has one with nothing but its place (log 31). -/
def EngRec.bytes (r : EngRec) : List Byte :=
  leBytes 1 r.queue ++ leBytes 1 r.pos ++ leBytes 6 0 ++ leBytes 8 r.done ++ leBytes 16 0 ++ padTo 64 r.payload

/-- The side data of a fence mark. -/
def fenceSide (fid : Nat) (i : Issuer) : Side :=
  { window := none, srcFmt := none, off := false, done := 0, hdr := [], trapT := false, reject := false, fence := some fid, batch := 0
    who := i }

/-- The record of an item of a shared queue, if it is the group's. -/
def queueRec (fences : List Fence) (slot q : Nat) : QItem → Option EngRec
  | .entry e =>
    if e.slot == slot then
      some ⟨q, 0, if q == 8 then 0 else e.done, e.cmd,
        { window := none, srcFmt := e.srcFmt, off := e.off, done := if q == 8 then e.done else 0, hdr := e.hdr, trapT := e.trapT
          reject := e.reject, fence := none, batch := 0, who := e.who }⟩
    else none
  | .fence f =>
    match fences.find? fun x => x.fid == f && x.slot == slot with
    | some x => some ⟨q, 0, 0, [], fenceSide f x.who⟩
    | none => none

/-- The instruction word of a matrix entry, its sources and its literal (R394). -/
def MxEntry.payload (e : MxEntry) : List Byte :=
  leBytes 8 (e.x.toNat e.opc) ++ leBytes 8 e.a.toNat ++ leBytes 8 e.b.toNat ++ leBytes 8 e.c.toNat ++
    leBytes 4 ((e.x.lit.getD 0).toNat)

/-- The record of an entry of the matrix queue, with the window of an MMAL that could not be performed (R251). -/
def Core.mxRec (k : Core) (e : MxEntry) : EngRec :=
  match e.fence with
  | some f => ⟨10, 0, 0, [], fenceSide f e.who⟩
  | none =>
    ⟨10, 0, 0, e.payload, { fenceSide 0 e.who with window := k.windows.find? fun v => v.eid == e.eid, fence := none, off := e.off
                                                   batch := e.batch }⟩

/-- Positions counted within each queue. -/
def numberRecs (l : List EngRec) : List EngRec :=
  l.mapIdx fun i r => { r with pos := ((l.take i).filter fun o => o.queue == r.queue).length }

/-- The records of a group, queue by queue in its order. -/
def State.engRecs (s : State) (g : Group) : List EngRec :=
  let k := s.core g.core
  let shared := (List.range 10).flatMap fun q => (k.queue q).filterMap (queueRec k.fences g.slot q)
  numberRecs (shared ++ g.mxq.map k.mxRec)

/-! ### Warp records (R393) -/

/-- A shape entry (R145, R393). -/
def Shape.bytes : Shape → List Byte
  | .general => leBytes 4 0 ++ leBytes 12 0
  | .uniform b => leBytes 4 1 ++ leBytes 4 b.toNat ++ leBytes 8 0
  | .affine b k => leBytes 4 2 ++ leBytes 4 b.toNat ++ leBytes 4 k.toNat ++ leBytes 4 0

def Shape.ofBytes (b : List Byte) : Shape :=
  match bytesNat b 0 1 % 4 with
  | 1 => .uniform (BitVec.ofNat 32 (bytesNat b 4 4))
  | 2 => .affine (BitVec.ofNat 32 (bytesNat b 4 4)) (BitVec.ofNat 32 (bytesNat b 8 4))
  | _ => .general

/-- The words of a register, thread by thread. -/
def VReg.bytes (r : VReg) : List Byte := (List.range 32).flatMap fun t => leBytes 4 (r.get t).toNat

/-- Bytes of a warp record. -/
def warpSize (vregs : Nat) : Nat := 1792 + 144 * vregs

/-- Progress of BIN or ROUTE (R136, R393). -/
def progressNat (p : Option Progress) : Nat :=
  match p with
  | none => 0
  | some q => q.next % 32 + (if q.claim.isSome then 2 ^ 8 else 0) + q.claim.getD 0 % 2 ^ 32 * 2 ^ 32

def progressOf (inUse resid : Bool) (n : Nat) : Option Progress :=
  if inUse then some ⟨bitsN n 0 5, if bitN n 8 then some (bitsN n 32 32) else none, resid⟩ else none

/-- A warp record (R393). -/
def Warp.record (w : Warp) : List Byte :=
  let vs := (List.range w.vregs).map w.getV
  let qs := (List.range 8).map w.getQ
  leBytes 2 w.widx ++ leBytes 1 w.id.lane ++ leBytes 1 w.id.slot ++ leBytes 1 w.vregs ++ leBytes 1 w.splits.length ++
    leBytes 1 w.k.toNat ++ leBytes 1 (if w.progress.isSome then 1 else 0) ++ leBytes 4 w.exec.toNat ++
    leBytes 4 w.fflags.toNat ++ leBytes 8 w.privbase ++ ((List.range 7).flatMap fun i => leBytes 4 (w.p.getD i 0).toNat) ++
    leBytes 8 (progressNat w.progress) ++ leBytes 2 w.wdlimit.toNat ++ leBytes 2 0 ++
    ((List.range 64).flatMap fun i => leBytes 4 (w.getS i).toNat) ++
    padTo 128 ((w.splits.take 8).flatMap Split.bytes) ++
    ((vs ++ qs ++ [w.lr]).flatMap fun r => r.tag.bytes) ++ leBytes 48 0 ++
    (qs ++ [w.lr] ++ vs).flatMap VReg.bytes

/-- A register from its shape entry and its words. -/
def VReg.ofBytes (shape words : List Byte) : VReg :=
  ⟨Shape.ofBytes shape, (List.range 32).map fun t => BitVec.ofNat 32 (bytesNat words (4 * t) 4)⟩

/-- `n` bytes of a list from an offset on. -/
def slice (b : List Byte) (off n : Nat) : List Byte := (b.drop off).take n

/-- What the machine keeps of a warp beside its record (log 31). -/
def Warp.side (w : Warp) : WarpSide :=
  { widx := w.widx, join := w.joinCtr, born := w.born, resid := (w.progress.map (·.resid)).getD false
    mwait := (w.splits.mapIdx fun i p => (i, p)).findSome? fun e =>
      match e.2.st with | .blocked (.batch n) => if e.2.phase == 1 then some (e.1, n) else none | _ => none }

/-- A split that waited at MWAIT waits again for the batch that it waited for (R274). -/
def WarpSide.waits (d : WarpSide) (i : Nat) (p : Split) : Split :=
  match d.mwait with
  | some (j, n) => if i == j then { p with st := .blocked (.batch n), phase := 1 } else p
  | none => p

/-- A warp from its record, in its own slot, and from what was kept beside it; `more` gives its list positions 8 and up. -/
def Warp.ofRecord (c : CoreId) (grp clk : Nat) (b : List Byte) (more : List Split) (d : WarpSide) : Warp :=
  let vregs := bytesNat b 4 1
  let n := bytesNat b 5 1
  let shapes := 448
  let qoff := 448 + 16 * (vregs + 12)
  let reg (i off : Nat) : VReg := VReg.ofBytes (slice b (shapes + 16 * i) 16) (slice b off 128)
  { id := ⟨c.die, c.core, bytesNat b 2 1, bytesNat b 3 1⟩, grp := grp, widx := bytesNat b 0 2, vregs := vregs
    v := (List.range vregs).map fun i => reg i (qoff + 1152 + 128 * i)
    q := (List.range 8).map fun i => reg (vregs + i) (qoff + 128 * i)
    lr := reg (vregs + 8) (qoff + 1024)
    s := (List.range 64).map fun i => BitVec.ofNat 32 (bytesNat b (64 + 4 * i) 4)
    p := (List.range 7).map fun i => BitVec.ofNat 32 (bytesNat b (24 + 4 * i) 4)
    k := BitVec.ofNat 7 (bytesNat b 6 1)
    exec := BitVec.ofNat 32 (bytesNat b 8 4), fflags := BitVec.ofNat 6 (bytesNat b 12 4)
    splits := (((List.range (min n 8)).map fun i => Split.ofBytes (slice b (320 + 16 * i) 16)) ++ more).mapIdx d.waits
    ibufs := [], fetching := none, gld := 0, gst := 0, spm := 0, privbase := bytesNat b 16 8
    wdlimit := BitVec.ofNat 16 (bytesNat b 60 2), waitFrom := none
    progress := progressOf (bytesNat b 7 1 % 2 == 1) d.resid (bytesNat b 52 8)
    fails := [], readyAt := clk, held := false, joinCtr := d.join, age := clk, born := d.born }

/-! ### The image (R392) -/

def imageMagic : Nat := 0x47584341

/-- Numbers rounded up to a multiple. -/
def alignUp (n k : Nat) : Nat := (n + k - 1) / k * k

/-- Section offsets of an image: counters, tiles, engine records, scratchpad and its size. -/
structure Layout where
  cnt  : Nat
  tile : Nat
  eng  : Nat
  spm  : Nat
  size : Nat

def layoutOf (warps vregs counters tiles neng spm : Nat) : Layout :=
  let cnt := 256 + warps * warpSize vregs
  let tile := alignUp (cnt + 8 * counters) 64
  let eng := tile + 16384 * tiles
  let sp := alignUp (eng + 96 * neng) 512
  ⟨cnt, tile, eng, sp, sp + 512 * spm⟩

/-- The header (R392). -/
def Group.header (g : Group) (nwarps neng cause : Nat) : List Byte :=
  let l := layoutOf nwarps g.res.vregs g.res.counters g.res.tiles neng g.res.spm
  leBytes 4 imageMagic ++ leBytes 2 1 ++ leBytes 2 nwarps ++ leBytes 8 l.size ++ leBytes 2 g.asid ++ leBytes 1 g.wing ++
    leBytes 1 cause ++ leBytes 2 (g.slot % 2 ^ 12 + g.core.core % 16 * 2 ^ 12) ++ leBytes 1 g.cat ++ leBytes 1 0 ++
    leBytes 2 g.node ++ leBytes 2 g.gidx ++ leBytes 2 g.ngroups ++ leBytes 2 0 ++ leBytes 4 (resBits g.res) ++
    leBytes 2 g.res.spm ++ leBytes 2 g.res.priv ++ leBytes 8 g.privva ++ leBytes 1 g.nextb ++ leBytes 1 0 ++
    leBytes 2 g.batchDone.toNat ++ leBytes 2 neng ++ leBytes 10 0 ++ g.trap.bytes ++
    ((List.range 8).flatMap fun i => leBytes 8 (g.wptr.getD i 0).toNat) ++
    [256, l.cnt, l.tile, l.eng, l.spm].flatMap (leBytes 8) ++ leBytes 56 0

/-- Live warps of a group, in ascending warp index (R393). -/
def State.liveWarps (s : State) (g : Group) : List Warp :=
  let ws := (s.warpsOf g.core g.slot).filter fun w => !w.splits.isEmpty
  (ws.foldl (fun l w => insertAsc w.widx l) []).flatMap fun i => ws.filter fun w => w.widx == i

/-- The whole image of a group (R392 to R394). -/
def State.image (s : State) (g : Group) (cause : Nat) : List Byte :=
  let ws := s.liveWarps g
  let recs := s.engRecs g
  let l := layoutOf ws.length g.res.vregs g.res.counters g.res.tiles recs.length g.res.spm
  let b1 := g.header ws.length recs.length cause ++ ws.flatMap Warp.record ++ g.ctrs.flatMap fun c => leBytes 8 c.toNat
  let b2 := padTo l.tile b1 ++ g.tiles.flatMap fun t => t.flatMap fun r => r.flatMap fun x => leBytes 4 x.toNat
  padTo l.spm (b2 ++ recs.flatMap EngRec.bytes) ++ s.grpSpm g 0 (512 * g.res.spm)

/-! ### Swap-out (R387 to R389) -/

/-- The fault-service packet of a group (R389). -/
def Group.service (g : Group) (frame cause : Nat) : List Byte :=
  g.trap.bytes ++ leBytes 8 frame ++ leBytes 8 0 ++ leBytes 2 (g.slot % 2 ^ 12 + g.core.core % 16 * 2 ^ 12) ++ leBytes 1 cause ++
    leBytes 1 0 ++ leBytes 2 (4 * 2 ^ 13) ++ leBytes 2 0 ++ leBytes 2 g.asid ++ leBytes 2 g.node ++ leBytes 2 g.gidx ++
    leBytes 2 g.ngroups

/-- A packet on its way to a die's mailbox. -/
def State.sendMail (s : State) (die : Nat) (b : List Byte) : State := s.modDie die fun d => { d with inbound := d.inbound ++ [b] }

/-- Whether the head of a held group's matrix queue cannot be performed: it has been stopped, or is a fence behind a
stopped entry of the group. -/
def State.mxStuck (s : State) (g : Group) : Bool :=
  let k := s.core g.core
  let halted := (List.range 10).any fun n => (k.queue n).any fun i =>
    match i with | .entry e => e.slot == g.slot && e.stopped | .fence _ => false
  match g.mxHead with
  | none => true
  | some e => e.stopped || (e.fence.isSome && halted)

/-- Whether a held group has drained (R388, steps 1 and 2). -/
def State.drained (s : State) (g : Group) : Bool :=
  let k := s.core g.core
  let ws := s.warpsOf g.core g.slot
  ws.all (fun w => w.gld == 0 && w.gst == 0 && w.spm == 0 && !w.splits.any Split.inside) &&
  !(k.heldOps.any fun h => h.slot == g.slot) &&
  !(k.runs.any fun r => r.slot == g.slot) &&
  (s.mxStuck g || !k.windows.any fun v => v.slot == g.slot)

/-- The copy, binning and pooling entries and fence marks of a group leave their queues, with the fences kept (R126). -/
def State.takeEntries (s : State) (c : CoreId) (slot : Nat) : State :=
  s.modCore c fun k =>
    let mine (i : QItem) : Bool :=
      match i with
      | .entry e => e.slot == slot
      | .fence f => k.fences.any fun x => x.fid == f && x.slot == slot
    let bagMine := match k.headEntry 9 with | some e => e.slot == slot | none => false
    let k1 := (List.range 10).foldl (fun a n => a.modQueue n fun q => q.filter fun i => !mine i) k
    { k1 with windows := k1.windows.filter fun v => v.slot != slot, bag := if bagMine then none else k1.bag }

/-- The party that writes a context: a curator core's, under address space 0 (R387). -/
def State.frameWho (s : State) (die : Nat) : Who := ⟨⟨die, 16⟩, 0, s.dieWing die, 0xFFF⟩

/-- Private data and spill areas written back (R388, step 4); the failure of a spill area. -/
def State.saveWarps (s : State) (g : Group) : List Warp → Except AccFail State
  | [] => .ok s
  | w :: ws =>
    match s.spillOut w g with
    | .error f => .error f
    | .ok s1 => (s1.privOut w.id true).saveWarps g ws

/-- A context that could not be written: the core is reported, and the group stays held (R400). -/
def State.swapStuck (s : State) (g : Group) (cause : Nat) (f : AccFail) : State :=
  ((s.found { cls := f.cls, err := f.err }).modGroup g.core g.slot fun u => { u with phase := .stuck cause }).report 15
    (reportBody .core f.cls f.reason g.core.die none false 0
      (some (ownerless { cls := f.cls, reason := f.reason, kind := 2, va := some f.va, aux := f.aux })))

/-- Steps 3 to 7 of a swap-out to a frame (R388). -/
def State.swapTo (s : State) (g : Group) (cause frame : Nat) : State :=
  let c := g.core
  let s0 := s.combFlush c fun _ => true
  match s0.saveWarps g (s0.liveWarps g) with
  | .error f => s.swapStuck g cause f
  | .ok s1 =>
    let img := s1.image g cause
    match s1.pagesUp (s1.frameWho c.die) .write frame img.length with
    | .error f => s.swapStuck g cause f
    | .ok ps =>
      let recs := s1.engRecs g
      let ws := s1.liveWarps g
      let s2 := ((s1.writePages (s1.frameWho c.die) ps img).releaseActs c true).takeEntries c g.slot
      let s3 := s2.modGroup c g.slot fun u =>
        { u with
          phase := .swapped frame cause, tiles := [], ctrs := [], mxq := [], deferred := []
          reserved := ws.map (·.id), saved := recs.map (·.side)
          keeps := ws.map Warp.side }
      ({ s3 with warps := s3.warps.filter fun (w : Warp) => !(w.id.coreId == c && w.grp == g.slot) } : State).sendMail c.die
        (g.service frame cause)

/-- SWAP_OUT: once the group has drained, a frame is popped and its context written; with none it waits, and says so
(R387, R388). -/
def State.swapOut (s : State) (c : CoreId) (slot : Nat) : State :=
  match s.group? c slot with
  | none => s
  | some g =>
    match g.phase with
    | .held cause =>
      if !s.drained g then s
      else
        match (s.die c.die).frames with
        | [] => (s.modGroup c slot fun u => { u with phase := .frameWait cause }).sendMail c.die (g.service 0 3)
        | f :: rest => (s.modDie c.die fun d => { d with frames := rest }).swapTo g cause f
    | _ => s

/-- SWAP_OUT (R388). -/
def execSwapOut (c : CoreId) (slot : Nat) (s : State) : Result := .next (s.swapOut c slot)

/-- FRAME_WAIT_RESUME: a frame has been pushed (R387). -/
def execFrameWaitResume (c : CoreId) (slot : Nat) (s : State) : Result :=
  .next (
    if (s.die c.die).frames.isEmpty then s
    else s.modGroup c slot fun g => match g.phase with | .frameWait cause => { g with phase := .held cause } | _ => g)

/-! ### TRET (R390, R399, R400) -/

/-- What TRET needs of a header. -/
structure Header where
  ok     : Bool
  nwarps : Nat
  size   : Nat
  asid   : Nat
  wing   : Nat
  core   : Nat
  slot   : Nat
  cat    : Nat
  node   : Nat
  gidx   : Nat
  ngrps  : Nat
  privva : Nat
  res    : Res
  nextb  : Nat
  done   : Nat
  neng   : Nat
  trap   : List Byte
  wptr   : List DWord

def Header.parse (b : List Byte) : Header :=
  { ok := bytesNat b 0 4 == imageMagic && bytesNat b 4 2 == 1, nwarps := bytesNat b 6 2, size := bytesNat b 8 8
    asid := bytesNat b 16 2, wing := bytesNat b 18 1 % 16, cat := bytesNat b 22 1, node := bytesNat b 24 2, gidx := bytesNat b 26 2
    ngrps := bytesNat b 28 2, privva := bytesNat b 40 8, core := bitsN (bytesNat b 20 2) 12 4, slot := bitsN (bytesNat b 20 2) 0 12
    res := resOf (bytesNat b 32 4) (bytesNat b 36 2) (bytesNat b 38 2)
    nextb := bytesNat b 48 1 % 16, done := bytesNat b 50 2, neng := bytesNat b 52 2, trap := slice b 64 32
    wptr := (List.range 8).map fun i => BitVec.ofNat 64 (bytesNat b (96 + 8 * i) 8) }

/-- An entry of a shared queue restored from its record (R126, R390). -/
def restoreEntry (eid slot : Nat) (b : List Byte) (d : Side) : QItem :=
  let q := bytesNat b 0 1
  let size := if q == 9 then 64 else 48
  match d.fence with
  | some f => .fence f
  | none =>
    .entry { eid := eid, slot := slot, off := d.off, cmd := slice b 32 size, hdr := d.hdr
             done := if q == 8 then d.done else bytesNat b 8 8, started := false, stopped := false, trapT := d.trapT
             reject := d.reject, needs := [], who := d.who, srcFmt := d.srcFmt }

/-- An entry of the matrix queue restored from its record; its formats are read again (R260, R390). -/
def restoreMx (eid : Nat) (b : List Byte) (d : Side) : MxEntry :=
  let w := bytesNat b 32 8
  let lit : Option Word := if w % 4 == 2 then some (BitVec.ofNat 32 (bytesNat b 64 4)) else none
  let n (o : Nat) : DWord := BitVec.ofNat 64 (bytesNat b o 8)
  match d.fence with
  | some f => fenceMark f (LongOp.ofBits 0 none) d.who
  | none =>
    { eid := eid, opc := BitVec.ofNat 8 (field w 2 8), x := LongOp.ofBits w lit, a := n 40, b := n 48, c := n 56, off := d.off
      batch := d.batch, fence := none, fmts := none, needs := [], stopped := false, who := d.who }

/-- Side data of a record. -/
def Group.sideAt (g : Group) (i : Nat) : Side :=
  g.saved.getD i { fenceSide 0 ⟨⟨g.core.die, g.core.core, 0, 0⟩, 0, 0, 0, 0⟩ with fence := none }

/-- Engine records put back into their queues, in order, ahead of what the group issues next (R126, R390). DESIGN CHOICE (log 36): a queue
without room for them grows beyond its depth, until it has been worked off. -/
def State.restoreRecs (s : State) (g : Group) (recs : List (List Byte)) : State :=
  (recs.mapIdx fun i b => (i, b)).foldl
    (fun st e =>
      let (eid, st1) := st.fresh
      let q := bytesNat e.2 0 1
      if q == 10 then
        (st1.modGroup g.core g.slot fun u => { u with mxq := u.mxq ++ [restoreMx eid e.2 (g.sideAt e.1)] }).modCore g.core fun k =>
          { k with windows := k.windows ++ (g.sideAt e.1).window.toList.map fun v => { v with eid := eid } }
      else if q < 10 then st1.modQueue g.core q fun l => l ++ [restoreEntry eid g.slot e.2 (g.sideAt e.1)]
      else st1) s

/-- List positions 8 and up of a warp, read back from its spill area (R344). -/
def State.spillBack (s : State) (g : Group) (res : Res) (b : List Byte) : Except AccFail (List Split) :=
  let n := bytesNat b 5 1
  if n ≤ 8 then .ok []
  else
    let at_ := bytesNat b 16 8 + res.priv * 128
    match s.pagesUp g.whoIs .read at_ (16 * (n - 8)), s.readVA g.whoIs .read at_ (16 * (n - 8)) with
    | .error f, _ => .error f
    | _, .error f => .error f
    | .ok ps, .ok bs =>
      match ps.find? fun p => p.2.2.ro with
      | some p => .error (plainFail 2 rWRITE p.1)
      | none => .ok ((List.range (n - 8)).map fun i => Split.ofBytes (slice bs (16 * i) 16))

/-- The warps of an image. -/
def State.restoreWarps (s : State) (g : Group) (res : Res) : List (List Byte) → Except AccFail (List Warp)
  | [] => .ok []
  | b :: bs =>
    match s.spillBack g res b with
    | .error f => .error f
    | .ok more =>
      let side := (g.keeps.find? fun e => e.widx == bytesNat b 0 2).getD ⟨bytesNat b 0 2, none, false, none, s.clk⟩
      match s.restoreWarps g res bs with
      | .error f => .error f
      | .ok ws => .ok (Warp.ofRecord g.core g.slot (s.clk + 1) b more side :: ws)

/-- Whether freed resources fit again (R399): the scratchpad's place, where they do. -/
def State.refit (s : State) (c : CoreId) (r : Res) (lanes : List Nat) : Option Nat :=
  let occ := s.occupied c
  let room := lanes.all fun l => laneRegs occ l + (lanes.filter (· == l)).length * r.vregs ≤ 192
  if room && s.sumsFit c r 0 then s.spmFit c (r.spm * 512) else none

/-- A list cut into pieces of a length. -/
def cutEvery (n : Nat) : Nat → List Byte → List (List Byte)
  | 0, _ => []
  | k + 1, b => b.take n :: cutEvery n k (b.drop n)

/-- The group restored from its image: its status in s, or the failure of a spill area. -/
def State.restore (s : State) (g : Group) (h : Header) (img : List Byte) : Except AccFail (State × Word) :=
  let c := g.core
  let l := layoutOf h.nwarps h.res.vregs h.res.counters h.res.tiles h.neng h.res.spm
  let recs := cutEvery (warpSize h.res.vregs) h.nwarps (img.drop 256)
  match s.refit c h.res (recs.map fun b => bytesNat b 2 1) with
  | none => .ok (s, 1)
  | some base =>
    match s.restoreWarps g h.res recs with
    | .error f => .error f
    | .ok ws =>
      let row (b : List Byte) : List Word := wordsOf b
      let tiles := (cutEvery 16384 h.res.tiles (slice img l.tile (16384 * h.res.tiles))).map fun t => (cutEvery 256 64 t).map row
      let g1 : Group :=
        { g with
          res := h.res, spmBase := base, tiles := tiles
          ctrs := (List.range h.res.counters).map fun i => BitVec.ofNat 64 (bytesNat img (l.cnt + 8 * i) 8)
          wptr := h.wptr, nextb := h.nextb, batchDone := BitVec.ofNat 16 h.done, phase := .running, preempt := none
          reserved := [], keeps := [] }
      let s1 := s.modGroup c g.slot fun _ => g1
      let s2 : State := { s1 with warps := s1.warps ++ ws.map fun w => if w.running.isSome then w else w.schedule (w.splits.length - 1) }
      let s3 := (s2.grpSpmPuts g1 0 (slice img l.spm (512 * h.res.spm))).restoreRecs g1
        (cutEvery 96 h.neng (slice img l.eng (96 * h.neng)))
      .ok (s3.modGroup c g.slot fun u => { u with saved := [] }, 0x80000000 ||| BitVec.ofNat 32 g.slot)

/-- A second copy of an image, whose group its core no longer holds: R400 leaves the state of the group slot undefined. The group that
stands in it has the header's shape, is placed as a new one (R372), and every byte of its context is free (log 45). -/
def State.restoreCopy (s : State) (c : CoreId) (h : Header) : Except AccFail (State × Word) :=
  match placeWarps (lanesOf c) (s.core c).place h.res.vregs (s.occupied c) (List.range h.nwarps) with
  | none => .ok (s, 1)
  | some place =>
    let n := warpSize h.res.vregs
    let l := layoutOf h.nwarps h.res.vregs h.res.counters h.res.tiles h.neng h.res.spm
    let (s1, free) := s.freeBytes l.size
    let mk (i : Nat) (p : Nat × Nat) : List Byte :=
      leBytes 2 i ++ [p.1, p.2, h.res.vregs, 1].flatMap (leBytes 1) ++ slice free (256 + n * i + 6) (n - 6)
    let g := Group.create c h.slot h.wing ⟨[], h.cat, 0, h.privva, 0, 0, 0, 0, h.asid, h.node, h.gidx, h.ngrps⟩ h.res 0
    match ({ s1 with groups := s1.groups ++ [g] } : State).restore g h (free.take 256 ++ (place.mapIdx mk).flatten ++ free.drop l.cnt) with
    | .error f => .error f
    | .ok (s2, st) => .ok (if st == 1 then s else s2, st)

/-- The image at f, read whole with kind Read under address space 0; its header first. -/
def State.readImage (s : State) (w : Who) (f : Nat) : Except AccFail (Header × List Byte) :=
  match s.readVA w .read f 256 with
  | .error e => .error e
  | .ok hb =>
    let h := Header.parse hb
    if !h.ok then .ok (h, hb)
    else
      match s.readVA w .read f (min h.size (2 ^ 23)) with
      | .error e => .error e
      | .ok img => .ok (h, img)

/-- What a core's combining buffer and L1 hold of some bytes that it is to read goes home first (R112). -/
def State.pullVA (s : State) (w : Who) (va n : Nat) : State :=
  match s.pagesUp w .read va n with
  | .error _ => s
  | .ok ps => s.engPull w.core ps

/-- The same of the image at f. -/
def State.imageHome (s : State) (w : Who) (f : Nat) : State :=
  let s1 := s.pullVA w f 256
  match s1.readVA w .read f 256 with
  | .error _ => s1
  | .ok hb => if (Header.parse hb).ok then s1.pullVA w f (min (Header.parse hb).size (2 ^ 23)) else s1

/-- TRET's checks before either form acts: a multiple of 512, and an image; `go` has the group that it names. -/
def State.tret (s : State) (w : Warp) (x : LongOp) (go : State → Header → List Byte → CoreId → Result) : Result :=
  let f := (w.usrc x.lit .d64 x.a).toNat
  let who : Who := { (s.grp w).whoIs with asid := 0 }
  if f % 512 != 0 then .next (s.trap w (causeAlign 0xFF .read f))
  else
    let s1 := s.imageHome who f
    match s1.readImage who f with
    | .error e => .next (s1.trapFound w (e.engine .read))
    | .ok (h, img) =>
      if !h.ok then .next (s1.retire (w.writeS x.d 2) (longLen x) 1) else go s1 h img ⟨w.id.die, h.core⟩

/-- The status of a TRET written, and its warp moves on. -/
def State.tretDone (s : State) (w : Warp) (x : LongOp) (st : Word) : Result :=
  .next ((s.modWarp w.id fun u => u.writeS x.d st).retireAt w.id (longLen x) 1)

/-- TRET.res (R390, R399, R400). An image restored while its group is swapped out is taken for the group's own (log 45). -/
def execTretRes (x : LongOp) (s : State) : Result :=
  s.issueCurator 0xE3 x fun w =>
    s.tret w x fun s h img c =>
      match s.group? c h.slot with
      | none =>
        if s.dieWing c.die != h.wing then s.tretDone w x 2
        else
          match s.restoreCopy c h with
          | .error e => .next (s.trapFound w (e.engine .read))
          | .ok (s1, st) => s1.tretDone w x st
      | some g =>
        if g.resident then s.tretDone w x 1
        else if s.dieWing c.die != g.wing then s.tretDone w x 2
        else
          match s.restore g h img with
          | .error e => .next (s.trapFound w (e.engine .read))
          | .ok (s1, st) => s1.tretDone w x st

/-- TRET.kill: the group is killed without a new report (R386, R399). -/
def execTretKill (x : LongOp) (s : State) : Result :=
  s.issueCurator 0xE3 x fun w =>
    s.tret w x fun s h _ c =>
      match s.group? c h.slot with
      | none => s.tretDone w x 0x80000000
      | some g => (s.killGroup g none).tretDone w x 0x80000000

end Sys2Proof.Machine
end

