-- ==== Sys2Proof/Machine/Catalogue.lean ====
section
/-!
DEFINITION. CCP messages at their receipt (R409 to R411, R416), catalogues (R364 to R366), kicks (R368, R369) and replays (R370,
R374).
-/
namespace Sys2Proof.Machine

/-! ### Ports (R401) -/

/-- The wing whose PORTS mask holds a port. -/
def State.portWing (s : State) (port : Nat) : Option Wing := s.wings.find? fun w => w.holds && w.ports.getLsbD port

/-- Whether a port carries a frame: CCP on a host port, at Stage 0 of the spare docent only on that of its own I/O die (R18; that the
other drops and counts it is the model's choice, log 44); RoCEv2 for the wing that the port belongs to. A queue pair that is unknown belongs to no other wing. -/
def State.carries (s : State) (port : Nat) (k : FrameKind) : Bool :=
  match k with
  | .ccp _ => (port == 0 || port == 8) && (s.docent.stage != 0 || s.docent.socket == 18 || portSocket port == s.docent.socket)
  | .roce qp =>
    match s.portWing port with
    | none => false
    | some w => ((s.qp? qp).map fun q => q.wing == w.id).getD true
  | .other => false

/-- A frame that its port does not carry is dropped and counted, saturating (R401, R418). -/
def State.frame (s : State) (port : Nat) (k : FrameKind) : State :=
  if s.carries port k then s
  else { s with ports := s.ports.map fun p => if p.id == port then { p with dropped := min (p.dropped + 1) (2 ^ 32 - 1) } else p }

/-! ### CCP (R409 to R411, R416) -/

/-- Reply codes (R366, R369, R411). -/
def codeOK : Nat := 0x00
def codeFORMAT : Nat := 0x01
def codeNODE : Nat := 0x02
def codeEDGE : Nat := 0x03
def codePATCH : Nat := 0x04
def codeFIT : Nat := 0x05
def codeFULL : Nat := 0x06
def codeINUSE : Nat := 0x07
def codeSTALE : Nat := 0x10
def codeNOCAT : Nat := 0x11
def codeBADSLOT : Nat := 0x12
def codeKFULL : Nat := 0x13
def codeNOTREADY : Nat := 0x30
def codeDENIED : Nat := 0x31
def codeBADMSG : Nat := 0x32
def codeBUSY : Nat := 0x33
def codeNOSLOT : Nat := 0x34
def codeBADSIG : Nat := 0x35

/-- Who may send a type (R411). -/
inductive Sender where
  | wing | operator | any
  deriving DecidableEq, Repr

/-- The TYPEs that the module serves, each with the stage that it needs and who may send it (R411, R416). -/
def ccpTypes : List (Nat × Nat × Sender) :=
  [(0x01, 0, .any), (0x02, 2, .wing), (0x03, 2, .wing), (0x04, 2, .wing), (0x06, 2, .wing), (0x07, 2, .wing), (0x08, 2, .wing),
   (0x09, 2, .wing), (0x0A, 2, .wing), (0x0B, 2, .wing), (0x10, 1, .operator), (0x11, 2, .any), (0x12, 1, .operator),
   (0x13, 1, .wing), (0x14, 1, .any), (0x18, 0, .operator), (0x19, 0, .operator), (0x1A, 1, .operator), (0x1B, 0, .any)]

/-- Stage and senders of a TYPE; one that the table does not list, or that only the module sends, needs Stage 2 as all other types do
(R416). -/
def ccpType (ty : Nat) : Nat × Sender := ((ccpTypes.find? fun t => t.1 == ty).map (·.2)).getD (2, .any)

/-- Whether a message is well formed as one of a TYPE: its MAGIC, VERSION and LENGTH, and no reply; reserved FLAGS are ignored (R4, R409;
that a wrong MAGIC or VERSION and a reply's flag draw BADMSG too is the model's choice, log 44). -/
def ccpFormOk (m : Ccp) (ty : Nat) : Bool :=
  m.magic == 0x4343 && m.version == 1 && m.type == ty && m.flags % 2 == 0 && m.length ≤ 8960 && m.bodyOk

/-- The sender's last accepted SEQ; none of a sender that has no control key (R417). -/
def State.lastSeq (s : State) (wing : Nat) : Option Nat :=
  if wing == 15 then some s.docent.opIn
  else if wing < 15 && (s.wing wing).st != .free then some (s.wing wing).inSeq
  else none

/-- A sender's current control key (R417). -/
def State.controlKey (s : State) (wing : Nat) : Option Nat := if wing == 15 then some s.docent.opKey else (s.wing wing).control

/-- Whether a message's TAG is right under its sender's control key (R409). -/
def State.tagOk (s : State) (m : Ccp) : Bool := m.tag.isSome && m.tag == s.controlKey m.wing

/-- What unwrapping under a key gives; none where the pair was wrapped under another (R413, R417, log 7). -/
def unwrapKeys (w : Wrapped) (key : Option Nat) : Option (Nat × Nat) := if key == some w.under then some (w.first, w.second) else none

/-- A message with a wrong tag or an old SEQ is dropped and counted (R409). -/
def State.ccpDrop (s : State) (m : Ccp) : State :=
  let up (n : Nat) : Nat := min (n + 1) (2 ^ 32 - 1)
  if m.wing == 15 then { s with docent := { s.docent with opDropped := up s.docent.opDropped } }
  else s.modWing m.wing fun w => { w with dropped := up w.dropped }

/-- An accepted message's SEQ becomes the sender's last (R409). -/
def State.ccpAccept (s : State) (m : Ccp) : State :=
  if m.wing == 15 then { s with docent := { s.docent with opIn := m.seq } } else s.modWing m.wing fun w => { w with inSeq := m.seq }

/-- The reply to a message. -/
def State.reply (s : State) (m : Ccp) (code : Nat) (body : List Nat) : State := s.send (.reply m.wing m.seq code body)

/-- What every message of a TYPE meets: the port that it comes by, its tag and SEQ, the stage, its sender and its form; `f` then acts on
it (R401, R409, R411, R416). -/
def State.ccp (s : State) (m : Ccp) (ty : Nat) (f : State → State) : State :=
  match s.lastSeq m.wing with
  | none => if s.carries m.port (.ccp m) then s.ccpDrop m else s.frame m.port (.ccp m)
  | some last =>
    if !s.carries m.port (.ccp m) then s.frame m.port (.ccp m)
    else if !s.tagOk m || m.seq ≤ last then s.ccpDrop m
    else
      let s1 := s.ccpAccept m
      let (stage, who) := ccpType ty
      if s1.docent.stage < stage then s1.reply m codeNOTREADY []
      else if (who == .wing && m.wing == 15) || (who == .operator && m.wing != 15) then s1.reply m codeDENIED []
      else if !ccpFormOk m ty then s1.reply m codeBADMSG []
      else f s1

/-- A message whose TYPE has no row of its own: accepted, it draws BADMSG, or NOTREADY before Stage 2 (R409, R411, R416). -/
def State.unlisted (s : State) (m : Ccp) : State := s.ccp m m.type fun s1 => s1.reply m codeBADMSG []

/-- Whether a message's TYPE has a row of its own. -/
def ccpListed (m : Ccp) : Bool := ccpTypes.any fun t => t.1 == m.type

/-- The message that a row serves. -/
def ccpOf : Instr → Option Ccp
  | .catload m _ | .catdrop m _ | .kick m _ _ _ | .genraise m _ | .preempt m _ _ _ | .mrreg m _ | .mrdrop m _ | .qpcreate m _
  | .qpdestroy m _ | .resync m | .attest m _ | .wingset m _ | .slotset m _ | .fwload m _ | .wingquiesce m _ | .keyload m _ _
  | .keyrevoke m _ | .mgmtrd m _ | .mgmtwr m _ _ => some m
  | .portFrameReceive port (.ccp m) => if ccpListed m then none else some { m with port := port }
  | _ => none

/-- A wing's message that needs the wing active (R411: NOTREADY). -/
def State.ccpActive (s : State) (m : Ccp) (ty : Nat) (f : State → State) : State :=
  s.ccp m ty fun s1 =>
    let w := s1.wing m.wing
    if w.st == .active && w.revoking.isNone then f s1 else s1.reply m codeNOTREADY []

/-! ### The catalogue binary (R364 to R366) -/

/-- The header of an image, its records and their reserved bits. -/
structure CatImage where
  nodes   : List (List Byte)
  edges   : List Nat
  slots   : List Nat
  imageva : Nat
  donectr : Nat
  doneasid : Nat

/-- The sections of an image. -/
def CatImage.parse (b : List Byte) : CatImage :=
  let nn := bytesNat b 6 2
  let ne := bytesNat b 8 2
  let ns := bytesNat b 10 2
  let rest := b.drop (64 * (1 + nn))
  { nodes := cutEvery 64 nn (b.drop 64), edges := (cutEvery 8 ne rest).map leNat
    slots := (cutEvery 8 ns (rest.drop (8 * ne))).map leNat
    imageva := bytesNat b 16 8, donectr := bytesNat b 24 8, doneasid := bytesNat b 12 2 }

/-- A node record whose reserved bits are all clear. -/
def nodeClean (n : List Byte) : Bool :=
  bytesNat n 5 1 / 16 == 0 && bitsN (bytesNat n 10 2) 9 6 == 0 && bytesNat n 20 4 == 0

/-- Check 1 of R366: FORMAT. -/
def CatImage.formatOk (b : List Byte) : Bool :=
  let nn := bytesNat b 6 2
  let ne := bytesNat b 8 2
  let ns := bytesNat b 10 2
  let c := CatImage.parse b
  bytesNat b 0 4 == 0x56414341 && bytesNat b 4 2 == 1 && 1 ≤ nn && nn ≤ 4096 && ne ≤ 16384 && ns ≤ 1024 &&
  b.length == 64 * (1 + nn) + 8 * (ne + ns) && bytesNat b 14 2 == 0 && leNat (slice b 32 32) == 0 && c.imageva % 64 == 0 &&
  c.donectr % 8 == 0 && !(c.donectr != 0 && c.doneasid == 0) && c.nodes.all nodeClean && c.edges.all (· < 2 ^ 32) &&
  c.slots.all fun p => p < 2 ^ 25 && bitsN p 21 3 == 0

/-- A node from its record. -/
def Node.parse (n : List Byte) : Node :=
  { entry := bytesNat n 0 4, id := bytesNat n 4 2 % 4096, asid := bytesNat n 6 2, groups := bytesNat n 8 2
    cohort := bitN (bytesNat n 10 2) 15, dies := BitVec.ofNat 9 (bytesNat n 10 2)
    res := resOf (bytesNat n 12 4) (bytesNat n 16 2) (bytesNat n 18 2), privva := bytesNat n 24 8
    params := (List.range 8).map fun i => BitVec.ofNat 32 (bytesNat n (32 + 4 * i) 4) }

/-- A node's fields in their ranges (R365, R366). -/
def Node.ok (n : Node) : Bool :=
  n.groups != 0 && n.dies != 0 && n.res.ok && n.entry % 64 == 0 && n.privva % 128 == 0 && n.asid != 0

/-- Nodes that no node left waits for are taken away, again and again; what is left lies on a cycle. -/
def onCycle (edges : List (Nat × Nat)) : Nat → List Nat → List Nat
  | 0, l => l
  | k + 1, l => onCycle edges k (l.filter fun n => edges.any fun e => e.2 == n && l.contains e.1)

/-- Groups of a node that one empty core holds at once (R372). -/
def Res.perCore (r : Res) : Nat :=
  let lim (have_ each : Nat) : Nat := if each == 0 then 64 else have_ / each
  min (min (64 * min 8 (192 / r.vregs) / r.warps) 64) (min (min (lim 32 r.tiles) (lim 256 r.counters)) (lim 4096 r.spm))

/-- Check 5 of R366: FIT. -/
def Node.fits (n : Node) : Bool :=
  1 ≤ n.res.perCore && (!n.cohort || n.groups ≤ (diesOf n.dies).length * 16 * n.res.perCore)

/-- A patch slot from its record (R365). -/
def Slot.parse (p : Nat) : Slot := ⟨bitsN p 0 16, bitsN p 16 5, bitN p 24⟩
/-- Its size in bytes. -/
def Slot.size (p : Slot) : Nat := if p.wide then 8 else 4
/-- Check 4 of R366: PATCH. -/
def Slot.ok (p : Slot) (ids : List Nat) : Bool := ids.contains p.node && p.offset % p.size == 0 && p.offset + p.size ≤ 32

/-- The parsed parts of an image that passes checks 1 to 5, or the code of the first that fails (R366). -/
def catCheck (b : List Byte) : Except Nat (CatImage × List Node × List (Nat × Nat) × List Slot) :=
  let c := CatImage.parse b
  if b.length < 64 || !CatImage.formatOk b then .error codeFORMAT
  else
    let nodes := c.nodes.map Node.parse
    let ids := nodes.map (·.id)
    let edges := c.edges.map fun e => (e % 2 ^ 16, e / 2 ^ 16)
    let slots := c.slots.map Slot.parse
    if ids.eraseDups.length != ids.length || !nodes.all Node.ok then .error codeNODE
    else if !(edges.all fun e => ids.contains e.1 && ids.contains e.2) || !(onCycle edges ids.length ids).isEmpty then .error codeEDGE
    else if !(slots.all fun p => p.ok ids) then .error codePATCH
    else if !nodes.all Node.fits then .error codeFIT
    else .ok (c, nodes, edges, slots)

/-- Handles that a catalogue unit has given out. -/
def State.handles (s : State) (unit : Nat) : List Nat := (s.cats.filter fun c => s.unitOf c.wing == unit).map (·.handle)

/-- A catalogue is checked and stored (R364, R366); its handle is one that the unit does not hold. -/
def State.catload (s : State) (m : Ccp) (image : List Byte) : State :=
  s.ccpActive m 0x02 fun s1 =>
    match catCheck image with
    | .error code => s1.reply m code []
    | .ok (c, nodes, edges, slots) =>
      let used := s1.handles (s1.unitOf m.wing)
      if 255 ≤ used.length then s1.reply m codeFULL []
      else
        match s1.pickUnused used 1 255 with
        | (none, s2) => s2.reply m codeFULL []
        | (some h, s2) =>
          let k : Catalogue :=
            { handle := h, wing := m.wing, imageva := c.imageva, donectr := c.donectr, doneasid := c.doneasid, nodes := nodes
              edges := edges, slots := slots, queued := [], replay := none }
          ({ s2 with cats := s2.cats ++ [k] } : State).reply m codeOK [h]

/-- CATLOAD (R366). -/
def execCatload (m : Ccp) (image : List Byte) (s : State) : Result := .next (s.catload m image)

/-- Whether a catalogue has a queued or running replay. -/
def Catalogue.busy (c : Catalogue) : Bool := c.replay.isSome || !c.queued.isEmpty

/-- CATDROP (R369). -/
def execCatdrop (m : Ccp) (cat : Nat) (s : State) : Result :=
  .next (s.ccpActive m 0x03 fun s1 =>
    match s1.cat? m.wing cat with
    | none => s1.reply m codeNOCAT []
    | some c =>
      if c.busy then s1.reply m codeINUSE []
      else ({ s1 with cats := s1.cats.filter fun k => !(k.wing == m.wing && k.handle == cat) } : State).reply m codeOK [])

/-! ### Kicks (R368, R369) -/

/-- One patch applied to the stored parameters. -/
def applyPatch (slots : List Slot) (nodes : List Node) (p : Patch) : List Node :=
  match slots[p.slot]? with
  | none => nodes
  | some k =>
    let i := k.offset / 4
    nodes.map fun n =>
      if n.id == k.node then
        let l := n.params.set i p.value.lo
        { n with params := if k.wide then l.set (i + 1) p.value.hi else l }
      else n

/-- The bytes of a kick frame (R368). -/
def kickFrame (cat kickSeq : Nat) (patches : List Patch) : List Byte :=
  leBytes 1 cat ++ leBytes 1 patches.length ++ leBytes 2 0 ++ leBytes 4 kickSeq ++
  patches.flatMap fun p => leBytes 2 p.slot ++ leBytes 6 0 ++ leBytes 8 p.value.toNat

/-- Whether each field of a kick frame fits its bytes, and NPATCH is the number of its entries (R368). -/
def kickOk (cat kickSeq : Nat) (patches : List Patch) : Bool :=
  cat < 2 ^ 8 && kickSeq < 2 ^ 32 && patches.length < 2 ^ 8 && patches.all fun p => p.slot < 2 ^ 16

/-- A kick frame is written into the wing's kick register, and accepted or rejected as a whole (R368, R369). -/
def State.kick (s : State) (m : Ccp) (cat kickSeq : Nat) (patches : List Patch) : State :=
  s.ccpActive m 0x04 fun s0 =>
    let s1 := s0.modWing m.wing fun w => { w with kickReg := kickFrame cat kickSeq patches }
    let w := s1.wing m.wing
    if !kickOk cat kickSeq patches || m.length != 8 + 16 * patches.length then s0.reply m codeBADMSG []
    else if w.quiescing then s1.reply m codeNOTREADY []
    else if kickSeq ≤ w.kickSeq then s1.reply m codeSTALE []
    else
      match s1.cat? m.wing cat with
      | none => s1.reply m codeNOCAT []
      | some c =>
        if patches.any fun p => c.slots.length ≤ p.slot then s1.reply m codeBADSLOT []
        else if 4 ≤ c.queued.length + (if c.replay.isSome then 1 else 0) then s1.reply m codeKFULL []
        else
          ((s1.modCat m.wing cat fun k =>
              { k with nodes := patches.foldl (applyPatch k.slots) k.nodes, queued := k.queued ++ [kickSeq] }).modWing m.wing
            fun v => { v with kickSeq := kickSeq }).reply m codeOK []

/-- KICK (R369). -/
def execKick (m : Ccp) (cat kickSeq : Nat) (patches : List Patch) (s : State) : Result := .next (s.kick m cat kickSeq patches)

/-! ### Replays (R370) -/

/-- A node's run as a replay starts. -/
def NodeRun.start (id : Nat) : NodeRun := ⟨id, false, 0, 0, 0, false, []⟩

/-- The queued replay starts: every parameter is copied (R369, R370). -/
def Catalogue.startReplay (c : Catalogue) : Catalogue :=
  match c.replay, c.queued with
  | none, seq :: rest =>
    let ids := c.nodes.foldl (fun l n => insertAsc n.id l) []
    { c with queued := rest, replay := some ⟨seq, c.nodes, ids.map NodeRun.start, none⟩ }
  | _, _ => c

/-- REPLAY_START (R370). -/
def execReplayStart (wing cat : Nat) (s : State) : Result := .next (s.modCat wing cat Catalogue.startReplay)

/-- A node of a replay. -/
def Replay.node? (r : Replay) (id : Nat) : Option Node := r.nodes.find? fun n => n.id == id
/-- Whether a node has ended: each of its groups has. -/
def Replay.nodeEnded (r : Replay) (id : Nat) : Bool :=
  match r.runs.find? fun x => x.id == id, r.node? id with
  | some x, some n => x.dispatched && n.groups ≤ x.ended
  | _, _ => false

/-- Whether a run's node is a cohort in placement (R374). -/
def Replay.placing (r : Replay) (x : NodeRun) : Bool :=
  x.dispatched && !x.released && ((r.node? x.id).map (·.cohort)).getD false

/-- Whether a cohort node of a wing is in placement: there is one at most (R374). -/
def State.cohortBusy (s : State) (wing : Nat) : Bool :=
  s.cats.any fun c => c.wing == wing &&
    match c.replay with
    | some r => r.refused.isNone && r.runs.any r.placing
    | none => false

/-- Whether a run still has packets to send. -/
def Replay.sending (r : Replay) (x : NodeRun) : Bool := x.dispatched && x.sent < ((r.node? x.id).map (·.groups)).getD 0

/-- The ready node that is dispatched next: the lowest, a cohort node only when placement is free (R370). A cohort node
in placement that still has packets to send holds no other back (R374). -/
def Replay.nextNode (r : Replay) (edges : List (Nat × Nat)) (busy : Bool) : Option Node :=
  if r.refused.isSome || r.runs.any (fun x => r.sending x && !r.placing x) then none
  else
    (r.runs.find? fun x =>
      !x.dispatched && (edges.all fun e => e.2 != x.id || r.nodeEnded e.1) &&
      !(busy && ((r.node? x.id).map (·.cohort)).getD false)).bind fun x => r.node? x.id

/-- A run of a replay changed. -/
def Catalogue.modRun (c : Catalogue) (id : Nat) (f : NodeRun → NodeRun) : Catalogue :=
  { c with replay := c.replay.map fun r => { r with runs := r.runs.map fun x => if x.id == id then f x else x } }

/-- A replay stops sending: cohort groups still held in placement are killed (R370). -/
def State.stopReplay (s : State) (wing cat status node : Nat) : State :=
  (s.modCat wing cat fun c =>
    { c with replay := c.replay.map fun r => if r.refused.isSome then r else { r with refused := some (status, node) } }).killGroups
    (fun g => g.wing == wing && g.cat == cat && g.phase == .cohort) none

/-- A ready node's descriptor is checked and its groups are dealt to dies, or it is refused (R370). -/
def State.dispatch (s : State) (wing cat : Nat) : State :=
  match s.cat? wing cat with
  | none => s
  | some c =>
    match c.replay.bind fun r => r.nextNode c.edges (s.cohortBusy wing) with
    | none => s
    | some n =>
      let d := s.desc n.asid
      let dies := diesOf (n.dies &&& (s.wing wing).dies)
      if !d.valid || d.wg != wing || dies.isEmpty then s.stopReplay wing cat 0x20 n.id
      else s.modCat wing cat fun k => k.modRun n.id fun x => { x with dispatched := true, dieList := dies }

/-- NODE_DISPATCH (R370). -/
def execNodeDispatch (wing cat : Nat) (s : State) : Result := .next (s.dispatch wing cat)

/-- The packet of a node's group (R371). -/
def Node.packet (n : Node) (c : Catalogue) (gidx : Nat) : WorkPkt :=
  { params := n.params, cat := c.handle, entry := (c.imageva + n.entry) % 2 ^ 56, privva := n.privva, res := resBits n.res
    kind := if n.cohort then 1 else 0, spm := n.res.spm, priv := n.res.priv, asid := n.asid, node := n.id, gidx := gidx
    ngroups := n.groups }

/-- The run, node and die of the next packet: of the first run that has one to send whose mailbox has room (R370, R371, R374). -/
def State.nextPacket (s : State) (c : Catalogue) : Option (NodeRun × Node × Nat) :=
  match c.replay with
  | none => none
  | some r =>
    if r.refused.isSome then none
    else
      (r.runs.filter r.sending).findSome? fun x =>
        (r.node? x.id).bind fun n =>
          let die := x.dieList.getD (x.sent % x.dieList.length) 0
          if (s.die die).unitRoom then some (x, n, die) else none

/-- WORK_PACKET_SEND: one packet per group, in ascending index, round-robin over the dies (R370, R371). -/
def State.sendPacket (s : State) (wing cat : Nat) : State :=
  match s.cat? wing cat with
  | none => s
  | some c =>
    match s.nextPacket c with
    | none => s
    | some (x, n, die) =>
      (s.mail die (n.packet c x.sent).bytes).modCat wing cat fun k => k.modRun n.id fun y => { y with sent := y.sent + 1 }

/-- WORK_PACKET_SEND (R371). -/
def execWorkPacketSend (wing cat : Nat) (s : State) : Result := .next (s.sendPacket wing cat)

/-- The cohort node of a catalogue all of whose groups have been created. -/
def Catalogue.cohortReady (c : Catalogue) : Option Node :=
  c.replay.bind fun r =>
    if r.refused.isSome then none
    else
      (r.runs.find? fun x => r.placing x && ((r.node? x.id).map (·.groups)).getD 0 ≤ x.created).bind fun x => r.node? x.id

/-- COHORT_RELEASE: all groups of the node are released at once (R374). -/
def State.release (s : State) (wing cat : Nat) : State :=
  match (s.cat? wing cat).bind Catalogue.cohortReady with
  | none => s
  | some n =>
    let mine (g : Group) : Bool := g.wing == wing && g.cat == cat && g.node == n.id && g.phase == .cohort
    let gs := s.groups.filter mine
    let s1 := s.modCat wing cat fun c => c.modRun n.id fun x => { x with released := true }
    { s1 with
      groups := s1.groups.map fun (g : Group) => if mine g then { g with phase := .running } else g
      warps := s1.warps.map fun (w : Warp) =>
        if gs.any fun g => g.core == w.id.coreId && g.slot == w.grp then { w with held := false, readyAt := s.clk + 1, age := s.clk + 1 } else w }

/-- COHORT_RELEASE (R374). -/
def execCohortRelease (wing cat : Nat) (s : State) : Result := .next (s.release wing cat)

/-- NODE_END: the unit counts a group's end; a killed group kills its node (R370). -/
def State.nodeEnd (s : State) (unit : Nat) : State :=
  match s.ends.find? fun e => e.unit == unit with
  | none => s
  | some e =>
    let s1 : State := { s with ends := s.ends.erase e }
    let s2 := s1.modCat e.wing e.cat fun c => c.modRun e.node fun x => { x with ended := x.ended + 1 }
    if e.killed then s2.stopReplay e.wing e.cat 0x21 e.node else s2

/-- NODE_END (R370). -/
def execNodeEnd (unit : Nat) (s : State) : Result := .next (s.nodeEnd unit)

/-- A counter add that a unit outside the cores makes, as a `.sys` release (R338, R370, R407): its failure, or whether it
saturated. -/
def State.unitAdd (s : State) (asid wing va : Nat) (amt : DWord) : Except Cause (State × Bool) :=
  match s.engPages ⟨⟨0, 0⟩, asid, wing, 0xFFF⟩ .atomic va 8 with
  | .error c => .error c
  | .ok ps =>
    match ps.head? with
    | none => .ok (s, false)
    | some p => .ok (s.homeAdd 0 0xFFF p.2.2.wg p.2.2.cp (p.2.2.pa va) amt)

/-- A report that has no owning group: a failure, or a counter that saturated (R305, R415). -/
def State.unitReport (s : State) (wing : Nat) (src : RepSrc) (place : Nat) (c : Cause) : State :=
  (s.found c).report wing (reportBody src c.cls c.reason place none false 0 (some (ownerless c)))

/-- The add to DONECTR at a replay's end (R370). -/
def State.doneAdd (s : State) (c : Catalogue) : State :=
  if c.donectr == 0 then s
  else
    let place := 18 + s.unitOf c.wing
    match s.unitAdd c.doneasid c.wing c.donectr 1 with
    | .error f => s.unitReport c.wing .catalogue place { f with va := some c.donectr }
    | .ok (s1, spill) =>
      if spill then s1.unitReport c.wing .catalogue place { cls := 6, aux := BitVec.ofNat 64 c.donectr } else s1

/-- DONE is sent under the wing's next outgoing SEQ (R370, R409). -/
def State.sendDone (s : State) (wing seq status node : Nat) : State :=
  let n := (s.wing wing).outSeq + 1
  (s.modWing wing fun w => { w with outSeq := n }).send (.done wing n seq status node)

/-- Whether a replay has ended: every node has, or, once it has stopped sending, every group that was sent (R370). -/
def Replay.over (r : Replay) : Bool :=
  if r.refused.isSome then r.runs.all fun x => x.sent ≤ x.ended else r.runs.all fun x => r.nodeEnded x.id

/-- REPLAY_END: the DONECTR add, then DONE (R370). -/
def State.replayEnd (s : State) (wing cat : Nat) : State :=
  match s.cat? wing cat with
  | none => s
  | some c =>
    match c.replay with
    | none => s
    | some r =>
      if !r.over then s
      else
        let (status, node) := r.refused.getD (0, 0)
        ((s.modCat wing cat fun k => { k with replay := none }).doneAdd c).sendDone wing r.seq status node

/-- REPLAY_END (R370). -/
def execReplayEnd (wing cat : Nat) (s : State) : Result := .next (s.replayEnd wing cat)

end Sys2Proof.Machine
end

