-- ==== Sys2Proof/Machine/CrossOps.lean ====
section
/-!
DEFINITION. What the cross-thread, sparse and tree instructions compute over a warp's active threads (R225 to R241).
-/
namespace Sys2Proof.Machine

/-- An instruction over the active threads: its source kinds, what it writes, whether its v destination is tagged
uniform when all 32 threads are active (R227), its lane cycles (R226), and thread t's result, predicate and the
flags. The sources are functions of the thread, all read before any destination is written (R225). -/
structure Cross where
  a : Src := .none
  b : Src := .none
  c : Src := .none
  wide : Bool := false
  hasD : Bool := true
  pd : Option Sel := none
  uni : Bool := false
  cost : Nat → Nat
  res : Mask → (Nat → DWord) → (Nat → DWord) → (Nat → DWord) → Nat → DWord × Bool
  flags : Mask → (Nat → DWord) → Flags := fun _ _ => 0

/-- Lane cycles of a thread-operation that reads its general v sources (R189). -/
def Cross.opCost (op : Cross) (w : Warp) (x : LongOp) : Nat :=
  bankCost (w.bankWords op.a x.a ++ w.bankWords op.b x.b ++ w.bankWords op.c x.c)

/-- Lane cycles for `n` active threads: both passes, and what the bank rule adds to the pass that reads (R189, R226). -/
def Cross.cycles (op : Cross) (w : Warp) (x : LongOp) (n : Nat) : Nat := op.cost n + n * (op.opCost w x - 1)

/-- The warp after the instruction, with some active thread; of its destinations only a v register may be tagged uniform (R227). -/
def Cross.write (op : Cross) (w : Warp) (x : LongOp) (m : Mask) : Warp :=
  let a := w.src x.lit op.a x.a
  let b := w.src x.lit op.b x.b
  let c := w.src x.lit op.c x.c
  let r := op.res m a b c
  let w1 := w.orFlags (op.flags m a)
  let w2 :=
    if op.hasD then
      let tag : Shape :=
        match x.d with
        | .v _ => if op.uni && m == BitVec.allOnes 32 then .uniform 0 else .general
        | _ => .general
      (w1.writeReg x.d op.wide m tag fun t => (r t).1).writeLr m .general fun t => (r t).1
    else w1
  match op.pd with
  | some p => w2.setP (predNo p) m (maskOf fun t => (r t).2)
  | none => w2

/-- Whether thread t is in a mask. -/
def inMask (m : Mask) (t : Nat) : Bool := m.getLsbD t

/-- The source thread of SHFL (R229). -/
def shflFrom (mode t k : Nat) : Int :=
  match mode with
  | 0 => k
  | 1 => (t : Int) - k
  | 2 => (t : Int) + k
  | _ => (Nat.xor t k : Nat)

def crossShfl (x : LongOp) : Cross :=
  let w := x.fn == 0xC0
  { a := if w then .d64 else .i32, b := .i32, wide := w, pd := some x.c, cost := fun n => 2 * n,
    res := fun m a b _ t =>
      let u := shflFrom x.fn2.toNat t ((b t).toNat % 256)
      let valid := 0 ≤ u && u ≤ 31 && inMask m u.toNat
      (if valid then a u.toNat else a t, valid) }

/-- The words of active threads for which a predicate holds (R230). -/
def pollMask (m : Mask) (neg : Bool) (a : Nat → DWord) : Mask :=
  maskOf fun t => inMask m t && ((a t).getLsbD 0 != neg)

def crossPoll (x : LongOp) : Cross :=
  let mode := x.fn2.toNat
  { a := .pred, hasD := mode == 0, pd := if mode == 0 then none else some x.d, uni := true,
    cost := fun n => if mode == 0 then 1 + (if n == 32 then 1 else n) else 2,
    res := fun m a _ _ _ =>
      let w := pollMask m (fnBit2 x.fn) a
      (Word.toD w, match mode with | 1 => w != 0 | 2 => w == m | _ => w == 0 || w == m) }

/-- One fold step of REDX and SCAN on 32-bit patterns (R233). -/
def foldStep (op t : Nat) (ftz : Bool) (md : Nat) (acc v : Word) : Word × Flags :=
  let f (r : Nat × Flags) : Word × Flags := (BitVec.ofNat 32 r.1, r.2)
  match op with
  | 0 =>
    if t == 8 then
      let r := addF md (unpackF fp32 ftz acc.toNat) (unpackF fp32 ftz v.toNat)
      let q := roundF fp32 md ftz r.1
      f (q.1, r.2 ||| q.2)
    else (acc + v, 0)
  | 1 =>
    if t == 8 then f (minmaxF fp32 ftz false false acc.toNat v.toNat)
    else (if el t v.toNat 0 < el t acc.toNat 0 then v else acc, 0)
  | 2 =>
    if t == 8 then f (minmaxF fp32 ftz false true acc.toNat v.toNat)
    else (if el t acc.toNat 0 < el t v.toNat 0 then v else acc, 0)
  | 3 => (acc &&& v, 0)
  | 4 => (acc ||| v, 0)
  | _ => (acc ^^^ v, 0)

/-- The running folds over threads, ascending: each thread with the fold before it and the fold after it, and the
flags (R233, R235). -/
def foldRun (op t : Nat) (ftz : Bool) (md : Nat) (a : Nat → DWord) : List Nat → Option Word → List (Nat × Word × Word) × Flags
  | [], _ => ([], 0)
  | u :: us, acc =>
    let (nxt, fl) := match acc with
      | none => ((a u).lo, (0 : Flags))
      | some v => foldStep op t ftz md v (a u).lo
    let r := foldRun op t ftz md a us (some nxt)
    ((u, acc.getD 0, nxt) :: r.1, fl ||| r.2)

/-- The exclusive identity of the lowest active thread (R235). -/
def foldIdentity (op t : Nat) : Word :=
  match op with
  | 0 => if t == 8 then 0x80000000 else 0
  | 1 => if t == 8 then 0x7F800000 else if t == 0 then 0x7FFFFFFF else 0xFFFFFFFF
  | 2 => if t == 8 then 0xFF800000 else if t == 0 then 0x80000000 else 0
  | 3 => 0xFFFFFFFF
  | _ => 0

/-- How the source of a fold is read. -/
def srcFold (t : Nat) : Src := if t == 8 then .f32 else .i32

def crossRedx (x : LongOp) : Cross :=
  let t := tyOf x.fn
  let run (m : Mask) (a : Nat → DWord) := foldRun x.fn2.toNat t (fnBit3 x.fn) (fnRnd x.fn) a (threadsOf m) none
  { a := srcFold t, uni := true, cost := fun n => n + (if n == 32 then 1 else n),
    res := fun m a _ _ _ => (Word.toD (((run m a).1.getLast?.map fun (e : Nat × Word × Word) => e.2.2).getD 0), false),
    flags := fun m a => (run m a).2 }

def crossScan (x : LongOp) : Cross :=
  let t := tyOf x.fn
  let op := x.fn2.toNat % 8
  let excl := x.fn2.getLsbD 3
  let run (m : Mask) (a : Nat → DWord) := foldRun op t (fnBit3 x.fn) (fnRnd x.fn) a (threadsOf m) none
  { a := srcFold t, cost := fun n => n,
    res := fun m a _ _ u =>
      match (run m a).1.find? fun e => e.1 == u with
      | some e => ((if excl then (if u == lowestOf m then foldIdentity op t else e.2.1) else e.2.2).toD, false)
      | none => (0, false),
    flags := fun m a => (run m a).2 }

/-- Whether pair p beats pair q (R234). -/
def pairBeats (isMax : Bool) (t : Nat) (p q : Word × Word) : Bool :=
  let x := el t p.1.toNat 0
  let y := el t q.1.toNat 0
  if x == y then p.2.toNat < q.2.toNat else if isMax then y < x else x < y

/-- The pair that an inactive thread offers (R234). -/
def pairIdentity (isMax : Bool) (t : Nat) : Word × Word :=
  (if isMax then (if t == 0 then 0x80000000 else 0) else (if t == 0 then 0x7FFFFFFF else 0xFFFFFFFF), 0xFFFFFFFF)

def crossRedxi (x : LongOp) : Cross :=
  let t := tyOf x.fn
  let isMax := x.fn2 == 1
  { a := .i32, b := .i32, wide := true, uni := true, cost := fun n => n + (if n == 32 then 1 else n),
    res := fun m a b _ _ =>
      let offer (u : Nat) : Word × Word := if inMask m u then ((a u).lo, (b u).lo) else pairIdentity isMax t
      let best := (List.range 31).foldl (fun acc u => if pairBeats isMax t (offer (u + 1)) acc then offer (u + 1) else acc) (offer 0)
      (DWord.ofWords best.1 best.2, false) }

def crossMatch (x : LongOp) : Cross :=
  let all := x.fn2 == 1
  { a := if x.fn == 0xC0 then .d64 else .i32, pd := if all then some x.c else none, uni := all,
    cost := fun n => if all then n + (if n == 32 then 1 else n) else 2 * n,
    res := fun m a _ _ t =>
      let eq := maskOf fun u => inMask m u && a u == a t
      if all then (if eq == m then (Word.toD m, true) else (0, false)) else (Word.toD eq, false) }

def crossElect (x : LongOp) : Cross :=
  { pd := some x.c, uni := true, cost := fun n => n,
    res := fun m _ _ _ t => (BitVec.ofNat 64 (lowestOf m), t == lowestOf m) }

def crossIsect (x : LongOp) : Cross :=
  { a := .i32, b := .i32, c := .i32, cost := fun n => n,
    res := fun _ a b c t =>
      let m := ((a t).lo &&& (b t).lo).toNat
      let s := (c t).toNat % 256
      let l := (List.range 32).filter fun j => s ≤ j && bitN m j
      (BitVec.ofNat 64 (if x.fn2 == 0 then l.headD 32 else l.length), false) }

def crossBrank (x : LongOp) : Cross :=
  { a := .i32, b := .i32, c := .i32, cost := fun n => n,
    res := fun _ a b c t =>
      let j := (b t).toNat % 256
      let w := if x.fn2 == 0 then min j 32 else min (j + 1) 32
      (((c t).lo + BitVec.ofNat 32 (popcN 32 ((a t).lo.toNat % 2 ^ w))).toD, false) }

/-- One step in a tree (R238, R239). -/
def treeStep (node : DWord) (xv : Word) : DWord × Bool :=
  if node.getLsbD 63 then (0xFFFFFFFF, true)
  else
    let f := unpackF fp32 false xv.toNat
    let th := unpackF fp32 false node.lo.toNat
    let left := if f.isNan || th.isNan then node.getLsbD 62 else (cmpF 2 f th).1
    (BitVec.ofNat 64 (bitsN node.toNat 48 14 + if left then 0 else 1), false)

def crossTreestep (x : LongOp) : Cross :=
  { a := .d64, b := .f32, pd := some x.c, cost := fun n => n, res := fun _ a b _ t => treeStep (a t) (b t).lo }

end Sys2Proof.Machine
end

