-- ==== Sys2Proof/Machine/Cross.lean ====
section
/-!
DEFINITION. The cross-thread, sparse and tree instructions and the tile predicates (R225 to R242).
-/
namespace Sys2Proof.Machine

/-- Issue of an instruction over the active threads: an s destination is not met, since the result is not uniform by
R146 (R149); with no active thread it retires in one lane cycle with no effect (R225). -/
def State.issueCross (s : State) (opc : BitVec 8) (x : LongOp) (op : Cross) : Result :=
  s.issue opc x fun w =>
    let m := w.active x.g
    if op.hasD && selIsS x.d then .next (s.trap w causeShape)
    else if m == 0 then .next (s.retire w (longLen x) 1)
    else .next (s.retire (op.write w x m) (longLen x) (op.cycles w x (countOf m)))

/-- SHFL (R229). -/
def execShfl (x : LongOp) (s : State) : Result := s.issueCross 0x50 x (crossShfl x)

/-- POLL (R230). -/
def execPoll (x : LongOp) (s : State) : Result := s.issueCross 0x51 x (crossPoll x)

/-- REDX (R233). -/
def execRedx (x : LongOp) (s : State) : Result := s.issueCross 0x52 x (crossRedx x)

/-- REDXI (R234). -/
def execRedxi (x : LongOp) (s : State) : Result := s.issueCross 0x53 x (crossRedxi x)

/-- SCAN (R235). -/
def execScan (x : LongOp) (s : State) : Result := s.issueCross 0x54 x (crossScan x)

/-- MATCH (R231). -/
def execMatchT (x : LongOp) (s : State) : Result := s.issueCross 0x55 x (crossMatch x)

/-- ELECT (R232). -/
def execElect (x : LongOp) (s : State) : Result := s.issueCross 0x56 x (crossElect x)

/-- ISECT (R236). -/
def execIsect (x : LongOp) (s : State) : Result := s.issueCross 0x60 x (crossIsect x)

/-- BRANK (R237). -/
def execBrank (x : LongOp) (s : State) : Result := s.issueCross 0x61 x (crossBrank x)

/-- TREESTEP (R239). -/
def execTreestep (x : LongOp) (s : State) : Result := s.issueCross 0x62 x (crossTreestep x)

/-- KSET: a vote over the active threads, which with none keeps the predicate (R240). -/
def Warp.kset (w : Warp) (x : LongOp) : Warp :=
  let m := w.active x.g
  let v := pollMask m (fnBit2 x.fn) (w.src x.lit .pred x.a)
  if m == 0 then w else w.setK (predNo x.d) (if x.fn2 == 0 then v != 0 else v == m)

/-- KSET (R240). -/
def execKset (x : LongOp) (s : State) : Result :=
  s.issue 0x63 x fun w => .next (s.retire (w.kset x) (longLen x) 1)

/-- KMOV: k0 to k6 moved as a group, whatever the split mask and EXEC hold (R241). -/
def Warp.kmov (w : Warp) (x : LongOp) : Warp :=
  if x.fn2 == 0 then
    match x.d with
    | .s n => w.setS n.val (w.k.setWidth 32 ||| 0x80)
    | _ => w
  else { w with k := (w.usrc x.lit .i32 x.a).setWidth 7 }

/-- KMOV (R241). -/
def execKmov (x : LongOp) (s : State) : Result :=
  s.issue 0x64 x fun w => .next (s.retire (w.kmov x) (longLen x) 1)

end Sys2Proof.Machine
end

