-- ==== Sys2Proof/Machine/Fabric.lean ====
section
/-!
DEFINITION. The fabric and the memory side: packets on the meshes (R85 to R93), home slices and their atomic units (R94 to
R98, R296, R307), stack and buffer controllers (R24 to R43, R48, R49).
-/
namespace Sys2Proof.Machine

/-! ### The die mesh (R85 to R89, R97) -/

/-- Routers left on the straight segment from one router towards another, and the step between them: x first (R86, R88). -/
def segment (r d : Nat) : Nat × Int :=
  let x := r % 8
  let y := r / 8
  let dx := d % 8
  let dy := d / 8
  if x < dx then (dx - x, 1) else if dx < x then (x - dx, -1) else if y < dy then (dy - y, 8) else (y - dy, -8)

/-- Message classes (R83). -/
inductive MsgClass where
  | req | rsp | sys
  deriving DecidableEq, Repr

/-- The class of a packet. -/
def Packet.cls (p : Packet) : MsgClass := if p.sys then .sys else if p.resp then .rsp else .req

/-- What a packet's OP tells apart (R84); its codes are not given. -/
inductive PktOp where
  | read | write | atomic | counterRead | counterWait
  deriving DecidableEq, Repr

/-- Ports of a router (R89). -/
def portLocal : Nat := 0

/-- The header of a packet (R84): what it carries beside its place. Cores and slices stand at the local port of their router; the data of an
operand or of a result is one flit (log 8). -/
structure PktHeader where
  cls   : MsgClass
  op    : PktOp
  dst   : Nat × Nat × Nat       -- DSOCK, DX, DY
  src   : Nat × Nat × Nat       -- SSOCK, SX, SY
  sport : Nat
  wg    : Nat
  slot  : Nat
  kind  : Nat                   -- R29
  gran  : Bool
  gidx  : Nat
  smask : BitVec 4
  seq   : Nat
  acq   : Bool
  nret  : Nat
  rets  : List (Nat × Nat × Nat)   -- socket, router and port of each merged reader
  pa    : Nat
  ndata : Nat
  deriving DecidableEq, Repr

/-- Whether a newer read packet may join an older one that waits in the same router (R97). -/
def State.mayMerge (s : State) (a b : Packet) : Bool :=
  match s.req? a.core a.rid, s.req? b.core b.rid with
  | some r, some q =>
    a.pid < b.pid && a.loc == b.loc && a.cls == .req && b.cls == .req && r.isRead && q.isRead && r.line == q.line &&
    a.wing == b.wing && r.gran == q.gran && !r.acq && !q.acq && !r.acqBit && !q.acqBit && r.seq % 16 == q.seq % 16 &&
    a.merged.length < 3 && b.merged.isEmpty
  | _, _ => false

/-- A newer read joins a packet, which then asks for the sectors of both (R97). -/
def State.mergeInto (s : State) (a b : Packet) : State :=
  let rest := (s.dropPacket b.pid).packets
  let s1 : State := { s with packets := rest.map fun (p : Packet) =>
    if p.pid == a.pid then { p with merged := p.merged ++ [(b.core, b.rid)], smask := p.smask ||| b.smask } else p }
  s1.modReq b.core b.rid fun q => { q with stage := .fabric a.pid }

/-- A packet has reached its destination, after all that have reached theirs before (R296). -/
def State.arrive (s : State) (pid : Nat) : State :=
  let (n, s1) := s.fresh
  s1.modPacket pid fun q => { q with loc := .home, arrived := n }

/-- A packet's step on a die mesh: it is ejected at its destination, or crosses `granted` routers of its straight segment
(R88); in a router of either mesh it may take up a newer read instead (R97). -/
def State.meshStep (s : State) (pid granted : Nat) (merge : Bool) : State :=
  match s.packet? pid with
  | none => s
  | some p =>
    let inRouter := match p.loc with | .mesh _ _ | .tile _ => true | _ => false
    match if merge && inRouter then s.packets.find? (s.mayMerge p) else none with
    | some b => s.mergeInto p b
    | none =>
      match p.loc with
      | .mesh d r =>
        if r == p.router then s.arrive pid
        else
          let (n, st) := segment r p.router
          if granted == 0 || n < granted then s
          else s.modPacket pid fun q => { q with loc := .mesh d ((r : Int) + st * granted).toNat }
      | _ => s

/-- MESH_HOP (R88). -/
def execMeshHop (pid granted : Nat) (merge : Bool) (s : State) : Result := .next (s.meshStep pid granted merge)

/-! ### The interposer and its wheel (R90 to R93) -/

/-- What a slot's owner entry stands for (R92): the fixed maintenance slots, and those that act so under overflow. -/
def State.slotKind (s : State) (n : Nat) : Nat × Nat :=
  let e := (s.docent.wheel.getD n 0).toNat
  if n % 16 == 0 then (2, 0)
  else if n % 16 == 8 && s.hbms.any (·.overflow) then (2, 0)
  else (e / 64, e % 16)

/-- The current slot by device time (R92). -/
def State.slotNow (s : State) : Nat := s.time / 32 % 64

/-- Whether a header of a wing may start now: 8 ns of a slot of its own must remain (R93, R405). -/
def State.inSlot (s : State) (wing : Nat) : Bool :=
  let (k, w) := s.slotKind s.docent.wheelSlot
  s.slotNow == s.docent.wheelSlot && k == 1 && w == wing && s.time % 32 ≤ 24

/-- Whether a packet's header may enter a link between tiles now: the docent's in a maintenance slot (R93). -/
def State.mayCross (s : State) (p : Packet) : Bool :=
  if p.sys then s.slotNow == s.docent.wheelSlot && (s.slotKind s.docent.wheelSlot).1 == 2 else s.inSlot p.wing

/-- The next tile of a route over the 3 rows and 5 columns: along the row, then along the column (R90). -/
def nextTile (n d : Nat) : Nat :=
  if n % 5 < d % 5 then n + 1 else if d % 5 < n % 5 then n - 1 else if n / 5 < d / 5 then n + 5 else n - 5

/-- The tile at the end of a packet's route. -/
def Packet.endTile (p : Packet) : Nat := lastTile p.die p.die

/-- Whether a tile has a whole-packet buffer free for a packet that comes from a tile, or from its own vertical port: each input has
8 for each wing and each class (R91). -/
def State.tileRoom (s : State) (p : Packet) (src dst : Nat) : Bool :=
  (s.packets.filter fun q => q.loc == .tile dst && q.via == src && q.wing == p.wing && q.cls == p.cls).length < 8

/-- Lane cycles below which nothing released on one die is acquired on another: 20 ticks (R339). -/
def crossTime : Nat := 26

/-- Whether a packet can take a step between tiles or at a vertical port. -/
def State.tileReady (s : State) (p : Packet) : Bool :=
  match p.loc with
  | .edge => s.tileRoom p p.via p.via
  | .tile n => if n == p.endTile then p.due ≤ s.clk else (s.mayCross p && s.tileRoom p n (nextTile n p.endTile))
  | _ => false

/-- A packet's step at a tile: it comes down from its die, rises into its die, or crosses a link in its wing's slot (R86, R91, R93). -/
def State.tileStep (s : State) (pid : Nat) : State :=
  match s.packet? pid with
  | none => s
  | some p =>
    if !s.tileReady p then s
    else
      match p.loc with
      | .edge => s.modPacket pid fun q => { q with loc := .tile q.via, due := if q.via == q.endTile then 0 else s.clk + crossTime }
      | .tile n =>
        if n == p.endTile then s.arrive pid
        else s.modPacket pid fun q => { q with loc := .tile (nextTile n p.endTile), via := n }
      | _ => s

/-- INTERPOSER_LINK_CROSSING (R93). -/
def execInterposerLinkCrossing (pid : Nat) (s : State) : Result := .next (s.tileStep pid)

/-- The wheel advances to the next slot once its time has come; owner entries written by SLOTSET take effect at slot 0
(R92, R405). -/
def State.slotStep (s : State) : State :=
  if s.slotNow == s.docent.wheelSlot then s
  else
    let n := (s.docent.wheelSlot + 1) % 64
    { s with hbms := s.hbms.map fun (k : Stack) => { k with maint := none }, docent := { s.docent with
        wheelSlot := n
        wheel := if n == 0 then s.docent.wheelNext.getD s.docent.wheel else s.docent.wheel
        wheelNext := if n == 0 then none else s.docent.wheelNext } }

/-- Queued error reports leave in a maintenance slot, each once, with the count of those lost before them (R405, R415). -/
def State.sendReports (s : State) : State :=
  let wings (w : Wing) : List Out := w.reports.mapIdx fun i r => .errrep w.id (w.outSeq + 1 + i) (if i == 0 then w.lost else 0) r
  let d := s.docent
  let op : List Out := d.opReports.mapIdx fun i r => .errrep 15 (d.opOut + 1 + i) (if i == 0 then d.opLost else 0) r
  { s with
    out := (s.wings.flatMap wings ++ op).reverse ++ s.out
    wings := s.wings.map fun w =>
      if w.reports.isEmpty then w else { w with outSeq := w.outSeq + w.reports.length, reports := [], lost := 0 }
    docent := if d.opReports.isEmpty then d else { d with opOut := d.opOut + d.opReports.length, opReports := [], opLost := 0 } }

/-- SLOT_BOUNDARY (R92). -/
def execSlotBoundary (s : State) : Result :=
  let s1 := s.slotStep
  .next (if s1.docent.wheelSlot != s.docent.wheelSlot && (s1.slotKind s1.docent.wheelSlot).1 == 2 then s1.sendReports else s1)

/-! ### Home slices (R94 to R98) -/

/-- Granules of a line that a mask of sectors brings: the named one, or the 64-byte halves of the sectors (R28, R29). -/
def granulesOf (gran : Option Nat) (smask : BitVec 4) : List Nat :=
  match gran with
  | some g => [g]
  | none => (List.range 8).filter fun g => (List.range 4).any fun i => smask.getLsbD i && i / 2 == g / 4

/-- Whether a request is for an atomic unit. -/
def Req.atAtomicUnit (r : Req) : Bool :=
  match r.kind with
  | .atom _ _ _ _ | .cwait _ | .cread => true
  | _ => false

/-- The group slot that a request's traffic is tagged with (R29, R30). -/
def State.slotOf (s : State) (r : Req) : Nat :=
  if isCurator r.core then 0xFFF
  else (((s.core r.core).outst.find? fun o => o.iid == r.iid).map (·.grp)).getD 0xFFF

/-- The operation of a request's packets. -/
def Req.op (r : Req) : PktOp :=
  match r.kind with
  | .load | .prefL1 | .prefL2 => .read
  | .cread => .counterRead
  | .cwait _ => .counterWait
  | .atom _ _ _ _ => .atomic
  | _ => .write

/-- Data flits of a packet: the sectors that it brings, or one with an operand or a result (R84). -/
def Req.flits (r : Req) (p : Packet) : Nat :=
  let sectors := ((List.range 4).filter p.smask.getLsbD).length
  match r.op, p.resp with
  | .read, true | .write, false => sectors
  | .atomic, false | .counterWait, false | .counterRead, true => 1
  | .atomic, true => match r.kind with | .atom _ _ _ result => if result then 1 else 0 | _ => 0
  | _, _ => 0

/-- The header of a packet, from its request (R84). -/
def State.header (s : State) (p : Packet) : Option PktHeader :=
  (s.req? p.core p.rid).map fun r =>
    let xy (d n : Nat) : Nat × Nat × Nat := (d, n % 8, n / 8)
    let core := xy r.core.die (routerOf r.core)
    let home := xy (s.homeDie r.line) (homeRouter r.line)
    { cls := p.cls, op := r.op, dst := if p.resp then core else home, src := if p.resp then home else core, sport := portLocal
      wg := p.wing, slot := s.slotOf r
      kind := if r.op != .write then 0 else if fillsUnits (checkUnit r.line) (lastBytes r.storeBytes) then 1 else 2
      gran := r.gran.isSome, gidx := r.gran.getD 0, smask := p.smask, seq := r.seq % 16, acq := r.acqBit, nret := p.merged.length
      rets := p.merged.map fun m => (m.1.die, routerOf m.1, portLocal), pa := if r.atAtomicUnit then r.wordPA else r.line
      ndata := r.flits p }

/-- Bytes of a request's pieces, as offsets in its line. -/
def Req.offsets (r : Req) : List Nat := r.pieces.flatMap fun e => (List.range e.len).map fun i => (e.pa + i) % 128

/-- The requests that a packet stands for. -/
def State.reqsOf (s : State) (p : Packet) : List Req := ((p.core, p.rid) :: p.merged).filterMap fun m => s.req? m.1 m.2

/-- A read request to memory on behalf of a packet: sparse reads and uncached reads of one granule take the 16-byte form in a stack
(R28; an uncached read over two granules takes the other form, log 43). -/
def State.askMemory (s : State) (p : Packet) (r : Req) : State :=
  let rs := s.reqsOf p
  let uncached := s.bypass r.line || rs.all fun q => !q.atAtomicUnit && q.cp == 2 && q.kind != .prefL2
  let q : MemReq :=
    { src := r.core.die, slot := s.slotOf r, kind := 0,
      gran := if r.gran.isSome && isStackPA r.line then r.gran else oneGranule r.line uncached (rs.flatMap Req.offsets)
      sectors := p.smask, wg := p.wing, line := lineOf (canonPA r.line), bytes := [], ack := some p.pid }
  (s.enqueueMem r.line q).modPacket p.pid fun x => { x with waiting := true }

/-- The cores whose reads a packet stands for. -/
def Packet.readers (p : Packet) : List CoreId := p.core :: p.merged.map (·.1)

/-- A read answered at home with the line as L2 and memory hold it, and the last-reader hint of a read-only page's line, which names
the last core of the home die that has read the line there (R95). -/
def State.answerRead (s : State) (p : Packet) (r : Req) (data : List Byte) : State :=
  let old := (s.l2Line? r.line).bind (·.hint)
  let s1 :=
    match (p.readers.filter fun c => c.die == p.die).getLast? with
    | some c =>
      if r.ro then { s with l2 := s.l2.map fun (l : L2Line) => if l.line == r.line then { l with hint := some c.core } else l } else s
    | none => s
  s1.respond p.pid fun x => { x with data := data, hint := if r.ro then old else none }

/-- A request that its memory refuses (R414, R422). -/
def State.refuse (s : State) (p : Packet) (pa : Nat) : State :=
  s.respond p.pid fun x => { x with fault := true, value := auxOf pa 0 }

/-- The home slice serves a read or write (R94, R105); in home-bypass mode memory serves it alone (R421). -/
def State.l2Serve (s : State) (pid : Nat) : State :=
  match s.packet? pid with
  | none => s
  | some p =>
    if p.resp || p.waiting || p.loc != .home then s
    else
      match s.req? p.core p.rid with
      | none => s.forsake pid
      | some r =>
        match r.kind with
        | .load | .prefL1 | .prefL2 =>
          if s.memDown r.line then s.refuse p r.line
          else
            let here := match s.l2Line? r.line with
              | some l => (granulesOf r.gran p.smask).all fun g => l.valid.getD g false
              | none => false
            if here && !s.bypass r.line then s.answerRead p r (s.devLine r.line) else s.askMemory p r
        | .store =>
          if s.memDown r.line then s.refuse p r.line
          else
            let bs := lastBytes r.storeBytes
            if r.cp == 0 && !s.bypass r.line then (s.l2Merge r.line p.wing bs).respond pid id
            else
              (s.modPacket pid fun x => { x with waiting := true }).l2Through r.core.die (s.slotOf r) p.wing r.line (r.cp == 2) bs
                (some pid)
        | _ => s

/-- L2_REQUEST (R94). -/
def execL2Request (pid : Nat) (s : State) : Result := .next (s.l2Serve pid)

/-! ### Atomic units and monitors (R296, R304, R307) -/

/-- Requests of one instruction to one 8-byte word, in ascending thread order (R296). -/
def State.runOf (s : State) (r : Req) : List Req :=
  let mine := (s.core r.core).reqs.filter fun q => q.iid == r.iid && q.wordPA / 8 == r.wordPA / 8
  (List.range 32).flatMap fun t => mine.filter fun q => q.thread == t

/-- Whether a request's packet stands at its home and can be served. -/
def State.atHome (s : State) (q : Req) : Option Packet :=
  match q.stage with
  | .fabric pid =>
    match s.packet? pid with
    | some p => if p.loc == .home && !p.resp && !p.waiting then some p else none
    | none => none
  | _ => none

/-- The packet of a request, once it has reached its home. -/
def State.arrived? (s : State) (q : Req) : Option Packet :=
  match q.stage with
  | .fabric pid => (s.packet? pid).bind fun p => if p.loc == .home && !p.resp then some p else none
  | _ => none

/-- When a run has reached its unit: with the last of its requests (log 8). -/
def State.runArrival (s : State) (run : List Req) : Option Nat :=
  if run.all fun q => (s.arrived? q).isSome then some ((run.filterMap fun q => (s.arrived? q).map (·.arrived)).foldl max 0) else none

/-- Whether another run has reached the atomic unit of a word's slice before a run on the word has: it is served first (R296). -/
def State.earlier (s : State) (run : List Req) (word : Nat) : Bool :=
  s.packets.any fun p =>
    p.loc == .home && !p.resp && !(s.monitors.any fun m => m.pid == p.pid) &&
    match s.req? p.core p.rid, s.runArrival run with
    | some q, some mine =>
      q.atAtomicUnit && s.homeDie q.line == s.homeDie word && sliceOf q.line == sliceOf word &&
      !(run.any fun x => x.core == q.core && x.rid == q.rid) && match s.runArrival (s.runOf q) with | some n => n < mine | none => false
    | _, _ => false

/-- The issuer of a request's instruction takes class 6 for an add that saturated (R305). -/
def State.overflow (s : State) (r : Req) : State :=
  match (s.core r.core).outst.find? fun o => o.iid == r.iid with
  | none => s
  | some o =>
    s.deferTrap r.core (s.charged o) (s.issuerOf o)
      { cls := 6, aux := BitVec.ofNat 64 (((r.pieces.head?).map (·.va)).getD 0) } true

/-- One request performed at its atomic unit. -/
def State.atomServe (s : State) (r : Req) (p : Packet) : State :=
  let pa := r.wordPA
  match r.kind with
  | .atom op ty c _ =>
    let n := match op with | .cadd => 8 | _ => ty.bytes
    let old := s.homeWord pa n
    let s1 := (s.homeSetWord r.core.die (s.slotOf r) p.wing r.cp pa n (op.apply ty old c))
    let s2 := if op == .cadd && 2 ^ 64 ≤ old.toNat + c.toNat then s1.overflow r else s1
    s2.respond p.pid fun x => { x with value := old, ok := match op with | .cas cmp => old == cmp | _ => true }
  | .cwait val =>
    if val.toNat ≤ s.devNat pa 8 then s.respond p.pid fun x => { x with ok := true }
    else if (s.monitors.filter fun m => s.homeDie m.pa == p.die && sliceOf m.pa == sliceOf pa).length < 32 then
      { (s.modPacket p.pid fun x => { x with waiting := true }) with monitors := s.monitors ++ [⟨pa, val, p.pid⟩] }
    else s.respond p.pid fun x => { x with ok := false }
  | .cread => s.respond p.pid fun x => { x with value := s.homeWord pa 8 }
  | _ => s

/-- The home atomic unit serves a request, with its instruction's whole run on the word (R296); a word that L2 does not
hold is filled first. -/
def State.atomicService (s : State) (pid : Nat) : State :=
  match s.packet? pid with
  | none => s
  | some p =>
    if p.resp || p.waiting || p.loc != .home then s
    else
      match s.req? p.core p.rid with
      | none => s.forsake pid
      | some r =>
        if !r.atAtomicUnit then s
        else if s.memDown r.line || (s.bypass r.line && r.kind != .cread) then s.refuse p r.wordPA
        else if s.bypass r.line then s.askMemory p r
        else
          let here := match s.l2Line? r.line with | some l => l.has (r.wordPA % 128) | none => false
          if !here then s.askMemory p r
          else
            let run := s.runOf r
            if (run.all fun q => (s.atHome q).isSome) && !s.earlier run r.wordPA then
              run.foldl (fun st q => match st.atHome q with | some x => st.atomServe q x | none => st) s
            else s

/-- ATOMIC_UNIT_SERVICE (R296). -/
def execAtomicUnitService (pid : Nat) (s : State) : Result := .next (s.atomicService pid)

/-- A CWAIT whose home refuses it takes class 0 at its own instruction, which has not retired (R307, R421). -/
def State.cwaitRefused (s : State) (r : Req) (aux : DWord) : State :=
  match (s.core r.core).outst.find? fun o => o.iid == r.iid with
  | none => s
  | some o =>
    let back (p : Split) : Split :=
      match p.st with
      | .blocked (.answer i _ _) => if i == r.iid then { p with st := .ready } else p
      | _ => p
    (s.modWarp o.warp fun w => { w with splits := w.splits.map back }).modCore r.core fun k =>
      k.pend s.clk
        { slot := s.charged o, age := o.age
          trapRec := mkRecord (s.issuerOf o) false
            { cls := 0, thread := 0xFF, kind := r.kind.access.no, va := (r.pieceAt (aux.toNat % 2 ^ 48)).map (·.va), aux := aux } }

/-- The answer to a global CWAIT reaches its core: it is done, or is sent again 64 lane cycles later (R306, R307). -/
def State.cwaitAnswer (s : State) (pid : Nat) : State :=
  match s.returned? pid with
  | none => s
  | some (p, r) =>
    match r.kind with
    | .cwait _ =>
      let s1 := s.dropPacket pid
      if p.fault then ((s1.cwaitRefused r p.value).endReq r).settle r.core
      else if p.ok then (s1.endReq r).settle r.core
      else s1.modReq r.core r.rid fun q => { q with stage := .retry (s.clk + 64) }
    | _ => s

/-- CWAIT_ANSWER (R307). -/
def execCwaitAnswer (pid : Nat) (s : State) : Result := .next (s.cwaitAnswer pid)

/-- A refused CWAIT is sent again (R307). -/
def State.cwaitRetry (s : State) (c : CoreId) (rid : Nat) : State :=
  match s.req? c rid with
  | none => s
  | some r =>
    match r.stage with
    | .retry n => if n ≤ s.clk then s.sendReq r else s
    | _ => s

/-- CWAIT_RETRY (R307). -/
def execCwaitRetry (c : CoreId) (rid : Nat) (s : State) : Result := .next (s.cwaitRetry c rid)

/-! ### Stack and buffer controllers (R28 to R32, R48) -/

/-- Granules that a memory request touches (R29). -/
def MemReq.granules (r : MemReq) : List Nat := granulesOf r.gran r.sectors

/-- Addresses of the units that a request reads: its granules, or in a damson buffer its 64-byte units (R28, R48). -/
def MemReq.units (r : MemReq) : List Nat :=
  let u := checkUnit r.line
  (r.granules.map fun g => (r.line + 16 * g) / u * u).eraseDups

/-- Whether two requests touch a common granule. -/
def MemReq.overlaps (a b : MemReq) : Bool := a.line == b.line && a.granules.any b.granules.contains

/-- Requests that no older request to an overlapping granule blocks, oldest first, each with its place (R32). -/
def unblocked : List MemReq → List MemReq → Nat → List (Nat × MemReq)
  | _, [], _ => []
  | older, r :: rs, i =>
    let rest := unblocked (older ++ [r]) rs (i + 1)
    if older.any r.overlaps then rest else (i, r) :: rest

/-- Two requests of one group (R30). -/
def MemReq.ofTurn (r : MemReq) (t : Turn) : Bool := r.src == t.src && r.slot == t.slot

/-- The request that a channel serves next, and its turn after that (R32). -/
def Channel.pick (c : Channel) : Option (Nat × MemReq × Turn) :=
  let l := unblocked [] c.queue 0
  let fresh : Option (Nat × MemReq × Turn) :=
    match l with
    | [] => none
    | (i, r) :: _ => some (i, r, ⟨r.src, r.slot, 1⟩)
  match c.turn with
  | some t =>
    if 16 ≤ t.count then fresh
    else
      match l.find? fun e => e.2.ofTurn t with
      | some (i, r) => some (i, r, { t with count := t.count + 1 })
      | none => fresh
  | none => fresh

/-- A read served by memory: its granules are installed in L2 unless the page is uncached, with what younger writes on their way to
memory have passed through the slice since, and its packet is answered, or may now be served by the atomic unit; a counter's read is
answered here where the slice stands aside (R28, R32, R42, R105, R421). A capacity byte is reported by its buffer's own view (log 43). -/
def State.memRead (s : State) (m : MemReq) (e : Ecc) : State :=
  let k := eccCheck e m.units
  let s1 := s.checked m.wg k
  match m.ack.bind s1.packet? with
  | none => s1
  | some p =>
    match s1.req? p.core p.rid with
    | none => (s1.modPacket p.pid fun x => { x with waiting := false }).forsake p.pid
    | some r =>
      match k.aux with
      | some aux => s1.respond p.pid fun x => { x with fault := true, value := aux }
      | none =>
        let gs := m.granules
        let seen := s1.asRead k
        let old := (s1.l2Line? r.line).getD (s1.l2Empty r.line m.wg)
        let fill : L2Line :=
          { old with
            data := (List.range 128).map fun i =>
              if old.has i then old.data.getD i 0 else if gs.contains (i / 16) then seen.memByte (r.line + i) else 0
            valid := old.valid.mapIdx fun g v => v || gs.contains g }
        let keep := !s1.bypass r.line && (r.cp != 2 || r.atAtomicUnit || r.kind == .prefL2)
        let s2 := if keep then s1.l2Set fill else s1
        if r.kind == .cread && s1.bypass r.line then
          s2.respond p.pid fun x =>
            { x with value := BitVec.ofNat 64 (leNat ((List.range 8).map fun i => seen.dramByte (r.wordPA + i))) }
        else if r.atAtomicUnit then s2.modPacket p.pid fun x => { x with waiting := false }
        else s2.answerRead p r ((List.range 128).map fun i => if old.has i then old.data.getD i 0 else seen.dramByte (r.line + i))

/-- What a slice holds of a unit whose write was dropped, and has not made dirty since, is not what memory holds (R42). -/
def State.l2Forget (s : State) (m : MemReq) : State :=
  let u := checkUnit m.line
  { s with l2 := s.l2.map fun (l : L2Line) =>
      if lineOf (canonPA l.line) == m.line then
        { l with valid := l.valid.mapIdx fun g v =>
            v && (l.dirty.getD g false || !(m.bytes.any fun c => c.1 / u == 16 * g / u)) }
      else l }

/-- The units of a write that it fills only in part: those that a locked read checks (R31, R48). -/
def MemReq.partUnits (m : MemReq) : List Nat :=
  let u := checkUnit m.line
  ((m.bytes.map fun c => c.1 / u).eraseDups.filter fun n => !((List.range u).all fun i => m.bytes.any fun c => c.1 == u * n + i)).map
    fun n => m.line + u * n

/-- A write without its bytes in the unit at an address. -/
def MemReq.without (m : MemReq) (a : Nat) : MemReq :=
  { m with bytes := m.bytes.filter fun c => (m.line + c.1) / checkUnit m.line != a / checkUnit m.line }

/-- A write served by memory. Each unit that it fills only in part is read and checked by itself: where that read is uncorrectable the
unit's bytes are dropped and its other units are written (log 43), and an error that goes unnoticed is written back with the rest of its
unit (R31, R41, R42, R48). A write without a tag charges nobody. -/
def State.memWrite (s : State) (m : MemReq) (e : Ecc) : State :=
  let perform (st : State) (q : MemReq) : State := q.bytes.foldl (fun a c => a.dramPuts (m.line + c.1) [c.2]) st
  let reply (st : State) (f : Packet → Packet) : State :=
    match m.ack with
    | some pid => st.respond pid f
    | none => st
  let k := eccCheck e m.partUnits
  let s1 := s.checked m.wg k
  match k.lost with
  | some (a, aux) =>
    let s2 := perform (s1.l2Forget { m with bytes := m.bytes.filter fun c => !(m.without a).bytes.contains c }) (m.without a)
    if m.slot == 0xFFF then reply s2 id
    else if m.ack.isSome then reply s2 fun x => { x with fault := true, value := aux }
    else s2.groupCheck m.src m.slot { cls := 0, aux := aux }
  | none => reply (perform (s1.asRead k) m) id

/-- A memory request performed. -/
def State.memPerform (s : State) (m : MemReq) (e : Ecc) : State := if m.kind == 0 then s.memRead m e else s.memWrite m e

/-- A turn goes on while its group has an unblocked request and it has not served 16 (R32). -/
def Turn.goesOn (t : Turn) (q : List MemReq) : Bool := t.count < 16 && (unblocked [] q 0).any fun e => e.2.ofTurn t

/-- A channel without the request that it has just served. -/
def Channel.after (c : Channel) (i : Nat) (t : Turn) : Channel :=
  let q := c.queue.eraseIdx i
  ⟨q, if t.goesOn q then some t else none⟩

/-- Whether a stack's channels hold demand accesses back: maintenance is under way in this slot (R34). -/
def State.inMaintenance (s : State) (stack : Nat) : Bool := (s.stack stack).maint == some s.slotNow

/-- A channel scheduler serves a queued request in its group turn, outside its maintenance (R32, R34). -/
def State.hbmServe (s : State) (stack ch : Nat) (e : Ecc) : State :=
  let k := s.stack stack
  match if s.inMaintenance stack then none else (k.chans[ch]?).bind Channel.pick with
  | none => s
  | some (i, m, t) =>
    (s.modStack stack fun x =>
      { x with chans := x.chans.mapIdx fun j c => if j == ch then c.after i t else c }).memPerform m e

/-- HBM_ACCESS (R32). -/
def execHbmAccess (stack channel : Nat) (e : Ecc) (s : State) : Result := .next (s.hbmServe stack channel e)

/-- A damson buffer serves its oldest access; between accesses to different units the order is not said (R48, log 43). -/
def State.bufferServe (s : State) (n : Nat) (e : Ecc) : State :=
  match (s.buffer n).queue with
  | [] => s
  | m :: rest => (s.modBuffer n fun b => { b with queue := rest }).memPerform m e

/-- BUFFER_ACCESS (R48). -/
def execBufferAccess (buffer : Nat) (e : Ecc) (s : State) : Result := .next (s.bufferServe buffer e)

/-! ### Maintenance (R33 to R40, R49) -/

/-- The row of an offset: its channel, and the bank and row that bits <7> and <35:13> name (R27; how they divide is free, log 8). -/
structure DramRow where
  chan : Nat
  bank : Nat
  row  : Nat

def dramRowOf (off : Nat) : DramRow :=
  let n := bitsN off 7 1 + 2 * bitsN off 13 23
  ⟨channelOf off, Config.dramBank n, Config.dramRow n⟩

/-- A refresh filter: the set bits of each bank's 16,384 (R35). -/
abbrev Filter := List (Nat × Nat × Nat)

/-- The bits of a row in its bank's filter: three hashes of the row number (R35, log 8). -/
def DramRow.bits (r : DramRow) : Filter := (List.range 3).map fun k => (r.chan, r.bank, Config.rowHash k r.row % 16384)

/-- Whether a filter holds a row. -/
def inFilter (f : Filter) (r : DramRow) : Bool := r.bits.all f.contains

/-- The retention class of a row in milliseconds (R35). -/
def Stack.rowClass (k : Stack) (r : DramRow) : Nat :=
  if inFilter k.f32 r then 32 else if inFilter k.f64 r then 64 else 128

/-- Bits added to a bank's filter; one that would hold more than 8,192 is set whole (R37). -/
def filterInsert (f : Filter) (r : DramRow) : Filter × Bool :=
  let g := r.bits.foldl (fun a b => if a.contains b then a else b :: a) f
  let mine (b : Nat × Nat × Nat) : Bool := b.1 == r.chan && b.2.1 == r.bank
  if 8192 < (g.filter mine).length then
    ((g.filter fun b => !mine b) ++ (List.range 16384).map fun i => (r.chan, r.bank, i), true)
  else (g, false)

/-- A row is demoted one class (R37). -/
def Stack.demote (k : Stack) (r : DramRow) : Stack :=
  match k.rowClass r with
  | 128 => let x := filterInsert k.f64 r; { k with f64 := x.1, filterFull := k.filterFull || x.2 }
  | 64 => let x := filterInsert k.f32 r; { k with f32 := x.1, filterFull := k.filterFull || x.2 }
  | _ => k

/-- Bytes of a stack, and of a buffer. -/
def stackBytes : Nat := 2 ^ 36
def bufferBytes : Nat := 2 ^ 38

/-- The patrol scrubber's visit of one granule: a correctable error is counted and its row demoted; an uncorrectable one is counted and
reported to the wing that owns the granule (R37, R39). The write-back of a corrected granule changes no byte that a read returns, under
any key, and neither does its being dropped for a demand write (R40): it leaves no trace in the state. -/
def State.scrub (s : State) (n : Nat) (e : Ecc) : State :=
  let at_ := (s.stack n).scrubAt
  let pa := (9 + n) * 2 ^ 40 + at_
  let k := eccCheck e [pa]
  let s1 := s.checked (s.wgOf pa) k
  let s2 := match k with | .corrected _ => s1.modStack n fun x => x.demote (dramRowOf at_) | _ => s1
  s2.modStack n fun x => { x with scrubAt := (at_ + 16) % stackBytes }

/-- A maintenance slot of a stack: every channel has maintenance due (log 8) and holds demand accesses back until the slot ends; due
refresh, then scrubbing; refresh that does not fit takes the overflow slots (R33, R34, R39). `overwritten` says that a demand write
to the scrubbed granule came between, after which the memory holds what it holds without it (R40). -/
def State.maintenance (s : State) (n : Nat) (refreshDone : Bool) (e : Ecc) (_overwritten : Bool) : State :=
  if s.slotNow != s.docent.wheelSlot || (s.slotKind s.slotNow).1 != 2 || !(s.stack n).trained then s
  else
    let s1 := s.modStack n fun k =>
      { k with refreshes := k.refreshes + 1, overflow := !refreshDone, maint := some s.slotNow }
    if refreshDone && (s.stack n).scrubHours != 0 then s1.scrub n e else s1

/-- MAINTENANCE_SLOT (R34). -/
def execMaintenanceSlot (stack : Nat) (refreshDone : Bool) (e : Ecc) (overwritten : Bool) (s : State) : Result :=
  .next (s.maintenance stack refreshDone e overwritten)

/-- A fencing's report: to the wing that the unit belongs to, else to the operator (R415, R422). -/
def State.fenceReport (s : State) (owner : Option Wing) (src : RepSrc) (place : Nat) : State :=
  s.report ((owner.map (·.id)).getD 15) (reportBody src 0 0 place none false 0 none)

/-- A stack or buffer is fenced (R422). -/
def State.fenceStack (s : State) (n : Nat) : State :=
  if (s.stack n).fenced then s
  else (s.modStack n fun k => { k with fenced := true }).fenceReport (s.ownerOf ((9 + n) * 2 ^ 40)) .stack (9 + n)
def State.fenceBuffer (s : State) (n : Nat) : State :=
  if (s.buffer n).fenced then s
  else (s.modBuffer n fun b => { b with fenced := true }).fenceReport (s.ownerOf ((0x20 + n) * 2 ^ 40)) .buffer n

/-- The temperature sample of a stack (R38, R423). -/
def State.stackTemp (s : State) (n celsius : Nat) : State :=
  let s1 := s.modStack n fun k =>
    { k with temp := celsius, halved := if 85 < celsius then true else if celsius ≤ 80 then false else k.halved }
  if 105 < celsius then s1.fenceStack n else s1

/-- HBM_TEMPERATURE_SAMPLE (R38). -/
def execHbmTemperatureSample (stack celsius : Nat) (s : State) : Result := .next (s.stackTemp stack celsius)

/-- BUFFER_REFRESH (R49). -/
def execBufferRefresh (buffer : Nat) (s : State) : Result :=
  .next (s.modBuffer buffer fun b => { b with refreshes := b.refreshes + 1 })

/-- A buffer's patrol scrub of one 64-byte unit (R49). -/
def State.bufferScrub (s : State) (n : Nat) (e : Ecc) : State :=
  let at_ := (s.buffer n).scrubAt
  let pa := (0x20 + n) * 2 ^ 40 + at_
  (s.checked (s.wgOf pa) (eccCheck e [pa])).modBuffer n fun b => { b with scrubAt := (at_ + 64) % bufferBytes }

/-- BUFFER_SCRUB (R49). -/
def execBufferScrub (buffer : Nat) (e : Ecc) (s : State) : Result := .next (s.bufferScrub buffer e)

end Sys2Proof.Machine
end

