-- ==== Sys2Proof/Machine/Sfu.lean ====
section
/-!
DEFINITION. The special functions (R222, R223). SQRT and FDIV are correctly rounded. The others are bounded: their exact
result is computed in fixed point with 256 fraction bits, and the result is the FP32 value within the stated bound
that the free value `Config.sfuOffset` picks (log 5).
-/
namespace Sys2Proof.Machine

/-- Fraction bits of the fixed-point values of this file. -/
def fxBits : Nat := 256
def fxOne : Int := ((2 ^ 256 : Nat) : Int)
/-- pi and ln 2 with 256 fraction bits. -/
def fxPi : Int := 0x3243f6a8885a308d313198a2e03707344a4093822299f31d0082efa98ec4e6c89
def fxLn2 : Int := 0xb17217f7d1cf79abc9e3b39803f2f6af40f343267298b62d8a0d175b8baafa2b

/-- A fixed-point product and quotient, toward minus infinity. -/
def fxMul (a b : Int) : Int := (a * b) / fxOne
def fxDiv (a b : Int) : Int := (a * fxOne) / b

/-- A finite value in fixed point. -/
def fxOf (neg : Bool) (m : Nat) (e : Int) : Int :=
  let v : Int := if 0 ≤ e + 256 then ((m * 2 ^ (e + 256).toNat : Nat) : Int) else ((m / 2 ^ (-(e + 256)).toNat : Nat) : Int)
  if neg then -v else v

/-- Integer square root, one bit at a time from bit `k - 1` down. -/
def isqrtBits (n : Nat) : Nat → Nat → Nat
  | 0, r => r
  | k + 1, r => isqrtBits n k (if (r + 2 ^ k) * (r + 2 ^ k) ≤ n then r + 2 ^ k else r)
def isqrt (n : Nat) : Nat := if n == 0 then 0 else isqrtBits n (log2N n / 2 + 1) 0

/-- A power series: `n` terms, each the last times `z` divided by `d k`. -/
def fxSeries (z : Int) (d : Nat → Int) : Nat → Nat → Int → Int → Int
  | 0, _, _, acc => acc
  | n + 1, k, term, acc =>
    let t := fxMul term z / d k
    fxSeries z d n (k + 1) t (acc + t)

/-- e^z for 0 ≤ z < 1. -/
def fxExp (z : Int) : Int := fxSeries z (fun k => (k + 1 : Nat)) 60 0 fxOne fxOne

/-- 2^t for a fixed-point t below 256. -/
def fxExp2 (t : Int) : Int :=
  let n := t / fxOne
  let f := t - n * fxOne
  let v := fxExp (fxMul f fxLn2)
  if 0 ≤ n then v * ((2 ^ n.toNat : Nat) : Int) else v / ((2 ^ (-n).toNat : Nat) : Int)

/-- Sum of z^(2k+1) / (2k+1): the inverse hyperbolic tangent. -/
def fxAtanhSum (z2 : Int) : Nat → Nat → Int → Int → Int
  | 0, _, _, acc => acc
  | n + 1, k, p, acc => fxAtanhSum z2 n (k + 2) (fxMul p z2) (acc + p / (k : Int))

/-- ln g for 1 ≤ g < 2. -/
def fxLn (g : Int) : Int :=
  let z := fxDiv (g - fxOne) (g + fxOne)
  2 * fxAtanhSum (fxMul z z) 85 1 z 0

/-- sin r and cos r for |r| ≤ 4. -/
def fxSin (r : Int) : Int :=
  fxSeries (-(fxMul r r)) (fun k => (((2 * k + 2) * (2 * k + 3) : Nat) : Int)) 45 0 r r
def fxCos (r : Int) : Int :=
  fxSeries (-(fxMul r r)) (fun k => (((2 * k + 1) * (2 * k + 2) : Nat) : Int)) 45 0 fxOne fxOne

/-- The nearest integer to a / b, ties to even, for positive b. -/
def nearestDiv (a b : Int) : Int :=
  let q := a / b
  let r := a - q * b
  if b < 2 * r || (2 * r == b && q % 2 == 1) then q + 1 else q

/-- The argument reduced into about [-pi, pi]: exactly by C above 2^20, by pi below (R222). -/
def fxReduce (neg : Bool) (m : Nat) (e : Int) : Int :=
  let big := fxOf false 1 20
  if e < 0 && (m : Int) * fxOne ≤ big * ((2 ^ (-e).toNat : Nat) : Int) then
    let a := fxOf neg m e
    a - nearestDiv a (2 * fxPi) * (2 * fxPi)
  else
    -- C = 0x40C9_0FDB = 13176795 x 2^-21
    let a : Int := (m : Int) * ((2 ^ (e + 21).toNat : Nat) : Int) * (if neg then -1 else 1)
    let r := a - nearestDiv a 13176795 * 13176795
    r * ((2 ^ 235 : Nat) : Int)

/-- Order number of an FP32 pattern: equal values of the format ordered as the values are. -/
def f32Idx (bits : Nat) : Int := if 2 ^ 31 ≤ bits then -((bits - 2 ^ 31 : Nat) : Int) else bits
/-- The pattern of an order number; number 0 takes the sign given. -/
def f32OfIdx (neg : Bool) (i : Int) : Nat :=
  if i < 0 then 2 ^ 31 + i.natAbs else if i == 0 && neg then 2 ^ 31 else i.toNat

/-- A fixed-point value rounded to FP32 in a mode. -/
def fxRound (md : Nat) (y : Int) : Nat × Flags := roundF fp32 md false (.fin (y < 0) y.natAbs (-256))

/-- Bound of k units in the last place (R222). -/
def ulpBound (k : Nat) (y : Int) : Int :=
  let l : Int := if y == 0 then -126 else max ((log2N y.natAbs : Int) - 256) (-126)
  (k : Int) * ((2 ^ (l - 23 + 256).toNat : Nat) : Int)

/-- Number of an approximate function, which the free value depends on beside the operand. -/
inductive Sfu where
  | rcp | rsq | exp2 | log2 | sin | cos | tanh
  deriving DecidableEq, Repr

def Sfu.no : Sfu → Nat
  | .rcp => 0x40 | .rsq => 0x41 | .exp2 => 0x43 | .log2 => 0x44 | .sin => 0x45 | .cos => 0x46 | .tanh => 0x47

/-- The exact result in fixed point for a finite non-zero operand in the function's domain; a result that is smaller than the
last bit, or nearer to 1 than it, is one last bit away. -/
def Sfu.exact (k : Sfu) (neg : Bool) (m : Nat) (e : Int) : Int :=
  match k with
  | .rcp =>
    let v : Int := ((2 ^ (512 : Nat) / (m * 2 ^ (e + 256).toNat) : Nat) : Int)
    if neg then -v else v
  | .rsq => (isqrt (2 ^ (768 : Nat) / (m * 2 ^ (e + 256).toNat)) : Nat)
  | .exp2 =>
    let big := (log2N m : Int) + e
    if 9 ≤ big then (if neg then 1 else fxOf false 1 200)
    else max 1 (fxExp2 (fxOf neg m e))
  | .log2 =>
    let l := (log2N m : Int) + e
    l * fxOne + fxDiv (fxLn (fxOf false m (-(log2N m : Int)))) fxLn2
  | .sin => fxSin (fxReduce neg m e)
  | .cos => fxCos (fxReduce neg m e)
  | .tanh =>
    let v :=
      if 7 ≤ (log2N m : Int) + e then fxOne - 1
      else
        let x := fxExp2 (fxDiv (2 * fxOf false m e) fxLn2)
        fxDiv (x - fxOne) (x + fxOne)
    if neg then -v else v

/-- The bound on the result (R222). -/
def Sfu.bound (k : Sfu) (neg : Bool) (m : Nat) (e : Int) (y : Int) : Int :=
  let abs21 := fxOf false 1 (-21)
  match k with
  | .rcp | .rsq => ulpBound 1 y
  | .exp2 | .tanh => ulpBound 2 y
  | .log2 =>
    let a := fxOf neg m e
    if fxOne ≤ 2 * a && a ≤ 2 * fxOne then min (ulpBound 2 y) (fxOf false 1 (-22)) else ulpBound 2 y
  | .sin | .cos =>
    let a := fxOf false m e
    if a ≤ fxPi || fxOf false 1 20 < a then abs21 else max (ulpBound 2 y) abs21

/-- The result within the bound that the free value picks; overflow goes to an infinity (R222, R223). -/
def sfuPick (k : Sfu) (opd : Word) (y b : Int) : Nat :=
  let near := (fxRound 0 y).1
  if near % 2 ^ 31 == fp32.infBits then near
  else
    let lo := f32Idx (fxRound 3 (y - b)).1
    let hi := f32Idx (fxRound 2 (y + b)).1
    if hi < lo then near
    else f32OfIdx (y < 0) (lo + (Config.sfuOffset k.no opd) % (hi - lo + 1))

/-- The exact cases of R223 for a finite non-zero operand. -/
def Sfu.isExact (k : Sfu) (neg : Bool) (m : Nat) (e : Int) : Bool :=
  let pow2 := m == 2 ^ log2N m
  let l := (log2N m : Int) + e
  match k with
  | .rcp => pow2 && -126 ≤ -l && -l ≤ 127
  | .rsq => pow2 && l % 2 == 0
  | .exp2 =>
    let n : Int := if 0 ≤ e then (if e < 9 then (m * 2 ^ e.toNat : Nat) else 1000) else ((m / 2 ^ (-e).toNat : Nat) : Int)
    (0 ≤ e || m % 2 ^ (-e).toNat == 0) && (if neg then n ≤ 126 else n ≤ 127)
  | .log2 => pow2
  | _ => false

/-- The result and flags of a bounded function on a finite non-zero operand in its domain (R222, R223). A zero is inexact where the exact
value is none, and underflows where that value is tiny too (log 5). -/
def sfuFn (k : Sfu) (ftz : Bool) (opd : Word) (neg : Bool) (m : Nat) (e : Int) : Nat × Flags :=
  let y := k.exact neg m e
  if k.isExact neg m e then ((fxRound 0 y).1, 0)
  else
    let r := sfuPick k opd y (k.bound neg m e y)
    let zero := r % 2 ^ 31 == 0
    let tiny := if zero then y != 0 && y.natAbs < 2 ^ 130 else r % 2 ^ 31 < 2 ^ 23
    if tiny && ftz then (r / 2 ^ 31 * 2 ^ 31, flUF ||| flNX)
    else (r, flagIf (!zero || y != 0) flNX ||| flagIf tiny flUF ||| flagIf (r % 2 ^ 31 == fp32.infBits) flOF)

/-- The table of R223 and the bounded functions. -/
def sfuVal (k : Sfu) (ftz : Bool) (a : Word) : Nat × Flags :=
  let one := 0x3F800000
  let neg1 := 0xBF800000
  let inv := (fp32.nanBits, flNV)
  match unpackF fp32 ftz a.toNat with
  | .nan s => nanRes fp32 (.nan s)
  | .inf s =>
    match k with
    | .rcp => (fp32.signBit s, 0)
    | .rsq => if s then inv else (0, 0)
    | .exp2 => (if s then 0 else fp32.infBits, 0)
    | .log2 => if s then inv else (fp32.infBits, 0)
    | .sin | .cos => inv
    | .tanh => (if s then neg1 else one, 0)
  | .fin s 0 _ =>
    match k with
    | .rcp | .rsq => (fp32.signBit s + fp32.infBits, flDZ)
    | .exp2 => (one, 0)
    | .log2 => (fp32.signBit true + fp32.infBits, flDZ)
    | .sin | .tanh => (fp32.signBit s, 0)
    | .cos => (one, 0)
  | .fin s m e =>
    if s && (k == .rsq || k == .log2) then inv
    else sfuFn k ftz a s m e

/-- A bounded SFU instruction. -/
def aluSfu (k : Sfu) (x : LongOp) : Alu :=
  { a := .f32, f := fun a _ _ => let r := sfuVal k (fnBit3 x.fn) a.lo; (BitVec.ofNat 64 r.1, r.2) }

def aluRcp : LongOp → Alu := aluSfu .rcp
def aluRsq : LongOp → Alu := aluSfu .rsq
def aluExp2 : LongOp → Alu := aluSfu .exp2
def aluLog2 : LongOp → Alu := aluSfu .log2
def aluSin : LongOp → Alu := aluSfu .sin
def aluCos : LongOp → Alu := aluSfu .cos
def aluTanh : LongOp → Alu := aluSfu .tanh

/-- SQRT, correctly rounded (R222, R223). -/
def sqrtF (md : Nat) (ftz : Bool) (x : FVal) : Nat × Flags :=
  match x with
  | .nan _ => nanRes fp32 x
  | .inf s => if s then (fp32.nanBits, flNV) else (fp32.infBits, 0)
  | .fin s 0 _ => (fp32.signBit s, 0)
  | .fin s m e =>
    if s then (fp32.nanBits, flNV)
    else
      let sh : Nat := if e % 2 == 0 then 60 else 61
      let n := m * 2 ^ sh
      let r := isqrt n
      roundF fp32 md ftz (.fin false (2 * r + if r * r == n then 0 else 1) ((e - sh) / 2 - 1))

def aluSqrt (x : LongOp) : Alu :=
  { a := .f32,
    f := fun a _ _ =>
      let r := sqrtF (fnRnd x.fn) (fnBit3 x.fn) (fel 8 (fnBit3 x.fn) a 0)
      (BitVec.ofNat 64 r.1, r.2) }

/-- FDIV, correctly rounded (R222, R223). -/
def divF (md : Nat) (ftz : Bool) (x y : FVal) : Nat × Flags :=
  match x, y with
  | .nan _, _ | _, .nan _ => (fp32.nanBits, nvOf x y)
  | .inf _, .inf _ => (fp32.nanBits, flNV)
  | .inf s, .fin t _ _ => (fp32.signBit (s != t) + fp32.infBits, 0)
  | .fin s _ _, .inf t => (fp32.signBit (s != t), 0)
  | .fin s m e, .fin t n g =>
    if n == 0 then (if m == 0 then (fp32.nanBits, flNV) else (fp32.signBit (s != t) + fp32.infBits, flDZ))
    else if m == 0 then (fp32.signBit (s != t), 0)
    else
      let q := m * 2 ^ 60 / n
      let r := m * 2 ^ 60 % n
      roundF fp32 md ftz (.fin (s != t) (2 * q + if r == 0 then 0 else 1) (e - g - 61))

def aluFdiv (x : LongOp) : Alu :=
  let ftz := fnBit3 x.fn
  { a := .f32, b := .f32,
    f := fun a b _ =>
      let r := divF (fnRnd x.fn) ftz (fel 8 ftz a 0) (fel 8 ftz b 0)
      (BitVec.ofNat 64 r.1, r.2) }

end Sys2Proof.Machine
end

