-- ==== Sys2Proof/Machine/FloatInstr.lean ====
section
/-!
DEFINITION. The float, conversion and special-function instructions (R205 to R224); CVTPK and CVTUPK stand in Pack.lean.
-/
namespace Sys2Proof.Machine

/-- FADD (R207). -/
def execFadd (x : LongOp) (s : State) : Result := s.issueAlu (longLen x) 0x20 x (aluFadd x)

/-- FSUB (R207). -/
def execFsub (x : LongOp) (s : State) : Result := s.issueAlu (longLen x) 0x21 x (aluFsub x)

/-- FMUL (R207). -/
def execFmul (x : LongOp) (s : State) : Result := s.issueAlu (longLen x) 0x22 x (aluFmul x)

/-- FFMA (R207). -/
def execFfma (x : LongOp) (s : State) : Result := s.issueAlu (longLen x) 0x23 x (aluFfma x)

/-- FMIN (R211). -/
def execFmin (x : LongOp) (s : State) : Result := s.issueAlu (longLen x) 0x24 x (aluFmin x)

/-- FMAX (R211). -/
def execFmax (x : LongOp) (s : State) : Result := s.issueAlu (longLen x) 0x25 x (aluFmax x)

/-- FSET (R212). -/
def execFset (x : LongOp) (s : State) : Result := s.issueAlu (longLen x) 0x26 x (aluFset x)

/-- FCLASS (R213). -/
def execFclass (x : LongOp) (s : State) : Result := s.issueAlu (longLen x) 0x27 x (aluFclass x)

/-- FRND (R210). -/
def execFrnd (x : LongOp) (s : State) : Result := s.issueAlu (longLen x) 0x28 x (aluFrnd x)

/-- FDOT2 (R208). -/
def execFdot2 (x : LongOp) (s : State) : Result := s.issueAlu (longLen x) 0x29 x (aluFdot2 x)

/-- FSCALE (R209). -/
def execFscale (x : LongOp) (s : State) : Result := s.issueAlu (longLen x) 0x2A x (aluFscale x)

/-- CVT (R214, R215). -/
def execCvt (x : LongOp) (s : State) : Result := s.issueAlu (longLen x) 0x30 x (aluCvt x)

/-- RCP (R222, R223). -/
def execRcp (x : LongOp) (s : State) : Result := s.issueAlu (longLen x) 0x40 x (aluRcp x)

/-- RSQ (R222, R223). -/
def execRsq (x : LongOp) (s : State) : Result := s.issueAlu (longLen x) 0x41 x (aluRsq x)

/-- SQRT (R222, R223). -/
def execSqrt (x : LongOp) (s : State) : Result := s.issueAlu (longLen x) 0x42 x (aluSqrt x)

/-- EXP2 (R222, R223). -/
def execExp2 (x : LongOp) (s : State) : Result := s.issueAlu (longLen x) 0x43 x (aluExp2 x)

/-- LOG2 (R222, R223). -/
def execLog2 (x : LongOp) (s : State) : Result := s.issueAlu (longLen x) 0x44 x (aluLog2 x)

/-- SIN (R222, R223). -/
def execSin (x : LongOp) (s : State) : Result := s.issueAlu (longLen x) 0x45 x (aluSin x)

/-- COS (R222, R223). -/
def execCos (x : LongOp) (s : State) : Result := s.issueAlu (longLen x) 0x46 x (aluCos x)

/-- TANH (R222, R223). -/
def execTanh (x : LongOp) (s : State) : Result := s.issueAlu (longLen x) 0x47 x (aluTanh x)

/-- FDIV (R222, R223). -/
def execFdiv (x : LongOp) (s : State) : Result := s.issueAlu (longLen x) 0x48 x (aluFdiv x)

end Sys2Proof.Machine
end

