-- ==== Sys2Proof/Machine/Integer.lean ====
section
/-!
DEFINITION. The integer instructions, opcodes 0x00 to 0x0F (R189 to R199).
-/
namespace Sys2Proof.Machine

/-- IADD (R193). -/
def execIadd (x : LongOp) (s : State) : Result := s.issueAlu (longLen x) 0x00 x (aluIadd x)

/-- ISUB (R193). -/
def execIsub (x : LongOp) (s : State) : Result := s.issueAlu (longLen x) 0x01 x (aluIsub x)

/-- IMUL (R193). -/
def execImul (x : LongOp) (s : State) : Result := s.issueAlu (longLen x) 0x02 x (aluImul x)

/-- IMULH (R193). -/
def execImulh (x : LongOp) (s : State) : Result := s.issueAlu (longLen x) 0x03 x (aluImulh x)

/-- IMAD and IMAD.wide (R193, R194). -/
def execImad (x : LongOp) (s : State) : Result := s.issueAlu (longLen x) 0x04 x (aluImad x)

/-- IMIN (R193). -/
def execImin (x : LongOp) (s : State) : Result := s.issueAlu (longLen x) 0x05 x (aluImin x)

/-- IMAX (R193). -/
def execImax (x : LongOp) (s : State) : Result := s.issueAlu (longLen x) 0x06 x (aluImax x)

/-- IABS (R193). -/
def execIabs (x : LongOp) (s : State) : Result := s.issueAlu (longLen x) 0x07 x (aluIabs x)

/-- INEG (R193). -/
def execIneg (x : LongOp) (s : State) : Result := s.issueAlu (longLen x) 0x08 x (aluIneg x)

/-- IDIV (R195). -/
def execIdiv (x : LongOp) (s : State) : Result := s.issueAlu (longLen x) 0x09 x (aluIdiv x)

/-- LEA (R197). -/
def execLea (x : LongOp) (s : State) : Result := s.issueAlu (longLen x) 0x0A x (aluLea x)

/-- ISET (R199). -/
def execIset (x : LongOp) (s : State) : Result := s.issueAlu (longLen x) 0x0B x (aluIset x)

/-- SEL (R198). -/
def execSel (x : LongOp) (s : State) : Result := s.issueAlu (longLen x) 0x0C x (aluSel x)

/-- MOV (R198). -/
def execMov (x : LongOp) (s : State) : Result := s.issueAlu (longLen x) 0x0D x (aluMov x)

/-- IDP4 (R196). -/
def execIdp4 (x : LongOp) (s : State) : Result := s.issueAlu (longLen x) 0x0E x (aluIdp4 x)

/-- PLOP (R199). -/
def execPlop (x : LongOp) (s : State) : Result := s.issueAlu (longLen x) 0x0F x (aluPlop x)

end Sys2Proof.Machine
end

