-- ==== Sys2Proof/Machine/Logic.lean ====
section
/-!
DEFINITION. The logic and bit instructions, opcodes 0x10 to 0x1E (R200 to R203).
-/
namespace Sys2Proof.Machine

/-- AND (R200). -/
def execAndB (x : LongOp) (s : State) : Result := s.issueAlu (longLen x) 0x10 x (aluAnd x)

/-- OR (R200). -/
def execOrB (x : LongOp) (s : State) : Result := s.issueAlu (longLen x) 0x11 x (aluOr x)

/-- XOR (R200). -/
def execXorB (x : LongOp) (s : State) : Result := s.issueAlu (longLen x) 0x12 x (aluXor x)

/-- BTAB (R200). -/
def execBtab (x : LongOp) (s : State) : Result := s.issueAlu (longLen x) 0x13 x (aluBtab x)

/-- NOT (R200). -/
def execNotB (x : LongOp) (s : State) : Result := s.issueAlu (longLen x) 0x14 x (aluNot x)

/-- SHL (R201). -/
def execShl (x : LongOp) (s : State) : Result := s.issueAlu (longLen x) 0x15 x (aluShl x)

/-- SHR (R201). -/
def execShr (x : LongOp) (s : State) : Result := s.issueAlu (longLen x) 0x16 x (aluShr x)

/-- SAR (R201). -/
def execSar (x : LongOp) (s : State) : Result := s.issueAlu (longLen x) 0x17 x (aluSar x)

/-- SHF (R201). -/
def execShf (x : LongOp) (s : State) : Result := s.issueAlu (longLen x) 0x18 x (aluShf x)

/-- BFE (R202). -/
def execBfe (x : LongOp) (s : State) : Result := s.issueAlu (longLen x) 0x19 x (aluBfe x)

/-- BFI (R202). -/
def execBfi (x : LongOp) (s : State) : Result := s.issueAlu (longLen x) 0x1A x (aluBfi x)

/-- POPC (R203). -/
def execPopc (x : LongOp) (s : State) : Result := s.issueAlu (longLen x) 0x1B x (aluPopc x)

/-- CLZ (R203). -/
def execClz (x : LongOp) (s : State) : Result := s.issueAlu (longLen x) 0x1C x (aluClz x)

/-- CTZ (R203). -/
def execCtz (x : LongOp) (s : State) : Result := s.issueAlu (longLen x) 0x1D x (aluCtz x)

/-- BREV (R203). -/
def execBrev (x : LongOp) (s : State) : Result := s.issueAlu (longLen x) 0x1E x (aluBrev x)

end Sys2Proof.Machine
end

