-- ==== Sys2Proof/Machine/Peers.lean ====
section
/-!
DEFINITION. The ports (R401), RoCEv2 as responder and as requester (R406 to R408), and the CCP messages by which a wing asks for
regions, queue pairs, generation raises and pre-emptions (R80, R391, R406, R407, R411).
-/
namespace Sys2Proof.Machine

/-! ### Ports (R401) -/

/-- PORT_FRAME_RECEIVE: what a port does not carry is dropped and counted (R401). A CCP message or a RoCEv2 operation that it carries is
then served by its own row; a message whose TYPE has none is served here (R411). -/
def execPortFrameReceive (port : Nat) (kind : FrameKind) (s : State) : Result :=
  .next (match ccpOf (.portFrameReceive port kind) with
    | some m => s.unlisted m
    | none => s.frame port kind)

/-! ### RoCEv2 as responder (R406, R407, R416) -/

/-- Who makes the accesses of a region or a queue pair: a unit outside the cores. -/
def roceWho (asid wing : Nat) : Who := ⟨⟨0, 0⟩, asid, wing, 0xFFF⟩

/-- The region that an operation names, if it passes the checks of R407. -/
def State.regionFor (s : State) (q : Qp) (rkey va len : Nat) (write : Bool) : Option Region :=
  s.regions.find? fun r =>
    r.rkey == rkey && r.wing == q.wing && r.va ≤ va && va + len ≤ r.va + r.len && (if write then r.writeOk else r.readOk)

/-- A remote-access NAK. -/
def State.nak (s : State) (qp : Nat) : State := s.send (.roceNak qp)

/-- Packets of a message under the path MTU of 4,096 bytes. -/
def pathPackets (len : Nat) : Nat := max 1 ((len + 4095) / 4096)

/-- Sequence numbers go on by the packets of a message. -/
def psnAfter (psn len : Nat) : Nat := (psn + pathPackets len) % 2 ^ 24

/-- A message reaches its queue pair, by the queue pair's own port: it is dropped and counted where that port is another wing's (R401),
and NAKed where there is none, or before Stage 2 (R416). -/
def State.roce (s : State) (qp : Nat) (f : Qp → State) : State :=
  match s.qp? qp with
  | none => s.nak qp
  | some q =>
    if !s.carries q.body.port (.roce qp) then s.frame q.body.port (.roce qp)
    else if s.docent.stage < 2 then s.nak qp
    else f q

/-- Bytes placed at home page by page, until a page fails (R121, R126, R407). -/
def State.place (s : State) (w : Who) (va : Nat) (data : List Byte) : State × Option Cause :=
  let r := s.prefixPages w .write (pageFuel data.length) va data.length
  (s.writePages w r.1 data, r.2)

/-- An incoming operation is acknowledged, and its queue pair goes on. -/
def State.roceDone (s : State) (q : Qp) (len : Nat) (data : List Byte) : State :=
  (s.modQp q.qpn fun x => { x with rxPsn := psnAfter x.rxPsn len }).send (.roceAck q.qpn data)

/-- An operation that met a fault: NAK, and a report (R407, R415). -/
def State.roceFault (s : State) (q : Qp) (c : Cause) : State := (s.unitReport q.wing .port q.body.port c).nak q.qpn

/-- A WRITE whose bytes have all been placed: its immediate is added to the region's counter, and it is acknowledged (R407). -/
def State.placed (s : State) (q : Qp) (m : Placing) : State :=
  match m.imm, m.region.cntVa with
  | some i, some cv =>
    match s.unitAdd m.region.asid m.region.wing cv (i.setWidth 64) with
    | .error c => s.roceFault q { c with va := some cv }
    | .ok (s1, spill) =>
      (if spill then s1.unitReport q.wing .port q.body.port { cls := 6, aux := BitVec.ofNat 64 cv } else s1).roceDone q m.len []
  | _, _ => s.roceDone q m.len []

/-- The next 8-byte element of the WRITE that a queue pair is placing; one that fails ends the message, and the last one completes it
(R121, R407). -/
def State.placeNext (s : State) (qp : Nat) : State :=
  match s.qp? qp with
  | none => s
  | some q =>
    match q.writes with
    | [] => s
    | m :: rest =>
      let n := min m.data.length (8 - m.va % 8)
      let m1 : Placing := { m with va := m.va + n, data := m.data.drop n }
      match s.place (roceWho m.region.asid m.region.wing) m.va (m.data.take n) with
      | (s1, some c) => (s1.modQp qp fun x => { x with writes := rest }).roceFault q c
      | (s1, none) =>
        if m1.data.isEmpty then (s1.modQp qp fun x => { x with writes := rest }).placed q m
        else s1.modQp qp fun x => { x with writes := m1 :: rest }

/-- An incoming WRITE that passes its checks is placed from now on, behind those before it; `imm` is the immediate of one that has one
(R407). -/
def State.roceWrite (s : State) (qp rkey va : Nat) (data : List Byte) (imm : Option Word) : State :=
  s.roce qp fun q =>
    match s.regionFor q rkey va data.length true with
    | none => s.nak qp
    | some r => s.modQp qp fun x => { x with writes := x.writes ++ [⟨r, va, data.length, data, imm⟩] }

/-- ROCE_WRITE (R407). -/
def execRoceWrite (qp rkey va : Nat) (data : List Byte) (s : State) : Result := .next (s.roceWrite qp rkey va data none)

/-- ROCE_WRITE_IMMEDIATE (R407). -/
def execRoceWriteImmediate (qp rkey va : Nat) (data : List Byte) (imm : Word) (s : State) : Result :=
  .next (s.roceWrite qp rkey va data (some imm))

/-- An incoming READ (R406, R407). -/
def State.roceRead (s : State) (qp rkey va len : Nat) : State :=
  s.roce qp fun q =>
    match s.regionFor q rkey va len false with
    | none => s.nak qp
    | some r =>
      match s.engPages (roceWho r.asid r.wing) .read va len with
      | .error c => s.roceFault q c
      | .ok ps => s.roceDone q len (s.readPages ps)

/-- ROCE_READ (R407). -/
def execRoceRead (qp rkey va len : Nat) (s : State) : Result := .next (s.roceRead qp rkey va len)

/-! ### RoCEv2 as requester (R408) -/

/-- Who reads and writes a queue pair's ring, counters and local data. -/
def Qp.who (q : Qp) : Who := roceWho q.body.asid q.wing

/-- Slot of descriptor `n`. -/
def Qp.slotVa (q : Qp) (n : Nat) : Nat := q.body.ringVa + 32 * (n % max 1 q.body.ringSize)

/-- The oldest descriptor of a queue pair that is not complete completes: a failure's status goes into byte 1 of its slot, then the
completion counter goes up (R408). -/
def State.finish (s : State) (qp status : Nat) : State :=
  match s.qp? qp with
  | none => s
  | some q =>
    let s1 := s.modQp qp fun x => { x with completed := x.completed + 1, sent := x.sent.drop 1 }
    let s2 := if status == 0 then s1 else (s1.place q.who (q.slotVa q.completed + 1) [BitVec.ofNat 8 status]).1
    match s2.unitAdd q.body.asid q.wing q.body.doneVa 1 with
    | .error c => s2.unitReport q.wing .port q.body.port { c with va := some q.body.doneVa }
    | .ok (s3, spill) =>
      if spill then s3.unitReport q.wing .port q.body.port { cls := 6, aux := BitVec.ofNat 64 q.body.doneVa } else s3

/-- Descriptors whose status is known complete once none before them is left: descriptors complete in ring order (R408). -/
def State.finishKnown (s : State) (qp : Nat) : Nat → State
  | 0 => s
  | n + 1 =>
    match ((s.qp? qp).bind fun q => q.sent.head?).bind (·.status) with
    | none => s
    | some st => (s.finish qp st).finishKnown qp n

/-- A queue pair's descriptors complete as far as their statuses are known. -/
def State.finishAll (s : State) (qp : Nat) : State := s.finishKnown qp (((s.qp? qp).map (·.sent.length)).getD 0)

/-- The doorbell at its home; an unreadable one publishes nothing. -/
def State.doorbell (s : State) (q : Qp) : Nat :=
  match s.engPages q.who .atomic q.body.bellVa 8 with
  | .error _ => 0
  | .ok ps => leNat (s.readPages ps)

/-- What a descriptor's bytes say, and the status with which it fails at once: an operation that there is not, or a LEN out of its range,
for which the manual names none (R408, log 26). -/
def SendDesc.parse (d : List Byte) : SendDesc :=
  let op := bytesNat d 0 1
  let len := bytesNat d 4 4
  ⟨op, bytesNat d 8 8, len, if 3 ≤ op then some 0x01 else if len == 0 || 2 ^ 31 < len then some 0x02 else none⟩

/-- A descriptor joins those of its queue pair that are not complete. -/
def State.enlist (s : State) (qp : Nat) (d : SendDesc) : State := s.modQp qp fun x => { x with sent := x.sent ++ [d] }

/-- A descriptor taken: it is sent, or is to complete with a failure (R408). -/
def State.perform (s : State) (q : Qp) (b : List Byte) : State :=
  let d := SendDesc.parse b
  let sent (data : List Byte) : State :=
    ((s.enlist q.qpn d).modQp q.qpn fun x => { x with body := { x.body with txPsn := psnAfter x.body.txPsn d.len } }).send
      (.roceSend q.qpn d.op (bytesNat b 16 8) (bytesNat b 24 4) (bytesNat b 28 4) d.len data)
  if d.status.isSome then (s.enlist q.qpn d).finishAll q.qpn
  else if d.op == 2 then sent []
  else
    match s.engPages q.who .read d.lva d.len with
    | .error c => ((s.found c).enlist q.qpn { d with status := some 0x02 }).finishAll q.qpn
    | .ok ps => sent (s.readPages ps)

/-- The next published descriptor of a queue pair is taken (R408). -/
def State.takeDescriptor (s : State) (qp : Nat) : State :=
  match s.qp? qp with
  | none => s
  | some q =>
    if s.docent.stage < 2 || s.doorbell q ≤ q.taken then s
    else
      let s1 := s.modQp qp fun x => { x with taken := x.taken + 1 }
      match s1.engPages q.who .read (q.slotVa q.taken) 32 with
      | .error c => ((s1.found c).enlist qp ⟨0, 0, 0, some 0x02⟩).finishAll qp
      | .ok ps => s1.perform q (s1.readPages ps)

/-- SEND_DESCRIPTOR_TAKE (R408). -/
def execSendDescriptorTake (qp : Nat) (s : State) : Result := .next (s.takeDescriptor qp)

/-- The remote side answers the oldest descriptor that was sent: a READ's data is placed (R408). -/
def State.completeDescriptor (s : State) (qp : Nat) (nak : Bool) (data : List Byte) : State :=
  if (s.qp? qp).isNone then s
  else s.roce qp fun q =>
    match q.sent with
    | [] => s
    | d :: _ =>
      if nak then (s.finish qp 0x03).finishAll qp
      else if d.op == 2 then
        match s.place q.who d.lva (data.take d.len) with
        | (s1, some c) => ((s1.found c).finish qp 0x02).finishAll qp
        | (s1, none) => (s1.finish qp 0).finishAll qp
      else (s.finish qp 0).finishAll qp

/-- DESCRIPTOR_COMPLETE (R408). -/
def execDescriptorComplete (qp : Nat) (nak : Bool) (data : List Byte) (s : State) : Result :=
  .next (s.completeDescriptor qp nak data)

/-- DCQCN_RATE_REDUCTION: the rate of a queue pair goes down to one that DCQCN chooses (R406); which one the manual leaves
open. -/
def execDcqcnRateReduction (qp : Nat) (s : State) : Result :=
  let (k, s1) := s.freshFree
  .next (s1.modQp qp fun q => { q with rate := q.rate - Config.name k % (q.rate + 1) })

/-! ### Queue pairs and regions (R406, R407) -/

/-- Whether a QPCREATE body is well formed (R303, R406). -/
def qpBodyOk (b : QpBody) : Bool :=
  b.port < 16 && [16, 32, 64, 128, 256, 512, 1024, 2048, 4096].contains b.ringSize && b.bellVa % 8 == 0 && b.doneVa % 8 == 0 &&
  b.rqpn < 2 ^ 24 && b.txPsn < 2 ^ 24 && b.rxPsn < 2 ^ 24 && b.asid < 2 ^ 16

/-- QPCREATE: the reply carries the queue pair's number (R406). That a failed port draws NOTREADY is the model's choice (log 44). -/
def State.qpCreate (s : State) (m : Ccp) (b : QpBody) : State :=
  s.ccpActive m 0x0A fun s1 =>
    if !qpBodyOk b then s1.reply m codeBADMSG []
    else if !(s1.wing m.wing).ports.getLsbD b.port || (s1.desc b.asid).wg != m.wing then s1.reply m codeDENIED []
    else if !(s1.ports.find? fun p => p.id == b.port).any (·.up) then s1.reply m codeNOTREADY []
    else if 256 ≤ (s1.qps.filter fun q => q.wing == m.wing).length || 2048 ≤ s1.qps.length then s1.reply m codeFULL []
    else
      match s1.pickUnused (s1.qps.map (·.qpn)) 0 (2 ^ 24) with
      | (none, s2) => s2.reply m codeFULL []
      | (some n, s2) =>
        let q : Qp := { qpn := n, wing := m.wing, body := b, taken := 0, completed := 0, rxPsn := b.rxPsn, rate := 256, sent := [], writes := [] }
        ({ s2 with qps := s2.qps ++ [q] } : State).reply m codeOK [n]

/-- QPCREATE (R406). -/
def execQpcreate (m : Ccp) (b : QpBody) (s : State) : Result := .next (s.qpCreate m b)

/-- QPDESTROY (R406): the queue pair must be the sender's. -/
def execQpdestroy (m : Ccp) (qp : Nat) (s : State) : Result :=
  .next (s.ccpActive m 0x0B fun s1 =>
    match s1.qp? qp with
    | none => s1.reply m codeBADMSG []
    | some q =>
      if q.wing != m.wing then s1.reply m codeDENIED []
      else ({ s1 with qps := s1.qps.filter fun x => x.qpn != qp } : State).reply m codeOK [])

/-- MRREG: the reply carries a 32-bit RKEY (R407). -/
def State.mrReg (s : State) (m : Ccp) (b : MrBody) : State :=
  s.ccpActive m 0x08 fun s1 =>
    if !(b.asid < 2 ^ 16 && b.va + b.len ≤ 2 ^ 56 && ((b.cntVa.map fun v => v % 8 == 0).getD true)) then s1.reply m codeBADMSG []
    else if (s1.desc b.asid).wg != m.wing then s1.reply m codeDENIED []
    else
      match s1.pickUnused (s1.regions.map (·.rkey)) 0 (2 ^ 32) with
      | (none, s2) => s2.reply m codeFULL []
      | (some k, s2) =>
        let r : Region :=
          { rkey := k, wing := m.wing, asid := b.asid, va := b.va, len := b.len, readOk := b.readOk, writeOk := b.writeOk
            cntVa := b.cntVa }
        ({ s2 with regions := s2.regions ++ [r] } : State).reply m codeOK [k]

/-- MRREG (R407). -/
def execMrreg (m : Ccp) (b : MrBody) (s : State) : Result := .next (s.mrReg m b)

/-- MRDROP (R407): the region must be the sender's. -/
def execMrdrop (m : Ccp) (rkey : Nat) (s : State) : Result :=
  .next (s.ccpActive m 0x09 fun s1 =>
    match s1.regions.find? fun r => r.rkey == rkey with
    | none => s1.reply m codeBADMSG []
    | some r =>
      if r.wing != m.wing then s1.reply m codeDENIED []
      else ({ s1 with regions := s1.regions.filter fun x => x.rkey != rkey } : State).reply m codeOK [])

/-! ### GENRAISE and PREEMPT (R80, R81, R391, R411) -/

/-- GENRAISE: the reply goes out when the raise completes (R80, R81). -/
def execGenraise (m : Ccp) (asid : Nat) (s : State) : Result :=
  .next (s.ccpActive m 0x06 fun s1 =>
    if 2 ^ 16 ≤ asid then s1.reply m codeBADMSG []
    else if (s1.desc asid).wg != m.wing then s1.reply m codeDENIED []
    else if s1.memDown (s1.genPA asid) || s1.bypass (s1.genPA asid) then s1.reply m codeNOTREADY []
    else s1.startRaise 0 asid none (some (m.wing, m.seq)))

/-- PREEMPT: a wing's own group (R391, R411); a request that names no resident group is ignored. -/
def execPreempt (m : Ccp) (die core slot : Nat) (s : State) : Result :=
  .next (s.ccpActive m 0x07 fun s1 =>
    let c : CoreId := ⟨die, core⟩
    if 9 ≤ die || 16 ≤ core || 4096 ≤ slot then s1.reply m codeBADMSG []
    else if s1.dieWing die != m.wing || ((s1.group? c slot).map fun g => g.wing != m.wing).getD false then s1.reply m codeDENIED []
    else (s1.requestPreempt c slot 2).reply m codeOK [])

end Sys2Proof.Machine
end

