-- ==== Sys2Proof/Machine/Wings.lean ====
section
/-!
DEFINITION. Wings and their resources (R402 to R404), the slot wheel's owners (R405), and memory keys (R412 to R414, R417).
-/
namespace Sys2Proof.Machine

/-! ### Entries as they are read (R402, R412) -/

/-- STATE of a wing, and of a key slot. -/
def WingSt.no : WingSt → Nat
  | .free => 0 | .active => 1 | .quiesced => 2 | .revoked => 3
def KeySt.no : KeySt → Nat
  | .empty => 0 | .loaded => 1 | .zeroising => 2

/-- A wing-table entry (R402). -/
def Wing.entry (w : Wing) : Nat :=
  w.st.no * 2 ^ 62 + (if w.catUnit then 2 ^ 33 else 0) + w.bufs.toNat * 2 ^ 25 + w.ports.toNat * 2 ^ 9 + w.dies.toNat

/-- A key slot's byte (R412). -/
def Wing.slotByte (w : Wing) : Nat := (if w.retain then 4 else 0) + w.keySt.no

/-! ### A core or a die that passes a reset -/

/-- A core starts anew (R99, R372): its warps and groups are gone, and so are its requests on their way; a fence and notices that
wait stay, and a read of it that others have merged into goes on for them (R97). -/
def State.resetCore (s : State) (c : CoreId) : State :=
  let gone := (s.packets.filter fun p => p.core == c && p.merged.isEmpty).map (·.pid)
  let s1 := (s.modCore c fun k => { Core.reset c with fenced := k.fenced, notices := k.notices }).modDie c.die fun d =>
    { d with walks := d.walks.filter fun k => k.core != c }
  { s1 with
    packets := s1.packets.filterMap fun (p : Packet) =>
      let q := { p with merged := p.merged.filter fun m => m.1 != c }
      if p.core == c then q.handOver else some q
    monitors := s1.monitors.filter fun m => !gone.contains m.pid
    warps := s1.warps.filter fun (w : Warp) => w.id.coreId != c
    groups := s1.groups.filter fun (g : Group) => g.core != c || !g.resident
    raises := s1.raises.map fun (r : Raise) => { r with left := r.left.filter (· != c) } }

/-- Cores of a die, its curator core last. -/
def dieCores (d : Nat) : List CoreId := (List.range 17).map fun c => ⟨d, c⟩

/-- Every core of a die starts anew; the curator program is to be loaded again (R422). -/
def State.resetCores (s : State) (d : Nat) : State :=
  ((dieCores d).foldl State.resetCore s).modDie d fun x => { x with curatorLoaded := false }

/-- L2 lines of a die are written back and leave it (R421). -/
def State.l2Leave (s : State) (p : L2Line → Bool) : State :=
  let s1 := (s.l2.filter p).foldl State.l2WriteBack s
  { s1 with l2 := s1.l2.filter fun l => !p l }

/-! ### WINGSET (R403, R404, R417) -/

/-- The wings that their dies' curators serve follow the wing table. -/
def State.curatorWings (s : State) : State :=
  { s with groups := s.groups.map fun (g : Group) => if isCurator g.core then { g with wing := s.dieWing g.core.die } else g }

/-- Resources removed from a wing belong to none until they are zeroed (R404). -/
def State.beginZeroing (s : State) (dies : BitVec 9) (bufs : BitVec 8) : State :=
  { s with
    dies := s.dies.map fun (d : Die) => if dies.getLsbD d.id then { d with zeroing := true } else d
    hbms := s.hbms.map fun (k : Stack) => if dies.getLsbD k.id then { k with zeroing := true } else k
    buffers := s.buffers.map fun (b : Buffer) => if bufs.getLsbD b.id then { b with zeroing := true } else b }

/-- A write to a wing's key slot, in both security units (R19). -/
def Wing.setSlot (w : Wing) (k : KeySlot) : Wing := { w with keySt := k.st, retain := k.retain, pair := k.pair, keyMirror := k }

/-- Both slots of a wing are being zeroised: they hold no pair any more (R412). -/
def Wing.zeroise (w : Wing) : Wing := w.setSlot ⟨.zeroising, false, none⟩

/-- A slot that is being zeroised is empty afterwards (R412). -/
def Wing.zeroised (w : Wing) : Wing := if w.keySt == .zeroising then w.setSlot ⟨.empty, false, none⟩ else w

/-- A wing is freed: its resources are removed, its key slot is zeroised and its keys are discarded (R403). -/
def State.freeWing (s : State) (n : Nat) : State :=
  let w := s.wing n
  let s1 := s.beginZeroing w.dies w.bufs
  let s2 := s1.modWing n fun w =>
    ({ Wing.reset n with
      inSeq := w.inSeq, outSeq := w.outSeq, dropped := w.dropped, reports := w.reports, lost := w.lost } : Wing).zeroise
  ({ s2 with
    cats := s2.cats.filter fun c => c.wing != n
    ends := s2.ends.filter fun e => e.wing != n
    regions := s2.regions.filter fun r => r.wing != n } : State).curatorWings

/-- Whether another wing holds a resource that a body names (R402). -/
def State.wingClash (s : State) (b : WingBody) : Bool :=
  s.wings.any fun w => w.id != b.wing && w.holds &&
    (w.dies &&& b.dies != 0 || w.bufs &&& b.bufs != 0 || w.ports &&& b.ports != 0)

/-- Whether a body names a resource that is being zeroed (R404). -/
def State.namesZeroing (s : State) (b : WingBody) : Bool :=
  (s.dies.any fun d => d.zeroing && b.dies.getLsbD d.id) || (s.hbms.any fun k => k.zeroing && b.dies.getLsbD k.id) ||
  (s.buffers.any fun x => x.zeroing && b.bufs.getLsbD x.id)

/-- Whether a wheel gives a wing a slot of its own (R92, R405). -/
def wheelServes (wheel : List (BitVec 8)) (wing : Nat) : Bool :=
  (List.range 64).any fun n => n % 8 != 0 && (wheel.getD n 0).toNat / 64 == 1 && (wheel.getD n 0).toNat % 16 == wing

/-- The wheel as it is last written. -/
def State.lastWheel (s : State) : List (BitVec 8) := s.docent.wheelNext.getD s.docent.wheel

/-- A wing with its new entry: out of the free state it becomes quiesced; a quiesced one becomes active once its slot is
loaded (R403). `keys` are the keys that it installs (R417). -/
def Wing.assign (w : Wing) (b : WingBody) (keys : Option (Nat × Nat)) : Wing :=
  { w with
    st := if w.st != .free && w.keySt == .loaded then .active else .quiesced
    catUnit := if w.st == .free then b.catUnit else w.catUnit
    kickSeq := if w.st == .free then 0 else w.kickSeq
    bufs := b.bufs
    ports := b.ports
    dies := b.dies
    control := match keys with | some k => some k.1 | none => w.control
    wrapping := match keys with | some k => some k.2 | none => w.wrapping }

/-- WINGSET in the order of its checks: the wing's state, the keys, other wings, zeroing, the wheel. -/
def State.wingSet (s : State) (m : Ccp) (b : WingBody) : State :=
  s.ccp m 0x10 fun s1 =>
    let w := s1.wing b.wing
    let keys := b.keys.bind fun k => unwrapKeys k (some s1.docent.opKey)
    let w1 := w.assign b keys
    if 15 ≤ b.wing then s1.reply m codeBADMSG []
    else if !(w.st == .free || w.st == .quiesced) || w.revoking.isSome then s1.reply m codeBUSY []
    else if b.dies == 0 then ((if w.st == .free then s1 else s1.freeWing b.wing)).reply m codeOK []
    else if (w.st == .free || b.keys.isSome) && keys.isNone then s1.reply m codeBADMSG []
    else if s1.wingClash b then s1.reply m codeDENIED []
    else if s1.namesZeroing b then s1.reply m codeBUSY []
    else if w1.st == .active && !wheelServes s1.lastWheel b.wing then s1.reply m codeNOSLOT []
    else
      let s2 := s1.beginZeroing (w.dies &&& ~~~b.dies) (w.bufs &&& ~~~b.bufs)
      ((s2.modWing b.wing fun _ => w1).curatorWings).reply m codeOK []

/-- WINGSET (R403). -/
def execWingset (m : Ccp) (b : WingBody) (s : State) : Result := .next (s.wingSet m b)

/-! ### WINGQUIESCE (R403) -/

/-- DONE's status of a killed replay (R370). -/
def doneKILLED : Nat := 0x21

/-- The queued replays of a wing are dropped, each with DONE KILLED. -/
def State.dropQueued (s : State) (wing : Nat) : State :=
  let mine := s.cats.filter fun c => c.wing == wing
  let s1 : State := { s with cats := s.cats.map fun (c : Catalogue) => if c.wing == wing then { c with queued := [] } else c }
  mine.foldl (fun st c => c.queued.foldl (fun x seq => x.sendDone wing seq doneKILLED 0) st) s1

/-- Every queue pair of a wing closes: a message not wholly placed is NAKed, and its placed bytes stay (R403, R414). -/
def State.closeQps (s : State) (wing : Nat) : State :=
  let naks := (s.qps.filter fun q => q.wing == wing).flatMap fun q => q.writes.map fun _ => q.qpn
  { naks.foldl State.nak s with qps := s.qps.filter fun q => q.wing != wing }

/-- WINGQUIESCE begins: by the operator or by the wing itself (R403, R411). -/
def State.wingQuiesce (s : State) (m : Ccp) (wing : Nat) : State :=
  s.ccp m 0x11 fun s1 =>
    if 15 ≤ wing then s1.reply m codeBADMSG []
    else if m.wing != 15 && m.wing != wing then s1.reply m codeDENIED []
    else if (s1.wing wing).st != .active || (s1.wing wing).revoking.isSome then s1.reply m codeNOTREADY []
    else ((s1.modWing wing fun w => { w with quiescing := true }).dropQueued wing).reply m codeOK []

/-- WINGQUIESCE (R403). -/
def execWingquiesce (m : Ccp) (wing : Nat) (s : State) : Result := .next (s.wingQuiesce m wing)

/-- Whether a wing has a group on a user core. -/
def State.hasGroups (s : State) (wing : Nat) : Bool := s.groups.any fun g => g.wing == wing && !isCurator g.core

/-- WING_QUIESCED: with no replay running the queue pairs close; with no group left the wing is quiesced (R403). -/
def State.wingQuiesced (s : State) (wing : Nat) : State :=
  let w := s.wing wing
  if !w.quiescing || w.st != .active || s.cats.any fun c => c.wing == wing && c.busy then s
  else
    let s1 := s.closeQps wing
    if s1.hasGroups wing then s1 else s1.modWing wing fun v => { v with st := .quiesced, quiescing := false }

/-- WING_QUIESCED (R403). -/
def execWingQuiesced (wing : Nat) (s : State) : Result := .next (s.wingQuiesced wing)

/-! ### SLOTSET (R92, R405) -/

/-- An owner entry as it is stored: reserved bits are clear, and KIND 1 and 3 become 0 in slots 8, 24, 40 and 56 (R4, R92). -/
def ownerStored (n : Nat) (v : BitVec 8) : BitVec 8 :=
  let u := v &&& 0xCF
  if n % 16 == 8 && u.toNat / 64 % 2 == 1 then u &&& 0x0F else u

/-- SLOTSET: in force from the next start of slot 0; refused where it would leave an active wing without a slot (R405). -/
def State.slotSet (s : State) (m : Ccp) (owners : List (Nat × BitVec 8)) : State :=
  s.ccp m 0x12 fun s1 =>
    let wheel := owners.foldl (fun l o => l.set o.1 (ownerStored o.1 o.2)) s1.lastWheel
    if owners.any fun o => 64 ≤ o.1 then s1.reply m codeBADMSG []
    else if s1.wings.any fun w => w.st == .active && !wheelServes wheel w.id then s1.reply m codeNOSLOT []
    else ({ s1 with docent := { s1.docent with wheelNext := some wheel } } : State).reply m codeOK []

/-- SLOTSET (R405). -/
def execSlotset (m : Ccp) (owners : List (Nat × BitVec 8)) (s : State) : Result := .next (s.slotSet m owners)

/-! ### KEYLOAD (R19, R413) -/

/-- A slot and its mirror with a key pair; a revoked wing becomes quiesced (R19, R413). -/
def Wing.loadKey (w : Wing) (pair : Nat × Nat) (retain : Bool) : Wing :=
  { w.setSlot ⟨.loaded, retain, some pair⟩ with
    pairsSeen := if w.pairsSeen.contains pair then w.pairsSeen else w.pairsSeen ++ [pair]
    st := if w.st == .revoked then .quiesced else w.st }

/-- KEYLOAD of a pair wrapped under the wing's wrapping key (R413, R417). -/
def State.keyLoad (s : State) (m : Ccp) (pair : Wrapped) (retain : Bool) : State :=
  s.ccp m 0x13 fun s1 =>
    let w := s1.wing m.wing
    if w.keySt != .empty || w.revoking.isSome then s1.reply m codeBUSY []
    else if !(w.st == .quiesced || w.st == .revoked) then s1.reply m codeNOTREADY []
    else
      match unwrapKeys pair w.wrapping with
      | none => s1.reply m codeBADMSG []
      | some p => if p.1 == p.2 then s1.reply m codeBADMSG [] else (s1.modWing m.wing fun v => v.loadKey p retain).reply m codeOK []

/-- KEYLOAD (R413). -/
def execKeyload (m : Ccp) (pair : Wrapped) (retain : Bool) (s : State) : Result := .next (s.keyLoad m pair retain)

/-! ### KEYREVOKE (R414) -/

/-- The running replay of a catalogue ends with DONE KILLED: the node is that of a killed group (R370, R414). -/
def State.killReplay (s : State) (c : Catalogue) (node : Nat) : State :=
  match c.replay with
  | none => s
  | some r =>
    ((s.modCat c.wing c.handle fun k => { k with replay := none }).doneAdd c).sendDone c.wing r.seq doneKILLED
      ((r.refused.map (·.2)).getD node)

/-- Every replay of a wing ends with DONE KILLED. -/
def State.killReplays (s : State) (wing : Nat) (groups : List Group) : State :=
  let node (c : Catalogue) : Nat := ((groups.find? fun g => g.cat == c.handle).map (·.node)).getD 0
  ((s.cats.filter fun c => c.wing == wing).foldl (fun st c => st.killReplay c (node c)) s).dropQueued wing

/-- Every dirty byte of a core's L1 goes home and its lines leave it. -/
def State.l1Empty (s : State) (c : CoreId) : State := (s.promoted c).modCore c fun k => { k with l1 := [] }

/-- KEYREVOKE begins: groups are killed without reports, replays end, queue pairs close (R414). -/
def State.revoke (s : State) (wing : Nat) (who seq : Nat) : State :=
  let mine := s.groups.filter fun g => g.wing == wing && !isCurator g.core
  let s1 := s.killGroups (fun g => g.wing == wing && !isCurator g.core) none
  let s2 : State := { s1 with ends := s1.ends.filter fun e => e.wing != wing }
  ((s2.killReplays wing mine).closeQps wing).modWing wing fun w => { w with quiescing := false, revoking := some (who, seq) }

/-- KEYREVOKE: by the operator or by the wing itself (R411, R414). -/
def State.keyRevoke (s : State) (m : Ccp) (wing : Nat) : State :=
  s.ccp m 0x14 fun s1 =>
    if 15 ≤ wing then s1.reply m codeBADMSG []
    else if m.wing != 15 && m.wing != wing then s1.reply m codeDENIED []
    else if (s1.wing wing).st == .free then s1.reply m codeNOTREADY []
    else if (s1.wing wing).revoking.isSome then s1.reply m codeBUSY []
    else s1.revoke wing m.wing m.seq

/-- KEYREVOKE (R414). -/
def execKeyrevoke (m : Ccp) (wing : Nat) (s : State) : Result := .next (s.keyRevoke m wing)

/-- Whether all requests of a wing have drained: its packets, and the accesses of its killed groups' warps. -/
def State.wingDrained (s : State) (w : Wing) : Bool :=
  (s.packets.all fun p => p.wing != w.id) && s.warps.all fun x => !(w.dies.getLsbD x.id.die && x.id.core < 16)

/-- The queued requests of some memory are served at once, oldest first. -/
def State.serveAll (s : State) (dies : BitVec 9) (bufs : BitVec 8) : State :=
  let reqs := ((s.hbms.filter fun k => dies.getLsbD k.id).flatMap fun k => k.chans.flatMap (·.queue)) ++
    (s.buffers.filter fun b => bufs.getLsbD b.id).flatMap (·.queue)
  let s1 : State := { s with
    hbms := s.hbms.map fun (k : Stack) =>
      if dies.getLsbD k.id then { k with chans := k.chans.map fun _ => ⟨[], none⟩ } else k
    buffers := s.buffers.map fun (b : Buffer) => if bufs.getLsbD b.id then { b with queue := [] } else b }
  reqs.foldl (fun st r => st.memPerform r .good) s1

/-- KEYREVOKE_COMPLETE: with all requests drained, what the caches hold of the wing's memory is written back under its key and
leaves them, and both slots are zeroised; with that done the wing is revoked and the reply goes out (R19, R412, R414). -/
def State.revoked (s : State) (wing : Nat) : State :=
  let w := s.wing wing
  match w.revoking with
  | none => s
  | some (who, seq) =>
    if w.keySt == .zeroising then
      (s.modWing wing fun v => { v.zeroised with st := .revoked, revoking := none }).send (.reply who seq codeOK [])
    else if !s.wingDrained w then s
    else
      let s1 := ((s.cores.filter fun k => w.dies.getLsbD k.id.die).map (·.id)).foldl State.l1Empty s
      let s2 := s1.l2Leave fun l => (s1.ownerOf l.line).map (·.id) == some wing
      let s3 := s2.serveAll w.dies w.bufs
      s3.modWing wing Wing.zeroise

/-- KEYREVOKE_COMPLETE (R414). -/
def execKeyrevokeComplete (wing : Nat) (s : State) : Result := .next (s.revoked wing)

/-! ### ZEROING_COMPLETE (R404) -/

/-- Whether a line lies in memory that is being zeroed. -/
def State.lineZeroing (s : State) (l : L2Line) : Bool :=
  if isViewPA l.line then (s.buffer (bufferNo l.line)).zeroing else (s.stack (stackDie l.line)).zeroing

/-- A domain that has passed a reset runs again, unless it is fenced. -/
def Domain.passed : Domain → Domain
  | .fenced => .fenced
  | _ => .running

/-- The notices that wait in the cores of a die are dropped: they are of the wing that it belonged to (R404). -/
def State.dropNotices (s : State) (d : Nat) : State :=
  { s with cores := s.cores.map fun (k : Core) => if k.id.die == d then { k with notices := [] } else k }

/-- A die's L2 slices and translation caches are invalid and both its domains have passed a reset. -/
def State.dieZeroed (s : State) (d : Nat) : State :=
  if !(s.die d).zeroing then s
  else
    let s1 : State := { s with l2 := s.l2.filter fun l => !(l.home == d && s.lineZeroing l) }
    (((s1.l2Leave fun l => l.home == d).resetCores d).dropNotices d).modDie d fun x =>
      { x with
        zeroing := false
        coreDom := x.coreDom.passed
        uncore := x.uncore.passed
        mailbox := []
        inbound := []
        frames := []
        walks := []
        ptrs := [] }

/-- A stack's memory holds zeros. -/
def State.stackZeroed (s : State) (d : Nat) : State :=
  if !(s.stack d).zeroing then s
  else
    let mine (pa : Nat) : Bool := isStackPA pa && stackDie pa == d
    let s1 := ({ s with l2 := s.l2.filter fun l => !mine l.line } : State).dramZero mine
    s1.modStack d fun k => { k with zeroing := false, chans := k.chans.map fun _ => ⟨[], none⟩ }

/-- A buffer's memory holds zeros. -/
def State.bufferZeroed (s : State) (n : Nat) : State :=
  if !(s.buffer n).zeroing then s
  else
    let mine (pa : Nat) : Bool := isViewPA pa && bufferNo pa == n
    let s1 := ({ s with l2 := s.l2.filter fun l => !mine l.line } : State).dramZero mine
    s1.modBuffer n fun b => { b with zeroing := false, queue := [] }

/-- ZEROING_COMPLETE (R404). -/
def execZeroingComplete (u : Unit') (s : State) : Result :=
  .next (
    match u with
    | .die d => s.dieZeroed d
    | .stack d => s.stackZeroed d
    | .buffer n => s.bufferZeroed n)

end Sys2Proof.Machine
end

