-- ==== Sys2Proof/Machine/Manage.lean ====
section
/-!
DEFINITION. Bring-up, resets and management: the summary (R418), management registers (R43, R68, R411, R423), stages (R416), warm
reset (R419, R420), dies in reset (R421), containment (R422), cooling (R423), firmware and attestation (R424, R425).
-/
namespace Sys2Proof.Machine

/-! ### RESYNC (R418) -/

/-- A number as `n` little-endian bytes. -/
def natBytes (n v : Nat) : List Nat := (List.range n).map fun i => v / 256 ^ i % 256

/-- State of a domain as it is shown. -/
def Domain.no : Domain → Nat
  | .running => 0 | .reset => 1 | .fenced => 2

/-- The wing that owns a die, and a buffer. -/
def State.dieOwner (s : State) (d : Nat) : Option Wing := s.wings.find? fun w => w.holds && w.dies.getLsbD d
def State.bufOwner (s : State) (n : Nat) : Option Wing := s.wings.find? fun w => w.holds && w.bufs.getLsbD n

/-- An entry as a sender sees it: zero where it is another wing's. -/
def shown (who : Nat) (owner : Option Nat) (v : Nat) : Nat :=
  if who == 15 then v
  else
    match owner with
    | some w => if w == who then v else 0
    | none => v

/-- Catalogues held, replays queued and replays running of a wing. -/
def State.catCounts (s : State) (wing : Nat) : Nat :=
  let mine := s.cats.filter fun c => c.wing == wing
  let queued := mine.foldl (fun n c => n + c.queued.length) 0
  let running := (mine.filter fun c => c.replay.isSome).length
  mine.length % 256 + queued % 256 * 256 + running % 256 * 65536

/-- A die's entry. -/
def State.dieEntry (s : State) (d : Nat) : Nat :=
  let x := s.die d
  let mask := ((List.range 16).filter fun c => (s.core ⟨d, c⟩).fenced).foldl (fun n c => n + 2 ^ c) 0
  x.coreDom.no + x.uncore.no * 4 + (if x.zeroing || (s.stack d).zeroing then 16 else 0) + (if (s.stack d).fenced then 32 else 0) +
    mask * 65536

/-- The 544 bytes of a summary. -/
def State.summary (s : State) (who : Nat) : List Nat :=
  let wings (n : Nat) (f : Wing → Nat) : List Nat :=
    (List.range 15).flatMap fun i => natBytes n (shown who (some i) (f (s.wing i)))
  let d := s.docent
  natBytes 1 d.stage ++ natBytes 1 d.socket ++ natBytes 1 (if d.warmLast then 1 else 0) ++ natBytes 5 0 ++
  wings 8 Wing.entry ++ wings 1 Wing.slotByte ++ natBytes 1 0 ++ wings 4 (·.kickSeq) ++
  wings 4 (fun w => s.catCounts w.id) ++
  ((List.range 9).flatMap fun i => natBytes 8 (shown who ((s.dieOwner i).map (·.id)) (s.dieEntry i))) ++
  ((List.range 9).flatMap fun i =>
    natBytes 4 (shown who ((s.dieOwner i).map (·.id)) ((s.stack i).uncorrected * 65536 + (s.stack i).corrected))) ++
  ((List.range 8).flatMap fun i =>
    natBytes 4 (shown who ((s.bufOwner i).map (·.id)) ((s.buffer i).uncorrected * 65536 + (s.buffer i).corrected))) ++
  (s.ports.flatMap fun p => natBytes 4 (shown who ((s.portWing p.id).map (·.id)) p.dropped)) ++
  wings 4 (·.dropped) ++
  natBytes 4 d.fwDocent.version ++ natBytes 4 d.fwCurator.version ++ natBytes 4 d.fwBuffer.version ++ natBytes 4 0

/-- RESYNC (R411, R418). -/
def execResync (m : Ccp) (s : State) : Result := .next (s.ccp m 0x01 fun s1 => s1.reply m codeOK (s1.summary m.wing))

/-! ### Reset of the module (R410, R416, R419, R420, R424) -/

/-- An installed image runs from now on (R424). -/
def Firmware.boot (f : Firmware) : Firmware :=
  match f.next with
  | some i => ⟨i.hash, i.version, i.rollback, none⟩
  | none => f

/-- A wing across a warm reset: a slot without RETAIN is zeroised and its wing is revoked (R419). -/
def Wing.warm (w : Wing) : Wing :=
  let v := { w with dropped := 0, reports := [], lost := 0 }
  if w.st == .free || (w.retain && w.revoking.isNone) then v
  else { v.zeroise with st := .revoked, quiescing := false, revoking := none }

/-- A stack across a warm reset: its filters, HMCFG, HMERR, fence and zeroing stay (R419). That its patrol starts again at offset 0 is
not said (log 43). -/
def Stack.warm (k : Stack) : Stack :=
  { Stack.reset k.id with
    fenced := k.fenced
    zeroing := k.zeroing
    scrubHours := k.scrubHours
    fastAll := k.fastAll
    temp := k.temp
    corrected := k.corrected
    uncorrected := k.uncorrected
    hourErrs := k.hourErrs
    f32 := k.f32
    f64 := k.f64 }

/-- A buffer across a warm reset. -/
def Buffer.warm (b : Buffer) : Buffer :=
  { Buffer.reset b.id with
    fenced := b.fenced, zeroing := b.zeroing, corrected := b.corrected, uncorrected := b.uncorrected, hourErrs := b.hourErrs }

/-- A die across a warm reset: only a cold one lifts a fence (R422). -/
def Die.warm (d : Die) : Die :=
  let dom (x : Domain) : Domain := x.passed
  { Die.reset d.id with coreDom := dom d.coreDom, uncore := dom d.uncore, zeroing := d.zeroing }

/-- The docent across a warm reset (R410, R419, R424). -/
def Docent.warm (d : Docent) : Docent :=
  { Docent.reset with
    socket := d.socket
    keySocket := d.keySocket
    warmLast := true
    opKey := d.opKey
    opIn := d.opIn
    opOut := d.opOut
    wheel := d.wheel
    wheelNext := d.wheelNext
    wheelSlot := d.wheelSlot
    fwDocent := d.fwDocent
    fwCurator := d.fwCurator.boot
    fwBuffer := d.fwBuffer }

/-- Writes that their requesters take for performed are in memory before its queues go (R50, R419). -/
def State.drain (s : State) : State :=
  let all := s.hbms.flatMap (fun k => k.chans.flatMap (·.queue)) ++ s.buffers.flatMap (·.queue)
  (all.filter fun m => m.kind != 0 && m.ack.isNone).foldl
    (fun st m => m.bytes.foldl (fun a c => a.dramPuts (m.line + c.1) [c.2]) st) s

/-- A warm reset (R419, R420): every group is killed without reports, what R419 names survives, the rest starts anew at Stage 0; the CCP
messages that wait to be served are lost. -/
def State.warm (s : State) : State :=
  { s.drain with
    agenda := s.agenda.dropWhile fun i => (ccpOf i).isSome
    cur := ⟨0, 0, 0, 0⟩
    l2 := []
    monitors := []
    packets := []
    hbms := s.hbms.map Stack.warm
    buffers := s.buffers.map Buffer.warm
    dies := s.dies.map Die.warm
    cores := s.cores.map fun k => { Core.reset k.id with fenced := k.fenced }
    groups := []
    warps := []
    cats := []
    ends := []
    wings := s.wings.map Wing.warm
    regions := []
    qps := []
    ports := s.ports.map fun p => { p with dropped := 0 }
    raises := []
    docent := s.docent.warm }

/-- WARM_RESET (R419). -/
def execWarmReset (s : State) : Result := .next s.warm

/-- POWER_GOOD: a cold start. The operator's SEQ pair and the installed firmware are what the module keeps without power; a failed
self-test makes the spare docent on socket 19 the docent (R18, R410, R424). -/
def execPowerGood (selfTestOk : Bool) (s : State) : Result :=
  .next
    { State.reset with
      agenda := s.agenda
      free := s.free
      names := s.names
      out := s.out
      docent := { Docent.reset with
        socket := if selfTestOk then 18 else 19
        keySocket := if selfTestOk then 18 else 19
        opKey := s.docent.opKey
        opIn := s.docent.opIn
        opOut := s.docent.opOut
        fwDocent := s.docent.fwDocent.boot
        fwCurator := s.docent.fwCurator.boot
        fwBuffer := s.docent.fwBuffer.boot } }

/-! ### Containment (R422) -/

/-- The record of a group that a fence kills: class 0, and no thread, warp or address. -/
def fenceRecord : TrapRec := { TrapRec.zero with thread := 0xFF }

/-- A core is fenced: its groups are killed with class 0 reports (R422). A curator core's program is to be loaded again. -/
def State.fenceCore (s : State) (c : CoreId) : State :=
  if isCurator c then
    (s.modDie c.die fun d => { d with curatorLoaded := false }).report 15 (reportBody .core 0 0 c.die none false 0 none)
  else if (s.core c).fenced then s
  else
    ((s.modCore c fun k => { k with fenced := true }).killGroups (fun g => g.core == c) (some fenceRecord)).fenceReport
      (s.dieOwner c.die) .core c.die

/-- CORE_FENCE (R422). -/
def execCoreFence (c : CoreId) (s : State) : Result := .next (s.fenceCore c)

/-- Monitors at the homes of a die are refused: their CWAITs take a machine check (R421). -/
def State.refuseMonitors (s : State) (d : Nat) : State :=
  let mine := s.monitors.filter fun m => s.homeDie m.pa == d
  let s1 : State := { s with monitors := s.monitors.filter fun m => s.homeDie m.pa != d }
  mine.foldl (fun st m => st.respond m.pid fun x => { x with fault := true, value := auxOf m.pa 0 }) s1

/-- The core domain of a die stops: its groups are killed, with reports where a fence causes it, and then those that are
swapped out too (R421, R422). -/
def State.stopCores (s : State) (d : Nat) (to_ : Domain) (rep : Option TrapRec) : State :=
  ((s.killGroups (fun g => g.core.die == d && !isCurator g.core && (g.resident || to_ == .fenced)) rep).resetCores d).modDie d fun x =>
    { x with coreDom := to_ }

/-- The uncore of a die stops: its L2 is written back and empty, and its homes are bypassed (R421). -/
def State.stopUncore (s : State) (d : Nat) (to_ : Domain) : State :=
  ((s.l2Leave fun l => l.home == d).refuseMonitors d).modDie d fun x => { x with uncore := to_ }

/-- A die is fenced (R422). -/
def State.fenceDie (s : State) (d : Nat) : State :=
  if (s.die d).coreDom == .fenced then s
  else ((s.stopCores d .fenced (some fenceRecord)).stopUncore d .fenced).fenceReport (s.dieOwner d) .core d

/-- DIE_FENCE (R422). -/
def execDieFence (die : Nat) (s : State) : Result := .next (s.fenceDie die)

/-- Whether a stack or a buffer has had more than 64 uncorrectable errors in the hour (R422). -/
def State.erring (s : State) : Unit' → Bool
  | .stack d => 64 < (withinHour s.clk (s.stack d).hourErrs).length
  | .buffer n => 64 < (withinHour s.clk (s.buffer n).hourErrs).length
  | .die _ => false

/-- STACK_FENCE (R422). -/
def execStackFence (u : Unit') (s : State) : Result :=
  .next (if s.erring u then match u with | .stack d => s.fenceStack d | .buffer n => s.fenceBuffer n | .die _ => s else s)

/-- A queue pair closes with its port: its descriptors that are not complete complete with 0x03 (R422). -/
def State.failQp (s : State) (q : Qp) : State := q.sent.foldl (fun st _ => st.finish q.qpn 0x03) s

/-- PORT_LINK_FAILURE (R422). -/
def execPortLinkFailure (port : Nat) (s : State) : Result :=
  .next (
    if (s.ports.find? fun p => p.id == port).any (·.up) then
      let s1 : State := { s with ports := s.ports.map fun p => if p.id == port then { p with up := false } else p }
      let s2 := (s1.qps.filter fun q => q.body.port == port).foldl State.failQp s1
      ({ s2 with qps := s2.qps.filter fun q => q.body.port != port } : State).fenceReport (s.portWing port) .port port
    else s)

/-! ### The curator program (R16, R380, R416, R422) -/

/-- A curator group's resources: four warps and the whole of its core (R16, R380). -/
def curatorRes : Res := ⟨4, 192, 0, 256, 512, 0⟩

/-- The packet that would make it: address space 0, and the program's entry (log 33). -/
def curatorPacket (d : Nat) : WorkPkt :=
  { params := List.replicate 8 0, cat := 0, entry := Config.curatorEntry d % 2 ^ 56 / 64 * 64, privva := 0, res := resBits curatorRes
    kind := 0, spm := curatorRes.spm, priv := 0, asid := 0, node := 0, gidx := 0, ngroups := 1 }

/-- The curator program of a die is loaded: its curator warp on lane 0 and system warps on lanes 1 to 3 start (R380). -/
def State.loadCurator (s : State) (d : Nat) : State :=
  if (s.die d).curatorLoaded || (s.die d).coreDom != .running then s
  else
    let c : CoreId := ⟨d, 16⟩
    let (s1, _) := (s.resetCore c).createGroup c (s.dieWing d) (curatorPacket d) curatorRes [(0, 0), (1, 0), (2, 0), (3, 0)] 0
    s1.modDie d fun x => { x with curatorLoaded := true }

/-- CURATOR_RELOAD (R422). -/
def execCuratorReload (die : Nat) (s : State) : Result :=
  .next (if s.docent.stage == 0 then s else s.loadCurator die)

/-! ### Stages (R36, R416, R420) -/

/-- A unit whose training failed is fenced (R422). -/
def State.fenceUnit (s : State) : Unit' → State
  | .die d => s.fenceDie d
  | .stack d => s.fenceStack d
  | .buffer n => s.fenceBuffer n

/-- A row that needs a shorter interval enters its filter (R36): its stack, an offset in it, and the interval. -/
def State.binRow (s : State) (r : Nat × Nat × Nat) : State :=
  s.modStack r.1 fun k =>
    if r.2.2 == 32 then
      let f := filterInsert k.f32 (dramRowOf r.2.1)
      { k with f32 := f.1, filterFull := k.filterFull || f.2 }
    else if r.2.2 == 64 then
      let f := filterInsert k.f64 (dramRowOf r.2.1)
      { k with f64 := f.1, filterFull := k.filterFull || f.2 }
    else k

/-- Stage 1: the memory PHYs are trained; after a cold start every row has been measured; curator programs are loaded (R36,
R416, R420). -/
def State.stage1 (s : State) (failed : List Unit') (slowRows : List (Nat × Nat × Nat)) : State :=
  if s.docent.stage != 0 then s
  else
    let s1 := failed.foldl State.fenceUnit s
    let s2 : State := { s1 with
      hbms := s1.hbms.map fun (k : Stack) => { k with trained := !k.fenced }
      buffers := s1.buffers.map fun (b : Buffer) => { b with trained := !b.fenced } }
    let s3 := if s.docent.warmLast then s2 else slowRows.foldl State.binRow s2
    let s4 : State := { s3 with docent := { s3.docent with stage := 1, trained := true } }
    (List.range 9).foldl State.loadCurator s4

/-- STAGE_1_REACHED (R416). -/
def execStage1Reached (failed : List Unit') (slowRows : List (Nat × Nat × Nat)) (s : State) : Result :=
  .next (s.stage1 failed slowRows)

/-- Whether a die's curator program is loaded and has read its mailbox; a fenced die is not waited for (R416). -/
def Die.ready (d : Die) : Bool := d.coreDom == .fenced || (d.curatorLoaded && d.mailboxRead)

/-- STAGE_2_REACHED (R416). -/
def execStage2Reached (s : State) : Result :=
  .next (if s.docent.stage == 1 && s.dies.all Die.ready then { s with docent := { s.docent with stage := 2 } } else s)

/-! ### Dies in reset (R421) -/

/-- CORE_DOMAIN_RESET_ENTRY (R96, R421). -/
def execCoreDomainResetEntry (die : Nat) (s : State) : Result :=
  .next (if (s.die die).coreDom == .running then s.stopCores die .reset none else s)

/-- CORE_DOMAIN_RESET_EXIT: placement pointers and port rotations start again (R99, R372). -/
def execCoreDomainResetExit (die : Nat) (s : State) : Result :=
  .next (if (s.die die).coreDom == .reset && (s.die die).uncore == .running then
      (s.resetCores die).modDie die fun x => { x with coreDom := .running }
    else s)

/-- UNCORE_RESET_ENTRY: with the core domain in reset already (R421). -/
def execUncoreResetEntry (die : Nat) (s : State) : Result :=
  .next (if (s.die die).coreDom == .reset && (s.die die).uncore == .running then s.stopUncore die .reset else s)

/-- UNCORE_RESET_EXIT: its L2 starts empty (R421). -/
def execUncoreResetExit (die : Nat) (s : State) : Result :=
  .next (if (s.die die).uncore == .reset then s.modDie die fun x => { x with uncore := .running } else s)

/-! ### Management registers (R43, R68, R411, R419, R423) -/

/-- HMERR's counts of a stack cleared (R43). -/
def State.clearCounts (s : State) (n : Nat) : State := s.modStack n fun k => { k with corrected := 0, uncorrected := 0 }
/-- HMSTAT.FILTER_FULL cleared (R43). -/
def State.clearFull (s : State) (n : Nat) : State := s.modStack n fun k => { k with filterFull := false }

/-- HMCFG_CNT_CLR (R43). -/
def execHmcfgCntClr (stack : Nat) (s : State) : Result := .next (s.clearCounts stack)
/-- FILTER_FULL_CLEAR (R43). -/
def execFilterFullClear (stack : Nat) (s : State) : Result := .next (s.clearFull stack)

/-- Whether a register exists. -/
def mgmtOk : MgmtReg → Bool
  | .hmcfg n | .hmstat n | .hmerr n => n < 9
  | _ => true

/-- A register as it reads; reserved and write-only fields read as zero (R4, R43). -/
def State.mgmtRead (s : State) : MgmtReg → Nat
  | .hmcfg n => (s.stack n).scrubHours.toNat * 256 + (if (s.stack n).fastAll then 1 else 0)
  | .hmstat n =>
    let k := s.stack n
    k.temp % 256 * 2 ^ 24 + (if k.halved then 2 ^ 23 else 0) + (if k.overflow then 2 ^ 22 else 0) + (if k.filterFull then 2 ^ 21 else 0)
  | .hmerr n => (s.stack n).uncorrected * 65536 + (s.stack n).corrected
  | .reset => 0
  | .powerCap => s.docent.powerCap
  | .descBase => s.docent.descBase

/-- MGMTRD (R43, R411). -/
def execMgmtrd (m : Ccp) (r : MgmtReg) (s : State) : Result :=
  .next (s.ccp m 0x18 fun s1 => if mgmtOk r then s1.reply m codeOK [s1.mgmtRead r] else s1.reply m codeBADMSG [])

/-- What a write does; the reply to a write that resets the module is sent before it (R43, R68, R419, R423). -/
def State.mgmtWrite (s : State) (r : MgmtReg) (v : DWord) : State :=
  match r with
  | .hmcfg n =>
    let s1 := s.modStack n fun k => { k with scrubHours := BitVec.ofNat 8 (v.toNat / 256), fastAll := v.getLsbD 0 }
    if v.getLsbD 16 then s1.clearCounts n else s1
  | .hmstat n => if v.getLsbD 21 then s.clearFull n else s
  | .hmerr _ => s
  | .reset => if v.getLsbD 0 then s.warm else s
  | .powerCap => { s with docent := { s.docent with powerCap := v.toNat } }
  | .descBase => { s with docent := { s.docent with descBase := v.toNat } }

/-- Whether a value may be written: the descriptor array of 2 MiB lies within a stack, on a 32-byte boundary (R24, R68). -/
def mgmtValueOk (r : MgmtReg) (v : DWord) : Bool :=
  r != .descBase || (isStackPA v.toNat && paOff v.toNat + 2 ^ 21 ≤ 2 ^ 36 && v.toNat % 32 == 0)

/-- MGMTWR (R43, R411). -/
def execMgmtwr (m : Ccp) (r : MgmtReg) (value : DWord) (s : State) : Result :=
  .next (s.ccp m 0x19 fun s1 =>
    if mgmtOk r && mgmtValueOk r value then (s1.reply m codeOK []).mgmtWrite r value else s1.reply m codeBADMSG [])

/-! ### Power and cooling (R423) -/

/-- The lane clock of a die steps down, to 0.65 GHz at the lowest: steps 0 to 3 are 1.3, 1.1, 0.9 and 0.65 GHz. -/
def Die.slower (d : Die) : Die := { d with clockStep := min 3 (d.clockStep + 1) }

/-- JUNCTION_TEMPERATURE_SAMPLE (R423). -/
def execJunctionTemperatureSample (die celsius : Nat) (s : State) : Result :=
  .next (
    if 105 < celsius then s.fenceDie die
    else if 95 < celsius then s.modDie die Die.slower
    else if celsius < 90 then s.modDie die fun d => { d with clockStep := d.clockStep - 1 }
    else s)

/-- POWER_CAP_EXCEEDED (R423). -/
def execPowerCapExceeded (milliwatts : Nat) (s : State) : Result :=
  .next (if s.docent.powerCap < milliwatts then { s with dies := s.dies.map Die.slower } else s)

/-! ### Firmware and attestation (R424, R425) -/

/-- The firmware of a kind. -/
def Docent.firmware (d : Docent) : FwKind → Firmware
  | .docent => d.fwDocent | .curator => d.fwCurator | .buffer => d.fwBuffer

/-- The stored rollback number: that of the image installed last. -/
def Firmware.stored (f : Firmware) : Nat := (f.next.map (·.rollback)).getD f.rollback

/-- An image is installed for the next reset. -/
def Docent.install (d : Docent) (i : FwImage) : Docent :=
  match i.kind with
  | .docent => { d with fwDocent := { d.fwDocent with next := some i } }
  | .curator => { d with fwCurator := { d.fwCurator with next := some i } }
  | .buffer => { d with fwBuffer := { d.fwBuffer with next := some i } }

/-- FWLOAD (R424). -/
def execFwload (m : Ccp) (image : FwImage) (s : State) : Result :=
  .next (s.ccp m 0x1A fun s1 =>
    if image.rsaOk && image.slhOk && (s1.docent.firmware image.kind).stored ≤ image.rollback then
      ({ s1 with docent := s1.docent.install image } : State).reply m codeOK []
    else s1.reply m codeBADSIG [])

/-- What an attestation covers: the nonce, the hashes of the running images, the sender's entry and slot, and the stage. -/
def State.evidence (s : State) (who nonce : Nat) : List Nat :=
  let d := s.docent
  let w := s.wing who
  [nonce, d.fwDocent.hash, d.fwCurator.hash, d.fwBuffer.hash, w.entry, w.slotByte, d.stage]

/-- ATTEST: two signatures follow, RSA-3072 and SLH-DSA-SHA2-192s (R425, log 7). -/
def execAttest (m : Ccp) (nonce : Nat) (s : State) : Result :=
  .next (s.ccp m 0x1B fun s1 =>
    let e := s1.evidence m.wing nonce
    s1.reply m codeOK (e ++ [Config.sign (0 :: e), Config.sign (1 :: e)]))

end Sys2Proof.Machine
end

