-- ==== Sys2Proof/Machine/Short.lean ====
section
/-!
DEFINITION. The short forms (R172, R178): each behaves as its long equivalent with S = 0 and the short form's length.
-/
namespace Sys2Proof.Machine

/-- Issue of a short form that stands for a control instruction (R178, R350). -/
def State.issueShortCtl (s : State) (sopc : BitVec 6) (x : ShortOp) (f : Warp → LongOp → Result) : Result :=
  match s.warp? s.cur with
  | none => .fault .noWarp
  | some w =>
    if w.running.isNone then .fault .noWarp
    else
      match shortReason (s.limits w) sopc x with
      | some r => .next (s.trap w { cls := 4, reason := r })
      | none => f w (shortLong sopc x)

/-- nop, short (R178). -/
def execNopShort (x : ShortOp) (s : State) : Result := s.issueShortCtl 0x00 x fun w _ => s.nop w 4

/-- mov, short (R178). -/
def execMovShort (x : ShortOp) (s : State) : Result := s.issueShort 0x01 x 0x0D aluMov

/-- iadd, short (R178). -/
def execIaddShort (x : ShortOp) (s : State) : Result := s.issueShort 0x02 x 0x00 aluIadd

/-- isub, short (R178). -/
def execIsubShort (x : ShortOp) (s : State) : Result := s.issueShort 0x03 x 0x01 aluIsub

/-- imul, short (R178). -/
def execImulShort (x : ShortOp) (s : State) : Result := s.issueShort 0x04 x 0x02 aluImul

/-- imin, short (R178). -/
def execIminShort (x : ShortOp) (s : State) : Result := s.issueShort 0x05 x 0x05 aluImin

/-- imax, short (R178). -/
def execImaxShort (x : ShortOp) (s : State) : Result := s.issueShort 0x06 x 0x06 aluImax

/-- ineg, short (R178). -/
def execInegShort (x : ShortOp) (s : State) : Result := s.issueShort 0x07 x 0x08 aluIneg

/-- iabs, short (R178). -/
def execIabsShort (x : ShortOp) (s : State) : Result := s.issueShort 0x08 x 0x07 aluIabs

/-- and, short (R178). -/
def execAndShort (x : ShortOp) (s : State) : Result := s.issueShort 0x09 x 0x10 aluAnd

/-- or, short (R178). -/
def execOrShort (x : ShortOp) (s : State) : Result := s.issueShort 0x0A x 0x11 aluOr

/-- xor, short (R178). -/
def execXorShort (x : ShortOp) (s : State) : Result := s.issueShort 0x0B x 0x12 aluXor

/-- not, short (R178). -/
def execNotShort (x : ShortOp) (s : State) : Result := s.issueShort 0x0C x 0x14 aluNot

/-- shl, short (R178). -/
def execShlShort (x : ShortOp) (s : State) : Result := s.issueShort 0x0D x 0x15 aluShl

/-- shr, short (R178). -/
def execShrShort (x : ShortOp) (s : State) : Result := s.issueShort 0x0E x 0x16 aluShr

/-- sar, short (R178). -/
def execSarShort (x : ShortOp) (s : State) : Result := s.issueShort 0x0F x 0x17 aluSar

/-- popc, short (R178). -/
def execPopcShort (x : ShortOp) (s : State) : Result := s.issueShort 0x10 x 0x1B aluPopc

/-- clz, short (R178). -/
def execClzShort (x : ShortOp) (s : State) : Result := s.issueShort 0x11 x 0x1C aluClz

/-- ctz, short (R178). -/
def execCtzShort (x : ShortOp) (s : State) : Result := s.issueShort 0x12 x 0x1D aluCtz

/-- brev, short (R178). -/
def execBrevShort (x : ShortOp) (s : State) : Result := s.issueShort 0x13 x 0x1E aluBrev

/-- fadd, short (R178). -/
def execFaddShort (x : ShortOp) (s : State) : Result := s.issueShort 0x14 x 0x20 aluFadd

/-- fsub, short (R178). -/
def execFsubShort (x : ShortOp) (s : State) : Result := s.issueShort 0x15 x 0x21 aluFsub

/-- fmul, short (R178). -/
def execFmulShort (x : ShortOp) (s : State) : Result := s.issueShort 0x16 x 0x22 aluFmul

/-- fmin, short (R178). -/
def execFminShort (x : ShortOp) (s : State) : Result := s.issueShort 0x17 x 0x24 aluFmin

/-- fmax, short (R178). -/
def execFmaxShort (x : ShortOp) (s : State) : Result := s.issueShort 0x18 x 0x25 aluFmax

/-- faddPacked, short (R178). -/
def execFaddPackedShort (x : ShortOp) (s : State) : Result := s.issueShort 0x19 x 0x20 aluFadd

/-- fmulPacked, short (R178). -/
def execFmulPackedShort (x : ShortOp) (s : State) : Result := s.issueShort 0x1A x 0x22 aluFmul

/-- rcp, short (R178). -/
def execRcpShort (x : ShortOp) (s : State) : Result := s.issueShort 0x1B x 0x40 aluRcp

/-- rsq, short (R178). -/
def execRsqShort (x : ShortOp) (s : State) : Result := s.issueShort 0x1C x 0x41 aluRsq

/-- sqrt, short (R178). -/
def execSqrtShort (x : ShortOp) (s : State) : Result := s.issueShort 0x1D x 0x42 aluSqrt

/-- exp2, short (R178). -/
def execExp2Short (x : ShortOp) (s : State) : Result := s.issueShort 0x1E x 0x43 aluExp2

/-- log2, short (R178). -/
def execLog2Short (x : ShortOp) (s : State) : Result := s.issueShort 0x1F x 0x44 aluLog2

/-- sin, short (R178). -/
def execSinShort (x : ShortOp) (s : State) : Result := s.issueShort 0x20 x 0x45 aluSin

/-- cos, short (R178). -/
def execCosShort (x : ShortOp) (s : State) : Result := s.issueShort 0x21 x 0x46 aluCos

/-- tanh, short (R178). -/
def execTanhShort (x : ShortOp) (s : State) : Result := s.issueShort 0x22 x 0x47 aluTanh

/-- cvt, short (R178). -/
def execCvtShort (x : ShortOp) (s : State) : Result := s.issueShort 0x23 x 0x30 aluCvt

/-- yield, short (R178). -/
def execYieldShort (x : ShortOp) (s : State) : Result := s.issueShortCtl 0x24 x fun w y => s.yield w y 4

/-- exit, short (R178). -/
def execExitShort (x : ShortOp) (s : State) : Result := s.issueShortCtl 0x25 x fun w y => s.exit w y 4

/-- ret, short (R178). -/
def execRetShort (x : ShortOp) (s : State) : Result := s.issueShortCtl 0x26 x fun w y => s.ret w y 4

end Sys2Proof.Machine
end

