-- ==== Sys2Proof/Machine/Dispatch.lean ====
section
/-!
DEFINITION. One arm per row of the opcode table: the meaning of each instruction and of each event of the machine.
-/
namespace Sys2Proof.Machine

def exec (i : Instr) (s : State) : Host.Outcome State Fault Refusal :=
  match i with
  | .nopShort x => Sys2Proof.Machine.execNopShort x s
  | .movShort x => Sys2Proof.Machine.execMovShort x s
  | .iaddShort x => Sys2Proof.Machine.execIaddShort x s
  | .isubShort x => Sys2Proof.Machine.execIsubShort x s
  | .imulShort x => Sys2Proof.Machine.execImulShort x s
  | .iminShort x => Sys2Proof.Machine.execIminShort x s
  | .imaxShort x => Sys2Proof.Machine.execImaxShort x s
  | .inegShort x => Sys2Proof.Machine.execInegShort x s
  | .iabsShort x => Sys2Proof.Machine.execIabsShort x s
  | .andShort x => Sys2Proof.Machine.execAndShort x s
  | .orShort x => Sys2Proof.Machine.execOrShort x s
  | .xorShort x => Sys2Proof.Machine.execXorShort x s
  | .notShort x => Sys2Proof.Machine.execNotShort x s
  | .shlShort x => Sys2Proof.Machine.execShlShort x s
  | .shrShort x => Sys2Proof.Machine.execShrShort x s
  | .sarShort x => Sys2Proof.Machine.execSarShort x s
  | .popcShort x => Sys2Proof.Machine.execPopcShort x s
  | .clzShort x => Sys2Proof.Machine.execClzShort x s
  | .ctzShort x => Sys2Proof.Machine.execCtzShort x s
  | .brevShort x => Sys2Proof.Machine.execBrevShort x s
  | .faddShort x => Sys2Proof.Machine.execFaddShort x s
  | .fsubShort x => Sys2Proof.Machine.execFsubShort x s
  | .fmulShort x => Sys2Proof.Machine.execFmulShort x s
  | .fminShort x => Sys2Proof.Machine.execFminShort x s
  | .fmaxShort x => Sys2Proof.Machine.execFmaxShort x s
  | .faddPackedShort x => Sys2Proof.Machine.execFaddPackedShort x s
  | .fmulPackedShort x => Sys2Proof.Machine.execFmulPackedShort x s
  | .rcpShort x => Sys2Proof.Machine.execRcpShort x s
  | .rsqShort x => Sys2Proof.Machine.execRsqShort x s
  | .sqrtShort x => Sys2Proof.Machine.execSqrtShort x s
  | .exp2Short x => Sys2Proof.Machine.execExp2Short x s
  | .log2Short x => Sys2Proof.Machine.execLog2Short x s
  | .sinShort x => Sys2Proof.Machine.execSinShort x s
  | .cosShort x => Sys2Proof.Machine.execCosShort x s
  | .tanhShort x => Sys2Proof.Machine.execTanhShort x s
  | .cvtShort x => Sys2Proof.Machine.execCvtShort x s
  | .yieldShort x => Sys2Proof.Machine.execYieldShort x s
  | .exitShort x => Sys2Proof.Machine.execExitShort x s
  | .retShort x => Sys2Proof.Machine.execRetShort x s
  | .illegalEncoding x => Sys2Proof.Machine.execIllegalEncoding x s
  | .iadd x => Sys2Proof.Machine.execIadd x s
  | .isub x => Sys2Proof.Machine.execIsub x s
  | .imul x => Sys2Proof.Machine.execImul x s
  | .imulh x => Sys2Proof.Machine.execImulh x s
  | .imad x => Sys2Proof.Machine.execImad x s
  | .imin x => Sys2Proof.Machine.execImin x s
  | .imax x => Sys2Proof.Machine.execImax x s
  | .iabs x => Sys2Proof.Machine.execIabs x s
  | .ineg x => Sys2Proof.Machine.execIneg x s
  | .idiv x => Sys2Proof.Machine.execIdiv x s
  | .lea x => Sys2Proof.Machine.execLea x s
  | .iset x => Sys2Proof.Machine.execIset x s
  | .sel x => Sys2Proof.Machine.execSel x s
  | .mov x => Sys2Proof.Machine.execMov x s
  | .idp4 x => Sys2Proof.Machine.execIdp4 x s
  | .plop x => Sys2Proof.Machine.execPlop x s
  | .andB x => Sys2Proof.Machine.execAndB x s
  | .orB x => Sys2Proof.Machine.execOrB x s
  | .xorB x => Sys2Proof.Machine.execXorB x s
  | .btab x => Sys2Proof.Machine.execBtab x s
  | .notB x => Sys2Proof.Machine.execNotB x s
  | .shl x => Sys2Proof.Machine.execShl x s
  | .shr x => Sys2Proof.Machine.execShr x s
  | .sar x => Sys2Proof.Machine.execSar x s
  | .shf x => Sys2Proof.Machine.execShf x s
  | .bfe x => Sys2Proof.Machine.execBfe x s
  | .bfi x => Sys2Proof.Machine.execBfi x s
  | .popc x => Sys2Proof.Machine.execPopc x s
  | .clz x => Sys2Proof.Machine.execClz x s
  | .ctz x => Sys2Proof.Machine.execCtz x s
  | .brev x => Sys2Proof.Machine.execBrev x s
  | .fadd x => Sys2Proof.Machine.execFadd x s
  | .fsub x => Sys2Proof.Machine.execFsub x s
  | .fmul x => Sys2Proof.Machine.execFmul x s
  | .ffma x => Sys2Proof.Machine.execFfma x s
  | .fmin x => Sys2Proof.Machine.execFmin x s
  | .fmax x => Sys2Proof.Machine.execFmax x s
  | .fset x => Sys2Proof.Machine.execFset x s
  | .fclass x => Sys2Proof.Machine.execFclass x s
  | .frnd x => Sys2Proof.Machine.execFrnd x s
  | .fdot2 x => Sys2Proof.Machine.execFdot2 x s
  | .fscale x => Sys2Proof.Machine.execFscale x s
  | .cvt x => Sys2Proof.Machine.execCvt x s
  | .cvtpk x => Sys2Proof.Machine.execCvtpk x s
  | .cvtupk x => Sys2Proof.Machine.execCvtupk x s
  | .rcp x => Sys2Proof.Machine.execRcp x s
  | .rsq x => Sys2Proof.Machine.execRsq x s
  | .sqrt x => Sys2Proof.Machine.execSqrt x s
  | .exp2 x => Sys2Proof.Machine.execExp2 x s
  | .log2 x => Sys2Proof.Machine.execLog2 x s
  | .sin x => Sys2Proof.Machine.execSin x s
  | .cos x => Sys2Proof.Machine.execCos x s
  | .tanh x => Sys2Proof.Machine.execTanh x s
  | .fdiv x => Sys2Proof.Machine.execFdiv x s
  | .shfl x => Sys2Proof.Machine.execShfl x s
  | .poll x => Sys2Proof.Machine.execPoll x s
  | .redx x => Sys2Proof.Machine.execRedx x s
  | .redxi x => Sys2Proof.Machine.execRedxi x s
  | .scan x => Sys2Proof.Machine.execScan x s
  | .matchT x => Sys2Proof.Machine.execMatchT x s
  | .elect x => Sys2Proof.Machine.execElect x s
  | .isect x => Sys2Proof.Machine.execIsect x s
  | .brank x => Sys2Proof.Machine.execBrank x s
  | .treestep x => Sys2Proof.Machine.execTreestep x s
  | .kset x => Sys2Proof.Machine.execKset x s
  | .kmov x => Sys2Proof.Machine.execKmov x s
  | .bra x => Sys2Proof.Machine.execBra x s
  | .brx x => Sys2Proof.Machine.execBrx x s
  | .call x => Sys2Proof.Machine.execCall x s
  | .ret x => Sys2Proof.Machine.execRet x s
  | .reconv x => Sys2Proof.Machine.execReconv x s
  | .yield x => Sys2Proof.Machine.execYield x s
  | .exit x => Sys2Proof.Machine.execExit x s
  | .execMask x => Sys2Proof.Machine.execExecMask x s
  | .nop x => Sys2Proof.Machine.execNop x s
  | .waitc x => Sys2Proof.Machine.execWaitc x s
  | .trap x => Sys2Proof.Machine.execTrap x s
  | .bkpt x => Sys2Proof.Machine.execBkpt x s
  | .sleep x => Sys2Proof.Machine.execSleep x s
  | .ld x => Sys2Proof.Machine.execLd x s
  | .ldDec x => Sys2Proof.Machine.execLdDec x s
  | .st x => Sys2Proof.Machine.execSt x s
  | .stEnc x => Sys2Proof.Machine.execStEnc x s
  | .ldu x => Sys2Proof.Machine.execLdu x s
  | .ldg x => Sys2Proof.Machine.execLdg x s
  | .pref x => Sys2Proof.Machine.execPref x s
  | .cctl x => Sys2Proof.Machine.execCctl x s
  | .atom x => Sys2Proof.Machine.execAtom x s
  | .atomcas x => Sys2Proof.Machine.execAtomcas x s
  | .red x => Sys2Proof.Machine.execRed x s
  | .fence x => Sys2Proof.Machine.execFence x s
  | .promote x => Sys2Proof.Machine.execPromote x s
  | .ldacq x => Sys2Proof.Machine.execLdacq x s
  | .strel x => Sys2Proof.Machine.execStrel x s
  | .cadd x => Sys2Proof.Machine.execCadd x s
  | .cwait x => Sys2Proof.Machine.execCwait x s
  | .cread x => Sys2Proof.Machine.execCread x s
  | .bar x => Sys2Proof.Machine.execBar x s
  | .barsig x => Sys2Proof.Machine.execBarsig x s
  | .fork x => Sys2Proof.Machine.execFork x s
  | .spawn x => Sys2Proof.Machine.execSpawn x s
  | .mbxrd x => Sys2Proof.Machine.execMbxrd x s
  | .fwd x => Sys2Proof.Machine.execFwd x s
  | .mma x => Sys2Proof.Machine.execMma x s
  | .mmal x => Sys2Proof.Machine.execMmal x s
  | .mmv x => Sys2Proof.Machine.execMmv x s
  | .mzero x => Sys2Proof.Machine.execMzero x s
  | .mlda x => Sys2Proof.Machine.execMlda x s
  | .msta x => Sys2Proof.Machine.execMsta x s
  | .mbatch x => Sys2Proof.Machine.execMbatch x s
  | .mwait x => Sys2Proof.Machine.execMwait x s
  | .copy x => Sys2Proof.Machine.execCopy x s
  | .cptr x => Sys2Proof.Machine.execCptr x s
  | .qfence x => Sys2Proof.Machine.execQfence x s
  | .bin x => Sys2Proof.Machine.execBin x s
  | .binplay x => Sys2Proof.Machine.execBinplay x s
  | .route x => Sys2Proof.Machine.execRoute x s
  | .embpool x => Sys2Proof.Machine.execEmbpool x s
  | .getsys x => Sys2Proof.Machine.execGetsys x s
  | .setsys x => Sys2Proof.Machine.execSetsys x s
  | .setsysAsgen x => Sys2Proof.Machine.execSetsysAsgen x s
  | .setsysCtxpush x => Sys2Proof.Machine.execSetsysCtxpush x s
  | .setsysPreempt x => Sys2Proof.Machine.execSetsysPreempt x s
  | .time x => Sys2Proof.Machine.execTime x s
  | .tretRes x => Sys2Proof.Machine.execTretRes x s
  | .tretKill x => Sys2Proof.Machine.execTretKill x s
  | .fetchBlockReturn w e => Sys2Proof.Machine.execFetchBlockReturn w e s
  | .coalescingWindowClose c => Sys2Proof.Machine.execCoalescingWindowClose c s
  | .walkEntryRead die walk e => Sys2Proof.Machine.execWalkEntryRead die walk e s
  | .formatEntryRead c e => Sys2Proof.Machine.execFormatEntryRead c e s
  | .l1FillReturn pid => Sys2Proof.Machine.execL1FillReturn pid s
  | .loadDataReturn c rid => Sys2Proof.Machine.execLoadDataReturn c rid s
  | .storeAck pid => Sys2Proof.Machine.execStoreAck pid s
  | .combiningEntryAge c => Sys2Proof.Machine.execCombiningEntryAge c s
  | .peerProbe c rid => Sys2Proof.Machine.execPeerProbe c rid s
  | .peerProbeAnswer c rid => Sys2Proof.Machine.execPeerProbeAnswer c rid s
  | .meshHop pid granted merge => Sys2Proof.Machine.execMeshHop pid granted merge s
  | .interposerLinkCrossing pid => Sys2Proof.Machine.execInterposerLinkCrossing pid s
  | .slotBoundary  => Sys2Proof.Machine.execSlotBoundary  s
  | .l2Request pid => Sys2Proof.Machine.execL2Request pid s
  | .atomicUnitService pid => Sys2Proof.Machine.execAtomicUnitService pid s
  | .cwaitAnswer pid => Sys2Proof.Machine.execCwaitAnswer pid s
  | .cwaitRetry c rid => Sys2Proof.Machine.execCwaitRetry c rid s
  | .hbmAccess stack channel e => Sys2Proof.Machine.execHbmAccess stack channel e s
  | .maintenanceSlot stack refreshDone e overwritten => Sys2Proof.Machine.execMaintenanceSlot stack refreshDone e overwritten s
  | .hbmTemperatureSample stack celsius => Sys2Proof.Machine.execHbmTemperatureSample stack celsius s
  | .bufferAccess buffer e => Sys2Proof.Machine.execBufferAccess buffer e s
  | .bufferRefresh buffer => Sys2Proof.Machine.execBufferRefresh buffer s
  | .bufferScrub buffer e => Sys2Proof.Machine.execBufferScrub buffer e s
  | .bagTakeUp c e => Sys2Proof.Machine.execBagTakeUp c e s
  | .bufferPool c view e => Sys2Proof.Machine.execBufferPool c view e s
  | .partialVectorCombine c => Sys2Proof.Machine.execPartialVectorCombine c s
  | .copyEntryStart c ch => Sys2Proof.Machine.execCopyEntryStart c ch s
  | .deliveryUnitPerformed c ch e => Sys2Proof.Machine.execDeliveryUnitPerformed c ch e s
  | .copyEntryComplete c ch => Sys2Proof.Machine.execCopyEntryComplete c ch s
  | .qfenceEntryComplete c fence => Sys2Proof.Machine.execQfenceEntryComplete c fence s
  | .guardedOffEntry c queue slot => Sys2Proof.Machine.execGuardedOffEntry c queue slot s
  | .binplayEntry c e => Sys2Proof.Machine.execBinplayEntry c e s
  | .matrixEntryStart c e => Sys2Proof.Machine.execMatrixEntryStart c e s
  | .tileWrite c => Sys2Proof.Machine.execTileWrite c s
  | .collectorRowDrop c lane => Sys2Proof.Machine.execCollectorRowDrop c lane s
  | .rowBlockStart c block => Sys2Proof.Machine.execRowBlockStart c block s
  | .mmvStreamData c e => Sys2Proof.Machine.execMmvStreamData c e s
  | .batchComplete c slot => Sys2Proof.Machine.execBatchComplete c slot s
  | .rotDemotion w => Sys2Proof.Machine.execRotDemotion w s
  | .sleepExpiry w => Sys2Proof.Machine.execSleepExpiry w s
  | .generationBroadcast c => Sys2Proof.Machine.execGenerationBroadcast c s
  | .generationRaiseComplete  => Sys2Proof.Machine.execGenerationRaiseComplete  s
  | .catload m image => Sys2Proof.Machine.execCatload m image s
  | .catdrop m cat => Sys2Proof.Machine.execCatdrop m cat s
  | .kick m cat kickSeq patches => Sys2Proof.Machine.execKick m cat kickSeq patches s
  | .replayStart wing cat => Sys2Proof.Machine.execReplayStart wing cat s
  | .nodeDispatch wing cat => Sys2Proof.Machine.execNodeDispatch wing cat s
  | .workPacketSend wing cat => Sys2Proof.Machine.execWorkPacketSend wing cat s
  | .mailboxPacketArrival die => Sys2Proof.Machine.execMailboxPacketArrival die s
  | .cohortRelease wing cat => Sys2Proof.Machine.execCohortRelease wing cat s
  | .groupEnd c slot => Sys2Proof.Machine.execGroupEnd c slot s
  | .groupEndNotice c => Sys2Proof.Machine.execGroupEndNotice c s
  | .nodeEnd unit => Sys2Proof.Machine.execNodeEnd unit s
  | .replayEnd wing cat => Sys2Proof.Machine.execReplayEnd wing cat s
  | .coreStop c => Sys2Proof.Machine.execCoreStop c s
  | .otherWarpsResume c => Sys2Proof.Machine.execOtherWarpsResume c s
  | .deferredTrap c slot => Sys2Proof.Machine.execDeferredTrap c slot s
  | .swapOut c slot => Sys2Proof.Machine.execSwapOut c slot s
  | .frameWaitResume c slot => Sys2Proof.Machine.execFrameWaitResume c slot s
  | .preemptionStop c slot => Sys2Proof.Machine.execPreemptionStop c slot s
  | .watchdog w => Sys2Proof.Machine.execWatchdog w s
  | .portFrameReceive port kind => Sys2Proof.Machine.execPortFrameReceive port kind s
  | .roceWrite qp rkey va data => Sys2Proof.Machine.execRoceWrite qp rkey va data s
  | .roceWriteImmediate qp rkey va data imm => Sys2Proof.Machine.execRoceWriteImmediate qp rkey va data imm s
  | .roceRead qp rkey va len => Sys2Proof.Machine.execRoceRead qp rkey va len s
  | .sendDescriptorTake qp => Sys2Proof.Machine.execSendDescriptorTake qp s
  | .descriptorComplete qp nak data => Sys2Proof.Machine.execDescriptorComplete qp nak data s
  | .resync m => Sys2Proof.Machine.execResync m s
  | .genraise m asid => Sys2Proof.Machine.execGenraise m asid s
  | .preempt m die core slot => Sys2Proof.Machine.execPreempt m die core slot s
  | .mrreg m b => Sys2Proof.Machine.execMrreg m b s
  | .mrdrop m rkey => Sys2Proof.Machine.execMrdrop m rkey s
  | .qpcreate m b => Sys2Proof.Machine.execQpcreate m b s
  | .qpdestroy m qp => Sys2Proof.Machine.execQpdestroy m qp s
  | .wingset m b => Sys2Proof.Machine.execWingset m b s
  | .wingquiesce m wing => Sys2Proof.Machine.execWingquiesce m wing s
  | .wingQuiesced wing => Sys2Proof.Machine.execWingQuiesced wing s
  | .slotset m owners => Sys2Proof.Machine.execSlotset m owners s
  | .keyload m pair retain => Sys2Proof.Machine.execKeyload m pair retain s
  | .keyrevoke m wing => Sys2Proof.Machine.execKeyrevoke m wing s
  | .keyrevokeComplete wing => Sys2Proof.Machine.execKeyrevokeComplete wing s
  | .zeroingComplete u => Sys2Proof.Machine.execZeroingComplete u s
  | .mgmtrd m r => Sys2Proof.Machine.execMgmtrd m r s
  | .mgmtwr m r value => Sys2Proof.Machine.execMgmtwr m r value s
  | .hmcfgCntClr stack => Sys2Proof.Machine.execHmcfgCntClr stack s
  | .filterFullClear stack => Sys2Proof.Machine.execFilterFullClear stack s
  | .warmReset  => Sys2Proof.Machine.execWarmReset  s
  | .fwload m image => Sys2Proof.Machine.execFwload m image s
  | .attest m nonce => Sys2Proof.Machine.execAttest m nonce s
  | .powerGood selfTestOk => Sys2Proof.Machine.execPowerGood selfTestOk s
  | .stage1Reached failed slowRows => Sys2Proof.Machine.execStage1Reached failed slowRows s
  | .stage2Reached  => Sys2Proof.Machine.execStage2Reached  s
  | .junctionTemperatureSample die celsius => Sys2Proof.Machine.execJunctionTemperatureSample die celsius s
  | .powerCapExceeded milliwatts => Sys2Proof.Machine.execPowerCapExceeded milliwatts s
  | .coreFence c => Sys2Proof.Machine.execCoreFence c s
  | .stackFence u => Sys2Proof.Machine.execStackFence u s
  | .portLinkFailure port => Sys2Proof.Machine.execPortLinkFailure port s
  | .curatorReload die => Sys2Proof.Machine.execCuratorReload die s
  | .uncoreResetEntry die => Sys2Proof.Machine.execUncoreResetEntry die s
  | .uncoreResetExit die => Sys2Proof.Machine.execUncoreResetExit die s
  | .coreDomainResetExit die => Sys2Proof.Machine.execCoreDomainResetExit die s
  | .coreDomainResetEntry die => Sys2Proof.Machine.execCoreDomainResetEntry die s
  | .dieFence die => Sys2Proof.Machine.execDieFence die s
  | .promotionRequest c issuer => Sys2Proof.Machine.execPromotionRequest c issuer s
  | .dcqcnRateReduction qp => Sys2Proof.Machine.execDcqcnRateReduction qp s

end Sys2Proof.Machine
end

