-- ==== Sys2Proof/Machine/Kinds.lean ====
section
/-!
DEFINITION. The instructions of the ALU, the SFU and the cross-thread unit by what they compute, and what an instruction in
progress takes of its lane (R151, R154, R178).
-/
namespace Sys2Proof.Machine

/-- What an instruction of the ALU or the SFU computes on one thread's values (R189 to R224); none of another instruction, and
of CVTPK and CVTUPK none of the forms that read a page format. -/
def aluOf : Instr → Option Alu
  | .iadd x => some (aluIadd x)
  | .isub x => some (aluIsub x)
  | .imul x => some (aluImul x)
  | .imulh x => some (aluImulh x)
  | .imad x => some (aluImad x)
  | .imin x => some (aluImin x)
  | .imax x => some (aluImax x)
  | .iabs x => some (aluIabs x)
  | .ineg x => some (aluIneg x)
  | .idiv x => some (aluIdiv x)
  | .lea x => some (aluLea x)
  | .iset x => some (aluIset x)
  | .sel x => some (aluSel x)
  | .mov x => some (aluMov x)
  | .idp4 x => some (aluIdp4 x)
  | .plop x => some (aluPlop x)
  | .andB x => some (aluAnd x)
  | .orB x => some (aluOr x)
  | .xorB x => some (aluXor x)
  | .btab x => some (aluBtab x)
  | .notB x => some (aluNot x)
  | .shl x => some (aluShl x)
  | .shr x => some (aluShr x)
  | .sar x => some (aluSar x)
  | .shf x => some (aluShf x)
  | .bfe x => some (aluBfe x)
  | .bfi x => some (aluBfi x)
  | .popc x => some (aluPopc x)
  | .clz x => some (aluClz x)
  | .ctz x => some (aluCtz x)
  | .brev x => some (aluBrev x)
  | .fadd x => some (aluFadd x)
  | .fsub x => some (aluFsub x)
  | .fmul x => some (aluFmul x)
  | .ffma x => some (aluFfma x)
  | .fmin x => some (aluFmin x)
  | .fmax x => some (aluFmax x)
  | .fset x => some (aluFset x)
  | .fclass x => some (aluFclass x)
  | .frnd x => some (aluFrnd x)
  | .fdot2 x => some (aluFdot2 x)
  | .fscale x => some (aluFscale x)
  | .cvt x => some (aluCvt x)
  | .rcp x => some (aluRcp x)
  | .rsq x => some (aluRsq x)
  | .sqrt x => some (aluSqrt x)
  | .exp2 x => some (aluExp2 x)
  | .log2 x => some (aluLog2 x)
  | .sin x => some (aluSin x)
  | .cos x => some (aluCos x)
  | .tanh x => some (aluTanh x)
  | .fdiv x => some (aluFdiv x)
  | .cvtpk x => if tyOf x.fn ≤ 1 then some (aluCvtpk x) else none
  | .cvtupk x => if tyOf x.fn ≤ 1 then some (aluCvtupk x) else none
  | _ => none

/-- The long instruction that a short form of the ALU or the SFU stands for (R178). -/
def longFormOf : Instr → Option Instr
  | .movShort x => some (.mov (shortLong 0x1 x))
  | .iaddShort x => some (.iadd (shortLong 0x2 x))
  | .isubShort x => some (.isub (shortLong 0x3 x))
  | .imulShort x => some (.imul (shortLong 0x4 x))
  | .iminShort x => some (.imin (shortLong 0x5 x))
  | .imaxShort x => some (.imax (shortLong 0x6 x))
  | .inegShort x => some (.ineg (shortLong 0x7 x))
  | .iabsShort x => some (.iabs (shortLong 0x8 x))
  | .andShort x => some (.andB (shortLong 0x9 x))
  | .orShort x => some (.orB (shortLong 0xa x))
  | .xorShort x => some (.xorB (shortLong 0xb x))
  | .notShort x => some (.notB (shortLong 0xc x))
  | .shlShort x => some (.shl (shortLong 0xd x))
  | .shrShort x => some (.shr (shortLong 0xe x))
  | .sarShort x => some (.sar (shortLong 0xf x))
  | .popcShort x => some (.popc (shortLong 0x10 x))
  | .clzShort x => some (.clz (shortLong 0x11 x))
  | .ctzShort x => some (.ctz (shortLong 0x12 x))
  | .brevShort x => some (.brev (shortLong 0x13 x))
  | .faddShort x => some (.fadd (shortLong 0x14 x))
  | .fsubShort x => some (.fsub (shortLong 0x15 x))
  | .fmulShort x => some (.fmul (shortLong 0x16 x))
  | .fminShort x => some (.fmin (shortLong 0x17 x))
  | .fmaxShort x => some (.fmax (shortLong 0x18 x))
  | .faddPackedShort x => some (.fadd (shortLong 0x19 x))
  | .fmulPackedShort x => some (.fmul (shortLong 0x1a x))
  | .rcpShort x => some (.rcp (shortLong 0x1b x))
  | .rsqShort x => some (.rsq (shortLong 0x1c x))
  | .sqrtShort x => some (.sqrt (shortLong 0x1d x))
  | .exp2Short x => some (.exp2 (shortLong 0x1e x))
  | .log2Short x => some (.log2 (shortLong 0x1f x))
  | .sinShort x => some (.sin (shortLong 0x20 x))
  | .cosShort x => some (.cos (shortLong 0x21 x))
  | .tanhShort x => some (.tanh (shortLong 0x22 x))
  | .cvtShort x => some (.cvt (shortLong 0x23 x))
  | _ => none

/-- What a cross-thread, sparse or tree instruction computes over the active threads (R229 to R239). -/
def crossOf : Instr → Option Cross
  | .shfl x => some (crossShfl x)
  | .poll x => some (crossPoll x)
  | .redx x => some (crossRedx x)
  | .redxi x => some (crossRedxi x)
  | .scan x => some (crossScan x)
  | .matchT x => some (crossMatch x)
  | .elect x => some (crossElect x)
  | .isect x => some (crossIsect x)
  | .brank x => some (crossBrank x)
  | .treestep x => some (crossTreestep x)
  | _ => none

/-- What an instruction takes of its lane (R147 to R151, R154, R248, R280, R351). -/
def takesOf (w : Warp) (i : Instr) : Takes :=
  let j := (longFormOf i).getD i
  match j.long? with
  | none => .once
  | some (opc, x) =>
    let n := opc.toNat
    let per : Takes := if 0x40 ≤ n && n ≤ 0x48 then .sfu else .alu
    match aluOf j with
    | some op => if op.once x || !(op.shape w x).isGeneral then .once else per
    | none =>
      if n < 0x64 then per
      else if n < 0x80 || n == 0x93 || n == 0x94 || n == 0xC1 then .once
      else if n < 0xA0 then .mem
      else if n < 0xE0 then .engine
      else .once

/-- Whether two instructions take the same slot of a lane (R151, R152). -/
def Takes.clash (a b : Takes) : Bool :=
  match a with
  | .none => false
  | .alu | .sfu => b == .alu || b == .sfu
  | .once | .mem | .engine => b == .once || b == .mem || b == .engine

end Sys2Proof.Machine
end

