-- ==== Sys2Proof/Machine/Sched.lean ====
section
/-!
DEFINITION. What moves next: an event presented from outside, an enabled step of a unit, or an instruction of a warp (R139, R152,
R342, R347), and the fetching of its bytes (R170, R347).
-/
namespace Sys2Proof.Machine

/-- What a step does: it executes an instruction or event, or only changes the state. -/
inductive Plan where
  | run (i : Instr) (s : State)
  | idle (s : State)

/-- Whether a row is a step of a unit, not an instruction of a warp. -/
def isEvent (i : Instr) : Bool :=
  match i.short?, i.long? with
  | none, none => match i with | .illegalEncoding _ => false | _ => true
  | _, _ => false

/-! ### Waits (R341, R342) -/

/-- Whether there is the room that an instruction waits for. -/
def State.hasRoom (s : State) (w : Warp) (r : Room) : Bool :=
  match r with
  | .count c => w.count c < 63
  | .held ctr => !s.heldAdd w ctr
  | .channel n => s.queueRoom (s.grp w) n
  | .queues l => l.all (s.queueRoom (s.grp w))
  | .window =>
    match (s.core w.id.coreId).openWin s.clk with
    | none => true
    | some v => v.slot == w.grp && v.rows.all fun r => r.lane != w.id.lane || !(r.claimed || r.dropped)
  | .frames => (s.die w.id.die).frames.length < 64
  | .mailbox d => (s.die d).otherRoom

/-- Whether what a split waits for has come, so that its instruction goes on; a WAITC, CWAIT or BAR does not, but completes. -/
def State.waitOver (s : State) (w : Warp) (x : Wait) : Bool :=
  let k := s.core w.id.coreId
  match x with
  | .count _ _ _ _ | .answer _ _ _ | .localCtr _ _ _ _ => false
  | .instr l => !k.outst.any fun o => l.contains o.iid
  | .walk => !((s.die w.id.die).walks.any fun q => q.warp == w.id) && !(k.fmtReads.any fun q => q.warp == w.id)
  | .batch n => (s.grp w).batchDone.getLsbD n
  | .room r => s.hasRoom w r
  | .resumed => true
  | .mailbox => !(s.die w.id.die).mailbox.isEmpty
  | .sleep _ => false
  | .raise => !s.raises.any fun r => r.warp == some w.id
  | .promote => !k.promotes.any fun p => p.warp == w.id

/-- Whether a blocked split may go on; in a held warp only one in the middle of its instruction (R383). -/
def State.splitOver (s : State) (w : Warp) (p : Split) : Bool :=
  match p.st with
  | .blocked x => s.waitOver w x && (!w.held || p.inside)
  | _ => false

/-- A split that goes on: it runs if its wait held the whole warp, else it is ready. -/
def Split.woken (p : Split) : Split := { p with st := if p.stalls then .running else .ready }

/-- A warp with the splits ready whose waits are over, and the next running one chosen (R342). An instruction whose wait was not in
its middle is ready from now on (R152). -/
def State.wake (s : State) (w : Warp) : Warp :=
  let w1 := { w with splits := w.splits.map fun p => if s.splitOver w p then p.woken else p }
  let w2 := if w.held then w1 else w1.schedule (w1.splits.length - 1)
  if w.running.isNone && !w.splits.any Split.stalls then w2.chosen s.clk else w2

/-- What completes a split's WAITC, CWAIT or BAR: its length and the acquire that follows, once what it waits for has come (R306, R307,
R309, R360). -/
def State.completes (s : State) (w : Warp) (p : Split) : Option (Nat × Option Bool) :=
  match p.st with
  | .blocked (.count g t q len) => if w.countsOk g t q then some (len, none) else none
  | .blocked (.answer i len acq) => if (s.core w.id.coreId).outst.any fun o => o.iid == i then none else some (len, acq)
  | .blocked (.localCtr b v len acq) => if v.toNat ≤ ((s.grp w).ctrs.getD b 0).toNat then some (len, acq) else none
  | _ => none

/-- A lane cycle ends with some of a warp's waits over: their splits leave WAITC, CWAIT or BAR in the next one, the acquires made, and go
on in the one after (R307, R436). -/
def State.endWaits (s : State) (w : Warp) : State :=
  let ended := w.splits.filterMap fun p => (s.completes w p).map fun x => (p.mask, x)
  if ended.isEmpty then s
  else
    let s1 := ended.foldl (fun st x => match x.2.2 with | some wide => st.acquireActs w.id.coreId wide | none => st) s
    let mine (p : Split) : Option (Mask × Nat × Option Bool) := ended.find? fun x => x.1 == p.mask
    let w1 := { w with splits := w.splits.map fun p => if (mine p).isSome then { p with st := .ready } else p }
    let w2 := if w.held || w.running.isSome then w1
      else
        let u := (w1.schedule (w1.splits.length - 1)).chosen s.clk
        { u with readyAt := max u.readyAt (s.clk + 2), age := max u.age (s.clk + 2) }
    let gone (p : Split) : Split := match mine p with | some x => { p.advance x.2.1 with st := p.st } | none => p
    s1.setWarp ({ w2 with splits := w2.splits.map gone }.watchFrom s.clk)

/-! ### The warp that issues (R139, R152) -/

/-- Whether a core issues: its domain runs, it is not fenced, and no trap was raised on it in an earlier cycle (R383, R421, R422). -/
def State.issuing (s : State) (c : CoreId) : Bool :=
  let k := s.core c
  !k.fenced && (s.die c.die).coreDom == .running &&
  match k.stop with | .none => true | .stopping n _ => s.clk ≤ n | .resuming _ => false

/-- Whether a warp's instruction has trapped in this cycle (R383). -/
def State.trapped (s : State) (w : Warp) : Bool :=
  match (s.core w.id.coreId).stop with
  | .stopping _ l => l.any fun t => t.slot == w.grp && t.trapRec.warp == w.widx && !t.trapRec.deferred
  | _ => false

/-! ### Fetching an instruction's bytes (R170, R347) -/

/-- A byte that a warp's instruction buffer holds. -/
def Warp.byteAt? (w : Warp) (a : Nat) : Option Byte :=
  w.ibufs.findSome? fun b => if b.base ≤ a && a < b.base + 64 then b.bytes[a - b.base]? else none

/-- The block of the first of `n` bytes at the pc that the buffer lacks. -/
def Warp.lacks (w : Warp) (n : Nat) : Option Nat :=
  ((List.range n).find? fun i => (w.byteAt? ((w.pc + i) % 2 ^ 64)).isNone).map fun i => (w.pc + i) % 2 ^ 64 / 64 * 64

/-- The bytes at the pc. -/
def Warp.codeBytes (w : Warp) (n : Nat) : List Byte :=
  (List.range n).map fun i => (w.byteAt? ((w.pc + i) % 2 ^ 64)).getD 0

/-- Length of the instruction at the pc, from its first word. -/
def Warp.codeLen (w : Warp) : Nat := lengthOf (leNat (w.codeBytes 4))

/-- The block that must arrive before the instruction at the pc can be decoded. -/
def Warp.needsBlock (w : Warp) : Option Nat :=
  match w.lacks 4 with
  | some b => some b
  | none => w.lacks w.codeLen

/-! ### The pick of a warp (R139, R151, R152) -/

/-- Which of two warps holds the older instruction: by the cycle in which it became ready, then by its slot (R152). -/
def Warp.older (a b : Warp) : Bool := a.age < b.age || (a.age == b.age && a.id.slot < b.id.slot)

/-- Whether a warp may issue at its core: the core issues, or the warp finishes an instruction that it is part-way through (R383), and no
pre-emption has stopped it at a boundary (R391). -/
def State.mayIssue (s : State) (w : Warp) : Bool :=
  let k := s.core w.id.coreId
  (s.issuing w.id.coreId && ((s.grp w).preempt.isNone || w.splits.any Split.inside)) ||
  (w.walking && !k.fenced && (s.die w.id.die).coreDom == .running)

/-- Whether no other warp of its lane is in the middle of an instruction that takes the same slot (R151, R152). -/
def State.slotFree (s : State) (w : Warp) (t : Takes) : Bool :=
  !s.warps.any fun o =>
    o.id.coreId == w.id.coreId && o.id.lane == w.id.lane && o.id != w.id && o.takes.clash t &&
    (o.inSlot s.clk || (s.trapped o && s.issuing o.id.coreId))

/-- A warp that may issue now, as it then stands: what it takes of its lane is free, where its instruction has been fetched. -/
def State.eligible (s : State) (w : Warp) : Option Warp :=
  if w.splits.isEmpty || w.fetching.isSome || s.clk < w.readyAt || !s.mayIssue w || s.trapped w then none
  else
    let x := s.wake w
    match x.running with
    | none => none
    | some p =>
      if (x.held && p.phase == 0 && !w.walking) || s.clk < x.readyAt then none
      else if x.needsBlock.isSome then some x
      else
        let t := takesOf x (decode (x.codeBytes x.codeLen)).1
        if s.slotFree x t then some { x with takes := t, lag := 0 } else none

/-- Whether a warp that may issue offers an operation to a lane's slot B (R151). -/
def Warp.offersB (w : Warp) : Bool := w.needsBlock.isNone && (w.takes == .once || w.takes == .mem || w.takes == .engine)

/-- The lane of a quad that an engine port grants, of those whose pick offers to it or whose instruction in progress does (R99, R154). -/
def State.engineTurn (s : State) (l : List Warp) (c : CoreId) (q : Nat) : Option Nat :=
  (turnFrom (((s.core c).ports.getD q (3, 3, 3)).2.2)).find? fun i =>
    (l ++ s.warps.filter fun w => w.inSlot s.clk).any fun w => w.id.coreId == c && w.id.lane == 4 * q + i && w.takes == .engine

/-- Whether a warp's pick issues: it is its lane's pick for slot B, and where it offers to the engine port, its quad's port grants it and no
port of a lower quad has one still to grant; a pick that loses is not replaced (R152, R154, R321). -/
def State.picked (s : State) (picks : List Warp) (x : Warp) : Bool :=
  if !x.offersB then true
  else
    let used (q : Nat) : Bool := (s.core x.id.coreId).granted.contains q
    let q := x.id.lane / 4
    (picks.any fun o => o.id == x.id) &&
    (x.takes != .engine ||
      (!used q && s.engineTurn picks x.id.coreId q == some (x.id.lane % 4) &&
       !(picks.any fun o => o.takes == .engine && o.id.coreId == x.id.coreId && o.id.lane / 4 < q && !used (o.id.lane / 4) &&
          s.engineTurn picks x.id.coreId (o.id.lane / 4) == some (o.id.lane % 4))))

/-- The oldest of some warps. -/
def oldest (l : List Warp) : Option Warp :=
  l.foldl (fun best x => match best with | none => some x | some b => if x.older b then some x else best) none

/-- The oldest warp that may issue and whose pick is granted. -/
def State.pickWarp (s : State) : Option Warp :=
  let l := s.warps.filterMap s.eligible
  let b := l.filter Warp.offersB
  let picks := b.filter fun x => !(b.any fun o => o.id.coreId == x.id.coreId && o.id.lane == x.id.lane && o.older x)
  oldest (l.filter (s.picked picks))

/-! ### Issue -/

/-- The warp asks for a block; of its buffer only the block of its pc stays (R347). -/
def Warp.ask (w : Warp) (base : Nat) : Warp :=
  { w with fetching := some base, ibufs := w.ibufs.filter fun b => b.base == w.pc / 64 * 64 }

/-- The chosen warp issues: rotation first (R343), then the fetch of what its buffer lacks, then its instruction. -/
def State.issueFrom (s : State) (w : Warp) : Plan :=
  let s1 : State := { s.setWarp w with cur := w.id }
  if w.rotDue && w.phase == 0 then .run (.rotDemotion w.id) s1
  else
    match w.needsBlock with
    | some b => .idle (s1.setWarp (w.ask b))
    | none =>
      .run (decode (w.codeBytes w.codeLen)).1
        (if w.takes == .engine then s1.modCore w.id.coreId fun k => { k with granted := w.id.lane / 4 :: k.granted } else s1)

/-- A quad's SFU or engine port grants one of the lanes whose instruction in progress takes it; the others lose the cycle (R154). -/
def State.portTurn (s : State) (c : CoreId) (t : Takes) (q : Nat) : State :=
  let k := s.core c
  let p := k.ports.getD q (3, 3, 3)
  let last := if t == .sfu then p.2.1 else p.2.2
  let offers (w : Warp) (i : Nat) : Bool := w.id.coreId == c && w.id.lane == 4 * q + i && w.takes == t && w.inSlot s.clk
  match (turnFrom last).find? fun i => s.warps.any fun w => offers w i with
  | none => s
  | some g =>
    let lost (w : Warp) : Bool := (turnFrom last).any fun i => i != g && offers w i
    { (s.modCore c fun k => { k with ports := k.ports.mapIdx fun j x =>
          if j == q then (if t == .sfu then (x.1, g, x.2.2) else (x.1, x.2.1, g)) else x }) with
      warps := s.warps.map fun w => if lost w then { w with readyAt := w.readyAt + 1, age := w.age + 1 } else w }

/-- A warp whose accesses have not all left their lane is not ready before the cycle after the next (R99, R140). -/
def State.lagged (s : State) (w : Warp) : Warp :=
  let k := s.core w.id.coreId
  if k.outst.any fun o => o.warp == w.id && k.inLane o.iid then
    { w with readyAt := max w.readyAt (s.clk + 2), age := if w.splits.any Split.stalls then w.age else max w.age (s.clk + 2) }
  else w

/-- What a lane cycle brings at a core: its matrix engine reads operand B of its windows, its coalescer ports grant, its scratchpad
banks serve, and its SFU and engine ports grant (R99, R118, R154, R250). -/
def State.coreCycle (s : State) (c : CoreId) : State :=
  let s0 := s.feedWindows c
  let k := s0.core c
  let s1 := if k.reqs.any fun r => match r.stage with | .lane | .bank _ => true | _ => false
    then ((s0.grantPorts c).serveBanks c).settle c else s0
  let s2 := if k.busyBanks.isEmpty && k.granted.isEmpty then s1 else s1.modCore c fun k => { k with busyBanks := [], granted := [] }
  let lanes (t : Takes) : List Nat :=
    ((s2.warps.filter fun w => w.id.coreId == c && w.takes == t && w.inSlot s.clk).map fun w => w.id.lane / 4).eraseDups
  let s3 := (lanes .sfu).foldl (fun st q => st.portTurn c .sfu q) s2
  (lanes .engine).foldl (fun st q => st.portTurn c .engine q) s3

/-- A lane cycle passes, once nothing more moves in it: each queue pair in a slot of its wing places an element of its message (R405, R407),
and key slots that are being zeroised are empty (R412). -/
def State.tick (s : State) : State :=
  let s1 := (s.cores.map (·.id)).foldl State.coreCycle s
  let s2 := s1.warps.foldl State.endWaits s1
  let s3 := s2.qps.foldl (fun st q => if st.inSlot q.wing then st.placeNext q.qpn else st) s2
  { s3 with warps := s3.warps.map fun w => s3.lagged (if w.walking then w else s3.wake w), clk := s3.clk + 1
            wings := s3.wings.map fun w => if w.revoking.isNone then w.zeroised else w
            tableErrs := Config.tableErrors (s3.clk + 1) }

/-- The oldest warp issues; with none, a lane cycle passes. -/
def State.issueNext (s : State) : Plan :=
  match s.pickWarp with
  | some w => s.issueFrom w
  | none => .idle s.tick

/-! ### Enabled steps of the units -/

/-- The first event of a list of candidates. -/
def firstOf : List (Option Instr) → Option Instr
  | [] => none
  | some i :: _ => some i
  | none :: l => firstOf l

/-- An event under its condition. -/
def onlyIf (b : Bool) (i : Instr) : Option Instr := if b then some i else none

/-- Whether nothing is going on in a core's own units. -/
def Core.quiet (k : Core) : Bool :=
  (match k.stop with | .none => true | _ => false) && k.reqs.isEmpty && k.fmtReads.isEmpty && k.comb.isEmpty && k.promotes.isEmpty &&
  k.chans.all List.isEmpty && k.binq.isEmpty && k.poolq.isEmpty && k.fences.isEmpty && k.windows.isEmpty && k.runs.isEmpty &&
  k.notices.isEmpty

/-- The step of a request at its core (R95, R100, R108, R307). -/
def State.reqEvent (s : State) (k : Core) (r : Req) : Option Instr :=
  match r.stage with
  | .window n _ => onlyIf (k.closing s.clk == some (r.iid, n) && k.closeFits r.iid n) (.coalescingWindowClose k.id)
  | .probe _ => some (.peerProbe k.id r.rid)
  | .probed a => onlyIf (a.isSome || !k.seqHeld) (.peerProbeAnswer k.id r.rid)
  | .retry n => onlyIf (n ≤ s.clk) (.cwaitRetry k.id r.rid)
  | .ready => some (.loadDataReturn k.id r.rid)
  | _ => none

/-- The step of the entry at the head of an engine queue (R121 to R132, R53 to R64); partial vectors are combined in a slot of the
wing (R405). -/
def State.queueEvent (s : State) (k : Core) (n : Nat) : Option Instr :=
  match s.headOf k.id n with
  | none => none
  | some (g, e) =>
    if e.off then onlyIf (k.needsOver e.needs) (.guardedOffEntry k.id n e.slot)
    else if n < 8 then
      if !e.started then onlyIf (k.needsOver e.needs) (.copyEntryStart k.id n)
      else if e.done < (CopyCmd.parse e.cmd).total then
        onlyIf (s.banksFree g ((CopyCmd.parse e.cmd).spmRuns e.done)) (.deliveryUnitPerformed k.id n .good)
      else onlyIf (s.landed g) (.copyEntryComplete k.id n)
    else if n == 8 then onlyIf (k.needsOver e.needs && s.banksFree g (e.playRuns (.parse e.cmd))) (.binplayEntry k.id .good)
    else
      match k.bag with
      | none => onlyIf (k.needsOver e.needs && s.banksFree g (s.bagRuns g (.parse e.cmd) e.done)) (.bagTakeUp k.id .good)
      | some b =>
        match b.views with
        | v :: _ => some (.bufferPool k.id v .good)
        | [] =>
          onlyIf (s.inSlot (s.dieWing k.id.die) && s.banksFree g ((PoolCmd.parse e.cmd).outRuns e.done)) (.partialVectorCombine k.id)

/-- Whether a fence may complete now (R128). -/
def State.fenceDue (s : State) (k : Core) (f : Fence) : Bool :=
  match s.group? k.id f.slot with
  | none => true
  | some g => s.fenceReady k.id f && !g.deferred.any fun t => t.trapRec.pc == f.who.pc

/-- The step of the matrix engine's own work (R246, R249, R250, R253). -/
def State.matrixEvent (s : State) (k : Core) : Option Instr :=
  if k.runs.any fun r => !r.streaming && r.writeAt ≤ s.clk then some (.tileWrite k.id)
  else if k.runs.any (·.streaming) then some (.mmvStreamData k.id .good)
  else (s.headWindow k.id).bind fun x => (x.2.2.nextBlock s.clk).map fun b => .rowBlockStart k.id b

/-- A row of the open window that is waited for too long (R249). -/
def State.dropEvent (s : State) (k : Core) : Option Instr :=
  match k.openWin s.clk with
  | none => none
  | some v => (v.rows.find? (v.dropDue s.clk)).map fun r => .collectorRowDrop k.id r.lane

/-- A core's enabled step. -/
def State.coreEvent (s : State) (k : Core) : Option Instr :=
  if k.quiet then none
  else
    firstOf [
      match k.stop with
      | .stopping n _ => onlyIf (n < s.clk && !s.unfinished k.id) (.coreStop k.id)
      | .resuming n => onlyIf (n ≤ s.clk) (.otherWarpsResume k.id)
      | .none => none,
      onlyIf (!k.fmtReads.isEmpty) (.formatEntryRead k.id .good),
      k.reqs.findSome? (s.reqEvent k),
      onlyIf (k.comb.any fun e => e.born + 1024 ≤ s.clk) (.combiningEntryAge k.id),
      s.matrixEvent k,
      s.dropEvent k,
      (List.range 10).findSome? (s.queueEvent k),
      (k.fences.find? (s.fenceDue k)).map fun f => .qfenceEntryComplete k.id f.fid,
      onlyIf (!k.notices.isEmpty && (s.die k.id.die).mailbox.length < 64) (.groupEndNotice k.id)]

/-- The step of the head of a group's matrix queue (R129, R245, R258). -/
def State.mxEvent (s : State) (g : Group) : Option Instr :=
  match g.mxHead with
  | none => none
  | some e =>
    if e.off && (s.core g.core).serves g then some (.guardedOffEntry g.core 10 g.slot)
    else
      match s.nextTurn g.core with
      | none => none
      | some (h, m) =>
        if h.slot != g.slot || m.opc == 0xC1 then none
        else if m.opc == 0xC6 then some (.batchComplete g.core g.slot)
        else onlyIf (s.banksFree h (s.mxRuns h m)) (.matrixEntryStart g.core .good)

/-- Whether a deferred trap of a group is to be raised now (R450). -/
def State.trapDue (s : State) (g : Group) : Bool :=
  g.deferred.any (s.deferDue g) && match (s.core g.core).stop with | .stopping _ _ => false | _ => true

/-- Whether a pre-emption of a group is to stop it now (R391). -/
def State.preemptDue (s : State) (g : Group) : Bool :=
  g.preempt.isSome && g.phase == .running && s.allAtBoundary g && match (s.core g.core).stop with | .stopping _ _ => false | _ => true

/-- A group's enabled step. -/
def State.groupEvent (s : State) (g : Group) : Option Instr :=
  firstOf [
    onlyIf (s.trapDue g) (.deferredTrap g.core g.slot),
    onlyIf (s.preemptDue g) (.preemptionStop g.core g.slot),
    s.mxEvent g,
    match g.phase with
    | .running => onlyIf (s.groupOver g) (.groupEnd g.core g.slot)
    | .held _ => onlyIf (s.drained g) (.swapOut g.core g.slot)
    | .frameWait _ => onlyIf (!(s.die g.core.die).frames.isEmpty) (.frameWaitResume g.core g.slot)
    | _ => none]

/-- A die's enabled step: walks and packets on their way to its mailbox (R71, R371). -/
def dieEvent (d : Die) : Option Instr :=
  firstOf [
    onlyIf (!d.walks.isEmpty) (.walkEntryRead d.id 0 .good),
    onlyIf (!d.inbound.isEmpty && d.mailbox.length < 64) (.mailboxPacketArrival d.id)]

/-- Whether the atomic unit can act on a request at its home (R296). -/
def State.atomReady (s : State) (r : Req) : Bool :=
  let here := match s.l2Line? r.line with | some l => l.has (r.wordPA % 128) | none => false
  s.memDown r.line || s.bypass r.line || !here ||
  (((s.runOf r).all fun q => (s.atHome q).isSome) && !s.earlier (s.runOf r) r.wordPA)

/-- The step of a packet that has come back to its core. -/
def returnEvent (p : Packet) (r : Req) : Instr :=
  match r.kind with
  | .load | .prefL1 | .prefL2 => .l1FillReturn p.pid
  | .atom _ _ _ true | .cread => .loadDataReturn p.core p.rid
  | .cwait _ => .cwaitAnswer p.pid
  | _ => .storeAck p.pid

/-- A packet's enabled step (R88 to R98, R109, R296). -/
def State.packetEvent (s : State) (p : Packet) : Option Instr :=
  match p.loc with
  | .mesh _ r => some (.meshHop p.pid (segment r p.router).1 false)
  | .edge | .tile _ => onlyIf (s.tileReady p) (.interposerLinkCrossing p.pid)
  | .home =>
    if p.waiting then none
    else
      match s.req? p.core p.rid with
      | none => onlyIf (!p.resp) (.l2Request p.pid)
      | some r =>
        if p.resp then some (returnEvent p r)
        else if r.atAtomicUnit then onlyIf (s.atomReady r) (.atomicUnitService p.pid)
        else some (.l2Request p.pid)

/-- A memory controller's enabled step (R32, R48). -/
def State.memoryEvent (s : State) : Option Instr :=
  firstOf [
    s.hbms.findSome? fun k =>
      (k.chans.findIdx? fun c => !c.queue.isEmpty && k.maint != some s.slotNow).map fun i => .hbmAccess k.id i .good,
    s.buffers.findSome? fun b => onlyIf (!b.queue.isEmpty) (.bufferAccess b.id .good)]

/-- A warp's enabled step beside its instructions (R347, R361, R399). -/
def State.warpEvent (s : State) (w : Warp) : Option Instr :=
  firstOf [
    onlyIf w.fetching.isSome (.fetchBlockReturn w.id .good),
    onlyIf (w.splits.any fun p => match p.st with | .blocked (.sleep n) => n ≤ s.clk | _ => false) (.sleepExpiry w.id),
    onlyIf (w.watchDue s.clk && w.waitingAt.isSome) (.watchdog w.id)]

/-- A catalogue's enabled step (R370, R374); its packets leave in a slot of its wing (R405). -/
def State.catEvent (s : State) (c : Catalogue) : Option Instr :=
  match c.replay with
  | none => onlyIf (!c.queued.isEmpty) (.replayStart c.wing c.handle)
  | some r =>
    firstOf [
      onlyIf r.over (.replayEnd c.wing c.handle),
      onlyIf c.cohortReady.isSome (.cohortRelease c.wing c.handle),
      onlyIf ((s.nextPacket c).isSome && s.inSlot c.wing) (.workPacketSend c.wing c.handle),
      onlyIf (r.nextNode c.edges (s.cohortBusy c.wing)).isSome (.nodeDispatch c.wing c.handle)]

/-- A wing's enabled step (R403). -/
def State.wingEvent (s : State) (w : Wing) : Option Instr :=
  onlyIf (w.quiescing && w.st == .active && !(s.cats.any fun c => c.wing == w.id && c.busy) &&
    ((s.qps.any fun q => q.wing == w.id) || !s.hasGroups w.id)) (.wingQuiesced w.id)

/-- A queue pair's enabled step, in a slot of its wing (R405, R408). -/
def State.qpEvent (s : State) (q : Qp) : Option Instr :=
  onlyIf (2 ≤ s.docent.stage && s.inSlot q.wing && q.taken < s.doorbell q) (.sendDescriptorTake q.qpn)

/-- The enabled step of the module's shared units (R81, R92, R416): a group's end goes to its catalogue unit in a slot of the wing, and a
generation broadcast in a maintenance slot (R405). -/
def State.moduleEvent (s : State) : Option Instr :=
  firstOf [
    (s.ends.find? fun e => s.inSlot e.wing && s.ends.find? (fun x => x.unit == e.unit) == some e).map fun e => .nodeEnd e.unit,
    s.cats.findSome? s.catEvent,
    s.wings.findSome? s.wingEvent,
    if s.slotNow == s.docent.wheelSlot && (s.slotKind s.slotNow).1 == 2 then
      s.raises.findSome? fun r => r.left.head?.map .generationBroadcast
    else none,
    onlyIf (s.raises.any s.raiseOver) .generationRaiseComplete,
    s.qps.findSome? s.qpEvent,
    onlyIf (s.slotNow != s.docent.wheelSlot) .slotBoundary,
    onlyIf (s.docent.stage == 1 && s.dies.all Die.ready) .stage2Reached]

/-- The core that a PROMOTE still waits for, and the core that asked (R293). -/
def State.promoting (s : State) : Option (CoreId × CoreId) :=
  s.cores.findSome? fun k => k.promotes.findSome? fun p => p.left.head?.map fun c => (c, k.id)

/-- PROMOTION_REQUEST and KEYREVOKE_COMPLETE, performed as their rows say: the two rows whose place in the table is beyond what
a Lean value of `Instr` can be built with at run time. -/
def State.lateStep (s : State) : Option State :=
  match s.promoting with
  | some (c, issuer) => some (s.promotionRequest c issuer)
  | none => (s.wings.find? fun w => w.revoking.isSome && s.wingDrained w).map fun w => s.revoked w.id

/-- The first enabled step of a unit. -/
def State.unitEvent (s : State) : Option Instr :=
  firstOf [
    s.cores.findSome? s.coreEvent,
    s.groups.findSome? s.groupEvent,
    s.dies.findSome? dieEvent,
    s.packets.findSome? s.packetEvent,
    s.memoryEvent,
    s.warps.findSome? s.warpEvent,
    s.moduleEvent]

/-! ### The plan of a step -/

/-- What moves while the outside world presents nothing: the units, then a warp. -/
def State.unitPlan (s : State) : Plan :=
  match s.unitEvent with
  | some i => .run i s
  | none =>
    match s.lateStep with
    | some s1 => .idle s1
    | none => s.issueNext

/-- The queue pair that a RoCEv2 message concerns. -/
def roceQpOf : Instr → Option Nat
  | .roceWrite qp _ _ _ | .roceWriteImmediate qp _ _ _ _ | .roceRead qp _ _ _ | .descriptorComplete qp _ _ => some qp
  | _ => none

/-- Whether a message waits: the RoCEv2 engine serves a wing in the wing's slots (R405), and a READ after the WRITEs before it on its queue
pair (R407). -/
def State.roceWaits (s : State) (i : Instr) : Bool :=
  match (roceQpOf i).bind s.qp? with
  | none => false
  | some q => !s.inSlot q.wing || (match i with | .roceRead _ _ _ _ => !q.writes.isEmpty | _ => false)

/-- Of the CCP messages that have come, the one that the docent serves next: the first of the next sender in rotating order that has one
(R409; the operator's place in the rotation is the model's choice, log 44). -/
def State.ccpNext (s : State) : Option (Instr × Nat) :=
  let l := s.agenda.takeWhile fun i => (ccpOf i).isSome
  (List.range 16).findSome? fun k =>
    let who := (s.docent.ccpTurn + 1 + k) % 16
    (l.find? fun i => (ccpOf i).any fun m => m.wing % 16 == who).map fun i => (i, who)

/-- What moves next. The head of the agenda comes first: an event of it is executed, of CCP messages the one whose turn it is, and an
instruction row in it only says that a warp issues before any unit's step (log 1). -/
def State.plan (s : State) : Plan :=
  match s.agenda with
  | [] => s.unitPlan
  | i :: rest =>
    match s.ccpNext with
    | some (j, who) => .run j { s with agenda := s.agenda.erase j, docent := { s.docent with ccpTurn := who } }
    | none =>
      if s.roceWaits i then s.unitPlan
      else
        let s1 : State := { s with agenda := rest }
        if isEvent i then .run i s1 else s1.issueNext

end Sys2Proof.Machine
end

