-- ==== Sys2Proof/Machine/Step.lean ====
section
/-!
DEFINITION. One step of the module, and a state whose next step runs a given instruction.
-/
namespace Sys2Proof.Machine

/-- One step: what the plan says moves next. -/
def step (s : State) : Host.Outcome State Fault Refusal :=
  match s.plan with
  | .run i s1 => exec i s1
  | .idle s1 => .next s1

/-- The group that a fetched word is given to where no warp may issue: one warp on lane 0 of core 0 of die 0, with all that a
core can give a group (log 1). -/
def testRes : Res := ⟨1, 192, 16, 256, 4096, 0⟩

/-- Its packet. -/
def testPacket : WorkPkt :=
  { params := List.replicate 8 0, cat := 0, entry := 0, privva := 0, res := resBits testRes, kind := 0, spm := testRes.spm, priv := 0
    asid := 0, node := 0, gidx := 0, ngroups := 1 }

/-- Its core. -/
def testCore : CoreId := ⟨0, 0⟩
/-- Its warp. -/
def testWarp (clk : Nat) : Warp := Warp.create ⟨0, 0, 0, 0⟩ 0 0 192 0 0 clk (startRegs testPacket.params 0 1 0 1) false none

/-- A state in which a warp may issue: the test group's, if there is none. -/
def State.withWarp (s : State) : State :=
  match s.pickWarp with
  | some _ => s
  | none =>
    { (s.modDie 0 fun d => { d with coreDom := .running }).modCore testCore fun k => { k with fenced := false, stop := .none } with
      groups := Group.create testCore 0 (s.dieWing 0) testPacket testRes 0 ::
        s.groups.filter fun (g : Group) => !(g.core == testCore && g.slot == 0)
      warps := testWarp s.clk :: s.warps.filter fun (w : Warp) => w.id != ⟨0, 0, 0, 0⟩ }

/-- A warp with an instruction's bytes at its pc, at the beginning of an instruction. -/
def Warp.placed (w : Warp) (bs : List Byte) : Warp :=
  { (w.modRunning fun p => { p with rot := 0, phase := 0 }) with ibufs := [⟨w.pc, bs⟩], held := false }

/-- The instruction row that, at the head of the agenda, lets a warp issue before any unit's step. -/
def issueMark : Instr := .nopShort ⟨⟨false, 7⟩, 0, .v 0, .v 0⟩

/-- A state with an instruction in the instruction buffer of the warp that issues next. -/
def State.withFetchWord (s : State) (nbits w : Nat) : State :=
  let s1 := s.withWarp
  match s1.pickWarp with
  | none => s1
  | some x => { s1.setWarp (x.placed (leBytes 64 (w % 2 ^ nbits))) with agenda := issueMark :: s1.agenda }

end Sys2Proof.Machine
end

