-- ==== Sys2Proof/Safety.lean ====
section
/-!
DEFINITION. What a safe run is, the invariants of the state, and the words in which statements speak: when an instruction issues,
what it computes and what it leaves in its destination.
-/
namespace Sys2Proof

open Sys2Proof.Machine

/-- `n` steps from a state end in a next state: none of them faults or is refused. -/
def Safe (n : Nat) (s : State) : Prop := ∃ t, core.run n s = .next t

end Sys2Proof

namespace Sys2Proof.Machine

/-! ### Invariants -/

/-- Every memory of the module is in canonical form: DRAM and each core's scratchpad. -/
def State.memOk (s : State) : Bool := Mem.wf dramUnlisted s.mem && s.cores.all fun k => Mem.wf spmUnlisted k.spm

/-- Whether two wings share no die, no port and no buffer. -/
def Wing.apart (a b : Wing) : Bool := a.dies &&& b.dies == 0 && a.bufs &&& b.bufs == 0 && a.ports &&& b.ports == 0

/-- No two wings share a die, a port or a buffer, no two have one number, and a free wing holds nothing (R402, R403). -/
def State.wingsApart (s : State) : Bool :=
  decide (s.wings.map (·.id)).Nodup &&
  s.wings.all fun a => (a.holds || (a.dies == 0 && a.bufs == 0 && a.ports == 0)) && s.wings.all fun b => a.id == b.id || a.apart b

/-- The stage is one of 0, 1 and 2 (R416). -/
def State.stageOk (s : State) : Bool := s.docent.stage ≤ 2

/-- A warp has the registers that R138 and R141 give it: VREGS v registers at least, 8 q, 64 s and 7 p registers. -/
def Warp.regsOk (w : Warp) : Bool := w.vregs ≤ w.v.length && w.q.length == 8 && w.s.length == 64 && w.p.length == 7

/-- A register's tag says the truth: thread t holds base + stride × t (R145). -/
def VReg.tagTrue (r : VReg) : Bool :=
  match r.tag with
  | .general => true
  | .uniform b => (List.range 32).all fun t => r.get t == b
  | .affine b st => (List.range 32).all fun t => r.get t == b + st * BitVec.ofNat 32 t

/-- Every tag of a warp's v registers, q registers and lr says the truth (R145). -/
def Warp.tagsTrue (w : Warp) : Bool := w.v.all VReg.tagTrue && w.q.all VReg.tagTrue && w.lr.tagTrue

/-! ### Issue -/

/-- A warp stands in the issuing slot, with a running split. -/
def State.stands (s : State) (w : Warp) : Prop := s.warp? s.cur = some w ∧ w.running.isSome = true

/-- The warp stands there, and a long form is legal for its core, VREGS and tiles (R180). -/
def State.issues (s : State) (w : Warp) (opc : BitVec 8) (x : LongOp) : Prop :=
  s.stands w ∧ s.longCheck w opc x = none

/-- The same of a short form. -/
def State.issuesShort (s : State) (w : Warp) (sopc : BitVec 6) (x : ShortOp) : Prop :=
  s.stands w ∧ shortReason (s.limits w) sopc x = none

/-! ### The ALU and the SFU -/

/-- The request of R148 and R149 is met: an instruction that acts once for the warp preserves shape, and a result for an s
register is uniform. -/
def Alu.fits (op : Alu) (w : Warp) (x : LongOp) : Bool :=
  !op.once x || (!(op.shape w x).isGeneral && (!selIsS x.d || op.pdst || (op.shape w x).isU))

/-- The threads that write: all 32 of a warp-once instruction, else the active ones (R139, R148). -/
def Alu.threads (op : Alu) (w : Warp) (x : LongOp) : Mask :=
  if op.once x then BitVec.allOnes 32 else w.active x.g

/-- The warp after the instruction's results are written, before it moves past the instruction (R144 to R149). -/
def Alu.after (op : Alu) (w : Warp) (x : LongOp) : Warp :=
  let m := op.threads w x
  if m == 0 then w else op.write w x m (if m == BitVec.allOnes 32 then op.shape w x else .general)

/-- Lane cycles that the instruction takes (R139, R147, R148, R189). -/
def Alu.cycles (op : Alu) (w : Warp) (x : LongOp) : Nat :=
  if op.once x || !(op.shape w x).isGeneral then 1 else max 1 (countOf (w.active x.g) * op.opCost w x)

/-- What thread t of a warp holds in a destination: a pair where it is wide, else a word. -/
def Warp.dst (w : Warp) (d : Sel) (wide : Bool) (t : Nat) : DWord := w.src none (if wide then .d64 else .i32) d t

/-- A result as its destination holds it. -/
def fitted (wide : Bool) (z : DWord) : DWord := if wide then z else z.lo.toD

/-- The instruction completes with a next state in which the flags of the threads of `m` have been ORed into sys.fflags; each
thread of `m` holds its `z` in a v, q, lr or zr destination, where zr holds nothing, and the low word in lr; an s destination
holds the `z` of thread 0, and lr then keeps its value (R144, R148, R149, R162). -/
def Yields (i : Instr) (s : State) (w : Warp) (d : Sel) (m : Mask) (wide : Bool) (z : Nat → DWord) (fl : Nat → Flags) : Prop :=
  ∃ t w', exec i s = .next t ∧ t.warp? s.cur = some w' ∧
    w'.fflags = w.fflags ||| orFlags ((threadsOf m).map fl) ∧
    (selIsS d = true → w'.dst d wide 0 = fitted wide (z 0) ∧ w'.lr = w.lr) ∧
    (selIsS d = false → ∀ u, m.getLsbD u = true →
      w'.lr.get u = (z u).lo ∧ (d = .zr ∨ w'.dst d wide u = fitted wide (z u)))

/-- The same of a predicate destination: each thread of `m` holds its `z` in it, unless it is pt; where the instruction has no other
destination (`both` is false), lr keeps its value (R144, R190). -/
def YieldsP (i : Instr) (s : State) (w : Warp) (d : Sel) (m : Mask) (z : Nat → Bool) (fl : Nat → Flags) (both : Bool) : Prop :=
  ∃ t w', exec i s = .next t ∧ t.warp? s.cur = some w' ∧
    w'.fflags = w.fflags ||| orFlags ((threadsOf m).map fl) ∧ (both = false → w'.lr = w.lr) ∧
    ∀ u, m.getLsbD u = true → predNo d < 7 → (w'.getP (predNo d)).getLsbD u = z u

/-- The instruction issues as an ALU instruction that is met: it is legal, its warp has its registers, and R148 and R149 hold. -/
def AluReady (s : State) (w : Warp) (i : Instr) (x : LongOp) (op : Alu) : Prop :=
  ∃ opc, i.long? = some (opc, x) ∧ aluOf i = some op ∧ s.issues w opc x ∧ w.regsOk = true ∧ op.fits w x = true

/-- Thread t's value of source A, B or C of an integer instruction of its own TYPE (R175, R191). -/
def Warp.intA (w : Warp) (x : LongOp) (t : Nat) : DWord := w.src x.lit (srcI (tyOf x.fn)) x.a t
def Warp.intB (w : Warp) (x : LongOp) (t : Nat) : DWord := w.src x.lit (srcI (tyOf x.fn)) x.b t
def Warp.intC (w : Warp) (x : LongOp) (t : Nat) : DWord := w.src x.lit (srcI (tyOf x.fn)) x.c t
/-- A 32-bit source of thread t, whatever the TYPE. -/
def Warp.word (w : Warp) (x : LongOp) (s : Sel) (t : Nat) : Word := (w.src x.lit .i32 s t).lo
/-- A count in bits <7:0> of a 32-bit source (R201). -/
def Warp.count8 (w : Warp) (x : LongOp) (s : Sel) (t : Nat) : Nat := (w.word x s t).toNat % 256
/-- Thread t's value of a predicate field, negated where `neg` (R190). -/
def Warp.predOf (w : Warp) (s : Sel) (neg : Bool) (t : Nat) : Bool := (w.getP (predNo s)).getLsbD t != neg

/-- R193: the function on exact integers of each element-wise instruction; the width of an element is `ew`. -/
def elementOf : Instr → Option (Nat → Int → Int → Int → Int)
  | .iadd _ => some fun _ x y _ => x + y
  | .isub _ => some fun _ x y _ => x - y
  | .imul _ => some fun _ x y _ => x * y
  | .imulh _ => some fun ew x y _ => (x * y).fdiv (2 ^ ew)
  | .imad x => if fnBit2 x.fn then none else some fun _ x y c => x * y + c
  | .imin _ => some fun _ x y _ => if x ≤ y then x else y
  | .imax _ => some fun _ x y _ => if x ≤ y then y else x
  | .iabs _ => some fun _ x _ _ => if x < 0 then -x else x
  | .ineg _ => some fun _ x _ _ => -x
  | _ => none

/-- R200: the bits of a logic instruction's result: the function of a bit of A, B and C and of the table in FN. -/
def logicOf : Instr → Option (Bool → Bool → Bool → Bool)
  | .andB _ => some fun a b _ => a && b
  | .orB _ => some fun a b _ => a || b
  | .xorB _ => some fun a b _ => a ^^ b
  | .notB _ => some fun a _ _ => !a
  | .btab x => some fun a b c => x.fn.getLsbD (a.toNat + 2 * b.toNat + 4 * c.toNat)
  | _ => none

/-- Whether a logic instruction is a 64-bit form: by its TYPE, or by FN2 for BTAB (R191). -/
def logicWide : Instr → Bool
  | .btab x => x.fn2 == 1
  | .andB x | .orB x | .xorB x | .notB x => ty64 (tyOf x.fn)
  | _ => false

/-! ### Floating-point patterns -/

/-- The pattern of a float format of TYPE `t` in bits <w·i+w-1:w·i> of a value (R155, R157). -/
def fbits (t : Nat) (x : DWord) (i : Nat) : Nat := bitsN x.toNat ((fmtOf t).width * i) (fmtOf t).width

/-- Whether a pattern is negative, a NaN, a signalling NaN, an infinity, a zero or a subnormal of a format (R157, R159). -/
def FFmt.neg (f : FFmt) (b : Nat) : Bool := b / 2 ^ (f.eb + f.mb) % 2 == 1
def FFmt.mag (f : FFmt) (b : Nat) : Nat := b % 2 ^ (f.eb + f.mb)
def FFmt.isNan (f : FFmt) (b : Nat) : Bool := f.infBits < f.mag b
def FFmt.isSnan (f : FFmt) (b : Nat) : Bool := f.isNan b && f.mag b < f.nanBits
def FFmt.isInf (f : FFmt) (b : Nat) : Bool := f.mag b == f.infBits
def FFmt.isSub (f : FFmt) (b : Nat) : Bool := 0 < f.mag b && f.mag b < 2 ^ f.mb

/-- A pattern as an operand under `.ftz` reads it: a subnormal is a zero of its sign (R158). -/
def FFmt.asRead (f : FFmt) (ftz : Bool) (b : Nat) : Nat := if ftz && f.isSub b then f.signBit (f.neg b) else b

/-- A number's place in the order of FMIN and FMAX, where -0 lies below +0 (R211). -/
def FFmt.place (f : FFmt) (b : Nat) : Int := if f.neg b then -1 - (f.mag b : Int) else f.mag b

/-- A number's place in the order of FSET, where -0 equals +0 (R212). -/
def FFmt.order (f : FFmt) (b : Nat) : Int := if f.neg b then -(f.mag b : Int) else f.mag b

/-- Units of the values of a format: multiples of 2^-lsb (R157). -/
def FFmt.lsb (f : FFmt) : Nat := f.bias + f.mb - 1

/-- A finite pattern's value in those units. -/
def FFmt.units (f : FFmt) (b : Nat) : Int :=
  let e := b / 2 ^ f.mb % 2 ^ f.eb
  let m : Int := if e = 0 then (b % 2 ^ f.mb : Nat) else ((b % 2 ^ f.mb + 2 ^ f.mb) * 2 ^ (e - 1) : Nat)
  if f.neg b then -m else m

/-- The largest finite value, in units, and the spacing of the values next to it. -/
def FFmt.topGap (f : FFmt) : Int := 2 ^ (2 ^ f.eb - 3)
def FFmt.maxUnits (f : FFmt) : Int := (2 ^ (f.mb + 1) - 1) * f.topGap

/-- A finite pattern. -/
def FFmt.finite (f : FFmt) (b : Nat) : Bool := f.mag b < f.infBits

/-- `r` is the exact value z / q, in units, rounded to a format in mode `md` (R158, R160): to nearest with ties to an even pattern, toward
zero, down or up; an infinity only on overflow in the modes that give it. -/
def RoundedIn (f : FFmt) (md : Nat) (z : Int) (q : Nat) (r : Nat) : Prop :=
  f.isNan r = false ∧
  (f.isInf r = true ↔
    (md = 0 ∧ (2 * f.maxUnits + f.topGap) * q ≤ 2 * |z|) ∨ (md = 2 ∧ z < -(f.maxUnits * q)) ∨ (md = 3 ∧ f.maxUnits * q < z)) ∧
  (z ≠ 0 → f.neg r = decide (z < 0)) ∧
  (f.isInf r = false →
    match md with
    | 0 => ∀ y, y < 2 ^ f.width → f.finite y = true →
        |f.units r * q - z| ≤ |f.units y * q - z| ∧
        (|f.units r * q - z| = |f.units y * q - z| → f.units y ≠ f.units r → r % 2 = 0)
    | 1 => |f.units r * q| ≤ |z| ∧
        ∀ y, y < 2 ^ f.width → f.finite y = true → |f.units y * q| ≤ |z| → |f.units y| ≤ |f.units r|
    | 2 => f.units r * q ≤ z ∧ ∀ y, y < 2 ^ f.width → f.finite y = true → f.units y * q ≤ z → f.units y ≤ f.units r
    | _ => z ≤ f.units r * q ∧ ∀ y, y < 2 ^ f.width → f.finite y = true → z ≤ f.units y * q → f.units r ≤ f.units y)

/-- Whether the exact value z / q overflows: rounded without a bound on its exponent it exceeds the largest finite value (R160). -/
def FFmt.over (f : FFmt) (md : Nat) (z : Int) (q : Nat) : Bool :=
  let far := decide ((f.maxUnits + f.topGap) * q ≤ |z|)
  let beyond := decide (f.maxUnits * q < |z|)
  match md with
  | 0 => decide ((2 * f.maxUnits + f.topGap) * q ≤ 2 * |z|)
  | 1 => far
  | 2 => if z < 0 then beyond else far
  | _ => if z < 0 then far else beyond

/-- Whether it is tiny: rounded so, it lies below the least normal value (R158). -/
def FFmt.tiny (f : FFmt) (md : Nat) (z : Int) (q : Nat) : Bool :=
  let low := decide (|z| < 2 ^ f.mb * q)
  let near := decide (2 * |z| ≤ (2 * 2 ^ f.mb - 1) * q)
  match md with
  | 0 => decide (4 * |z| < (4 * 2 ^ f.mb - 1) * q)
  | 1 => low
  | 2 => if z < 0 then near else low
  | _ => if z < 0 then low else near

/-- `r` and `fl` are the result and the flags of the exact value z / q, in units, rounded once to a format (R158, R160): an exact zero has the
sign that `neg0` says; under `.ftz` a tiny result is a zero of its sign with UF and NX; OF and NX with an overflow, NX with an inexact
result, and UF too where that is tiny. -/
def Rounds (f : FFmt) (ftz : Bool) (md : Nat) (z : Int) (q : Nat) (neg0 : Bool) (r : Nat) (fl : Flags) : Prop :=
  if z = 0 then r = f.signBit neg0 ∧ fl = 0
  else if (ftz && f.tiny md z q) = true then r = f.signBit (decide (z < 0)) ∧ fl = flUF ||| flNX
  else RoundedIn f md z q r ∧ r < 2 ^ f.width ∧
    fl = if f.over md z q = true then flOF ||| flNX else if f.units r * q = z then 0
         else if f.tiny md z q = true then flUF ||| flNX else flNX

/-- The sign that IEEE 754 gives the zero sum of two addends of these signs (R207). -/
def zeroSign (md : Nat) (s t : Bool) : Bool := if s = t then s else md == 2

/-- A finite FP32 pattern, and its value in units of 2^-149. -/
def f32Finite (b : Nat) : Bool := fp32.finite b
def f32Units (b : Nat) : Int := fp32.units b

/-- `r` is the exact value z / q, in units of 2^-149, rounded to FP32 in mode `md`. -/
def RoundedTo (md : Nat) (z : Int) (q : Nat) (r : Nat) : Prop := RoundedIn fp32 md z q r

/-! ### Cross-thread instructions -/

/-- A cross-thread, sparse or tree instruction issues, and its destination is no s register (R149, R180, R227). -/
def CrossReady (s : State) (w : Warp) (i : Instr) (x : LongOp) (op : Cross) : Prop :=
  ∃ opc, i.long? = some (opc, x) ∧ crossOf i = some op ∧ s.issues w opc x ∧ w.regsOk = true ∧ (op.hasD && selIsS x.d) = false

/-- The fold of a list of values from its first one on, taken exactly (R233). -/
def foldFrom (f : Word → Word → Word) : List Word → Word
  | [] => 0
  | a :: l => l.foldl f a

/-- The fold of REDX and SCAN on integer and bit TYPEs (R233). -/
def foldOp (op ty : Nat) (acc v : Word) : Word :=
  match op with
  | 0 => acc + v
  | 1 => if (if ty = 0 then v.slt acc else v.ult acc) then v else acc
  | 2 => if (if ty = 0 then acc.slt v else acc.ult v) then v else acc
  | 3 => acc &&& v
  | 4 => acc ||| v
  | _ => acc ^^^ v

/-- The exclusive identity of SCAN on integer and bit TYPEs (R235). -/
def foldUnit (op ty : Nat) : Word :=
  match op with
  | 1 => BitVec.ofInt 32 (hiT ty)
  | 2 => BitVec.ofInt 32 (loT ty)
  | 3 => 0xFFFFFFFF
  | _ => 0

/-- The threads of a mask below `n`. -/
def threadsBelow (m : Mask) (n : Nat) : List Nat := (threadsOf m).filter fun t => t < n

/-! ### Control instructions -/

/-- A control instruction of major opcode `opc` issues with fields `x`, in its long form or in the short form that stands for it, `len`
bytes long (R178, R350). -/
def ControlReady (s : State) (w : Warp) (i : Instr) (opc : BitVec 8) (x : LongOp) (len : Nat) : Prop :=
  (i.long? = some (opc, x) ∧ s.issues w opc x ∧ len = longLen x) ∨
  ∃ sopc y r, i.short? = some (sopc, y) ∧ shortRow sopc = some r ∧ r.opc = opc ∧ s.issuesShort w sopc y ∧ x = shortLong sopc y ∧ len = 4

/-- Whether a branch reads its target per thread from a pair: BRX, CALL.x and RET (R352 to R354). -/
def targetInPair (opc : BitVec 8) (x : LongOp) : Bool := opc == 0x71 || opc == 0x73 || (opc == 0x72 && x.fn2 == 1)

/-- Thread t's target: PC + 4 × sext(a), in 56 bits, or the value of the pair (R352). -/
def Warp.target (w : Warp) (opc : BitVec 8) (x : LongOp) (t : Nat) : Nat :=
  if targetInPair opc x then (w.src x.lit .d64 x.a t).toNat
  else (((w.pc : Int) + 4 * (w.word x x.a 0).toInt) % 2 ^ 56).toNat

/-- Threads of the running split for which the guard passes, and those that branch: without S only threads in EXEC (R345, R346). -/
def Warp.passing (w : Warp) (x : LongOp) : Mask := w.splitMask &&& w.guard x.g
def Warp.branching (w : Warp) (x : LongOp) : Mask := if x.w then w.passing x else w.passing x &&& w.exec

/-- The parts of R345: those that fall through, then the branching threads by target, each part ordered by its lowest thread. -/
def Warp.branchParts (w : Warp) (opc : BitVec 8) (x : LongOp) (len : Nat) : List (Nat × Mask) :=
  let m := w.splitMask
  let ts := threadsOf (w.branching x)
  let tgt := w.target opc x
  (if m &&& ~~~w.branching x = 0 then [] else [((w.pc + len) % 2 ^ 64, m &&& ~~~w.branching x)]) ++
  (ts.filter fun t => ts.all fun u => !(decide (u < t) && tgt u == tgt t)).map fun t =>
    (tgt t, maskOf fun u => ts.contains u && tgt u == tgt t)

/-- The part that runs on: the first in the 64-byte block of the branch, else the first. -/
def Warp.branchFirst (w : Warp) (parts : List (Nat × Mask)) : Nat × Mask :=
  (parts.find? fun p => p.1 / 64 == w.pc / 64).getD (parts.headD (0, 0))

/-- A list of splits can take the place of a warp's: what changes beyond the eighth meets no fault in the spill area (R341, R344). -/
def State.splitsFit (s : State) (w : Warp) (l : List Split) : Prop :=
  s.spillFault w (s.grp w) (w.splits.map (·.mask)) (l.map (·.mask)) = none

/-- The token of a split that waits at RECONV (R341). -/
def Split.token (p : Split) : Option Nat :=
  match p.st with
  | .reconv t => some t
  | _ => none

/-! ### Memory instructions -/

/-- What a memory instruction asks for: the count that it moves, the check of one thread's access, whether the whole-instruction path
takes it, the instructions of its own warp that it waits for once its accesses have passed, what it does before they leave, what an
access's requests carry (seen from the state at issue and from the one they leave in), what they ask, and the destination. -/
structure MemForm where
  cls    : Cls
  check  : State → Warp → Group → Nat → AccRes
  whole  : State → Warp → Bool := fun _ _ => true
  waits  : State → Warp → List Acc → List Nat := fun _ _ _ => []
  before : State → Warp → List Acc → State := fun s _ _ => s
  pieces : State → State → Warp → Acc → List Piece := fun _ _ _ a => a.pieces.map (·.1)
  kind   : Warp → Nat → ReqKind
  dst    : Sel := .zr

/-- An access's pieces with the bytes that its thread stores. -/
def storePieces (f : Nat → List Byte) (a : Acc) : List Piece :=
  a.pieces.map fun p => { p.1 with data := ((f a.thread).drop p.1.off).take p.1.len }

/-- The pieces that ST.enc stores for an access: the run in its page's format, without the scale byte that it has read (R285). -/
def encPieces (s s0 : State) (w : Warp) (x : LongOp) (a : Acc) : List Piece :=
  let f := fmtAt (s.runFormats w (s.grp w) x .write (w.active x.g)) a.thread
  let (a1, sc) := s0.takeScale w.id.coreId (s.runLen w x .write 0 a.thread) a
  let vals : List Word := match x.c with
    | .v b => (List.range (neOf x)).map fun i => (w.getV (b.val + i)).get a.thread
    | _ => []
  storePieces (fun _ => (encodeRun f (x.fn.toNat % 4) sc vals).1) a1

/-- An atomic's request for thread t (R294, R297). -/
def atomKind (x : LongOp) (op : Nat → AOp) (c : Sel) (returns : Bool) (w : Warp) (t : Nat) : ReqKind :=
  .atom (op t) (tyCode (tyOf x.fn)) (w.src x.lit (srcAtom (tyOf x.fn)) c t) returns

/-- The per-thread memory instructions (R276 to R299). -/
def memOf : Instr → Option MemForm
  | .ld x => some
      { cls := if spaceOf x == 1 then .spm else .gld
        check := fun s w g t => s.checkPlain w g x (spaceOf x) .read (szBytes (szOf x)) false t
        whole := fun _ w => spaceOf x == 0 && w.wholePath x (szBytes (szOf x)) (w.active x.g)
        kind := fun _ _ => .load, dst := x.d }
  | .ldDec x => some
      { cls := .gld, check := fun s w g t => s.checkRun w g x .read (x.fn.toNat % 4) (neOf x) t
        whole := fun s w => w.wholeRun x (s.runLen w x .read (x.fn.toNat % 4)) (w.active x.g), kind := fun _ _ => .load, dst := x.d }
  | .st x => some
      { cls := if spaceOf x == 1 then .spm else .gst
        check := fun s w g t => s.checkPlain w g x (spaceOf x) .write (szBytes (szOf x)) false t
        whole := fun _ w => spaceOf x == 0 && w.wholePath x (szBytes (szOf x)) (w.active x.g)
        pieces := fun _ _ w a => storePieces (w.storeData x (szBytes (szOf x))) a, kind := fun _ _ => .store }
  | .stEnc x => some
      { cls := .gst, check := fun s w g t => s.checkRun w g x .write 0 (neOf x) t
        whole := fun s w => w.wholeRun x (s.runLen w x .write 0) (w.active x.g)
        waits := fun s w accs => s.ownWrites w.id false (s.scaleRuns w x accs)
        before := fun s w accs => s.scalesSent w x accs
        pieces := fun s s0 w a => encPieces s s0 w x a, kind := fun _ _ => .store }
  | .ldg x => some
      { cls := .gld, check := fun s w g t => s.checkPlain w g x 0 .read (szBytes (szOf x)) true t
        kind := fun _ _ => .load, dst := x.d }
  | .pref x => some
      { cls := .none, check := fun s w g t => s.checkLine w g x t, whole := fun _ w => w.wholePath x 1 (w.active x.g)
        kind := fun _ _ => if hintOf x == 0 then .prefL1 else .prefL2 }
  | .cctl x => some
      { cls := .gst, check := fun s w g t => s.checkLine w g x t, kind := fun _ _ => .cctl (hintOf x == 1) }
  | .atom x => some
      { cls := .gld, check := fun s w g t => s.checkAtom w g x (tyCode (tyOf x.fn)).bytes true t
        kind := atomKind x (fun _ => aopCode (x.fn.toNat % 16)) x.c true, dst := x.d }
  | .atomcas x => some
      { cls := .gld, check := fun s w g t => s.checkAtom w g x (tyCode (tyOf x.fn)).bytes false t
        kind := fun w t =>
          atomKind x (fun u => .cas (w.src x.lit (srcAtom (tyOf x.fn)) x.b u)) x.c true w t
        dst := x.d }
  | .red x => some
      { cls := .gst, check := fun s w g t => s.checkAtom w g x (tyCode (tyOf x.fn)).bytes true t
        kind := atomKind x (fun _ => aopCode (x.fn.toNat % 16)) x.c false }
  | .ldacq x => some
      { cls := .gld, check := fun s w g t => s.checkPlain w g x 0 .read (szBytes (szOf x)) true t
        before := fun s w _ => if hintOf x % 2 == 1 then s.acquireActs w.id.coreId true else s
        kind := fun _ _ => .load, dst := x.d }
  | .strel x => some
      { cls := .gst, check := fun s w g t => s.checkPlain w g x 0 .write (szBytes (szOf x)) true t
        pieces := fun _ _ w a => storePieces (w.storeData x (szBytes (szOf x))) a, kind := fun _ _ => .store }
  | _ => none

/-- Whether an instruction acquires: LDACQ, and atomics whose order says so (R278, R291, R295). -/
def acquires : Instr → Bool
  | .ldacq _ => true
  | .atom x | .atomcas x | .red x => isAcq (hintOf x)
  | _ => false

/-- Whether an instruction releases: STREL, and atomics whose order says so (R278, R292, R295). -/
def releases : Instr → Bool
  | .strel _ => true
  | .atom x | .atomcas x | .red x => isRel (hintOf x)
  | _ => false

/-- The cores that LDACQ.rem promotes first (R291). -/
def State.remCores (s : State) (w : Warp) (x : LongOp) : List CoreId :=
  if hintOf x % 2 == 1 then s.promoteCores (s.grp w) (w.usrc x.lit .d64 x.c) else []

/-- The instruction is at its accesses: it has just issued, or it is an LDACQ whose loads are still to come. -/
def Warp.atAccess (w : Warp) : Instr → Prop
  | .ldacq _ => w.phase ≠ 2
  | _ => w.phase = 0

/-- The instruction is an LDACQ.rem that is to promote other cores before its loads (R291). -/
def State.toPromote (s : State) (w : Warp) : Instr → Prop
  | .ldacq x => w.phase = 0 ∧ s.remCores w x ≠ []
  | _ => False

/-- A core that the module has. -/
def State.hasCore (s : State) (c : CoreId) : Prop := ∃ k ∈ s.cores, k.id = c

/-- A memory instruction is met: it issues with an active thread, its count has room, S holds only on the whole-instruction path, an
atomic that answers has no s destination, and `rs` are the checks of its active threads, ascending (R102, R103, R109, R281). -/
def MemReady (i : Instr) (s : State) (w : Warp) (x : LongOp) (f : MemForm) (rs : List AccRes) : Prop :=
  ∃ opc, i.long? = some (opc, x) ∧ memOf i = some f ∧ s.issues w opc x ∧ s.hasCore w.id.coreId ∧ w.atAccess i ∧
    w.active x.g ≠ 0 ∧ w.count f.cls < 63 ∧ (x.w = true → f.whole s w = true) ∧
    ((∃ y, i = .atom y ∨ i = .atomcas y) → selIsS x.d = false) ∧
    (threadsOf (w.active x.g)).map (f.check s w (s.grp w)) = rs

/-- Nothing of the module has changed but the issuing warp and what its core holds of its requests. -/
def State.sameBeyond (s t : State) (c : CoreId) (id : WarpId) : Prop :=
  (∀ a, t.devByte a = s.devByte a) ∧ (∀ k a, t.spmByte k a = s.spmByte k a) ∧ (∀ k, k ≠ c → t.core k = s.core k) ∧
  (∀ j, j ≠ id → t.warp? j = s.warp? j) ∧ t.groups = s.groups ∧ t.dies = s.dies ∧ t.wings = s.wings ∧ t.docent = s.docent ∧
  t.packets = s.packets ∧ (t.core c).l1 = (s.core c).l1

/-- A warp's register values are those of another. -/
def Warp.sameRegs (w w' : Warp) : Prop :=
  (∀ n u, (w'.getV n).get u = (w.getV n).get u) ∧ (∀ n u, (w'.getQ n).get u = (w.getQ n).get u) ∧
  (∀ u, w'.lr.get u = w.lr.get u) ∧ w'.s = w.s ∧ w'.p = w.p ∧ w'.k = w.k ∧ w'.exec = w.exec

/-- The splits of a warp after its running one has moved. -/
def Warp.stepped (w : Warp) (f : Split → Split) : List Split := w.splits.map fun p => if p.st == .running then f p else p

/-- The instruction launches its accesses: its running split moves as `moved` says, its count goes up by one, and its core holds one new
request for each part of them; no register value, byte of memory or other unit changes, but by what `f.before` does first (R100, R103,
R109). -/
def Launches (i : Instr) (s : State) (w : Warp) (f : MemForm) (accs : List Acc) (moved : Split → Split) : Prop :=
  let c := w.id.coreId
  let s0 := f.before s w accs
  ∃ t w' new, exec i s = .next t ∧ t.warp? s.cur = some w' ∧ w'.splits = w.stepped moved ∧
    w'.gld = w.gld + (if f.cls = .gld then 1 else 0) ∧ w'.gst = w.gst + (if f.cls = .gst then 1 else 0) ∧
    w'.spm = w.spm + (if f.cls = .spm then 1 else 0) ∧ w.sameRegs w' ∧ s0.sameBeyond t c s.cur ∧
    (t.core c).reqs = (s0.core c).reqs ++ new ∧
    (∀ r ∈ new, r.iid = s0.names ∧ r.core = c ∧ r.stage = .lane ∧ ∀ p ∈ r.pieces, r.kind = f.kind w p.thread) ∧
    (∀ p, (∃ r ∈ new, p ∈ r.pieces) ↔ ∃ a ∈ accs, p ∈ f.pieces s s0 w a) ∧
    ∃ o ∈ (t.core c).outst, o.iid = s0.names ∧ o.warp = w.id ∧ o.cls = f.cls ∧ o.dst = f.dst ∧ o.left = new.length ∧ o.got = []

/-- An access covers `n` bytes for thread t: its parts hold each of them once, byte i at virtual and physical addresses `va i` and
`pa i`. -/
def Acc.covers (a : Acc) (t n : Nat) (va pa : Nat → Nat) : Prop :=
  a.thread = t ∧ (a.pieces.map fun p => p.1.len).sum = n ∧ (∀ p ∈ a.pieces, p.1.thread = t) ∧
  ∀ i, i < n → ∃ p ∈ a.pieces, p.1.off ≤ i ∧ i < p.1.off + p.1.len ∧
    p.1.va + (i - p.1.off) = va i ∧ p.1.pa + (i - p.1.off) = pa i

/-- The acquire actions at a core: of a line that is neither private nor of a read-only page every clean byte is invalid, and all else of
the L1 stays (R107, R289). -/
def State.acquired (s t : State) (c : CoreId) : Prop :=
  (t.core c).l1.length = (s.core c).l1.length ∧
  ∀ (k : Nat) (l : L1Line), (s.core c).l1[k]? = some l →
    ∃ l', (t.core c).l1[k]? = some l' ∧ l'.set = l.set ∧ l'.line = l.line ∧
      ((l.ro = true ∨ l.priv.isSome = true) → l' = l) ∧
      (l.ro = false → l.priv = none → ∀ (n : Nat) (b : L1Byte), l.bytes[n]? = some b →
        ∃ b', l'.bytes[n]? = some b' ∧ (if b.isDirty then b' = b else b'.valid = false))

/-! ### Where an instruction leaves its warp -/

/-- The warp has moved past its instruction of `len` bytes, its register values kept. -/
def State.movesOn (t : State) (w : Warp) (len : Nat) : Prop :=
  ∃ w', t.warp? w.id = some w' ∧ w'.splits = w.stepped (·.advance len) ∧ w.sameRegs w'

/-- The warp's running split waits at its instruction, its register values kept. -/
def State.waitsFor (t : State) (w : Warp) (wt : Wait) (phase : Nat) : Prop :=
  ∃ w', t.warp? w.id = some w' ∧ w.sameRegs w' ∧ w'.splits.length = w.splits.length ∧
    ∀ (k : Nat) (p : Split), w.splits[k]? = some p → p.st = .running →
      ∃ q, w'.splits[k]? = some q ∧ q.st = .blocked wt ∧ q.phase = phase ∧ q.pc = p.pc ∧ q.mask = p.mask

/-- A destination written once for the warp holds a value: an s destination, or all 32 threads of another but zr (R149, R397). -/
def Warp.holdsAll (w : Warp) (d : Sel) (wide : Bool) (z : DWord) : Prop :=
  (selIsS d = true → w.dst d wide 0 = fitted wide z) ∧
  (selIsS d = false → d ≠ .zr → ∀ u, u < 32 → w.dst d wide u = fitted wide z)

/-- The warp has moved on with a value in its destination, written once for the warp, and the other s registers kept. -/
def State.movesOnWith (t : State) (w : Warp) (len : Nat) (d : Sel) (wide : Bool) (z : DWord) : Prop :=
  ∃ w', t.warp? w.id = some w' ∧ w'.splits = w.stepped (·.advance len) ∧ w'.holdsAll d wide z ∧
    w'.p = w.p ∧ w'.k = w.k ∧ w'.exec = w.exec ∧ w'.fflags = w.fflags ∧ (selIsS d = true → w'.v = w.v ∧ w'.q = w.q) ∧
    (selIsS d = false → w'.s = w.s) ∧ ∀ n, d ≠ .s n → (∀ h : 0 < n.val, wide = true → d ≠ .s ⟨n.val - 1, by omega⟩) →
      w'.getS n.val = w.getS n.val

/-- All of memory reads as before: DRAM behind its homes, and every scratchpad. -/
def State.sameBytes (s t : State) : Prop := (∀ a, t.devByte a = s.devByte a) ∧ ∀ c a, t.spmByte c a = s.spmByte c a

/-! ### Engine commands -/

/-- A core with its eight copy channels. -/
def State.wholeCore (s : State) (c : CoreId) : Prop := s.hasCore c ∧ (s.core c).chans.length = 8

/-- The instruction adds an entry of its command, with the numbers of an arena's header, to queue `n` of its core and moves on; memory
reads as in `s0`, where the header has been read (R127, R129, R300, R332). -/
def Enqueues (i : Instr) (s s0 : State) (w : Warp) (x : LongOp) (n : Nat) (cmd : List Byte) (hdr : List Nat) : Prop :=
  let c := w.id.coreId
  ∃ t e, exec i s = .next t ∧ (t.core c).queue n = (s.core c).queue n ++ [.entry e] ∧
    (∀ m, m < 10 → m ≠ n → (t.core c).queue m = (s.core c).queue m) ∧
    e.slot = (s.grp w).slot ∧ e.off = !w.actsK x.g ∧ e.cmd = cmd ∧ e.hdr = hdr ∧ e.done = 0 ∧ e.started = false ∧ e.stopped = false ∧
    e.needs = s.outstOf w.id (fun _ => true) ∧ e.who = w.issuer ∧ t.movesOn w (longLen x) ∧ s0.sameBytes t ∧ t.groups = s.groups

/-- Offset of a command in its group's scratchpad (R300). -/
def Warp.cmdOff (w : Warp) (x : LongOp) : Nat := (w.word x x.a 0).toNat

/-- The warp's own scratchpad stores to the command that are on their way (R118). -/
def State.cmdWrites (s : State) (w : Warp) (x : LongOp) (size : Nat) : List Nat :=
  s.ownWrites w.id true [((s.grp w).spmBase + w.cmdOff x, size)]

/-- The command lies in the allocation on a 16-byte boundary and its warp's stores to it have landed, its counter may be named, and its
queue has room (R118, R300, R301). -/
def CommandMet (s : State) (w : Warp) (x : LongOp) (n size : Nat) (ctr : Nat × CtrRef) : Prop :=
  s.wholeCore w.id.coreId ∧ w.cmdOff x % 16 = 0 ∧ (s.grp w).inSpm (w.cmdOff x) size = true ∧ s.cmdWrites w x size = [] ∧
  s.checkCtr (s.grp w) ctr.1 ctr.2 n = none ∧ ((s.core w.id.coreId).queue n).length < queueDepth n

/-- Bytes of the command. -/
def State.cmdBytes (s : State) (w : Warp) (x : LongOp) (size : Nat) : List Byte := s.grpSpm (s.grp w) (w.cmdOff x) size

/-- `n` bytes at an address lie in one page that a party holds for a kind of access, whatever else of memory changes: its core has a
generation for the address space and the page's translation, and protection and the home let the access pass (R72 to R74, R421, R422). -/
def State.heldBy (s : State) (w : Who) (k : Kind) (va n : Nat) (l : Leaf) : Prop :=
  (∃ q ∈ (s.core w.core).gens, q.1 = w.asid) ∧ s.tlb? w.core w.asid va = some l ∧
  s.protect (isCurator w.core) w.wing k l = none ∧ va % l.size + n ≤ l.size ∧ s.memDown (l.pa va) = false ∧
  (k = .atomic → s.bypass (l.pa va) = false)

/-! ### Tile-class instructions -/

/-- What a tile-class instruction asks for: its format indices, how its sources are read, and the conditions of R261 to R272 that its
operands meet. -/
structure TileForm where
  idxs : List Nat
  a    : Src
  b    : Src
  c    : Src
  met  : Group → List (Option Fmt) → DWord → DWord → DWord → Prop

/-- A shape word with its reserved bits clear and K a multiple of 16 from 16 to 4,096 (R264). -/
def shapeWord (c : Word) : Prop :=
  c.toNat / 2 ^ 29 = 0 ∧ c.toNat / 2 ^ 8 % 8 = 0 ∧ c.toNat % 16 = 0 ∧ 16 ≤ shapeK c ∧ shapeK c ≤ 4096 ∧ shapeK c % 16 = 0

/-- An operand's rows, and its scales where its format has blocks, lie in the allocation; the data begin on a 16-byte boundary
(R265, R267). -/
def operandMet (g : Group) (t : MxType) (k rows : Nat) (a : DWord) : Prop :=
  (t.block ≠ 0 → k % t.block = 0) ∧ g.inSpm a.lo.toNat (rows * (k * t.bits / 8)) = true ∧
  (t.block ≠ 0 → g.inSpm a.hi.toNat (rows * (k / t.block)) = true) ∧ a.lo.toNat % 16 = 0

/-- A move's rows lie in the allocation or in memory; address and pitch are multiples of 16, and rows do not overlap (R272). -/
def moveMet (g : Group) (glob : Bool) (row : Nat) (a pitch : DWord) : Prop :=
  (glob = false → g.inSpm a.lo.toNat (63 * pitch.lo.toNat + row) = true ∧ a.lo.toNat % 16 = 0) ∧
  (glob = true → a.toNat % 16 = 0) ∧ pitch.lo.toNat % 16 = 0 ∧ row ≤ pitch.lo.toNat

/-- MMA, MMV, MZERO, MLDA and MSTA (R264 to R272). -/
def tileFormOf : Instr → Option TileForm
  | .mma x => some
      { idxs := [x.fn.toNat / 16, x.fn.toNat % 16], a := .d64, b := .d64, c := .i32
        met := fun g fmts a b c =>
          let ta : MxType := ⟨fmtAt fmts 0, shapeTA c.lo⟩
          let tb : MxType := ⟨fmtAt fmts 1, shapeTB c.lo⟩
          shapeWord c.lo ∧ shapeV c.lo = 1 ∧ operandMet g ta (shapeK c.lo) 64 a ∧ operandMet g tb (shapeK c.lo) (shapeN c.lo) b ∧
            ta.isInt = tb.isInt }
  | .mmv x => some
      { idxs := [x.fn.toNat / 16], a := .d64, b := .d64, c := .i32
        met := fun g fmts a b c =>
          let tv : MxType := ⟨fmtAt fmts 0, shapeTA c.lo⟩
          let tw : MxType := ⟨none, shapeTB c.lo⟩
          shapeWord c.lo ∧ operandMet g tv (shapeK c.lo) (shapeV c.lo) b ∧ a.toNat % 64 = 0 ∧ (tw.isInt = true → tv.isInt = true) }
  | .mzero _ => some { idxs := [], a := .none, b := .none, c := .none, met := fun _ _ _ _ _ => True }
  | .mlda x => some
      { idxs := [], a := .d64, b := .i32, c := .none, met := fun g _ a b _ => moveMet g (x.fn2.getLsbD 0) 256 a b }
  | .msta x => some
      { idxs := [], a := .d64, b := .i32, c := .none
        met := fun g _ a b _ => moveMet g (x.fn2.getLsbD 0) (if x.fn2.getLsbD 1 then 128 else 256) a b }
  | _ => none

/-- The instruction adds an entry at the end of its group's matrix queue, with its sources as they are now, and moves on (R245, R259). -/
def EntersMatrixQueue (i : Instr) (s : State) (w : Warp) (g : Group) (opc : BitVec 8) (x : LongOp) (a b c : DWord) (off : Bool) : Prop :=
  ∃ t e, exec i s = .next t ∧ t.group? g.core g.slot = some { g with mxq := g.mxq ++ [e] } ∧
    e.opc = opc ∧ e.x = x ∧ e.a = a ∧ e.b = b ∧ e.c = c ∧ e.off = off ∧ e.fence = none ∧ e.stopped = false ∧
    e.needs = s.outstOf w.id (fun _ => true) ∧ e.who = w.issuer ∧ t.movesOn w (longLen x) ∧ s.sameBytes t

/-! ### CCP messages -/

/-- The CCP messages of the table, each with its TYPE, the stage that it needs and who may send it (R411, R416). -/
def ccpRule : Instr → Option (Ccp × Nat × Nat × Sender)
  | .resync m => some (m, 0x01, 0, .any)
  | .catload m _ => some (m, 0x02, 2, .wing)
  | .catdrop m _ => some (m, 0x03, 2, .wing)
  | .kick m _ _ _ => some (m, 0x04, 2, .wing)
  | .genraise m _ => some (m, 0x06, 2, .wing)
  | .preempt m _ _ _ => some (m, 0x07, 2, .wing)
  | .mrreg m _ => some (m, 0x08, 2, .wing)
  | .mrdrop m _ => some (m, 0x09, 2, .wing)
  | .qpcreate m _ => some (m, 0x0A, 2, .wing)
  | .qpdestroy m _ => some (m, 0x0B, 2, .wing)
  | .wingset m _ => some (m, 0x10, 1, .operator)
  | .wingquiesce m _ => some (m, 0x11, 2, .any)
  | .slotset m _ => some (m, 0x12, 1, .operator)
  | .keyload m _ _ => some (m, 0x13, 1, .wing)
  | .keyrevoke m _ => some (m, 0x14, 1, .any)
  | .mgmtrd m _ => some (m, 0x18, 0, .operator)
  | .mgmtwr m _ _ => some (m, 0x19, 0, .operator)
  | .fwload m _ => some (m, 0x1A, 1, .operator)
  | .attest m _ => some (m, 0x1B, 0, .any)
  | _ => none

/-- A message by a port that carries it, whose sender has a control key, whose tag verifies under it and whose SEQ is new is accepted
(R401, R409, R417). -/
def State.takes (s : State) (m : Ccp) : Prop :=
  s.carries m.port (.ccp m) = true ∧ ∃ last, s.lastSeq m.wing = some last ∧ s.tagOk m = true ∧ last < m.seq

/-- The operator is sender 15, and every other sender a wing (R411). -/
def Sender.admits : Sender → Nat → Prop
  | .any, _ => True
  | .wing, n => n ≠ 15
  | .operator, n => n = 15

/-- An accepted message of a TYPE that its stage, its sender and its form let act (R411, R416). -/
def State.grants (s : State) (m : Ccp) (ty : Nat) : Prop :=
  s.takes m ∧ (ccpType ty).1 ≤ s.docent.stage ∧ (ccpType ty).2.admits m.wing ∧ ccpFormOk m ty = true

/-- The same of a wing's message that needs the wing active. -/
def State.grantsActive (s : State) (m : Ccp) (ty : Nat) : Prop :=
  s.grants m ty ∧ (s.wing m.wing).st = .active ∧ (s.wing m.wing).revoking = none

end Sys2Proof.Machine
end

