-- ==== Sys2Proof/Certificates/Slice0/Obligations.lean ====
section
/-!
DEFINITION. The statements about the model: encoding, steps, reset and invariants, then the instructions family by family, then
the steps of the machine's other agents.
-/
section Slice0

open Sys2Proof Sys2Proof.Machine

/-! ### Encoding and the step -/

/-- R170 to R174, R178: the words of a well-formed instruction, whatever bytes follow them, decode to it and to its length. -/
def Obligations.DecodeOfEncode : Prop :=
  ∀ (i : Instr) (rest : List Byte), wellFormed i = true → encode i ≠ [] →
    decode (encodeBytes i ++ rest) = (i, 4 * (encode i).length)

/-- R170 to R172: three words that decode to an instruction are that instruction's words: no bit of them is dropped, and what they
decode to is well formed. -/
def Obligations.EncodeOfDecode : Prop :=
  ∀ w0 w1 w2 : Word, (∀ x, decodeWords w0.toNat w1.toNat w2.toNat ≠ .illegalEncoding x) →
    wellFormed (decodeWords w0.toNat w1.toNat w2.toNat) = true ∧
    encode (decodeWords w0.toNat w1.toNat w2.toNat) = [w0, w1, w2].take (lengthOf w0.toNat / 4)

/-- The words that the spec's worked cases write out, to the bit: IADD, FFMA with its literal, the short IADD and EXIT (chapter 10), LEA
(chapter 11), CVTPK (12), REDXI (13), MMA (15), ATOMCAS (16), SPAWN (20), GETSYS (21), and the all-zero word of R172, a NOP guarded by p0. -/
def Obligations.DecodeOfWrittenWords : Prop :=
  let pt : Guard := ⟨false, 7⟩
  decodeTableWord 64 0x0000020A03050401 = some (.iadd ⟨⟨false, 1⟩, false, .v 10, .v 3, .s 5, .v 0, 0x00, 0, none⟩) ∧
  decodeTableWord 96 0x3FC00000040DFC0401021C8E = some (.ffma ⟨pt, false, .v 4, .v 1, .v 2, .lit, 0x81, 0, some 0x3FC00000⟩) ∧
  decodeTableWord 32 0x3FE07708 = some (.iaddShort ⟨pt, 0, .v 7, .imm (-1)⟩) ∧
  decodeTableWord 32 0x00000794 = some (.exitShort ⟨pt, 0, .v 0, .v 0⟩) ∧
  decodeTableWord 64 0x1880001208021C29 = some (.lea ⟨pt, false, .v 4, .v 8, .v 9, .v 0, 0x10, 3, none⟩) ∧
  decodeTableWord 64 0x2980000010041CC5 = some (.cvtpk ⟨pt, false, .v 8, .v 16, .v 0, .v 0, 0x30, 5, none⟩) ∧
  decodeTableWord 64 0x008000160A041D4D = some (.redxi ⟨pt, false, .v 8, .v 10, .v 11, .v 0, 0x10, 0, none⟩) ∧
  decodeTableWord 64 0x02842A1908011F01 = some (.mma ⟨pt, false, .v 2, .s 8, .s 12, .s 10, 0x50, 0, none⟩) ∧
  decodeTableWord 64 0x0590241004051E45 = some (.atomcas ⟨pt, false, .v 10, .v 4, .v 8, .v 9, 0xB2, 0, none⟩) ∧
  decodeTableWord 64 0x0000020702821EC5 = some (.spawn ⟨pt, false, .s 4, .s 2, .s 3, .v 0, 0x00, 0, none⟩) ∧
  decodeTableWord 64 0x0018000000821F81 = some (.getsys ⟨pt, false, .s 4, .v 0, .v 0, .v 0, 0x03, 0, none⟩) ∧
  decodeTableWord 32 0 = some (.nopShort ⟨⟨false, 0⟩, 0, .v 0, .v 0⟩)

/-- R152, R170, R347: with an event-free agenda and no unit's step enabled, or an instruction row at its head, the oldest warp that may
issue runs the instruction that the bytes at its program counter decode to, when its buffer holds those bytes and its running split is
not due for rotation; where it takes its quad's engine port, the port has granted it this cycle (R154). That an instruction row at the head
of the agenda lets a warp issue is the model's own (log 1). -/
def Obligations.StepRunsDecoded : Prop :=
  ∀ (s : State) (w : Warp),
    ((∃ i, s.agenda.head? = some i ∧ isEvent i = false) ∨
      (s.agenda = [] ∧ s.unitEvent = none ∧ s.lateStep = none)) →
    ({ s with agenda := s.agenda.tail } : State).pickWarp = some w →
    (w.rotDue && w.phase == 0) = false → w.needsBlock = none →
    let t : State := { ({ s with agenda := s.agenda.tail } : State).setWarp w with cur := w.id }
    step s = exec (decode (w.codeBytes w.codeLen)).1
      (if w.takes = .engine then t.modCore w.id.coreId fun k => { k with granted := w.id.lane / 4 :: k.granted } else t)

/-- R180: a word whose bits <1:0> are 0b11 is no instruction, and issuing it takes class 4, LENGTH, precisely; and a long or short form that
is not an instruction takes class 4, whatever the split mask, EXEC and guard: nothing changes but the stop of the warp's core, which the
trap record joins with the reason that the encoding has for that warp. R218: a run form that breaks only the rule of the S bit is judged for
its runs first, once its format entry is in the cache: VREGS where a run lies beyond the warp's registers. -/
def Obligations.IllegalWordsTrap : Prop :=
  ((∀ w0 w1 w2 : Nat, w0 % 4 = 3 → decodeWords w0 w1 w2 = .illegalEncoding .length) ∧
    ∀ (s : State) (w : Warp), s.stands w →
      exec (.illegalEncoding .length) s = .next (s.trap w { cls := 4, reason := 0x20 })) ∧
  (∀ (s : State) (w : Warp), s.stands w →
      (∀ opc x r, s.longCheck w opc x = some r → (r ≠ 0x29 ∨ opc ∉ [0x31, 0x32] ∨ tyOf x.fn < 2) →
        exec (.illegalEncoding (.long opc x)) s = .next (s.trap w { cls := 4, reason := r }) ∧
        ∀ i, i.long? = some (opc, x) → exec i s = .next (s.trap w { cls := 4, reason := r })) ∧
      (∀ opc x f, s.longCheck w opc x = some 0x29 → opc ∈ [0x31, 0x32] → 2 ≤ tyOf x.fn →
        s.fmtEntryPA (s.grp w).asid (x.fn2.toNat % 16) ≠ none →
        s.fmt? w.id.coreId (s.grp w).asid (x.fn2.toNat % 16) = some (some f) →
        let n := if tyOf x.fn = 2 ∨ opc = 0x32 then 32 / f.cb else f.blkN
        let out := if opc = 0x32 then 32 / f.cb else if tyOf x.fn = 2 then 1 else f.blkN * f.cb / 32 + 1
        (opc = 0x31 → 2 < tyOf x.fn → f.blk ≠ 0) → f.blkN ≠ 0 → f.cb ∈ [4, 8, 16] → (s.grp w).core = w.id.coreId →
        let r : Nat := if w.vregs < vNo x.d + out ∨ (opc = 0x31 ∧ w.vregs < vNo x.a + n) then 0x28 else 0x29
        let s0 := s.modWarp w.id fun u => { u with fails := [] }
        exec (.illegalEncoding (.long opc x)) s = .next (s0.trap w { cls := 4, reason := r }) ∧
        ∀ i, i.long? = some (opc, x) → exec i s = .next (s0.trap w { cls := 4, reason := r })) ∧
      (∀ sopc x r, shortReason (s.limits w) sopc x = some r →
        exec (.illegalEncoding (.short sopc x)) s = .next (s.trap w { cls := 4, reason := r }) ∧
        ∀ i, i.short? = some (sopc, x) → exec i s = .next (s.trap w { cls := 4, reason := r })))

/-! ### Reset, memory and the invariants -/

/-- R5, R18, R43, R92, R105, R402, R410, R412, R416, R423: what a cold reset leaves, as far as the spec gives a value: Stage 0 behind socket 18,
no warp, group, catalogue, region or queue pair, every wing free with an empty key slot and its counters at 0, SCRUB_HOURS 24 and every
other register field of the stacks at 0, empty caches and mailboxes, a slot table of zeros and a power cap of 1.8 kW; and that the invariants
hold after it: memory and scratchpads in canonical form (the model's own form), every warp with its registers, wings that share nothing and a
legal stage. -/
def Obligations.ResetState : Prop :=
  let s := State.reset
  s.docent.stage = 0 ∧ s.docent.socket = 18 ∧ s.docent.powerCap = 1800000 ∧ s.docent.wheel = List.replicate 64 0 ∧
  s.docent.opDropped = 0 ∧ s.docent.opLost = 0 ∧
  s.warps = [] ∧ s.groups = [] ∧ s.cats = [] ∧ s.regions = [] ∧ s.qps = [] ∧ s.l2 = [] ∧ s.mem = [] ∧
  s.wings.length = 15 ∧
  (∀ w ∈ s.wings, w.st = .free ∧ w.catUnit = false ∧ w.bufs = 0 ∧ w.ports = 0 ∧ w.dies = 0 ∧ w.keySt = .empty ∧ w.retain = false ∧
    w.kickSeq = 0 ∧ w.inSeq = 0 ∧ w.outSeq = 0 ∧ w.dropped = 0 ∧ w.lost = 0) ∧
  s.hbms.length = 9 ∧
  (∀ k ∈ s.hbms, k.scrubHours = 24 ∧ k.fastAll = false ∧ k.halved = false ∧ k.overflow = false ∧ k.filterFull = false ∧
    k.corrected = 0 ∧ k.uncorrected = 0 ∧ k.trained = false) ∧
  s.buffers.length = 8 ∧ (∀ b ∈ s.buffers, b.corrected = 0 ∧ b.uncorrected = 0) ∧
  s.dies.length = 9 ∧ (∀ d ∈ s.dies, d.mailbox = [] ∧ d.frames = [] ∧ d.clockStep = 0) ∧
  s.cores.length = 153 ∧ (∀ k ∈ s.cores, k.l1 = [] ∧ k.tlb = [] ∧ k.fmts = [] ∧ k.place = 0) ∧
  (∀ p ∈ s.ports, p.dropped = 0) ∧
  s.memOk = true ∧ (∀ w ∈ s.warps, w.regsOk = true) ∧ s.wingsApart = true ∧ s.stageOk = true

/-- R402, R403, R416: whatever instruction or event a step runs, no two wings come to share a die, a port or a buffer, a free wing holds
none of them, wings keep their numbers, and the stage stays one of 0, 1 and 2. -/
def Obligations.StepKeepsWings : Prop :=
  ∀ s t : State, s.wingsApart = true → s.stageOk = true → step s = .next t → t.wingsApart = true ∧ t.stageOk = true ∧
    t.wings.map (·.id) = s.wings.map (·.id)

/-- Memory keeps its canonical form, the model's own: whatever instruction or event a step runs, DRAM and every scratchpad list strictly
rising addresses and no entry equal to what an unlisted address reads as, so that equal memories are equal data. -/
def Obligations.StepKeepsMemoryForm : Prop :=
  ∀ s t : State, s.memOk = true → step s = .next t → t.memOk = true

/-- R138, R141, R142: every resident warp keeps VREGS v registers at least, 8 q, 64 s and 7 predicate registers, whatever a step runs. -/
def Obligations.StepKeepsRegisters : Prop :=
  ∀ s t : State, (∀ w ∈ s.warps, w.regsOk = true) → step s = .next t → ∀ w ∈ t.warps, w.regsOk = true

/-- A byte of sparse memory in canonical form reads as it was last written, every other byte reads as before, and the form is kept; the
same of a run of bytes. -/
def Obligations.MemoryReadAfterWrite : Prop :=
  ∀ (d : Nat → Byte) (m : Mem), Mem.wf d m = true →
    (∀ k b, Mem.wf d (memPut d m k b) = true ∧ memGet d (memPut d m k b) k = b ∧
      ∀ a, a ≠ k → memGet d (memPut d m k b) a = memGet d m a) ∧
    (∀ k bs, Mem.wf d (memPuts d m k bs) = true ∧ memGets d (memPuts d m k bs) k bs.length = bs ∧
      ∀ a, (a < k ∨ k + bs.length ≤ a) → memGet d (memPuts d m k bs) a = memGet d m a)

/-! ### The ALU and the SFU -/

/-- R139, R147 to R149, R189: an ALU or SFU instruction that is met completes: its results are written in the threads that write, its
warp moves past its words, and its cycles pass. -/
def Obligations.AluCompletes : Prop :=
  ∀ (i : Instr) (s : State) (w : Warp) (x : LongOp) (op : Alu), AluReady s w i x op →
    exec i s = .next (s.retire (op.after w x) (longLen x) (op.cycles w x))

/-- R178: a short form of the ALU or the SFU does what its long equivalent does with S = 0, and moves 4 bytes on. -/
def Obligations.ShortFormsComplete : Prop :=
  ∀ (i j : Instr) (s : State) (w : Warp) (sopc : BitVec 6) (y : ShortOp) (opc : BitVec 8) (x : LongOp) (op : Alu),
    i.short? = some (sopc, y) → longFormOf i = some j → j.long? = some (opc, x) → aluOf j = some op →
    s.issuesShort w sopc y → op.fits w x = true →
    x.w = false ∧ exec i s = .next (s.retire (op.after w x) 4 (op.cycles w x))

/-- R148, R149: a warp-once request that is not met, by a source's tag or by a result that is not uniform for an s register, takes class 5,
SHAPE, precisely; so does a cross-thread instruction with an s destination (log 15). R346: with the S bit, a split whose threads disagree
on the guard, or on the target where it passes, takes class 5, BRANCH, whatever the targets' alignment. R352, R354: without it, a BRX,
CALL.x or RET in which some branching thread's target is no multiple of 4 takes class 3, at the lowest such thread, before any moves. -/
def Obligations.OperandTraps : Prop :=
  (∀ (i : Instr) (s : State) (w : Warp) (opc : BitVec 8) (x : LongOp) (op : Alu),
      i.long? = some (opc, x) → aluOf i = some op → s.issues w opc x → op.fits w x = false →
      exec i s = .next (s.trap w { cls := 5, reason := 0x31 })) ∧
  (∀ (i : Instr) (s : State) (w : Warp) (opc : BitVec 8) (x : LongOp) (op : Cross),
      i.long? = some (opc, x) → crossOf i = some op → s.issues w opc x → op.hasD = true → selIsS x.d = true →
      exec i s = .next (s.trap w { cls := 5, reason := 0x31 })) ∧
  (∀ (i : Instr) (s : State) (w : Warp) (opc : BitVec 8) (x : LongOp) (len : Nat),
      ControlReady s w i opc x len → opc ∈ [0x70, 0x71, 0x72, 0x73] → x.w = true →
      ((w.passing x ≠ 0 ∧ w.passing x ≠ w.splitMask) ∨
        ∃ t u, (w.passing x).getLsbD t = true ∧ (w.passing x).getLsbD u = true ∧ w.target opc x t ≠ w.target opc x u) →
      exec i s = .next (s.trap w { cls := 5, reason := 0x30 })) ∧
  (∀ (i : Instr) (s : State) (w : Warp) (opc : BitVec 8) (x : LongOp) (len t : Nat),
      ControlReady s w i opc x len → opc ∈ [0x70, 0x71, 0x72, 0x73] → targetInPair opc x = true → x.w = false →
      (w.branching x).getLsbD t = true → w.target opc x t % 4 ≠ 0 →
      (∀ u, u < t → (w.branching x).getLsbD u = true → w.target opc x u % 4 = 0) →
      exec i s = .next (s.trap w { cls := 3, reason := rTARGET, thread := t }))

/-- R144, R148, R149, R162: what an ALU or SFU instruction leaves in a v, q, lr, zr or s destination, in lr and in sys.fflags. -/
def Obligations.AluWritesDestination : Prop :=
  ∀ (i : Instr) (s : State) (w : Warp) (x : LongOp) (op : Alu), AluReady s w i x op → op.pdst = false →
    Yields i s w x.d (op.threads w x) op.wide (fun u => (op.result w x u).1) (fun u => (op.result w x u).2)

/-- R139, R144, R145, R177: the frame of the ALU and SFU instructions that give a next state without a trap. Other warps, groups, memory,
scratchpads, dies, wings and the docent keep what they hold; in the issuing warp the threads that do not write keep every register, no
register but the destination, lr and the destination's odd half changes, a predicate destination leaves every other register alone, s
registers change only as the destination, and EXEC, the tile predicates and the counts stay. -/
def Obligations.AluFrame : Prop :=
  ∀ (i : Instr) (s : State) (w : Warp) (x : LongOp) (op : Alu), AluReady s w i x op →
    ∃ t w', exec i s = .next t ∧ t.warp? s.cur = some w' ∧
      (∀ id, id ≠ s.cur → t.warp? id = s.warp? id) ∧
      (∀ a, t.devByte a = s.devByte a) ∧ (∀ c a, t.spmByte c a = s.spmByte c a) ∧
      t.groups = s.groups ∧ t.cores = s.cores ∧ t.dies = s.dies ∧ t.wings = s.wings ∧ t.docent = s.docent ∧ t.clk = s.clk ∧
      w'.exec = w.exec ∧ w'.k = w.k ∧ w'.gld = w.gld ∧ w'.gst = w.gst ∧ w'.spm = w.spm ∧ w'.vregs = w.vregs ∧
      (∀ n u, u < 32 → ((op.threads w x).getLsbD u = false ∨ op.pdst = true ∨
          (x.d ≠ .v n ∧ ∀ h : 0 < n.val, op.wide = true → x.d ≠ .v ⟨n.val - 1, by omega⟩)) →
        (w'.getV n.val).get u = (w.getV n.val).get u) ∧
      (∀ n u, u < 32 → ((op.threads w x).getLsbD u = false ∨ op.pdst = true ∨ x.d ≠ .q n) →
        (w'.getQ n.val).get u = (w.getQ n.val).get u) ∧
      (∀ u, u < 32 → ((op.threads w x).getLsbD u = false ∨ op.pdst = true ∨ selIsS x.d = true) → w'.lr.get u = w.lr.get u) ∧
      (∀ n, (op.pdst = true ∨ (x.d ≠ .s n ∧ ∀ h : 0 < n.val, op.wide = true → x.d ≠ .s ⟨n.val - 1, by omega⟩)) →
        w'.getS n.val = w.getS n.val) ∧
      (∀ n u, ((op.threads w x).getLsbD u = false ∨ op.pdst = false ∨ predNo x.d ≠ n) →
        (w'.getP n).getLsbD u = (w.getP n).getLsbD u)

/-- R145, R146: the shape tags never lie. If every tag of a warp says the truth, and zr's, s registers' and constants' values count as
uniform, then after any ALU or SFU instruction that is met, every tag of its warp still says the truth. -/
def Obligations.ShapeTagsStayTrue : Prop :=
  ∀ (i : Instr) (s : State) (w : Warp) (x : LongOp) (op : Alu), AluReady s w i x op → w.tagsTrue = true →
    ∃ t w', exec i s = .next t ∧ t.warp? s.cur = some w' ∧ w'.tagsTrue = true

/-! ### Integer, address and bit instructions -/

/-- R192, R193: each element of the result of IADD, ISUB, IMUL, IMULH, IMAD, IMIN, IMAX, IABS and INEG, of every TYPE, is the exact
result reduced to the element's width, after the clamp under `.sat`, which sets SI when it changes an element. -/
def Obligations.IntegerElements : Prop :=
  ∀ (i : Instr) (s : State) (w : Warp) (x : LongOp) (op : Alu) (f : Nat → Int → Int → Int → Int),
    AluReady s w i x op → elementOf i = some f →
    ∃ z fl, Yields i s w x.d (op.threads w x) (ty64 (tyOf x.fn)) z fl ∧
      ∀ u j, j < neT (tyOf x.fn) →
        let ty := tyOf x.fn
        let exact (j : Nat) : Int :=
          f (ewT ty) (el ty (w.intA x u).toNat j) (el ty (w.intB x u).toNat j) (el ty (w.intC x u).toNat j)
        let clamp (e : Int) : Int := if fnBit3 x.fn then min (max e (loT ty)) (hiT ty) else e
        bitsN (z u).toNat (ewT ty * j) (ewT ty) = (clamp (exact j) % 2 ^ ewT ty).toNat ∧
        fl u = if (List.range (neT ty)).any fun j => clamp (exact j) != exact j then flSI else 0

/-- R194, R197: IMAD.wide adds the exact product of two words to a pair, and LEA adds a scaled index to a pair, both modulo 2^64. R195: IDIV
truncates toward zero; by zero it gives all ones and the dividend as remainder, and it raises no flag. R196, R198: IDP4 adds four byte
products to a word, with the clamp of `.sat`; MOV copies its source; SEL takes A where its predicate, negated under FN<2>, holds, and B
elsewhere. -/
def Obligations.WideDivideDotMoveSelect : Prop :=
  ((∀ (s : State) (w : Warp) (x : LongOp) (op : Alu), AluReady s w (.imad x) x op → fnBit2 x.fn = true →
      Yields (.imad x) s w x.d (op.threads w x) true
        (fun u =>
          if tyOf x.fn = 0 then (w.word x x.a u).signExtend 64 * (w.word x x.b u).signExtend 64 + w.src x.lit .d64 x.c u
          else (w.word x x.a u).setWidth 64 * (w.word x x.b u).setWidth 64 + w.src x.lit .d64 x.c u)
        (fun _ => 0)) ∧
    ∀ (s : State) (w : Warp) (x : LongOp) (op : Alu), AluReady s w (.lea x) x op →
      Yields (.lea x) s w x.d (op.threads w x) true
        (fun u =>
          w.src x.lit .d64 x.a u +
            (if tyOf x.fn = 0 then (w.word x x.b u).signExtend 64 else (w.word x x.b u).setWidth 64) <<< x.fn2.toNat)
        (fun _ => 0)) ∧
  (∀ (s : State) (w : Warp) (x : LongOp) (op : Alu), AluReady s w (.idiv x) x op →
      Yields (.idiv x) s w x.d (op.threads w x) (ty64 (tyOf x.fn))
        (fun u =>
          let a := w.intA x u
          let b := w.intB x u
          let div {n : Nat} (a b : BitVec n) : BitVec n :=
            if b = 0 then (if fnBit2 x.fn then a else BitVec.allOnes n)
            else if tySigned (tyOf x.fn) then (if fnBit2 x.fn then a.srem b else a.sdiv b)
            else (if fnBit2 x.fn then a % b else a / b)
          if ty64 (tyOf x.fn) then div a b else Word.toD (div a.lo b.lo))
        (fun _ => 0)) ∧
  ((∀ (s : State) (w : Warp) (x : LongOp) (op : Alu), AluReady s w (.idp4 x) x op →
      let ty := tyOf x.fn
      let byte (unsigned : Bool) (v : Word) (j : Nat) : Int :=
        if unsigned then ((v >>> (8 * j)).setWidth 8).toNat else ((v >>> (8 * j)).setWidth 8).toInt
      let exact (u : Nat) : Int :=
        let p (j : Nat) : Int := byte (x.fn2.getLsbD 0) (w.src x.lit .p8 x.a u).lo j *
          byte (x.fn2.getLsbD 1) (w.src x.lit .p8 x.b u).lo j
        (if ty = 0 then (w.word x x.c u).toInt else (w.word x x.c u).toNat) + (p 0 + p 1 + p 2 + p 3)
      let clamp (e : Int) : Int := if fnBit3 x.fn then min (max e (loT ty)) (hiT ty) else e
      Yields (.idp4 x) s w x.d (op.threads w x) false (fun u => Word.toD (BitVec.ofInt 32 (clamp (exact u))))
        (fun u => if clamp (exact u) = exact u then 0 else flSI)) ∧
    (∀ (s : State) (w : Warp) (x : LongOp) (op : Alu), AluReady s w (.mov x) x op →
      Yields (.mov x) s w x.d (op.threads w x) (ty64 (tyOf x.fn)) (w.intA x) (fun _ => 0)) ∧
    ∀ (s : State) (w : Warp) (x : LongOp) (op : Alu), AluReady s w (.sel x) x op →
      Yields (.sel x) s w x.d (op.threads w x) (ty64 (tyOf x.fn))
        (fun u => if w.predOf x.c (fnBit2 x.fn) u then w.intA x u else w.intB x u) (fun _ => 0))

/-- R199: ISET writes the comparison of two exact integers, combined with a second predicate by comb; PLOP writes the bit of its table
that its three predicates choose. R200: each bit of the result of AND, OR, XOR, NOT and BTAB is the function's value on that bit of the
sources. -/
def Obligations.CompareTableAndLogic : Prop :=
  (∀ (s : State) (w : Warp) (x : LongOp) (op : Alu), AluReady s w (.iset x) x op →
    YieldsP (.iset x) s w x.d (op.threads w x)
      (fun u =>
        let ty := tyOf x.fn
        let a := el ty (w.intA x u).toNat 0
        let b := el ty (w.intB x u).toNat 0
        let c : Bool := match x.fn2.toNat / 4 with
          | 0 => decide (a = b) | 1 => decide (a ≠ b) | 2 => decide (a < b) | 3 => decide (a ≤ b) | 4 => decide (a > b)
          | _ => decide (a ≥ b)
        let q := w.predOf x.c (fnBit2 x.fn) u
        match x.fn2.toNat % 4 with
        | 0 => c | 1 => c && q | 2 => c || q | _ => c ^^ q)
      (fun _ => 0) false) ∧
  (∀ (s : State) (w : Warp) (x : LongOp) (op : Alu), AluReady s w (.plop x) x op →
    YieldsP (.plop x) s w x.d (op.threads w x)
      (fun u =>
        x.fn.getLsbD (4 * (w.predOf x.a false u).toNat + 2 * (w.predOf x.b false u).toNat + (w.predOf x.c false u).toNat))
      (fun _ => 0) false) ∧
  ∀ (i : Instr) (s : State) (w : Warp) (x : LongOp) (op : Alu) (f : Bool → Bool → Bool → Bool),
    AluReady s w i x op → logicOf i = some f →
    let k : Src := if logicWide i then .d64 else .i32
    ∃ z, Yields i s w x.d (op.threads w x) (logicWide i) z (fun _ => 0) ∧
      ∀ u j, j < (if logicWide i then 64 else 32) →
        (z u).getLsbD j =
          f ((w.src x.lit k x.a u).getLsbD j) ((w.src x.lit k x.b u).getLsbD j) ((w.src x.lit k x.c u).getLsbD j)

/-- R201: SHL, SHR and SAR shift by the count in bits <7:0> of B, with no upper limit below 256; SHF keeps one half of the shifted
concatenation of B over A, with the count of C limited to 32. R202: BFE extracts a field of at most 32 bits, with bits above 31 read as
the sign under `.s32`; BFI inserts the low bits of A into B. R203: POPC counts the set bits, CLZ the zero bits above the highest set bit
and CTZ those below the lowest, each up to the source's width; BREV mirrors the bits. -/
def Obligations.ShiftsFieldsCounts : Prop :=
  ((∀ (s : State) (w : Warp) (x : LongOp) (op : Alu),
      let wide := ty64 (tyOf x.fn)
      let a := w.intA x
      let n := w.count8 x x.b
      (AluReady s w (.shl x) x op →
        Yields (.shl x) s w x.d (op.threads w x) wide
          (fun u => if wide then a u <<< n u else Word.toD ((a u).lo <<< n u)) (fun _ => 0)) ∧
      (AluReady s w (.shr x) x op →
        Yields (.shr x) s w x.d (op.threads w x) wide
          (fun u => if wide then a u >>> n u else Word.toD ((a u).lo >>> n u)) (fun _ => 0)) ∧
      (AluReady s w (.sar x) x op →
        Yields (.sar x) s w x.d (op.threads w x) wide
          (fun u => if wide then (a u).sshiftRight (n u) else Word.toD ((a u).lo.sshiftRight (n u))) (fun _ => 0))) ∧
    ∀ (s : State) (w : Warp) (x : LongOp) (op : Alu), AluReady s w (.shf x) x op →
      Yields (.shf x) s w x.d (op.threads w x) false
        (fun u =>
          let n := min (w.count8 x x.c u) 32
          let both := DWord.ofWords (w.word x x.a u) (w.word x x.b u)
          if x.fn2 = 0 then Word.toD (DWord.hi (both <<< n)) else Word.toD (DWord.lo (both >>> n)))
        (fun _ => 0)) ∧
  ((∀ (s : State) (w : Warp) (x : LongOp) (op : Alu), AluReady s w (.bfe x) x op →
      Yields (.bfe x) s w x.d (op.threads w x) false
        (fun u =>
          let a := w.word x x.a u
          let pos := w.count8 x x.b u
          let n := min (w.count8 x x.c u) 32
          if tyOf x.fn = 0 then Word.toD (if n = 0 then 0 else ((a.sshiftRight pos) <<< (32 - n)).sshiftRight (32 - n))
          else Word.toD ((a >>> pos) &&& (BitVec.allOnes 32 >>> (32 - n))))
        (fun _ => 0)) ∧
    ∀ (s : State) (w : Warp) (x : LongOp) (op : Alu), AluReady s w (.bfi x) x op →
      Yields (.bfi x) s w x.d (op.threads w x) false
        (fun u =>
          let c := w.word x x.c u
          let pos := c.toNat % 256
          let n := min (c.toNat / 256 % 256) 32
          let mask : Word := (BitVec.allOnes 32 >>> (32 - n)) <<< pos
          Word.toD ((w.word x x.b u &&& ~~~mask) ||| ((w.word x x.a u <<< pos) &&& mask)))
        (fun _ => 0)) ∧
  (∀ (s : State) (w : Warp) (x : LongOp) (op : Alu),
      let n := ewT (tyOf x.fn)
      let a := w.intA x
      (AluReady s w (.popc x) x op →
        Yields (.popc x) s w x.d (op.threads w x) false
          (fun u => BitVec.ofNat 64 (((List.range n).filter fun j => (a u).getLsbD j).length)) (fun _ => 0)) ∧
      (AluReady s w (.clz x) x op →
        ∃ c : Nat → Nat, Yields (.clz x) s w x.d (op.threads w x) false (fun u => BitVec.ofNat 64 (c u)) (fun _ => 0) ∧
          ∀ u, c u ≤ n ∧ (∀ j, j < n → n - c u ≤ j → (a u).getLsbD j = false) ∧
            (c u < n → (a u).getLsbD (n - 1 - c u) = true)) ∧
      (AluReady s w (.ctz x) x op →
        ∃ c : Nat → Nat, Yields (.ctz x) s w x.d (op.threads w x) false (fun u => BitVec.ofNat 64 (c u)) (fun _ => 0) ∧
          ∀ u, c u ≤ n ∧ (∀ j, j < c u → (a u).getLsbD j = false) ∧ (c u < n → (a u).getLsbD (c u) = true)) ∧
      (AluReady s w (.brev x) x op →
        ∃ z, Yields (.brev x) s w x.d (op.threads w x) (ty64 (tyOf x.fn)) z (fun _ => 0) ∧
          ∀ u j, j < n → (z u).getLsbD j = (a u).getLsbD (n - 1 - j)))

/-! ### Floating point, conversion and the special functions -/

/-- R159: an element of FADD, FSUB, FMUL or FFMA of any TYPE, or the result of FDOT2, with a NaN operand, with infinities of opposite sign
added or with zero multiplied by infinity is the canonical NaN; any other with an infinite operand or product is that infinity. A thread raises
NV exactly where for some element an operand is signalling or the operation is invalid; a quiet NaN and an infinity alone raise no flag.
Operands are taken as `.ftz` reads them. -/
def Obligations.FloatInvalid : Prop :=
  (∀ (i : Instr) (s : State) (w : Warp) (x : LongOp) (op : Alu), AluReady s w i x op →
    let ty := tyOf x.fn
    let f := fmtOf ty
    let a u j := f.asRead (fnBit3 x.fn) (fbits ty (w.src x.lit (srcF ty) x.a u) j)
    let b u j := f.asRead (fnBit3 x.fn) (fbits ty (w.src x.lit (srcF ty) x.b u) j)
    let c u j := f.asRead (fnBit3 x.fn) (fbits ty (w.src x.lit (srcF ty) x.c u) j)
    let nan (p q : Nat) : Bool := f.isNan p || f.isNan q
    let snan (p q : Nat) : Bool := f.isSnan p || f.isSnan q
    let infZero (p q : Nat) : Bool := (f.isInf p && f.mag q == 0) || (f.mag p == 0 && f.isInf q)
    let rules (isNan isNv isInf neg : Nat → Nat → Bool) : Prop :=
      ∀ u, ((op.result w x u).2.getLsbD 4 = true ↔ ∃ j, j < neT ty ∧ isNv u j = true) ∧
        ((∀ j, j < neT ty → (isNan u j || isInf u j) = true) → (op.result w x u).2 = 0 ∨ (op.result w x u).2 = flNV) ∧
        ∀ j, j < neT ty →
          (isNan u j = true ↔ fbits ty (op.result w x u).1 j = f.nanBits) ∧
          (isNan u j = false → isInf u j = true → fbits ty (op.result w x u).1 j = f.signBit (neg u j) + f.infBits)
    ((i = .fadd x ∨ i = .fsub x) →
      let nb u j := f.neg (b u j) == (i == .fadd x)
      let opp u j := f.isInf (a u j) && f.isInf (b u j) && f.neg (a u j) != nb u j
      rules (fun u j => nan (a u j) (b u j) || opp u j) (fun u j => snan (a u j) (b u j) || opp u j)
        (fun u j => f.isInf (a u j) || f.isInf (b u j)) fun u j => if f.isInf (a u j) then f.neg (a u j) else nb u j) ∧
    (i = .fmul x →
      rules (fun u j => nan (a u j) (b u j) || infZero (a u j) (b u j)) (fun u j => snan (a u j) (b u j) || infZero (a u j) (b u j))
        (fun u j => f.isInf (a u j) || f.isInf (b u j)) fun u j => f.neg (a u j) != f.neg (b u j)) ∧
    (i = .ffma x →
      let prodInf u j := (f.isInf (a u j) || f.isInf (b u j)) && !nan (a u j) (b u j) && !infZero (a u j) (b u j)
      let prodNeg u j := f.neg (a u j) != f.neg (b u j)
      let opp u j := prodInf u j && f.isInf (c u j) && prodNeg u j != f.neg (c u j)
      rules (fun u j => nan (a u j) (b u j) || f.isNan (c u j) || infZero (a u j) (b u j) || opp u j)
        (fun u j => snan (a u j) (b u j) || f.isSnan (c u j) || infZero (a u j) (b u j) || opp u j)
        (fun u j => prodInf u j || f.isInf (c u j)) fun u j => if prodInf u j then prodNeg u j else f.neg (c u j))) ∧
  ∀ (s : State) (w : Warp) (x : LongOp) (op : Alu), AluReady s w (.fdot2 x) x op → ∀ u,
    let ty := tyOf x.fn
    let f := fmtOf ty
    let a j := f.asRead (fnBit3 x.fn) (fbits ty (w.src x.lit (srcF ty) x.a u) j)
    let b j := f.asRead (fnBit3 x.fn) (fbits ty (w.src x.lit (srcF ty) x.b u) j)
    let c := fp32.asRead (fnBit3 x.fn) (w.src x.lit .f32 x.c u).lo.toNat
    let nan j := f.isNan (a j) || f.isNan (b j)
    let infZero j := (f.isInf (a j) && f.mag (b j) == 0) || (f.mag (a j) == 0 && f.isInf (b j))
    let term j := (f.isInf (a j) || f.isInf (b j)) && !nan j && !infZero j
    let neg j := f.neg (a j) != f.neg (b j)
    let has (sg : Bool) : Bool := (term 0 && neg 0 == sg) || (term 1 && neg 1 == sg) || (fp32.isInf c && fp32.neg c == sg)
    let invalid := infZero 0 || infZero 1 || (has true && has false)
    let isNan := nan 0 || nan 1 || fp32.isNan c || invalid
    let r := op.result w x u
    (r.2.getLsbD 4 = true ↔ (f.isSnan (a 0) || f.isSnan (b 0) || f.isSnan (a 1) || f.isSnan (b 1) || fp32.isSnan c || invalid) = true) ∧
    (isNan = true ↔ r.1 = 0x7FC00000) ∧
    ((isNan || has true || has false) = true → r.2 = 0 ∨ r.2 = flNV) ∧
    (isNan = false → has true = true → r.1 = 0xFF800000) ∧ (isNan = false → has false = true → r.1 = 0x7F800000)

/-- R158, R160, R207 to R209, R215, R222: on finite operands, FADD, FSUB, FMUL and FFMA of every TYPE, FDOT2, FSCALE, FDIV by a non-zero value, SQRT
and the conversions of integers to FP32 form the exact result and round it once in the named mode, under `.ftz` with tiny operands and results
as zeros; OF, UF and NX are those of the result, and a zero sum of FADD, FSUB and FFMA has the sign of IEEE 754. Which sign an exactly zero
FDOT2 has is not said (log 39). -/
def Obligations.FloatRounding : Prop :=
  (∀ (i : Instr) (s : State) (w : Warp) (x : LongOp) (op : Alu), AluReady s w i x op →
    (i = .fadd x ∨ i = .fsub x ∨ i = .fmul x ∨ i = .ffma x) →
    let ty := tyOf x.fn
    let f := fmtOf ty
    let md := fnRnd x.fn
    ∃ (r : Nat → Nat → Nat) (fl : Nat → Nat → Flags),
      Yields i s w x.d (op.threads w x) false
        (fun u => BitVec.ofNat 64 (((List.range (neT ty)).map fun j => r u j * 2 ^ (f.width * j)).sum))
        (fun u => orFlags ((List.range (neT ty)).map (fl u))) ∧
      ∀ u j, j < neT ty →
        let a := f.asRead (fnBit3 x.fn) (fbits ty (w.src x.lit (srcF ty) x.a u) j)
        let b := f.asRead (fnBit3 x.fn) (fbits ty (w.src x.lit (srcF ty) x.b u) j)
        let c := f.asRead (fnBit3 x.fn) (fbits ty (w.src x.lit (srcF ty) x.c u) j)
        let is (z : Int) (q : Nat) (neg0 : Bool) : Prop := Rounds f (fnBit3 x.fn) md z q neg0 (r u j) (fl u j)
        let pn := f.neg a != f.neg b
        (i = .fadd x → f.finite a = true → f.finite b = true → is (f.units a + f.units b) 1 (zeroSign md (f.neg a) (f.neg b))) ∧
        (i = .fsub x → f.finite a = true → f.finite b = true → is (f.units a - f.units b) 1 (zeroSign md (f.neg a) (!f.neg b))) ∧
        (i = .fmul x → f.finite a = true → f.finite b = true → is (f.units a * f.units b) (2 ^ f.lsb) pn) ∧
        (i = .ffma x → f.finite a = true → f.finite b = true → f.finite c = true →
          is (f.units a * f.units b + f.units c * 2 ^ f.lsb) (2 ^ f.lsb) (zeroSign md pn (f.neg c)))) ∧
  ∀ (i : Instr) (s : State) (w : Warp) (x : LongOp) (op : Alu), AluReady s w i x op →
    (i = .fdot2 x ∨ i = .fscale x ∨ i = .fdiv x ∨ i = .sqrt x ∨ (i = .cvt x ∧ x.fn2.toNat % 16 ≤ 7)) →
    let md := fnRnd x.fn
    ∃ (r : Nat → Nat) (fl : Nat → Flags), Yields i s w x.d (op.threads w x) false (fun u => BitVec.ofNat 64 (r u)) fl ∧ ∀ u,
      let is (z : Int) (q : Nat) (neg0 : Bool) : Prop := Rounds fp32 (fnBit3 x.fn) md z q neg0 (r u) (fl u)
      let a := fp32.asRead (fnBit3 x.fn) (w.src x.lit .f32 x.a u).lo.toNat
      let b := fp32.asRead (fnBit3 x.fn) (w.src x.lit .f32 x.b u).lo.toNat
      let c := fp32.asRead (fnBit3 x.fn) (w.src x.lit .f32 x.c u).lo.toNat
      (i = .fdot2 x →
        let ty := tyOf x.fn
        let f := fmtOf ty
        let p j := f.asRead (fnBit3 x.fn) (fbits ty (w.src x.lit (srcF ty) x.a u) j)
        let q j := f.asRead (fnBit3 x.fn) (fbits ty (w.src x.lit (srcF ty) x.b u) j)
        (∀ j, j < 2 → f.finite (p j) = true ∧ f.finite (q j) = true) → f32Finite c = true →
        ∃ neg0, is ((f.units (p 0) * f.units (q 0) + f.units (p 1) * f.units (q 1)) * 2 ^ 149 + f32Units c * 2 ^ (2 * f.lsb))
          (2 ^ (2 * f.lsb)) neg0) ∧
      (i = .fscale x → f32Finite a = true →
        let n := (w.word x x.b u).toInt
        is (f32Units a * 2 ^ n.toNat) (2 ^ (-n).toNat) (fp32.neg a)) ∧
      (i = .fdiv x → f32Finite a = true → f32Finite b = true → f32Units b ≠ 0 →
        is (f32Units a * 2 ^ 149 * (f32Units b).sign) (f32Units b).natAbs (fp32.neg a != fp32.neg b)) ∧
      (i = .cvt x → is (el (x.fn2.toNat % 16) (w.src x.lit (srcI (x.fn2.toNat % 16)) x.a u).toNat 0 * 2 ^ 149) 1 false) ∧
      (i = .sqrt x → f32Finite a = true → 0 < f32Units a →
        let n := f32Units a * 2 ^ 149
        let y := f32Units (r u)
        r u < 2 ^ 32 ∧ f32Finite (r u) = true ∧ 0 < y ∧ (fl u = if y * y = n then 0 else flNX) ∧
        ∀ k, k < 2 ^ 32 → f32Finite k = true → fp32.neg k = false →
          let o := f32Units k
          match md with
          | 0 => (o < y → (y + o) * (y + o) ≤ 4 * n) ∧ (y < o → 4 * n ≤ (y + o) * (y + o))
          | 1 | 2 => y * y ≤ n ∧ (y < o → n < o * o)
          | _ => n ≤ y * y ∧ (o < y → o * o < n))

/-- R211: FMIN and FMAX of every TYPE, element by element: the smaller or larger of two numbers in an order with -0 below +0; the number where
one operand is a NaN, or under `.nan` the canonical NaN; the canonical NaN of two NaNs; NV for a signalling NaN; operands, and so results,
as `.ftz` reads them. R212: FSET compares two FP32 values, where +0 equals -0, and combines the result as ISET does; NV is raised by a
signalling NaN, and by any NaN under the ordered comparisons. R213: FCLASS writes a mask with exactly one bit set, the class of its
operand; it raises no flag, never flushes, and preserves no shape but the uniform one. -/
def Obligations.FloatOrderAndClass : Prop :=
  (∀ (i : Instr) (s : State) (w : Warp) (x : LongOp) (op : Alu), AluReady s w i x op → (i = .fmin x ∨ i = .fmax x) →
      ∃ z fl, Yields i s w x.d (op.threads w x) false z fl ∧
        ∀ u,
          let ty := tyOf x.fn
          let f := fmtOf ty
          let a j := f.asRead (fnBit3 x.fn) (fbits ty (w.src x.lit (srcF ty) x.a u) j)
          let b j := f.asRead (fnBit3 x.fn) (fbits ty (w.src x.lit (srcF ty) x.b u) j)
          (∀ j, j < neT ty → fbits ty (z u) j =
            if (f.isNan (a j) && f.isNan (b j)) || ((f.isNan (a j) || f.isNan (b j)) && fnBit2 x.fn) then f.nanBits
            else if f.isNan (a j) then b j
            else if f.isNan (b j) then a j
            else if decide (f.place (a j) < f.place (b j)) == (i == .fmin x) then a j else b j) ∧
          fl u = if (List.range (neT ty)).any fun j => f.isSnan (a j) || f.isSnan (b j) then flNV else 0) ∧
  (∀ (s : State) (w : Warp) (x : LongOp) (op : Alu), AluReady s w (.fset x) x op →
      let a u := fp32.asRead (fnBit3 x.fn) (w.src x.lit .f32 x.a u).lo.toNat
      let b u := fp32.asRead (fnBit3 x.fn) (w.src x.lit .f32 x.b u).lo.toNat
      let nan u := fp32.isNan (a u) || fp32.isNan (b u)
      let cmp := x.fn2.toNat / 4
      YieldsP (.fset x) s w x.d (op.threads w x)
        (fun u =>
          let p := fp32.order (a u)
          let q := fp32.order (b u)
          let c : Bool := match cmp with
            | 0 => !nan u && decide (p = q) | 1 => nan u || decide (p ≠ q) | 2 => !nan u && decide (p < q)
            | 3 => !nan u && decide (p ≤ q) | 4 => !nan u && decide (p > q) | 5 => !nan u && decide (p ≥ q)
            | 6 => !nan u
            | _ => nan u
          let r := w.predOf x.c (fnBit2 x.fn) u
          match x.fn2.toNat % 4 with
          | 0 => c | 1 => c && r | 2 => c || r | _ => c ^^ r)
        (fun u => if fp32.isSnan (a u) || fp32.isSnan (b u) || (nan u && decide (2 ≤ cmp ∧ cmp ≤ 5)) then flNV else 0) false) ∧
  (∀ (s : State) (w : Warp) (x : LongOp) (op : Alu), AluReady s w (.fclass x) x op →
      (op.shape w x).isAffine = false ∧
      Yields (.fclass x) s w x.d (op.threads w x) false
        (fun u =>
          let a := w.word x x.a u
          let m := a &&& 0x7FFFFFFF
          if m = 0x7F800000 then (if a.msb then 2 ^ 0 else 2 ^ 7)
          else if 0x7F800000 < m then (if a.getLsbD 22 then 2 ^ 9 else 2 ^ 8)
          else if m = 0 then (if a.msb then 2 ^ 3 else 2 ^ 4)
          else if m < 0x00800000 then (if a.msb then 2 ^ 2 else 2 ^ 5)
          else (if a.msb then 2 ^ 1 else 2 ^ 6))
        (fun _ => 0))

/-- R210: FRND of a finite value is the integral value nearest to it in the named mode, with the operand's sign; it raises no flag on a
number, infinities pass through, and a NaN gives the canonical NaN, with NV if it is signalling. R215: CVT from FP32 to an integer type: a
NaN gives 0 and NV; a value rounded to an integer in the named mode that lies outside the type's range, or an infinity, gives the nearer
bound and NV; any other is that integer, with NX where it differs from the operand. R215, R217, R220: an element that CVT, CVTPK or CVTUPK
widens from FP16 or BF16 keeps its value; one that CVT or CVTPK narrows, or takes from one of the two formats to the other, is rounded once;
infinities pass through, and a NaN gives the canonical NaN of the format, with NV if it is signalling. -/
def Obligations.FloatConversions : Prop :=
  (∀ (s : State) (w : Warp) (x : LongOp) (op : Alu), AluReady s w (.frnd x) x op →
      ∃ (r : Nat → Nat) (fl : Nat → Flags), Yields (.frnd x) s w x.d (op.threads w x) false (fun u => BitVec.ofNat 64 (r u)) fl ∧
        ∀ u,
          let a := fp32.asRead (fnBit3 x.fn) (w.src x.lit .f32 x.a u).lo.toNat
          (fp32.isNan a = true → r u = 0x7FC00000 ∧ fl u = if fp32.isSnan a then flNV else 0) ∧
          (fp32.isInf a = true → r u = a ∧ fl u = 0) ∧
          (f32Finite a = true →
            let z := f32Units a
            let one : Int := 2 ^ 149
            fl u = 0 ∧ r u < 2 ^ 32 ∧ f32Finite (r u) = true ∧ fp32.neg (r u) = fp32.neg a ∧
            f32Units (r u) = one * (match fnRnd x.fn with
              | 0 => if 2 * (z % one) < one then z / one else if one < 2 * (z % one) then z / one + 1
                     else z / one + (z / one) % 2
              | 1 => z.tdiv one
              | 2 => z / one
              | _ => -(-z / one)))) ∧
  (∀ (s : State) (w : Warp) (x : LongOp) (op : Alu), AluReady s w (.cvt x) x op → x.fn2.toNat % 16 = 8 →
      ∃ (z : Nat → Int) (fl : Nat → Flags), Yields (.cvt x) s w x.d (op.threads w x) (ty64 (tyOf x.fn)) (fun u => BitVec.ofInt 64 (z u)) fl ∧
        ∀ u,
          let dt := tyOf x.fn
          let a := fp32.asRead (fnBit3 x.fn) (w.src x.lit .f32 x.a u).lo.toNat
          (fp32.isNan a = true → z u = 0 ∧ fl u = flNV) ∧
          (fp32.isInf a = true → z u = (if fp32.neg a then loT dt else hiT dt) ∧ fl u = flNV) ∧
          (f32Finite a = true →
            let v := f32Units a
            let one : Int := 2 ^ 149
            let y : Int := match fnRnd x.fn with
              | 0 => if 2 * (v % one) < one then v / one else if one < 2 * (v % one) then v / one + 1
                     else v / one + (v / one) % 2
              | 1 => v.tdiv one
              | 2 => v / one
              | _ => -(-v / one)
            z u = (if y < loT dt then loT dt else if hiT dt < y then hiT dt else y) ∧
            fl u = if y < loT dt ∨ hiT dt < y then flNV else if y * one = v then 0 else flNX)) ∧
  (∀ (i : Instr) (s : State) (w : Warp) (x : LongOp) (op : Alu), AluReady s w i x op →
      let pk := tyOf x.fn = 0 ∨ tyOf x.fn = 1
      let half (n : Nat) : FFmt := if n = 9 ∨ n = 0 then fp16 else bf16
      let dt := tyOf x.fn
      let st := x.fn2.toNat % 16
      let wides (g : FFmt) (e r : Nat) (fl : Flags) : Prop :=
        (g.isNan e = true → r = 0x7FC00000 ∧ fl = if g.isSnan e then flNV else 0) ∧
        (g.isInf e = true → r = fp32.signBit (g.neg e) + 0x7F800000 ∧ fl = 0) ∧
        (g.finite e = true → r < 2 ^ 32 ∧ f32Finite r = true ∧ fp32.neg r = g.neg e ∧ f32Units r = g.units e * 2 ^ (149 - g.lsb) ∧ fl = 0)
      let narrows (g f : FFmt) (e r : Nat) (fl : Flags) : Prop :=
        (g.isNan e = true → r = f.nanBits ∧ fl = if g.isSnan e then flNV else 0) ∧
        (g.isInf e = true → r = f.signBit (g.neg e) + f.infBits ∧ fl = 0) ∧
        (g.finite e = true → Rounds f (fnBit3 x.fn) (fnRnd x.fn) (g.units e * 2 ^ f.lsb) (2 ^ g.lsb) (g.neg e) r fl)
      let elem (g : FFmt) (v : DWord) (j : Nat) : Nat := g.asRead (fnBit3 x.fn) (v.toNat / 2 ^ (g.width * j) % 2 ^ g.width)
      let pair (w1 : Nat) (r : Nat → Nat → Nat) (u : Nat) : DWord := BitVec.ofNat 64 (r u 0 + 2 ^ w1 * r u 1)
      let both (fl : Nat → Nat → Flags) (u : Nat) : Flags := fl u 0 ||| fl u 1
      (i = .cvt x → dt = 8 → st = 9 ∨ st = 10 → ∃ (r : Nat → Nat) (fl : Nat → Flags),
        Yields i s w x.d (op.threads w x) false (fun u => BitVec.ofNat 64 (r u)) fl ∧
        ∀ u, wides (half st) (elem (half st) (w.src x.lit (srcF st) x.a u) (fnBit2 x.fn).toNat) (r u) (fl u)) ∧
      (i = .cvt x → (dt = 9 ∧ st = 10) ∨ (dt = 10 ∧ st = 9) → ∃ r fl, Yields i s w x.d (op.threads w x) false (pair 16 r) (both fl) ∧
        ∀ u j, j < 2 → narrows (half st) (half dt) (elem (half st) (w.src x.lit (srcF st) x.a u) j) (r u j) (fl u j)) ∧
      (i = .cvtpk x → pk → ∃ r fl, Yields i s w x.d (op.threads w x) false (pair 16 r) (both fl) ∧
        ∀ u, narrows fp32 (half dt) (elem fp32 (w.src x.lit .f32 x.a u) 0) (r u 0) (fl u 0) ∧
          narrows fp32 (half dt) (elem fp32 (w.src x.lit .f32 x.b u) 0) (r u 1) (fl u 1)) ∧
      (i = .cvtupk x → pk → ∃ r fl, Yields i s w x.d (op.threads w x) true (pair 32 r) (both fl) ∧
        ∀ u j, j < 2 → wides (half dt) (elem (half dt) (w.src x.lit (if dt = 0 then .f16 else .bf16) x.a u) j) (r u j) (fl u j)))

/-- R223: the special results and flags of RCP, RSQ, SQRT, EXP2, LOG2, SIN, COS and TANH, and of FDIV by zero and of infinities, with the
operand as `.ftz` reads it; the exact cases, with no flag; and NX, UF and OF of the other results. R222: without `.ftz`, a finite RCP or RSQ
is within 1 ulp of the exact value; EXP2, LOG2, SIN, COS and TANH are within the bounds of the value that the model computes in fixed point
for the exact one (log 5). -/
def Obligations.SpecialFunctionTable : Prop :=
  ∀ (i : Instr) (s : State) (w : Warp) (x : LongOp) (op : Alu), AluReady s w i x op → ∀ u,
    let a := fp32.asRead (fnBit3 x.fn) (w.src x.lit .f32 x.a u).lo.toNat
    let b := fp32.asRead (fnBit3 x.fn) (w.src x.lit .f32 x.b u).lo.toNat
    let gives (n : Nat) (f : Flags) : Prop := op.result w x u = (BitVec.ofNat 64 n, f)
    let unary : Prop := i = .rcp x ∨ i = .rsq x ∨ i = .sqrt x ∨ i = .exp2 x ∨ i = .log2 x ∨ i = .sin x ∨ i = .cos x ∨ i = .tanh x
    (unary → fp32.isNan a = true → gives 0x7FC00000 (if fp32.isSnan a then flNV else 0)) ∧
    (a = 0xFF800000 →
      (i = .rcp x → gives 0x80000000 0) ∧ (i = .exp2 x → gives 0 0) ∧ (i = .tanh x → gives 0xBF800000 0) ∧
      (i = .rsq x ∨ i = .sqrt x ∨ i = .log2 x ∨ i = .sin x ∨ i = .cos x → gives 0x7FC00000 flNV)) ∧
    (f32Finite a = true → f32Units a < 0 → i = .rsq x ∨ i = .sqrt x ∨ i = .log2 x → gives 0x7FC00000 flNV) ∧
    (fp32.mag a = 0 →
      let z := fp32.signBit (fp32.neg a)
      (i = .rcp x ∨ i = .rsq x → gives (z + 0x7F800000) flDZ) ∧ (i = .log2 x → gives 0xFF800000 flDZ) ∧
      (i = .sqrt x ∨ i = .sin x ∨ i = .tanh x → gives z 0) ∧ (i = .exp2 x ∨ i = .cos x → gives 0x3F800000 0)) ∧
    (a = 0x7F800000 →
      (i = .rcp x ∨ i = .rsq x → gives 0 0) ∧ (i = .sqrt x ∨ i = .exp2 x ∨ i = .log2 x → gives 0x7F800000 0) ∧
      (i = .tanh x → gives 0x3F800000 0) ∧ (i = .sin x ∨ i = .cos x → gives 0x7FC00000 flNV)) ∧
    (i = .fdiv x →
      let sg := fp32.signBit (fp32.neg a != fp32.neg b)
      (f32Finite a = true → fp32.mag a ≠ 0 → fp32.mag b = 0 → gives (sg + 0x7F800000) flDZ) ∧
      ((fp32.mag a = 0 ∧ fp32.mag b = 0) ∨ (fp32.isInf a = true ∧ fp32.isInf b = true) → gives 0x7FC00000 flNV)) ∧
    let v := f32Units a
    let r := (op.result w x u).1.toNat
    let fl := (op.result w x u).2
    let exact (n : Int) : Prop := f32Finite r = true ∧ f32Units r = n ∧ fl = 0
    (f32Finite a = true → ∀ j : Nat, |v| = 2 ^ j →
      (i = .rcp x → 22 ≤ j → j ≤ 275 → exact (v.sign * 2 ^ (298 - j))) ∧
      (i = .rsq x → 0 < v → j % 2 = 1 → exact (2 ^ ((447 - j) / 2))) ∧
      (i = .log2 x → 0 < v → exact (((j : Int) - 149) * 2 ^ 149))) ∧
    (∀ n : Int, f32Finite a = true → v = n * 2 ^ 149 → -126 ≤ n → n ≤ 127 → i = .exp2 x → exact (2 ^ (n + 149).toNat)) ∧
    (f32Finite a = true → v ≠ 0 → fl ≠ 0 →
      (i = .rcp x ∨ i = .exp2 x ∨ i = .sin x ∨ i = .cos x ∨ i = .tanh x ∨ (0 < v ∧ (i = .rsq x ∨ i = .log2 x))) →
      fl.getLsbD 4 = false ∧ fl.getLsbD 3 = false ∧ fl.getLsbD 0 = true ∧ (fl.getLsbD 2 = true ↔ fp32.isInf r = true) ∧
      (fnBit3 x.fn = false → fp32.mag r ≠ 0 → (fl.getLsbD 1 = true ↔ fp32.mag r < 2 ^ 23)) ∧
      (fnBit3 x.fn = true → (fl.getLsbD 1 = true → fp32.mag r = 0) ∧ (fp32.mag r = 0 ∨ 2 ^ 23 ≤ fp32.mag r))) ∧
    (f32Finite a = true → v ≠ 0 →
      (((i = .rcp x ∨ (0 < v ∧ (i = .rsq x ∨ i = .log2 x))) ∧ ∀ j : Nat, |v| ≠ 2 ^ j) ∨ (i = .exp2 x ∧ v % 2 ^ 149 ≠ 0 ∧ fp32.mag r ≠ 0) ∨
        ((i = .sin x ∨ i = .cos x ∨ i = .tanh x) ∧ fp32.mag r ≠ 0)) → fl ≠ 0) ∧
    (f32Finite a = true → v ≠ 0 → fnBit3 x.fn = false → fp32.isInf r = false →
      (i = .rcp x → ∀ e : Nat, 2 ^ e * |v| ≤ 2 ^ 298 → 2 ^ 298 < 2 ^ (e + 1) * |v| →
        |f32Units r * |v| - v.sign * 2 ^ 298| ≤ 2 ^ (max e 23 - 23) * |v|) ∧
      (i = .rsq x → 0 < v → ∀ e : Nat, 2 ^ (2 * e) * v ≤ 2 ^ 447 → 2 ^ 447 < 2 ^ (2 * e + 2) * v →
        let ulp : Int := 2 ^ (e - 23)
        ulp ≤ f32Units r ∧ (f32Units r - ulp) * (f32Units r - ulp) * v ≤ 2 ^ 447 ∧
          2 ^ 447 ≤ (f32Units r + ulp) * (f32Units r + ulp) * v) ∧
      ∀ neg m e, unpackF fp32 false a = .fin neg m e →
        let ulps (k : Int) (y : Int) : Int := k * 2 ^ (max (log2N y.natAbs) 130 - 23)
        let near (y b : Int) : Prop := |f32Units r * 2 ^ 107 - y| ≤ b
        let size := fxOf false m e
        let turn (y : Int) : Int := if size ≤ fxPi ∨ 2 ^ 276 < size then 2 ^ 235 else max (ulps 2 y) (2 ^ 235)
        (i = .exp2 x → near (Sfu.exp2.exact neg m e) (ulps 2 (Sfu.exp2.exact neg m e))) ∧
        (i = .tanh x → near (Sfu.tanh.exact neg m e) (ulps 2 (Sfu.tanh.exact neg m e))) ∧
        (i = .log2 x → neg = false → near (Sfu.log2.exact neg m e)
          (if 2 ^ 255 ≤ size ∧ size ≤ 2 ^ 257 then min (ulps 2 (Sfu.log2.exact neg m e)) (2 ^ 234) else ulps 2 (Sfu.log2.exact neg m e))) ∧
        (i = .sin x → near (Sfu.sin.exact neg m e) (turn (Sfu.sin.exact neg m e))) ∧
        (i = .cos x → near (Sfu.cos.exact neg m e) (turn (Sfu.cos.exact neg m e))))

/-! ### Cross-thread, sparse and tree instructions, tile predicates -/

/-- R189, R225, R226, R227: a cross-thread, sparse or tree instruction whose destination is no s register completes: its active threads
are written, and its passes cost what R226 says, with a further cycle for each thread whose general v sources share a bank; with no active
thread it retires in one lane cycle with no effect. -/
def Obligations.CrossCompletes : Prop :=
  ∀ (i : Instr) (s : State) (w : Warp) (x : LongOp) (op : Cross), CrossReady s w i x op →
    let m := w.active x.g
    let n := countOf m
    let deliver := if n = 32 then 1 else n
    let passes := match i with
      | .shfl _ => n + n
      | .matchT _ => if x.fn2 = 0 then n + n else n + deliver
      | .redx _ | .redxi _ => n + deliver
      | .poll _ => if x.fn2 = 0 then 1 + deliver else 2
      | _ => n
    exec i s = .next (s.retire (if m = 0 then w else op.write w x m) (longLen x)
      (if m = 0 then 1 else passes + n * (op.opCost w x - 1)))

/-- R229, R230: SHFL gives each active thread the source of the thread that its offset names, if that one is active, else its own, and says
which in pd; POLL gives the mask, or the vote, of the active threads' predicates. R231, R232: MATCH.any gives each active thread the mask
of the active threads that hold its value, and MATCH.all the mask of the active threads and true if all hold the same one, else 0 and
false; ELECT gives the lowest active thread. -/
def Obligations.ShuffleVoteMatchElect : Prop :=
  ((∀ (s : State) (w : Warp) (x : LongOp) (op : Cross), CrossReady s w (.shfl x) x op →
      let wide : Bool := x.fn == 0xC0
      let m := w.active x.g
      let a t := w.src x.lit (if wide then .d64 else .i32) x.a t
      let k t := w.count8 x x.b t
      let u t : Int := match x.fn2.toNat with
        | 0 => k t | 1 => (t : Int) - k t | 2 => (t : Int) + k t | _ => ((t ^^^ k t : Nat) : Int)
      let valid t := decide (0 ≤ u t ∧ u t ≤ 31) && m.getLsbD (u t).toNat
      Yields (.shfl x) s w x.d m wide (fun t => if valid t then a (u t).toNat else a t) (fun _ => 0) ∧
      YieldsP (.shfl x) s w x.c m valid (fun _ => 0) true) ∧
    ∀ (s : State) (w : Warp) (x : LongOp) (op : Cross), CrossReady s w (.poll x) x op →
      let m := w.active x.g
      let v t := w.predOf x.a (fnBit2 x.fn) t
      let some' : Bool := (threadsOf m).any v
      let every : Bool := (threadsOf m).all v
      (x.fn2 = 0 → ∃ z, Yields (.poll x) s w x.d m false z (fun _ => 0) ∧
        ∀ t j, (z t).getLsbD j = (m.getLsbD j && v j)) ∧
      (x.fn2 ≠ 0 → YieldsP (.poll x) s w x.d m
        (fun _ => match x.fn2.toNat with | 1 => some' | 2 => every | _ => every || !some') (fun _ => 0) false)) ∧
  ((∀ (s : State) (w : Warp) (x : LongOp) (op : Cross), CrossReady s w (.matchT x) x op →
      let m := w.active x.g
      let a t := w.src x.lit (if x.fn == 0xC0 then .d64 else .i32) x.a t
      let same : Bool := (threadsOf m).all fun t => (threadsOf m).all fun u => a t == a u
      ∃ z, Yields (.matchT x) s w x.d m false z (fun _ => 0) ∧
        (∀ t j, m.getLsbD t = true → (z t).getLsbD j =
          if x.fn2 = 0 then m.getLsbD j && a j == a t else same && m.getLsbD j) ∧
        (x.fn2 = 1 → YieldsP (.matchT x) s w x.c m (fun _ => same) (fun _ => 0) true)) ∧
    ∀ (s : State) (w : Warp) (x : LongOp) (op : Cross), CrossReady s w (.elect x) x op →
      let m := w.active x.g
      ∃ f, (m ≠ 0 → m.getLsbD f = true ∧ ∀ t, t < f → m.getLsbD t = false) ∧
        Yields (.elect x) s w x.d m false (fun _ => BitVec.ofNat 64 f) (fun _ => 0) ∧
        YieldsP (.elect x) s w x.c m (fun t => t == f) (fun _ => 0) true)

/-- R233, R235: REDX folds the active threads' values in ascending order and gives each of them the result; SCAN gives each the fold up to
itself, or under `.excl` the fold before it, and the identity to the lowest. On integer and bit TYPEs neither raises a flag. On FP32 the
lowest value is taken exactly, each sum is rounded once as FADD's is, minimum and maximum are those of FMIN and FMAX, and the flags of every
step are ORed. R234: REDXI gives every active thread the best of the pairs that all 32 threads offer, an inactive thread offering the identity
pair: no offered value is better, and none that equals it has a smaller index. -/
def Obligations.FoldsAndBestPair : Prop :=
  (∀ (i : Instr) (s : State) (w : Warp) (x : LongOp) (op : Cross), CrossReady s w i x op → tyOf x.fn ≠ 8 →
      let m := w.active x.g
      let fold (o : Nat) (l : List Nat) : Word := foldFrom (foldOp o (tyOf x.fn)) (l.map (w.word x x.a))
      (i = .redx x → Yields i s w x.d m false (fun _ => Word.toD (fold x.fn2.toNat (threadsOf m))) (fun _ => 0)) ∧
      (i = .scan x →
        let o := x.fn2.toNat % 8
        Yields i s w x.d m false
          (fun t => Word.toD (
            if x.fn2.getLsbD 3 then (if threadsBelow m t = [] then foldUnit o (tyOf x.fn) else fold o (threadsBelow m t))
            else fold o (threadsBelow m (t + 1)))) (fun _ => 0))) ∧
  (∀ (i : Instr) (s : State) (w : Warp) (x : LongOp) (op : Cross), CrossReady s w i x op → tyOf x.fn = 8 → (i = .redx x ∨ i = .scan x) →
      let m := w.active x.g
      let o := x.fn2.toNat % 8
      let md := fnRnd x.fn
      let ftz := fnBit3 x.fn
      let v t := (w.src x.lit .f32 x.a t).lo.toNat
      ∃ (acc : Nat → Nat) (fl : Nat → Flags),
        (∀ t, m.getLsbD t = true → threadsBelow m t = [] → acc t = v t ∧ fl t = 0) ∧
        (∀ u t, m.getLsbD t = true → (threadsBelow m t).getLast? = some u →
          let a := fp32.asRead ftz (acc u)
          let b := fp32.asRead ftz (v t)
          let nan := fp32.isNan a || fp32.isNan b
          let snan := fp32.isSnan a || fp32.isSnan b
          let opp := fp32.isInf a && fp32.isInf b && fp32.neg a != fp32.neg b
          (o = 0 →
            (fp32.finite a = true → fp32.finite b = true →
              Rounds fp32 ftz md (fp32.units a + fp32.units b) 1 (zeroSign md (fp32.neg a) (fp32.neg b)) (acc t) (fl t)) ∧
            ((nan || opp) = true → acc t = 0x7FC00000 ∧ fl t = if snan || opp then flNV else 0) ∧
            ((nan || opp) = false → (fp32.isInf a = true → acc t = a ∧ fl t = 0) ∧ (fp32.isInf b = true → acc t = b ∧ fl t = 0))) ∧
          (o = 1 ∨ o = 2 →
            acc t = (if fp32.isNan a && fp32.isNan b then 0x7FC00000 else if fp32.isNan a then b else if fp32.isNan b then a
              else if decide (fp32.place a < fp32.place b) == (o == 1) then a else b) ∧
            fl t = if snan then flNV else 0)) ∧
        (i = .redx x → Yields i s w x.d m false (fun _ => BitVec.ofNat 64 (((threadsOf m).getLast?.map acc).getD 0)) fl) ∧
        (i = .scan x →
          let unit : Nat := if o = 0 then 0x80000000 else if o = 1 then 0x7F800000 else 0xFF800000
          Yields i s w x.d m false
            (fun t => BitVec.ofNat 64 (if x.fn2.getLsbD 3 then ((threadsBelow m t).getLast?.map acc).getD unit else acc t)) fl)) ∧
  (∀ (s : State) (w : Warp) (x : LongOp) (op : Cross), CrossReady s w (.redxi x) x op →
      let m := w.active x.g
      let isMax : Bool := x.fn2 == 1
      let ty := tyOf x.fn
      let offer t : Word × Word :=
        if m.getLsbD t then (w.word x x.a t, w.word x x.b t) else (BitVec.ofInt 32 (if isMax then loT ty else hiT ty), 0xFFFFFFFF)
      let value (v : Word) : Int := if ty = 0 then v.toInt else v.toNat
      ∃ p : Word × Word, (∃ t, t < 32 ∧ offer t = p) ∧
        (∀ t, t < 32 →
          (if isMax then value (offer t).1 ≤ value p.1 else value p.1 ≤ value (offer t).1) ∧
          ((offer t).1 = p.1 → p.2.toNat ≤ (offer t).2.toNat)) ∧
        Yields (.redxi x) s w x.d m true (fun _ => DWord.ofWords p.1 p.2) (fun _ => 0))

/-- R236, R237, R239: ISECT finds or counts the common bits from a start on, BRANK counts bits up to a position and adds a base, and TREESTEP
goes from a node to a child, or says that it is at a leaf. No flag is raised. -/
def Obligations.BitmapsAndTrees : Prop :=
  (∀ (s : State) (w : Warp) (x : LongOp) (op : Cross), CrossReady s w (.isect x) x op →
    let common t j := (w.word x x.a t).getLsbD j && (w.word x x.b t).getLsbD j && decide (w.count8 x x.c t ≤ j)
    ∃ c : Nat → Nat, Yields (.isect x) s w x.d (w.active x.g) false (fun t => BitVec.ofNat 64 (c t)) (fun _ => 0) ∧
      ∀ t, if x.fn2 = 0 then
          c t ≤ 32 ∧ (∀ j, j < c t → common t j = false) ∧ (c t < 32 → common t (c t) = true)
        else c t = ((List.range 32).filter (common t)).length) ∧
  (∀ (s : State) (w : Warp) (x : LongOp) (op : Cross), CrossReady s w (.brank x) x op →
    Yields (.brank x) s w x.d (w.active x.g) false
      (fun t =>
        let j := w.count8 x x.b t
        let n := if x.fn2 = 0 then j else j + 1
        Word.toD (w.word x x.c t +
          BitVec.ofNat 32 ((List.range 32).filter fun i => decide (i < n) && (w.word x x.a t).getLsbD i).length))
      (fun _ => 0)) ∧
  ∀ (s : State) (w : Warp) (x : LongOp) (op : Cross), CrossReady s w (.treestep x) x op →
    let node t := w.src x.lit .d64 x.a t
    let leaf t := (node t).getLsbD 63
    let th t := (node t).lo.toNat
    let v t := (w.src x.lit .f32 x.b t).lo.toNat
    let left t : Bool :=
      if fp32.isNan (v t) || fp32.isNan (th t) then (node t).getLsbD 62 else decide (fp32.order (v t) < fp32.order (th t))
    Yields (.treestep x) s w x.d (w.active x.g) false
      (fun t => if leaf t then 0xFFFFFFFF else ((node t >>> 48) &&& 0x3FFF) + (if left t then 0 else 1)) (fun _ => 0) ∧
    YieldsP (.treestep x) s w x.c (w.active x.g) leaf (fun _ => 0) true

/-- R240, R241: KSET sets a tile predicate by a vote over the active threads, keeps it with none, and writes nothing to kt; KMOV moves k0 to
k6 as a group whatever the split mask and EXEC hold. Both cost one lane cycle. -/
def Obligations.TilePredicates : Prop :=
  (∀ (s : State) (w : Warp) (x : LongOp), s.issues w 0x63 x →
    ∃ w', exec (.kset x) s = .next (s.retire w' (longLen x) 1) ∧
      w' = { w with k := w'.k } ∧
      ∀ n, n < 7 →
        let m := w.active x.g
        let v t := w.predOf x.a (fnBit2 x.fn) t
        w'.getK n =
          if predNo x.d = n ∧ m ≠ 0 then (if x.fn2 = 0 then (threadsOf m).any v else (threadsOf m).all v) else w.getK n) ∧
  ∀ (s : State) (w : Warp) (x : LongOp), s.issues w 0x64 x → w.regsOk = true →
    (x.fn2 = 0 → ∃ n, x.d = .s n ∧
      exec (.kmov x) s = .next (s.retire { w with s := w.s.set n.val (w.k.setWidth 32 ||| 0x80) } (longLen x) 1)) ∧
    (x.fn2 = 1 →
      exec (.kmov x) s = .next (s.retire { w with k := (w.word x x.a 0).setWidth 7 } (longLen x) 1))

/-! ### Control flow -/

/-- R345, R347, R352 to R354: BRA, BRX, CALL and RET divide the running split: the threads that fall through, then the branching threads by
target in the order of their lowest thread; one part runs on, in the running entry's place, and the others follow it, ready, in that order.
CALL first writes its link in the threads that branch. Under `.u`, and where all threads agree, the whole split moves or falls through.
Every target that is read from a pair is a multiple of 4, and the spill area does not fault (R344). -/
def Obligations.BranchesDivideTheSplit : Prop :=
  ∀ (i : Instr) (s : State) (w : Warp) (opc : BitVec 8) (x : LongOp) (len : Nat) (pre post : List Split) (p : Split),
    ControlReady s w i opc x len → opc ∈ [0x70, 0x71, 0x72, 0x73] → w.regsOk = true →
    w.splits = pre ++ p :: post → p.st = .running → (∀ o ∈ pre, o.st ≠ .running) → p.mask ≠ 0 →
    (targetInPair opc x = true → ∀ t, (w.branching x).getLsbD t = true → w.target opc x t % 4 = 0) →
    (x.w = true → (w.passing x = 0 ∨ w.passing x = p.mask) ∧
      ∀ t u, (w.passing x).getLsbD t = true → (w.passing x).getLsbD u = true → w.target opc x t = w.target opc x u) →
    let parts := w.branchParts opc x len
    let first := w.branchFirst parts
    let l := pre ++ { p with pc := first.1, mask := first.2, rot := min 4096 (p.rot + 1), phase := 0 } ::
      ((parts.erase first).map fun q => { pc := q.1, st := .ready, mask := q.2, rot := 0, phase := 0 }) ++ post
    s.splitsFit w l →
    ∃ t w', exec i s = .next t ∧ t.warp? s.cur = some w' ∧ w'.splits = l ∧
      w'.lr = w.lr ∧ w'.q = w.q ∧ w'.s = w.s ∧ w'.p = w.p ∧ w'.k = w.k ∧ w'.exec = w.exec ∧ w'.fflags = w.fflags ∧
      (opc ≠ 0x72 → w'.v = w.v) ∧
      (opc = 0x72 → ∀ u, (w.branching x).getLsbD u = true → w'.dst x.d true u = BitVec.ofNat 64 ((w.pc + len) % 2 ^ 64))

/-- R177, R355, R358, R359, R360: RECONV, YIELD, EXEC, WAITC, SLEEP, TRAP and BKPT under a guard that does not pass, and NOP under any guard,
retire in one lane cycle with no effect. R358: EXEC.set, .and and .or give EXEC its new value, and .get writes it to an s register or to
zr; the rest of the machine stays, but for the warp's place. R360, R341, R342: WAITC takes one lane cycle when every count that it names
is at most n; else its split blocks at it. R361: SLEEP retires, and its split is blocked behind it until a<23:0> lane cycles, at least
one, have passed. -/
def Obligations.ControlEffects : Prop :=
  (∀ (i : Instr) (s : State) (w : Warp) (opc : BitVec 8) (x : LongOp) (len : Nat),
      ControlReady s w i opc x len →
      (opc = 0x78 ∨ (opc ∈ [0x74, 0x75, 0x77, 0x79, 0x7A, 0x7B, 0x7C] ∧ w.acts x.g = false)) →
      exec i s = .next (s.retire w len 1)) ∧
  (∀ (s : State) (w : Warp) (x : LongOp), s.issues w 0x77 x → w.acts x.g = true →
      let a := w.word x x.a 0
      exec (.execMask x) s = .next (s.retire
        (match x.fn2.toNat with
         | 0 => { w with exec := a }
         | 1 => { w with exec := w.exec &&& a }
         | 2 => { w with exec := w.exec ||| a }
         | _ => match x.d with | .s n => { w with s := w.s.set n.val w.exec } | _ => w) (longLen x) 1)) ∧
  (∀ (s : State) (w : Warp) (x : LongOp), s.issues w 0x79 x → w.acts x.g = true →
      let n := x.fn.toNat
      let cls := x.fn2.toNat
      let ok := (cls = 0 ∨ cls = 3 → w.gld ≤ n) ∧ (cls = 1 ∨ cls = 3 → w.gst ≤ n) ∧ (cls = 2 ∨ cls = 3 → w.spm ≤ n)
      (ok → exec (.waitc x) s = .next (s.retire w (longLen x) 1)) ∧
      (¬ ok → ∃ t w', exec (.waitc x) s = .next t ∧ t.warp? s.cur = some w' ∧ w'.v = w.v ∧ w'.live = w.live ∧
        (w'.splits.map Split.pc = w.splits.map Split.pc) ∧
        let lim (k : Nat) : Option Nat := if cls = k ∨ cls = 3 then some n else none
        ∀ (k : Nat) (p : Split), w.splits[k]? = some p → p.st = .running →
          ∃ q, w'.splits[k]? = some q ∧ q.st = .blocked (.count (lim 0) (lim 1) (lim 2) (longLen x)) ∧ q.mask = p.mask)) ∧
  (∀ (s : State) (w : Warp) (x : LongOp), s.issues w 0x7C x → w.acts x.g = true →
      let n := max 1 ((w.word x x.a 0).toNat % 2 ^ 24)
      ∃ t w', exec (.sleep x) s = .next t ∧ t.warp? s.cur = some w' ∧ w'.v = w.v ∧ t.clk = s.clk ∧
        ∀ (k : Nat) (p : Split), w.splits[k]? = some p → p.st = .running →
          ∃ q, w'.splits[k]? = some q ∧ q.st = .blocked (.sleep (s.clk + n)) ∧ q.pc = (p.pc + longLen x) % 2 ^ 64 ∧ q.mask = p.mask)

/-- R342, R357: YIELD moves the running split to the end of the list, ready, with ROT 0, past the instruction; then the first ready split of
the list runs. No split of the warp is in the middle of an instruction that holds the warp, and the spill area does not fault (R344). -/
def Obligations.YieldRotatesTheList : Prop :=
  ∀ (i : Instr) (s : State) (w : Warp) (x : LongOp) (len k : Nat) (pre post : List Split) (p : Split),
    ControlReady s w i 0x75 x len → w.acts x.g = true →
    w.splits = pre ++ p :: post → p.st = .running → (∀ o ∈ pre ++ post, o.st ≠ .running ∧ o.stalls = false) →
    let l := pre ++ post ++ [{ p with pc := (p.pc + len) % 2 ^ 64, st := .ready, rot := 0, phase := 0 }]
    (∃ q : Split, l[k]? = some q ∧ q.st = .ready) → (∀ (j : Nat) (q : Split), j < k → l[j]? = some q → q.st ≠ .ready) →
    let l' := l.mapIdx fun j q => if j = k then { q with st := .running, rot := 0 } else q
    s.splitsFit w l' →
    ∃ t w', exec i s = .next t ∧ t.warp? s.cur = some w' ∧ w'.splits = l' ∧ w'.v = w.v ∧ w'.lr = w.lr ∧ w'.exec = w.exec

/-- R342, R348, R355: a split that reaches RECONV waits there, past the instruction, with its token, and the first ready split after it in the
list runs; when no split is ready and every other waits at RECONV, the splits at the highest token merge: the union of their masks, at the
address of the one that holds the lowest thread, in the place of the earliest, running, with ROT 0. That a waiting split holds the address
after RECONV is the model's reading (log 16). -/
def Obligations.ReconvergenceMerges : Prop :=
  ∀ (s : State) (w : Warp) (x : LongOp) (pre post : List Split) (p : Split),
    s.issues w 0x74 x → w.acts x.g = true →
    w.splits = pre ++ p :: post → p.st = .running → (∀ o ∈ pre ++ post, o.st ≠ .running ∧ o.stalls = false) →
    let at_ : Split := { p with pc := (p.pc + longLen x) % 2 ^ 64, st := .reconv (x.fn.toNat % 16), phase := 0 }
    let l := pre ++ at_ :: post
    (∀ (k : Nat) (q : Split), (post ++ pre)[k]? = some q → q.st = .ready →
      (∀ (j : Nat) (o : Split), j < k → (post ++ pre)[j]? = some o → o.st ≠ .ready) →
      let next := if k < post.length then pre.length + 1 + k else k - post.length
      let l' := l.mapIdx fun j o => if j = next then { o with st := .running, rot := 0 } else o
      s.splitsFit w l' →
      ∃ t w', exec (.reconv x) s = .next t ∧ t.warp? s.cur = some w' ∧ w'.splits = l' ∧ w'.v = w.v) ∧
    (∀ (top : Nat) (before after : List Split) (a low : Split),
      (∀ o ∈ pre ++ post, ∃ t, o.token = some t) →
      l = before ++ a :: after → a.token = some top → (∀ o ∈ before, o.token ≠ some top) →
      (∀ o ∈ l, ∀ t, o.token = some t → t ≤ top) →
      low ∈ l → low.token = some top →
      let inn := l.filter fun o => o.token == some top
      (∃ u, low.mask.getLsbD u = true ∧ ∀ o ∈ inn, ∀ v, o.mask.getLsbD v = true → (o = low ∨ u < v)) →
      let merged : Split :=
        { pc := low.pc, st := .running, mask := inn.foldl (fun m o => m ||| o.mask) 0, rot := 0, phase := 0 }
      let l' := before ++ merged :: after.filter fun o => o.token != some top
      s.splitsFit w l' →
      ∃ t w', exec (.reconv x) s = .next t ∧ t.warp? s.cur = some w' ∧ w'.splits = l' ∧ w'.v = w.v)

/-- R356: EXIT takes the threads of the running split for which the guard passes, whatever EXEC holds; the others stay and go on behind it; a
split left empty is removed; when no thread of the warp remains, the warp has no split any more. -/
def Obligations.ExitTakesThreads : Prop :=
  ∀ (i : Instr) (s : State) (w : Warp) (x : LongOp) (len : Nat) (pre post : List Split) (p : Split),
    ControlReady s w i 0x76 x len →
    w.splits = pre ++ p :: post → p.st = .running → (∀ o ∈ pre ++ post, o.st ≠ .running ∧ o.stalls = false) →
    let gone := p.mask &&& w.guard x.g
    (p.mask &&& ~~~gone ≠ 0 →
      let l' := pre ++ { p with pc := (p.pc + len) % 2 ^ 64, mask := p.mask &&& ~~~gone, rot := min 4096 (p.rot + 1), phase := 0 } :: post
      ∃ t w', exec i s = .next t ∧ t.warp? s.cur = some w' ∧ w'.splits = l' ∧ w'.v = w.v) ∧
    (p.mask &&& ~~~gone = 0 → pre ++ post ≠ [] → s.splitsFit w (pre ++ post) → (∃ o ∈ pre ++ post, o.st = .ready) →
      ∃ t w', exec i s = .next t ∧ t.warp? s.cur = some w' ∧ w'.splits.map Split.mask = (pre ++ post).map Split.mask ∧
        w'.splits.map Split.pc = (pre ++ post).map Split.pc ∧ w'.v = w.v ∧
        ∃ (k : Nat) (q : Split), (pre ++ post)[k]? = some q ∧ q.st = .ready ∧ w'.splits[k]? = some { q with st := .running, rot := 0 }) ∧
    (p.mask &&& ~~~gone = 0 → pre ++ post = [] →
      ∃ t, exec i s = .next t ∧ ∀ w', t.warp? s.cur = some w' → w'.splits = [])

/-- R382, R383, R385, R396: TRAP and BKPT take class 8 and class 9: their core stops with a precise record that holds the place of the
instruction and, in AUX, the code of A<15:0>; nothing else changes. -/
def Obligations.SoftwareTraps : Prop :=
  ∀ (i : Instr) (s : State) (w : Warp) (x : LongOp) (cls : Nat),
    ((i = .trap x ∧ cls = 8 ∧ s.issues w 0x7A x) ∨ (i = .bkpt x ∧ cls = 9 ∧ s.issues w 0x7B x)) → w.acts x.g = true →
    ∃ pend : PendTrap,
      pend.trapRec =
        { cls := cls, reason := 0, thread := 0xFF, kind := 0, deferred := false, va := none, warp := w.widx, lane := w.id.lane,
          split := w.runPos, pc := w.pc, aux := BitVec.ofNat 64 ((w.word x x.a 0).toNat % 2 ^ 16) } ∧
      pend.slot = w.grp ∧ pend.skip = longLen x ∧
      exec i s = .next (s.modCore w.id.coreId fun k =>
        { k with stop := match k.stop with | .stopping n l => .stopping n (l ++ [pend]) | _ => .stopping s.clk [pend] })

/-! ### Memory instructions -/

/-- R100, R102, R103, R109, R280, R283 to R288, R292, R295: LD, LD.dec, ST, ST.enc, LDG, PREF, CCTL, STREL and the atomics that do not
acquire, once all accesses of their active threads pass, launch them and move past their words; ST.enc first waits for its warp's own
writes to the scale bytes that it reads, and sends what is combined there (log 18). LDU launches thread 0's access with its uniform operands. With
no active thread, or with no access of a PREF or CCTL left, they move on with no effect. -/
def Obligations.MemoryInstructionsIssue : Prop :=
  (∀ (i : Instr) (s : State) (w : Warp) (x : LongOp) (f : MemForm) (accs : List Acc),
    MemReady i s w x f (accs.map .good) → acquires i = false → f.waits s w accs = [] → (∃ a ∈ accs, a.pieces ≠ []) →
    Launches i s w f accs (·.advance (longLen x))) ∧
  (∀ (i : Instr) (s : State) (w : Warp) (x : LongOp) (f : MemForm) (accs : List Acc),
    MemReady i s w x f (accs.map .good) → f.waits s w accs ≠ [] →
    exec i s = .next (s.block w (.instr (f.waits s w accs)) w.phase)) ∧
  (∀ (s : State) (w : Warp) (x : LongOp) (a : Acc),
    s.issues w 0x82 x → s.hasCore w.id.coreId →
    w.lduOperand x (if spaceOf x == 0 then .d64 else .i32) x.a = true → w.lduOperand x .i32 x.b = true →
    w.count (if spaceOf x == 1 then .spm else .gld) < 63 →
    s.checkPlain w (s.grp w) x (spaceOf x) .read (szBytes (szOf x)) false 0 = .good a →
    Launches (.ldu x) s w
      { cls := if spaceOf x == 1 then .spm else .gld, check := fun _ _ _ _ => .good a, kind := fun _ _ => .load, dst := x.d } [a]
      (·.advance (longLen x))) ∧
  (∀ (i : Instr) (s : State) (w : Warp) (opc : BitVec 8) (x : LongOp) (f : MemForm),
    i.long? = some (opc, x) → memOf i = some f → s.issues w opc x → w.phase = 0 → w.active x.g = 0 →
    ((∃ y, i = .atom y ∨ i = .atomcas y) → selIsS x.d = false) → exec i s = .next (s.retire w (longLen x) 1)) ∧
  (∀ (i : Instr) (s : State) (w : Warp) (x : LongOp) (f : MemForm) (accs : List Acc),
    MemReady i s w x f (accs.map .good) → (∃ y, i = .pref y ∨ i = .cctl y) → (∀ a ∈ accs, a.pieces = []) →
    ∃ t w', exec i s = .next t ∧ t.warp? s.cur = some w' ∧ w'.splits = w.stepped (·.advance (longLen x)) ∧
      w'.gld = w.gld ∧ w'.gst = w.gst ∧ w'.spm = w.spm ∧ w.sameRegs w' ∧ s.sameBeyond t w.id.coreId s.cur ∧ t.cores = s.cores)

/-- R66, R113, R115, R117, R276, R280: which bytes a thread's access names. EA is the base plus the sign-extended offset, modulo 2^64, or
modulo 2^32 in the scratchpad and private spaces. A global access covers EA upward, through its page, and through
the next where both have the same caching, format and wing (else class 3, STRADDLE); a scratchpad one its group's allocation, or no byte
of it where it passes its end; a private one its thread's words of the warp's private lines; and a misaligned one that must be aligned is
class 3, ALIGN. -/
def Obligations.AccessBytes : Prop :=
  ∀ (s : State) (w : Warp) (x : LongOp) (k : Kind) (n t : Nat) (al : Bool), n ∈ [1, 2, 4, 8, 16] →
    let g := s.grp w
    let off : Int := (w.word x x.b t).toInt
    let ea : Nat := (((w.src x.lit .d64 x.a t).toNat + off) % 2 ^ 64).toNat
    let b : Nat := (((w.word x x.a t).toNat + off) % 2 ^ 32).toNat
    (∀ l, s.lookup w g k ea = .hit l → (al = true → ea % n = 0) →
      let room := l.size - ea % l.size
      (n ≤ room → ∃ a, s.checkPlain w g x 0 k n al t = .good a ∧ a.covers t n (ea + ·) (l.pa ea + ·)) ∧
      (room < n → ∀ m, s.lookup w g k (ea + room) = .hit m →
        (l.cp = m.cp ∧ l.fmt = m.fmt ∧ l.wg = m.wg →
          ∃ a, s.checkPlain w g x 0 k n al t = .good a ∧
            a.covers t n (ea + ·) (fun i => if i < room then l.pa ea + i else m.pa (ea + room) + (i - room))) ∧
        (¬ (l.cp = m.cp ∧ l.fmt = m.fmt ∧ l.wg = m.wg) →
          s.checkPlain w g x 0 k n al t =
            .bad { cls := 3, reason := 0x71, thread := t, kind := k.no, va := some (ea + room) }))) ∧
    (al = true → ea % n ≠ 0 →
      s.checkPlain w g x 0 k n al t = .bad { cls := 3, reason := 0x70, thread := t, kind := k.no, va := some ea }) ∧
    (∀ sp, (sp = 1 ∨ sp = 2) → b % n ≠ 0 →
      s.checkPlain w g x sp k n al t = .bad { cls := 3, reason := 0x70, thread := t, kind := k.no, va := some b }) ∧
    (b % n = 0 →
      ∃ a, s.checkPlain w g x 1 k n al t = .good a ∧
        a.covers t n (b + ·) (fun i => (if b + n ≤ g.res.spm * 512 then g.spmBase + b else spmBeyond) + i)) ∧
    (b % n = 0 → ∀ leaf : Nat → Leaf,
      let va (j : Nat) : Nat := w.privbase + (b / 4 + j) * 128 + t * 4 + b % 4
      (∀ j, 4 * j < n →
        s.lookup w g (if k == .read then .write else k) (va j) = .hit (leaf j) ∧ va j % (leaf j).size + min n 4 ≤ (leaf j).size) →
      ∃ a, s.checkPlain w g x 2 k n al t = .good a ∧
        a.covers t n (fun i => va (i / 4) + i % 4) (fun i => (leaf (i / 4)).pa (va (i / 4)) + i % 4))

/-- R278, R289 to R293, R295: LDACQ and the atomics that acquire launch their accesses and stay at their words until these are performed;
then the acquire actions follow and they move on. STREL and the atomics that release are held by their core until their release. FENCE
waits for the instructions that it covers, then makes its actions: a release sends the combining buffer, writes back what is dirty at
wide scope and begins an epoch; an acquire drops what is clean. PROMOTE, and LDACQ.rem once its accesses have passed, send their promotion
and wait for it; LDACQ.rem then makes an acquire before its loads. -/
def Obligations.OrderingInstructions : Prop :=
  (∀ (i : Instr) (s : State) (w : Warp) (x : LongOp) (f : MemForm) (accs : List Acc),
    MemReady i s w x f (accs.map .good) → acquires i = true → ¬ s.toPromote w i → (∃ a ∈ accs, a.pieces ≠ []) →
    Launches i s w f accs (fun p => { p with st := .blocked (.instr [s.names]), phase := 2 })) ∧
  (∀ (s : State) (w : Warp) (x : LongOp) (f : MemForm) (accs : List Acc),
    MemReady (.ldacq x) s w x f (accs.map .good) → ¬ s.toPromote w (.ldacq x) → hintOf x % 2 = 1 →
    ∃ t, exec (.ldacq x) s = .next t ∧ s.acquired t w.id.coreId) ∧
  (∀ (i : Instr) (s : State) (w : Warp) (x : LongOp) (f : MemForm) (accs : List Acc),
    MemReady i s w x f (accs.map .good) → releases i = true → ∃ t, exec i s = .next t ∧ (t.core w.id.coreId).holds s.names = true) ∧
  (∀ (i : Instr) (s : State) (w : Warp) (opc : BitVec 8) (x : LongOp),
    ((∃ y, i = .atom y ∨ i = .atomcas y) ∧ selIsS x.d = false ∨ (∃ y, i = .red y) ∨ (∃ y, i = .ldacq y)) →
    i.long? = some (opc, x) → s.issues w opc x → w.phase = 2 →
    ∃ t w', exec i s = .next t ∧ t.warp? s.cur = some w' ∧ w'.splits = w.stepped (·.advance (longLen x)) ∧ w.sameRegs w' ∧
      (∀ a, t.devByte a = s.devByte a) ∧ (∀ k a, t.spmByte k a = s.spmByte k a) ∧
      (wideScope (scopeOf x) = true → s.acquired t w.id.coreId) ∧ (wideScope (scopeOf x) = false → t.cores = s.cores)) ∧
  (∀ (s : State) (w : Warp) (x : LongOp), s.issues w 0x93 x → s.hasCore w.id.coreId → w.acts x.g = true →
    let c := w.id.coreId
    let needs := (if isAcq (hintOf x) then s.outstOf w.id (· == .gld) else []) ++ if isRel (hintOf x) then s.releaseNeeds w.id else []
    let wide := wideScope (scopeOf x)
    (w.phase = 0 → needs ≠ [] →
      ∃ t w', exec (.fence x) s = .next t ∧ t.warp? s.cur = some w' ∧ w.sameRegs w' ∧ t.cores = s.cores ∧
        w'.splits = w.stepped fun p => { p with st := .blocked (.instr needs), phase := 1 }) ∧
    ((w.phase ≠ 0 ∨ needs = []) →
      ∃ t w', exec (.fence x) s = .next t ∧ t.warp? s.cur = some w' ∧ w.sameRegs w' ∧
        w'.splits = w.stepped (·.advance (longLen x)) ∧
        (isRel (hintOf x) = true →
          (t.core c).comb = [] ∧ (t.core c).epoch = (s.core c).epoch + 1 ∧
          (wide = true → ∀ l ∈ (t.core c).l1, l.priv = none → ∀ b ∈ l.bytes, b.dirty = none)) ∧
        (isRel (hintOf x) = false → isAcq (hintOf x) = true → wide = true → s.acquired t c) ∧
        (isAcq (hintOf x) = true → wide = true →
          ∀ l ∈ (t.core c).l1, l.ro = false → l.priv = none → ∀ b ∈ l.bytes, b.valid = true → b.isDirty = true))) ∧
  (∀ (i : Instr) (s : State) (w : Warp) (x : LongOp) (cores : List CoreId), cores ≠ [] →
    ((i = .promote x ∧ s.issues w 0x94 x ∧ s.hasCore w.id.coreId ∧ w.phase = 0 ∧ w.acts x.g = true ∧
        cores = s.promoteCores (s.grp w) (w.usrc x.lit .d64 x.a)) ∨
      (i = .ldacq x ∧ w.phase = 0 ∧ cores = s.remCores w x ∧ ∃ f, ∃ accs : List Acc, MemReady i s w x f (accs.map .good))) →
    ∃ t w', exec i s = .next t ∧ t.warp? s.cur = some w' ∧ w.sameRegs w' ∧ s.sameBeyond t w.id.coreId s.cur ∧
      w'.splits = w.stepped (fun p => { p with st := .blocked .promote, phase := 1 }) ∧
      ({ warp := w.id, left := cores } : Promote) ∈ (t.core w.id.coreId).promotes) ∧
  (∀ (s : State) (w : Warp) (x : LongOp), s.issues w 0x94 x → w.acts x.g = true →
    (w.phase ≠ 0 ∨ s.promoteCores (s.grp w) (w.usrc x.lit .d64 x.a) = []) →
    ∃ t w', exec (.promote x) s = .next t ∧ t.warp? s.cur = some w' ∧ w.sameRegs w' ∧ s.acquired t w.id.coreId ∧
      w'.splits = w.stepped (·.advance (longLen x)))

/-- R102, R103, R109, R281, R286, R295: before any access leaves, the lowest thread whose access fails traps precisely; an S bit off the
whole-instruction path and a base or offset of LDU that is not uniform take class 5, ADDR; an s destination of ATOM or ATOMCAS takes
class 5, SHAPE (log 15). A full count, or a translation or format that is not cached, makes the instruction wait with nothing changed. -/
def Obligations.MemoryTraps : Prop :=
  (∀ (i : Instr) (s : State) (w : Warp) (x : LongOp) (f : MemForm) (accs : List Acc) (c : Cause) (rest : List AccRes),
    MemReady i s w x f (accs.map .good ++ .bad c :: rest) → exec i s = .next (s.trap w c)) ∧
  (∀ (i : Instr) (s : State) (w : Warp) (opc : BitVec 8) (x : LongOp) (f : MemForm),
    i.long? = some (opc, x) → memOf i = some f → s.issues w opc x → x.w = true → w.active x.g ≠ 0 → f.whole s w = false →
    exec i s = .next (s.trap w { cls := 5, reason := 0x32 })) ∧
  (∀ (s : State) (w : Warp) (x : LongOp), s.issues w 0x82 x →
    (w.lduOperand x (if spaceOf x == 0 then .d64 else .i32) x.a && w.lduOperand x .i32 x.b) = false →
    exec (.ldu x) s = .next (s.trap w { cls := 5, reason := 0x32 })) ∧
  (∀ (i : Instr) (s : State) (w : Warp) (opc : BitVec 8) (x : LongOp),
    (i = .atom x ∨ i = .atomcas x) → i.long? = some (opc, x) → s.issues w opc x → selIsS x.d = true →
    exec i s = .next (s.trap w { cls := 5, reason := 0x31 })) ∧
  (∀ (i : Instr) (s : State) (w : Warp) (opc : BitVec 8) (x : LongOp) (f : MemForm),
    i.long? = some (opc, x) → memOf i = some f → s.issues w opc x → w.atAccess i → w.active x.g ≠ 0 → 63 ≤ w.count f.cls →
    (x.w = true → f.whole s w = true) → ((∃ y, i = .atom y ∨ i = .atomcas y) → selIsS x.d = false) →
    exec i s = .next (s.block w (.room (.count f.cls)) w.phase)) ∧
  ∀ (i : Instr) (s : State) (w : Warp) (x : LongOp) (f : MemForm) (rs : List AccRes) (vas fmts : List Nat),
    MemReady i s w x f rs → checkAll rs = .wait vas fmts →
    ∃ t w', exec i s = .next t ∧ t.warp? s.cur = some w' ∧ w.sameRegs w' ∧
      w'.splits = w.stepped (fun p => { p with st := .blocked .walk, phase := w.phase }) ∧
      (∀ a, t.devByte a = s.devByte a) ∧ (∀ k a, t.spmByte k a = s.spmByte k a) ∧
      (t.core w.id.coreId).reqs = (s.core w.id.coreId).reqs

/-! ### Counters, engines and the matrix -/

/-- R303 to R309: CADD of a local counter adds, saturating, and one that saturates charges class 6; CWAIT moves on once the counter has
reached its value and waits till then; CREAD reads it into a pair; BAR adds one and waits for its target; BARSIG and a CADD that releases
add behind their release. A global counter is reached by one access: CADD's moves on, CWAIT's waits for home's answer, CREAD's for its
value. At the end of a lane cycle in which its wait is over, a split leaves WAITC, CWAIT or BAR with the acquire made, and does not issue it
again (that it is the end of the cycle: log 19). An index that is not declared is class 7, CNTREF, and a misaligned global address class 3. -/
def Obligations.CountersAndBarriers : Prop :=
  (∀ (i : Instr) (s : State) (w : Warp) (opc : BitVec 8) (x : LongOp) (g : Group),
    i.long? = some (opc, x) → opc ∈ [0xA0, 0xA1, 0xA2, 0xA3, 0xA4] → s.issues w opc x → w.acts x.g = true → w.regsOk = true →
    s.hasCore w.id.coreId → s.groupOf w = some g → (opc.toNat ≤ 0xA2 → x.fn2.getLsbD 4 = false) →
    let c := w.id.coreId
    let n := (w.word x x.a 0).toNat % 256
    let old := g.ctrs.getD n 0
    let b := w.src x.lit .d64 x.b 0
    let sat (k : Nat) : DWord := BitVec.ofNat 64 (min (old.toNat + k) (2 ^ 64 - 1))
    let acq (b : Bool) : Option Bool := if b then some (wideScope (scopeOf x)) else none
    (g.ctrs.length ≤ n → exec i s = .next (s.trap w { cls := 7, reason := 0x56, aux := 0xFF })) ∧
    (n < g.ctrs.length → s.heldAdd w n = true → exec i s = .next (s.block w (.room (.held n)) w.phase)) ∧
    (n < g.ctrs.length → s.heldAdd w n = false →
      (opc = 0xA0 → isRel (hintOf x) = false →
        ∃ t g', exec i s = .next t ∧ t.group? c g.slot = some g' ∧ g'.ctrs = g.ctrs.set n (sat b.toNat) ∧
          (old.toNat + b.toNat < 2 ^ 64 → g'.deferred = g.deferred) ∧
          (2 ^ 64 ≤ old.toNat + b.toNat →
            ∃ d : PendTrap, g'.deferred = g.deferred ++ [d] ∧ d.trapRec.cls = 6 ∧ d.trapRec.aux = BitVec.ofNat 64 n ∧
              d.trapRec.pc = w.pc ∧ d.trapRec.deferred = true) ∧
          t.movesOn w (longLen x) ∧ s.sameBytes t) ∧
      (opc = 0xA1 → b.toNat ≤ old.toNat →
        ∃ t, exec i s = .next t ∧ t.movesOn w (longLen x) ∧ s.sameBytes t ∧ t.groups = s.groups ∧
          (isAcq (hintOf x) = true → wideScope (scopeOf x) = true → s.acquired t c) ∧
          (isAcq (hintOf x) = false → t.cores = s.cores)) ∧
      (opc = 0xA1 → old.toNat < b.toNat →
        ∃ t, exec i s = .next t ∧ t.waitsFor w (.localCtr n b (longLen x) (acq (isAcq (hintOf x)))) 0 ∧ t.cores = s.cores ∧
          t.groups = s.groups) ∧
      (opc = 0xA2 → ∃ t, exec i s = .next t ∧ t.movesOnWith w (longLen x) x.d true old ∧ t.cores = s.cores ∧ t.groups = s.groups) ∧
      (((opc = 0xA0 ∧ isRel (hintOf x) = true) ∨ opc = 0xA3 ∨ opc = 0xA4) →
        (s.core c).heldOps = [] → (s.core c).reqs = [] → (∀ v ∈ s.warps, v.id.coreId = c → v.splits ≠ []) →
        let amt := if opc = 0xA0 then b.toNat else if opc = 0xA3 then 1 else (w.word x x.b 0).toNat
        ∃ t g', exec i s = .next t ∧ t.group? c g.slot = some g' ∧
          (s.releaseNeeds w.id = [] → g'.ctrs = g.ctrs.set n (sat amt) ∧ (t.core c).comb = [] ∧ (t.core c).heldOps = []) ∧
          (s.releaseNeeds w.id ≠ [] → g'.ctrs = g.ctrs ∧ (t.core c).heldOps.length = 1) ∧
          (opc ≠ 0xA3 → t.movesOn w (longLen x)) ∧ (opc = 0xA3 → t.waitsFor w (.localCtr n b (longLen x) (acq true)) 0)))) ∧
  (∀ (i : Instr) (s : State) (w : Warp) (opc : BitVec 8) (x : LongOp),
    i.long? = some (opc, x) → opc ∈ [0xA0, 0xA1, 0xA2] → s.issues w opc x → w.acts x.g = true → s.hasCore w.id.coreId →
    x.fn2.getLsbD 4 = true →
    let g := s.grp w
    let va := (w.src x.lit .d64 x.a 0).toNat
    let b := w.src x.lit .d64 x.b 0
    let k : Kind := if opc = 0xA2 then .read else .atomic
    let f : MemForm :=
      { cls := if opc = 0xA0 then .gst else .gld, check := fun s w g _ => s.checkCounter w g k va, dst := if opc = 0xA2 then x.d else .zr
        kind := fun _ _ => if opc = 0xA0 then .atom .cadd .u64 b false else if opc = 0xA1 then .cwait b else .cread }
    (va % 8 ≠ 0 → (opc ≠ 0xA2 ∨ w.phase ≠ 1) → w.count f.cls < 63 →
      exec i s = .next (s.trap w { cls := 3, reason := 0x70, kind := k.no, va := some va })) ∧
    (∀ a, w.phase = 0 → w.count f.cls < 63 → s.checkCounter w g k va = .good a → a.pieces ≠ [] →
      (opc = 0xA0 → Launches i s w f [a] (·.advance (longLen x))) ∧
      (opc = 0xA1 → ∃ t w' r, exec i s = .next t ∧ t.warp? s.cur = some w' ∧ w'.gld = w.gld + 1 ∧
        t.waitsFor w (.answer s.names (longLen x) (if isAcq (hintOf x) = true then some (wideScope (scopeOf x)) else none)) 0 ∧ s.sameBytes t ∧
        r ∈ (t.core w.id.coreId).reqs ∧ r.iid = s.names ∧ r.kind = .cwait b) ∧
      (opc = 0xA2 → Launches i s w f [a] (fun p => { p with st := .blocked (.instr [s.names]), phase := 1 }))) ∧
    (opc = 0xA2 → w.phase = 1 → ∃ t, exec i s = .next t ∧ t.movesOn w (longLen x) ∧ s.sameBytes t)) ∧
  ∀ (s : State) (w : Warp) (k len : Nat) (p : Split) (acq : Option Bool), s.warp? w.id = some w → w.splits[k]? = some p →
    (w.splits.map Split.mask).Nodup →
    let ctrs := (s.grp w).ctrs
    let ends : Prop :=
      (∃ g t q : Option Nat, p.st = .blocked (.count g t q len) ∧ acq = none ∧ (∀ n, g = some n → w.gld ≤ n) ∧
        (∀ n, t = some n → w.gst ≤ n) ∧ ∀ n, q = some n → w.spm ≤ n) ∨
      (∃ i, p.st = .blocked (.answer i len acq) ∧ ∀ o ∈ (s.core w.id.coreId).outst, o.iid ≠ i) ∨
      ∃ b v, p.st = .blocked (.localCtr b v len acq) ∧ v.toNat ≤ (ctrs.getD b 0).toNat
    ends →
    ∃ w' q, (s.endWaits w).warp? w.id = some w' ∧ w.sameRegs w' ∧ s.sameBytes (s.endWaits w) ∧ w'.splits[k]? = some q ∧
      (q.st = .ready ∨ q.st = .running) ∧ q.pc = (p.pc + len) % 2 ^ 64 ∧ q.mask = p.mask ∧
      (acq = some true → s.acquired (s.endWaits w) w.id.coreId)

/-- R127 to R129, R300, R301, R310 to R313, R316 to R319: COPY, BINPLAY and EMBPOOL, once their warp's own stores to the command have
landed, add it to its queue, under a false k guard without the checks behind its counter; BINPLAY keeps the arena's header; a command off a
16-byte boundary or outside the allocation is class 7. CPTR reads a write-pointer of its group. QFENCE marks every queue that it names at
once; naming none, it makes its add after its warp's earlier writes. A channel or queue that the curator core lacks is class 4, UNIT. -/
def Obligations.EngineCommands : Prop :=
  (∀ (s : State) (w : Warp) (x : LongOp), s.issues w 0xD0 x →
    let n := x.fn2.toNat % 8
    let b := s.cmdBytes w x 48
    let c := CopyCmd.parse b
    CommandMet s w x n 48 (c.ctrKind, c.ctr) → (w.actsK x.g = true → c.reject (s.grp w) = none) → Enqueues (.copy x) s s w x n b []) ∧
  (∀ (s : State) (w : Warp) (x : LongOp), s.issues w 0xD4 x →
    let b := s.cmdBytes w x 48
    let c := PlayCmd.parse b
    CommandMet s w x 8 48 (c.ctrKind, c.ctr) →
    (w.actsK x.g = false → Enqueues (.binplay x) s s w x 8 b []) ∧
    (∀ ps, w.actsK x.g = true → s.engPages (s.grp w).whoIs .read c.abase 16 = .ok ps →
      let own := s.ownWrites w.id false (runsOf ps)
      let (s0, hdr) := s.engRead (s.grp w).core ps
      let a := Arena.parse hdr
      (own ≠ [] → exec (.binplay x) s = .next (s.block w (.instr own) w.phase)) ∧
      (own = [] → c.reject a (s.grp w) = none → Enqueues (.binplay x) s s0 w x 8 b [a.nreg, a.cap, a.shift]) ∧
      (∀ r, own = [] → c.reject a (s.grp w) = some r →
        exec (.binplay x) s = .next (s0.trap w { cls := 7, reason := r, aux := 8 })))) ∧
  (∀ (s : State) (w : Warp) (x : LongOp), s.issues w 0xD6 x →
    let b := s.cmdBytes w x 64
    let c := PoolCmd.parse b
    CommandMet s w x 9 64 (c.ctrKind, c.ctr) → (w.actsK x.g = true → c.reject (s.grp w) = none) → Enqueues (.embpool x) s s w x 9 b []) ∧
  (∀ (i : Instr) (s : State) (w : Warp) (opc : BitVec 8) (x : LongOp) (n size : Nat),
    (opc, n, size) ∈ [(0xD0, x.fn2.toNat % 8, 48), (0xD4, 8, 48), (0xD6, 9, 64)] → i.long? = some (opc, x) → s.issues w opc x →
    (w.cmdOff x % 16 ≠ 0 → exec i s = .next (s.trap w { cls := 7, reason := 0x52, aux := BitVec.ofNat 64 n })) ∧
    (w.cmdOff x % 16 = 0 → (s.grp w).res.spm * 512 < w.cmdOff x + size →
      exec i s = .next (s.trap w { cls := 7, reason := 0x51, aux := BitVec.ofNat 64 n })) ∧
    (w.cmdOff x % 16 = 0 → (s.grp w).inSpm (w.cmdOff x) size = true → s.cmdWrites w x size ≠ [] →
      exec i s = .next (s.block w (.instr (s.cmdWrites w x size)) w.phase))) ∧
  (∀ (i : Instr) (s : State) (w : Warp) (x : LongOp), s.stands w → w.id.core = 16 →
    ((∃ n, x.a = .s n) ∨ x.a = .zr ∨ (∃ n, x.a = .imm n) ∨ (x.a = .lit ∧ x.lit ≠ none)) →
    ((i = .cptr x ∧ 2 ≤ (w.word x x.a 0).toNat % 8) ∨ (i = .qfence x ∧ (w.word x x.a 0).toNat / 4 % 512 ≠ 0)) →
    exec i s = .next (s.trap w { cls := 4, reason := 0x22 })) ∧
  (∀ (s : State) (w : Warp) (x : LongOp), s.issues w 0xD1 x → w.regsOk = true →
    let ch := (w.word x x.a 0).toNat % 8
    (w.acts x.g = true →
      ∃ t, exec (.cptr x) s = .next t ∧ t.movesOnWith w (longLen x) x.d true ((s.grp w).wptr.getD ch 0) ∧ t.cores = s.cores ∧
        t.groups = s.groups ∧ s.sameBytes t) ∧
    (w.acts x.g = false → exec (.cptr x) s = .next (s.retire w (longLen x) 1))) ∧
  ∀ (s : State) (w : Warp) (x : LongOp) (g : Group), s.issues w 0xD2 x → s.groupOf w = some g → s.wholeCore w.id.coreId →
    let c := w.id.coreId
    let m := (w.word x x.a 0).toNat
    let form := x.fn2.toNat % 4
    let r : CtrRef := if form = 1 then .loc ((w.word x x.b 0).toNat % 256) else
      if form = 2 then .glob (w.src x.lit .d64 x.b 0).toNat else .none
    (w.acts x.g = false → exec (.qfence x) s = .next (s.retire w (longLen x) 1)) ∧
    (w.acts x.g = true → s.checkCtr g 0 r 0xFF = none →
      (2048 ≤ m → exec (.qfence x) s = .next (s.trap w { cls := 7, reason := 0x57, aux := 0xFF })) ∧
      (m = 0 → w.phase = 0 → s.releaseNeeds w.id ≠ [] →
        exec (.qfence x) s = .next (s.block w (.instr (s.releaseNeeds w.id)) 1)) ∧
      (m = 0 → (w.phase ≠ 0 ∨ s.releaseNeeds w.id = []) →
        (r = .none → ∃ t, exec (.qfence x) s = .next t ∧ t.movesOn w (longLen x) ∧ t.cores = s.cores ∧ t.groups = s.groups) ∧
        (∀ b, r = .loc b → ∃ t g', exec (.qfence x) s = .next t ∧ t.movesOn w (longLen x) ∧ t.group? c g.slot = some g' ∧
          g'.ctrs = g.ctrs.set b (BitVec.ofNat 64 (min ((g.ctrs.getD b 0).toNat + (w.word x x.c 0).toNat) (2 ^ 64 - 1))))) ∧
      (0 < m → m < 2048 → (∀ n, n < 11 → m.testBit n = true → s.queueRoom g n = true) →
        ∃ t f, exec (.qfence x) s = .next t ∧ (t.core c).fences = (s.core c).fences ++ [f] ∧
          f.slot = g.slot ∧ f.mask.toNat = m ∧ f.ctr = r ∧ f.amt = (w.word x x.c 0).toNat ∧ f.who = w.issuer ∧
          f.needs = s.outstOf w.id (fun _ => true) ∧
          (∀ n, n < 10 → (t.core c).queue n = (s.core c).queue n ++ if m.testBit n then [.fence f.fid] else []) ∧
          (∃ g', t.group? c g.slot = some g' ∧
            (m.testBit 10 = false → g' = g) ∧
            (m.testBit 10 = true → ∃ e, e.fence = some f.fid ∧ g' = { g with mxq := g.mxq ++ [e] })) ∧
          t.movesOn w (longLen x) ∧ s.sameBytes t))

/-- R131, R135, R136, R139, R153, R314, R315: BIN and ROUTE wait for their warp's accesses on their way, then act thread by thread in ascending
order, each in a lane cycle, or in two where its two general v sources share a bank, and move on; a thread that faults keeps its progress, and traps. BIN's predicate says that the thread's slot lay in its region; ROUTE's
destination holds the slot, and its predicate that it is the expert's own. An arena or route header that is not well formed is class 7,
ARENA. BIN completes in one step where its header is well formed and every word that its active threads can reach is held: the count of each
thread's region and every slot of it. A thread whose index lies beyond the regions gets a false predicate, and all registers but the
predicate keep their values; a thread alone, with nothing of its core cached or combined, gets the old count's verdict. So does ROUTE where no
active thread names an expert of the header, with the residual count and list held: all predicates are false. A thread alone whose expert is in
the header, with the expert's entry held, gets the expert's next slot, and a true predicate, while the expert is below its capacity. ROUTE with an s destination is class 5, SHAPE, as the model reads R149 (log 15). -/
def Obligations.BinAndRoute : Prop :=
  (∀ (i : Instr) (s : State) (w : Warp) (opc : BitVec 8) (x : LongOp), (i = .bin x ∨ i = .route x) → i.long? = some (opc, x) →
    s.issues w opc x → selIsS x.d = false →
    (w.active x.g = 0 → exec i s = .next (s.retire w (longLen x) 1)) ∧
    (w.active x.g ≠ 0 → s.outstOf w.id (· != .spm) ≠ [] →
      exec i s = .next (s.block w (.instr (s.outstOf w.id (· != .spm))) w.phase)) ∧
    ∀ c, w.active x.g ≠ 0 → s.outstOf w.id (· != .spm) = [] →
      s.engPages (s.grp w).whoIs .read (w.src x.lit .d64 x.a 0).toNat 16 = .error c → exec i s = .next ((s.found c).trap w c)) ∧
  (∀ (s : State) (w : Warp) (x : LongOp), s.issues w 0xD5 x → selIsS x.d = true →
    exec (.route x) s = .next (s.trap w { cls := 5, reason := 0x31 })) ∧
  (∀ (i : Instr) (s : State) (w : Warp) (opc : BitVec 8) (x : LongOp) (ps : Pages),
    (i = .bin x ∨ i = .route x) → i.long? = some (opc, x) → s.issues w opc x → selIsS x.d = false → w.active x.g ≠ 0 →
    s.outstOf w.id (· != .spm) = [] →
    let g := s.grp w
    let base := (w.src x.lit .d64 x.a 0).toNat
    let (s0, hdr) := s.engRead g.core ps
    let p := w.progress.getD ⟨0, none, false⟩
    let ts := (threadsOf (w.active x.g)).filter fun t => p.next ≤ t
    let a := Arena.parse hdr
    let h := RouteHdr.parse hdr
    let ok := if opc = 0xD3 then a.ok else h.ok
    let gen (r : Fin 192) : Bool := (w.getV r.val).tag.isGeneral
    let pace : Nat := match x.b, x.c with
      | .v b, .v c => if (b != c && b.val % 4 == c.val % 4 && gen b && gen c) = true then 2 else 1
      | _, _ => 1
    let run := runThreads (fun st u t cl =>
      if opc = 0xD3 then st.binThread g u x a base t (cl.map (·.1)) else st.routeThread g u x h base t cl) s0 w
      (p.claim.map fun k => (k, p.resid)) ts
    s.engPages g.whoIs .read base 16 = .ok ps →
    ((base % 128 ≠ 0 ∨ ok = false) → exec i s = .next (s0.trap w { cls := 7, reason := 0x53, aux := 0xFF })) ∧
    (base % 128 = 0 → ok = true →
      (∀ s1 w1, run = .done s1 w1 →
        exec i s = .next (s1.retire { w1 with progress := none } (longLen x) (max 1 (ts.length * pace)))) ∧
      ∀ s1 w1 q c, run = .fault s1 w1 q c →
        exec i s = .next ((s1.setWarp { w1 with progress := some q }).trap { w1 with progress := some q } c))) ∧
  (∀ (s : State) (g : Group) (w : Warp) (x : LongOp) (a : Arena) (base t : Nat) (claim : Option Nat) (s1 : State) (w1 : Warp),
    w.regsOk = true → t < 32 → pdOf x < 7 → s.binThread g w x a base t claim = .done s1 w1 →
    let region := (w.word x x.b t).toNat / 2 ^ a.shift
    w1 = { w with p := w1.p } ∧
    (∀ n u, (n ≠ pdOf x ∨ u ≠ t) → (w1.getP n).getLsbD u = (w.getP n).getLsbD u) ∧
    (a.nreg ≤ region → s1 = s ∧ (w1.getP (pdOf x)).getLsbD t = false) ∧
    (region < a.nreg → ∀ k, claim = some k → (w1.getP (pdOf x)).getLsbD t = decide (k < a.cap))) ∧
  (∀ (s : State) (g : Group) (w : Warp) (x : LongOp) (h : RouteHdr) (base t k : Nat) (resid : Bool) (s1 : State) (w1 : Warp) (n : Fin 192),
    w.regsOk = true → t < 32 → pdOf x < 7 → x.d = .v n → n.val < w.v.length →
    s.routeThread g w x h base t (some (k, resid)) = .done s1 w1 →
    (w1.getV n.val).get t = BitVec.ofNat 32 k ∧ (w1.getP (pdOf x)).getLsbD t = !resid ∧
    (∀ m u, u < 32 → (m ≠ n.val ∨ u ≠ t) → (w1.getV m).get u = (w.getV m).get u)) ∧
  (∀ (s : State) (w : Warp) (x : LongOp) (ps : Pages), s.issues w 0xD3 x → w.regsOk = true → w.progress = none → w.active x.g ≠ 0 →
    s.outstOf w.id (· != .spm) = [] →
    let g := s.grp w
    let base := (w.src x.lit .d64 x.a 0).toNat
    let a := Arena.parse (s.engRead g.core ps).2
    let region (t : Nat) : Nat := (w.word x x.b t).toNat / 2 ^ a.shift
    s.engPages g.whoIs .read base 16 = .ok ps → base % 128 = 0 → a.ok = true →
    (∀ t, (w.active x.g).getLsbD t = true → region t < a.nreg →
      (∃ l, s.heldBy g.whoIs .atomic (Arena.countVA base (region t)) 8 l) ∧
      ∀ j, j < a.cap → ∃ l, s.heldBy g.whoIs .write (a.slotVA base (region t) j) 8 l) →
    ∃ t w', exec (.bin x) s = .next t ∧ t.warp? s.cur = some w' ∧ w'.splits = w.stepped (·.advance (longLen x)) ∧
      w'.progress = none ∧ w'.v = w.v ∧ w'.q = w.q ∧ w'.lr = w.lr ∧ w'.s = w.s ∧ w'.k = w.k ∧ w'.exec = w.exec ∧
      (∀ n u, (n ≠ pdOf x ∨ (w.active x.g).getLsbD u = false) → (w'.getP n).getLsbD u = (w.getP n).getLsbD u) ∧
      (pdOf x < 7 → ∀ u, (w.active x.g).getLsbD u = true → a.nreg ≤ region u → (w'.getP (pdOf x)).getLsbD u = false) ∧
      (∀ u l, pdOf x < 7 → (∀ v, (w.active x.g).getLsbD v = decide (v = u)) → region u < a.nreg →
        (s.core g.core).l1 = [] → (s.core g.core).comb = [] → s.heldBy g.whoIs .atomic (Arena.countVA base (region u)) 8 l →
        (w'.getP (pdOf x)).getLsbD u = decide (s.devNat (l.pa (Arena.countVA base (region u))) 8 < a.cap))) ∧
  ∀ (s : State) (w : Warp) (x : LongOp) (ps : Pages), s.issues w 0xD5 x → w.regsOk = true → selIsS x.d = false → w.progress = none →
    w.active x.g ≠ 0 → s.outstOf w.id (· != .spm) = [] →
    let g := s.grp w
    let base := (w.src x.lit .d64 x.a 0).toNat
    let h := RouteHdr.parse (s.engRead g.core ps).2
    let expert (t : Nat) : Nat := (w.word x x.b t).toNat
    let residual : Prop := (∃ l, s.heldBy g.whoIs .atomic (base + 64) 8 l) ∧
      ∀ k, k < h.rescap → ∃ l, s.heldBy g.whoIs .write (h.resbase + 8 * k) 8 l
    let rest (w' : Warp) : Prop := w'.splits = w.stepped (·.advance (longLen x)) ∧ w'.progress = none ∧ w'.s = w.s ∧ w'.k = w.k ∧
      w'.exec = w.exec ∧ (∀ n u, (n ≠ pdOf x ∨ (w.active x.g).getLsbD u = false) → (w'.getP n).getLsbD u = (w.getP n).getLsbD u) ∧
      ∀ n, x.d = .v n → w'.q = w.q ∧ w'.lr = w.lr ∧ (∀ m, m ≠ n.val → w'.getV m = w.getV m) ∧
        ∀ u, u < 32 → (w.active x.g).getLsbD u = false → (w'.getV n.val).get u = (w.getV n.val).get u
    s.engPages g.whoIs .read base 16 = .ok ps → base % 128 = 0 → h.ok = true →
    ((∀ t, (w.active x.g).getLsbD t = true → h.nexp ≤ expert t) → residual →
      ∃ t w', exec (.route x) s = .next t ∧ t.warp? s.cur = some w' ∧ rest w' ∧
        (pdOf x < 7 → ∀ u, (w.active x.g).getLsbD u = true → (w'.getP (pdOf x)).getLsbD u = false)) ∧
    (∀ u l, (∀ v, (w.active x.g).getLsbD v = decide (v = u)) → expert u < h.nexp → (s.core g.core).l1 = [] →
      (s.core g.core).comb = [] →
      let va := expertVA base (expert u)
      let old := s.devNat (l.pa va) 8
      let slot := s.devNat (l.pa (va + 8)) 8 + 4 * (old % 2 ^ 32)
      s.heldBy g.whoIs .atomic va 8 l → s.heldBy g.whoIs .read (va + 8) 8 l → va % l.size + 16 ≤ l.size → l.pa va % 128 + 16 ≤ 128 →
      (old % 2 ^ 32 < old / 2 ^ 32 → (∃ m, s.heldBy g.whoIs .write slot 4 m) →
        ∃ t w', exec (.route x) s = .next t ∧ t.warp? s.cur = some w' ∧ rest w' ∧
          (pdOf x < 7 → (w'.getP (pdOf x)).getLsbD u = true) ∧ (x.d ≠ .zr → w'.dst x.d false u = BitVec.ofNat 64 (old % 2 ^ 32))) ∧
      (old / 2 ^ 32 ≤ old % 2 ^ 32 → residual →
        ∃ t w', exec (.route x) s = .next t ∧ t.warp? s.cur = some w' ∧ rest w' ∧
          (pdOf x < 7 → (w'.getP (pdOf x)).getLsbD u = false)))

/-- R245, R247, R258 to R274: MMA, MMV, MZERO, MLDA and MSTA that meet their conditions enter their group's matrix queue, and under a false
k guard whatever their operands. MMAL opens a window with its own row claimed, or claims its row of the open one; a lane outside the mask is
class 7, MASK; a window waits for its warp's own stores to its operand B. MBATCH marks batch NEXTB and gives its number; MWAIT moves on once
its batch is complete, and waits till then. -/
def Obligations.MatrixInstructions : Prop :=
  (∀ (i : Instr) (s : State) (w : Warp) (opc : BitVec 8) (x : LongOp) (g : Group) (f : TileForm),
    i.long? = some (opc, x) → tileFormOf i = some f → s.issues w opc x → s.groupOf w = some g → g.mxq.length < 32 →
    let a := w.src x.lit f.a x.a 0
    let b := w.src x.lit f.b x.b 0
    let c := w.src x.lit f.c x.c 0
    (w.actsK x.g = false → EntersMatrixQueue i s w g opc x a b c true) ∧
    (∀ fmts, w.actsK x.g = true → s.issueFmts w g f.idxs = .ok fmts → f.met g fmts a b c →
      EntersMatrixQueue i s w g opc x a b c false)) ∧
  (∀ (s : State) (w : Warp) (x : LongOp) (g : Group), s.issues w 0xC1 x → s.groupOf w = some g → s.hasCore w.id.coreId →
    let core := w.id.coreId
    let mask := w.src x.lit .d64 x.b 0
    let b := w.src x.lit .d64 x.c 0
    let k := if x.fn2.getLsbD 0 then 32 else 16
    let row : List Word := (List.range k).map fun j => if (w.active x.g).getLsbD j then w.word x x.a j else 0
    (∀ fmts, (s.core core).openWin s.clk = none → s.issueFmts w g [x.fn.toNat / 16] = .ok fmts → g.mxq.length < 32 →
      let ta : MxType := ⟨none, x.fn.toNat / 4 % 4⟩
      let tb : MxType := ⟨fmtAt fmts 0, x.fn.toNat % 4⟩
      operandMet g tb k (mmalN x) b → ta.isInt = tb.isInt →
      (mask.getLsbD w.id.lane = false → exec (.mmal x) s = .next (s.trap w { cls := 7, reason := 0x44, aux := 10 })) ∧
      let (data, scales) := mmalBytes x tb
      let own := s.ownWrites w.id true [(g.spmBase + b.lo.toNat, data), (g.spmBase + b.hi.toNat, scales)]
      (mask.getLsbD w.id.lane = true → own ≠ [] → exec (.mmal x) s = .next (s.block w (.instr own) w.phase)) ∧
      (mask.getLsbD w.id.lane = true → own = [] →
        EntersMatrixQueue (.mmal x) s w g 0xC1 x 0 mask b false ∧
        ∃ t v, exec (.mmal x) s = .next t ∧ (t.core core).windows = (s.core core).windows ++ [v] ∧ v.slot = g.slot ∧ v.mask = mask ∧
          v.opened = s.clk ∧ v.b = b ∧ v.data = data ∧ v.scales = scales ∧ v.bytes = [] ∧
           (∀ r ∈ v.rows, mask.getLsbD r.lane = true ∧ r.dropped = false ∧ r.claimed = (r.lane == w.id.lane)) ∧
          (∀ l, l < 64 → mask.getLsbD l = true → ∃ r ∈ v.rows, r.lane = l) ∧ ∀ r ∈ v.rows, r.lane = w.id.lane → r.elems = row)) ∧
    (∀ v, (s.core core).openWin s.clk = some v →
      (v.slot ≠ g.slot → exec (.mmal x) s = .next (s.block w (.room .window) w.phase)) ∧
      (v.slot = g.slot → (∀ r ∈ v.rows, r.lane ≠ w.id.lane) →
        exec (.mmal x) s = .next (s.trap w { cls := 7, reason := 0x44, aux := 10 })) ∧
      (∀ r, v.slot = g.slot → v.rows.find? (fun r => r.lane == w.id.lane) = some r →
        ((r.claimed = true ∨ r.dropped = true) → exec (.mmal x) s = .next (s.block w (.room .window) w.phase)) ∧
        (r.claimed = false → r.dropped = false → v.x.fn2.getLsbD 0 = x.fn2.getLsbD 0 →
          ∃ t, exec (.mmal x) s = .next t ∧ t.movesOn w (longLen x) ∧ s.sameBytes t ∧ t.groups = s.groups ∧
            ∀ u ∈ (t.core core).windows, u.eid = v.eid → ∀ q ∈ u.rows, q.lane = w.id.lane →
              q.claimed = true ∧ q.elems = row ∧ q.since = s.clk)))) ∧
  (∀ (s : State) (w : Warp) (x : LongOp) (g : Group), s.issues w 0xC6 x → w.acts x.g = true → s.groupOf w = some g → w.regsOk = true →
    let form := x.fn2.toNat % 4
    let loc := (w.word x x.a 0).toNat % 256
    (form = 0 ∨ (form = 1 ∧ loc < g.ctrs.length) ∨
      (form = 2 ∧ s.checkCtr g 0 (.glob (w.src x.lit .d64 x.a 0).toNat) 10 = none)) →
    (g.batchDone.getLsbD g.nextb = false → exec (.mbatch x) s = .next (s.block w (.batch g.nextb) w.phase)) ∧
    (g.batchDone.getLsbD g.nextb = true → g.mxq.length < 32 → g.nextb < 16 →
      ∃ t g' e, exec (.mbatch x) s = .next t ∧ t.group? g.core g.slot = some g' ∧ g'.mxq = g.mxq ++ [e] ∧ e.opc = 0xC6 ∧
        e.batch = g.nextb ∧ e.b = (w.word x x.b 0).toD ∧ g'.nextb = (g.nextb + 1) % 16 ∧ g'.batchDone.getLsbD g.nextb = false ∧
        (∀ n, n ≠ g.nextb → g'.batchDone.getLsbD n = g.batchDone.getLsbD n) ∧ s.sameBytes t ∧
        ∃ w', t.warp? w.id = some w' ∧ w'.splits = w.stepped (·.advance (longLen x)) ∧ w'.v = w.v ∧
          ∀ n, x.d = .s n → w'.getS n.val = BitVec.ofNat 32 g.nextb)) ∧
  ∀ (s : State) (w : Warp) (x : LongOp), s.issues w 0xC7 x → w.acts x.g = true →
    let n := (w.word x x.a 0).toNat % 16
    ((w.phase = 1 ∨ (s.grp w).batchDone.getLsbD n = true) →
      ∃ t, exec (.mwait x) s = .next t ∧ t.movesOn w (longLen x) ∧ t.cores = s.cores ∧ t.groups = s.groups) ∧
    (w.phase ≠ 1 → (s.grp w).batchDone.getLsbD n = false →
      ∃ t, exec (.mwait x) s = .next t ∧ t.waitsFor w (.batch n) 1 ∧ t.cores = s.cores ∧ t.groups = s.groups)

/-- R218, R219, R221: the run forms of CVTPK and CVTUPK, with their page format in the cache and their runs below VREGS: each active thread's
values are encoded into containers of the format, with a scale word behind a block, or decoded from them; lr gets the last code word, or
the last value. Other threads keep their values. -/
def Obligations.RunFormats : Prop :=
  ∀ (i : Instr) (s : State) (w : Warp) (opc : BitVec 8) (x : LongOp) (f : Fmt) (a d : Fin 192),
    i.long? = some (opc, x) → opc ∈ [0x31, 0x32] → 1 < tyOf x.fn → s.issues w opc x → w.regsOk = true → x.w = false → x.d = .v d →
    s.fmtEntryPA (s.grp w).asid (x.fn2.toNat % 16) ≠ none →
    s.fmt? w.id.coreId (s.grp w).asid (x.fn2.toNat % 16) = some (some f) → f.cb ∈ [4, 8, 16] →
    let n := 32 / f.cb
    let nw := f.blkN * f.cb / 32
    (opc = 0x31 → tyOf x.fn = 2 → x.a = .v a → a.val + n ≤ w.vregs → d.val + 1 ≤ w.vregs →
      ∃ t w', exec i s = .next t ∧ t.warp? s.cur = some w' ∧ w'.splits = w.stepped (·.advance (longLen x)) ∧
        (∀ u, (w.active x.g).getLsbD u = true →
          (∀ j, j < n → bitsN ((w'.getV d.val).get u).toNat (f.cb * j) f.cb =
            (f.encode (fnRnd x.fn) false (unpackF fp32 false ((w.getV (a.val + j)).get u).toNat)).1 % 2 ^ f.cb) ∧
          w'.lr.get u = (w'.getV d.val).get u) ∧
        (∀ u, u < 32 → (w.active x.g).getLsbD u = false → ∀ m, (w'.getV m).get u = (w.getV m).get u) ∧
        (∀ m, m ≠ d.val → ∀ u, (w'.getV m).get u = (w.getV m).get u)) ∧
    (opc = 0x31 → tyOf x.fn ≠ 2 → f.blk ≠ 0 → 0 < f.blkN → f.blkN % n = 0 → x.a = .v a → a.val + f.blkN ≤ w.vregs →
      d.val + nw + 1 ≤ w.vregs →
      ∃ t w', exec i s = .next t ∧ t.warp? s.cur = some w' ∧
        ∀ u, (w.active x.g).getLsbD u = true →
          let b := f.blockEncode ((List.range f.blkN).map fun j => unpackF fp32 false ((w.getV (a.val + j)).get u).toNat)
          (∀ j, j < f.blkN → bitsN ((w'.getV (d.val + j / n)).get u).toNat (f.cb * (j % n)) f.cb = b.1.getD j 0 % 2 ^ f.cb) ∧
          (w'.getV (d.val + nw)).get u = BitVec.ofNat 32 b.2.1 ∧ w'.lr.get u = (w'.getV (d.val + nw - 1)).get u) ∧
    (opc = 0x32 → d.val + n ≤ w.vregs →
      ∃ t w', exec i s = .next t ∧ t.warp? s.cur = some w' ∧
        (∀ u, (w.active x.g).getLsbD u = true →
          (∀ j, j < n → (w'.getV (d.val + j)).get u =
            BitVec.ofNat 32 (f.decode ((w.word x x.b u).toNat % 256) (bitsN (w.word x x.a u).toNat (f.cb * j) f.cb))) ∧
          w'.lr.get u = (w'.getV (d.val + n - 1)).get u) ∧
        (∀ m, (m < d.val ∨ d.val + n ≤ m) → ∀ u, (w'.getV m).get u = (w.getV m).get u))

/-! ### System registers, work creation and the return from a swap-out -/

/-- R177, R395, R397, R398: GETSYS reads each system value, sys.tix per thread; SETSYS writes sys.exec, sys.fflags and sys.wdlimit, pushes a
frame, requests a pre-emption and starts a generation raise; TIME reads device time. A 64-bit value needs a pair; a name of the curator core
is class 2, SYS, elsewhere. A warp-level instruction whose guard fails retires in one lane cycle with no effect. The record of a raise whose
descriptor memory refuses is the model's (log 43). -/
def Obligations.SystemRegisters : Prop :=
  (∀ (s : State) (w : Warp) (x : LongOp), s.issues w 0xE0 x → w.regsOk = true → w.acts x.g = true →
    let g := s.grp w
    let n := x.fn.toNat
    let num (k : Nat) : DWord := BitVec.ofNat 64 k
    let live := ((s.warpsOf g.core g.slot).filter fun v => !v.splits.isEmpty).length
    let values : List (Nat × DWord) :=
      [(0x01, num w.id.lane), (0x02, num w.widx), (0x03, num w.id.core), (0x04, num w.id.die), (0x05, num g.wing), (0x06, num g.slot),
       (0x07, num live), (0x08, num (g.node % 2 ^ 16 + g.cat * 2 ^ 16)), (0x09, w.exec.setWidth 64),
       (0x0A, num (w.runPos + w.splits.length * 2 ^ 8)), (0x0B, w.fflags.setWidth 64), (0x0C, num (s.desc g.asid).fmtbase),
       (0x0D, num w.privbase), (0x0E, g.trapinfo), (0x0F, 0), (0x10, 0), (0x11, 0), (0x12, num g.asid), (0x13, w.wdlimit.setWidth 64)]
    (n ∈ [0x0F, 0x10, 0x11] → w.id.core ≠ 16 → exec (.getsys x) s = .next (s.trap w { cls := 2, reason := 0x08 })) ∧
    (n = 0 → selIsS x.d = true → exec (.getsys x) s = .next (s.trap w { cls := 5, reason := 0x31 })) ∧
    (n = 0 → selIsS x.d = false →
      ∃ t w', exec (.getsys x) s = .next t ∧ t.warp? w.id = some w' ∧ w'.splits = w.stepped (·.advance (longLen x)) ∧ w'.s = w.s ∧
        (∀ k, x.d = .v k → ∀ u, u < 32 → (w'.getV k.val).get u = BitVec.ofNat 32 u) ∧
        (∀ m, (∀ k, x.d = .v k → m ≠ k.val) → ∀ u, (w'.getV m).get u = (w.getV m).get u)) ∧
    (∀ z, (n, z) ∈ values → (n ∈ [0x0F, 0x10, 0x11] → w.id.core = 16) →
      ∃ t, exec (.getsys x) s = .next t ∧
        t.movesOnWith w (longLen x) x.d (n == 0x0C || n == 0x0D || n == 0x0E || n == 0x10) z ∧ s.sameBytes t ∧ t.cores = s.cores ∧
        t.groups = s.groups)) ∧
  (∀ (s : State) (w : Warp) (x : LongOp), s.issues w 0xE1 x → w.acts x.g = true → x.fn = 0x09 ∨ x.fn = 0x0B ∨ x.fn = 0x13 →
    let a := w.word x x.a 0
    ∃ t w', exec (.setsys x) s = .next t ∧ t.warp? w.id = some w' ∧ w'.splits = w.stepped (·.advance (longLen x)) ∧
      w'.exec = (if x.fn = 0x09 then a else w.exec) ∧ w'.fflags = (if x.fn = 0x0B then a.setWidth 6 else w.fflags) ∧
      w'.wdlimit = (if x.fn = 0x13 then a.setWidth 16 else w.wdlimit) ∧ w'.v = w.v ∧ w'.q = w.q ∧ w'.lr = w.lr ∧ w'.s = w.s ∧
      w'.p = w.p ∧ w'.k = w.k ∧ s.sameBytes t ∧ t.cores = s.cores ∧ t.groups = s.groups) ∧
  (∀ (s : State) (w : Warp) (x : LongOp), s.issues w 0xE1 x → w.acts x.g = true → w.id.core = 16 →
    let a := w.word x x.a 0
    let asid := a.toNat % 2 ^ 16
    let pa := s.descPA asid + 16
    let d := w.id.die
    let slot := a.toNat % 2 ^ 12
    let c : CoreId := ⟨d, a.toNat / 2 ^ 12 % 16⟩
    (w.phase = 1 → ∃ t, exec (.setsysAsgen x) s = .next t ∧ t.movesOn w (longLen x) ∧ t.raises = s.raises) ∧
    (w.phase ≠ 1 → (s.memDown pa || s.bypass pa) = false →
      ∃ t r, exec (.setsysAsgen x) s = .next t ∧ t.raises = s.raises ++ [r] ∧ r.asid = asid ∧
        r.gen = (s.devNat pa 4 % 2 ^ 20 + 1) % 2 ^ 20 ∧ r.wrapped = decide (r.gen = 0) ∧ r.left = s.receivers ∧ r.warp = some w.id ∧
        r.ccp = none ∧ t.waitsFor w .raise 1) ∧
    (w.phase ≠ 1 → (s.memDown pa || s.bypass pa) = true →
      exec (.setsysAsgen x) s = .next (s.trap w { cls := 0, kind := 3, aux := auxOf pa 0 })) ∧
    (64 ≤ (s.die d).frames.length → exec (.setsysCtxpush x) s = .next (s.block w (.room .frames) w.phase)) ∧
    ((s.die d).frames.length < 64 → (∃ k ∈ s.dies, k.id = d) →
      ∃ t, exec (.setsysCtxpush x) s = .next t ∧
        (t.die d).frames = (s.die d).frames ++ [(w.src x.lit .d64 x.a 0).toNat] ∧ t.movesOn w (longLen x) ∧ s.sameBytes t ∧
        t.cores = s.cores ∧ t.groups = s.groups) ∧
    ∃ t, exec (.setsysPreempt x) s = .next t ∧ t.movesOn w (longLen x) ∧ s.sameBytes t ∧ t.cores = s.cores ∧
      t.groups = s.groups.map fun g =>
        if g.core = c ∧ g.slot = slot ∧ g.phase = .running ∧ g.preempt = none then { g with preempt := some 1 } else g) ∧
  (∀ (s : State) (w : Warp) (x : LongOp), s.issues w 0xE2 x → w.regsOk = true → w.acts x.g = true →
    ∃ t, exec (.time x) s = .next t ∧ t.movesOnWith w (longLen x) x.d true (BitVec.ofNat 64 (s.clk * 10 / 13)) ∧ s.sameBytes t ∧
      t.cores = s.cores ∧ t.groups = s.groups) ∧
  (∀ (i : Instr) (s : State) (w : Warp) (opc : BitVec 8) (x : LongOp),
    (i = .spawn x ∨ i = .mbxrd x ∨ i = .fwd x ∨ i = .tretRes x ∨ i = .tretKill x ∨ i = .setsysAsgen x ∨ i = .setsysCtxpush x ∨
      i = .setsysPreempt x) →
    i.long? = some (opc, x) → s.issues w opc x → w.acts x.g = true → w.id.core ≠ 16 →
    exec i s = .next (s.trap w { cls := 2, reason := 0x08 })) ∧
  ∀ (i : Instr) (s : State) (w : Warp) (opc : BitVec 8) (x : LongOp),
    i.long? = some (opc, x) →
    opc ∈ [0x93, 0x94, 0xA0, 0xA1, 0xA2, 0xA3, 0xA4, 0xB0, 0xB1, 0xB2, 0xB3, 0xC6, 0xC7, 0xE0, 0xE1, 0xE2, 0xE3] →
    s.issues w opc x → w.acts x.g = false → exec i s = .next (s.retire w (longLen x) 1)

/-- R373, R375 to R379: FORK adds its children, each with a copy of the parent's s registers but for s10 and s12, or answers 0; SPAWN makes
the group of a packet, or answers why not; MBXRD moves the oldest packet of its die's mailbox to the scratchpad, and answers how many are
left; FWD sends a packet to another die of its wing as KIND 2. Each waits for its warp's own accesses to the packet's bytes (R118). A misplaced
packet is class 3 or class 7. -/
def Obligations.WorkCreation : Prop :=
  (∀ (s : State) (w : Warp) (x : LongOp) (g : Group), s.issues w 0xB0 x → w.acts x.g = true → w.regsOk = true →
    s.groupOf w = some g →
    let n := (w.word x x.a 0).toNat % 64
    let ctr := (w.word x x.c 0).toNat % 256
    let entry := (BitVec.ofNat 64 w.pc + 4 * (w.word x x.b 0).signExtend 64).toNat % 2 ^ 56
    let occ := s.occupied g.core
    let idx := s.freeIndices g n
    let place := placeWarps (lanesOf g.core) (s.core g.core).place w.vregs occ idx
    (ctr < g.ctrs.length → (n = 0 ∨ 32 < n) → exec (.fork x) s = .next (s.trap w { cls := 7, reason := 0x50, aux := 0xFF })) ∧
    (g.ctrs.length ≤ ctr → exec (.fork x) s = .next (s.trap w { cls := 7, reason := 0x56, aux := 0xFF })) ∧
    (0 < n → n ≤ 32 → ctr < g.ctrs.length → (512 < occ.length + n ∨ place = none) →
      ∃ t, exec (.fork x) s = .next t ∧ t.movesOnWith w (longLen x) x.d false 0 ∧ t.warps.length = s.warps.length ∧ s.sameBytes t) ∧
    (0 < n → n ≤ 32 → ctr < g.ctrs.length → occ.length + n ≤ 512 → place ≠ none → idx.length = n →
      ∃ t, ∃ kids : List Warp, exec (.fork x) s = .next t ∧ t.movesOnWith w (longLen x) x.d false (BitVec.ofNat 64 n) ∧ kids.length = n ∧
        t.warps.length = s.warps.length + n ∧ s.sameBytes t ∧ t.groups = s.groups ∧
        ∀ (j : Nat) (v : Warp), kids[j]? = some v →
          v ∈ t.warps ∧ v.id.coreId = g.core ∧ v.grp = w.grp ∧ v.widx ∈ idx ∧ v.vregs = w.vregs ∧ v.joinCtr = some ctr ∧
          v.splits = [⟨entry, .running, BitVec.allOnes 32, 0, 0⟩] ∧ v.exec = BitVec.allOnes 32 ∧ v.k = BitVec.allOnes 7 ∧
          v.getS 10 = BitVec.ofNat 32 v.widx ∧ v.getS 12 = BitVec.ofNat 32 j ∧
          (∀ m, m ≠ 10 → m ≠ 12 → v.getS m = w.getS m) ∧ ∀ m u, (v.getV m).get u = 0)) ∧
  (∀ (i : Instr) (s : State) (w : Warp) (opc : BitVec 8) (x : LongOp),
    (i = .spawn x ∨ i = .mbxrd x ∨ i = .fwd x) → i.long? = some (opc, x) → s.issues w opc x → w.acts x.g = true → w.id.core = 16 →
    let off := (w.word x x.a 0).toNat
    let k : Kind := if i = .mbxrd x then .write else .read
    (off % 16 ≠ 0 → exec i s = .next (s.trap w { cls := 3, reason := 0x70, kind := k.no, va := some off })) ∧
    (off % 16 = 0 → (s.grp w).inSpm off 64 = false → exec i s = .next (s.trap w { cls := 7, reason := 0x51, aux := 0xFF })) ∧
    (off % 16 = 0 → (s.grp w).inSpm off 64 = true → s.packetWaits w k off ≠ [] →
      exec i s = .next (s.block w (.instr (s.packetWaits w k off)) w.phase))) ∧
  (∀ (s : State) (w : Warp) (x : LongOp), s.issues w 0xB1 x → w.acts x.g = true → w.id.core = 16 → w.regsOk = true →
    let off := (w.word x x.a 0).toNat
    let c : CoreId := ⟨w.id.die, (w.word x x.b 0).toNat % 16⟩
    let p := WorkPkt.parse (s.grpSpm (s.grp w) off 64)
    let r := resOf p.res p.spm p.priv
    let bad := 2 < p.kind ∨ r.ok = false
    let down := (s.core c).fenced = true ∨ (s.die c.die).coreDom ≠ .running
    off % 16 = 0 → (s.grp w).inSpm off 64 = true → s.packetWaits w .read off = [] →
    (∀ st, (bad ∧ st = 2) ∨ (¬ bad ∧ down ∧ st = 3) ∨ (¬ bad ∧ ¬ down ∧ s.fit c r = none ∧ st = 1) →
      ∃ t, exec (.spawn x) s = .next t ∧ t.movesOnWith w (longLen x) x.d false st ∧ t.groups = s.groups ∧ s.sameBytes t) ∧
    (∀ place base, ¬ bad → ¬ down → s.fit c r = some (place, base) → p.kind ≠ 1 →
      ∃ t g, exec (.spawn x) s = .next t ∧ t.groups = s.groups ++ [g] ∧
        t.movesOnWith w (longLen x) x.d false ((0x80000000 ||| BitVec.ofNat 32 g.slot : Word).setWidth 64) ∧
        g.core = c ∧ g.wing = s.dieWing c.die ∧ g.asid = p.asid ∧ g.cat = p.cat ∧ g.node = p.node ∧ g.gidx = p.gidx ∧
        g.ngroups = p.ngroups ∧ g.res = r ∧ g.spmBase = base ∧ g.phase = .running ∧ g.ctrs = List.replicate r.counters 0 ∧
        ∀ k, k < r.warps →
          ∃ v ∈ t.warps, v.id.coreId = c ∧ v.grp = g.slot ∧ v.widx = k ∧ v.vregs = r.vregs ∧ v.held = false ∧
            v.splits = [⟨p.entry, .running, BitVec.allOnes 32, 0, 0⟩] ∧ v.s = startRegs p.params p.gidx p.ngroups k r.warps ∧
            v.privbase = (p.privva + (p.gidx * 512 + k) * (r.priv * 128 + 512)) % 2 ^ 64) ∧
    (∀ place base q rp, ¬ bad → ¬ down → s.fit c r = some (place, base) → p.kind = 1 →
      s.cat? (s.dieWing c.die) p.cat = some q → q.replay = some rp → rp.refused = none →
      ∃ t g, exec (.spawn x) s = .next t ∧ t.groups = s.groups ++ [g] ∧ g.phase = .cohort ∧ g.core = c ∧
        ∀ v ∈ t.warps, v ∉ s.warps → v.id ≠ w.id → v.held = true)) ∧
  (∀ (s : State) (w : Warp) (x : LongOp) (g : Group), s.issues w 0xB2 x → w.acts x.g = true → w.id.core = 16 → w.regsOk = true →
    s.groupOf w = some g → s.hasCore w.id.coreId → (∃ d ∈ s.dies, d.id = w.id.die) → s.memOk = true →
    let off := (w.word x x.a 0).toNat
    off % 16 = 0 → g.inSpm off 64 = true → s.packetWaits w .write off = [] →
    (∀ b rest, (s.die w.id.die).mailbox = b :: rest →
      ∃ t, exec (.mbxrd x) s = .next t ∧ (t.die w.id.die).mailbox = rest ∧
        t.movesOnWith w (longLen x) x.d false ((0x80000000 ||| BitVec.ofNat 32 rest.length : Word).setWidth 64) ∧
        (∀ n, n < b.length → t.spmByte g.core (g.spmBase + off + n) = b.getD n 0) ∧
        (∀ c a, (c ≠ g.core ∨ a < g.spmBase + off ∨ g.spmBase + off + b.length ≤ a) → t.spmByte c a = s.spmByte c a) ∧
        ∀ a, t.devByte a = s.devByte a) ∧
    ((s.die w.id.die).mailbox = [] →
      (x.fn2.getLsbD 0 = true → ∃ t, exec (.mbxrd x) s = .next t ∧ t.movesOnWith w (longLen x) x.d false 0 ∧ s.sameBytes t) ∧
      (x.fn2.getLsbD 0 = false → ∃ t, exec (.mbxrd x) s = .next t ∧ t.waitsFor w .mailbox w.phase ∧ s.sameBytes t))) ∧
  ∀ (s : State) (w : Warp) (x : LongOp), s.issues w 0xB3 x → w.acts x.g = true → w.id.core = 16 →
    let off := (w.word x x.a 0).toNat
    let d := (w.word x x.b 0).toNat % 16
    let old := s.grpSpm (s.grp w) off 64
    let same := d ≤ 8 ∧ s.dieWing d = s.dieWing w.id.die ∧ s.dieWing d ≠ 15
    off % 16 = 0 → (s.grp w).inSpm off 64 = true → s.packetWaits w .read off = [] →
    (¬ same → exec (.fwd x) s = .next (s.trap w { cls := 2, reason := 0x0B })) ∧
    (same → (s.die d).otherRoom = false → exec (.fwd x) s = .next (s.block w (.room (.mailbox d)) w.phase)) ∧
    (same → (s.die d).otherRoom = true → (∃ k ∈ s.dies, k.id = d) →
      ∃ t b, exec (.fwd x) s = .next t ∧ (t.die d).inbound = (s.die d).inbound ++ [b] ∧ pktKind b = 2 ∧ b.length = 64 ∧
        (∀ n, n ≠ 53 → b[n]? = old[n]?) ∧ t.movesOn w (longLen x) ∧ s.sameBytes t ∧ t.groups = s.groups)

/-- R386, R388, R390, R399, R400: TRET reads its image with what its core held of it sent home first; it traps at a frame that is no multiple
of 512, and answers 2 where it holds no image. TRET.kill kills the group that the image names, without a report. TRET.res answers 1 where the
group's resources no longer fit or the group is resident and 2 where its wing has lost the die; else the group runs again with the image's
counters, batches and write-pointers, and its warps with theirs. Of an image whose group its core no longer holds R400 leaves the state of the
group slot undefined: what then stands there is the model's choice (log 45). -/
def Obligations.TrapReturn : Prop :=
  (∀ (i : Instr) (s : State) (w : Warp) (x : LongOp), (i = .tretRes x ∨ i = .tretKill x) → s.issues w 0xE3 x → w.acts x.g = true →
    w.id.core = 16 → w.regsOk = true →
    let f := (w.src x.lit .d64 x.a 0).toNat
    let who : Who := { (s.grp w).whoIs with asid := 0 }
    let s1 := s.imageHome who f
    (f % 512 ≠ 0 → exec i s = .next (s.trap w { cls := 3, reason := 0x70, kind := 1, va := some f })) ∧
    (∀ e, f % 512 = 0 → s1.readImage who f = .error e →
      let c : Cause := { cls := e.cls, reason := e.reason, kind := 1, va := some e.va, aux := e.aux, err := e.err }
      exec i s = .next ((s1.found c).trap w c)) ∧
    (∀ h img, f % 512 = 0 → s1.readImage who f = .ok (h, img) → h.ok = false → s1.warp? w.id = some w →
      ∃ t, exec i s = .next t ∧ t.movesOnWith w (longLen x) x.d false 2 ∧ t.groups = s1.groups ∧ t.cores = s1.cores ∧ s1.sameBytes t)) ∧
  (∀ (s s1 : State) (w : Warp) (x : LongOp) (h : Header) (img : List Byte), s.issues w 0xE3 x → w.acts x.g = true → w.id.core = 16 →
    w.regsOk = true →
    let f := (w.src x.lit .d64 x.a 0).toNat
    let c : CoreId := ⟨w.id.die, h.core⟩
    let who : Who := { (s.grp w).whoIs with asid := 0 }
    let status (t : State) (z : Word) : Prop := t.movesOnWith w (longLen x) x.d false (z.setWidth 64)
    s1 = s.imageHome who f → s1.warp? w.id = some w → f % 512 = 0 → s1.readImage who f = .ok (h, img) → h.ok = true →
    let answers (z : Word) : Prop :=
      ∃ t, exec (.tretRes x) s = .next t ∧ status t z ∧ t.groups = s1.groups ∧ s1.sameBytes t
    (s1.group? c h.slot = none →
      (∃ t, exec (.tretKill x) s = .next t ∧ status t 0x80000000 ∧ t.groups = s1.groups) ∧
      (s1.dieWing c.die ≠ h.wing → answers 2) ∧
      (s1.dieWing c.die = h.wing →
        placeWarps (lanesOf c) (s1.core c).place h.res.vregs (s1.occupied c) (List.range h.nwarps) = none → answers 1)) ∧
    (∀ g, s1.group? c h.slot = some g →
      let killed := s1.killGroup g none
      let recs := cutEvery (warpSize h.res.vregs) h.nwarps (img.drop 256)
      let room := s1.refit c h.res (recs.map fun b => bytesNat b 2 1)
      (exec (.tretKill x) s = .next ((killed.modWarp w.id fun u => u.writeS x.d 0x80000000).retireAt w.id (longLen x) 1) ∧
        killed.group? c h.slot = none) ∧
      (g.resident = true → answers 1) ∧
      (g.resident = false → s1.dieWing c.die ≠ g.wing → answers 2) ∧
      (g.resident = false → s1.dieWing c.die = g.wing → room = none → answers 1) ∧
      (∀ base ws, g.resident = false → s1.dieWing c.die = g.wing → room = some base → s1.restoreWarps g h.res recs = .ok ws →
        ∃ t g', exec (.tretRes x) s = .next t ∧ status t (0x80000000 ||| BitVec.ofNat 32 h.slot) ∧ t.group? c h.slot = some g' ∧
          g'.phase = .running ∧ g'.res = h.res ∧ g'.spmBase = base ∧ g'.wptr = h.wptr ∧ g'.nextb = h.nextb ∧
          g'.batchDone = BitVec.ofNat 16 h.done ∧ g'.reserved = [] ∧ g'.asid = g.asid ∧ g'.wing = g.wing ∧
          g'.ctrs = (List.range h.res.counters).map (fun k => BitVec.ofNat 64 (bytesNat img (256 + h.nwarps * warpSize h.res.vregs + 8 * k) 8)) ∧
          ∀ v ∈ ws, ∃ v' ∈ t.warps, v'.id = v.id ∧ v'.grp = h.slot ∧ v'.v = v.v ∧ v'.q = v.q ∧ v'.lr = v.lr ∧ v'.s = v.s ∧ v'.p = v.p ∧
            v'.k = v.k ∧ v'.exec = v.exec ∧ v'.fflags = v.fflags ∧ v'.privbase = v.privbase)))

/-! ### The steps of the machine's other agents -/

/-- R71, R72, R73, R78, R347: a fetched block joins the instruction buffer, or its failed access traps at the running split; a walk starts at ROOT
or at a cached pointer, goes on to the next table, installs its leaf or fails for its warp, and starts again under a newer generation; a format
entry is judged and cached. R99, R100, R101: a quad's port grants the next lane in turn, and a window closes once nothing can join it: its accesses
then stand in one request for each line or row that they touch. R117, R118: a scratchpad row's store lands, and its load takes its bytes, zeros
beyond the allocation. What then moves on at the core is `settle`. R343, R344, R361: ROT demotes as YIELD does, unless the spill area faults,
and a sleep ends. What a fetch or a walk that memory refuses gives is the model's (log 43). -/
def Obligations.CoreSteps : Prop :=
  (∀ (s : State) (id : WarpId) (w : Warp) (base : Nat) (e : Ecc), s.warp? id = some w → w.fetching = some base →
    let w1 : Warp := { w with fetching := none, fails := w.fails.filter fun f => !sameFrame f.va base }
    let found := s.lookup w (s.grp w) .fetch base
    (found = .miss →
      exec (.fetchBlockReturn id e) s =
        .next (if ((s.die id.die).walks.any fun k => k.warp == id && sameFrame k.va base) = true then s else s.startWalks w (s.grp w) [base])) ∧
    (∀ f, found = .fail f →
      exec (.fetchBlockReturn id e) s =
        .next ((s.setWarp w1).trap w1 { cls := f.cls, reason := f.reason, va := some (max base w.pc), aux := f.aux })) ∧
    ∀ l, found = .hit l →
      let pa := l.pa base
      let k := s.homeCheck e pa 64
      (∀ aux, (s.memDown pa = true ∧ aux = auxOf pa 0 ∨ s.memDown pa = false ∧ k.aux = some aux) →
        exec (.fetchBlockReturn id e) s = .next (((s.setWarp w1).checked l.wg k).trap w1 { cls := 0, aux := aux })) ∧
      (s.memDown pa = false → e = .good →
        exec (.fetchBlockReturn id e) s =
          .next (s.setWarp { w1 with ibufs := ⟨base, s.devBytes pa 64⟩ :: w.ibufs.filter fun b => b.base + 64 == base }))) ∧
  (∀ (s : State) (c : CoreId) (q j : Nat) (o : Outst), s.hasCore c →
    let k := s.core c
    let turn (i : Nat) : Nat := ((k.ports.getD q (3, 3, 3)).1 + 1 + i) % 4
    q < k.ports.length → j < 4 → (∀ i, i < j → k.laneHead s.clk (4 * q + turn i) = none) → k.laneHead s.clk (4 * q + turn j) = some o →
    let t := s.grantQuad c q
    ((t.core c).ports.getD q (3, 3, 3)).1 = turn j ∧ s.sameBytes t ∧ t.warps = s.warps ∧
    ∀ r ∈ k.reqs,
      (r ∈ k.nextAccess o → ∃ n opened, s.clk ≤ opened + 7 ∧ { r with stage := .window n opened } ∈ (t.core c).reqs) ∧
      ((∀ a ∈ k.nextAccess o, a.rid ≠ r.rid) → r ∈ (t.core c).reqs)) ∧
  (∀ (k : Core) (clk : Nat),
    let past (r : Req) (n opened : Nat) : Prop :=
      opened + 7 < clk ∨ k.inLane r.iid = false ∨ ∃ q ∈ k.reqs, q.iid = r.iid ∧ ∃ m p, q.stage = .window m p ∧ n < m
    (∀ iid n, k.closing clk = some (iid, n) →
      k.closeFits iid n = true ∧ ∃ r ∈ k.reqs, r.iid = iid ∧ ∃ opened, r.stage = .window n opened ∧ past r n opened) ∧
    (k.closing clk = none → ∀ r ∈ k.reqs, ∀ n opened, r.stage = .window n opened → past r n opened → k.closeFits r.iid n = false) ∧
    ∀ lane o, k.laneHead clk lane = some o →
      o ∈ k.outst ∧ o.warp.lane = lane ∧ k.inLane o.iid = true ∧ o.leaves ≤ clk ∧
      ∀ r ∈ k.reqs, r.iid < o.iid → (k.warpOf r).lane = lane → ∀ n opened, r.stage = .window n opened → past r n opened →
        k.closeFits r.iid n = true) ∧
  (∀ (s : State) (c : CoreId), (s.core c).closing s.clk = none → exec (.coalescingWindowClose c) s = .next s) ∧
  (∀ (s : State) (c : CoreId) (iid n : Nat) (o : Outst), s.hasCore c → (s.core c).closing s.clk = some (iid, n) →
    (s.core c).outst.find? (fun x => x.iid == iid) = some o →
    ((s.core c).reqs.map Req.rid).Nodup →
    let mine := (s.core c).reqs.filter (·.inWindow iid n)
    let unit := if o.shape = .line then 128 else 16
    (∀ r ∈ mine, r.pieces.length = 1) →
    ∃ u, exec (.coalescingWindowClose c) s = .next (u.settle c) ∧ (∀ d, d ≠ c → u.core d = s.core d) ∧ u.warps = s.warps ∧ s.sameBytes u ∧
      let now := (u.core c).reqs
      let formed (q : Req) : Prop :=
        q ∈ now ∧ q.iid = iid ∧ q.stage = (if q.spm = true then .bank s.clk else .waiting) ∧ ∃ r ∈ mine, r.rid = q.rid
      (∀ r ∈ (s.core c).reqs, r.inWindow iid n = false → r ∈ now) ∧
      (∀ q ∈ now, (q ∈ (s.core c).reqs ∧ q.inWindow iid n = false) ∨ formed q) ∧
      (∀ r ∈ mine, ∀ p ∈ r.pieces, ∃ q, formed q ∧ p ∈ q.pieces) ∧
      (∀ q, formed q → ∀ p ∈ q.pieces, ∃ r ∈ mine, p ∈ r.pieces) ∧
      (o.shape ≠ .single → ∀ q q', formed q → formed q' → ∀ p ∈ q.pieces, ∀ p' ∈ q'.pieces, (p.va / unit = p'.va / unit ↔ q = q')) ∧
      ∃ l : List Req, l.Nodup ∧ (∀ q, q ∈ l ↔ formed q) ∧
        (u.core c).outst.find? (fun x => x.iid == iid) = some { o with left := o.left - (mine.length - l.length) }) ∧
  (∀ (s : State) (r : Req), s.memOk = true → s.hasCore r.core →
    (r.kind = .store → ∀ a,
      (s.spmServe r).spmByte r.core a =
        match r.pieces.reverse.find? fun p => p.pa != spmBeyond && p.pa ≤ a && a < p.pa + p.data.length with
        | some p => p.data.getD (a - p.pa) 0
        | none => s.spmByte r.core a) ∧
    (r.kind ≠ .store → ∀ q, s.req? r.core r.rid = some q →
      (s.spmServe r).req? r.core r.rid =
        some { q with
          stage := .ready
          pieces := q.pieces.map fun p =>
            { p with data := if p.pa = spmBeyond then List.replicate p.len 0 else s.spmBytes r.core p.pa p.len } })) ∧
  (∀ (s : State) (die n : Nat) (k : Walk) (e : Ecc), (s.die die).walks[n]? = some k → n < 64 →
    let d := s.desc k.asid
    let pa := k.table + 8 * walkIndex k.level k.va
    let found := s.entryCheck k.asid d.wg k.level (s.devNat pa 8)
    let c := s.homeCheck e pa 8
    (s.genOf k.core k.asid ≠ k.gen →
      exec (.walkEntryRead die n e) s = .next ((s.setWalk die n none).startWalk k.core k.warp k.asid k.va)) ∧
    (s.genOf k.core k.asid = k.gen →
      (∀ aux, (s.memDown pa = true ∧ aux = auxOf pa 0 ∨ s.memDown pa = false ∧ c.aux = some aux) →
        exec (.walkEntryRead die n e) s = .next (((s.checked d.wg c).setWalk die n none).walkFailed k.warp ⟨k.va, 0, 0x10, aux⟩)) ∧
      (s.memDown pa = false → e = .good →
        (∀ r, found = .fail r → exec (.walkEntryRead die n e) s = .next ((s.setWalk die n none).walkFailed k.warp ⟨k.va, 1, r, 0⟩)) ∧
        (∀ t, found = .table t →
          exec (.walkEntryRead die n e) s =
            .next (s.setWalk die n (some { k with
              level := k.level + 1, table := t
              ptrs := ⟨k.asid, k.gen, k.level + 1, tableVA (k.level + 1) k.va, t⟩ :: k.ptrs }))) ∧
        ∀ l, found = .leaf l →
          exec (.walkEntryRead die n e) s =
            .next (((s.setWalk die n none).modDie die (·.keepPtrs k)).modCore k.core
              (·.tlbPut ⟨k.asid, k.gen, k.va / l.size * l.size, l⟩))))) ∧
  (∀ (s : State) (c : CoreId) (id : WarpId) (asid va : Nat),
    let d := s.desc asid
    let t := s.startWalk c id asid va
    let old := (s.die c.die).walks
    let failed (f : WalkFail) : Prop :=
      (t.die c.die).walks = old ∧ ∀ w, s.warp? id = some w → t.warp? id = some { w with fails := w.fails ++ [f] }
    ((s.die c.die).ptrs = [] →
      (s.memDown (s.descPA asid) = true → failed ⟨va, 0, 0x10, auxOf (s.descPA asid) 0⟩) ∧
      (∀ e ∈ s.tableErrs, s.memDown (s.descPA asid) = false → e.1 = s.descPA asid / 16 * 16 → (∀ o ∈ s.tableErrs, o.1 = e.1 → o = e) →
        s.l2Line? (lineOf (s.descPA asid)) = none → failed ⟨va, 0, 0x10, auxOf (s.descPA asid) e.2⟩) ∧
      (s.memDown (s.descPA asid) = false → s.tableErrs = [] → s.tableOk asid d.wg d.root = false → failed ⟨va, 1, 0x04, 0⟩) ∧
      (s.memDown (s.descPA asid) = false → s.tableErrs = [] → s.tableOk asid d.wg d.root = true → (∃ x ∈ s.dies, x.id = c.die) →
        (t.die c.die).walks = old ++ [⟨c, id, asid, s.genOf c asid, va, 0, d.root, []⟩])) ∧
    ∀ k, (t.die c.die).walks = old ++ [k] →
      (k.level = 0 ∧ k.table = d.root) ∨
      ∃ p ∈ (s.die c.die).ptrs, p.asid = asid ∧ p.gen = s.genOf c asid ∧ p.va = tableVA p.level va ∧ p.level = k.level ∧ p.table = k.table) ∧
  (∀ (s : State) (asid wg level e : Nat),
    (e % 2 = 0 → s.entryCheck asid wg level e = .fail 0x01) ∧
    (∀ l, s.entryCheck asid wg level e = .leaf l →
      e % 2 = 1 ∧ l.base = e / 2 ^ 8 % 2 ^ 40 * 256 ∧ l.base % l.size = 0 ∧ paMappable l.base = true ∧ l.wg = e / 2 ^ 60 % 16 ∧
      l.fmt = e / 2 ^ 56 % 16 ∧ l.cp = e / 2 ^ 52 % 4 ∧ l.cp ≠ 3 ∧ l.sys = e.testBit 4 ∧ l.x = e.testBit 3 ∧ l.ro = e.testBit 2)) ∧
  (∀ (s : State) (c : CoreId) (r : FmtRead) (rest : List FmtRead) (e : Ecc), (s.core c).fmtReads = r :: rest →
    let done (k : Core) : Core := { k with fmtReads := k.fmtReads.filter fun x => !(x.asid == r.asid && x.idx == r.idx) }
    let put (k : Core) (f : Option Fmt) : Core := { done k with fmts := ⟨r.asid, s.genOf c r.asid, r.idx, f⟩ :: k.fmts }
    (s.fmtEntryPA r.asid r.idx = none → exec (.formatEntryRead c e) s = .next (s.modCore c (put · none))) ∧
    ∀ pa, s.fmtEntryPA r.asid r.idx = some pa →
      let k := s.homeCheck e pa 32
      (∀ aux, (s.memDown pa = true ∧ aux = auxOf pa 0 ∨ s.memDown pa = false ∧ k.aux = some aux) →
        exec (.formatEntryRead c e) s =
          .next (((s.checked (s.desc r.asid).wg k).modCore c done).walkFailed r.warp ⟨2 ^ 64, 0, 0, aux⟩)) ∧
      (s.memDown pa = false → e = .good → exec (.formatEntryRead c e) s = .next (s.modCore c (put · (s.fmtNow r.asid r.idx))))) ∧
  (∀ (s : State) (id : WarpId) (w : Warp) (p : Split), s.warp? id = some w → w.running = some p →
    let due := 4096 ≤ p.rot ∧ ∃ q ∈ w.splits, q.st = .ready
    let l := (w.demote 0).splits
    (due → s.splitsFit w l → ∃ t w', exec (.rotDemotion id) s = .next t ∧ t.warp? id = some w' ∧ w.sameRegs w' ∧ w'.splits = l ∧
      ∀ j, j ≠ id → t.warp? j = s.warp? j) ∧
    (∀ c, due → s.spillFault w (s.grp w) (w.splits.map (·.mask)) (l.map (·.mask)) = some c → exec (.rotDemotion id) s = .next (s.trap w c)) ∧
    (¬ due → ∃ t, exec (.rotDemotion id) s = .next t ∧ ∀ j, t.warp? j = s.warp? j)) ∧
  ∀ (s : State) (id : WarpId) (w : Warp), s.warp? id = some w →
    ∃ t w', exec (.sleepExpiry id) s = .next t ∧ t.warp? id = some w' ∧ w.sameRegs w' ∧ (∀ j, j ≠ id → t.warp? j = s.warp? j) ∧
      ∀ (k n : Nat) (p : Split), w.splits[k]? = some p → p.st = .blocked (.sleep n) →
        (n ≤ s.clk → ∃ q, w'.splits[k]? = some q ∧ (q.st = .ready ∨ q.st = .running) ∧ q.pc = p.pc ∧ q.mask = p.mask) ∧
        (s.clk < n → w'.splits[k]? = some p)

/-- R42, R95, R96, R98, R105, R106, R108, R109, R110, R112, R293: a returned line fills the pieces of its request, under what the L1 holds and
the dirty bytes that have left it since; data that have come are written to the destination of the threads whose bytes are complete; an atomic's old value goes to its thread; an
acknowledgement advances SEQ; and an instruction leaves its count with its last request. Of an element of 8 or 16 bytes each word is written as
its last byte comes, and of several sectors one at a time. A combining entry leaves at 1,024 lane cycles. A probed core answers with a copy of its line if it holds every sector clean
and has no store to the line on its way; a refusal, or a copy that an order has overtaken, sends the read home, once its tag is free. A promoted core sends its buffer and its dirty
bytes. Which copy answers a probe, and what a read that keeps dirty bytes fills, is the model's (log 6). -/
def Obligations.CoreReturns : Prop :=
  (∀ (s : State) (pid : Nat) (p : Packet) (r : Req), s.returned? pid = some (p, r) → r.core = p.core → s.hasCore r.core →
    r.kind = .load → ((s.core r.core).reqs.map Req.rid).Nodup →
    (∀ l, (s.core r.core).l1Line? (l1Set r.vaLine) r.line = some l → l.ro = r.ro) →
    (p.fault = false →
      ∃ (u : State) (q : Req), exec (.l1FillReturn pid) s = .next (u.settle r.core) ∧ u.req? r.core r.rid = some q ∧ q.stage = .ready ∧ q.iid = r.iid ∧
        q.pieces = fillPieces r.pieces (overlay (if r.acq then none else (s.core r.core).l1Line? (l1Set r.vaLine) r.line) (r.patch p.data))) ∧
    (p.fault = true →
      exec (.l1FillReturn pid) s = .next (((s.dropPacket pid).fillFault r p.value).settle r.core))) ∧
  (∀ (s : State) (c : CoreId) (rid : Nat) (r : Req) (o : Outst) (w : Warp) (n : Nat) (sg : Bool) (d : Fin 192),
    s.req? c rid = some r → r.stage = .ready → r.core = c → s.hasCore c → (s.core c).outst.find? (fun x => x.iid == r.iid) = some o →
    o.form = .plain n sg → n ≤ 4 → o.dst = .v d → s.warp? o.warp = some w → d.val < w.v.length → r.sectors.length ≤ 1 →
    ∃ (u : State) (w' : Warp), exec (.loadDataReturn c rid) s = .next ((u.endReq r).settle c) ∧ u.warp? o.warp = some w' ∧
      (∀ t, t < 32 → (w'.getV d.val).get t =
        match if r.pieces.any fun p => p.thread == t then gotBytes (o.got ++ r.pieces) t n else none with
        | some bs => extendLoad n sg bs
        | none => (w.getV d.val).get t) ∧
      ∀ m, m ≠ d.val → ∀ t, (w'.getV m).get t = (w.getV m).get t) ∧
  (∀ (s : State) (c : CoreId) (rid : Nat) (r : Req) (o : Outst) (w : Warp) (n : Nat) (sg : Bool) (d : Fin 192),
    s.req? c rid = some r → r.stage = .ready → r.core = c → s.hasCore c → (s.core c).outst.find? (fun x => x.iid == r.iid) = some o →
    o.form = .plain n sg → n = 8 ∨ n = 16 → o.dst = .v d → s.warp? o.warp = some w → d.val + n / 4 ≤ w.v.length →
    r.sectors.length ≤ 1 →
    ∃ (u : State) (w' : Warp), exec (.loadDataReturn c rid) s = .next ((u.endReq r).settle c) ∧ u.warp? o.warp = some w' ∧
      (∀ i, i < n / 4 → ∀ t, t < 32 → (w'.getV (d.val + i)).get t =
        match if r.pieces.any fun p => p.thread == t then (gotFrom o.got t (4 * i) 4, gotFrom (o.got ++ r.pieces) t (4 * i) 4)
          else (none, none) with
        | (none, some bs) => BitVec.ofNat 32 (leNat bs)
        | _ => (w.getV (d.val + i)).get t) ∧
      ∀ m, (m < d.val ∨ d.val + n / 4 ≤ m) → ∀ t, (w'.getV m).get t = (w.getV m).get t) ∧
  (∀ (s : State) (c : CoreId) (rid : Nat) (r : Req) (o : Outst) (w : Warp) (n : Nat) (sg : Bool) (d : Fin 192),
    s.req? c rid = some r → r.stage = .ready → r.core = c → s.hasCore c → (s.core c).outst.find? (fun x => x.iid == r.iid) = some o →
    o.form = .plain n sg → n ≤ 4 → o.dst = .v d → s.warp? o.warp = some w → d.val < w.v.length → 1 < r.sectors.length →
    ((s.core c).reqs.map Req.rid).Nodup →
    ∃ i ∈ r.sectors, ∃ t w', exec (.loadDataReturn c rid) s = .next t ∧ t.warp? o.warp = some w' ∧
      t.req? c rid = some { r with pieces := r.inSectors (· != i) } ∧
      ∀ u, u < 32 → (w'.getV d.val).get u =
        match if (r.inSectors (· == i)).any fun p => p.thread == u then gotBytes (o.got ++ r.inSectors (· == i)) u n else none with
        | some bs => extendLoad n sg bs
        | none => (w.getV d.val).get u) ∧
  (∀ (s : State) (pid : Nat) (p : Packet) (r : Req) (op : AOp) (ty : Ty) (z : DWord) (o : Outst) (w : Warp) (e : Piece) (d : Fin 192),
    s.returned? pid = some (p, r) → r.core = p.core → s.hasCore r.core → r.kind = .atom op ty z true → r.stage = .fabric pid →
    p.fault = false → (s.core r.core).outst.find? (fun x => x.iid == r.iid) = some o → o.form = .atom 4 → o.got = [] → o.dst = .v d →
    r.pieces = [e] → e.off = 0 → e.len = 4 → s.warp? o.warp = some w → d.val < w.v.length →
    ∃ (u : State) (w' : Warp), exec (.loadDataReturn r.core r.rid) s = .next ((u.endReq r).settle r.core) ∧ u.warp? o.warp = some w' ∧ w'.lr = w.lr ∧
      ∀ t, t < 32 → (w'.getV d.val).get t = if t = e.thread then p.value.lo else (w.getV d.val).get t) ∧
  (∀ (s : State) (pid : Nat) (p : Packet) (r : Req), s.returned? pid = some (p, r) →
    (r.kind = .store ∨ ∃ op ty z, r.kind = .atom op ty z false) →
    let u := (s.dropPacket pid).modCore r.core fun k => { k with seq := k.seq + 1 }
    (p.fault = false → exec (.storeAck pid) s = .next ((u.endReq r).settle r.core)) ∧
    (p.fault = true → exec (.storeAck pid) s = .next (((u.machineCheck r p.value).endReq r).settle r.core))) ∧
  (∀ (s : State) (r : Req) (o : Outst) (w : Warp), s.hasCore r.core → (s.core r.core).outst.find? (fun x => x.iid == r.iid) = some o →
    s.warp? o.warp = some w →
    (o.left ≤ 1 →
      ∃ w', (s.endReq r).warp? o.warp = some w' ∧ w'.gld = w.gld - (if o.cls = .gld then 1 else 0) ∧
        w'.gst = w.gst - (if o.cls = .gst then 1 else 0) ∧ w'.spm = w.spm - (if o.cls = .spm then 1 else 0) ∧
        ∀ x ∈ ((s.endReq r).core r.core).outst, x.iid ≠ r.iid) ∧
    (1 < o.left → (s.endReq r).warp? o.warp = some w)) ∧
  (∀ (s : State) (c : CoreId), s.hasCore c →
    ∃ t, exec (.combiningEntryAge c) s = .next t ∧
      (∀ e ∈ (t.core c).comb, e ∈ (s.core c).comb ∧ s.clk < e.born + 1024) ∧
      ∀ e ∈ (s.core c).comb, (∀ o ∈ (s.core c).comb, o.pa = e.pa → s.clk < o.born + 1024) → e ∈ (t.core c).comb) ∧
  (∀ (s : State) (c : CoreId) (rid : Nat) (r : Req) (n : Nat), s.req? c rid = some r → r.stage = .probe n →
    let peer := s.core ⟨r.core.die, n⟩
    let answers (a : Option (List Byte)) : Prop :=
      exec (.peerProbe c rid) s = .next (s.modReq c rid fun q => { q with stage := .probed a })
    let up := peer.fenced = false ∧ (s.die r.core.die).coreDom = .running
    ((¬ up ∨ ∀ l ∈ peer.l1, l.line ≠ r.line) → answers none) ∧
    (∀ l, up → peer.l1.find? (fun l => l.line == r.line) = some l →
      let full := (∀ i ∈ s.askedSectors r, ∀ j, j < 32 →
          (l.bytes.getD (32 * i + j) l1Invalid).valid = true ∧ (l.bytes.getD (32 * i + j) l1Invalid).dirty = none) ∧
        ∀ q ∈ peer.reqs, q.line = r.line → q.writes = false
      (full → answers (some (l.bytes.map (·.val)))) ∧ (¬ full → answers none))) ∧
  (∀ (s : State) (c : CoreId) (rid : Nat) (r : Req), s.req? c rid = some r →
    let refused : Prop := r.stage = .probed none ∨ r.stale = true ∧ ∃ d, r.stage = .probed (some d)
    (∀ d, r.stage = .probed (some d) → r.stale = false →
      exec (.peerProbeAnswer c rid) s = .next ((s.fill r (s.askedSectors r) d none).settle c)) ∧
    (refused → (s.core r.core).seqHeld = true → exec (.peerProbeAnswer c rid) s = .next s) ∧
    (refused → (s.core r.core).seqHeld = false →
      ∃ t p, exec (.peerProbeAnswer c rid) s = .next t ∧ t.packets = s.packets ++ [p] ∧ p.pid = s.names ∧ p.core = r.core ∧
        p.rid = r.rid ∧ p.resp = false ∧ p.smask = r.smask ∧ p.die = s.homeDie r.line ∧ p.router = homeRouter r.line ∧
        p.loc = injectLoc r.core.die (routerOf r.core) p.die p.router)) ∧
  ∀ (s : State) (c issuer : CoreId), s.hasCore c → s.hasCore issuer → (∃ p ∈ (s.core issuer).promotes, c ∈ p.left) →
    ∃ t, exec (.promotionRequest c issuer) s = .next t ∧ (t.core c).comb = [] ∧
      (∀ l ∈ (t.core c).l1, l.priv = none → ∀ b ∈ l.bytes, b.dirty = none) ∧
      ∀ p ∈ (t.core issuer).promotes, c ∉ p.left ∧ p.left ≠ []

/-- R80, R81, R85 to R93, R97, R405, R415: a packet crosses its straight segment, x first, is ejected at its router, and takes up a newer read of
its line; it comes down to its tile where the port has a buffer free, and crosses between tiles in a slot of its wing, the docent's in a
maintenance slot, where the next tile has a buffer free, and is up in another die 26 lane cycles, 20 ticks, later at the soonest (R339); the
wheel turns by one slot, takes a new set of owners at slot 0, and queued error
reports leave at a maintenance slot. A core that receives a raise drops the entries of older generations and acknowledges; a raise is over once
all have, and what each had translated before is done, its combining buffer's REDs among it; the dirty bytes of every L1 go home with it. That all queued reports leave at the slot's start is the
model's choice (log 25). -/
def Obligations.FabricSteps : Prop :=
  (∀ (s : State) (pid g d r : Nat) (merge : Bool) (p : Packet), s.packet? pid = some p → p.loc = .mesh d r →
    (∀ b, merge = true → s.packets.find? (s.mayMerge p) = some b →
      ∃ t, exec (.meshHop pid g merge) s = .next t ∧
        t.packet? pid = some { p with merged := p.merged ++ [(b.core, b.rid)], smask := p.smask ||| b.smask } ∧
        t.packet? b.pid = none ∧
        t.req? b.core b.rid = (s.req? b.core b.rid).map fun (q : Req) => { q with stage := .fabric pid }) ∧
    ((merge = true → s.packets.find? (s.mayMerge p) = none) →
      let goes (l : Loc) : Prop := exec (.meshHop pid g merge) s = .next (s.modPacket pid fun q => { q with loc := l })
      let x := r % 8
      let y := r / 8
      let dx := p.router % 8
      let dy := p.router / 8
      (r = p.router → ∃ t, exec (.meshHop pid g merge) s = .next t ∧ (∀ j, j ≠ pid → t.packet? j = s.packet? j) ∧
        t.packet? pid = some { p with loc := .home, arrived := s.names }) ∧
      (0 < g → g ≤ dx - x → goes (.mesh d (r + g))) ∧
      (0 < g → g ≤ x - dx → goes (.mesh d (r - g))) ∧
      (x = dx → 0 < g → g ≤ dy - y → goes (.mesh d (r + 8 * g))) ∧
      (x = dx → 0 < g → g ≤ y - dy → goes (.mesh d (r - 8 * g))))) ∧
  (∀ (s : State) (pid n : Nat) (p : Packet), s.packet? pid = some p → p.loc = .tile n →
    let own := s.slotKind s.docent.wheelSlot = (1, p.wing) ∧ s.time % 32 ≤ 24 ∧ s.slotNow = s.docent.wheelSlot
    let upkeep := (s.slotKind s.docent.wheelSlot).1 = 2 ∧ s.slotNow = s.docent.wheelSlot
    let goal := 5 * (p.die / 3) + p.die % 3 + 1
    let next := if n % 5 < goal % 5 then n + 1 else if goal % 5 < n % 5 then n - 1 else if n / 5 < goal / 5 then n + 5 else n - 5
    let room := (s.packets.filter fun q => q.loc == .tile next && q.via == n && q.wing == p.wing && q.cls == p.cls).length < 8
    p.die < 9 →
    (n = goal → s.clk < p.due → exec (.interposerLinkCrossing pid) s = .next s) ∧
    (n = goal → p.due ≤ s.clk → ∃ t, exec (.interposerLinkCrossing pid) s = .next t ∧ (∀ j, j ≠ pid → t.packet? j = s.packet? j) ∧
      t.packet? pid = some { p with loc := .home, arrived := s.names }) ∧
    (n ≠ goal → (if p.sys then upkeep else own) → room →
      exec (.interposerLinkCrossing pid) s = .next (s.modPacket pid fun q => { q with loc := .tile next, via := n })) ∧
    (n ≠ goal → ¬ ((if p.sys then upkeep else own) ∧ room) → exec (.interposerLinkCrossing pid) s = .next s)) ∧
  (∀ (s : State) (pid : Nat) (p : Packet), s.packet? pid = some p → p.loc = .edge →
    let room := (s.packets.filter fun q => q.loc == .tile p.via && q.via == p.via && q.wing == p.wing && q.cls == p.cls).length < 8
    (room → exec (.interposerLinkCrossing pid) s =
      .next (s.modPacket pid fun q => { q with loc := .tile p.via, due := if p.via = p.endTile then 0 else s.clk + 26 })) ∧
    (¬ room → exec (.interposerLinkCrossing pid) s = .next s)) ∧
  (∀ s : State,
    let n := (s.docent.wheelSlot + 1) % 64
    (s.slotNow = s.docent.wheelSlot → exec .slotBoundary s = .next s) ∧
    (s.slotNow ≠ s.docent.wheelSlot → ∃ t, exec .slotBoundary s = .next t ∧ t.docent.wheelSlot = n ∧
      (n ≠ 0 → t.docent.wheel = s.docent.wheel ∧ t.docent.wheelNext = s.docent.wheelNext) ∧
      (n = 0 → t.docent.wheel = s.docent.wheelNext.getD s.docent.wheel ∧ t.docent.wheelNext = none) ∧ (∀ k ∈ t.hbms, k.maint = none) ∧
      ((t.slotKind n).1 ≠ 2 → t.wings = s.wings ∧ t.out = s.out ∧ t.docent.opReports = s.docent.opReports) ∧
      ((t.slotKind n).1 = 2 →
        t.docent.opReports = [] ∧ (∀ w ∈ t.wings, w.reports = []) ∧
        (∀ w ∈ s.wings, ∀ k r, w.reports[k]? = some r → .errrep w.id (w.outSeq + 1 + k) (if k = 0 then w.lost else 0) r ∈ t.out) ∧
        ∀ k r, s.docent.opReports[k]? = some r →
          .errrep 15 (s.docent.opOut + 1 + k) (if k = 0 then s.docent.opLost else 0) r ∈ t.out))) ∧
  (∀ (s : State) (c : CoreId),
    ∃ t, exec (.generationBroadcast c) s = .next t ∧ t.raises.length = s.raises.length ∧ (∀ r ∈ t.raises, c ∉ r.left) ∧
      (∀ k, k ≠ c → t.core k = s.core k) ∧
      (∀ (j : Nat) (r : Raise), s.raises[j]? = some r → ∃ r', t.raises[j]? = some r' ∧ r'.asid = r.asid ∧ r'.gen = r.gen ∧
        r'.left = r.left.filter (· != c) ∧ (c ∉ r.left → r' = r) ∧
        (c ∈ r.left → r'.combs = r.combs ++ [(c, s.clk)] ∧
          ∀ x ∈ (s.core c).reqs, (s.core c).asidOf x = some r.asid → (c, x.rid) ∈ r'.older)) ∧
      (∀ r ∈ s.raises, c ∈ r.left →
        (∀ e ∈ (t.core c).tlb, e.asid = r.asid → r.wrapped = false ∧ e.gen = r.gen) ∧
        ∀ e ∈ (t.core c).fmts, e.asid = r.asid → r.wrapped = false ∧ e.gen = r.gen) ∧
      ∀ e ∈ (s.core c).tlb, (∀ r ∈ s.raises, c ∈ r.left → r.asid ≠ e.asid) → e ∈ (t.core c).tlb) ∧
  ∀ s : State,
    let ended (r : Raise) : Prop :=
      r.left = [] ∧ (∀ o ∈ r.older, s.req? o.1 o.2 = none) ∧ ∀ o ∈ r.combs, ∀ e ∈ (s.core o.1).comb, o.2 < e.born
    ((∀ r ∈ s.raises, ¬ ended r) → exec .generationRaiseComplete s = .next s) ∧
    ∀ (k : Nat) (r : Raise), s.raises[k]? = some r → ended r → (∀ j q, j < k → s.raises[j]? = some q → ¬ ended q) →
      ∃ t, exec .generationRaiseComplete s = .next t ∧ t.raises = s.raises.eraseIdx k ∧ t.warps = s.warps ∧
        (∀ c, ∀ l ∈ (t.core c).l1, ∀ b ∈ l.bytes, b.dirty = none) ∧
        (r.ccp = none → t.out = s.out) ∧ ∀ w n, r.ccp = some (w, n) → t.out = .reply w n 0 [] :: s.out

/-- R94, R95, R105, R294, R296, R297, R303 to R308, R421, R422: a home slice answers a read of what it holds, asks memory for the rest, merges a store
under write-back and passes on one under write-through; an atomic unit performs its instruction's run on the word in ascending order of thread, and
answers the old value, and the runs that reach a slice's unit are served in the order in which they came, a run with its last request
(log 8). FP32 add rounds to nearest, and min and max order -0 below +0. A CWAIT whose counter has come is answered, another is monitored
or told to retry, and is sent again 64 lane cycles later; one that its home refuses takes class 0 at its instruction. A home that is bypassed, or whose memory is fenced or revoked, refuses. -/
def Obligations.HomeSteps : Prop :=
  (∀ (s : State) (pid : Nat) (p : Packet) (r : Req), s.packet? pid = some p → p.resp = false → p.waiting = false → p.loc = .home →
    s.req? p.core p.rid = some r →
    let answered (t : State) (f : Packet → Prop) : Prop :=
      ∃ q, t.packet? pid = some q ∧ q.resp = true ∧ q.waiting = false ∧ q.core = p.core ∧ q.rid = p.rid ∧ q.die = p.core.die ∧
        q.router = routerOf p.core ∧ f q
    let refused (i : Instr) (pa : Nat) : Prop :=
      ∃ t, exec i s = .next t ∧ t.mem = s.mem ∧ t.l2 = s.l2 ∧ answered t fun q => q.fault = true ∧ q.value = auxOf pa 0
    let asks (i : Instr) : Prop :=
      ∃ q, exec i s = .next ((s.enqueueMem r.line q).modPacket pid fun x => { x with waiting := true }) ∧ q.kind = 0 ∧
        q.src = r.core.die ∧ q.slot = s.slotOf r ∧ q.wg = p.wing ∧ q.line = lineOf (canonPA r.line) ∧ q.ack = some pid ∧
        q.sectors = p.smask ∧ (r.gran ≠ none → isStackPA r.line = true → q.gran = r.gran) ∧
        (r.gran = none → (r.cp ≠ 2 ∨ r.atAtomicUnit = true) → p.merged = [] → s.bypass r.line = false → q.gran = none)
    let down := s.memDown r.line = true
    let aside := s.bypass r.line = true
    let bs := lastBytes r.storeBytes
    let asked := granulesOf r.gran p.smask
    ((r.kind = .load ∨ r.kind = .prefL1 ∨ r.kind = .prefL2) →
      (down → refused (.l2Request pid) r.line) ∧
      (∀ l, ¬ down → ¬ aside → s.l2Line? r.line = some l → (∀ g ∈ asked, l.valid.getD g false = true) →
        ∃ t, exec (.l2Request pid) s = .next t ∧ t.mem = s.mem ∧ answered t fun q => q.data = s.devLine r.line) ∧
      (¬ down → (aside ∨ s.l2Line? r.line = none ∨
          ∃ l, s.l2Line? r.line = some l ∧ ∃ g ∈ asked, l.valid.getD g false = false) → asks (.l2Request pid))) ∧
    (r.kind = .store →
      (down → refused (.l2Request pid) r.line) ∧
      (¬ down → ¬ aside → r.cp = 0 →
        ∃ t l, exec (.l2Request pid) s = .next t ∧ t.mem = s.mem ∧ (answered t fun _ => True) ∧ t.l2Line? r.line = some l ∧
          ∀ c ∈ bs, l.data.getD c.1 0 = c.2) ∧
      (¬ down → (aside ∨ r.cp ≠ 0) →
        exec (.l2Request pid) s = .next ((s.modPacket pid fun x => { x with waiting := true }).l2Through r.core.die (s.slotOf r) p.wing
          r.line (r.cp == 2) bs (some pid)))) ∧
    (r.atAtomicUnit = true →
      ((down ∨ (aside ∧ r.kind ≠ .cread)) → refused (.atomicUnitService pid) r.wordPA) ∧
      (¬ down → aside → r.kind = .cread → asks (.atomicUnitService pid)) ∧
      (¬ down → ¬ aside → (∀ l, s.l2Line? r.line = some l → l.has (r.wordPA % 128) = false) → asks (.atomicUnitService pid)) ∧
      (∀ l, ¬ down → ¬ aside → s.l2Line? r.line = some l → l.has (r.wordPA % 128) = true →
        (((∃ q ∈ s.runOf r, s.atHome q = none) ∨ s.earlier (s.runOf r) r.wordPA = true) → exec (.atomicUnitService pid) s = .next s) ∧
        ((∀ q ∈ s.runOf r, s.atHome q ≠ none) → s.earlier (s.runOf r) r.wordPA = false →
          exec (.atomicUnitService pid) s =
            .next ((s.runOf r).foldl (fun st q => match st.atHome q with | some x => st.atomServe q x | none => st) s))))) ∧
  (∀ (s : State) (run : List Req) (word : Nat), s.earlier run word = true ↔
    ∃ p ∈ s.packets, p.loc = .home ∧ p.resp = false ∧ (∀ m ∈ s.monitors, m.pid ≠ p.pid) ∧
      ∃ q mine before, s.req? p.core p.rid = some q ∧ q.atAtomicUnit = true ∧ s.homeDie q.line = s.homeDie word ∧
        sliceOf q.line = sliceOf word ∧ (∀ x ∈ run, ¬ (x.core = q.core ∧ x.rid = q.rid)) ∧
        s.runArrival run = some mine ∧ s.runArrival (s.runOf q) = some before ∧ before < mine) ∧
  (∀ (s : State) (run : List Req) (n : Nat), run ≠ [] →
    (s.runArrival run = some n ↔
      (∀ q ∈ run, ∃ x, s.arrived? q = some x ∧ x.arrived ≤ n) ∧ ∃ q ∈ run, ∃ x, s.arrived? q = some x ∧ x.arrived = n)) ∧
  (∀ (s : State) (r : Req) (p : Packet), s.packet? p.pid = some p →
    let back (f : Packet → Prop) : Prop := ∃ q, (s.atomServe r p).packet? p.pid = some q ∧ q.resp = true ∧ f q
    (∀ op ty z ret l, r.kind = .atom op ty z ret → s.l2Line? (lineOf r.wordPA) = some l → l.data.length = 128 →
      l.has (r.wordPA % 128) = true →
      let n := if op = .cadd then 8 else ty.bytes
      let old := s.homeWord r.wordPA n
      r.wordPA % n = 0 →
      (back fun q => q.value = old ∧ q.ok = (match op with | .cas cmp => old == cmp | _ => true)) ∧
      ∃ l', (s.atomServe r p).l2Line? (lineOf r.wordPA) = some l' ∧
        ∀ k, k < n → l'.data.getD (r.wordPA % 128 + k) 0 = BitVec.ofNat 8 ((op.apply ty old z).toNat / 256 ^ k)) ∧
    (∀ z, r.kind = .cwait z → z.toNat ≤ s.devNat r.wordPA 8 → back fun q => q.ok = true) ∧
    (∀ z, r.kind = .cwait z → s.devNat r.wordPA 8 < z.toNat →
      let held := (s.monitors.filter fun m => s.homeDie m.pa == p.die && sliceOf m.pa == sliceOf r.wordPA).length
      (held < 32 → (s.atomServe r p).monitors = s.monitors ++ [⟨r.wordPA, z, p.pid⟩] ∧
        (s.atomServe r p).packet? p.pid = some { p with waiting := true }) ∧
      (32 ≤ held → back fun q => q.ok = false)) ∧
    (r.kind = .cread → back fun q => q.value = s.homeWord r.wordPA 8)) ∧
  (∀ old z : DWord,
    let a := old.lo.toNat
    let b := z.lo.toNat
    let nan (x : Nat) : Bool := fp32.isNan x
    let sum := (AOp.add.apply .f32 old z).toNat
    let pick (isMin : Bool) : Nat :=
      if nan a && nan b then 0x7FC00000 else if nan a then b else if nan b then a
      else if decide (fp32.place a < fp32.place b) == isMin then a else b
    ((nan a || nan b || (fp32.isInf a && fp32.isInf b && fp32.neg a != fp32.neg b)) = true → sum = 0x7FC00000) ∧
    (f32Finite a = true → f32Finite b = true → sum < 2 ^ 32 ∧ RoundedTo 0 (f32Units a + f32Units b) 1 sum) ∧
    (AOp.min.apply .f32 old z).toNat = pick true ∧ (AOp.max.apply .f32 old z).toNat = pick false ∧
    (∀ ty, ty = .s32 ∨ ty = .u32 → (AOp.add.apply ty old z).lo = old.lo + z.lo) ∧
    (∀ ty, ty = .s64 ∨ ty = .u64 → AOp.add.apply ty old z = old + z) ∧
    (AOp.min.apply .u32 old z).lo.toNat = min old.lo.toNat z.lo.toNat ∧ (AOp.max.apply .u32 old z).lo.toNat = max old.lo.toNat z.lo.toNat ∧
    (AOp.min.apply .s32 old z).lo.toInt = min old.lo.toInt z.lo.toInt ∧ (AOp.max.apply .s32 old z).lo.toInt = max old.lo.toInt z.lo.toInt ∧
    (AOp.min.apply .u64 old z).toNat = min old.toNat z.toNat ∧ (AOp.max.apply .u64 old z).toNat = max old.toNat z.toNat ∧
    (AOp.min.apply .s64 old z).toInt = min old.toInt z.toInt ∧ (AOp.max.apply .s64 old z).toInt = max old.toInt z.toInt ∧
    (∀ ty cmp, AOp.and.apply ty old z = old &&& z ∧ AOp.or.apply ty old z = old ||| z ∧ AOp.xor.apply ty old z = old ^^^ z ∧
      AOp.exch.apply ty old z = z ∧ (AOp.cas cmp).apply ty old z = (if old = cmp then z else old) ∧
      (AOp.cadd.apply ty old z).toNat = min (old.toNat + z.toNat) (2 ^ 64 - 1))) ∧
  (∀ (s : State) (pid : Nat) (p : Packet) (r : Req) (z : DWord), s.returned? pid = some (p, r) → r.kind = .cwait z →
    let u := s.dropPacket pid
    (p.fault = true → ∀ o, (u.core r.core).outst.find? (fun x => x.iid == r.iid) = some o → s.hasCore r.core →
      ∃ (v : State) (pend : PendTrap), exec (.cwaitAnswer pid) s = .next ((v.endReq r).settle r.core) ∧
        (v.core r.core).stop =
          (match (u.core r.core).stop with | .stopping n l => .stopping n (l ++ [pend]) | _ => .stopping s.clk [pend]) ∧
        pend.trapRec.cls = 0 ∧ pend.trapRec.deferred = false ∧ pend.trapRec.kind = 3 ∧ pend.trapRec.pc = o.pc ∧
        pend.trapRec.aux = p.value) ∧
    (p.fault = false → p.ok = true → exec (.cwaitAnswer pid) s = .next ((u.endReq r).settle r.core)) ∧
    (p.fault = false → p.ok = false →
      exec (.cwaitAnswer pid) s = .next (u.modReq r.core r.rid fun q => { q with stage := .retry (s.clk + 64) }))) ∧
  ∀ (s : State) (c : CoreId) (rid n : Nat) (r : Req), s.req? c rid = some r → r.stage = .retry n →
    (s.clk < n → exec (.cwaitRetry c rid) s = .next s) ∧
    (n ≤ s.clk → ∃ t p, exec (.cwaitRetry c rid) s = .next t ∧ t.packets = s.packets ++ [p] ∧ p.core = r.core ∧ p.rid = r.rid ∧
      p.resp = false ∧ p.die = s.homeDie r.line ∧ p.router = homeRouter r.line)

/-- R28, R31, R32, R34, R37 to R39, R42, R43, R48, R49, R422: a channel serves the oldest request, or, for up to 16 accesses of one group's turn, the
first of that group that no older one blocks, outside maintenance; a buffer serves its oldest. R41: one wrong symbol of a granule is corrected,
and two are noticed. A read is answered with what L2 and memory hold; a full write's
bytes land, and of a masked one the bytes of the unit whose read is uncorrectable are dropped (that its other units are written: log 43). A maintenance slot refreshes and scrubs; refresh that does not fit sets
overflow. A stack halves its intervals above 85 degrees and is fenced above 105; a stack or buffer is fenced after 64 errors in the hour. Banks,
rows and the hashes of a filter are free values of the model (log 8); a buffer's oldest access first is its choice (log 43). -/
def Obligations.MemorySteps : Prop :=
  (∀ (s : State) (n ch k : Nat) (e : Ecc) (q : List MemReq) (turn : Option Turn) (m : MemReq) (t : Turn),
    (s.stack n).chans[ch]? = some ⟨q, turn⟩ → q[k]? = some m →
    let free (j : Nat) (r : MemReq) : Prop := ∀ i x, i < j → q[i]? = some x → r.overlaps x = false
    ((k = 0 ∧ (∀ u, turn = some u → 16 ≤ u.count ∨ ∀ j r, q[j]? = some r → r.ofTurn u = true → ¬ free j r) ∧ t = ⟨m.src, m.slot, 1⟩) ∨
      (∃ u, turn = some u ∧ u.count < 16 ∧ m.ofTurn u = true ∧ t = { u with count := u.count + 1 } ∧ free k m ∧
        ∀ j r, j < k → q[j]? = some r → r.ofTurn u = true → ¬ free j r)) →
    (s.inMaintenance n = false →
      exec (.hbmAccess n ch e) s =
        .next ((s.modStack n fun x => { x with chans := x.chans.mapIdx fun j c =>
          if j == ch then ⟨q.eraseIdx k, if t.goesOn (q.eraseIdx k) then some t else none⟩ else c }).memPerform m e)) ∧
    (s.inMaintenance n = true → exec (.hbmAccess n ch e) s = .next s)) ∧
  (∀ (t : Turn) (q : List MemReq), t.goesOn q = true ↔
    t.count < 16 ∧ ∃ (k : Nat) (m : MemReq), q[k]? = some m ∧ m.ofTurn t = true ∧
      ∀ (j : Nat) (r : MemReq), j < k → q[j]? = some r → m.overlaps r = false) ∧
  (∀ (pa i j : Nat) (f g syn : BitVec 16) (seen : Bool),
    let symbol (x : BitVec 16) : BitVec 16 := if isViewPA pa then x % 256 else x
    checkOf pa [] seen syn = .good ∧ (symbol f ≠ 0 → checkOf pa [(i, f)] seen syn = .corrected pa) ∧
    (symbol f ≠ 0 → symbol g ≠ 0 → i ≠ j → checkOf pa [(i, f), (j, g)] seen syn = .uncorrectable pa syn)) ∧
  (∀ (s : State) (n : Nat) (e : Ecc) (m : MemReq) (rest : List MemReq), (s.buffer n).queue = m :: rest →
    exec (.bufferAccess n e) s = .next ((s.modBuffer n fun b => { b with queue := rest }).memPerform m e)) ∧
  (∀ (s : State) (m : MemReq) (pid : Nat) (p : Packet) (r : Req), m.kind = 0 → m.ack = some pid → s.packet? pid = some p →
    s.req? p.core p.rid = some r → r.kind = .load →
    (∃ q, (s.memPerform m .good).packet? pid = some q ∧ q.resp = true ∧ q.fault = p.fault ∧ (s.memPerform m .good).mem = s.mem ∧
      ∀ k, k < 128 →
        q.data.getD k 0 =
          match s.l2Line? r.line with
          | some l => if l.has k then l.data.getD k 0 else s.dramByte (r.line + k)
          | none => s.dramByte (r.line + k)) ∧
    ∀ e aux, (eccCheck e m.units).aux = some aux →
      ∃ q, (s.memPerform m e).packet? pid = some q ∧ q.resp = true ∧ q.fault = true ∧ q.value = aux) ∧
  (∀ (s : State) (m : MemReq) (e : Ecc), m.ack = none →
    let u := checkUnit m.line
    let full (n : Nat) : Prop := ∀ j, j < u → ∃ c ∈ m.bytes, c.1 = u * n + j
    m.kind ≠ 0 → s.memOk = true → (m.bytes.map (·.1)).Nodup → (∀ c ∈ m.bytes, isStackPA (m.line + c.1) = true) →
    ((e = .good ∨ ∀ c ∈ m.bytes, full (c.1 / u)) → ∀ c ∈ m.bytes, (s.memPerform m e).dramByte (m.line + c.1) = c.2) ∧
    (∀ a ∈ m.partUnits, ∃ c ∈ m.bytes, a = m.line + u * (c.1 / u) ∧ ¬ full (c.1 / u)) ∧
    (∀ a aux, m.line % u = 0 → (eccCheck e m.partUnits).lost = some (a, aux) → a % u = 0 →
      ∀ c ∈ m.bytes, (s.memPerform m e).dramByte (m.line + c.1) =
        if (m.line + c.1) / u = a / u then s.dramByte (m.line + c.1) else c.2)) ∧
  (∀ (s : State) (n : Nat) (done : Bool) (e : Ecc) (late : Bool),
    let upkeep := (s.slotKind s.docent.wheelSlot).1 = 2 ∧ s.slotNow = s.docent.wheelSlot ∧ (s.stack n).trained = true
    let i : Instr := .maintenanceSlot n done e late
    (¬ upkeep → exec i s = .next s) ∧
    (upkeep → (done = false ∨ (s.stack n).scrubHours = 0) →
      exec i s =
        .next (s.modStack n fun k => { k with refreshes := k.refreshes + 1, overflow := !done, maint := some s.slotNow })) ∧
    (upkeep → done = true → (s.stack n).scrubHours ≠ 0 → e = .good →
      exec i s = .next (s.modStack n fun k =>
        { k with refreshes := k.refreshes + 1, overflow := false, maint := some s.slotNow, scrubAt := ((s.stack n).scrubAt + 16) % 2 ^ 36 }))) ∧
  (∀ (s : State) (n c : Nat), (∃ k ∈ s.hbms, k.id = n) →
    (c ≤ 105 →
      exec (.hbmTemperatureSample n c) s = .next (s.modStack n fun k =>
        { k with temp := c, halved := if 85 < c then true else if c ≤ 80 then false else k.halved })) ∧
    (105 < c → ∃ t, exec (.hbmTemperatureSample n c) s = .next t ∧ (t.stack n).fenced = true ∧ (t.stack n).temp = c)) ∧
  (∀ (s : State) (n : Nat),
    exec (.bufferRefresh n) s = .next (s.modBuffer n fun b => { b with refreshes := b.refreshes + 1 }) ∧
    exec (.bufferScrub n .good) s = .next (s.modBuffer n fun b => { b with scrubAt := ((s.buffer n).scrubAt + 64) % 2 ^ 38 }) ∧
    exec (.hmcfgCntClr n) s = .next (s.modStack n fun k => { k with corrected := 0, uncorrected := 0 }) ∧
    exec (.filterFullClear n) s = .next (s.modStack n fun k => { k with filterFull := false })) ∧
  (∀ (s : State) (wing pa : Nat) (syn : BitVec 16), isViewPA pa = false → (∃ k ∈ s.hbms, k.id = stackDie pa) →
    let t := s.uncorrectable wing pa syn
    (t.stack (stackDie pa)).uncorrected = min 0xFFFF ((s.stack (stackDie pa)).uncorrected + 1) ∧
    (t.stack (stackDie pa)).hourErrs = ((s.stack (stackDie pa)).hourErrs.filter fun c => s.clk < c + 4680000000000) ++ [s.clk]) ∧
  ∀ (s : State) (n : Nat),
    let errs (l : List Nat) : Nat := (l.filter fun c => s.clk < c + 4680000000000).length
    (errs (s.stack n).hourErrs ≤ 64 → exec (.stackFence (.stack n)) s = .next s) ∧
    (errs (s.buffer n).hourErrs ≤ 64 → exec (.stackFence (.buffer n)) s = .next s) ∧
    (64 < errs (s.stack n).hourErrs → ∃ t, exec (.stackFence (.stack n)) s = .next t ∧ (t.stack n).fenced = true ∧ t.mem = s.mem) ∧
    (64 < errs (s.buffer n).hourErrs → ∃ t, exec (.stackFence (.buffer n)) s = .next t ∧ (t.buffer n).fenced = true ∧ t.mem = s.mem)

/-- R119 to R132, R310 to R313, R316, R317, R320: the steps of the copy channels and the binning queue. A channel takes up its head
entry, performs it unit by unit in ascending bytes, decoding each element under DEC, adds its amount to its counter once memory has taken
what it wrote, and drops it; an access that fails charges a deferred trap and stops the entry (class 1) or discards the group's entries and
fences of that queue. A fence completes once its mark heads each of its queues; a guarded-off entry only makes its add, after what its warp
did before it; a fence whose add fails with another class than 1 takes what the group has behind it along, fences too; a replay applies its
region's entries in order. That a fence's failed add discards what is behind it, and that an uncorrectable read's record has kind Read: log 43. -/
def Obligations.EngineSteps : Prop :=
  (∀ (s : State) (c : CoreId) (n : Nat) (g : Group) (e : EngEntry), n < 8 → s.headOf c n = some (g, e) → e.off = false →
    (e.started = false → (s.core c).needsOver e.needs = true →
      exec (.copyEntryStart c n) s = .next (s.setHead c n { e with started := true })) ∧
    ((e.started = true ∨ (s.core c).needsOver e.needs = false) → exec (.copyEntryStart c n) s = .next s)) ∧
  (∀ (s : State) (c : CoreId) (ch : Nat) (ecc : Ecc) (g : Group) (e : EngEntry), ch < 8 → s.headOf c ch = some (g, e) →
    e.started = true → s.memOk = true → ch < g.wptr.length →
    let cmd := CopyCmd.parse e.cmd
    let n := cmd.unitAt e.done
    let dest := cmd.dstAt e.done
    let i : Instr := .deliveryUnitPerformed c ch ecc
    let moved (t : State) : State :=
      (t.setHead c ch { e with done := e.done + n, srcFmt := none }).modGroup c g.slot fun u =>
        { u with wptr := u.wptr.set ch (u.wptr.getD ch 0 + BitVec.ofNat 64 n) }
    let delivered (t : State) : Prop :=
      (t.core c).headEntry ch = some { e with done := e.done + n, srcFmt := none } ∧
      t.group? c g.slot = some { g with wptr := g.wptr.set ch (g.wptr.getD ch 0 + BitVec.ofNat 64 n) }
    (cmd.total ≤ e.done → exec i s = .next s) ∧
    (e.done < cmd.total →
      0 < n ∧ n ≤ 64 - dest % 64 ∧ e.done + n ≤ cmd.total ∧
      (∀ f, (s.copySource g e e.done n).head? = some (.error f) → ecc = .good → exec i s = .next (s.engFail g ch e f)) ∧
      (cmd.dec = 0 → cmd.sspm = true → cmd.dspm = true →
        ∃ t, exec i s = .next t ∧ delivered t ∧ (∀ a, t.devByte a = s.devByte a) ∧
          (∀ k, k < n → t.spmByte c (g.spmBase + dest + k) = s.spmByte c (g.spmBase + cmd.srcAt (e.done + k))) ∧
          ∀ d a, (d = c → a < g.spmBase + dest ∨ g.spmBase + dest + n ≤ a) → t.spmByte d a = s.spmByte d a) ∧
      (cmd.dec = 0 → cmd.sspm = true → cmd.dspm = false → ecc = .good →
        (∀ f, s.engPages g.whoIs .write dest n = .error f → exec i s = .next (s.engFail g ch e f)) ∧
        ∀ ps, s.engPages g.whoIs .write dest n = .ok ps →
          exec i s = .next (moved
            ((s.engWrite g.whoIs ps ((List.range n).map fun k => s.spmByte c (g.spmBase + cmd.srcAt (e.done + k)))).useBanks g
              (cmd.spmRuns e.done)))) ∧
      (∀ l : Nat → Leaf, cmd.dec = 0 → cmd.sspm = false → cmd.dspm = false → ecc = .good →
        (∀ k, k < n → s.engPages g.whoIs .read (cmd.srcAt (e.done + k)) 1 = .ok [(cmd.srcAt (e.done + k), 1, l k)]) →
        (∀ f, s.engPages g.whoIs .write dest n = .error f → exec i s = .next (s.engFail g ch e f)) ∧
        ∀ ps, s.engPages g.whoIs .write dest n = .ok ps →
          let u := s.engPull c ((List.range n).map fun k => (cmd.srcAt (e.done + k), 1, l k))
          exec i s = .next (moved
            ((u.engWrite g.whoIs ps ((List.range n).map fun k => u.devByte ((l k).pa (cmd.srcAt (e.done + k))))).useBanks g []))) ∧
      (∀ (l : Nat → Leaf) (fn : Nat) (f : Option Fmt), cmd.dec = 1 ∨ cmd.dec = 2 → cmd.sspm = false → cmd.dspm = true → ecc = .good →
        s.entryFmt g e = .ok (fn, f) → (∀ ft, f = some ft → ft.blk = 0) → (s.core c).comb = [] → (s.core c).l1 = [] →
        let cb := fmtBits f cmd.raw
        let size := if cmd.dec = 1 then 4 else 2
        let elem (k : Nat) : Nat := (e.done + k) % (cmd.rowLen * size) / size
        let va (k : Nat) : Nat := cmd.src + (e.done + k) / (cmd.rowLen * size) * cmd.sstride + elem k * cb / 8
        let code (k : Nat) : Nat := s.devNat ((l k).pa (va k)) (max 1 (cb / 8)) / 2 ^ (elem k * cb % 8) % 2 ^ cb
        let value (k : Nat) : Nat := match f with
          | some ft => ft.decode 127 (code k)
          | none => (roundF fp32 0 false (rawVal cmd.raw (code k))).1
        (∀ k, k < n → s.engPages g.whoIs .read (va k) (max 1 (cb / 8)) = .ok [(va k, max 1 (cb / 8), l k)] ∧ (l k).fmt = fn) →
        ∃ t, exec i s = .next t ∧ (∀ a, t.devByte a = s.devByte a) ∧
          (t.core c).headEntry ch = some { e with done := e.done + n, srcFmt := some (fn, f) } ∧
          ∀ k, k < n → t.spmByte c (g.spmBase + dest + k) = BitVec.ofNat 8
            ((if cmd.dec = 1 then value k else f32To bf16 (value k)) / 256 ^ ((e.done + k) % (cmd.rowLen * size) % size))) ∧
      (∀ l : Nat → Leaf, cmd.dec = 0 → cmd.sspm = false → cmd.dspm = true →
        (∀ k, k < n → s.engPages g.whoIs .read (cmd.srcAt (e.done + k)) 1 = .ok [(cmd.srcAt (e.done + k), 1, l k)]) →
        let ck := s.engCheck ((List.range n).map fun k => (cmd.srcAt (e.done + k), 1, l k)) ecc
        (∀ f, ck.cause = some f → exec i s = .next ((s.engChecked ck).engFail g ch e f)) ∧
        (ecc = .good → (s.core c).comb = [] → (s.core c).l1 = [] → ∃ t, exec i s = .next t ∧ delivered t ∧ (∀ a, t.devByte a = s.devByte a) ∧
          ∀ k, k < n → t.spmByte c (g.spmBase + dest + k) = s.devByte ((l k).pa (cmd.srcAt (e.done + k))))))) ∧
  (∀ (s : State) (c : CoreId) (n : Nat) (g : Group) (e : EngEntry), s.headOf c n = some (g, e) →
    let written : Prop := ∀ m : MemReq, m.kind ≠ 0 → m.ack = none → m.src = g.core.die → m.slot = g.whoIs.slot →
      (∀ k ∈ s.hbms, ∀ ch ∈ k.chans, m ∉ ch.queue) ∧ ∀ b ∈ s.buffers, m ∉ b.queue
    (n < 8 → e.started = true → (CopyCmd.parse e.cmd).total ≤ e.done → written →
      exec (.copyEntryComplete c n) s = .next (s.completeEntry g n e)) ∧
    (n < 8 → e.started = true → (e.done < (CopyCmd.parse e.cmd).total ∨ ¬ written) → exec (.copyEntryComplete c n) s = .next s) ∧
    (n < 10 → e.off = true → (s.core c).needsOver e.needs = true →
      exec (.guardedOffEntry c n e.slot) s = .next (s.completeEntry g n e)) ∧
    (n < 10 → e.off = true → (s.core c).needsOver e.needs = false → exec (.guardedOffEntry c n e.slot) s = .next s) ∧
    (n = 8 → e.off = false → (s.core c).needsOver e.needs = true → e.done ≠ 0 →
      ∀ ecc, exec (.binplayEntry c ecc) s = .next (s.completeEntry g 8 e))) ∧
  (∀ (s : State) (c : CoreId) (g : Group) (m : MxEntry) (q : List MxEntry), s.group? c g.slot = some g → g.mxq = m :: q → m.off = true →
    exec (.guardedOffEntry c 10 g.slot) s = .next (s.modGroup c g.slot fun u => { u with mxq := u.mxq.drop 1 })) ∧
  (∀ (s : State) (g : Group) (n : Nat) (e : EngEntry), n < 10 → s.group? g.core g.slot = some g → (s.core g.core).headEntry n = some e →
    e.slot = g.slot →
    ((e.counter n).1 = .none → s.completeEntry g n e = s.modQueue g.core n fun q => q.drop 1) ∧
    (∀ b, (e.counter n).1 = .loc b →
      ((s.completeEntry g n e).core g.core).queue n = ((s.core g.core).queue n).drop 1 ∧
      ∃ g', (s.completeEntry g n e).group? g.core g.slot = some g' ∧
        g'.ctrs = g.ctrs.set b (BitVec.ofNat 64 (min ((g.ctrs.getD b 0).toNat + (e.counter n).2) (2 ^ 64 - 1)))) ∧
    (∀ va f, (e.counter n).1 = .glob va → s.engPages g.whoIs .atomic va 8 = .error f → s.completeEntry g n e = s.engFail g n e f) ∧
    ∀ f : Cause,
      let t := s.engFail g n e f
      let named (o : Fence) : Prop := o ∈ (s.core g.core).fences ∧ o.slot = g.slot ∧ o.mask.getLsbD n = true
      (∃ d g', t.group? g.core g.slot = some g' ∧ g'.deferred = g.deferred ++ [d] ∧ d.trapRec.cls = f.cls ∧ d.trapRec.reason = f.reason ∧
        d.trapRec.pc = e.who.pc ∧ d.trapRec.deferred = true ∧ g' = { g with deferred := g.deferred ++ [d], mxq := g'.mxq } ∧
        (f.cls = 1 → g'.mxq = g.mxq) ∧ ∀ m ∈ g.mxq, m.fence = none → m ∈ g'.mxq) ∧
      (f.cls = 1 → (t.core g.core).queue n = .entry { e with stopped := true } :: ((s.core g.core).queue n).drop 1) ∧
      (f.cls ≠ 1 → (∀ e', .entry e' ∈ (t.core g.core).queue n ↔ (.entry e' ∈ (s.core g.core).queue n ∧ e'.slot ≠ g.slot)) ∧
        (∀ o ∈ (t.core g.core).fences, o ∈ (s.core g.core).fences ∧ ¬ named o) ∧
        ∀ fid, .fence fid ∈ (t.core g.core).queue n ↔ .fence fid ∈ (s.core g.core).queue n ∧ ∀ o, named o → o.fid ≠ fid)) ∧
  (∀ (s : State) (c : CoreId) (f : Fence) (g : Group), (s.core c).fences.find? (fun x => x.fid == f.fid) = some f →
    s.group? c f.slot = some g → (∀ d ∈ g.deferred, d.trapRec.pc ≠ f.who.pc) →
    let i : Instr := .qfenceEntryComplete c f.fid
    let heads := (s.core c).needsOver f.needs = true ∧ (∀ n, n < 10 → f.mask.getLsbD n = true →
        ((s.core c).queue n).head? = some (.fence f.fid)) ∧
      (f.mask.getLsbD 10 = true → ∃ m q, g.mxq = m :: q ∧ m.fence = some f.fid)
    (¬ heads → exec i s = .next s) ∧
    (∀ s1, heads → s.engineAdd g f.ctr f.amt f.who = .ok s1 → exec i s = .next (s1.dropFence c f)) ∧
    (∀ x, heads → s.engineAdd g f.ctr f.amt f.who = .error x →
      (x.cls = 1 → exec i s = .next (s.engTrap g f.who x)) ∧
      (x.cls ≠ 1 → exec i s = .next (((s.engTrap g f.who x).discardBehind g f).dropFence c f))) ∧
    (∀ n pre post, n < 10 → f.mask.getLsbD n = true → (s.core g.core).queue n = pre ++ .fence f.fid :: post → .fence f.fid ∉ pre →
      (∀ o ∈ (s.core g.core).fences, o.slot = g.slot → .fence o.fid ∈ post → o ∈ s.fencesBehind g f) ∧
      (∀ o ∈ s.fencesBehind g f, o ∈ (s.core g.core).fences ∧ o.slot = g.slot) ∧
      ((s.discardBehind g f).core g.core).queue n =
        (pre ++ .fence f.fid :: post.filter fun x => match x with | .entry e => e.slot != g.slot | .fence _ => true).filter fun x =>
          !((s.fencesBehind g f).any fun o => x == .fence o.fid)) ∧
    (heads → f.ctr = .none → ∃ t, exec i s = .next t ∧
      (∀ n, n < 10 → (t.core c).queue n = ((s.core c).queue n).filter (· != .fence f.fid)) ∧
      (t.core c).fences = (s.core c).fences.filter (·.fid != f.fid))) ∧
  (∀ (s : State) (c : CoreId) (g : Group) (e : EngEntry), s.headOf c 8 = some (g, e) → e.off = false →
    (s.core c).needsOver e.needs = true → e.done = 0 →
    let cmd := PlayCmd.parse e.cmd
    let a : Arena := ⟨e.hdr.getD 0 1, e.hdr.getD 1 1, e.hdr.getD 2 4⟩
    let fin := { e with done := 1 }
    (∀ p, s.playPages g cmd a = .ok p →
      (∀ ecc f, (s.engCheck (p.count ++ p.target ++ p.slots) ecc).cause = some f →
        exec (.binplayEntry c ecc) s =
          .next ((s.engChecked (s.engCheck (p.count ++ p.target ++ p.slots) ecc)).engFail g 8 e f)) ∧
      exec (.binplayEntry c .good) s =
        .next ((((s.play g cmd a p .good).useBanks g [(cmd.off, 4 * 2 ^ a.shift)]).setHead c 8 fin).completeEntry g 8 fin)) ∧
    ∀ f ecc, s.playPages g cmd a = .error f → exec (.binplayEntry c ecc) s = .next (s.engFail g 8 e f)) ∧
  ∀ (op shift : Nat) (es fs : List (Nat × Nat)) (ws : List Word) (i : Nat), ws.length = 2 ^ shift → i < 2 ^ shift →
    (∀ e ∈ es, e.2 < 2 ^ 32) →
    let mine := (es.filter fun e => e.1 % 2 ^ shift == i).map fun e => BitVec.ofNat 32 e.2
    let out := (playAll op shift es ws).getD i 0
    (playAll op shift es ws).length = ws.length ∧ playAll op shift (es ++ fs) ws = playAll op shift fs (playAll op shift es ws) ∧
    (op = 1 → out = mine.foldl (· + ·) (ws.getD i 0)) ∧
    (op = 2 → out.toInt = (mine.map BitVec.toInt).foldl max (ws.getD i 0).toInt) ∧
    (op = 3 → out.toInt = (mine.map BitVec.toInt).foldl min (ws.getD i 0).toInt)

/-- R50 to R64, R318 to R320: the pooling queue. A bag is rejected by the first of R59's checks that it fails, empty, or split by buffer: the
checks see the 64 KiB frames of its segment in order, and a table read that fails ends them with UNCORR and a class 0 trap (its reason,
kind and AUX: log 43). Each view buffer folds its rows in list order from -0, or from minus infinity for MAX, rounding each sum or fused
product to FP32; the partial vectors are combined in ascending view order, a mean is divided by the count, and the result is written with its
status. Of a row that met an uncorrectable error, by the buffer's own view (log 43), the result is free. -/
def Obligations.PoolSteps : Prop :=
  (∀ (s : State) (c : CoreId) (g : Group) (e : EngEntry), s.headOf c 9 = some (g, e) → e.off = false → (s.core c).bag = none →
    (s.core c).needsOver e.needs = true →
    let cmd := PoolCmd.parse e.cmd
    let lo := leNat (s.grpSpm g (cmd.offOff + 4 * e.done) 4)
    let hi := leNat (s.grpSpm g (cmd.offOff + 4 * e.done + 4) 4)
    let idx := (s.spmWords g (cmd.idxOff + 4 * lo) (hi - lo)).map (·.toNat)
    let code := s.bagCode g cmd (s.tableOf g cmd) idx
    let i : Instr := .bagTakeUp c .good
    let dest := cmd.dst + e.done * cmd.pitch
    (cmd.nbags ≤ e.done → exec i s = .next (s.poolComplete g e)) ∧
    (e.done < cmd.nbags →
    (poolGeom g cmd (s.tableOf g cmd) lo hi = true →
      exec i s = .next (s.bagDone g e cmd (min (hi - lo) 0xFFFF * 2 ^ 16 + 0x10) 0x10)) ∧
    (poolGeom g cmd (s.tableOf g cmd) lo hi = false → hi = lo → cmd.dspm = true →
      exec i s = .next ((s.grpSpmPuts g dest (List.replicate cmd.outBytes 0)).bagDone g e cmd 1 1)) ∧
    (poolGeom g cmd (s.tableOf g cmd) lo hi = false → lo < hi → code ≠ 0 → code ≠ 0x20 →
      exec i s = .next (s.bagDone g e cmd (min (hi - lo) 0xFFFF * 2 ^ 16 + code) code)) ∧
    (∀ f, poolGeom g cmd (s.tableOf g cmd) lo hi = false → lo < hi → code = 0x20 → s.bagFail g cmd (s.tableOf g cmd) idx = some f →
      exec i s = .next ((s.bagDone g e cmd (min (hi - lo) 0xFFFF * 2 ^ 16 + code) code).engTrap g e.who
        { cls := f.cls, reason := f.reason, kind := 1, va := some f.va, aux := f.aux, err := f.err })) ∧
    (poolGeom g cmd (s.tableOf g cmd) lo hi = false → lo < hi → code = 0 →
      ∃ t b, exec i s = .next t ∧ (t.core c).bag = some b ∧ b.idx = idx ∧ b.parts = [] ∧ b.inv = false ∧ b.ovf = false ∧
        b.uncorr = none ∧ ∀ u, s.tableOf g cmd = some u →
          (∀ v, v ∈ b.views ↔ v < u.b ∧ ∃ x ∈ idx, u.viewOf cmd x = v) ∧ b.rows.map (·.1) = idx.map (u.viewOf cmd) ∧
          b.rows.map (·.2.1) = idx.map (u.rowVA cmd) ∧
          ∀ l, s.leafNow g.core g.asid (u.segBase cmd idx) = .ok l →
            ∀ r ∈ b.rows, r.2.2 = l.pa (u.segBase cmd idx) + (r.2.1 - u.segBase cmd idx)))) ∧
  (∀ (g : Group) (c : PoolCmd) (u : Table) (lo hi : Nat),
    poolGeom g c (some u) lo hi = true ↔
      c.tbase % 2 ^ 21 ≠ 0 ∨ c.nrows = 0 ∨ c.rowLen = 0 ∨ 1024 < c.rowLen ∨ c.stride % 16 ≠ 0 ∨ hi < lo ∨
      (lo < hi ∧ g.res.spm * 512 < c.idxOff + 4 * lo + 4 * (hi - lo)) ∨
      (lo < hi ∧ c.mode = 1 ∧ g.res.spm * 512 < c.wOff + 4 * lo + 4 * (hi - lo)) ∨
      c.stride < (c.rowLen * u.bits + 7) / 8 ∨ 2 ^ 18 / u.b < c.stride) ∧
  (∀ (s : State) (g : Group) (c : PoolCmd) (u : Table) (idx : List Nat) (first leaf : Nat → Leaf), s.tableOf g c = some u → idx ≠ [] →
    let base := u.segBase c idx
    let code := s.bagCode g c (some u) idx
    ((∃ x ∈ idx, c.nrows ≤ x) → code = 0x11) ∧
    ((∀ x ∈ idx, x < c.nrows) → (∃ x ∈ idx, ∃ y ∈ idx, u.segOf c x ≠ u.segOf c y) → code = 0x12) ∧
    ((∀ x ∈ idx, x < c.nrows) → (∀ x ∈ idx, ∀ y ∈ idx, u.segOf c x = u.segOf c y) →
      (∀ i, i < 32 → s.leafNow g.core g.asid (c.tbase + 65536 * i) = .ok (first i) ∧ isViewPA (first i).base = true ∧ (first i).fmt = 0) →
      (∀ i, i < 32 → s.leafNow g.core g.asid (base + 65536 * i) = .ok (leaf i) ∧ isViewPA (leaf i).base = true ∧ (leaf i).fmt = 0) →
      let bufs (i : Nat) : List Nat := viewBuffers (paSel (leaf i).base)
      let some' (p : Nat → Bool) : Bool := (List.range 32).any p
      let ragged (i : Nat) : Bool :=
        (leaf i).pa (base + 65536 * i) != (leaf 0).pa base + 65536 * i || (leaf i).cp != (leaf 0).cp || (leaf i).wg != (leaf 0).wg
      code =
        if some' fun i => !(leaf i).pool then 0x14
        else if some' fun i => !(leaf i).pin then 0x15
        else if (leaf 0).pa base % 2 ^ 21 != 0 || (leaf 0).cp == 0 || some' ragged then 0x16
        else if some' fun i => (leaf i).wg != g.wing || (bufs i).any fun n => !(s.wing g.wing).bufs.getLsbD n then 0x17
        else if some' fun i => (bufs i).any fun n => (s.buffer n).fenced || !(s.buffer n).trained then 0x18
        else 0)) ∧
  (∀ (s : State) (g : Group) (e : EngEntry) (cmd : PoolCmd) (status code : Nat), s.group? g.core g.slot = some g →
    (s.core g.core).headEntry 9 = some e → s.memOk = true →
    let t := s.bagDone g e cmd status code
    (e.trapT = true → 0x10 ≤ code → code ≤ 0x18 → cmd.nbags ≤ e.done + 1 → (e.counter 9).1 = .none →
      ∃ d, t.group? g.core g.slot = some { g with deferred := g.deferred ++ [d] } ∧ d.trapRec.cls = 7 ∧ d.trapRec.reason = rPOOLREJ ∧
        d.trapRec.pc = e.who.pc ∧ (t.core g.core).poolq = ((s.core g.core).poolq).drop 1) ∧
    (e.trapT = false → e.reject = false →
    (e.done + 1 < cmd.nbags →
      (t.core g.core).bag = none ∧ (t.core g.core).headEntry 9 = some { e with done := e.done + 1 } ∧
      leNat (t.grpSpm g (cmd.stOff + 4 * e.done) 4) = status % 2 ^ 32) ∧
    (cmd.nbags ≤ e.done + 1 → (e.counter 9).1 = .none →
      (t.core g.core).bag = none ∧ (t.core g.core).poolq = ((s.core g.core).poolq).drop 1 ∧
      leNat (t.grpSpm g (cmd.stOff + 4 * e.done) 4) = status % 2 ^ 32))) ∧
  (∀ (s : State) (c : CoreId) (v : Nat) (g : Group) (e : EngEntry) (b : Bag), s.headOf c 9 = some (g, e) →
    (s.core c).bag = some b → v ∈ b.views →
    let cmd := PoolCmd.parse e.cmd
    let rows := b.rowsOf v
    (∀ ecc aux, (eccCheck ecc (rowUnits cmd b rows)).aux = some aux →
      ∃ t b', exec (.bufferPool c v ecc) s = .next t ∧ (t.core c).bag = some b' ∧ b'.views = b.views.filter (· != v) ∧ b'.uncorr = some aux) ∧
    ∃ t b', exec (.bufferPool c v .good) s = .next t ∧ (t.core c).bag = some b' ∧ b'.idx = b.idx ∧ b'.views = b.views.filter (· != v) ∧
      b'.uncorr = b.uncorr ∧ ∃ vec, b'.parts = b.parts ++ [(v, vec)] ∧ vec.length = cmd.rowLen ∧
        ∀ k, k < cmd.rowLen → vec.getD k 0 = BitVec.ofNat 32
          (rows.foldl (fun a r => foldElem cmd.mode r.2.2 a (s.rowElem cmd b r.1 r.2.1 k))
            ⟨if cmd.mode = 3 then 0xFF800000 else 0x80000000, false, false⟩).bits) ∧
  (∀ (s : State) (c : PoolCmd) (b : Bag) (va pa e : Nat),
    let bytes (n : Nat) : Nat := leNat ((List.range n).map fun i => s.memByte (pa + n * e + i))
    b.fmt = none →
    (c.raw = 0 → s.rowElem c b va pa e = bytes 4) ∧ (c.raw = 1 → fp32.isNan (bytes 2 * 2 ^ 16) = false → s.rowElem c b va pa e = bytes 2 * 2 ^ 16)) ∧
  (∀ (mode : Nat) (w : Word) (acc : Noted) (v : Nat), acc.bits < 2 ^ 32 → v < 2 ^ 32 →
    let r := (foldElem mode w acc v).bits
    let a := acc.bits
    (mode = 0 ∨ mode = 2 → f32Finite a = true → f32Finite v = true → RoundedTo 0 (f32Units a + f32Units v) 1 r) ∧
    (mode = 1 → f32Finite a = true → f32Finite v = true → f32Finite w.toNat = true →
      RoundedTo 0 (f32Units a * 2 ^ 149 + f32Units w.toNat * f32Units v) (2 ^ 149) r) ∧
    (mode = 3 →
      r = if fp32.isNan a || fp32.isNan v then 0x7FC00000 else if fp32.place a < fp32.place v then v else a)) ∧
  (∀ (c : PoolCmd) (b : Bag) (i : Nat) (p : List Word) (ps : List (List Word)),
    (List.range 8).filterMap (fun v => (b.parts.find? fun q => q.1 == v).map (·.2)) = p :: ps → c.obf = false →
    let all := ps.foldl (fun a q => (foldElem (if c.mode = 3 then 3 else 0) 0 ⟨a, false, false⟩ (q.getD i 0).toNat).bits) (p.getD i 0).toNat
    (c.mode ≠ 2 → (finalElem c b i).bits = all) ∧
    (c.mode = 2 → f32Finite all = true → b.idx ≠ [] → b.idx.length < 2 ^ 32 → RoundedTo 0 (f32Units all) b.idx.length (finalElem c b i).bits)) ∧
  ∀ (s : State) (c : CoreId) (g : Group) (e : EngEntry) (b : Bag), s.headOf c 9 = some (g, e) → (s.core c).bag = some b → b.views = [] →
    let cmd := PoolCmd.parse e.cmd
    let out := (List.range cmd.rowLen).map (finalElem cmd b)
    let bytes := out.flatMap fun r => leBytes (if cmd.obf then 2 else 4) r.bits
    let status := bagStatus b.idx.length (b.inv || out.any (·.inv)) (b.ovf || out.any (·.ovf)) 0
    let dest := cmd.dst + e.done * cmd.pitch
    let used (t : State) : State := t.useBanks g ((cmd.stOff + 4 * e.done, 4) :: if cmd.dspm then [(dest, cmd.outBytes)] else [])
    (b.uncorr = none → cmd.dspm = true →
      exec (.partialVectorCombine c) s = .next ((used (s.grpSpmPuts g dest bytes)).bagDone g e cmd status 0)) ∧
    (b.uncorr = none → cmd.dspm = false → ∀ ps, s.engPages g.whoIs .write dest bytes.length = .ok ps →
      exec (.partialVectorCombine c) s = .next ((used (s.engWrite g.whoIs ps bytes)).bagDone g e cmd status 0)) ∧
    (∀ aux, b.uncorr = some aux → cmd.dspm = true → ∃ (u : State) (inv ovf : Bool), u.free = s.free + cmd.outBytes + 1 ∧
      u.mem = s.mem ∧ u.groups = s.groups ∧
      (∀ d a, (d = c → a < g.spmBase + dest ∨ g.spmBase + dest + cmd.outBytes ≤ a) → u.spmByte d a = s.spmByte d a) ∧
      exec (.partialVectorCombine c) s =
        .next ((u.bagDone g e cmd (bagStatus b.idx.length inv ovf 0x20) 0x20).engTrap g e.who { cls := 0, kind := 1, aux := aux }))

/-- R168, R169, R245, R246, R249, R250, R253, R258, R260: the matrix engine takes the head entry of the next group in rotating slot order; its
rows are written 12 cycles after the last of its engine cycles. INT8 sums are exact modulo 2^32, and columns from N on keep their values; the
recombined order of floats is that of R255, from pre-sums of MB + 4 bits. MLDA's global rows are words of memory, MSTA writes its rows in order
until one fails, and MMV's weights are read at w + n × WPITCH under the format of the first page. A
row that is not claimed in time is dropped; a window's operand B is read at 512 bytes a cycle; a row block runs, each in its own eighth, once
its rows have arrived; MMV runs once its stream has ended; a batch mark makes its add and wakes its waiters, in its group's turn. A fault of
class 1 leaves the queue as it stands; any other empties it. The 512 bytes a cycle, and that a window whose first block is not ready does not
hold the engine, are the model's reading (log 20). -/
def Obligations.MatrixSteps : Prop :=
  (∀ (s : State) (c : CoreId),
    let k := s.core c
    let may (g : Group) (e : MxEntry) : Prop :=
      g ∈ s.groups ∧ g.core = c ∧ g.mxq.head? = some e ∧ k.serves g = true ∧ k.freeFor s.clk g = true ∧ e.off = false ∧
        e.stopped = false ∧ e.fence = none ∧ k.needsOver e.needs = true ∧
        (e.opc = 0xC1 → ∃ v ∈ k.windows, v.eid = e.eid ∧ ∃ b, b < 9 ∧ v.blockReady s.clk b = true)
    let key (g : Group) : Nat := if k.turn < g.slot then g.slot else g.slot + 4096
    (s.nextTurn c = none ↔ ∀ g e, ¬ may g e) ∧
    ∀ g e, s.nextTurn c = some (g, e) → may g e ∧ ∀ g' e', may g' e' → key g ≤ key g') ∧
  (∀ (s : State) (c : CoreId) (ecc : Ecc) (g : Group) (e : MxEntry), s.nextTurn c = some (g, e) →
    let i : Instr := .matrixEntryStart c ecc
    let x := e.x
    let used := s.useBanks g (s.mxRuns g e)
    let begins (r : MxRun) : Prop := exec i s = .next (used.modCore c fun k => { k with runs := k.runs ++ [r], turn := g.slot })
    let runs (rows : List (Nat × List Word)) (cycles : Nat) : Prop :=
      begins ⟨g.slot, e.eid, tileOf x, rows, s.clk + (cycles - 1) + 12, false⟩
    (e.opc = 0xC1 ∨ e.opc = 0xC6 → exec i s = .next s) ∧
    (s.hasCore c → ∀ off n j, (off, n) ∈ s.mxRuns g e → j < n → (g.spmBase + off + j) / 16 % 32 ∈ (used.core c).busyBanks) ∧
    (∀ fmts, e.opc = 0xC0 → e.fmts = some fmts →
      let w := e.c.lo
      let sh := Shape3.ofWord w (x.fn2.getLsbD 0)
      let ta : MxType := ⟨fmtAt fmts 0, shapeTA w⟩
      let tb : MxType := ⟨fmtAt fmts 1, shapeTB w⟩
      (e.a.lo.toNat, 64 * sh.k * ta.bits / 8) ∈ s.mxRuns g e ∧ (e.b.lo.toNat, sh.n * sh.k * tb.bits / 8) ∈ s.mxRuns g e ∧
      (0 < sh.k → runs ((List.range 64).map fun r =>
          (r, productRow sh (fun _ => true) (s.spmOperand g ta sh.k e.a) (s.spmOperand g tb sh.k e.b) r (g.tileRow (tileOf x) r)))
        (engineCycles sh (min ta.step tb.step)))) ∧
    (e.opc = 0xC2 → begins ⟨g.slot, e.eid, tileOf x, [], 0, true⟩) ∧
    (e.opc = 0xC3 → runs ((List.range 64).map fun r => (r, List.replicate 64 0)) 16) ∧
    (e.opc = 0xC4 → x.fn2.getLsbD 0 = false →
      runs ((List.range 64).map fun r => (r, wordsOf (s.grpSpm g (e.a.lo.toNat + r * e.b.lo.toNat) 256))) 32) ∧
    (∀ l : Nat → Leaf, e.opc = 0xC4 → x.fn2.getLsbD 0 = true → ecc = .good → (s.core c).l1 = [] → (s.core c).comb = [] →
      let va (r : Nat) : Nat := e.a.toNat + r * e.b.lo.toNat
      (∀ r, r < 64 → s.engPages g.whoIs .read (va r) 256 = .ok [(va r, 256, l r)]) →
      runs ((List.range 64).map fun r => (r, wordsOf (s.devBytes ((l r).pa (va r)) 256))) 32) ∧
    (e.opc = 0xC5 → x.fn2.getLsbD 0 = true →
      let z := used.storeRows g true (x.fn2.getLsbD 1) e.a.toNat e.b.lo.toNat ((List.range 64).map fun r => (r, g.tileRow (tileOf x) r))
      (z.2 = none → exec i s = .next ((z.1.modGroup c g.slot fun g => { g with mxq := g.mxq.drop 1 }).modCore c fun k =>
        { k with turn := g.slot })) ∧
      ∀ f, z.2 = some f → exec i s = .next (z.1.mxFail g e f)) ∧
    (e.opc = 0xC5 → x.fn2.getLsbD 0 = false → s.memOk = true → (∀ r, r < 64 → (g.tileRow (tileOf x) r).length = 64) →
      let bf := x.fn2.getLsbD 1
      let len := if bf then 128 else 256
      let pitch := e.b.lo.toNat
      len ≤ pitch → s.group? c g.slot = some g → s.hasCore c →
      ∃ t, exec i s = .next t ∧ (t.core c).runs = (s.core c).runs ∧ (t.core c).turn = g.slot ∧
        t.group? c g.slot = some { g with mxq := g.mxq.drop 1 } ∧ (∀ a, t.devByte a = s.devByte a) ∧
        (∀ r j, r < 64 → j < len →
          t.spmByte c (g.spmBase + e.a.lo.toNat + r * pitch + j) =
            ((g.tileRow (tileOf x) r).flatMap fun z => if bf then leBytes 2 (f32To bf16 z.toNat) else leBytes 4 z.toNat).getD j 0) ∧
        ∀ d a, (d = c → ∀ r j, r < 64 → j < len → a ≠ g.spmBase + e.a.lo.toNat + r * pitch + j) → t.spmByte d a = s.spmByte d a)) ∧
  (∀ (s : State) (g : Group) (bf : Bool) (a pitch i : Nat) (row : List Word) (rest : List (Nat × List Word)), row ≠ [] →
    let va := a + i * pitch
    let bytes := row.flatMap fun z => if bf then leBytes 2 (f32To bf16 z.toNat) else leBytes 4 z.toNat
    s.storeRows g true bf a pitch [] = (s, none) ∧
    (∀ l, s.engPages g.whoIs .write va 1 = .ok [(va, 1, l)] → va % l.size + bytes.length ≤ l.size →
      s.storeRows g true bf a pitch ((i, row) :: rest) = (s.engWrite g.whoIs [(va, bytes.length, l)] bytes).storeRows g true bf a pitch rest) ∧
    ∀ f, s.engPages g.whoIs .write va 1 = .error f →
      (s.storeRows g true bf a pitch ((i, row) :: rest)).2 = some f ∧ (s.storeRows g true bf a pitch ((i, row) :: rest)).1.mem = s.mem) ∧
  (∀ (sh : Shape3) (ks : Nat), 0 < ks →
    let n := engineCycles sh ks
    let work := if sh.recomb then 7 * sh.k else sh.k
    let rate := if sh.recomb then 8 * ks else ks
    work ≤ n * rate ∧ n * rate < work + rate) ∧
  (∀ (sh : Shape3) (rows : Nat → Bool) (a b : Operand) (i j : Nat) (old : List Word), j < 64 →
    let new := (productRow sh rows a b i old).getD j 0
    (sh.n ≤ j → new = old.getD j 0) ∧
    (j < sh.n → a.ty.isInt = true → rows i = true →
      new = BitVec.ofInt 32 ((old.getD j 0).toNat + ((List.range sh.k).map fun k => a.ival i k * b.ival j k).sum)) ∧
    (j < sh.n → a.ty.isInt = false → sh.recomb = false →
      new = BitVec.ofNat 32 (accumulate (old.getD j 0).toNat (fpChunks (fun k => a.only rows i k) (fun k => b.fval j k) sh.k))) ∧
    (j < sh.n → a.ty.isInt = false → sh.recomb = true →
      let h := sh.k / 2
      let n2 := sh.n / 2
      let ar (r k : Nat) : FVal := a.only rows r k
      let r := i % 32
      let q := j % n2
      let g (t : MxType) (x y : FVal) : FVal := roundSig (t.mb + 4) (addF 0 x y).1
      let val (w : Nat) : FVal := unpackF fp32 false w
      let mul (x y : Nat → FVal) : Nat := accumulate 0 (fpChunks x y h)
      let plus (x y : Nat) : Nat := f32Add (val x) (val y)
      let less (x y : Nat) : Nat := f32Add (val x) (val y).negate
      let a11 (k : Nat) := ar r k
      let a12 (k : Nat) := ar r (h + k)
      let a21 (k : Nat) := ar (32 + r) k
      let a22 (k : Nat) := ar (32 + r) (h + k)
      let b11 (k : Nat) := b.fval q k
      let b12 (k : Nat) := b.fval (n2 + q) k
      let b21 (k : Nat) := b.fval q (h + k)
      let b22 (k : Nat) := b.fval (n2 + q) (h + k)
      let m1 := mul (fun k => g a.ty (a11 k) (a22 k)) fun k => g b.ty (b11 k) (b22 k)
      let m2 := mul (fun k => g a.ty (a21 k) (a22 k)) b11
      let m3 := mul a11 fun k => g b.ty (b12 k) (b22 k).negate
      let m4 := mul a22 fun k => g b.ty (b21 k) (b11 k).negate
      let m5 := mul (fun k => g a.ty (a11 k) (a12 k)) b22
      let m6 := mul (fun k => g a.ty (a21 k) (a11 k).negate) fun k => g b.ty (b11 k) (b12 k)
      let m7 := mul (fun k => g a.ty (a12 k) (a22 k).negate) fun k => g b.ty (b21 k) (b22 k)
      let p := match decide (i < 32), decide (j < n2) with
        | true, true => plus (less (plus m1 m4) m5) m7
        | true, false => plus m3 m5
        | false, true => plus m2 m4
        | false, false => plus (plus (less m1 m2) m3) m6
      (new.toNat = plus (old.getD j 0).toNat p))) ∧
  (∀ (s : State) (c : CoreId), (∀ r ∈ (s.core c).runs, r.streaming = true ∨ s.clk < r.writeAt) → exec (.tileWrite c) s = .next s) ∧
  (∀ (s : State) (c : CoreId) (pre : List MxRun) (r : MxRun) (post : List MxRun), (s.core c).runs = pre ++ r :: post →
    (∀ q ∈ pre, q.streaming = true ∨ s.clk < q.writeAt) →
    let i : Instr := .tileWrite c
    (r.streaming = false → r.writeAt ≤ s.clk →
      let u := (s.modGroup c r.slot fun g => g.writeRows r.tile r.rows).modCore c fun k => { k with runs := k.runs.erase r }
      (u.core c).runs = pre ++ post ∧
      (∀ g, (∀ v ∈ (s.core c).windows, v.eid ≠ r.eid) → s.group? c r.slot = some g →
        ∃ t g', exec i s = .next t ∧ (t.core c).runs = pre ++ post ∧ (t.core c).turn = (s.core c).turn ∧ t.group? c r.slot = some g' ∧
          g'.mxq = g.mxq.drop 1 ∧ g'.tiles.length = g.tiles.length ∧ (∀ n, n ≠ r.tile → g'.tiles[n]? = g.tiles[n]?) ∧
          (r.tile < g.tiles.length → ∀ row, row < 64 → g'.tileRow r.tile row =
            match r.rows.find? fun z => z.1 == row with
            | some z => z.2
            | none => g.tileRow r.tile row)) ∧
      ((∃ v ∈ (s.core c).windows, v.eid = r.eid) → exec i s = .next (u.endWindow c r.eid)))) ∧
  (∀ (s : State) (c : CoreId) (v : Window), (s.core c).windows.find? (fun x => x.eid == v.eid) = some v →
    let past := (∀ r ∈ v.rows, r.done = true ∨ r.dropped = true) ∧ ∀ r ∈ (s.core c).runs, r.eid ≠ v.eid
    (¬ past → s.endWindow c v.eid = s) ∧
    (past →
      ((s.endWindow c v.eid).core c).windows = (s.core c).windows.filter (fun x => x.eid != v.eid) ∧
      ∀ g, s.group? c v.slot = some g →
        (s.endWindow c v.eid).group? c v.slot = some { g with mxq := g.mxq.filter fun m => m.eid != v.eid })) ∧
  (∀ (s : State) (c : CoreId) (lane : Nat) (v : Window), (s.core c).openWin s.clk = some v →
    let due (r : SkewRow) : Prop := r.lane = lane ∧ r.claimed = false ∧ r.dropped = false ∧ ∃ n, v.reach lane = some n ∧ n + 256 ≤ s.clk
    ((∃ r ∈ v.rows, due r) → exec (.collectorRowDrop c lane) s = .next ((s.modWindow c v.eid fun u =>
      { u with rows := u.rows.map fun r => if r.lane == lane then { r with dropped := true, since := s.clk } else r }).endWindow
        c v.eid)) ∧
    ((∀ r ∈ v.rows, ¬ due r) → exec (.collectorRowDrop c lane) s = .next s)) ∧
  (∀ (s : State) (c : CoreId) (v : Window) (g : Group), (s.core c).windows = [v] → s.group? c v.slot = some g →
    let n := min 512 (v.data + v.scales - v.bytes.length)
    ((s.feedWindows c).core c).windows =
      [{ v with bytes := v.bytes ++ (List.range n).map fun i => s.spmByte c (g.spmBase + v.offset (v.bytes.length + i)) }]) ∧
  (∀ (s : State) (c : CoreId) (b : Nat), s.headWindow c = none → exec (.rowBlockStart c b) s = .next s) ∧
  (∀ (s : State) (c : CoreId) (b : Nat) (g : Group) (e : MxEntry) (v : Window), s.headWindow c = some (g, e, v) →
    let sh := Shape3.ofMmal v.x
    let mine (r : SkewRow) : Prop := r ∈ v.rows ∧ (b = 8 ∨ r.lane / 8 = b)
    let ready := v.data + v.scales ≤ v.bytes.length ∧ sh.recomb = decide (b = 8) ∧
      (∃ r, mine r ∧ r.dropped = false ∧ r.done = false) ∧ ∀ r, mine r → r.dropped = true ∨ v.arrived s.clk r = true
    (¬ ready → exec (.rowBlockStart c b) s = .next s) ∧
    (∀ fmts, ready → e.fmts = some fmts →
      let ta : MxType := ⟨none, v.x.fn.toNat / 4 % 4⟩
      let tb : MxType := ⟨fmtAt fmts 0, v.x.fn.toNat % 4⟩
      ∃ t r, exec (.rowBlockStart c b) s = .next t ∧ (t.core c).runs = (s.core c).runs ++ [r] ∧ (t.core c).turn = g.slot ∧
        (t.core c).windows = ((s.core c).windows.map fun u => if u.eid = v.eid then { u with rows := u.rows.map fun q =>
          if b = 8 ∨ q.lane / 8 = b then { q with done := !q.dropped } else q } else u) ∧ r.slot = g.slot ∧ r.eid = e.eid ∧ r.tile = tileOf e.x ∧
        r.streaming = false ∧ (0 < sh.k → r.writeAt = s.clk + (engineCycles sh (min ta.step tb.step) - 1) + 12) ∧
        (∀ n row, (n, row) ∈ r.rows ↔ n < 64 ∧ (b = 8 ∨ n / 8 = b) ∧ (∃ q ∈ v.rows, q.lane = n ∧ q.claimed = true ∧ q.dropped = false) ∧
          row = productRow sh v.present (v.operandA ta) (v.operandB tb sh.k) n (g.tileRow (tileOf e.x) n)) ∧
        t.groups = s.groups)) ∧
  (∀ (s : State) (c : CoreId) (r : MxRun) (g : Group) (e : MxEntry), (s.core c).runs.find? (·.streaming) = some r →
    s.group? c r.slot = some g → g.mxq.head? = some e →
    (∀ f, s.mmvResult g e .good = .error f → exec (.mmvStreamData c .good) s = .next (s.mxFail g e f)) ∧
    (∀ u rows cycles, s.mmvResult g e .good = .ok (u, rows, cycles) →
      exec (.mmvStreamData c .good) s = .next (u.modCore c fun k =>
        { k with runs := k.runs.map fun q =>
            if q.streaming then { r with rows := rows, streaming := false, writeAt := resultAt s.clk cycles } else q })) ∧
    ∀ ecc f, (s.engCheck (s.mmvPages g e) ecc).cause = some f →
      f.cls = 0 ∧ exec (.mmvStreamData c ecc) s = .next ((s.engChecked (s.engCheck (s.mmvPages g e) ecc)).mxFail g e f)) ∧
  (∀ clk cycles : Nat, 0 < cycles → resultAt clk cycles = clk + (cycles - 1) + 12) ∧
  (∀ (s u : State) (g : Group) (e : MxEntry) (rows : List (Nat × List Word)) (cycles : Nat) (fmts : List (Option Fmt)) (l : Leaf) (tw : MxType),
    let w := e.a.toNat
    let sh := Shape3.ofWord e.c.lo (e.x.fn2.getLsbD 0)
    let tv : MxType := ⟨fmtAt fmts 0, shapeTA e.c.lo⟩
    s.mmvResult g e .good = .ok (u, rows, cycles) → e.fmts = some fmts → s.engPages g.whoIs .read w 1 = .ok [(w, 1, l)] →
    s.weightType g l tv e.c.lo w = .ok tw →
    cycles = engineCycles sh (min tv.step tw.step) ∧ ∃ b : Operand, b.ty = tw ∧
      rows = ((List.range (shapeV e.c.lo)).map fun r => (r, productRow sh (fun q => decide (q < shapeV e.c.lo)) (u.spmOperand g tv sh.k e.b) b r
        (g.tileRow (tileOf e.x) r))) ∧
      ∀ n k l1,
        let va := w + n * ((sh.k * tw.bits + 511) / 512 * 512 / 8) + k * tw.bits / 8
        (u.leafNow g.core g.asid va = .ok l1 →
          b.code n k = leNat (u.devBytes (l1.pa va) (max 1 (tw.bits / 8))) / 2 ^ (k * tw.bits % 8) % 2 ^ tw.bits) ∧
        ∀ f sv, tw.fmt = some f → f.scaleVA va = some sv → u.leafNow g.core g.asid sv = .ok l1 → b.scale n k = (u.devByte (l1.pa sv)).toNat) ∧
  (∀ (s : State) (g : Group) (l : Leaf) (tv : MxType) (c : Word) (w : Nat),
    let tb : MxType := ⟨none, shapeTB c⟩
    let bad : Except Cause MxType := .error { cls := 2, reason := rBADFMT, kind := 1, va := some w }
    (l.fmt = 0 → s.weightType g l tv c w = if tb.isInt = tv.isInt then .ok tb else bad) ∧
    (l.fmt ≠ 0 → tv.isInt = true → s.weightType g l tv c w = bad) ∧
    (l.fmt ≠ 0 → tv.isInt = false → ∀ o, s.fmtFor g.core g.asid l.fmt w = .ok o →
      s.weightType g l tv c w = match o with
        | some f => .ok ⟨some f, 0⟩
        | none => bad)) ∧
  (∀ (s : State) (c : CoreId) (slot : Nat), (∀ g e, s.nextTurn c = some (g, e) → e.opc ≠ 0xC6 ∨ g.slot ≠ slot) →
    exec (.batchComplete c slot) s = .next s) ∧
  (∀ (s : State) (c : CoreId) (slot : Nat) (g : Group) (e : MxEntry), s.group? c slot = some g → s.nextTurn c = some (g, e) →
    e.opc = 0xC6 → g.slot = slot →
    (∀ f, s.engineAdd g (ctrOperand (e.x.fn2.toNat % 4) e.a) e.b.lo.toNat e.who = .error f →
      exec (.batchComplete c slot) s = .next (s.mxFail g e f)) ∧
    (∀ u, s.engineAdd g (ctrOperand (e.x.fn2.toNat % 4) e.a) e.b.lo.toNat e.who = .ok u →
      exec (.batchComplete c slot) s = .next ((((u.modGroup c slot fun g => { g with mxq := g.mxq.drop 1 }).modCore c fun k =>
        { k with turn := slot }).modGroup c slot fun g => { g with batchDone := g.batchDone ||| ((1 : BitVec 16) <<< e.batch) }).wakeBatch c slot e.batch)) ∧
    (e.x.fn2.toNat % 4 = 0 → ∃ t, exec (.batchComplete c slot) s = .next t ∧
      t.group? c slot = some { g with mxq := g.mxq.drop 1, batchDone := g.batchDone ||| ((1 : BitVec 16) <<< e.batch) } ∧
      ∀ w ∈ t.warps, w.id.coreId = c → w.grp = slot → ∀ p ∈ w.splits, p.st ≠ .blocked (.batch e.batch))) ∧
  ∀ (s : State) (g : Group) (e : MxEntry) (f : Cause), s.group? g.core g.slot = some g → s.hasCore g.core →
    let t := s.mxFail g e f
    (t.core g.core).runs = (s.core g.core).runs.filter (fun r => r.eid != e.eid) ∧ (t.core g.core).turn = g.slot ∧
    ∃ g' d, t.group? g.core g.slot = some g' ∧ g'.deferred = g.deferred ++ [d] ∧ d.trapRec.cls = f.cls ∧ d.trapRec.pc = e.who.pc ∧
      d.trapRec.deferred = true ∧
      (f.cls = 1 → g'.mxq = g.mxq.map fun m => if m.eid == e.eid then { m with stopped := true } else m) ∧
      (f.cls ≠ 1 → g'.mxq = [] ∧ ((t.core g.core).windows = (s.core g.core).windows.filter fun v => v.slot != g.slot) ∧
        ∀ z ∈ (t.core g.core).fences, z.slot = g.slot → z.mask.getLsbD 10 = false)

/-! ### Messages, catalogues and groups -/

/-- R364 to R371, R374, R409, R411, R416: a CCP message of any type is dropped by a port that does not carry it, and for a wrong tag or an old SEQ,
and answered NOTREADY, DENIED or BADMSG for its stage, its sender or its form; CATLOAD, CATDROP and KICK reply as their checks say, in that order; a
replay starts, deals its nodes to dies once their predecessors have ended, sends one packet a group, releases a cohort at once, and ends with DONE. A
work packet's 64 bytes hold its fields. That NOTREADY comes before DENIED and that before BADMSG is the model's order (log 24); that a wrong MAGIC
or VERSION and the flag of a reply draw BADMSG, and that an unlisted TYPE needs Stage 2, is its choice (log 44). -/
def Obligations.CatalogueSteps : Prop :=
  (∀ (i : Instr) (s : State) (m : Ccp) (ty stage : Nat) (who : Sender), ccpRule i = some (m, ty, stage, who) →
    let a := s.ccpAccept m
    let formed := m.magic = 0x4343 ∧ m.version = 1 ∧ m.type = ty ∧ m.flags % 2 = 0 ∧ m.length ≤ 8960 ∧ m.bodyOk = true
    (s.carries m.port (.ccp m) = false → exec i s = .next (s.frame m.port (.ccp m))) ∧
    (s.carries m.port (.ccp m) = true → ¬ s.takes m → exec i s = .next (s.ccpDrop m)) ∧
    (s.takes m → a.lastSeq m.wing = some m.seq) ∧
    (s.takes m → s.docent.stage < stage → exec i s = .next (a.reply m 0x30 [])) ∧
    (s.takes m → stage ≤ s.docent.stage → ¬ who.admits m.wing → exec i s = .next (a.reply m 0x31 [])) ∧
    (s.takes m → stage ≤ s.docent.stage → who.admits m.wing → ¬ formed → exec i s = .next (a.reply m 0x32 [])) ∧
    (s.grants m ty ↔ s.takes m ∧ stage ≤ s.docent.stage ∧ who.admits m.wing ∧ formed) ∧
    (stage = 2 → who = .wing → s.grants m ty → ((s.wing m.wing).st ≠ .active ∨ (s.wing m.wing).revoking ≠ none) →
      exec i s = .next (a.reply m 0x30 []))) ∧
  (∀ (s : State) (n : Ccp) (port : Nat),
    n.type ∉ [0x01, 0x02, 0x03, 0x04, 0x06, 0x07, 0x08, 0x09, 0x0A, 0x0B, 0x10, 0x11, 0x12, 0x13, 0x14, 0x18, 0x19, 0x1A, 0x1B] →
    let i : Instr := .portFrameReceive port (.ccp n)
    let m : Ccp := { n with port := port }
    let a := s.ccpAccept m
    (s.carries port (.ccp m) = false → exec i s = .next (s.frame port (.ccp m))) ∧
    (s.carries port (.ccp m) = true → ¬ s.takes m → exec i s = .next (s.ccpDrop m)) ∧
    (s.takes m → s.docent.stage < 2 → exec i s = .next (a.reply m 0x30 [])) ∧
    (s.takes m → 2 ≤ s.docent.stage → exec i s = .next (a.reply m 0x32 []))) ∧
  (∀ (s : State) (m : Ccp) (last : Nat), s.lastSeq m.wing = some last →
    (s.takes m ↔ s.carries m.port (.ccp m) = true ∧ last < m.seq ∧ ∃ key, m.tag = some key ∧
      (if m.wing = 15 then key = s.docent.opKey else (s.wing m.wing).control = some key))) ∧
  (∀ image : List Byte,
    let f (off n : Nat) : Nat := leNat ((image.drop off).take n)
    let nn := f 6 2
    let ne := f 8 2
    let ns := f 10 2
    let node (i off n : Nat) : Nat := f (64 * (i + 1) + off) n
    let id (i : Nat) : Nat := node i 4 2 % 2 ^ 12
    let edge (i : Nat) : Nat := f (64 * (1 + nn) + 8 * i) 8
    let slot (i : Nat) : Nat := f (64 * (1 + nn) + 8 * ne + 8 * i) 8
    let warps (i : Nat) : Nat := node i 12 4 / 2 ^ 22 + 1
    let vregs (i : Nat) : Nat := node i 12 4 / 2 ^ 14 % 2 ^ 8
    let tiles (i : Nat) : Nat := node i 12 4 / 2 ^ 9 % 2 ^ 5
    let counters (i : Nat) : Nat := node i 12 4 % 2 ^ 9
    let isId (n : Nat) : Prop := ∃ i, i < nn ∧ id i = n
    let size (i : Nat) : Nat := if slot i / 2 ^ 24 % 2 = 1 then 8 else 4
    let offset (i : Nat) : Nat := slot i / 2 ^ 16 % 2 ^ 5
    let holds (i k : Nat) : Prop := k ≤ 64 ∧ k * warps i ≤ 64 * min 8 (192 / vregs i) ∧ k * tiles i ≤ 32 ∧ k * counters i ≤ 256 ∧
      k * node i 16 2 ≤ 4096
    let format := image.length < 64 ∨ f 0 4 ≠ 0x56414341 ∨ f 4 2 ≠ 1 ∨ nn = 0 ∨ 4096 < nn ∨ 16384 < ne ∨ 1024 < ns ∨
      image.length ≠ 64 * (1 + nn) + 8 * (ne + ns) ∨ f 14 2 ≠ 0 ∨ f 32 32 ≠ 0 ∨ f 16 8 % 64 ≠ 0 ∨ f 24 8 % 8 ≠ 0 ∨
      (f 24 8 ≠ 0 ∧ f 12 2 = 0) ∨
      (∃ i, i < nn ∧ (node i 4 2 / 2 ^ 12 ≠ 0 ∨ node i 10 2 / 2 ^ 9 % 2 ^ 6 ≠ 0 ∨ node i 20 4 ≠ 0)) ∨
      (∃ i, i < ne ∧ edge i / 2 ^ 32 ≠ 0) ∨ ∃ i, i < ns ∧ (slot i / 2 ^ 25 ≠ 0 ∨ slot i / 2 ^ 21 % 2 ^ 3 ≠ 0)
    let badNode := (∃ i j, i < j ∧ j < nn ∧ id i = id j) ∨
      ∃ i, i < nn ∧ (node i 0 4 % 64 ≠ 0 ∨ node i 6 2 = 0 ∨ node i 8 2 = 0 ∨ node i 10 2 % 2 ^ 9 = 0 ∨ 512 < warps i ∨ vregs i < 8 ∨
        192 < vregs i ∨ vregs i % 8 ≠ 0 ∨ 16 < tiles i ∨ 256 < counters i ∨ 4096 < node i 16 2 ∨ node i 24 8 % 128 ≠ 0)
    let badEdge := (∃ i, i < ne ∧ (¬ isId (edge i % 2 ^ 16) ∨ ¬ isId (edge i / 2 ^ 16))) ∨
      ∃ l : List Nat, l ≠ [] ∧ ∀ n ∈ l, ∃ i, i < ne ∧ edge i / 2 ^ 16 = n ∧ edge i % 2 ^ 16 ∈ l
    let badPatch := ∃ i, i < ns ∧ (¬ isId (slot i % 2 ^ 16) ∨ offset i % size i ≠ 0 ∨ 32 < offset i + size i)
    let badFit := ∃ i, i < nn ∧ (¬ holds i 1 ∨ (2 ^ 15 ≤ node i 10 2 ∧
      ∀ k, holds i k → ((List.range 9).filter fun d => node i 10 2 / 2 ^ d % 2 = 1).length * 16 * k < node i 8 2))
    (format → catCheck image = .error 0x01) ∧
    (¬ format → badNode → catCheck image = .error 0x02) ∧
    (¬ format → ¬ badNode → badEdge → catCheck image = .error 0x03) ∧
    (¬ format → ¬ badNode → ¬ badEdge → badPatch → catCheck image = .error 0x04) ∧
    (¬ format → ¬ badNode → ¬ badEdge → ¬ badPatch → badFit → catCheck image = .error 0x05) ∧
    (¬ format → ¬ badNode → ¬ badEdge → ¬ badPatch → ¬ badFit →
      ∃ c, catCheck image = .ok (c,
          (List.range nn).map (fun i => ⟨node i 0 4, id i, node i 6 2, node i 8 2, decide (2 ^ 15 ≤ node i 10 2),
            BitVec.ofNat 9 (node i 10 2), ⟨warps i, vregs i, tiles i, counters i, node i 16 2, node i 18 2⟩, node i 24 8,
            (List.range 8).map fun d => BitVec.ofNat 32 (node i (32 + 4 * d) 4)⟩),
          (List.range ne).map (fun i => (edge i % 2 ^ 16, edge i / 2 ^ 16)),
          (List.range ns).map fun i => ⟨slot i % 2 ^ 16, offset i, decide (slot i / 2 ^ 24 % 2 = 1)⟩) ∧
        c.imageva = f 16 8 ∧ c.donectr = f 24 8 ∧ c.doneasid = f 12 2)) ∧
  (∀ (s : State) (m : Ccp) (image : List Byte), s.grantsActive m 0x02 →
    let a := s.ccpAccept m
    (∀ code, catCheck image = .error code → exec (.catload m image) s = .next (a.reply m code [])) ∧
    ∀ c nodes edges slots, catCheck image = .ok (c, nodes, edges, slots) →
      (255 ≤ (a.handles (a.unitOf m.wing)).length → exec (.catload m image) s = .next (a.reply m 0x06 [])) ∧
      ((a.handles (a.unitOf m.wing)).length < 255 →
        ∃ t h, exec (.catload m image) s = .next t ∧ 1 ≤ h ∧ h ≤ 255 ∧ h ∉ a.handles (a.unitOf m.wing) ∧
          t.out = .reply m.wing m.seq 0 [h] :: s.out ∧
          t.cats = s.cats ++ [⟨h, m.wing, c.imageva, c.donectr, c.doneasid, nodes, edges, slots, [], none⟩])) ∧
  (∀ (image : List Byte) c nodes edges slots, catCheck image = .ok (c, nodes, edges, slots) →
    (nodes.map (·.id)).Nodup ∧ (∀ n ∈ nodes, Node.ok n = true ∧ Node.fits n = true) ∧
    (∀ e ∈ edges, (∃ n ∈ nodes, n.id = e.1) ∧ ∃ n ∈ nodes, n.id = e.2) ∧
    (∀ l : List Nat, (∀ n ∈ l, ∃ e ∈ edges, e.2 = n ∧ e.1 ∈ l) → l = []) ∧
    ∀ k ∈ slots, (∃ n ∈ nodes, n.id = k.node) ∧ k.offset % k.size = 0 ∧ k.offset + k.size ≤ 32) ∧
  (∀ (s : State) (m : Ccp) (cat : Nat), s.grantsActive m 0x03 →
    let a := s.ccpAccept m
    (s.cat? m.wing cat = none → exec (.catdrop m cat) s = .next (a.reply m 0x11 [])) ∧
    ∀ c, s.cat? m.wing cat = some c →
      ((c.replay ≠ none ∨ c.queued ≠ []) → exec (.catdrop m cat) s = .next (a.reply m 0x07 [])) ∧
      (c.replay = none → c.queued = [] → exec (.catdrop m cat) s =
        .next (({ a with cats := a.cats.filter fun k => !(k.wing == m.wing && k.handle == cat) } : State).reply m 0 []))) ∧
  (∀ (s : State) (m : Ccp) (cat seq : Nat) (ps : List Patch), s.grantsActive m 0x04 → m.length ≠ 8 + 16 * ps.length →
    exec (.kick m cat seq ps) s = .next ((s.ccpAccept m).reply m 0x32 [])) ∧
  (∀ (s : State) (m : Ccp) (cat seq : Nat) (ps : List Patch), s.grantsActive m 0x04 → m.length = 8 + 16 * ps.length →
    cat < 2 ^ 8 → seq < 2 ^ 32 → ps.length < 2 ^ 8 → (∀ p ∈ ps, p.slot < 2 ^ 16) →
    let frame : List Byte := leBytes 1 cat ++ leBytes 1 ps.length ++ [0, 0] ++ leBytes 4 seq ++
      ps.flatMap fun p => leBytes 2 p.slot ++ [0, 0, 0, 0, 0, 0] ++ leBytes 8 p.value.toNat
    let a := (s.ccpAccept m).modWing m.wing fun w => { w with kickReg := frame }
    let w := s.wing m.wing
    let i : Instr := .kick m cat seq ps
    let answers (code : Nat) : Prop := exec i s = .next (a.reply m code [])
    (w.quiescing = true → answers 0x30) ∧
    (w.quiescing = false → seq ≤ w.kickSeq → answers 0x10) ∧
    (w.quiescing = false → w.kickSeq < seq → s.cat? m.wing cat = none → answers 0x11) ∧
    ∀ c, w.quiescing = false → w.kickSeq < seq → s.cat? m.wing cat = some c →
      let held := c.queued.length + (if c.replay.isSome then 1 else 0)
      ((∃ p ∈ ps, c.slots.length ≤ p.slot) → answers 0x12) ∧
      ((∀ p ∈ ps, p.slot < c.slots.length) → 4 ≤ held → answers 0x13) ∧
      ((∀ p ∈ ps, p.slot < c.slots.length) → held < 4 →
        ∃ t, exec i s = .next t ∧ t.out = .reply m.wing m.seq 0 [] :: s.out ∧ (t.wing m.wing).kickSeq = seq ∧
          (t.wing m.wing).kickReg = frame ∧
          t.cat? m.wing cat = some { c with nodes := ps.foldl (applyPatch c.slots) c.nodes, queued := c.queued ++ [seq] })) ∧
  (∀ (slots : List Slot) (nodes : List Node) (p : Patch) (k : Slot), slots[p.slot]? = some k →
    (applyPatch slots nodes p).length = nodes.length ∧
    ∀ (j : Nat) (n : Node), nodes[j]? = some n → ∃ n', (applyPatch slots nodes p)[j]? = some n' ∧ n' = { n with params := n'.params } ∧
      (n.id ≠ k.node → n' = n) ∧
      (n.id = k.node → n.params.length = 8 → ∀ d, d < 8 →
        n'.params.getD d 0 =
          if d = k.offset / 4 then p.value.lo else if k.wide = true ∧ d = k.offset / 4 + 1 then p.value.hi else n.params.getD d 0)) ∧
  (∀ (s : State) (wg cat : Nat) (c : Catalogue), s.cat? wg cat = some c →
    (c.replay = none → ∀ seq rest, c.queued = seq :: rest →
      ∃ t r, exec (.replayStart wg cat) s = .next t ∧ t.cat? wg cat = some { c with queued := rest, replay := some r } ∧
        r.seq = seq ∧ r.nodes = c.nodes ∧ r.refused = none ∧ (r.runs.map (·.id)).Pairwise (· < ·) ∧
        (∀ n, (∃ x ∈ r.runs, x.id = n) ↔ ∃ y ∈ c.nodes, y.id = n) ∧ ∀ x ∈ r.runs, x = ⟨x.id, false, 0, 0, 0, false, []⟩) ∧
    ((c.replay ≠ none ∨ c.queued = []) → ∃ t, exec (.replayStart wg cat) s = .next t ∧ t.cat? wg cat = some c) ∧
    ∀ r, c.replay = some r →
      (r.nextNode c.edges (s.cohortBusy wg) = none → exec (.nodeDispatch wg cat) s = .next s) ∧
      (∀ n, r.nextNode c.edges (s.cohortBusy wg) = some n →
        r.refused = none ∧ (∀ x ∈ r.runs, r.sending x = true → x.released = false ∧ ∃ y, r.node? x.id = some y ∧ y.cohort = true) ∧
        (n.cohort = true → s.cohortBusy wg = false) ∧
        (∃ x ∈ r.runs, x.dispatched = false ∧ r.node? x.id = some n ∧ ∀ e ∈ c.edges, e.2 = x.id → r.nodeEnded e.1 = true) ∧
        let d := s.desc n.asid
        let dies := diesOf (n.dies &&& (s.wing wg).dies)
        (d.valid = true → d.wg = wg → dies ≠ [] →
          exec (.nodeDispatch wg cat) s =
            .next (s.modCat wg cat fun k => k.modRun n.id fun x => { x with dispatched := true, dieList := dies })) ∧
        ((d.valid = false ∨ d.wg ≠ wg ∨ dies = []) → exec (.nodeDispatch wg cat) s = .next (s.stopReplay wg cat 0x20 n.id))) ∧
      (s.nextPacket c = none → exec (.workPacketSend wg cat) s = .next s) ∧
      (s.nextPacket c = none ↔ r.refused ≠ none ∨ ∀ x ∈ r.runs, r.sending x = true →
        (s.die (x.dieList.getD (x.sent % x.dieList.length) 0)).unitRoom = false) ∧
      (∀ x n d, s.nextPacket c = some (x, n, d) →
        x ∈ r.runs ∧ r.sending x = true ∧ r.node? x.id = some n ∧ d = x.dieList.getD (x.sent % x.dieList.length) 0 ∧
        (s.die d).unitRoom = true ∧
        exec (.workPacketSend wg cat) s = .next ((s.mail d (n.packet c x.sent).bytes).modCat wg cat fun k =>
          k.modRun n.id fun y => { y with sent := y.sent + 1 })) ∧
      (c.cohortReady = none → exec (.cohortRelease wg cat) s = .next s) ∧
      (∀ n, c.cohortReady = some n →
        let mine (g : Group) : Bool := g.wing == wg && g.cat == cat && g.node == n.id && g.phase == .cohort
        ∃ t, exec (.cohortRelease wg cat) s = .next t ∧
          (t.groups = s.groups.map fun g => if mine g then { g with phase := .running } else g) ∧
          (t.warps = s.warps.map fun w => if s.groups.any fun g => mine g && g.core == w.id.coreId && g.slot == w.grp then
            { w with held := false, readyAt := s.clk + 1, age := s.clk + 1 } else w) ∧
          t.cats = (s.modCat wg cat fun k => k.modRun n.id fun x => { x with released := true }).cats) ∧
      (r.over = false → exec (.replayEnd wg cat) s = .next s) ∧
      (r.over = true → exec (.replayEnd wg cat) s =
        .next (((s.modCat wg cat fun k => { k with replay := none }).doneAdd c).sendDone wg r.seq ((r.refused.getD (0, 0)).1)
          ((r.refused.getD (0, 0)).2)))) ∧
  (∀ (s : State) (wg seq status node : Nat) (w : Wing), s.wings.find? (fun x => x.id == wg) = some w →
    (s.sendDone wg seq status node).out = .done wg (w.outSeq + 1) seq status node :: s.out ∧
    ((s.sendDone wg seq status node).wing wg).outSeq = w.outSeq + 1) ∧
  (∀ (s : State) (u : Nat),
    ((∀ e ∈ s.ends, e.unit ≠ u) → exec (.nodeEnd u) s = .next s) ∧
    ∀ e, s.ends.find? (fun x => x.unit == u) = some e →
      let t := ({ s with ends := s.ends.erase e } : State).modCat e.wing e.cat fun c => c.modRun e.node fun x => { x with ended := x.ended + 1 }
      (e.killed = false → exec (.nodeEnd u) s = .next t) ∧
      (e.killed = true → exec (.nodeEnd u) s = .next (t.stopReplay e.wing e.cat 0x21 e.node))) ∧
  (∀ (s : State) (c : CoreId) (g : Group), s.group? c g.slot = some g →
    (s.groupOver g = false → exec (.groupEnd c g.slot) s = .next s) ∧
    (s.groupOver g = true → exec (.groupEnd c g.slot) s = .next ((s.releaseActs c true).endGroup g false)) ∧
    ∀ killed,
      let t := s.endGroup g killed
      t.group? c g.slot = none ∧ (g.cat = 0 → t.ends = s.ends) ∧
      (g.cat ≠ 0 → t.ends = s.ends ++ [⟨s.unitOf g.wing, g.wing, g.cat, g.node, killed⟩]) ∧
      ((s.die c.die).mailbox.length < 64 → (s.core c).notices = [] → (∃ d ∈ s.dies, d.id = c.die) →
        (t.die c.die).mailbox = (s.die c.die).mailbox ++ [g.notice]) ∧
      ((64 ≤ (s.die c.die).mailbox.length ∨ (s.core c).notices ≠ []) → s.hasCore c →
        (t.core c).notices = (s.core c).notices ++ [g.notice])) ∧
  (∀ (s : State) (c : CoreId),
    ((s.core c).notices = [] → exec (.groupEndNotice c) s = .next s) ∧
    ∀ b rest, (s.core c).notices = b :: rest →
      (64 ≤ (s.die c.die).mailbox.length → exec (.groupEndNotice c) s = .next s) ∧
      ((s.die c.die).mailbox.length < 64 →
        exec (.groupEndNotice c) s = .next ((s.modDie c.die fun d => { d with mailbox := d.mailbox ++ [b] }).modCore c fun k =>
          { k with notices := rest }))) ∧
  (∀ (s : State) (d : Nat), (∃ x ∈ s.dies, x.id = d) →
    ∃ t, exec (.mailboxPacketArrival d) s = .next t ∧
      (∀ b rest, (s.die d).inbound = b :: rest → (s.die d).mailbox.length < 64 →
        t.die d = { s.die d with mailbox := (s.die d).mailbox ++ [b], inbound := rest }) ∧
      (((s.die d).inbound = [] ∨ 64 ≤ (s.die d).mailbox.length) → t.die d = s.die d)) ∧
  ∀ p : WorkPkt, p.params.length = 8 → p.cat < 2 ^ 8 → p.entry < 2 ^ 56 → p.privva < 2 ^ 64 → p.res < 2 ^ 32 → p.kind < 8 →
    p.spm < 2 ^ 13 → p.priv < 2 ^ 16 → p.asid < 2 ^ 16 → p.node < 2 ^ 16 → p.gidx < 2 ^ 16 → p.ngroups < 2 ^ 16 →
    p.bytes.length = 64 ∧ WorkPkt.parse p.bytes = p

/-- R126, R342, R382 to R389, R391, R392, R399, R400, R450: a core that stops gives each of its groups one of its pending traps, the lowest in
class, then age, warp and thread; classes 1, 8 and 9 hold the group for its swap-out, and the others kill it; this is in the cycle after that of
the first trap and once no instruction of the core waits for a walk, and the core resumes 64 lane cycles after its stop. A deferred trap is raised
at its warp's next boundary; a pre-emption holds its group once its warps stand at theirs; the watchdog charges class 10, WAIT. A held group that has drained takes a frame, is written there and waits for TRET, or waits for a
frame. -/
def Obligations.TrapSteps : Prop :=
  (∀ l : List PendTrap, (chooseTrap l = none ↔ l = []) ∧
    ∀ t, chooseTrap l = some t → t ∈ l ∧ ∀ u ∈ l,
      let x := t.trapRec
      let y := u.trapRec
      x.cls < y.cls ∨ (x.cls = y.cls ∧ (t.age < u.age ∨ (t.age = u.age ∧ (x.warp < y.warp ∨ (x.warp = y.warp ∧ x.thread ≤ y.thread)))))) ∧
  (∀ (s : State) (c : CoreId),
    let walks (w : Warp) : Prop := ∃ p ∈ w.splits, p.st = .blocked .walk
    ((∀ n l, (s.core c).stop = .stopping n l → s.clk ≤ n) → exec (.coreStop c) s = .next s) ∧
    ((∃ w ∈ s.warps, w.id.coreId = c ∧ walks w) → exec (.coreStop c) s = .next s) ∧
    ∀ n l, (s.core c).stop = .stopping n l → n < s.clk → (∀ w ∈ s.warps, w.id.coreId = c → ¬ walks w) →
      let u := s.modCore c fun k => { k with stop := .resuming (n + 65) }
      (c.core ≠ 16 → exec (.coreStop c) s = .next ((s.slotsOf c).foldl (fun st n => st.settleTraps c l n) u)) ∧
      (c.core ≠ 16 → (s.slotsOf c).Pairwise (· < ·) ∧ ∀ n, n ∈ s.slotsOf c ↔ ∃ g ∈ s.groups, g.core = c ∧ g.slot = n) ∧
      (c.core = 16 → ∀ p, l = [p] → (∀ g ∈ s.groups, g.core = c → g.deferred = []) →
        ∃ t, exec (.coreStop c) s = .next t ∧ (t.die c.die).curatorLoaded = false ∧
          (∀ w ∈ t.warps, w.id.coreId = c → w.grp = p.slot → w.widx = p.trapRec.warp → w.held = true) ∧
          (s.docent.opReports.length < 64 →
            t.docent.opReports = s.docent.opReports ++ [reportBody .core p.trapRec.cls p.trapRec.reason c.die none false 0 (some p.trapRec)]))) ∧
  (∀ (s : State) (c : CoreId) (l : List PendTrap) (g : Group), s.group? c g.slot = some g → g.phase = .running →
    let mine := (l.filter fun t => t.slot == g.slot) ++ (g.deferred.filter (s.deferDue g)).map (s.located c)
    let t := s.settleTraps c l g.slot
    (mine = [] → t = s) ∧
    ∀ p, chooseTrap mine = some p →
      (p.trapRec.cls ∈ [1, 8, 9] →
        (∃ g', t.group? c g.slot = some g' ∧ g'.phase = .held 0 ∧ g'.trap = p.trapRec ∧ g'.trapinfo = p.trapRec.info ∧
          g'.tiles = g.tiles) ∧
        ∀ w ∈ t.warps, w.id.coreId = c → w.grp = g.slot → w.held = true ∧ w.fetching = none) ∧
      (p.trapRec.cls ∉ [1, 8, 9] →
        t = (s.modGroup c g.slot fun x => { x with trapinfo := p.trapRec.info, deferred := [], preempt := none }).killGroup g
          (some p.trapRec))) ∧
  (∀ (s : State) (g : Group) (rep : Option TrapRec), s.group? g.core g.slot = some g → g.resident = true → g.slot ≠ 0xFFF →
    let t := s.killGroup g rep
    t.group? g.core g.slot = none ∧ (∀ w ∈ t.warps, w.id.coreId = g.core → w.grp ≠ g.slot) ∧
    (∀ h ∈ (t.core g.core).heldOps, ∀ b n, h.op = .localAdd b n → h.slot ≠ g.slot) ∧
    (∀ n e, n < 10 → .entry e ∈ (t.core g.core).queue n → e.slot ≠ g.slot) ∧ (∀ v ∈ (t.core g.core).windows, v.slot ≠ g.slot) ∧
    (g.cat ≠ 0 → ⟨s.unitOf g.wing, g.wing, g.cat, g.node, true⟩ ∈ t.ends)) ∧
  (∀ (s : State) (c : CoreId) (n : Nat), (s.core c).stop = .resuming n →
    ∃ t, exec (.otherWarpsResume c) s = .next t ∧ (n ≤ s.clk → (t.core c).stop = .none) ∧ (s.clk < n → (t.core c).stop = .resuming n)) ∧
  (∀ (s : State) (c : CoreId) (g : Group), s.group? c g.slot = some g → g.phase = .running →
    let live (w : Warp) : Prop := w ∈ s.warps ∧ w.id.coreId = c ∧ w.grp = g.slot ∧ w.splits ≠ []
    let rests (w : Warp) : Prop := w.readyAt ≤ s.clk ∧ ∀ p ∈ w.splits, (p.st = .running → p.phase = 0) ∧
      p.st ≠ .blocked .walk ∧ p.st ≠ .blocked .raise ∧ p.st ≠ .blocked .promote ∧ ∀ i, p.st ≠ .blocked (.instr i)
    let own (d : PendTrap) (w : Warp) : Prop := w.widx = d.trapRec.warp ∧ w.born ≤ d.age
    ((∀ d ∈ g.deferred, s.deferDue g d = false) → exec (.deferredTrap c g.slot) s = .next s) ∧
    (∀ d ∈ g.deferred, (∀ w, live w → rests w) → (∃ w, live w) ∨ d.since < s.clk → s.deferDue g d = true) ∧
    (∀ d ∈ g.deferred, (∀ w, ¬ live w) → s.clk ≤ d.since → s.deferDue g d = false) ∧
    (∀ d ∈ g.deferred, (∃ w, live w ∧ own d w) → (∀ w, live w → own d w → ¬ rests w) → s.deferDue g d = false) ∧
    (∀ d ∈ g.deferred, (∃ w, live w) → (∀ w, live w → ¬ rests w) → s.deferDue g d = false) ∧
    (∀ d ∈ g.deferred, s.deferDue g d = true → s.hasCore c →
      ∃ t n l, exec (.deferredTrap c g.slot) s = .next t ∧ (t.core c).stop = .stopping n l ∧
        (∀ e ∈ g.deferred, s.deferDue g e = true → s.located c e ∈ l) ∧
        (∀ j m, (s.core c).stop = .stopping j m → n = j ∧ ∀ e ∈ m, e ∈ l) ∧
        ((∀ j m, (s.core c).stop ≠ .stopping j m) → n = s.clk) ∧
        t.group? c g.slot = some { g with deferred := g.deferred.filter fun e => !s.deferDue g e })) ∧
  (∀ (s : State) (c : CoreId) (g : Group), s.group? c g.slot = some g →
    let ready := (∀ w ∈ s.warps, w.id.coreId = c → w.grp = g.slot → w.splits ≠ [] → w.atBoundary s.clk = true) ∧
      ∀ d ∈ g.deferred, s.deferDue g d = false
    ((g.preempt = none ∨ g.phase ≠ .running ∨ ¬ ready ∨ ∃ n l, (s.core c).stop = .stopping n l) →
      exec (.preemptionStop c g.slot) s = .next s) ∧
    (∀ cause, g.preempt = some cause → g.phase = .running → ready → (∀ n l, (s.core c).stop ≠ .stopping n l) → s.hasCore c →
      ∃ t g', exec (.preemptionStop c g.slot) s = .next t ∧ (t.core c).stop = .stopping s.clk [] ∧ t.group? c g.slot = some g' ∧
        g'.phase = .held cause ∧ g'.preempt = none ∧ g'.trap = .zero ∧
        ∀ w ∈ t.warps, w.id.coreId = c → w.grp = g.slot → w.held = true)) ∧
  (∀ (s : State) (id : WarpId) (w : Warp), s.warp? id = some w →
    let i : Instr := .watchdog id
    ((w.waitingAt = none ∨ w.waitFrom = none ∨ w.wdlimit = 0) → exec i s = .next s) ∧
    (∀ n, w.waitFrom = some n → s.clk < n + w.wdlimit.toNat * 2 ^ 16 → exec i s = .next s) ∧
    (∀ n k pc g, w.waitingAt = some (k, pc) → w.wdlimit ≠ 0 → w.waitFrom = some n → n + w.wdlimit.toNat * 2 ^ 16 ≤ s.clk →
      s.groupOf w = some g →
      w.running = none ∧ w.held = false ∧
      (∃ p x, w.splits[k]? = some p ∧ p.pc = pc ∧ p.st = .blocked x ∧
        ((∃ g t q len, x = .count g t q len) ∨ (∃ b v len acq, x = .localCtr b v len acq) ∨ (∃ i len acq, x = .answer i len acq) ∨
          (∃ b, x = .batch b) ∨ x = .mailbox ∨ ∃ r, x = .room r ∧ (∀ cls, r ≠ .count cls) ∧ ∀ ctr, r ≠ .held ctr)) ∧
      ∃ t d, exec i s = .next t ∧ t.warp? id = some { w with waitFrom := none } ∧
        t.group? id.coreId w.grp = some { g with deferred := g.deferred ++ [d] } ∧ d.trapRec.cls = 10 ∧ d.trapRec.reason = 0x60 ∧
        d.trapRec.pc = pc ∧ d.trapRec.split = k ∧ d.trapRec.warp = w.widx ∧ d.trapRec.deferred = true)) ∧
  (∀ (s : State) (c : CoreId) (g : Group), s.group? c g.slot = some g →
    let i : Instr := .swapOut c g.slot
    ((∀ cause, g.phase ≠ .held cause) → exec i s = .next s) ∧
    ∀ cause, g.phase = .held cause →
      (s.drained g = false → exec i s = .next s) ∧
      (s.drained g = true → (s.die c.die).frames = [] → (∃ d ∈ s.dies, d.id = c.die) →
        ∃ t, exec i s = .next t ∧ t.group? c g.slot = some { g with phase := .frameWait cause } ∧
          (t.die c.die).inbound = (s.die c.die).inbound ++ [g.service 0 3]) ∧
      ∀ f rest, s.drained g = true → (s.die c.die).frames = f :: rest →
        let s0 := (s.modDie c.die fun d => { d with frames := rest }).combFlush c fun _ => true
        (∀ e, s0.saveWarps g (s0.liveWarps g) = .error e →
          ∃ t g', exec i s = .next t ∧ t.group? c g.slot = some g' ∧ g'.phase = .stuck cause) ∧
        ∀ s1 ps, s0.saveWarps g (s0.liveWarps g) = .ok s1 →
          let img := s1.image g cause
          s1.pagesUp (s1.frameWho c.die) .write f img.length = .ok ps →
          ∃ t g', exec i s = .next t ∧ t.group? c g.slot = some g' ∧ g'.phase = .swapped f cause ∧
            g'.reserved = (s1.liveWarps g).map (·.id) ∧ g'.tiles = [] ∧ g'.ctrs = [] ∧
            (∀ w ∈ t.warps, ¬ (w.id.coreId = c ∧ w.grp = g.slot)) ∧ (t.die c.die).frames = rest ∧
            (t.die c.die).inbound = (s.die c.die).inbound ++ [g.service f cause]) ∧
  (∀ (s : State) (c : CoreId) (g : Group) (cause : Nat), s.group? c g.slot = some g → g.phase = .frameWait cause →
    ((s.die c.die).frames = [] → exec (.frameWaitResume c g.slot) s = .next s) ∧
    ((s.die c.die).frames ≠ [] → ∃ t, exec (.frameWaitResume c g.slot) s = .next t ∧
      t.group? c g.slot = some { g with phase := .held cause })) ∧
  ∀ (g : Group) (nw neng cause : Nat), nw < 2 ^ 16 → neng < 2 ^ 16 → g.slot < 2 ^ 12 → g.core.core < 16 → 1 ≤ g.res.warps →
    g.res.warps ≤ 1024 → g.res.vregs < 2 ^ 8 → g.res.tiles < 2 ^ 5 → g.res.counters < 2 ^ 9 → g.res.spm < 2 ^ 16 → g.res.priv < 2 ^ 16 →
    g.nextb < 16 → g.wptr.length = 8 → g.trap.bytes.length = 32 →
    let h := Header.parse (g.header nw neng cause)
    (g.header nw neng cause).length = 256 ∧ h.ok = true ∧ h.nwarps = nw ∧ h.neng = neng ∧ h.core = g.core.core ∧ h.slot = g.slot ∧
    h.res = g.res ∧ h.nextb = g.nextb ∧ h.done = g.batchDone.toNat ∧ h.wptr = g.wptr ∧ h.trap = g.trap.bytes

/-! ### Ports, regions and queue pairs -/

/-- R18, R80, R391, R401, R406 to R408, R411, R416, R418, R425: a frame that its port does not carry is dropped and counted. An incoming WRITE
or READ needs Stage 2, its queue pair and a region that admits it, else it is refused; one by a port of another wing is dropped. A WRITE is placed
one 8-byte element at a time, and then, if it has an immediate, adds to the region's counter, and is acknowledged. A queue pair takes its
descriptors in order up to its doorbell and counts each as it completes, in ring order. The docent serves senders in rotating order. QPCREATE,
QPDESTROY, MRREG, MRDROP, GENRAISE, PREEMPT, RESYNC and ATTEST reply as their checks say, in the model's order (log 24). The model's choices here:
the entries that RESYNC shows (log 29), the rate after DCQCN's reduction, LEN's status out of its range, that a place and a PSN go on per message (log 26), the operator's place in
the rotation, and NOTREADY of a failed port (log 44). -/
def Obligations.PortSteps : Prop :=
  (∀ (s : State) (port : Nat) (k : FrameKind),
    let owned := ∃ w ∈ s.wings, w.holds = true ∧ w.ports.getLsbD port = true
    let own := s.docent.stage ≠ 0 ∨ s.docent.socket = 18 ∨ s.docent.socket = (if port < 8 then 18 else 19)
    let ofPort (qp : Nat) : Prop := ∃ w, s.wings.find? (fun w => w.holds && w.ports.getLsbD port) = some w ∧
      ∀ q, s.qp? qp = some q → q.wing = w.id
    let carried := ((∃ m, k = .ccp m) ∧ (port = 0 ∨ port = 8) ∧ own) ∨ ∃ qp, k = .roce qp ∧ ofPort qp
    (∀ qp, ofPort qp → owned) ∧ (s.carries port k = true ↔ carried) ∧
    ((∀ m, k = .ccp m → ccpListed m = true) →
    (carried → exec (.portFrameReceive port k) s = .next s) ∧
    (¬ carried → exec (.portFrameReceive port k) s = .next { s with ports := s.ports.map fun p =>
      if p.id == port then { p with dropped := min (p.dropped + 1) (2 ^ 32 - 1) } else p }))) ∧
  (∀ (s : State) (i : Instr) (who : Nat), s.ccpNext = some (i, who) →
    ∃ m, i ∈ s.agenda ∧ ccpOf i = some m ∧ m.wing % 16 = who ∧
      ∀ j x rest, s.agenda = j :: rest → ccpOf j = some x → (who + 31 - s.docent.ccpTurn % 16) % 16 ≤ (x.wing % 16 + 31 - s.docent.ccpTurn % 16) % 16) ∧
  (∀ (s : State) (qp rkey va : Nat) (data : List Byte) (imm : Word) (len : Nat),
    let refused (i : Instr) : Prop := exec i s = .next { s with out := .roceNak qp :: s.out }
    let foreign (i : Instr) (q : Qp) : Prop := exec i s = .next (s.frame q.body.port (.roce qp))
    (s.qp? qp = none →
      refused (.roceWrite qp rkey va data) ∧ refused (.roceWriteImmediate qp rkey va data imm) ∧ refused (.roceRead qp rkey va len)) ∧
    (∀ q, s.qp? qp = some q → s.carries q.body.port (.roce qp) = false →
      foreign (.roceWrite qp rkey va data) q ∧ foreign (.roceWriteImmediate qp rkey va data imm) q ∧ foreign (.roceRead qp rkey va len) q) ∧
    (∀ q, s.qp? qp = some q → s.carries q.body.port (.roce qp) = true → s.docent.stage < 2 →
      refused (.roceWrite qp rkey va data) ∧ refused (.roceWriteImmediate qp rkey va data imm) ∧ refused (.roceRead qp rkey va len)) ∧
    ∀ q, 2 ≤ s.docent.stage → s.qp? qp = some q → s.carries q.body.port (.roce qp) = true →
      let admits (r : Region) (n : Nat) (write : Bool) : Prop :=
        r.rkey = rkey ∧ r.wing = q.wing ∧ r.va ≤ va ∧ va + n ≤ r.va + r.len ∧ (if write then r.writeOk else r.readOk) = true
      ((∀ r ∈ s.regions, ¬ admits r data.length true) →
        refused (.roceWrite qp rkey va data) ∧ refused (.roceWriteImmediate qp rkey va data imm)) ∧
      ((∀ r ∈ s.regions, ¬ admits r len false) → refused (.roceRead qp rkey va len)) ∧
      (∀ r, s.regionFor q rkey va data.length true = some r → r ∈ s.regions ∧ admits r data.length true ∧
        exec (.roceWrite qp rkey va data) s = .next (s.modQp qp fun x => { x with writes := x.writes ++ [⟨r, va, data.length, data, none⟩] }) ∧
        exec (.roceWriteImmediate qp rkey va data imm) s =
          .next (s.modQp qp fun x => { x with writes := x.writes ++ [⟨r, va, data.length, data, some imm⟩] })) ∧
      (∀ r, s.regionFor q rkey va len false = some r → r ∈ s.regions ∧ admits r len false ∧
        (∀ ps, s.engPages (roceWho r.asid r.wing) .read va len = .ok ps →
          exec (.roceRead qp rkey va len) s = .next (s.roceDone q len (s.readPages ps))) ∧
        ∀ c, s.engPages (roceWho r.asid r.wing) .read va len = .error c →
          exec (.roceRead qp rkey va len) s = .next (s.roceFault q c))) ∧
  (∀ (s : State) (q : Qp) (m : Placing) (rest : List Placing), s.qp? q.qpn = some q → q.writes = m :: rest →
    let n := min m.data.length (8 - m.va % 8)
    let who := roceWho m.region.asid m.region.wing
    let ends (t : State) : State := t.modQp q.qpn fun x => { x with writes := rest }
    (∀ t c, s.place who m.va (m.data.take n) = (t, some c) → s.placeNext q.qpn = (ends t).roceFault q c) ∧
    (∀ t, s.place who m.va (m.data.take n) = (t, none) → n < m.data.length → s.placeNext q.qpn =
      t.modQp q.qpn fun x => { x with writes := { m with va := m.va + n, data := m.data.drop n } :: rest }) ∧
    ∀ t, s.place who m.va (m.data.take n) = (t, none) → n = m.data.length →
      ((m.imm = none ∨ m.region.cntVa = none) → s.placeNext q.qpn = (ends t).roceDone q m.len []) ∧
      ∀ i cv, m.imm = some i → m.region.cntVa = some cv →
        (∀ u, (ends t).unitAdd m.region.asid m.region.wing cv (i.setWidth 64) = .ok (u, false) →
          s.placeNext q.qpn = u.roceDone q m.len []) ∧
        ∀ c, (ends t).unitAdd m.region.asid m.region.wing cv (i.setWidth 64) = .error c →
          s.placeNext q.qpn = (ends t).roceFault q { c with va := some cv }) ∧
  (∀ (s : State) (q : Qp) (len : Nat) (data : List Byte), s.qp? q.qpn = some q →
    (s.roceDone q len data).out = .roceAck q.qpn data :: s.out ∧
    (s.roceDone q len data).qp? q.qpn = some { q with rxPsn := (q.rxPsn + max 1 ((len + 4095) / 4096)) % 2 ^ 24 }) ∧
  (∀ (s : State) (q : Qp), s.qp? q.qpn = some q →
    let t := s.modQp q.qpn fun x => { x with completed := x.completed + 1, sent := x.sent.drop 1 }
    (∀ status, (s.finish q.qpn status).qp? q.qpn = some { q with completed := q.completed + 1, sent := q.sent.drop 1 }) ∧
    (∀ u, t.unitAdd q.body.asid q.wing q.body.doneVa 1 = .ok (u, false) → s.finish q.qpn 0 = u) ∧
    (∀ status u, status ≠ 0 →
      (t.place q.who (q.slotVa q.completed + 1) [BitVec.ofNat 8 status]).1.unitAdd q.body.asid q.wing q.body.doneVa 1 = .ok (u, false) →
      s.finish q.qpn status = u) ∧
    ((∀ d rest, q.sent = d :: rest → d.status = none) → s.finishAll q.qpn = s) ∧
    ∀ d rest status, q.sent = d :: rest → d.status = some status → s.finishAll q.qpn = (s.finish q.qpn status).finishAll q.qpn) ∧
  (∀ (s : State) (qp : Nat),
    ((s.docent.stage < 2 ∨ s.qp? qp = none) → exec (.sendDescriptorTake qp) s = .next s) ∧
    (s.qp? qp = none → ∀ nak data, exec (.descriptorComplete qp nak data) s = .next s)) ∧
  (∀ (s : State) (q : Qp), 2 ≤ s.docent.stage → s.qp? q.qpn = some q →
    let i : Instr := .sendDescriptorTake q.qpn
    (s.doorbell q ≤ q.taken → exec i s = .next s) ∧
    (q.taken < s.doorbell q →
      let u := s.modQp q.qpn fun x => { x with taken := x.taken + 1 }
      let fails (v : State) (d : SendDesc) : Prop :=
        exec i s = .next ((v.modQp q.qpn fun x => { x with sent := x.sent ++ [d] }).finishAll q.qpn)
      (∀ c, u.engPages q.who .read (q.slotVa q.taken) 32 = .error c → fails (u.found c) ⟨0, 0, 0, some 0x02⟩) ∧
      ∀ ps, u.engPages q.who .read (q.slotVa q.taken) 32 = .ok ps →
        let d := u.readPages ps
        let op := bytesNat d 0 1
        let len := bytesNat d 4 4
        let lva := bytesNat d 8 8
        let sends (data : List Byte) : Prop :=
          ∃ t q2, exec i s = .next t ∧ t.out = .roceSend q.qpn op (bytesNat d 16 8) (bytesNat d 24 4) (bytesNat d 28 4) len data :: s.out ∧
            t.qp? q.qpn = some q2 ∧ q2.sent = q.sent ++ [⟨op, lva, len, none⟩] ∧ q2.taken = q.taken + 1 ∧ q2.completed = q.completed ∧
            q2.body.txPsn = (q.body.txPsn + max 1 ((len + 4095) / 4096)) % 2 ^ 24
        (3 ≤ op → fails u ⟨op, lva, len, some 0x01⟩) ∧
        (op < 3 → (len = 0 ∨ 2 ^ 31 < len) → fails u ⟨op, lva, len, some 0x02⟩) ∧
        (1 ≤ len → len ≤ 2 ^ 31 → (op = 2 → sends []) ∧
          (op < 2 → ∀ c, u.engPages q.who .read lva len = .error c → fails (u.found c) ⟨op, lva, len, some 0x02⟩) ∧
          (op < 2 → ∀ ls, u.engPages q.who .read lva len = .ok ls → sends (u.readPages ls))))) ∧
  (∀ (s : State) (q : Qp) (data : List Byte), 2 ≤ s.docent.stage → s.qp? q.qpn = some q → s.carries q.body.port (.roce q.qpn) = true →
    (q.sent = [] → ∀ nak, exec (.descriptorComplete q.qpn nak data) s = .next s) ∧
    ∀ d rest, q.sent = d :: rest →
      let ends (nak : Bool) (t : State) (status : Nat) : Prop :=
        exec (.descriptorComplete q.qpn nak data) s = .next ((t.finish q.qpn status).finishAll q.qpn)
      ends true s 0x03 ∧ (d.op ≠ 2 → ends false s 0) ∧
      (d.op = 2 → ∀ t, s.place q.who d.lva (data.take d.len) = (t, none) → ends false t 0) ∧
      (d.op = 2 → ∀ t c, s.place q.who d.lva (data.take d.len) = (t, some c) → ends false (t.found c) 0x02)) ∧
  (∀ (s : State) (qp : Nat), ∃ t, exec (.dcqcnRateReduction qp) s = .next t ∧ t.qps.length = s.qps.length ∧
    ∀ (k : Nat) (q : Qp), s.qps[k]? = some q → ∃ r, r ≤ q.rate ∧ t.qps[k]? = some (if q.qpn = qp then { q with rate := r } else q)) ∧
  (∀ (s : State) (m : Ccp) (b : QpBody), s.grantsActive m 0x0A →
    let a := s.ccpAccept m
    let answers (code : Nat) : Prop := exec (.qpcreate m b) s = .next (a.reply m code [])
    let mine := (s.wing m.wing).ports.getLsbD b.port = true ∧ (a.desc b.asid).wg = m.wing
    let up := ∃ p, s.ports.find? (fun p => p.id == b.port) = some p ∧ p.up = true
    let full := 256 ≤ (s.qps.filter fun q => q.wing == m.wing).length ∨ 2048 ≤ s.qps.length
    (qpBodyOk b = false → answers 0x32) ∧
    (qpBodyOk b = true → ¬ mine → answers 0x31) ∧
    (qpBodyOk b = true → mine → ¬ up → answers 0x30) ∧
    (qpBodyOk b = true → mine → up → full → answers 0x06) ∧
    (qpBodyOk b = true → mine → up → ¬ full →
      ∃ t n, exec (.qpcreate m b) s = .next t ∧ n < 2 ^ 24 ∧ (∀ q ∈ s.qps, q.qpn ≠ n) ∧ t.out = .reply m.wing m.seq 0 [n] :: s.out ∧
        t.qps = s.qps ++ [⟨n, m.wing, b, 0, 0, b.rxPsn, 256, [], []⟩])) ∧
  (∀ (s : State) (m : Ccp) (n : Nat),
    let a := s.ccpAccept m
    let answers (i : Instr) (code : Nat) : Prop := exec i s = .next (a.reply m code [])
    (s.grantsActive m 0x0B → (s.qp? n = none → answers (.qpdestroy m n) 0x32) ∧
    (∀ q, s.qp? n = some q → q.wing ≠ m.wing → answers (.qpdestroy m n) 0x31) ∧
    (∀ q, s.qp? n = some q → q.wing = m.wing → exec (.qpdestroy m n) s =
      .next (({ a with qps := a.qps.filter fun x => x.qpn != n } : State).reply m 0 []))) ∧
    (s.grantsActive m 0x09 → ((∀ r ∈ s.regions, r.rkey ≠ n) → answers (.mrdrop m n) 0x32) ∧
    (∀ r, s.regions.find? (fun r => r.rkey == n) = some r → r.wing ≠ m.wing → answers (.mrdrop m n) 0x31) ∧
    (∀ r, s.regions.find? (fun r => r.rkey == n) = some r → r.wing = m.wing → exec (.mrdrop m n) s =
      .next (({ a with regions := a.regions.filter fun x => x.rkey != n } : State).reply m 0 []))) ∧
    (s.grantsActive m 0x06 → (2 ^ 16 ≤ n → answers (.genraise m n) 0x32) ∧
    (n < 2 ^ 16 → (a.desc n).wg ≠ m.wing → answers (.genraise m n) 0x31) ∧
    (n < 2 ^ 16 → (a.desc n).wg = m.wing → (a.memDown (a.genPA n) || a.bypass (a.genPA n)) = true → answers (.genraise m n) 0x30) ∧
    (n < 2 ^ 16 → (a.desc n).wg = m.wing → (a.memDown (a.genPA n) || a.bypass (a.genPA n)) = false →
      exec (.genraise m n) s = .next (a.startRaise 0 n none (some (m.wing, m.seq)))))) ∧
  (∀ (s : State) (m : Ccp) (b : MrBody), s.grantsActive m 0x08 → s.regions.length < 2 ^ 32 →
    let a := s.ccpAccept m
    let ok := b.asid < 2 ^ 16 ∧ b.va + b.len ≤ 2 ^ 56 ∧ ∀ v, b.cntVa = some v → v % 8 = 0
    (¬ ok → exec (.mrreg m b) s = .next (a.reply m 0x32 [])) ∧
    (ok → (a.desc b.asid).wg ≠ m.wing → exec (.mrreg m b) s = .next (a.reply m 0x31 [])) ∧
    (ok → (a.desc b.asid).wg = m.wing →
      ∃ t k, exec (.mrreg m b) s = .next t ∧ k < 2 ^ 32 ∧ (∀ r ∈ s.regions, r.rkey ≠ k) ∧ t.out = .reply m.wing m.seq 0 [k] :: s.out ∧
        t.regions = s.regions ++ [⟨k, m.wing, b.asid, b.va, b.len, b.readOk, b.writeOk, b.cntVa⟩])) ∧
  (∀ (s : State) (m : Ccp) (d c n : Nat), s.grantsActive m 0x07 →
    let a := s.ccpAccept m
    let i : Instr := .preempt m d c n
    let fits := d < 9 ∧ c < 16 ∧ n < 4096
    let mine := s.dieWing d = m.wing ∧ ∀ g, s.group? ⟨d, c⟩ n = some g → g.wing = m.wing
    (¬ fits → exec i s = .next (a.reply m 0x32 [])) ∧
    (fits → ¬ mine → exec i s = .next (a.reply m 0x31 [])) ∧
    (fits → mine → ∃ t, exec i s = .next t ∧ t.out = .reply m.wing m.seq 0 [] :: s.out ∧
      ∀ g, s.group? ⟨d, c⟩ n = some g →
        t.group? ⟨d, c⟩ n = some (if g.phase = .running ∧ g.preempt = none then { g with preempt := some 2 } else g))) ∧
  ∀ (s : State) (m : Ccp) (nonce : Nat),
    let a := s.ccpAccept m
    (s.grants m 0x01 → exec (.resync m) s = .next (a.reply m 0 (a.summary m.wing))) ∧
    (s.ports.length = 16 → (a.summary m.wing).length = 544) ∧
    (∀ k, k < 8 → ∀ n, n < 15 → (a.summary m.wing).getD (8 + 8 * n + k) 0 =
      if m.wing = 15 ∨ m.wing = n then (a.wing n).entry / 256 ^ k % 256 else 0) ∧
    (s.grants m 0x1B → ∃ sig1 sig2, exec (.attest m nonce) s = .next (a.reply m 0
      [nonce, s.docent.fwDocent.hash, s.docent.fwCurator.hash, s.docent.fwBuffer.hash, (a.wing m.wing).entry, (a.wing m.wing).slotByte,
        s.docent.stage, sig1, sig2]))

/-! ### Wings, keys, resets and management -/

/-- R18, R19, R36, R43, R68, R92, R380, R402 to R405, R410 to R414, R416, R417, R419 to R424: WINGSET, WINGQUIESCE, SLOTSET, KEYLOAD, KEYREVOKE,
MGMTRD, MGMTWR and FWLOAD reply as their checks say, in the model's order (log 24), and do what they say; a wing's quiescing, its revocation and
the zeroing of memory complete. Power-good, the stages, a warm reset, the resets of a die's two domains, fences, cooling, the power cap, a port's
failure and the loading of a curator's program do what the rules give them. The model's choices here: the descriptors' base (log 12), the
groups of a core-domain reset or a fence (log 23), what a warm reset starts anew (log 28), the curator's
entry and launch (log 33), what WINGSET drops with a wing it frees (log 35), and bytes of 0 where nothing has written (log 11). -/
def Obligations.WingsAndManagement : Prop :=
  (∀ (s : State) (m : Ccp) (b : WingBody), s.grants m 0x10 →
    let a := s.ccpAccept m
    let w := s.wing b.wing
    let keys : Option (Nat × Nat) := match b.keys with
      | some k => if k.under = s.docent.opKey then some (k.first, k.second) else none
      | none => none
    let new := w.assign b keys
    let answers (code : Nat) : Prop := exec (.wingset m b) s = .next (a.reply m code [])
    let open' := b.wing < 15 ∧ (w.st = .free ∨ w.st = .quiesced) ∧ w.revoking = none
    let named := b.dies ≠ 0 ∧ (w.st = .free ∨ b.keys ≠ none → keys ≠ none)
    let unserved := new.st = .active ∧ wheelServes s.lastWheel b.wing = false
    (15 ≤ b.wing → answers 0x32) ∧
    (b.wing < 15 → ¬ open' → answers 0x33) ∧
    (open' → b.dies = 0 → w.st = .free → answers 0) ∧
    (open' → b.dies = 0 → w.st = .quiesced → exec (.wingset m b) s = .next ((a.freeWing b.wing).reply m 0 [])) ∧
    (open' → b.dies ≠ 0 → (w.st = .free ∨ b.keys ≠ none) → keys = none → answers 0x32) ∧
    (∀ k, keys = some k → new.control = some k.1 ∧ new.wrapping = some k.2) ∧
    (keys = none → new.control = w.control ∧ new.wrapping = w.wrapping) ∧
    (w.st = .free → new.kickSeq = 0 ∧ new.catUnit = b.catUnit) ∧
    (open' → named → s.wingClash b = true → answers 0x31) ∧
    (open' → named → s.wingClash b = false → s.namesZeroing b = true → answers 0x33) ∧
    (open' → named → s.wingClash b = false → s.namesZeroing b = false → unserved → answers 0x34) ∧
    (open' → named → s.wingClash b = false → s.namesZeroing b = false → ¬ unserved → (∃ x ∈ s.wings, x.id = b.wing) →
      (new.st = if w.st = .free ∨ w.keySt ≠ .loaded then .quiesced else .active) ∧
      ∃ t, exec (.wingset m b) s = .next t ∧ t.out = .reply m.wing m.seq 0 [] :: s.out ∧ t.wing b.wing = new ∧
        (∀ n, n ≠ b.wing → t.wing n = s.wing n) ∧
        (∀ d ∈ t.dies, w.dies.getLsbD d.id = true → b.dies.getLsbD d.id = false → d.zeroing = true) ∧
        ∀ x ∈ t.buffers, w.bufs.getLsbD x.id = true → b.bufs.getLsbD x.id = false → x.zeroing = true)) ∧
  (∀ (s : State) (n : Nat), (∃ x ∈ s.wings, x.id = n) →
    let t := s.freeWing n
    (t.wing n).st = .free ∧ (t.wing n).keySt = .zeroising ∧ (t.wing n).keyMirror = ⟨.zeroising, false, none⟩ ∧ (t.wing n).pair = none ∧
    (t.wing n).control = none ∧ (t.wing n).wrapping = none ∧ (t.wing n).dies = 0 ∧ (t.wing n).inSeq = (s.wing n).inSeq ∧
    (∀ c ∈ t.cats, c.wing ≠ n) ∧ (∀ r ∈ t.regions, r.wing ≠ n) ∧
    ∀ k ∈ t.hbms, (s.wing n).dies.getLsbD k.id = true → k.zeroing = true) ∧
  (∀ w : Wing, w.zeroised = if w.keySt = .zeroising then { w with keySt := .empty, retain := false, pair := none, keyMirror := ⟨.empty, false, none⟩ }
    else w) ∧
  (∀ (s : State) (m : Ccp) (n : Nat), s.grants m 0x11 →
    let a := s.ccpAccept m
    let w := s.wing n
    let answers (code : Nat) : Prop := exec (.wingquiesce m n) s = .next (a.reply m code [])
    let own := m.wing = 15 ∨ m.wing = n
    (15 ≤ n → answers 0x32) ∧
    (n < 15 → ¬ own → answers 0x31) ∧
    (n < 15 → own → (w.st ≠ .active ∨ w.revoking ≠ none) → answers 0x30) ∧
    (n < 15 → own → w.st = .active → w.revoking = none →
      ∃ t rest, exec (.wingquiesce m n) s = .next t ∧ t.out = .reply m.wing m.seq 0 [] :: rest ∧ (t.wing n).quiescing = true ∧
        (t.wing n).st = .active ∧ (∀ c ∈ t.cats, c.wing = n → c.queued = []) ∧
        ∀ c ∈ s.cats, c.wing = n → ∀ q ∈ c.queued, ∃ k, .done n k q 0x21 0 ∈ rest)) ∧
  (∀ (s : State) (n : Nat),
    let w := s.wing n
    let ready := w.quiescing = true ∧ w.st = .active ∧ ∀ c ∈ s.cats, c.wing = n → c.replay = none ∧ c.queued = []
    (¬ ready → exec (.wingQuiesced n) s = .next s) ∧
    (ready → s.hasGroups n = true → exec (.wingQuiesced n) s = .next (s.closeQps n)) ∧
    (ready → s.hasGroups n = false → exec (.wingQuiesced n) s =
      .next ((s.closeQps n).modWing n fun v => { v with st := .quiesced, quiescing := false })) ∧
    (∀ q ∈ (s.closeQps n).qps, q ∈ s.qps ∧ q.wing ≠ n) ∧ (∀ q ∈ s.qps, q.wing ≠ n → q ∈ (s.closeQps n).qps) ∧
    ∀ q, s.qps = [q] → q.wing = n → (s.closeQps n).out = List.replicate q.writes.length (.roceNak q.qpn) ++ s.out) ∧
  (∀ (s : State) (m : Ccp) (os : List (Nat × BitVec 8)), s.grants m 0x12 →
    let a := s.ccpAccept m
    let wheel := os.foldl (fun l o => l.set o.1 (ownerStored o.1 o.2)) s.lastWheel
    let served := ∀ w ∈ s.wings, w.st = .active → wheelServes wheel w.id = true
    ((∃ o ∈ os, 64 ≤ o.1) → exec (.slotset m os) s = .next (a.reply m 0x32 [])) ∧
    ((∀ o ∈ os, o.1 < 64) → ¬ served → exec (.slotset m os) s = .next (a.reply m 0x34 [])) ∧
    ((∀ o ∈ os, o.1 < 64) → served → exec (.slotset m os) s =
      .next (({ a with docent := { a.docent with wheelNext := some wheel } } : State).reply m 0 []))) ∧
  (∀ (s : State) (m : Ccp) (pair : Wrapped) (retain : Bool), s.grants m 0x13 →
    let a := s.ccpAccept m
    let w := s.wing m.wing
    let i : Instr := .keyload m pair retain
    let answers (code : Nat) : Prop := exec i s = .next (a.reply m code [])
    let free := w.keySt = .empty ∧ w.revoking = none
    let may := w.st = .quiesced ∨ w.st = .revoked
    (¬ free → answers 0x33) ∧ (free → ¬ may → answers 0x30) ∧
    (free → may → (w.wrapping ≠ some pair.under ∨ pair.first = pair.second) → answers 0x32) ∧
    (free → may → w.wrapping = some pair.under → pair.first ≠ pair.second →
      let p := (pair.first, pair.second)
      ∃ t, exec i s = .next t ∧ t.out = .reply m.wing m.seq 0 [] :: s.out ∧ (t.wing m.wing).keySt = .loaded ∧
        (t.wing m.wing).keyMirror = ⟨.loaded, retain, some p⟩ ∧ (t.wing m.wing).pair = some p ∧ (t.wing m.wing).retain = retain ∧
        (t.wing m.wing).st = .quiesced ∧ p ∈ (t.wing m.wing).pairsSeen)) ∧
  (∀ (s : State) (m : Ccp) (n : Nat), s.grants m 0x14 →
    let a := s.ccpAccept m
    let w := s.wing n
    let answers (code : Nat) : Prop := exec (.keyrevoke m n) s = .next (a.reply m code [])
    let own := m.wing = 15 ∨ m.wing = n
    (15 ≤ n → answers 0x32) ∧ (n < 15 → ¬ own → answers 0x31) ∧ (n < 15 → own → w.st = .free → answers 0x30) ∧
    (n < 15 → own → w.st ≠ .free → w.revoking ≠ none → answers 0x33) ∧
    (n < 15 → own → w.st ≠ .free → w.revoking = none →
      ∃ t, exec (.keyrevoke m n) s = .next t ∧ (t.wing n).revoking = some (m.wing, m.seq) ∧ (t.wing n).quiescing = false ∧
        (∀ g ∈ t.groups, g.wing = n → g.core.core = 16) ∧ (∀ q ∈ t.qps, q.wing ≠ n) ∧
        ∀ c ∈ t.cats, c.wing = n → c.replay = none ∧ c.queued = [])) ∧
  (∀ (s : State) (n : Nat),
    let w := s.wing n
    (w.revoking = none → exec (.keyrevokeComplete n) s = .next s) ∧
    (∀ who seq, w.revoking = some (who, seq) →
      let drained := (∀ p ∈ s.packets, p.wing ≠ w.id) ∧ ∀ x ∈ s.warps, ¬ (w.dies.getLsbD x.id.die = true ∧ x.id.core < 16)
      (w.keySt ≠ .zeroising → ¬ drained → exec (.keyrevokeComplete n) s = .next s) ∧
      (w.keySt ≠ .zeroising → drained → ∃ t, exec (.keyrevokeComplete n) s = .next t ∧
        (t.wing n).keySt = .zeroising ∧ (t.wing n).keyMirror = ⟨.zeroising, false, none⟩ ∧ (t.wing n).pair = none ∧
        (t.wing n).revoking = w.revoking ∧ ∀ k ∈ t.cores, w.dies.getLsbD k.id.die = true → k.l1 = []) ∧
      (w.keySt = .zeroising → ∃ t, exec (.keyrevokeComplete n) s = .next t ∧ t.out = .reply who seq 0 [] :: s.out ∧
        (t.wing n).st = .revoked ∧ (t.wing n).keySt = .empty ∧ (t.wing n).keyMirror = ⟨.empty, false, none⟩ ∧ (t.wing n).pair = none ∧
        (t.wing n).revoking = none))) ∧
  (∀ (s : State) (n : Nat),
    ((s.die n).zeroing = false → exec (.zeroingComplete (.die n)) s = .next s) ∧
    ((s.stack n).zeroing = false → exec (.zeroingComplete (.stack n)) s = .next s) ∧
    ((s.buffer n).zeroing = false → exec (.zeroingComplete (.buffer n)) s = .next s) ∧
    ((s.die n).zeroing = true → ∃ t, exec (.zeroingComplete (.die n)) s = .next t ∧ (t.die n).zeroing = false ∧
      (t.die n).coreDom ≠ .reset ∧ (t.die n).uncore ≠ .reset ∧ (∀ l ∈ t.l2, l.home ≠ n) ∧
      (t.die n).mailbox = [] ∧ (∀ k ∈ t.cores, k.id.die = n → k.notices = []) ∧
      ∀ g ∈ t.groups, g.core.die = n → g.core.core < 17 → g.resident = false) ∧
    ((s.stack n).zeroing = true → ∃ t, exec (.zeroingComplete (.stack n)) s = .next t ∧ (t.stack n).zeroing = false ∧
      ∀ pa, isStackPA pa = true → stackDie pa = n → t.epochOf pa = 0 → t.dramByte pa = 0) ∧
    ((s.buffer n).zeroing = true → ∃ t, exec (.zeroingComplete (.buffer n)) s = .next t ∧ (t.buffer n).zeroing = false ∧
      (t.buffer n).queue = [])) ∧
  (∀ (s : State) (m : Ccp) (r : MgmtReg), s.grants m 0x18 →
    let a := s.ccpAccept m
    (mgmtOk r = false → exec (.mgmtrd m r) s = .next (a.reply m 0x32 [])) ∧
    (mgmtOk r = true → exec (.mgmtrd m r) s = .next (a.reply m 0 [s.mgmtRead r]))) ∧
  (∀ (s : State) (m : Ccp) (r : MgmtReg) (v : DWord), s.grants m 0x19 →
    let a := s.ccpAccept m
    let b := a.reply m 0 []
    let writes (t : State) : Prop := exec (.mgmtwr m r v) s = .next t
    (mgmtOk r = false → writes (a.reply m 0x32 [])) ∧
    let fits := isStackPA v.toNat = true ∧ v.toNat % 2 ^ 40 + 2 ^ 21 ≤ 2 ^ 36 ∧ v.toNat % 32 = 0
    (r = .descBase → ¬ fits → writes (a.reply m 0x32 [])) ∧
    (r = .descBase → fits → writes { b with docent := { b.docent with descBase := v.toNat } }) ∧
    (r = .powerCap → writes { b with docent := { b.docent with powerCap := v.toNat } }) ∧
    (r = .reset → writes (if v.getLsbD 0 then b.warm else b)) ∧
    (∀ n, n < 9 → r = .hmerr n → writes b) ∧
    (∀ n, n < 9 → r = .hmstat n → writes (if v.getLsbD 21 then b.modStack n fun k => { k with filterFull := false } else b)) ∧
    ∀ n, n < 9 → r = .hmcfg n → (∃ k ∈ s.hbms, k.id = n) →
      ∃ t, writes t ∧ t.out = .reply m.wing m.seq 0 [] :: s.out ∧ (t.stack n).scrubHours = BitVec.ofNat 8 (v.toNat / 256) ∧
        (t.stack n).fastAll = v.getLsbD 0 ∧ (v.getLsbD 16 = true → (t.stack n).corrected = 0 ∧ (t.stack n).uncorrected = 0)) ∧
  (∀ (s : State) (m : Ccp) (f : FwImage), s.grants m 0x1A →
    let a := s.ccpAccept m
    let good := f.rsaOk = true ∧ f.slhOk = true ∧ (s.docent.firmware f.kind).stored ≤ f.rollback
    (good → exec (.fwload m f) s = .next (({ a with docent := a.docent.install f } : State).reply m 0 [])) ∧
    (¬ good → exec (.fwload m f) s = .next (a.reply m 0x35 []))) ∧
  (∀ s : State, ∃ t, exec .warmReset s = .next t ∧ t.docent.stage = 0 ∧ t.docent.warmLast = true ∧ t.docent.opIn = s.docent.opIn ∧
    t.docent.opOut = s.docent.opOut ∧ t.docent.opKey = s.docent.opKey ∧ t.docent.wheel = s.docent.wheel ∧ t.mem = s.drain.mem ∧
    ((∀ k ∈ s.hbms, ∀ c ∈ k.chans, ∀ m ∈ c.queue, m.kind = 0 ∨ m.ack ≠ none) → (∀ b ∈ s.buffers, ∀ m ∈ b.queue, m.kind = 0 ∨ m.ack ≠ none) →
      t.mem = s.mem) ∧ t.l2 = [] ∧ t.groups = [] ∧ t.warps = [] ∧
    t.cats = [] ∧ t.qps = [] ∧ t.regions = [] ∧ t.wings.length = s.wings.length ∧
    (∀ (k : Nat) (w : Wing), s.wings[k]? = some w → ∃ v, t.wings[k]? = some v ∧ v.id = w.id ∧ v.dies = w.dies ∧ v.bufs = w.bufs ∧
      v.ports = w.ports ∧ v.kickSeq = w.kickSeq ∧ v.inSeq = w.inSeq ∧ v.outSeq = w.outSeq ∧
      ((w.st = .free ∨ (w.retain = true ∧ w.revoking = none)) → v.st = w.st ∧ v.keySt = w.keySt ∧ v.pair = w.pair) ∧
      (w.st ≠ .free → (w.retain = false ∨ w.revoking ≠ none) →
        v.st = .revoked ∧ v.keySt = .zeroising ∧ v.pair = none ∧ v.keyMirror = ⟨.zeroising, false, none⟩)) ∧
    (∀ k ∈ s.hbms, k.fenced = true → ∃ x ∈ t.hbms, x.id = k.id ∧ x.fenced = true) ∧
    (∀ k ∈ t.hbms, k.trained = false) ∧ ∀ k ∈ s.cores, k.fenced = true → ∃ x ∈ t.cores, x.id = k.id ∧ x.fenced = true) ∧
  (∀ (s : State) (ok : Bool), ∃ t, exec (.powerGood ok) s = .next t ∧ t.docent.socket = (if ok then 18 else 19) ∧
    t.docent.keySocket = t.docent.socket ∧ t.docent.stage = 0 ∧ t.docent.opKey = s.docent.opKey ∧ t.docent.opIn = s.docent.opIn ∧ t.docent.opOut = s.docent.opOut ∧
    t.docent.fwDocent = s.docent.fwDocent.boot ∧ t.mem = [] ∧
    t.wings = State.reset.wings ∧ t.cores = State.reset.cores ∧ t.dies = State.reset.dies ∧ t.hbms = State.reset.hbms ∧
    t.groups = [] ∧ t.warps = []) ∧
  (∀ (s : State) (failed : List Unit') (slow : List (Nat × Nat × Nat)),
    (s.docent.stage ≠ 0 → exec (.stage1Reached failed slow) s = .next s) ∧
    (s.docent.stage = 0 → ∃ t, exec (.stage1Reached [] slow) s = .next t ∧ t.docent.stage = 1 ∧ t.docent.trained = true ∧
      (∀ k ∈ t.hbms, k.trained = !k.fenced) ∧ (∀ b ∈ t.buffers, b.trained = !b.fenced) ∧
      ∀ d, d < 9 → (∃ x ∈ s.dies, x.id = d) → (s.die d).coreDom = .running → (s.die d).curatorLoaded = false →
        (t.die d).curatorLoaded = true ∧
        ∃ g ∈ t.groups, g.core = ⟨d, 16⟩ ∧ g.phase = .running ∧ g.asid = 0 ∧
          ∀ l, l < 4 → ∃ w ∈ t.warps, w.id = ⟨d, 16, l, 0⟩ ∧ w.grp = g.slot ∧ w.splits ≠ [])) ∧
  (∀ (s : State) (d : Nat),
    (s.docent.stage = 0 → exec (.curatorReload d) s = .next s) ∧
    (((s.die d).curatorLoaded = true ∨ (s.die d).coreDom ≠ .running) → exec (.curatorReload d) s = .next s) ∧
    (s.docent.stage ≠ 0 → (∃ x ∈ s.dies, x.id = d) → (s.die d).curatorLoaded = false → (s.die d).coreDom = .running →
      ∃ t g, exec (.curatorReload d) s = .next t ∧ (t.die d).curatorLoaded = true ∧ g ∈ t.groups ∧ g.core = ⟨d, 16⟩ ∧
        (∀ l, l < 4 → ∃ w ∈ t.warps, w.id = ⟨d, 16, l, 0⟩ ∧ w.grp = g.slot) ∧
        ∀ w ∈ t.warps, w.id.coreId = ⟨d, 16⟩ → w.grp = g.slot)) ∧
  (∀ s : State,
    let ready := s.docent.stage = 1 ∧ ∀ d ∈ s.dies, d.coreDom = .fenced ∨ (d.curatorLoaded = true ∧ d.mailboxRead = true)
    (ready → exec .stage2Reached s = .next { s with docent := { s.docent with stage := 2 } }) ∧
    (¬ ready → exec .stage2Reached s = .next s)) ∧
  (∀ (s : State) (d c : Nat),
    (105 < c → exec (.junctionTemperatureSample d c) s = exec (.dieFence d) s) ∧
    (95 < c → c ≤ 105 → exec (.junctionTemperatureSample d c) s =
      .next (s.modDie d fun x => { x with clockStep := min 3 (x.clockStep + 1) })) ∧
    (c < 90 → exec (.junctionTemperatureSample d c) s = .next (s.modDie d fun x => { x with clockStep := x.clockStep - 1 })) ∧
    (90 ≤ c → c ≤ 95 → exec (.junctionTemperatureSample d c) s = .next s)) ∧
  (∀ (s : State) (mw : Nat),
    (s.docent.powerCap < mw → exec (.powerCapExceeded mw) s =
      .next { s with dies := s.dies.map fun x => { x with clockStep := min 3 (x.clockStep + 1) } }) ∧
    (mw ≤ s.docent.powerCap → exec (.powerCapExceeded mw) s = .next s)) ∧
  (∀ (s : State) (c : CoreId),
    (c.core ≠ 16 → (s.core c).fenced = true → exec (.coreFence c) s = .next s) ∧
    (c.core ≠ 16 → (s.core c).fenced = false → s.hasCore c →
      ∃ t, exec (.coreFence c) s = .next t ∧ (t.core c).fenced = true ∧ ∀ g ∈ t.groups, g.core ≠ c) ∧
    (c.core = 16 → ∃ t, exec (.coreFence c) s = .next t ∧ (t.die c.die).curatorLoaded = false ∧ t.groups = s.groups)) ∧
  (∀ (s : State) (d : Nat), (∃ x ∈ s.dies, x.id = d) →
    let gone (t : State) : Prop := ∀ g ∈ t.groups, g.core.die = d → g.resident = false
    ((s.die d).coreDom = .fenced → exec (.dieFence d) s = .next s) ∧
    ((s.die d).coreDom ≠ .fenced → ∃ t, exec (.dieFence d) s = .next t ∧ (t.die d).coreDom = .fenced ∧ (t.die d).uncore = .fenced ∧
      (∀ g ∈ t.groups, g.core.die = d → g.core.core = 16 ∧ g.resident = false) ∧ ∀ l ∈ t.l2, l.home ≠ d) ∧
    ((s.die d).coreDom = .running → ∃ t, exec (.coreDomainResetEntry d) s = .next t ∧ (t.die d).coreDom = .reset ∧ gone t ∧
      (t.die d).curatorLoaded = false) ∧
    ((s.die d).coreDom ≠ .running → exec (.coreDomainResetEntry d) s = .next s) ∧
    ((s.die d).coreDom = .reset → (s.die d).uncore = .running →
      (∃ t, exec (.coreDomainResetExit d) s = .next t ∧ (t.die d).coreDom = .running ∧ (t.die d).uncore = .running) ∧
      ∃ t, exec (.uncoreResetEntry d) s = .next t ∧ (t.die d).uncore = .reset ∧ (t.die d).coreDom = .reset ∧ ∀ l ∈ t.l2, l.home ≠ d) ∧
    (¬ ((s.die d).coreDom = .reset ∧ (s.die d).uncore = .running) →
      exec (.coreDomainResetExit d) s = .next s ∧ exec (.uncoreResetEntry d) s = .next s) ∧
    ((s.die d).uncore = .reset → exec (.uncoreResetExit d) s = .next (s.modDie d fun x => { x with uncore := .running })) ∧
    ((s.die d).uncore ≠ .reset → exec (.uncoreResetExit d) s = .next s)) ∧
  ∀ (s : State) (p : Nat) (x : Port), s.ports.find? (fun y => y.id == p) = some x →
    (x.up = false → exec (.portLinkFailure p) s = .next s) ∧
    (x.up = true → ∃ t, exec (.portLinkFailure p) s = .next t ∧ (∀ q ∈ t.qps, q.body.port ≠ p) ∧
      (∀ q ∈ s.qps, q.body.port ≠ p → ∃ q' ∈ t.qps, q'.qpn = q.qpn) ∧
      t.ports = s.ports.map fun y => if y.id == p then { y with up := false } else y)

end Slice0
end

