-- ==== Sys2Proof/Laws/State.lean ====
section
/-!
SUPPORT. Each field of the state after each update of one kind of unit, and each field of a warp after each write of a register.
-/
namespace Sys2Proof.Machine

/-! ### modWarp -/

@[simp] theorem State.modWarp_clk (s : State) (id : WarpId) (f : Warp → Warp) : (s.modWarp id f).clk = s.clk := rfl
@[simp] theorem State.modWarp_agenda (s : State) (id : WarpId) (f : Warp → Warp) : (s.modWarp id f).agenda = s.agenda := rfl
@[simp] theorem State.modWarp_cur (s : State) (id : WarpId) (f : Warp → Warp) : (s.modWarp id f).cur = s.cur := rfl
@[simp] theorem State.modWarp_free (s : State) (id : WarpId) (f : Warp → Warp) : (s.modWarp id f).free = s.free := rfl
@[simp] theorem State.modWarp_tableErrs (s : State) (id : WarpId) (f : Warp → Warp) : (s.modWarp id f).tableErrs = s.tableErrs := rfl
@[simp] theorem State.modWarp_names (s : State) (id : WarpId) (f : Warp → Warp) : (s.modWarp id f).names = s.names := rfl
@[simp] theorem State.modWarp_mem (s : State) (id : WarpId) (f : Warp → Warp) : (s.modWarp id f).mem = s.mem := rfl
@[simp] theorem State.modWarp_l2 (s : State) (id : WarpId) (f : Warp → Warp) : (s.modWarp id f).l2 = s.l2 := rfl
@[simp] theorem State.modWarp_monitors (s : State) (id : WarpId) (f : Warp → Warp) : (s.modWarp id f).monitors = s.monitors := rfl
@[simp] theorem State.modWarp_packets (s : State) (id : WarpId) (f : Warp → Warp) : (s.modWarp id f).packets = s.packets := rfl
@[simp] theorem State.modWarp_hbms (s : State) (id : WarpId) (f : Warp → Warp) : (s.modWarp id f).hbms = s.hbms := rfl
@[simp] theorem State.modWarp_buffers (s : State) (id : WarpId) (f : Warp → Warp) : (s.modWarp id f).buffers = s.buffers := rfl
@[simp] theorem State.modWarp_dies (s : State) (id : WarpId) (f : Warp → Warp) : (s.modWarp id f).dies = s.dies := rfl
@[simp] theorem State.modWarp_cores (s : State) (id : WarpId) (f : Warp → Warp) : (s.modWarp id f).cores = s.cores := rfl
@[simp] theorem State.modWarp_groups (s : State) (id : WarpId) (f : Warp → Warp) : (s.modWarp id f).groups = s.groups := rfl
@[simp] theorem State.modWarp_cats (s : State) (id : WarpId) (f : Warp → Warp) : (s.modWarp id f).cats = s.cats := rfl
@[simp] theorem State.modWarp_ends (s : State) (id : WarpId) (f : Warp → Warp) : (s.modWarp id f).ends = s.ends := rfl
@[simp] theorem State.modWarp_wings (s : State) (id : WarpId) (f : Warp → Warp) : (s.modWarp id f).wings = s.wings := rfl
@[simp] theorem State.modWarp_regions (s : State) (id : WarpId) (f : Warp → Warp) : (s.modWarp id f).regions = s.regions := rfl
@[simp] theorem State.modWarp_qps (s : State) (id : WarpId) (f : Warp → Warp) : (s.modWarp id f).qps = s.qps := rfl
@[simp] theorem State.modWarp_ports (s : State) (id : WarpId) (f : Warp → Warp) : (s.modWarp id f).ports = s.ports := rfl
@[simp] theorem State.modWarp_raises (s : State) (id : WarpId) (f : Warp → Warp) : (s.modWarp id f).raises = s.raises := rfl
@[simp] theorem State.modWarp_docent (s : State) (id : WarpId) (f : Warp → Warp) : (s.modWarp id f).docent = s.docent := rfl
@[simp] theorem State.modWarp_out (s : State) (id : WarpId) (f : Warp → Warp) : (s.modWarp id f).out = s.out := rfl

/-! ### setWarp -/

@[simp] theorem State.setWarp_clk (s : State) (w : Warp) : (s.setWarp w).clk = s.clk := rfl
@[simp] theorem State.setWarp_agenda (s : State) (w : Warp) : (s.setWarp w).agenda = s.agenda := rfl
@[simp] theorem State.setWarp_cur (s : State) (w : Warp) : (s.setWarp w).cur = s.cur := rfl
@[simp] theorem State.setWarp_free (s : State) (w : Warp) : (s.setWarp w).free = s.free := rfl
@[simp] theorem State.setWarp_tableErrs (s : State) (w : Warp) : (s.setWarp w).tableErrs = s.tableErrs := rfl
@[simp] theorem State.setWarp_names (s : State) (w : Warp) : (s.setWarp w).names = s.names := rfl
@[simp] theorem State.setWarp_mem (s : State) (w : Warp) : (s.setWarp w).mem = s.mem := rfl
@[simp] theorem State.setWarp_l2 (s : State) (w : Warp) : (s.setWarp w).l2 = s.l2 := rfl
@[simp] theorem State.setWarp_monitors (s : State) (w : Warp) : (s.setWarp w).monitors = s.monitors := rfl
@[simp] theorem State.setWarp_packets (s : State) (w : Warp) : (s.setWarp w).packets = s.packets := rfl
@[simp] theorem State.setWarp_hbms (s : State) (w : Warp) : (s.setWarp w).hbms = s.hbms := rfl
@[simp] theorem State.setWarp_buffers (s : State) (w : Warp) : (s.setWarp w).buffers = s.buffers := rfl
@[simp] theorem State.setWarp_dies (s : State) (w : Warp) : (s.setWarp w).dies = s.dies := rfl
@[simp] theorem State.setWarp_cores (s : State) (w : Warp) : (s.setWarp w).cores = s.cores := rfl
@[simp] theorem State.setWarp_groups (s : State) (w : Warp) : (s.setWarp w).groups = s.groups := rfl
@[simp] theorem State.setWarp_cats (s : State) (w : Warp) : (s.setWarp w).cats = s.cats := rfl
@[simp] theorem State.setWarp_ends (s : State) (w : Warp) : (s.setWarp w).ends = s.ends := rfl
@[simp] theorem State.setWarp_wings (s : State) (w : Warp) : (s.setWarp w).wings = s.wings := rfl
@[simp] theorem State.setWarp_regions (s : State) (w : Warp) : (s.setWarp w).regions = s.regions := rfl
@[simp] theorem State.setWarp_qps (s : State) (w : Warp) : (s.setWarp w).qps = s.qps := rfl
@[simp] theorem State.setWarp_ports (s : State) (w : Warp) : (s.setWarp w).ports = s.ports := rfl
@[simp] theorem State.setWarp_raises (s : State) (w : Warp) : (s.setWarp w).raises = s.raises := rfl
@[simp] theorem State.setWarp_docent (s : State) (w : Warp) : (s.setWarp w).docent = s.docent := rfl
@[simp] theorem State.setWarp_out (s : State) (w : Warp) : (s.setWarp w).out = s.out := rfl

/-! ### modCore -/

@[simp] theorem State.modCore_clk (s : State) (c : CoreId) (f : Core → Core) : (s.modCore c f).clk = s.clk := rfl
@[simp] theorem State.modCore_agenda (s : State) (c : CoreId) (f : Core → Core) : (s.modCore c f).agenda = s.agenda := rfl
@[simp] theorem State.modCore_cur (s : State) (c : CoreId) (f : Core → Core) : (s.modCore c f).cur = s.cur := rfl
@[simp] theorem State.modCore_free (s : State) (c : CoreId) (f : Core → Core) : (s.modCore c f).free = s.free := rfl
@[simp] theorem State.modCore_tableErrs (s : State) (c : CoreId) (f : Core → Core) : (s.modCore c f).tableErrs = s.tableErrs := rfl
@[simp] theorem State.modCore_names (s : State) (c : CoreId) (f : Core → Core) : (s.modCore c f).names = s.names := rfl
@[simp] theorem State.modCore_mem (s : State) (c : CoreId) (f : Core → Core) : (s.modCore c f).mem = s.mem := rfl
@[simp] theorem State.modCore_l2 (s : State) (c : CoreId) (f : Core → Core) : (s.modCore c f).l2 = s.l2 := rfl
@[simp] theorem State.modCore_monitors (s : State) (c : CoreId) (f : Core → Core) : (s.modCore c f).monitors = s.monitors := rfl
@[simp] theorem State.modCore_packets (s : State) (c : CoreId) (f : Core → Core) : (s.modCore c f).packets = s.packets := rfl
@[simp] theorem State.modCore_hbms (s : State) (c : CoreId) (f : Core → Core) : (s.modCore c f).hbms = s.hbms := rfl
@[simp] theorem State.modCore_buffers (s : State) (c : CoreId) (f : Core → Core) : (s.modCore c f).buffers = s.buffers := rfl
@[simp] theorem State.modCore_dies (s : State) (c : CoreId) (f : Core → Core) : (s.modCore c f).dies = s.dies := rfl
@[simp] theorem State.modCore_groups (s : State) (c : CoreId) (f : Core → Core) : (s.modCore c f).groups = s.groups := rfl
@[simp] theorem State.modCore_warps (s : State) (c : CoreId) (f : Core → Core) : (s.modCore c f).warps = s.warps := rfl
@[simp] theorem State.modCore_cats (s : State) (c : CoreId) (f : Core → Core) : (s.modCore c f).cats = s.cats := rfl
@[simp] theorem State.modCore_ends (s : State) (c : CoreId) (f : Core → Core) : (s.modCore c f).ends = s.ends := rfl
@[simp] theorem State.modCore_wings (s : State) (c : CoreId) (f : Core → Core) : (s.modCore c f).wings = s.wings := rfl
@[simp] theorem State.modCore_regions (s : State) (c : CoreId) (f : Core → Core) : (s.modCore c f).regions = s.regions := rfl
@[simp] theorem State.modCore_qps (s : State) (c : CoreId) (f : Core → Core) : (s.modCore c f).qps = s.qps := rfl
@[simp] theorem State.modCore_ports (s : State) (c : CoreId) (f : Core → Core) : (s.modCore c f).ports = s.ports := rfl
@[simp] theorem State.modCore_raises (s : State) (c : CoreId) (f : Core → Core) : (s.modCore c f).raises = s.raises := rfl
@[simp] theorem State.modCore_docent (s : State) (c : CoreId) (f : Core → Core) : (s.modCore c f).docent = s.docent := rfl
@[simp] theorem State.modCore_out (s : State) (c : CoreId) (f : Core → Core) : (s.modCore c f).out = s.out := rfl

/-! ### modGroup -/

@[simp] theorem State.modGroup_clk (s : State) (c : CoreId) (n : Nat) (f : Group → Group) : (s.modGroup c n f).clk = s.clk := rfl
@[simp] theorem State.modGroup_agenda (s : State) (c : CoreId) (n : Nat) (f : Group → Group) : (s.modGroup c n f).agenda = s.agenda := rfl
@[simp] theorem State.modGroup_cur (s : State) (c : CoreId) (n : Nat) (f : Group → Group) : (s.modGroup c n f).cur = s.cur := rfl
@[simp] theorem State.modGroup_free (s : State) (c : CoreId) (n : Nat) (f : Group → Group) : (s.modGroup c n f).free = s.free := rfl
@[simp] theorem State.modGroup_tableErrs (s : State) (c : CoreId) (n : Nat) (f : Group → Group) : (s.modGroup c n f).tableErrs = s.tableErrs := rfl
@[simp] theorem State.modGroup_names (s : State) (c : CoreId) (n : Nat) (f : Group → Group) : (s.modGroup c n f).names = s.names := rfl
@[simp] theorem State.modGroup_mem (s : State) (c : CoreId) (n : Nat) (f : Group → Group) : (s.modGroup c n f).mem = s.mem := rfl
@[simp] theorem State.modGroup_l2 (s : State) (c : CoreId) (n : Nat) (f : Group → Group) : (s.modGroup c n f).l2 = s.l2 := rfl
@[simp] theorem State.modGroup_monitors (s : State) (c : CoreId) (n : Nat) (f : Group → Group) : (s.modGroup c n f).monitors = s.monitors := rfl
@[simp] theorem State.modGroup_packets (s : State) (c : CoreId) (n : Nat) (f : Group → Group) : (s.modGroup c n f).packets = s.packets := rfl
@[simp] theorem State.modGroup_hbms (s : State) (c : CoreId) (n : Nat) (f : Group → Group) : (s.modGroup c n f).hbms = s.hbms := rfl
@[simp] theorem State.modGroup_buffers (s : State) (c : CoreId) (n : Nat) (f : Group → Group) : (s.modGroup c n f).buffers = s.buffers := rfl
@[simp] theorem State.modGroup_dies (s : State) (c : CoreId) (n : Nat) (f : Group → Group) : (s.modGroup c n f).dies = s.dies := rfl
@[simp] theorem State.modGroup_cores (s : State) (c : CoreId) (n : Nat) (f : Group → Group) : (s.modGroup c n f).cores = s.cores := rfl
@[simp] theorem State.modGroup_warps (s : State) (c : CoreId) (n : Nat) (f : Group → Group) : (s.modGroup c n f).warps = s.warps := rfl
@[simp] theorem State.modGroup_cats (s : State) (c : CoreId) (n : Nat) (f : Group → Group) : (s.modGroup c n f).cats = s.cats := rfl
@[simp] theorem State.modGroup_ends (s : State) (c : CoreId) (n : Nat) (f : Group → Group) : (s.modGroup c n f).ends = s.ends := rfl
@[simp] theorem State.modGroup_wings (s : State) (c : CoreId) (n : Nat) (f : Group → Group) : (s.modGroup c n f).wings = s.wings := rfl
@[simp] theorem State.modGroup_regions (s : State) (c : CoreId) (n : Nat) (f : Group → Group) : (s.modGroup c n f).regions = s.regions := rfl
@[simp] theorem State.modGroup_qps (s : State) (c : CoreId) (n : Nat) (f : Group → Group) : (s.modGroup c n f).qps = s.qps := rfl
@[simp] theorem State.modGroup_ports (s : State) (c : CoreId) (n : Nat) (f : Group → Group) : (s.modGroup c n f).ports = s.ports := rfl
@[simp] theorem State.modGroup_raises (s : State) (c : CoreId) (n : Nat) (f : Group → Group) : (s.modGroup c n f).raises = s.raises := rfl
@[simp] theorem State.modGroup_docent (s : State) (c : CoreId) (n : Nat) (f : Group → Group) : (s.modGroup c n f).docent = s.docent := rfl
@[simp] theorem State.modGroup_out (s : State) (c : CoreId) (n : Nat) (f : Group → Group) : (s.modGroup c n f).out = s.out := rfl

/-! ### modDie -/

@[simp] theorem State.modDie_clk (s : State) (d : Nat) (f : Die → Die) : (s.modDie d f).clk = s.clk := rfl
@[simp] theorem State.modDie_agenda (s : State) (d : Nat) (f : Die → Die) : (s.modDie d f).agenda = s.agenda := rfl
@[simp] theorem State.modDie_cur (s : State) (d : Nat) (f : Die → Die) : (s.modDie d f).cur = s.cur := rfl
@[simp] theorem State.modDie_free (s : State) (d : Nat) (f : Die → Die) : (s.modDie d f).free = s.free := rfl
@[simp] theorem State.modDie_tableErrs (s : State) (d : Nat) (f : Die → Die) : (s.modDie d f).tableErrs = s.tableErrs := rfl
@[simp] theorem State.modDie_names (s : State) (d : Nat) (f : Die → Die) : (s.modDie d f).names = s.names := rfl
@[simp] theorem State.modDie_mem (s : State) (d : Nat) (f : Die → Die) : (s.modDie d f).mem = s.mem := rfl
@[simp] theorem State.modDie_l2 (s : State) (d : Nat) (f : Die → Die) : (s.modDie d f).l2 = s.l2 := rfl
@[simp] theorem State.modDie_monitors (s : State) (d : Nat) (f : Die → Die) : (s.modDie d f).monitors = s.monitors := rfl
@[simp] theorem State.modDie_packets (s : State) (d : Nat) (f : Die → Die) : (s.modDie d f).packets = s.packets := rfl
@[simp] theorem State.modDie_hbms (s : State) (d : Nat) (f : Die → Die) : (s.modDie d f).hbms = s.hbms := rfl
@[simp] theorem State.modDie_buffers (s : State) (d : Nat) (f : Die → Die) : (s.modDie d f).buffers = s.buffers := rfl
@[simp] theorem State.modDie_cores (s : State) (d : Nat) (f : Die → Die) : (s.modDie d f).cores = s.cores := rfl
@[simp] theorem State.modDie_groups (s : State) (d : Nat) (f : Die → Die) : (s.modDie d f).groups = s.groups := rfl
@[simp] theorem State.modDie_warps (s : State) (d : Nat) (f : Die → Die) : (s.modDie d f).warps = s.warps := rfl
@[simp] theorem State.modDie_cats (s : State) (d : Nat) (f : Die → Die) : (s.modDie d f).cats = s.cats := rfl
@[simp] theorem State.modDie_ends (s : State) (d : Nat) (f : Die → Die) : (s.modDie d f).ends = s.ends := rfl
@[simp] theorem State.modDie_wings (s : State) (d : Nat) (f : Die → Die) : (s.modDie d f).wings = s.wings := rfl
@[simp] theorem State.modDie_regions (s : State) (d : Nat) (f : Die → Die) : (s.modDie d f).regions = s.regions := rfl
@[simp] theorem State.modDie_qps (s : State) (d : Nat) (f : Die → Die) : (s.modDie d f).qps = s.qps := rfl
@[simp] theorem State.modDie_ports (s : State) (d : Nat) (f : Die → Die) : (s.modDie d f).ports = s.ports := rfl
@[simp] theorem State.modDie_raises (s : State) (d : Nat) (f : Die → Die) : (s.modDie d f).raises = s.raises := rfl
@[simp] theorem State.modDie_docent (s : State) (d : Nat) (f : Die → Die) : (s.modDie d f).docent = s.docent := rfl
@[simp] theorem State.modDie_out (s : State) (d : Nat) (f : Die → Die) : (s.modDie d f).out = s.out := rfl

/-! ### modWing -/

@[simp] theorem State.modWing_clk (s : State) (n : Nat) (f : Wing → Wing) : (s.modWing n f).clk = s.clk := rfl
@[simp] theorem State.modWing_agenda (s : State) (n : Nat) (f : Wing → Wing) : (s.modWing n f).agenda = s.agenda := rfl
@[simp] theorem State.modWing_cur (s : State) (n : Nat) (f : Wing → Wing) : (s.modWing n f).cur = s.cur := rfl
@[simp] theorem State.modWing_free (s : State) (n : Nat) (f : Wing → Wing) : (s.modWing n f).free = s.free := rfl
@[simp] theorem State.modWing_tableErrs (s : State) (n : Nat) (f : Wing → Wing) : (s.modWing n f).tableErrs = s.tableErrs := rfl
@[simp] theorem State.modWing_names (s : State) (n : Nat) (f : Wing → Wing) : (s.modWing n f).names = s.names := rfl
@[simp] theorem State.modWing_mem (s : State) (n : Nat) (f : Wing → Wing) : (s.modWing n f).mem = s.mem := rfl
@[simp] theorem State.modWing_l2 (s : State) (n : Nat) (f : Wing → Wing) : (s.modWing n f).l2 = s.l2 := rfl
@[simp] theorem State.modWing_monitors (s : State) (n : Nat) (f : Wing → Wing) : (s.modWing n f).monitors = s.monitors := rfl
@[simp] theorem State.modWing_packets (s : State) (n : Nat) (f : Wing → Wing) : (s.modWing n f).packets = s.packets := rfl
@[simp] theorem State.modWing_hbms (s : State) (n : Nat) (f : Wing → Wing) : (s.modWing n f).hbms = s.hbms := rfl
@[simp] theorem State.modWing_buffers (s : State) (n : Nat) (f : Wing → Wing) : (s.modWing n f).buffers = s.buffers := rfl
@[simp] theorem State.modWing_dies (s : State) (n : Nat) (f : Wing → Wing) : (s.modWing n f).dies = s.dies := rfl
@[simp] theorem State.modWing_cores (s : State) (n : Nat) (f : Wing → Wing) : (s.modWing n f).cores = s.cores := rfl
@[simp] theorem State.modWing_groups (s : State) (n : Nat) (f : Wing → Wing) : (s.modWing n f).groups = s.groups := rfl
@[simp] theorem State.modWing_warps (s : State) (n : Nat) (f : Wing → Wing) : (s.modWing n f).warps = s.warps := rfl
@[simp] theorem State.modWing_cats (s : State) (n : Nat) (f : Wing → Wing) : (s.modWing n f).cats = s.cats := rfl
@[simp] theorem State.modWing_ends (s : State) (n : Nat) (f : Wing → Wing) : (s.modWing n f).ends = s.ends := rfl
@[simp] theorem State.modWing_regions (s : State) (n : Nat) (f : Wing → Wing) : (s.modWing n f).regions = s.regions := rfl
@[simp] theorem State.modWing_qps (s : State) (n : Nat) (f : Wing → Wing) : (s.modWing n f).qps = s.qps := rfl
@[simp] theorem State.modWing_ports (s : State) (n : Nat) (f : Wing → Wing) : (s.modWing n f).ports = s.ports := rfl
@[simp] theorem State.modWing_raises (s : State) (n : Nat) (f : Wing → Wing) : (s.modWing n f).raises = s.raises := rfl
@[simp] theorem State.modWing_docent (s : State) (n : Nat) (f : Wing → Wing) : (s.modWing n f).docent = s.docent := rfl
@[simp] theorem State.modWing_out (s : State) (n : Nat) (f : Wing → Wing) : (s.modWing n f).out = s.out := rfl

/-! ### modStack -/

@[simp] theorem State.modStack_clk (s : State) (d : Nat) (f : Stack → Stack) : (s.modStack d f).clk = s.clk := rfl
@[simp] theorem State.modStack_agenda (s : State) (d : Nat) (f : Stack → Stack) : (s.modStack d f).agenda = s.agenda := rfl
@[simp] theorem State.modStack_cur (s : State) (d : Nat) (f : Stack → Stack) : (s.modStack d f).cur = s.cur := rfl
@[simp] theorem State.modStack_free (s : State) (d : Nat) (f : Stack → Stack) : (s.modStack d f).free = s.free := rfl
@[simp] theorem State.modStack_tableErrs (s : State) (d : Nat) (f : Stack → Stack) : (s.modStack d f).tableErrs = s.tableErrs := rfl
@[simp] theorem State.modStack_names (s : State) (d : Nat) (f : Stack → Stack) : (s.modStack d f).names = s.names := rfl
@[simp] theorem State.modStack_mem (s : State) (d : Nat) (f : Stack → Stack) : (s.modStack d f).mem = s.mem := rfl
@[simp] theorem State.modStack_l2 (s : State) (d : Nat) (f : Stack → Stack) : (s.modStack d f).l2 = s.l2 := rfl
@[simp] theorem State.modStack_monitors (s : State) (d : Nat) (f : Stack → Stack) : (s.modStack d f).monitors = s.monitors := rfl
@[simp] theorem State.modStack_packets (s : State) (d : Nat) (f : Stack → Stack) : (s.modStack d f).packets = s.packets := rfl
@[simp] theorem State.modStack_buffers (s : State) (d : Nat) (f : Stack → Stack) : (s.modStack d f).buffers = s.buffers := rfl
@[simp] theorem State.modStack_dies (s : State) (d : Nat) (f : Stack → Stack) : (s.modStack d f).dies = s.dies := rfl
@[simp] theorem State.modStack_cores (s : State) (d : Nat) (f : Stack → Stack) : (s.modStack d f).cores = s.cores := rfl
@[simp] theorem State.modStack_groups (s : State) (d : Nat) (f : Stack → Stack) : (s.modStack d f).groups = s.groups := rfl
@[simp] theorem State.modStack_warps (s : State) (d : Nat) (f : Stack → Stack) : (s.modStack d f).warps = s.warps := rfl
@[simp] theorem State.modStack_cats (s : State) (d : Nat) (f : Stack → Stack) : (s.modStack d f).cats = s.cats := rfl
@[simp] theorem State.modStack_ends (s : State) (d : Nat) (f : Stack → Stack) : (s.modStack d f).ends = s.ends := rfl
@[simp] theorem State.modStack_wings (s : State) (d : Nat) (f : Stack → Stack) : (s.modStack d f).wings = s.wings := rfl
@[simp] theorem State.modStack_regions (s : State) (d : Nat) (f : Stack → Stack) : (s.modStack d f).regions = s.regions := rfl
@[simp] theorem State.modStack_qps (s : State) (d : Nat) (f : Stack → Stack) : (s.modStack d f).qps = s.qps := rfl
@[simp] theorem State.modStack_ports (s : State) (d : Nat) (f : Stack → Stack) : (s.modStack d f).ports = s.ports := rfl
@[simp] theorem State.modStack_raises (s : State) (d : Nat) (f : Stack → Stack) : (s.modStack d f).raises = s.raises := rfl
@[simp] theorem State.modStack_docent (s : State) (d : Nat) (f : Stack → Stack) : (s.modStack d f).docent = s.docent := rfl
@[simp] theorem State.modStack_out (s : State) (d : Nat) (f : Stack → Stack) : (s.modStack d f).out = s.out := rfl

/-! ### modBuffer -/

@[simp] theorem State.modBuffer_clk (s : State) (n : Nat) (f : Buffer → Buffer) : (s.modBuffer n f).clk = s.clk := rfl
@[simp] theorem State.modBuffer_agenda (s : State) (n : Nat) (f : Buffer → Buffer) : (s.modBuffer n f).agenda = s.agenda := rfl
@[simp] theorem State.modBuffer_cur (s : State) (n : Nat) (f : Buffer → Buffer) : (s.modBuffer n f).cur = s.cur := rfl
@[simp] theorem State.modBuffer_free (s : State) (n : Nat) (f : Buffer → Buffer) : (s.modBuffer n f).free = s.free := rfl
@[simp] theorem State.modBuffer_tableErrs (s : State) (n : Nat) (f : Buffer → Buffer) : (s.modBuffer n f).tableErrs = s.tableErrs := rfl
@[simp] theorem State.modBuffer_names (s : State) (n : Nat) (f : Buffer → Buffer) : (s.modBuffer n f).names = s.names := rfl
@[simp] theorem State.modBuffer_mem (s : State) (n : Nat) (f : Buffer → Buffer) : (s.modBuffer n f).mem = s.mem := rfl
@[simp] theorem State.modBuffer_l2 (s : State) (n : Nat) (f : Buffer → Buffer) : (s.modBuffer n f).l2 = s.l2 := rfl
@[simp] theorem State.modBuffer_monitors (s : State) (n : Nat) (f : Buffer → Buffer) : (s.modBuffer n f).monitors = s.monitors := rfl
@[simp] theorem State.modBuffer_packets (s : State) (n : Nat) (f : Buffer → Buffer) : (s.modBuffer n f).packets = s.packets := rfl
@[simp] theorem State.modBuffer_hbms (s : State) (n : Nat) (f : Buffer → Buffer) : (s.modBuffer n f).hbms = s.hbms := rfl
@[simp] theorem State.modBuffer_dies (s : State) (n : Nat) (f : Buffer → Buffer) : (s.modBuffer n f).dies = s.dies := rfl
@[simp] theorem State.modBuffer_cores (s : State) (n : Nat) (f : Buffer → Buffer) : (s.modBuffer n f).cores = s.cores := rfl
@[simp] theorem State.modBuffer_groups (s : State) (n : Nat) (f : Buffer → Buffer) : (s.modBuffer n f).groups = s.groups := rfl
@[simp] theorem State.modBuffer_warps (s : State) (n : Nat) (f : Buffer → Buffer) : (s.modBuffer n f).warps = s.warps := rfl
@[simp] theorem State.modBuffer_cats (s : State) (n : Nat) (f : Buffer → Buffer) : (s.modBuffer n f).cats = s.cats := rfl
@[simp] theorem State.modBuffer_ends (s : State) (n : Nat) (f : Buffer → Buffer) : (s.modBuffer n f).ends = s.ends := rfl
@[simp] theorem State.modBuffer_wings (s : State) (n : Nat) (f : Buffer → Buffer) : (s.modBuffer n f).wings = s.wings := rfl
@[simp] theorem State.modBuffer_regions (s : State) (n : Nat) (f : Buffer → Buffer) : (s.modBuffer n f).regions = s.regions := rfl
@[simp] theorem State.modBuffer_qps (s : State) (n : Nat) (f : Buffer → Buffer) : (s.modBuffer n f).qps = s.qps := rfl
@[simp] theorem State.modBuffer_ports (s : State) (n : Nat) (f : Buffer → Buffer) : (s.modBuffer n f).ports = s.ports := rfl
@[simp] theorem State.modBuffer_raises (s : State) (n : Nat) (f : Buffer → Buffer) : (s.modBuffer n f).raises = s.raises := rfl
@[simp] theorem State.modBuffer_docent (s : State) (n : Nat) (f : Buffer → Buffer) : (s.modBuffer n f).docent = s.docent := rfl
@[simp] theorem State.modBuffer_out (s : State) (n : Nat) (f : Buffer → Buffer) : (s.modBuffer n f).out = s.out := rfl

/-! ### modCat -/

@[simp] theorem State.modCat_clk (s : State) (v h : Nat) (f : Catalogue → Catalogue) : (s.modCat v h f).clk = s.clk := rfl
@[simp] theorem State.modCat_agenda (s : State) (v h : Nat) (f : Catalogue → Catalogue) : (s.modCat v h f).agenda = s.agenda := rfl
@[simp] theorem State.modCat_cur (s : State) (v h : Nat) (f : Catalogue → Catalogue) : (s.modCat v h f).cur = s.cur := rfl
@[simp] theorem State.modCat_free (s : State) (v h : Nat) (f : Catalogue → Catalogue) : (s.modCat v h f).free = s.free := rfl
@[simp] theorem State.modCat_tableErrs (s : State) (v h : Nat) (f : Catalogue → Catalogue) : (s.modCat v h f).tableErrs = s.tableErrs := rfl
@[simp] theorem State.modCat_names (s : State) (v h : Nat) (f : Catalogue → Catalogue) : (s.modCat v h f).names = s.names := rfl
@[simp] theorem State.modCat_mem (s : State) (v h : Nat) (f : Catalogue → Catalogue) : (s.modCat v h f).mem = s.mem := rfl
@[simp] theorem State.modCat_l2 (s : State) (v h : Nat) (f : Catalogue → Catalogue) : (s.modCat v h f).l2 = s.l2 := rfl
@[simp] theorem State.modCat_monitors (s : State) (v h : Nat) (f : Catalogue → Catalogue) : (s.modCat v h f).monitors = s.monitors := rfl
@[simp] theorem State.modCat_packets (s : State) (v h : Nat) (f : Catalogue → Catalogue) : (s.modCat v h f).packets = s.packets := rfl
@[simp] theorem State.modCat_hbms (s : State) (v h : Nat) (f : Catalogue → Catalogue) : (s.modCat v h f).hbms = s.hbms := rfl
@[simp] theorem State.modCat_buffers (s : State) (v h : Nat) (f : Catalogue → Catalogue) : (s.modCat v h f).buffers = s.buffers := rfl
@[simp] theorem State.modCat_dies (s : State) (v h : Nat) (f : Catalogue → Catalogue) : (s.modCat v h f).dies = s.dies := rfl
@[simp] theorem State.modCat_cores (s : State) (v h : Nat) (f : Catalogue → Catalogue) : (s.modCat v h f).cores = s.cores := rfl
@[simp] theorem State.modCat_groups (s : State) (v h : Nat) (f : Catalogue → Catalogue) : (s.modCat v h f).groups = s.groups := rfl
@[simp] theorem State.modCat_warps (s : State) (v h : Nat) (f : Catalogue → Catalogue) : (s.modCat v h f).warps = s.warps := rfl
@[simp] theorem State.modCat_ends (s : State) (v h : Nat) (f : Catalogue → Catalogue) : (s.modCat v h f).ends = s.ends := rfl
@[simp] theorem State.modCat_wings (s : State) (v h : Nat) (f : Catalogue → Catalogue) : (s.modCat v h f).wings = s.wings := rfl
@[simp] theorem State.modCat_regions (s : State) (v h : Nat) (f : Catalogue → Catalogue) : (s.modCat v h f).regions = s.regions := rfl
@[simp] theorem State.modCat_qps (s : State) (v h : Nat) (f : Catalogue → Catalogue) : (s.modCat v h f).qps = s.qps := rfl
@[simp] theorem State.modCat_ports (s : State) (v h : Nat) (f : Catalogue → Catalogue) : (s.modCat v h f).ports = s.ports := rfl
@[simp] theorem State.modCat_raises (s : State) (v h : Nat) (f : Catalogue → Catalogue) : (s.modCat v h f).raises = s.raises := rfl
@[simp] theorem State.modCat_docent (s : State) (v h : Nat) (f : Catalogue → Catalogue) : (s.modCat v h f).docent = s.docent := rfl
@[simp] theorem State.modCat_out (s : State) (v h : Nat) (f : Catalogue → Catalogue) : (s.modCat v h f).out = s.out := rfl

/-! ### modQp -/

@[simp] theorem State.modQp_clk (s : State) (n : Nat) (f : Qp → Qp) : (s.modQp n f).clk = s.clk := rfl
@[simp] theorem State.modQp_agenda (s : State) (n : Nat) (f : Qp → Qp) : (s.modQp n f).agenda = s.agenda := rfl
@[simp] theorem State.modQp_cur (s : State) (n : Nat) (f : Qp → Qp) : (s.modQp n f).cur = s.cur := rfl
@[simp] theorem State.modQp_free (s : State) (n : Nat) (f : Qp → Qp) : (s.modQp n f).free = s.free := rfl
@[simp] theorem State.modQp_tableErrs (s : State) (n : Nat) (f : Qp → Qp) : (s.modQp n f).tableErrs = s.tableErrs := rfl
@[simp] theorem State.modQp_names (s : State) (n : Nat) (f : Qp → Qp) : (s.modQp n f).names = s.names := rfl
@[simp] theorem State.modQp_mem (s : State) (n : Nat) (f : Qp → Qp) : (s.modQp n f).mem = s.mem := rfl
@[simp] theorem State.modQp_l2 (s : State) (n : Nat) (f : Qp → Qp) : (s.modQp n f).l2 = s.l2 := rfl
@[simp] theorem State.modQp_monitors (s : State) (n : Nat) (f : Qp → Qp) : (s.modQp n f).monitors = s.monitors := rfl
@[simp] theorem State.modQp_packets (s : State) (n : Nat) (f : Qp → Qp) : (s.modQp n f).packets = s.packets := rfl
@[simp] theorem State.modQp_hbms (s : State) (n : Nat) (f : Qp → Qp) : (s.modQp n f).hbms = s.hbms := rfl
@[simp] theorem State.modQp_buffers (s : State) (n : Nat) (f : Qp → Qp) : (s.modQp n f).buffers = s.buffers := rfl
@[simp] theorem State.modQp_dies (s : State) (n : Nat) (f : Qp → Qp) : (s.modQp n f).dies = s.dies := rfl
@[simp] theorem State.modQp_cores (s : State) (n : Nat) (f : Qp → Qp) : (s.modQp n f).cores = s.cores := rfl
@[simp] theorem State.modQp_groups (s : State) (n : Nat) (f : Qp → Qp) : (s.modQp n f).groups = s.groups := rfl
@[simp] theorem State.modQp_warps (s : State) (n : Nat) (f : Qp → Qp) : (s.modQp n f).warps = s.warps := rfl
@[simp] theorem State.modQp_cats (s : State) (n : Nat) (f : Qp → Qp) : (s.modQp n f).cats = s.cats := rfl
@[simp] theorem State.modQp_ends (s : State) (n : Nat) (f : Qp → Qp) : (s.modQp n f).ends = s.ends := rfl
@[simp] theorem State.modQp_wings (s : State) (n : Nat) (f : Qp → Qp) : (s.modQp n f).wings = s.wings := rfl
@[simp] theorem State.modQp_regions (s : State) (n : Nat) (f : Qp → Qp) : (s.modQp n f).regions = s.regions := rfl
@[simp] theorem State.modQp_ports (s : State) (n : Nat) (f : Qp → Qp) : (s.modQp n f).ports = s.ports := rfl
@[simp] theorem State.modQp_raises (s : State) (n : Nat) (f : Qp → Qp) : (s.modQp n f).raises = s.raises := rfl
@[simp] theorem State.modQp_docent (s : State) (n : Nat) (f : Qp → Qp) : (s.modQp n f).docent = s.docent := rfl
@[simp] theorem State.modQp_out (s : State) (n : Nat) (f : Qp → Qp) : (s.modQp n f).out = s.out := rfl

/-! ### retire -/

@[simp] theorem State.retire_clk (s : State) (w : Warp) (len cost : Nat) : (s.retire w len cost).clk = s.clk := rfl
@[simp] theorem State.retire_agenda (s : State) (w : Warp) (len cost : Nat) : (s.retire w len cost).agenda = s.agenda := rfl
@[simp] theorem State.retire_cur (s : State) (w : Warp) (len cost : Nat) : (s.retire w len cost).cur = s.cur := rfl
@[simp] theorem State.retire_free (s : State) (w : Warp) (len cost : Nat) : (s.retire w len cost).free = s.free := rfl
@[simp] theorem State.retire_tableErrs (s : State) (w : Warp) (len cost : Nat) : (s.retire w len cost).tableErrs = s.tableErrs := rfl
@[simp] theorem State.retire_names (s : State) (w : Warp) (len cost : Nat) : (s.retire w len cost).names = s.names := rfl
@[simp] theorem State.retire_mem (s : State) (w : Warp) (len cost : Nat) : (s.retire w len cost).mem = s.mem := rfl
@[simp] theorem State.retire_l2 (s : State) (w : Warp) (len cost : Nat) : (s.retire w len cost).l2 = s.l2 := rfl
@[simp] theorem State.retire_monitors (s : State) (w : Warp) (len cost : Nat) : (s.retire w len cost).monitors = s.monitors := rfl
@[simp] theorem State.retire_packets (s : State) (w : Warp) (len cost : Nat) : (s.retire w len cost).packets = s.packets := rfl
@[simp] theorem State.retire_hbms (s : State) (w : Warp) (len cost : Nat) : (s.retire w len cost).hbms = s.hbms := rfl
@[simp] theorem State.retire_buffers (s : State) (w : Warp) (len cost : Nat) : (s.retire w len cost).buffers = s.buffers := rfl
@[simp] theorem State.retire_dies (s : State) (w : Warp) (len cost : Nat) : (s.retire w len cost).dies = s.dies := rfl
@[simp] theorem State.retire_cores (s : State) (w : Warp) (len cost : Nat) : (s.retire w len cost).cores = s.cores := rfl
@[simp] theorem State.retire_groups (s : State) (w : Warp) (len cost : Nat) : (s.retire w len cost).groups = s.groups := rfl
@[simp] theorem State.retire_cats (s : State) (w : Warp) (len cost : Nat) : (s.retire w len cost).cats = s.cats := rfl
@[simp] theorem State.retire_ends (s : State) (w : Warp) (len cost : Nat) : (s.retire w len cost).ends = s.ends := rfl
@[simp] theorem State.retire_wings (s : State) (w : Warp) (len cost : Nat) : (s.retire w len cost).wings = s.wings := rfl
@[simp] theorem State.retire_regions (s : State) (w : Warp) (len cost : Nat) : (s.retire w len cost).regions = s.regions := rfl
@[simp] theorem State.retire_qps (s : State) (w : Warp) (len cost : Nat) : (s.retire w len cost).qps = s.qps := rfl
@[simp] theorem State.retire_ports (s : State) (w : Warp) (len cost : Nat) : (s.retire w len cost).ports = s.ports := rfl
@[simp] theorem State.retire_raises (s : State) (w : Warp) (len cost : Nat) : (s.retire w len cost).raises = s.raises := rfl
@[simp] theorem State.retire_docent (s : State) (w : Warp) (len cost : Nat) : (s.retire w len cost).docent = s.docent := rfl
@[simp] theorem State.retire_out (s : State) (w : Warp) (len cost : Nat) : (s.retire w len cost).out = s.out := rfl

/-! ### retireAt -/

@[simp] theorem State.retireAt_clk (s : State) (id : WarpId) (len cost : Nat) : (s.retireAt id len cost).clk = s.clk := rfl
@[simp] theorem State.retireAt_agenda (s : State) (id : WarpId) (len cost : Nat) : (s.retireAt id len cost).agenda = s.agenda := rfl
@[simp] theorem State.retireAt_cur (s : State) (id : WarpId) (len cost : Nat) : (s.retireAt id len cost).cur = s.cur := rfl
@[simp] theorem State.retireAt_free (s : State) (id : WarpId) (len cost : Nat) : (s.retireAt id len cost).free = s.free := rfl
@[simp] theorem State.retireAt_tableErrs (s : State) (id : WarpId) (len cost : Nat) : (s.retireAt id len cost).tableErrs = s.tableErrs := rfl
@[simp] theorem State.retireAt_names (s : State) (id : WarpId) (len cost : Nat) : (s.retireAt id len cost).names = s.names := rfl
@[simp] theorem State.retireAt_mem (s : State) (id : WarpId) (len cost : Nat) : (s.retireAt id len cost).mem = s.mem := rfl
@[simp] theorem State.retireAt_l2 (s : State) (id : WarpId) (len cost : Nat) : (s.retireAt id len cost).l2 = s.l2 := rfl
@[simp] theorem State.retireAt_monitors (s : State) (id : WarpId) (len cost : Nat) : (s.retireAt id len cost).monitors = s.monitors := rfl
@[simp] theorem State.retireAt_packets (s : State) (id : WarpId) (len cost : Nat) : (s.retireAt id len cost).packets = s.packets := rfl
@[simp] theorem State.retireAt_hbms (s : State) (id : WarpId) (len cost : Nat) : (s.retireAt id len cost).hbms = s.hbms := rfl
@[simp] theorem State.retireAt_buffers (s : State) (id : WarpId) (len cost : Nat) : (s.retireAt id len cost).buffers = s.buffers := rfl
@[simp] theorem State.retireAt_dies (s : State) (id : WarpId) (len cost : Nat) : (s.retireAt id len cost).dies = s.dies := rfl
@[simp] theorem State.retireAt_cores (s : State) (id : WarpId) (len cost : Nat) : (s.retireAt id len cost).cores = s.cores := rfl
@[simp] theorem State.retireAt_groups (s : State) (id : WarpId) (len cost : Nat) : (s.retireAt id len cost).groups = s.groups := rfl
@[simp] theorem State.retireAt_cats (s : State) (id : WarpId) (len cost : Nat) : (s.retireAt id len cost).cats = s.cats := rfl
@[simp] theorem State.retireAt_ends (s : State) (id : WarpId) (len cost : Nat) : (s.retireAt id len cost).ends = s.ends := rfl
@[simp] theorem State.retireAt_wings (s : State) (id : WarpId) (len cost : Nat) : (s.retireAt id len cost).wings = s.wings := rfl
@[simp] theorem State.retireAt_regions (s : State) (id : WarpId) (len cost : Nat) : (s.retireAt id len cost).regions = s.regions := rfl
@[simp] theorem State.retireAt_qps (s : State) (id : WarpId) (len cost : Nat) : (s.retireAt id len cost).qps = s.qps := rfl
@[simp] theorem State.retireAt_ports (s : State) (id : WarpId) (len cost : Nat) : (s.retireAt id len cost).ports = s.ports := rfl
@[simp] theorem State.retireAt_raises (s : State) (id : WarpId) (len cost : Nat) : (s.retireAt id len cost).raises = s.raises := rfl
@[simp] theorem State.retireAt_docent (s : State) (id : WarpId) (len cost : Nat) : (s.retireAt id len cost).docent = s.docent := rfl
@[simp] theorem State.retireAt_out (s : State) (id : WarpId) (len cost : Nat) : (s.retireAt id len cost).out = s.out := rfl

/-! ### trap -/

@[simp] theorem State.trap_clk (s : State) (w : Warp) (c : Cause) : (s.trap w c).clk = s.clk := rfl
@[simp] theorem State.trap_agenda (s : State) (w : Warp) (c : Cause) : (s.trap w c).agenda = s.agenda := rfl
@[simp] theorem State.trap_cur (s : State) (w : Warp) (c : Cause) : (s.trap w c).cur = s.cur := rfl
@[simp] theorem State.trap_free (s : State) (w : Warp) (c : Cause) : (s.trap w c).free = s.free := rfl
@[simp] theorem State.trap_tableErrs (s : State) (w : Warp) (c : Cause) : (s.trap w c).tableErrs = s.tableErrs := rfl
@[simp] theorem State.trap_names (s : State) (w : Warp) (c : Cause) : (s.trap w c).names = s.names := rfl
@[simp] theorem State.trap_mem (s : State) (w : Warp) (c : Cause) : (s.trap w c).mem = s.mem := rfl
@[simp] theorem State.trap_l2 (s : State) (w : Warp) (c : Cause) : (s.trap w c).l2 = s.l2 := rfl
@[simp] theorem State.trap_monitors (s : State) (w : Warp) (c : Cause) : (s.trap w c).monitors = s.monitors := rfl
@[simp] theorem State.trap_packets (s : State) (w : Warp) (c : Cause) : (s.trap w c).packets = s.packets := rfl
@[simp] theorem State.trap_hbms (s : State) (w : Warp) (c : Cause) : (s.trap w c).hbms = s.hbms := rfl
@[simp] theorem State.trap_buffers (s : State) (w : Warp) (c : Cause) : (s.trap w c).buffers = s.buffers := rfl
@[simp] theorem State.trap_dies (s : State) (w : Warp) (c : Cause) : (s.trap w c).dies = s.dies := rfl
@[simp] theorem State.trap_groups (s : State) (w : Warp) (c : Cause) : (s.trap w c).groups = s.groups := rfl
@[simp] theorem State.trap_warps (s : State) (w : Warp) (c : Cause) : (s.trap w c).warps = s.warps := rfl
@[simp] theorem State.trap_cats (s : State) (w : Warp) (c : Cause) : (s.trap w c).cats = s.cats := rfl
@[simp] theorem State.trap_ends (s : State) (w : Warp) (c : Cause) : (s.trap w c).ends = s.ends := rfl
@[simp] theorem State.trap_wings (s : State) (w : Warp) (c : Cause) : (s.trap w c).wings = s.wings := rfl
@[simp] theorem State.trap_regions (s : State) (w : Warp) (c : Cause) : (s.trap w c).regions = s.regions := rfl
@[simp] theorem State.trap_qps (s : State) (w : Warp) (c : Cause) : (s.trap w c).qps = s.qps := rfl
@[simp] theorem State.trap_ports (s : State) (w : Warp) (c : Cause) : (s.trap w c).ports = s.ports := rfl
@[simp] theorem State.trap_raises (s : State) (w : Warp) (c : Cause) : (s.trap w c).raises = s.raises := rfl
@[simp] theorem State.trap_docent (s : State) (w : Warp) (c : Cause) : (s.trap w c).docent = s.docent := rfl
@[simp] theorem State.trap_out (s : State) (w : Warp) (c : Cause) : (s.trap w c).out = s.out := rfl

/-! ### deferTrap -/

@[simp] theorem State.deferTrap_clk (s : State) (c : CoreId) (n : Nat) (i : Issuer) (a : Cause) (b : Bool) : (s.deferTrap c n i a b).clk = s.clk := rfl
@[simp] theorem State.deferTrap_agenda (s : State) (c : CoreId) (n : Nat) (i : Issuer) (a : Cause) (b : Bool) : (s.deferTrap c n i a b).agenda = s.agenda := rfl
@[simp] theorem State.deferTrap_cur (s : State) (c : CoreId) (n : Nat) (i : Issuer) (a : Cause) (b : Bool) : (s.deferTrap c n i a b).cur = s.cur := rfl
@[simp] theorem State.deferTrap_free (s : State) (c : CoreId) (n : Nat) (i : Issuer) (a : Cause) (b : Bool) : (s.deferTrap c n i a b).free = s.free := rfl
@[simp] theorem State.deferTrap_tableErrs (s : State) (c : CoreId) (n : Nat) (i : Issuer) (a : Cause) (b : Bool) : (s.deferTrap c n i a b).tableErrs = s.tableErrs := rfl
@[simp] theorem State.deferTrap_names (s : State) (c : CoreId) (n : Nat) (i : Issuer) (a : Cause) (b : Bool) : (s.deferTrap c n i a b).names = s.names := rfl
@[simp] theorem State.deferTrap_mem (s : State) (c : CoreId) (n : Nat) (i : Issuer) (a : Cause) (b : Bool) : (s.deferTrap c n i a b).mem = s.mem := rfl
@[simp] theorem State.deferTrap_l2 (s : State) (c : CoreId) (n : Nat) (i : Issuer) (a : Cause) (b : Bool) : (s.deferTrap c n i a b).l2 = s.l2 := rfl
@[simp] theorem State.deferTrap_monitors (s : State) (c : CoreId) (n : Nat) (i : Issuer) (a : Cause) (b : Bool) : (s.deferTrap c n i a b).monitors = s.monitors := rfl
@[simp] theorem State.deferTrap_packets (s : State) (c : CoreId) (n : Nat) (i : Issuer) (a : Cause) (b : Bool) : (s.deferTrap c n i a b).packets = s.packets := rfl
@[simp] theorem State.deferTrap_hbms (s : State) (c : CoreId) (n : Nat) (i : Issuer) (a : Cause) (b : Bool) : (s.deferTrap c n i a b).hbms = s.hbms := rfl
@[simp] theorem State.deferTrap_buffers (s : State) (c : CoreId) (n : Nat) (i : Issuer) (a : Cause) (b : Bool) : (s.deferTrap c n i a b).buffers = s.buffers := rfl
@[simp] theorem State.deferTrap_dies (s : State) (c : CoreId) (n : Nat) (i : Issuer) (a : Cause) (b : Bool) : (s.deferTrap c n i a b).dies = s.dies := rfl
@[simp] theorem State.deferTrap_cores (s : State) (c : CoreId) (n : Nat) (i : Issuer) (a : Cause) (b : Bool) : (s.deferTrap c n i a b).cores = s.cores := rfl
@[simp] theorem State.deferTrap_warps (s : State) (c : CoreId) (n : Nat) (i : Issuer) (a : Cause) (b : Bool) : (s.deferTrap c n i a b).warps = s.warps := rfl
@[simp] theorem State.deferTrap_cats (s : State) (c : CoreId) (n : Nat) (i : Issuer) (a : Cause) (b : Bool) : (s.deferTrap c n i a b).cats = s.cats := rfl
@[simp] theorem State.deferTrap_ends (s : State) (c : CoreId) (n : Nat) (i : Issuer) (a : Cause) (b : Bool) : (s.deferTrap c n i a b).ends = s.ends := rfl
@[simp] theorem State.deferTrap_wings (s : State) (c : CoreId) (n : Nat) (i : Issuer) (a : Cause) (b : Bool) : (s.deferTrap c n i a b).wings = s.wings := rfl
@[simp] theorem State.deferTrap_regions (s : State) (c : CoreId) (n : Nat) (i : Issuer) (a : Cause) (b : Bool) : (s.deferTrap c n i a b).regions = s.regions := rfl
@[simp] theorem State.deferTrap_qps (s : State) (c : CoreId) (n : Nat) (i : Issuer) (a : Cause) (b : Bool) : (s.deferTrap c n i a b).qps = s.qps := rfl
@[simp] theorem State.deferTrap_ports (s : State) (c : CoreId) (n : Nat) (i : Issuer) (a : Cause) (b : Bool) : (s.deferTrap c n i a b).ports = s.ports := rfl
@[simp] theorem State.deferTrap_raises (s : State) (c : CoreId) (n : Nat) (i : Issuer) (a : Cause) (b : Bool) : (s.deferTrap c n i a b).raises = s.raises := rfl
@[simp] theorem State.deferTrap_docent (s : State) (c : CoreId) (n : Nat) (i : Issuer) (a : Cause) (b : Bool) : (s.deferTrap c n i a b).docent = s.docent := rfl
@[simp] theorem State.deferTrap_out (s : State) (c : CoreId) (n : Nat) (i : Issuer) (a : Cause) (b : Bool) : (s.deferTrap c n i a b).out = s.out := rfl

/-! ### fresh -/

@[simp] theorem State.fresh_clk (s : State) : s.fresh.2.clk = s.clk := rfl
@[simp] theorem State.fresh_agenda (s : State) : s.fresh.2.agenda = s.agenda := rfl
@[simp] theorem State.fresh_cur (s : State) : s.fresh.2.cur = s.cur := rfl
@[simp] theorem State.fresh_free (s : State) : s.fresh.2.free = s.free := rfl
@[simp] theorem State.fresh_tableErrs (s : State) : s.fresh.2.tableErrs = s.tableErrs := rfl
@[simp] theorem State.fresh_mem (s : State) : s.fresh.2.mem = s.mem := rfl
@[simp] theorem State.fresh_l2 (s : State) : s.fresh.2.l2 = s.l2 := rfl
@[simp] theorem State.fresh_monitors (s : State) : s.fresh.2.monitors = s.monitors := rfl
@[simp] theorem State.fresh_packets (s : State) : s.fresh.2.packets = s.packets := rfl
@[simp] theorem State.fresh_hbms (s : State) : s.fresh.2.hbms = s.hbms := rfl
@[simp] theorem State.fresh_buffers (s : State) : s.fresh.2.buffers = s.buffers := rfl
@[simp] theorem State.fresh_dies (s : State) : s.fresh.2.dies = s.dies := rfl
@[simp] theorem State.fresh_cores (s : State) : s.fresh.2.cores = s.cores := rfl
@[simp] theorem State.fresh_groups (s : State) : s.fresh.2.groups = s.groups := rfl
@[simp] theorem State.fresh_warps (s : State) : s.fresh.2.warps = s.warps := rfl
@[simp] theorem State.fresh_cats (s : State) : s.fresh.2.cats = s.cats := rfl
@[simp] theorem State.fresh_ends (s : State) : s.fresh.2.ends = s.ends := rfl
@[simp] theorem State.fresh_wings (s : State) : s.fresh.2.wings = s.wings := rfl
@[simp] theorem State.fresh_regions (s : State) : s.fresh.2.regions = s.regions := rfl
@[simp] theorem State.fresh_qps (s : State) : s.fresh.2.qps = s.qps := rfl
@[simp] theorem State.fresh_ports (s : State) : s.fresh.2.ports = s.ports := rfl
@[simp] theorem State.fresh_raises (s : State) : s.fresh.2.raises = s.raises := rfl
@[simp] theorem State.fresh_docent (s : State) : s.fresh.2.docent = s.docent := rfl
@[simp] theorem State.fresh_out (s : State) : s.fresh.2.out = s.out := rfl

/-! ### freshFree -/

@[simp] theorem State.freshFree_clk (s : State) : s.freshFree.2.clk = s.clk := rfl
@[simp] theorem State.freshFree_agenda (s : State) : s.freshFree.2.agenda = s.agenda := rfl
@[simp] theorem State.freshFree_cur (s : State) : s.freshFree.2.cur = s.cur := rfl
@[simp] theorem State.freshFree_names (s : State) : s.freshFree.2.names = s.names := rfl
@[simp] theorem State.freshFree_mem (s : State) : s.freshFree.2.mem = s.mem := rfl
@[simp] theorem State.freshFree_l2 (s : State) : s.freshFree.2.l2 = s.l2 := rfl
@[simp] theorem State.freshFree_monitors (s : State) : s.freshFree.2.monitors = s.monitors := rfl
@[simp] theorem State.freshFree_packets (s : State) : s.freshFree.2.packets = s.packets := rfl
@[simp] theorem State.freshFree_hbms (s : State) : s.freshFree.2.hbms = s.hbms := rfl
@[simp] theorem State.freshFree_buffers (s : State) : s.freshFree.2.buffers = s.buffers := rfl
@[simp] theorem State.freshFree_dies (s : State) : s.freshFree.2.dies = s.dies := rfl
@[simp] theorem State.freshFree_cores (s : State) : s.freshFree.2.cores = s.cores := rfl
@[simp] theorem State.freshFree_groups (s : State) : s.freshFree.2.groups = s.groups := rfl
@[simp] theorem State.freshFree_warps (s : State) : s.freshFree.2.warps = s.warps := rfl
@[simp] theorem State.freshFree_cats (s : State) : s.freshFree.2.cats = s.cats := rfl
@[simp] theorem State.freshFree_ends (s : State) : s.freshFree.2.ends = s.ends := rfl
@[simp] theorem State.freshFree_wings (s : State) : s.freshFree.2.wings = s.wings := rfl
@[simp] theorem State.freshFree_regions (s : State) : s.freshFree.2.regions = s.regions := rfl
@[simp] theorem State.freshFree_qps (s : State) : s.freshFree.2.qps = s.qps := rfl
@[simp] theorem State.freshFree_ports (s : State) : s.freshFree.2.ports = s.ports := rfl
@[simp] theorem State.freshFree_raises (s : State) : s.freshFree.2.raises = s.raises := rfl
@[simp] theorem State.freshFree_docent (s : State) : s.freshFree.2.docent = s.docent := rfl
@[simp] theorem State.freshFree_out (s : State) : s.freshFree.2.out = s.out := rfl

/-! ### setV -/

@[simp] theorem Warp.setV_id (w : Warp) (n : Nat) (r : VReg) : (w.setV n r).id = w.id := rfl
@[simp] theorem Warp.setV_grp (w : Warp) (n : Nat) (r : VReg) : (w.setV n r).grp = w.grp := rfl
@[simp] theorem Warp.setV_widx (w : Warp) (n : Nat) (r : VReg) : (w.setV n r).widx = w.widx := rfl
@[simp] theorem Warp.setV_vregs (w : Warp) (n : Nat) (r : VReg) : (w.setV n r).vregs = w.vregs := rfl
@[simp] theorem Warp.setV_q (w : Warp) (n : Nat) (r : VReg) : (w.setV n r).q = w.q := rfl
@[simp] theorem Warp.setV_lr (w : Warp) (n : Nat) (r : VReg) : (w.setV n r).lr = w.lr := rfl
@[simp] theorem Warp.setV_s (w : Warp) (n : Nat) (r : VReg) : (w.setV n r).s = w.s := rfl
@[simp] theorem Warp.setV_p (w : Warp) (n : Nat) (r : VReg) : (w.setV n r).p = w.p := rfl
@[simp] theorem Warp.setV_k (w : Warp) (n : Nat) (r : VReg) : (w.setV n r).k = w.k := rfl
@[simp] theorem Warp.setV_exec (w : Warp) (n : Nat) (r : VReg) : (w.setV n r).exec = w.exec := rfl
@[simp] theorem Warp.setV_fflags (w : Warp) (n : Nat) (r : VReg) : (w.setV n r).fflags = w.fflags := rfl
@[simp] theorem Warp.setV_splits (w : Warp) (n : Nat) (r : VReg) : (w.setV n r).splits = w.splits := rfl
@[simp] theorem Warp.setV_ibufs (w : Warp) (n : Nat) (r : VReg) : (w.setV n r).ibufs = w.ibufs := rfl
@[simp] theorem Warp.setV_fetching (w : Warp) (n : Nat) (r : VReg) : (w.setV n r).fetching = w.fetching := rfl
@[simp] theorem Warp.setV_gld (w : Warp) (n : Nat) (r : VReg) : (w.setV n r).gld = w.gld := rfl
@[simp] theorem Warp.setV_gst (w : Warp) (n : Nat) (r : VReg) : (w.setV n r).gst = w.gst := rfl
@[simp] theorem Warp.setV_spm (w : Warp) (n : Nat) (r : VReg) : (w.setV n r).spm = w.spm := rfl
@[simp] theorem Warp.setV_privbase (w : Warp) (n : Nat) (r : VReg) : (w.setV n r).privbase = w.privbase := rfl
@[simp] theorem Warp.setV_wdlimit (w : Warp) (n : Nat) (r : VReg) : (w.setV n r).wdlimit = w.wdlimit := rfl
@[simp] theorem Warp.setV_waitFrom (w : Warp) (n : Nat) (r : VReg) : (w.setV n r).waitFrom = w.waitFrom := rfl
@[simp] theorem Warp.setV_progress (w : Warp) (n : Nat) (r : VReg) : (w.setV n r).progress = w.progress := rfl
@[simp] theorem Warp.setV_fails (w : Warp) (n : Nat) (r : VReg) : (w.setV n r).fails = w.fails := rfl
@[simp] theorem Warp.setV_readyAt (w : Warp) (n : Nat) (r : VReg) : (w.setV n r).readyAt = w.readyAt := rfl
@[simp] theorem Warp.setV_held (w : Warp) (n : Nat) (r : VReg) : (w.setV n r).held = w.held := rfl
@[simp] theorem Warp.setV_joinCtr (w : Warp) (n : Nat) (r : VReg) : (w.setV n r).joinCtr = w.joinCtr := rfl
@[simp] theorem Warp.setV_age (w : Warp) (n : Nat) (r : VReg) : (w.setV n r).age = w.age := rfl
@[simp] theorem Warp.setV_takes (w : Warp) (n : Nat) (r : VReg) : (w.setV n r).takes = w.takes := rfl
@[simp] theorem Warp.setV_ahead (w : Warp) (n : Nat) (r : VReg) : (w.setV n r).ahead = w.ahead := rfl

/-! ### setQ -/

@[simp] theorem Warp.setQ_id (w : Warp) (n : Nat) (r : VReg) : (w.setQ n r).id = w.id := rfl
@[simp] theorem Warp.setQ_grp (w : Warp) (n : Nat) (r : VReg) : (w.setQ n r).grp = w.grp := rfl
@[simp] theorem Warp.setQ_widx (w : Warp) (n : Nat) (r : VReg) : (w.setQ n r).widx = w.widx := rfl
@[simp] theorem Warp.setQ_vregs (w : Warp) (n : Nat) (r : VReg) : (w.setQ n r).vregs = w.vregs := rfl
@[simp] theorem Warp.setQ_v (w : Warp) (n : Nat) (r : VReg) : (w.setQ n r).v = w.v := rfl
@[simp] theorem Warp.setQ_lr (w : Warp) (n : Nat) (r : VReg) : (w.setQ n r).lr = w.lr := rfl
@[simp] theorem Warp.setQ_s (w : Warp) (n : Nat) (r : VReg) : (w.setQ n r).s = w.s := rfl
@[simp] theorem Warp.setQ_p (w : Warp) (n : Nat) (r : VReg) : (w.setQ n r).p = w.p := rfl
@[simp] theorem Warp.setQ_k (w : Warp) (n : Nat) (r : VReg) : (w.setQ n r).k = w.k := rfl
@[simp] theorem Warp.setQ_exec (w : Warp) (n : Nat) (r : VReg) : (w.setQ n r).exec = w.exec := rfl
@[simp] theorem Warp.setQ_fflags (w : Warp) (n : Nat) (r : VReg) : (w.setQ n r).fflags = w.fflags := rfl
@[simp] theorem Warp.setQ_splits (w : Warp) (n : Nat) (r : VReg) : (w.setQ n r).splits = w.splits := rfl
@[simp] theorem Warp.setQ_ibufs (w : Warp) (n : Nat) (r : VReg) : (w.setQ n r).ibufs = w.ibufs := rfl
@[simp] theorem Warp.setQ_fetching (w : Warp) (n : Nat) (r : VReg) : (w.setQ n r).fetching = w.fetching := rfl
@[simp] theorem Warp.setQ_gld (w : Warp) (n : Nat) (r : VReg) : (w.setQ n r).gld = w.gld := rfl
@[simp] theorem Warp.setQ_gst (w : Warp) (n : Nat) (r : VReg) : (w.setQ n r).gst = w.gst := rfl
@[simp] theorem Warp.setQ_spm (w : Warp) (n : Nat) (r : VReg) : (w.setQ n r).spm = w.spm := rfl
@[simp] theorem Warp.setQ_privbase (w : Warp) (n : Nat) (r : VReg) : (w.setQ n r).privbase = w.privbase := rfl
@[simp] theorem Warp.setQ_wdlimit (w : Warp) (n : Nat) (r : VReg) : (w.setQ n r).wdlimit = w.wdlimit := rfl
@[simp] theorem Warp.setQ_waitFrom (w : Warp) (n : Nat) (r : VReg) : (w.setQ n r).waitFrom = w.waitFrom := rfl
@[simp] theorem Warp.setQ_progress (w : Warp) (n : Nat) (r : VReg) : (w.setQ n r).progress = w.progress := rfl
@[simp] theorem Warp.setQ_fails (w : Warp) (n : Nat) (r : VReg) : (w.setQ n r).fails = w.fails := rfl
@[simp] theorem Warp.setQ_readyAt (w : Warp) (n : Nat) (r : VReg) : (w.setQ n r).readyAt = w.readyAt := rfl
@[simp] theorem Warp.setQ_held (w : Warp) (n : Nat) (r : VReg) : (w.setQ n r).held = w.held := rfl
@[simp] theorem Warp.setQ_joinCtr (w : Warp) (n : Nat) (r : VReg) : (w.setQ n r).joinCtr = w.joinCtr := rfl
@[simp] theorem Warp.setQ_age (w : Warp) (n : Nat) (r : VReg) : (w.setQ n r).age = w.age := rfl
@[simp] theorem Warp.setQ_takes (w : Warp) (n : Nat) (r : VReg) : (w.setQ n r).takes = w.takes := rfl
@[simp] theorem Warp.setQ_ahead (w : Warp) (n : Nat) (r : VReg) : (w.setQ n r).ahead = w.ahead := rfl

/-! ### setLr -/

@[simp] theorem Warp.setLr_id (w : Warp) (r : VReg) : (w.setLr r).id = w.id := rfl
@[simp] theorem Warp.setLr_grp (w : Warp) (r : VReg) : (w.setLr r).grp = w.grp := rfl
@[simp] theorem Warp.setLr_widx (w : Warp) (r : VReg) : (w.setLr r).widx = w.widx := rfl
@[simp] theorem Warp.setLr_vregs (w : Warp) (r : VReg) : (w.setLr r).vregs = w.vregs := rfl
@[simp] theorem Warp.setLr_v (w : Warp) (r : VReg) : (w.setLr r).v = w.v := rfl
@[simp] theorem Warp.setLr_q (w : Warp) (r : VReg) : (w.setLr r).q = w.q := rfl
@[simp] theorem Warp.setLr_s (w : Warp) (r : VReg) : (w.setLr r).s = w.s := rfl
@[simp] theorem Warp.setLr_p (w : Warp) (r : VReg) : (w.setLr r).p = w.p := rfl
@[simp] theorem Warp.setLr_k (w : Warp) (r : VReg) : (w.setLr r).k = w.k := rfl
@[simp] theorem Warp.setLr_exec (w : Warp) (r : VReg) : (w.setLr r).exec = w.exec := rfl
@[simp] theorem Warp.setLr_fflags (w : Warp) (r : VReg) : (w.setLr r).fflags = w.fflags := rfl
@[simp] theorem Warp.setLr_splits (w : Warp) (r : VReg) : (w.setLr r).splits = w.splits := rfl
@[simp] theorem Warp.setLr_ibufs (w : Warp) (r : VReg) : (w.setLr r).ibufs = w.ibufs := rfl
@[simp] theorem Warp.setLr_fetching (w : Warp) (r : VReg) : (w.setLr r).fetching = w.fetching := rfl
@[simp] theorem Warp.setLr_gld (w : Warp) (r : VReg) : (w.setLr r).gld = w.gld := rfl
@[simp] theorem Warp.setLr_gst (w : Warp) (r : VReg) : (w.setLr r).gst = w.gst := rfl
@[simp] theorem Warp.setLr_spm (w : Warp) (r : VReg) : (w.setLr r).spm = w.spm := rfl
@[simp] theorem Warp.setLr_privbase (w : Warp) (r : VReg) : (w.setLr r).privbase = w.privbase := rfl
@[simp] theorem Warp.setLr_wdlimit (w : Warp) (r : VReg) : (w.setLr r).wdlimit = w.wdlimit := rfl
@[simp] theorem Warp.setLr_waitFrom (w : Warp) (r : VReg) : (w.setLr r).waitFrom = w.waitFrom := rfl
@[simp] theorem Warp.setLr_progress (w : Warp) (r : VReg) : (w.setLr r).progress = w.progress := rfl
@[simp] theorem Warp.setLr_fails (w : Warp) (r : VReg) : (w.setLr r).fails = w.fails := rfl
@[simp] theorem Warp.setLr_readyAt (w : Warp) (r : VReg) : (w.setLr r).readyAt = w.readyAt := rfl
@[simp] theorem Warp.setLr_held (w : Warp) (r : VReg) : (w.setLr r).held = w.held := rfl
@[simp] theorem Warp.setLr_joinCtr (w : Warp) (r : VReg) : (w.setLr r).joinCtr = w.joinCtr := rfl
@[simp] theorem Warp.setLr_age (w : Warp) (r : VReg) : (w.setLr r).age = w.age := rfl
@[simp] theorem Warp.setLr_takes (w : Warp) (r : VReg) : (w.setLr r).takes = w.takes := rfl
@[simp] theorem Warp.setLr_ahead (w : Warp) (r : VReg) : (w.setLr r).ahead = w.ahead := rfl

/-! ### setS -/

@[simp] theorem Warp.setS_id (w : Warp) (n : Nat) (y : Word) : (w.setS n y).id = w.id := rfl
@[simp] theorem Warp.setS_grp (w : Warp) (n : Nat) (y : Word) : (w.setS n y).grp = w.grp := rfl
@[simp] theorem Warp.setS_widx (w : Warp) (n : Nat) (y : Word) : (w.setS n y).widx = w.widx := rfl
@[simp] theorem Warp.setS_vregs (w : Warp) (n : Nat) (y : Word) : (w.setS n y).vregs = w.vregs := rfl
@[simp] theorem Warp.setS_v (w : Warp) (n : Nat) (y : Word) : (w.setS n y).v = w.v := rfl
@[simp] theorem Warp.setS_q (w : Warp) (n : Nat) (y : Word) : (w.setS n y).q = w.q := rfl
@[simp] theorem Warp.setS_lr (w : Warp) (n : Nat) (y : Word) : (w.setS n y).lr = w.lr := rfl
@[simp] theorem Warp.setS_p (w : Warp) (n : Nat) (y : Word) : (w.setS n y).p = w.p := rfl
@[simp] theorem Warp.setS_k (w : Warp) (n : Nat) (y : Word) : (w.setS n y).k = w.k := rfl
@[simp] theorem Warp.setS_exec (w : Warp) (n : Nat) (y : Word) : (w.setS n y).exec = w.exec := rfl
@[simp] theorem Warp.setS_fflags (w : Warp) (n : Nat) (y : Word) : (w.setS n y).fflags = w.fflags := rfl
@[simp] theorem Warp.setS_splits (w : Warp) (n : Nat) (y : Word) : (w.setS n y).splits = w.splits := rfl
@[simp] theorem Warp.setS_ibufs (w : Warp) (n : Nat) (y : Word) : (w.setS n y).ibufs = w.ibufs := rfl
@[simp] theorem Warp.setS_fetching (w : Warp) (n : Nat) (y : Word) : (w.setS n y).fetching = w.fetching := rfl
@[simp] theorem Warp.setS_gld (w : Warp) (n : Nat) (y : Word) : (w.setS n y).gld = w.gld := rfl
@[simp] theorem Warp.setS_gst (w : Warp) (n : Nat) (y : Word) : (w.setS n y).gst = w.gst := rfl
@[simp] theorem Warp.setS_spm (w : Warp) (n : Nat) (y : Word) : (w.setS n y).spm = w.spm := rfl
@[simp] theorem Warp.setS_privbase (w : Warp) (n : Nat) (y : Word) : (w.setS n y).privbase = w.privbase := rfl
@[simp] theorem Warp.setS_wdlimit (w : Warp) (n : Nat) (y : Word) : (w.setS n y).wdlimit = w.wdlimit := rfl
@[simp] theorem Warp.setS_waitFrom (w : Warp) (n : Nat) (y : Word) : (w.setS n y).waitFrom = w.waitFrom := rfl
@[simp] theorem Warp.setS_progress (w : Warp) (n : Nat) (y : Word) : (w.setS n y).progress = w.progress := rfl
@[simp] theorem Warp.setS_fails (w : Warp) (n : Nat) (y : Word) : (w.setS n y).fails = w.fails := rfl
@[simp] theorem Warp.setS_readyAt (w : Warp) (n : Nat) (y : Word) : (w.setS n y).readyAt = w.readyAt := rfl
@[simp] theorem Warp.setS_held (w : Warp) (n : Nat) (y : Word) : (w.setS n y).held = w.held := rfl
@[simp] theorem Warp.setS_joinCtr (w : Warp) (n : Nat) (y : Word) : (w.setS n y).joinCtr = w.joinCtr := rfl
@[simp] theorem Warp.setS_age (w : Warp) (n : Nat) (y : Word) : (w.setS n y).age = w.age := rfl
@[simp] theorem Warp.setS_takes (w : Warp) (n : Nat) (y : Word) : (w.setS n y).takes = w.takes := rfl
@[simp] theorem Warp.setS_ahead (w : Warp) (n : Nat) (y : Word) : (w.setS n y).ahead = w.ahead := rfl

/-! ### setSd -/

@[simp] theorem Warp.setSd_id (w : Warp) (n : Nat) (y : DWord) : (w.setSd n y).id = w.id := rfl
@[simp] theorem Warp.setSd_grp (w : Warp) (n : Nat) (y : DWord) : (w.setSd n y).grp = w.grp := rfl
@[simp] theorem Warp.setSd_widx (w : Warp) (n : Nat) (y : DWord) : (w.setSd n y).widx = w.widx := rfl
@[simp] theorem Warp.setSd_vregs (w : Warp) (n : Nat) (y : DWord) : (w.setSd n y).vregs = w.vregs := rfl
@[simp] theorem Warp.setSd_v (w : Warp) (n : Nat) (y : DWord) : (w.setSd n y).v = w.v := rfl
@[simp] theorem Warp.setSd_q (w : Warp) (n : Nat) (y : DWord) : (w.setSd n y).q = w.q := rfl
@[simp] theorem Warp.setSd_lr (w : Warp) (n : Nat) (y : DWord) : (w.setSd n y).lr = w.lr := rfl
@[simp] theorem Warp.setSd_p (w : Warp) (n : Nat) (y : DWord) : (w.setSd n y).p = w.p := rfl
@[simp] theorem Warp.setSd_k (w : Warp) (n : Nat) (y : DWord) : (w.setSd n y).k = w.k := rfl
@[simp] theorem Warp.setSd_exec (w : Warp) (n : Nat) (y : DWord) : (w.setSd n y).exec = w.exec := rfl
@[simp] theorem Warp.setSd_fflags (w : Warp) (n : Nat) (y : DWord) : (w.setSd n y).fflags = w.fflags := rfl
@[simp] theorem Warp.setSd_splits (w : Warp) (n : Nat) (y : DWord) : (w.setSd n y).splits = w.splits := rfl
@[simp] theorem Warp.setSd_ibufs (w : Warp) (n : Nat) (y : DWord) : (w.setSd n y).ibufs = w.ibufs := rfl
@[simp] theorem Warp.setSd_fetching (w : Warp) (n : Nat) (y : DWord) : (w.setSd n y).fetching = w.fetching := rfl
@[simp] theorem Warp.setSd_gld (w : Warp) (n : Nat) (y : DWord) : (w.setSd n y).gld = w.gld := rfl
@[simp] theorem Warp.setSd_gst (w : Warp) (n : Nat) (y : DWord) : (w.setSd n y).gst = w.gst := rfl
@[simp] theorem Warp.setSd_spm (w : Warp) (n : Nat) (y : DWord) : (w.setSd n y).spm = w.spm := rfl
@[simp] theorem Warp.setSd_privbase (w : Warp) (n : Nat) (y : DWord) : (w.setSd n y).privbase = w.privbase := rfl
@[simp] theorem Warp.setSd_wdlimit (w : Warp) (n : Nat) (y : DWord) : (w.setSd n y).wdlimit = w.wdlimit := rfl
@[simp] theorem Warp.setSd_waitFrom (w : Warp) (n : Nat) (y : DWord) : (w.setSd n y).waitFrom = w.waitFrom := rfl
@[simp] theorem Warp.setSd_progress (w : Warp) (n : Nat) (y : DWord) : (w.setSd n y).progress = w.progress := rfl
@[simp] theorem Warp.setSd_fails (w : Warp) (n : Nat) (y : DWord) : (w.setSd n y).fails = w.fails := rfl
@[simp] theorem Warp.setSd_readyAt (w : Warp) (n : Nat) (y : DWord) : (w.setSd n y).readyAt = w.readyAt := rfl
@[simp] theorem Warp.setSd_held (w : Warp) (n : Nat) (y : DWord) : (w.setSd n y).held = w.held := rfl
@[simp] theorem Warp.setSd_joinCtr (w : Warp) (n : Nat) (y : DWord) : (w.setSd n y).joinCtr = w.joinCtr := rfl
@[simp] theorem Warp.setSd_age (w : Warp) (n : Nat) (y : DWord) : (w.setSd n y).age = w.age := rfl
@[simp] theorem Warp.setSd_takes (w : Warp) (n : Nat) (y : DWord) : (w.setSd n y).takes = w.takes := rfl
@[simp] theorem Warp.setSd_ahead (w : Warp) (n : Nat) (y : DWord) : (w.setSd n y).ahead = w.ahead := rfl

/-! ### orFlags -/

@[simp] theorem Warp.orFlags_id (w : Warp) (y : Flags) : (w.orFlags y).id = w.id := rfl
@[simp] theorem Warp.orFlags_grp (w : Warp) (y : Flags) : (w.orFlags y).grp = w.grp := rfl
@[simp] theorem Warp.orFlags_widx (w : Warp) (y : Flags) : (w.orFlags y).widx = w.widx := rfl
@[simp] theorem Warp.orFlags_vregs (w : Warp) (y : Flags) : (w.orFlags y).vregs = w.vregs := rfl
@[simp] theorem Warp.orFlags_v (w : Warp) (y : Flags) : (w.orFlags y).v = w.v := rfl
@[simp] theorem Warp.orFlags_q (w : Warp) (y : Flags) : (w.orFlags y).q = w.q := rfl
@[simp] theorem Warp.orFlags_lr (w : Warp) (y : Flags) : (w.orFlags y).lr = w.lr := rfl
@[simp] theorem Warp.orFlags_s (w : Warp) (y : Flags) : (w.orFlags y).s = w.s := rfl
@[simp] theorem Warp.orFlags_p (w : Warp) (y : Flags) : (w.orFlags y).p = w.p := rfl
@[simp] theorem Warp.orFlags_k (w : Warp) (y : Flags) : (w.orFlags y).k = w.k := rfl
@[simp] theorem Warp.orFlags_exec (w : Warp) (y : Flags) : (w.orFlags y).exec = w.exec := rfl
@[simp] theorem Warp.orFlags_splits (w : Warp) (y : Flags) : (w.orFlags y).splits = w.splits := rfl
@[simp] theorem Warp.orFlags_ibufs (w : Warp) (y : Flags) : (w.orFlags y).ibufs = w.ibufs := rfl
@[simp] theorem Warp.orFlags_fetching (w : Warp) (y : Flags) : (w.orFlags y).fetching = w.fetching := rfl
@[simp] theorem Warp.orFlags_gld (w : Warp) (y : Flags) : (w.orFlags y).gld = w.gld := rfl
@[simp] theorem Warp.orFlags_gst (w : Warp) (y : Flags) : (w.orFlags y).gst = w.gst := rfl
@[simp] theorem Warp.orFlags_spm (w : Warp) (y : Flags) : (w.orFlags y).spm = w.spm := rfl
@[simp] theorem Warp.orFlags_privbase (w : Warp) (y : Flags) : (w.orFlags y).privbase = w.privbase := rfl
@[simp] theorem Warp.orFlags_wdlimit (w : Warp) (y : Flags) : (w.orFlags y).wdlimit = w.wdlimit := rfl
@[simp] theorem Warp.orFlags_waitFrom (w : Warp) (y : Flags) : (w.orFlags y).waitFrom = w.waitFrom := rfl
@[simp] theorem Warp.orFlags_progress (w : Warp) (y : Flags) : (w.orFlags y).progress = w.progress := rfl
@[simp] theorem Warp.orFlags_fails (w : Warp) (y : Flags) : (w.orFlags y).fails = w.fails := rfl
@[simp] theorem Warp.orFlags_readyAt (w : Warp) (y : Flags) : (w.orFlags y).readyAt = w.readyAt := rfl
@[simp] theorem Warp.orFlags_held (w : Warp) (y : Flags) : (w.orFlags y).held = w.held := rfl
@[simp] theorem Warp.orFlags_joinCtr (w : Warp) (y : Flags) : (w.orFlags y).joinCtr = w.joinCtr := rfl
@[simp] theorem Warp.orFlags_age (w : Warp) (y : Flags) : (w.orFlags y).age = w.age := rfl
@[simp] theorem Warp.orFlags_takes (w : Warp) (y : Flags) : (w.orFlags y).takes = w.takes := rfl
@[simp] theorem Warp.orFlags_ahead (w : Warp) (y : Flags) : (w.orFlags y).ahead = w.ahead := rfl

/-! ### modRunning -/

@[simp] theorem Warp.modRunning_id (w : Warp) (g : Split → Split) : (w.modRunning g).id = w.id := rfl
@[simp] theorem Warp.modRunning_grp (w : Warp) (g : Split → Split) : (w.modRunning g).grp = w.grp := rfl
@[simp] theorem Warp.modRunning_widx (w : Warp) (g : Split → Split) : (w.modRunning g).widx = w.widx := rfl
@[simp] theorem Warp.modRunning_vregs (w : Warp) (g : Split → Split) : (w.modRunning g).vregs = w.vregs := rfl
@[simp] theorem Warp.modRunning_v (w : Warp) (g : Split → Split) : (w.modRunning g).v = w.v := rfl
@[simp] theorem Warp.modRunning_q (w : Warp) (g : Split → Split) : (w.modRunning g).q = w.q := rfl
@[simp] theorem Warp.modRunning_lr (w : Warp) (g : Split → Split) : (w.modRunning g).lr = w.lr := rfl
@[simp] theorem Warp.modRunning_s (w : Warp) (g : Split → Split) : (w.modRunning g).s = w.s := rfl
@[simp] theorem Warp.modRunning_p (w : Warp) (g : Split → Split) : (w.modRunning g).p = w.p := rfl
@[simp] theorem Warp.modRunning_k (w : Warp) (g : Split → Split) : (w.modRunning g).k = w.k := rfl
@[simp] theorem Warp.modRunning_exec (w : Warp) (g : Split → Split) : (w.modRunning g).exec = w.exec := rfl
@[simp] theorem Warp.modRunning_fflags (w : Warp) (g : Split → Split) : (w.modRunning g).fflags = w.fflags := rfl
@[simp] theorem Warp.modRunning_ibufs (w : Warp) (g : Split → Split) : (w.modRunning g).ibufs = w.ibufs := rfl
@[simp] theorem Warp.modRunning_fetching (w : Warp) (g : Split → Split) : (w.modRunning g).fetching = w.fetching := rfl
@[simp] theorem Warp.modRunning_gld (w : Warp) (g : Split → Split) : (w.modRunning g).gld = w.gld := rfl
@[simp] theorem Warp.modRunning_gst (w : Warp) (g : Split → Split) : (w.modRunning g).gst = w.gst := rfl
@[simp] theorem Warp.modRunning_spm (w : Warp) (g : Split → Split) : (w.modRunning g).spm = w.spm := rfl
@[simp] theorem Warp.modRunning_privbase (w : Warp) (g : Split → Split) : (w.modRunning g).privbase = w.privbase := rfl
@[simp] theorem Warp.modRunning_wdlimit (w : Warp) (g : Split → Split) : (w.modRunning g).wdlimit = w.wdlimit := rfl
@[simp] theorem Warp.modRunning_waitFrom (w : Warp) (g : Split → Split) : (w.modRunning g).waitFrom = w.waitFrom := rfl
@[simp] theorem Warp.modRunning_progress (w : Warp) (g : Split → Split) : (w.modRunning g).progress = w.progress := rfl
@[simp] theorem Warp.modRunning_fails (w : Warp) (g : Split → Split) : (w.modRunning g).fails = w.fails := rfl
@[simp] theorem Warp.modRunning_readyAt (w : Warp) (g : Split → Split) : (w.modRunning g).readyAt = w.readyAt := rfl
@[simp] theorem Warp.modRunning_held (w : Warp) (g : Split → Split) : (w.modRunning g).held = w.held := rfl
@[simp] theorem Warp.modRunning_joinCtr (w : Warp) (g : Split → Split) : (w.modRunning g).joinCtr = w.joinCtr := rfl
@[simp] theorem Warp.modRunning_age (w : Warp) (g : Split → Split) : (w.modRunning g).age = w.age := rfl
@[simp] theorem Warp.modRunning_takes (w : Warp) (g : Split → Split) : (w.modRunning g).takes = w.takes := rfl
@[simp] theorem Warp.modRunning_ahead (w : Warp) (g : Split → Split) : (w.modRunning g).ahead = w.ahead := rfl

/-! ### setP -/

@[simp] theorem Warp.setP_id (w : Warp) (n : Nat) (m y : Mask) : (w.setP n m y).id = w.id := by
  unfold Warp.setP; split <;> rfl
@[simp] theorem Warp.setP_grp (w : Warp) (n : Nat) (m y : Mask) : (w.setP n m y).grp = w.grp := by
  unfold Warp.setP; split <;> rfl
@[simp] theorem Warp.setP_widx (w : Warp) (n : Nat) (m y : Mask) : (w.setP n m y).widx = w.widx := by
  unfold Warp.setP; split <;> rfl
@[simp] theorem Warp.setP_vregs (w : Warp) (n : Nat) (m y : Mask) : (w.setP n m y).vregs = w.vregs := by
  unfold Warp.setP; split <;> rfl
@[simp] theorem Warp.setP_v (w : Warp) (n : Nat) (m y : Mask) : (w.setP n m y).v = w.v := by
  unfold Warp.setP; split <;> rfl
@[simp] theorem Warp.setP_q (w : Warp) (n : Nat) (m y : Mask) : (w.setP n m y).q = w.q := by
  unfold Warp.setP; split <;> rfl
@[simp] theorem Warp.setP_lr (w : Warp) (n : Nat) (m y : Mask) : (w.setP n m y).lr = w.lr := by
  unfold Warp.setP; split <;> rfl
@[simp] theorem Warp.setP_s (w : Warp) (n : Nat) (m y : Mask) : (w.setP n m y).s = w.s := by
  unfold Warp.setP; split <;> rfl
@[simp] theorem Warp.setP_k (w : Warp) (n : Nat) (m y : Mask) : (w.setP n m y).k = w.k := by
  unfold Warp.setP; split <;> rfl
@[simp] theorem Warp.setP_exec (w : Warp) (n : Nat) (m y : Mask) : (w.setP n m y).exec = w.exec := by
  unfold Warp.setP; split <;> rfl
@[simp] theorem Warp.setP_fflags (w : Warp) (n : Nat) (m y : Mask) : (w.setP n m y).fflags = w.fflags := by
  unfold Warp.setP; split <;> rfl
@[simp] theorem Warp.setP_splits (w : Warp) (n : Nat) (m y : Mask) : (w.setP n m y).splits = w.splits := by
  unfold Warp.setP; split <;> rfl
@[simp] theorem Warp.setP_ibufs (w : Warp) (n : Nat) (m y : Mask) : (w.setP n m y).ibufs = w.ibufs := by
  unfold Warp.setP; split <;> rfl
@[simp] theorem Warp.setP_fetching (w : Warp) (n : Nat) (m y : Mask) : (w.setP n m y).fetching = w.fetching := by
  unfold Warp.setP; split <;> rfl
@[simp] theorem Warp.setP_gld (w : Warp) (n : Nat) (m y : Mask) : (w.setP n m y).gld = w.gld := by
  unfold Warp.setP; split <;> rfl
@[simp] theorem Warp.setP_gst (w : Warp) (n : Nat) (m y : Mask) : (w.setP n m y).gst = w.gst := by
  unfold Warp.setP; split <;> rfl
@[simp] theorem Warp.setP_spm (w : Warp) (n : Nat) (m y : Mask) : (w.setP n m y).spm = w.spm := by
  unfold Warp.setP; split <;> rfl
@[simp] theorem Warp.setP_privbase (w : Warp) (n : Nat) (m y : Mask) : (w.setP n m y).privbase = w.privbase := by
  unfold Warp.setP; split <;> rfl
@[simp] theorem Warp.setP_wdlimit (w : Warp) (n : Nat) (m y : Mask) : (w.setP n m y).wdlimit = w.wdlimit := by
  unfold Warp.setP; split <;> rfl
@[simp] theorem Warp.setP_waitFrom (w : Warp) (n : Nat) (m y : Mask) : (w.setP n m y).waitFrom = w.waitFrom := by
  unfold Warp.setP; split <;> rfl
@[simp] theorem Warp.setP_progress (w : Warp) (n : Nat) (m y : Mask) : (w.setP n m y).progress = w.progress := by
  unfold Warp.setP; split <;> rfl
@[simp] theorem Warp.setP_fails (w : Warp) (n : Nat) (m y : Mask) : (w.setP n m y).fails = w.fails := by
  unfold Warp.setP; split <;> rfl
@[simp] theorem Warp.setP_readyAt (w : Warp) (n : Nat) (m y : Mask) : (w.setP n m y).readyAt = w.readyAt := by
  unfold Warp.setP; split <;> rfl
@[simp] theorem Warp.setP_held (w : Warp) (n : Nat) (m y : Mask) : (w.setP n m y).held = w.held := by
  unfold Warp.setP; split <;> rfl
@[simp] theorem Warp.setP_joinCtr (w : Warp) (n : Nat) (m y : Mask) : (w.setP n m y).joinCtr = w.joinCtr := by
  unfold Warp.setP; split <;> rfl
@[simp] theorem Warp.setP_age (w : Warp) (n : Nat) (m y : Mask) : (w.setP n m y).age = w.age := by
  unfold Warp.setP; split <;> rfl
@[simp] theorem Warp.setP_takes (w : Warp) (n : Nat) (m y : Mask) : (w.setP n m y).takes = w.takes := by
  unfold Warp.setP; split <;> rfl
@[simp] theorem Warp.setP_ahead (w : Warp) (n : Nat) (m y : Mask) : (w.setP n m y).ahead = w.ahead := by
  unfold Warp.setP; split <;> rfl

/-! ### setK -/

@[simp] theorem Warp.setK_id (w : Warp) (n : Nat) (b : Bool) : (w.setK n b).id = w.id := by
  unfold Warp.setK; split <;> rfl
@[simp] theorem Warp.setK_grp (w : Warp) (n : Nat) (b : Bool) : (w.setK n b).grp = w.grp := by
  unfold Warp.setK; split <;> rfl
@[simp] theorem Warp.setK_widx (w : Warp) (n : Nat) (b : Bool) : (w.setK n b).widx = w.widx := by
  unfold Warp.setK; split <;> rfl
@[simp] theorem Warp.setK_vregs (w : Warp) (n : Nat) (b : Bool) : (w.setK n b).vregs = w.vregs := by
  unfold Warp.setK; split <;> rfl
@[simp] theorem Warp.setK_v (w : Warp) (n : Nat) (b : Bool) : (w.setK n b).v = w.v := by
  unfold Warp.setK; split <;> rfl
@[simp] theorem Warp.setK_q (w : Warp) (n : Nat) (b : Bool) : (w.setK n b).q = w.q := by
  unfold Warp.setK; split <;> rfl
@[simp] theorem Warp.setK_lr (w : Warp) (n : Nat) (b : Bool) : (w.setK n b).lr = w.lr := by
  unfold Warp.setK; split <;> rfl
@[simp] theorem Warp.setK_s (w : Warp) (n : Nat) (b : Bool) : (w.setK n b).s = w.s := by
  unfold Warp.setK; split <;> rfl
@[simp] theorem Warp.setK_p (w : Warp) (n : Nat) (b : Bool) : (w.setK n b).p = w.p := by
  unfold Warp.setK; split <;> rfl
@[simp] theorem Warp.setK_exec (w : Warp) (n : Nat) (b : Bool) : (w.setK n b).exec = w.exec := by
  unfold Warp.setK; split <;> rfl
@[simp] theorem Warp.setK_fflags (w : Warp) (n : Nat) (b : Bool) : (w.setK n b).fflags = w.fflags := by
  unfold Warp.setK; split <;> rfl
@[simp] theorem Warp.setK_splits (w : Warp) (n : Nat) (b : Bool) : (w.setK n b).splits = w.splits := by
  unfold Warp.setK; split <;> rfl
@[simp] theorem Warp.setK_ibufs (w : Warp) (n : Nat) (b : Bool) : (w.setK n b).ibufs = w.ibufs := by
  unfold Warp.setK; split <;> rfl
@[simp] theorem Warp.setK_fetching (w : Warp) (n : Nat) (b : Bool) : (w.setK n b).fetching = w.fetching := by
  unfold Warp.setK; split <;> rfl
@[simp] theorem Warp.setK_gld (w : Warp) (n : Nat) (b : Bool) : (w.setK n b).gld = w.gld := by
  unfold Warp.setK; split <;> rfl
@[simp] theorem Warp.setK_gst (w : Warp) (n : Nat) (b : Bool) : (w.setK n b).gst = w.gst := by
  unfold Warp.setK; split <;> rfl
@[simp] theorem Warp.setK_spm (w : Warp) (n : Nat) (b : Bool) : (w.setK n b).spm = w.spm := by
  unfold Warp.setK; split <;> rfl
@[simp] theorem Warp.setK_privbase (w : Warp) (n : Nat) (b : Bool) : (w.setK n b).privbase = w.privbase := by
  unfold Warp.setK; split <;> rfl
@[simp] theorem Warp.setK_wdlimit (w : Warp) (n : Nat) (b : Bool) : (w.setK n b).wdlimit = w.wdlimit := by
  unfold Warp.setK; split <;> rfl
@[simp] theorem Warp.setK_waitFrom (w : Warp) (n : Nat) (b : Bool) : (w.setK n b).waitFrom = w.waitFrom := by
  unfold Warp.setK; split <;> rfl
@[simp] theorem Warp.setK_progress (w : Warp) (n : Nat) (b : Bool) : (w.setK n b).progress = w.progress := by
  unfold Warp.setK; split <;> rfl
@[simp] theorem Warp.setK_fails (w : Warp) (n : Nat) (b : Bool) : (w.setK n b).fails = w.fails := by
  unfold Warp.setK; split <;> rfl
@[simp] theorem Warp.setK_readyAt (w : Warp) (n : Nat) (b : Bool) : (w.setK n b).readyAt = w.readyAt := by
  unfold Warp.setK; split <;> rfl
@[simp] theorem Warp.setK_held (w : Warp) (n : Nat) (b : Bool) : (w.setK n b).held = w.held := by
  unfold Warp.setK; split <;> rfl
@[simp] theorem Warp.setK_joinCtr (w : Warp) (n : Nat) (b : Bool) : (w.setK n b).joinCtr = w.joinCtr := by
  unfold Warp.setK; split <;> rfl
@[simp] theorem Warp.setK_age (w : Warp) (n : Nat) (b : Bool) : (w.setK n b).age = w.age := by
  unfold Warp.setK; split <;> rfl
@[simp] theorem Warp.setK_takes (w : Warp) (n : Nat) (b : Bool) : (w.setK n b).takes = w.takes := by
  unfold Warp.setK; split <;> rfl
@[simp] theorem Warp.setK_ahead (w : Warp) (n : Nat) (b : Bool) : (w.setK n b).ahead = w.ahead := by
  unfold Warp.setK; split <;> rfl

/-! ### writeLr -/

@[simp] theorem Warp.writeLr_id (w : Warp) (m : Mask) (sh : Shape) (g : Nat → DWord) : (w.writeLr m sh g).id = w.id := rfl
@[simp] theorem Warp.writeLr_grp (w : Warp) (m : Mask) (sh : Shape) (g : Nat → DWord) : (w.writeLr m sh g).grp = w.grp := rfl
@[simp] theorem Warp.writeLr_widx (w : Warp) (m : Mask) (sh : Shape) (g : Nat → DWord) : (w.writeLr m sh g).widx = w.widx := rfl
@[simp] theorem Warp.writeLr_vregs (w : Warp) (m : Mask) (sh : Shape) (g : Nat → DWord) : (w.writeLr m sh g).vregs = w.vregs := rfl
@[simp] theorem Warp.writeLr_v (w : Warp) (m : Mask) (sh : Shape) (g : Nat → DWord) : (w.writeLr m sh g).v = w.v := rfl
@[simp] theorem Warp.writeLr_q (w : Warp) (m : Mask) (sh : Shape) (g : Nat → DWord) : (w.writeLr m sh g).q = w.q := rfl
@[simp] theorem Warp.writeLr_s (w : Warp) (m : Mask) (sh : Shape) (g : Nat → DWord) : (w.writeLr m sh g).s = w.s := rfl
@[simp] theorem Warp.writeLr_p (w : Warp) (m : Mask) (sh : Shape) (g : Nat → DWord) : (w.writeLr m sh g).p = w.p := rfl
@[simp] theorem Warp.writeLr_k (w : Warp) (m : Mask) (sh : Shape) (g : Nat → DWord) : (w.writeLr m sh g).k = w.k := rfl
@[simp] theorem Warp.writeLr_exec (w : Warp) (m : Mask) (sh : Shape) (g : Nat → DWord) : (w.writeLr m sh g).exec = w.exec := rfl
@[simp] theorem Warp.writeLr_fflags (w : Warp) (m : Mask) (sh : Shape) (g : Nat → DWord) : (w.writeLr m sh g).fflags = w.fflags := rfl
@[simp] theorem Warp.writeLr_splits (w : Warp) (m : Mask) (sh : Shape) (g : Nat → DWord) : (w.writeLr m sh g).splits = w.splits := rfl
@[simp] theorem Warp.writeLr_ibufs (w : Warp) (m : Mask) (sh : Shape) (g : Nat → DWord) : (w.writeLr m sh g).ibufs = w.ibufs := rfl
@[simp] theorem Warp.writeLr_fetching (w : Warp) (m : Mask) (sh : Shape) (g : Nat → DWord) : (w.writeLr m sh g).fetching = w.fetching := rfl
@[simp] theorem Warp.writeLr_gld (w : Warp) (m : Mask) (sh : Shape) (g : Nat → DWord) : (w.writeLr m sh g).gld = w.gld := rfl
@[simp] theorem Warp.writeLr_gst (w : Warp) (m : Mask) (sh : Shape) (g : Nat → DWord) : (w.writeLr m sh g).gst = w.gst := rfl
@[simp] theorem Warp.writeLr_spm (w : Warp) (m : Mask) (sh : Shape) (g : Nat → DWord) : (w.writeLr m sh g).spm = w.spm := rfl
@[simp] theorem Warp.writeLr_privbase (w : Warp) (m : Mask) (sh : Shape) (g : Nat → DWord) : (w.writeLr m sh g).privbase = w.privbase := rfl
@[simp] theorem Warp.writeLr_wdlimit (w : Warp) (m : Mask) (sh : Shape) (g : Nat → DWord) : (w.writeLr m sh g).wdlimit = w.wdlimit := rfl
@[simp] theorem Warp.writeLr_waitFrom (w : Warp) (m : Mask) (sh : Shape) (g : Nat → DWord) : (w.writeLr m sh g).waitFrom = w.waitFrom := rfl
@[simp] theorem Warp.writeLr_progress (w : Warp) (m : Mask) (sh : Shape) (g : Nat → DWord) : (w.writeLr m sh g).progress = w.progress := rfl
@[simp] theorem Warp.writeLr_fails (w : Warp) (m : Mask) (sh : Shape) (g : Nat → DWord) : (w.writeLr m sh g).fails = w.fails := rfl
@[simp] theorem Warp.writeLr_readyAt (w : Warp) (m : Mask) (sh : Shape) (g : Nat → DWord) : (w.writeLr m sh g).readyAt = w.readyAt := rfl
@[simp] theorem Warp.writeLr_held (w : Warp) (m : Mask) (sh : Shape) (g : Nat → DWord) : (w.writeLr m sh g).held = w.held := rfl
@[simp] theorem Warp.writeLr_joinCtr (w : Warp) (m : Mask) (sh : Shape) (g : Nat → DWord) : (w.writeLr m sh g).joinCtr = w.joinCtr := rfl
@[simp] theorem Warp.writeLr_age (w : Warp) (m : Mask) (sh : Shape) (g : Nat → DWord) : (w.writeLr m sh g).age = w.age := rfl
@[simp] theorem Warp.writeLr_takes (w : Warp) (m : Mask) (sh : Shape) (g : Nat → DWord) : (w.writeLr m sh g).takes = w.takes := rfl
@[simp] theorem Warp.writeLr_ahead (w : Warp) (m : Mask) (sh : Shape) (g : Nat → DWord) : (w.writeLr m sh g).ahead = w.ahead := rfl

end Sys2Proof.Machine
end

