-- ==== Sys2Proof/Laws/Warp.lean ====
section
/-!
SUPPORT. Reading a register after a write of it or of another one, masks and their threads, and what issuing and retiring do to the
warp in the issuing slot.
-/
namespace Sys2Proof.Machine

/-! ### Masks -/

theorem mem_threadsOf {m : Mask} {u : Nat} : u ∈ threadsOf m ↔ m.getLsbD u = true := by
  simp only [threadsOf, List.mem_filter, List.mem_range, and_iff_right_iff_imp]
  intro h
  exact BitVec.lt_of_getLsbD h

theorem sum_pows_lt (f : Nat → Bool) (n : Nat) :
    ((List.range n).filter f).foldl (fun a t => a + 2 ^ t) 0 < 2 ^ n := by
  induction n with
  | zero => simp
  | succ n ih =>
    rw [List.range_succ, List.filter_append, List.foldl_append]
    cases h : f n <;> simp [h] <;> omega

theorem sum_pows_testBit (f : Nat → Bool) (n i : Nat) :
    (((List.range n).filter f).foldl (fun a t => a + 2 ^ t) 0).testBit i = (decide (i < n) && f i) := by
  induction n with
  | zero => simp
  | succ n ih =>
    rw [List.range_succ, List.filter_append, List.foldl_append]
    have hlt := sum_pows_lt f n
    generalize hs : ((List.range n).filter f).foldl (fun a t => a + 2 ^ t) 0 = S at *
    rcases Nat.lt_trichotomy i n with hi | hi | hi
    · cases h : f n
      · simpa [h, hi, Nat.lt_succ_of_lt hi] using ih
      · simp [h, Nat.add_comm S, Nat.testBit_two_pow_add_gt hi, ih, hi, Nat.le_of_lt hi]
    · subst hi
      cases h : f i
      · simpa [h] using ih
      · simp [h, Nat.add_comm S, Nat.testBit_two_pow_add_eq, ih]
    · have : (((List.range (n + 1)).filter f).foldl (fun a t => a + 2 ^ t) 0) < 2 ^ (n + 1) := sum_pows_lt f (n + 1)
      rw [List.range_succ, List.filter_append, List.foldl_append, hs] at this
      rw [Nat.testBit_lt_two_pow (Nat.lt_of_lt_of_le this (Nat.pow_le_pow_right (by omega) hi))]
      simp; omega

theorem getLsbD_maskOf (f : Nat → Bool) (u : Nat) : (maskOf f).getLsbD u = (decide (u < 32) && f u) := by
  rw [maskOf, BitVec.getLsbD_ofNat, sum_pows_testBit]
  cases decide (u < 32) <;> rfl

/-! ### Registers -/

theorem VReg.write_get (r : VReg) (m : Mask) (sh : Shape) (f : Nat → Word) {t : Nat} (h : t < 32) :
    (r.write m sh f).get t = if m.getLsbD t then f t else r.get t := by
  simp [VReg.write, VReg.get, List.getD_eq_getElem?_getD, h]

theorem Warp.getV_setV (w : Warp) {n : Nat} (r : VReg) (h : n < w.v.length) (k : Nat) :
    (w.setV n r).getV k = if k = n then r else w.getV k := by
  unfold Warp.getV Warp.setV
  by_cases hk : k = n
  · subst hk; simp [List.getD_eq_getElem?_getD, h]
  · simp [List.getD_eq_getElem?_getD, hk, List.getElem?_set_ne (Ne.symm hk)]

theorem Warp.getQ_setQ (w : Warp) {n : Nat} (r : VReg) (h : n < w.q.length) (k : Nat) :
    (w.setQ n r).getQ k = if k = n then r else w.getQ k := by
  unfold Warp.getQ Warp.setQ
  by_cases hk : k = n
  · subst hk; simp [List.getD_eq_getElem?_getD, h]
  · simp [List.getD_eq_getElem?_getD, hk, List.getElem?_set_ne (Ne.symm hk)]

theorem Warp.getS_setS (w : Warp) {n : Nat} (y : Word) (h : n < w.s.length) (k : Nat) :
    (w.setS n y).getS k = if k = n then y else w.getS k := by
  unfold Warp.getS Warp.setS
  by_cases hk : k = n
  · subst hk; simp [List.getD_eq_getElem?_getD, h]
  · simp [List.getD_eq_getElem?_getD, hk, List.getElem?_set_ne (Ne.symm hk)]

theorem Warp.getP_setP (w : Warp) {n : Nat} (m y : Mask) (hn : n < 7) (h : w.p.length = 7) (k : Nat) :
    (w.setP n m y).getP k = if k = n then (w.getP n &&& ~~~m) ||| (y &&& m) else w.getP k := by
  have h7 : (n == 7) = false := by simp; omega
  simp only [Warp.setP, h7]
  by_cases hk : k = n
  · subst hk; simp [Warp.getP, h7, List.getD_eq_getElem?_getD, h, hn]
  · by_cases hk7 : k = 7 <;> simp [Warp.getP, hk7, List.getD_eq_getElem?_getD, hk, List.getElem?_set_ne (Ne.symm hk)]
    intro h; omega

/-- A thread of the mask takes its new bit, any other keeps its old one. -/
theorem getLsbD_merge (a m y : Mask) (u : Nat) :
    ((a &&& ~~~m) ||| (y &&& m)).getLsbD u = if m.getLsbD u then y.getLsbD u else a.getLsbD u := by
  simp only [BitVec.getLsbD_or, BitVec.getLsbD_and, BitVec.getLsbD_not]
  by_cases hu : u < 32
  · cases m.getLsbD u <;> simp [hu]
  · simp [BitVec.getLsbD_of_ge _ u (Nat.le_of_not_lt hu)]

/-! ### The warp in a slot -/

theorem find_map_set {l : List Warp} {id : WarpId} {w u : Warp} (h : l.find? (fun x => x.id == id) = some w) (hu : u.id = id) :
    (l.map fun x => if x.id == id then u else x).find? (fun x => x.id == id) = some u := by
  induction l with
  | nil => simp at h
  | cons a l ih =>
    rw [List.map_cons]
    by_cases ha : a.id = id
    · rw [List.find?_cons_of_pos] <;> simp [ha, hu]
    · rw [List.find?_cons_of_neg (by simpa using ha)] at h
      rw [List.find?_cons_of_neg (by simp [ha])]
      exact ih h

theorem find_map_other {l : List Warp} {id k : WarpId} {f : Warp → Warp} (hf : ∀ x, (f x).id = id) (hk : k ≠ id) :
    (l.map fun x => if x.id == id then f x else x).find? (fun x => x.id == k) = l.find? (fun x => x.id == k) := by
  induction l with
  | nil => rfl
  | cons a l ih =>
    rw [List.map_cons]
    by_cases ha : a.id = id
    · rw [List.find?_cons_of_neg (by simpa [ha, hf] using Ne.symm hk), List.find?_cons_of_neg (by simpa [ha] using Ne.symm hk)]
      exact ih
    · simp only [beq_iff_eq, ha, if_false]
      by_cases hb : a.id = k
      · rw [List.find?_cons_of_pos (by simpa using hb), List.find?_cons_of_pos (by simpa using hb)]
      · rw [List.find?_cons_of_neg (by simpa using hb), List.find?_cons_of_neg (by simpa using hb)]
        simpa using ih

theorem State.warp?_id {s : State} {id : WarpId} {w : Warp} (h : s.warp? id = some w) : w.id = id := by
  have := List.find?_some h; simpa using this

theorem State.setWarp_self {s : State} {id : WarpId} {w u : Warp} (h : s.warp? id = some w) (hu : u.id = id) :
    (s.setWarp u).warp? id = some u := by
  unfold State.setWarp State.modWarp State.warp?; rw [hu]; exact find_map_set h hu

theorem State.setWarp_other (s : State) (u : Warp) {k : WarpId} (hk : k ≠ u.id) : (s.setWarp u).warp? k = s.warp? k := by
  unfold State.setWarp State.modWarp State.warp?; exact find_map_other (fun _ => rfl) hk

theorem State.retire_self {s : State} {id : WarpId} {w u : Warp} (len cost : Nat) (h : s.warp? id = some w) (hu : u.id = id) :
    (s.retire u len cost).warp? id =
      some { (u.modRunning fun p => p.advance len) with readyAt := s.clk + cost, age := s.clk + cost, waitFrom := none } :=
  State.setWarp_self h hu

theorem State.retire_other (s : State) (u : Warp) (len cost : Nat) {k : WarpId} (hk : k ≠ u.id) :
    (s.retire u len cost).warp? k = s.warp? k := State.setWarp_other s _ hk

end Sys2Proof.Machine
end

