-- ==== Sys2Proof/Laws/Alu.lean ====
section
/-!
SUPPORT. What issuing an ALU instruction does, once for every ALU and SFU instruction: that it completes, what its destination then
holds, and what it leaves alone.
-/
namespace Sys2Proof.Machine

theorem Bad.fine_of {b : Bad} (h1 : b ≠ .selector) (h2 : b ≠ .literal) (h3 : b ≠ .dest) (h4 : b ≠ .vregs) : b = .fine := by
  cases b <;> simp_all

/-- What the checks of a legal encoding have found: its fields break nothing, and its row is listed. -/
theorem longReason_none {lim : Limits} {opc : BitVec 8} {x : LongOp} (h : longReason lim opc x = none) :
    (fieldBad (rowOf opc x.fn x.fn2).d x.lit.isSome lim.vregs lim.tiles x.d = .fine ∧
    fieldBad (rowOf opc x.fn x.fn2).a x.lit.isSome lim.vregs lim.tiles x.a = .fine ∧
    fieldBad (rowOf opc x.fn x.fn2).b x.lit.isSome lim.vregs lim.tiles x.b = .fine ∧
    fieldBad (rowOf opc x.fn x.fn2).c x.lit.isSome lim.vregs lim.tiles x.c = .fine) ∧
    (rowOf opc x.fn x.fn2).ok = true ∧
    (x.w = true → (rowOf opc x.fn x.fn2).sOk = true) ∧
    (warpOnceGuard opc x = true → x.g = ⟨false, 7⟩) := by
  unfold longReason at h
  by_cases h0 : opcAssigned opc.toNat
  case neg => simp [h0] at h
  simp only [h0, Bool.not_true, Bool.false_eq_true, if_false] at h
  have go {c : Bool} {r : Nat} {e : Option Nat} (h : (if c = true then some r else e) = none) : c = false ∧ e = none := by
    cases c <;> simp_all
  obtain ⟨-, h⟩ := go h
  obtain ⟨-, h⟩ := go h
  obtain ⟨h1, h⟩ := go h
  obtain ⟨h2, h⟩ := go h
  obtain ⟨h3, h⟩ := go h
  obtain ⟨h4, h⟩ := go h
  obtain ⟨h5, h⟩ := go h
  obtain ⟨h6, -⟩ := go h
  simp only [List.contains_cons, List.contains_nil, Bool.or_false, Bool.or_eq_false_iff, beq_eq_false_iff_ne, ne_eq] at h2 h3 h4 h5
  refine ⟨⟨Bad.fine_of ?_ ?_ ?_ ?_, Bad.fine_of ?_ ?_ ?_ ?_, Bad.fine_of ?_ ?_ ?_ ?_, Bad.fine_of ?_ ?_ ?_ ?_⟩, by simpa using h1, ?_, ?_⟩
  all_goals first
    | exact fun e => h2.1 e.symm
    | exact fun e => h2.2.1 e.symm
    | exact fun e => h2.2.2.1 e.symm
    | exact fun e => h2.2.2.2 e.symm
    | exact fun e => h3.1.1 e.symm
    | exact fun e => h3.1.2.1 e.symm
    | exact fun e => h3.1.2.2.1 e.symm
    | exact fun e => h3.1.2.2.2 e.symm
    | exact fun e => h4.1 e.symm
    | exact fun e => h4.2.1 e.symm
    | exact fun e => h4.2.2.1 e.symm
    | exact fun e => h4.2.2.2 e.symm
    | exact fun e => h5.1 e.symm
    | exact fun e => h5.2.1 e.symm
    | exact fun e => h5.2.2.1 e.symm
    | exact fun e => h5.2.2.2 e.symm
    | (intro hw; rw [hw] at h6; simpa using (Bool.or_eq_false_iff.mp h6).1)
    | (intro hw; rw [hw] at h6; simpa using (Bool.or_eq_false_iff.mp h6).2)

/-- A destination that a warp can write at a width. -/
def DstOk (w : Warp) (d : Sel) (wide : Bool) : Prop :=
  match d with
  | .v n => n.val + (if wide then 2 else 1) ≤ w.vregs
  | .q _ | .lr => wide = false
  | .zr => True
  | .s n => wide = true → n.val + 1 < 64
  | _ => False

theorem dstOk_of_fine {w : Warp} {d : Sel} {wide l : Bool} {nt : Nat} (h : fieldBad (fD wide) l w.vregs nt d = .fine) :
    DstOk w d wide := by
  have even {n : Nat} {b : Bad} (h : evenBad n b = .fine) : n % 2 = 0 ∧ b = .fine := by
    unfold evenBad at h; split at h <;> simp_all
  have room {n k : Nat} (h : vBad w.vregs n k = .fine) : n + k ≤ w.vregs := by
    unfold vBad at h; split at h <;> simp_all
  cases wide
  · cases d with
    | v n => exact room (k := 1) h
    | q n | lr => rfl
    | zr => trivial
    | s n => intro h1; cases h1
    | lit => cases l <;> exact Bad.noConfusion h
    | _ => exact Bad.noConfusion h
  · cases d with
    | v n => exact room (k := 2) (even h).2
    | zr => trivial
    | s n => intro; have := (even (b := .fine) h).1; have := n.isLt; omega
    | lit => cases l <;> exact Bad.noConfusion h
    | _ => exact Bad.noConfusion h

/-! ### What a destination holds after a write -/

theorem ofWords_lo_hi (z : DWord) : DWord.ofWords z.lo z.hi = z := by
  unfold DWord.ofWords DWord.lo DWord.hi
  apply BitVec.eq_of_getLsbD_eq
  intro i hi
  simp only [BitVec.getLsbD_or, BitVec.getLsbD_shiftLeft, BitVec.getLsbD_setWidth, BitVec.getLsbD_ushiftRight]
  by_cases h : i < 32
  · simp [h, hi]
  · have h1 : 32 + (i - 32) = i := by omega
    have h2 : i - 32 < 32 := by omega
    simp [h, hi, h1, h2]
    omega

theorem Warp.writeLr_get (w : Warp) (m : Mask) (sh : Shape) (f : Nat → DWord) {t : Nat} (h : m.getLsbD t = true) :
    (w.writeLr m sh f).lr.get t = (f t).lo := by
  unfold Warp.writeLr Warp.setLr
  simp [VReg.write_get _ _ _ _ (BitVec.lt_of_getLsbD h), h]

theorem Warp.dst_writeLr (w : Warp) (m : Mask) (sh : Shape) (f : Nat → DWord) (d : Sel) (wide : Bool) (t : Nat) (h : d ≠ .lr) :
    (w.writeLr m sh f).dst d wide t = w.dst d wide t := by
  cases wide <;> cases d <;> first | rfl | exact absurd rfl h

theorem Warp.writeDst_v (w : Warp) (n : Fin 192) (wide : Bool) (m : Mask) (sh : Shape) (f : Nat → DWord) :
    w.writeDst (.v n) wide m sh f = (w.writeReg (.v n) wide m sh f).writeLr m sh f := rfl
theorem Warp.writeDst_q (w : Warp) (n : Fin 8) (wide : Bool) (m : Mask) (sh : Shape) (f : Nat → DWord) :
    w.writeDst (.q n) wide m sh f = (w.setQ n.val ((w.getQ n.val).write m sh fun t => (f t).lo)).writeLr m sh f := rfl
theorem Warp.writeDst_lr (w : Warp) (wide : Bool) (m : Mask) (sh : Shape) (f : Nat → DWord) :
    w.writeDst .lr wide m sh f = (w.setLr (w.lr.write m sh fun t => (f t).lo)).writeLr m sh f := rfl
theorem Warp.writeDst_zr (w : Warp) (wide : Bool) (m : Mask) (sh : Shape) (f : Nat → DWord) :
    w.writeDst .zr wide m sh f = w.writeLr m sh f := rfl
theorem Warp.writeDst_s (w : Warp) (n : Fin 64) (wide : Bool) (m : Mask) (sh : Shape) (f : Nat → DWord) :
    w.writeDst (.s n) wide m sh f = if wide then w.setSd n.val (f 0) else w.setS n.val (f 0).lo := rfl
theorem Warp.writeReg_v (w : Warp) (n : Fin 192) (m : Mask) (sh : Shape) (f : Nat → DWord) :
    w.writeReg (.v n) false m sh f = w.setV n.val ((w.getV n.val).write m sh fun t => (f t).lo) := rfl
theorem Warp.writeReg_vv (w : Warp) (n : Fin 192) (m : Mask) (sh : Shape) (f : Nat → DWord) :
    w.writeReg (.v n) true m sh f =
      (w.setV n.val ((w.getV n.val).write m sh fun t => (f t).lo)).setV (n.val + 1)
        (((w.setV n.val ((w.getV n.val).write m sh fun t => (f t).lo)).getV (n.val + 1)).write m sh fun t => (f t).hi) := rfl
theorem Warp.dst_v (w : Warp) (n : Fin 192) (t : Nat) : w.dst (.v n) false t = Word.toD ((w.getV n.val).get t) := rfl
theorem Warp.dst_vv (w : Warp) (n : Fin 192) (t : Nat) :
    w.dst (.v n) true t = DWord.ofWords ((w.getV n.val).get t) ((w.getV (n.val + 1)).get t) := rfl
theorem Warp.dst_q (w : Warp) (n : Fin 8) (t : Nat) : w.dst (.q n) false t = Word.toD ((w.getQ n.val).get t) := rfl
theorem Warp.dst_lr (w : Warp) (t : Nat) : w.dst .lr false t = Word.toD (w.lr.get t) := rfl
theorem Warp.dst_s (w : Warp) (n : Fin 64) (t : Nat) : w.dst (.s n) false t = Word.toD (w.getS n.val) := rfl
theorem Warp.dst_ss (w : Warp) (n : Fin 64) (t : Nat) : w.dst (.s n) true t = DWord.ofWords (w.getS n.val) (w.getS (n.val + 1)) := rfl

/-- A destination holds what was written to it, and lr what R144 has written there. -/
theorem Warp.writeDst_holds {w : Warp} {d : Sel} {wide : Bool} {m : Mask} {sh : Shape} {f : Nat → DWord} (hd : DstOk w d wide)
    (hr : w.regsOk = true) :
    (selIsS d = true → (w.writeDst d wide m sh f).dst d wide 0 = fitted wide (f 0) ∧ (w.writeDst d wide m sh f).lr = w.lr) ∧
    (selIsS d = false → ∀ t, m.getLsbD t = true →
      (w.writeDst d wide m sh f).lr.get t = (f t).lo ∧
        (d = .zr ∨ (w.writeDst d wide m sh f).dst d wide t = fitted wide (f t))) := by
  simp only [Warp.regsOk, Bool.and_eq_true, decide_eq_true_eq, beq_iff_eq] at hr
  obtain ⟨⟨⟨hv, hq⟩, hs⟩, -⟩ := hr
  cases d with
  | v n =>
    refine ⟨fun h => (by cases h), fun _ t ht => ⟨Warp.writeLr_get _ _ _ _ ht, .inr ?_⟩⟩
    have ht32 := BitVec.lt_of_getLsbD ht
    rw [Warp.writeDst_v, Warp.dst_writeLr _ _ _ _ _ _ _ (by intro h; cases h)]
    cases wide
    · have h1 : n.val + 1 ≤ w.vregs := hd
      have h1 : n.val < w.v.length := by omega
      rw [Warp.writeReg_v, Warp.dst_v, Warp.getV_setV _ _ h1, if_pos rfl, VReg.write_get _ _ _ _ ht32, if_pos ht]
      rfl
    · have h1 : n.val + 2 ≤ w.vregs := hd
      have h2 : n.val < w.v.length := by omega
      have h3 : n.val + 1 < (w.setV n.val ((w.getV n.val).write m sh fun t => (f t).lo)).v.length := by
        rw [Warp.setV, List.length_set]; omega
      rw [Warp.writeReg_vv, Warp.dst_vv, Warp.getV_setV _ _ h3, if_neg (by omega), Warp.getV_setV _ _ h3, if_pos rfl,
        Warp.getV_setV _ _ h2, if_pos rfl, VReg.write_get _ _ _ _ ht32, VReg.write_get _ _ _ _ ht32, if_pos ht, if_pos ht,
        ofWords_lo_hi]
      rfl
  | q n =>
    refine ⟨fun h => (by cases h), fun _ t ht => ⟨Warp.writeLr_get _ _ _ _ ht, .inr ?_⟩⟩
    have ht32 := BitVec.lt_of_getLsbD ht
    have hw : wide = false := hd
    have h1 : n.val < w.q.length := by have := n.isLt; omega
    subst hw
    rw [Warp.writeDst_q, Warp.dst_writeLr _ _ _ _ _ _ _ (by intro h; cases h), Warp.dst_q, Warp.getQ_setQ _ _ h1, if_pos rfl,
      VReg.write_get _ _ _ _ ht32, if_pos ht]
    rfl
  | lr =>
    refine ⟨fun h => (by cases h), fun _ t ht => ⟨Warp.writeLr_get _ _ _ _ ht, .inr ?_⟩⟩
    have hw : wide = false := hd
    subst hw
    rw [Warp.dst_lr, Warp.writeDst_lr, Warp.writeLr_get _ _ _ _ ht]
    rfl
  | zr => exact ⟨fun h => (by cases h), fun _ t ht => ⟨Warp.writeLr_get _ _ _ _ ht, .inl rfl⟩⟩
  | s n =>
    refine ⟨fun _ => ⟨?_, ?_⟩, fun h => (by cases h)⟩
    · have h2 : n.val < w.s.length := by have := n.isLt; omega
      cases wide
      · rw [Warp.writeDst_s, if_neg (by decide), Warp.dst_s, Warp.getS_setS _ _ h2, if_pos rfl]
        rfl
      · have h1 : n.val + 1 < 64 := hd rfl
        have h3 : n.val + 1 < (w.setS n.val (f 0).lo).s.length := by rw [Warp.setS, List.length_set]; omega
        rw [Warp.writeDst_s, if_pos rfl, Warp.dst_ss, Warp.setSd, Warp.getS_setS _ _ h3, if_neg (by omega), Warp.getS_setS _ _ h3,
          if_pos rfl, Warp.getS_setS _ _ h2, if_pos rfl, ofWords_lo_hi]
        rfl
    · cases wide <;> rfl
  | _ => exact hd.elim

@[simp] theorem Warp.writeDst_id (w : Warp) (d : Sel) (wide : Bool) (m : Mask) (sh : Shape) (g : Nat → DWord) :
    (w.writeDst d wide m sh g).id = w.id := by cases d <;> cases wide <;> rfl
@[simp] theorem Warp.writeDst_grp (w : Warp) (d : Sel) (wide : Bool) (m : Mask) (sh : Shape) (g : Nat → DWord) :
    (w.writeDst d wide m sh g).grp = w.grp := by cases d <;> cases wide <;> rfl
@[simp] theorem Warp.writeDst_widx (w : Warp) (d : Sel) (wide : Bool) (m : Mask) (sh : Shape) (g : Nat → DWord) :
    (w.writeDst d wide m sh g).widx = w.widx := by cases d <;> cases wide <;> rfl
@[simp] theorem Warp.writeDst_vregs (w : Warp) (d : Sel) (wide : Bool) (m : Mask) (sh : Shape) (g : Nat → DWord) :
    (w.writeDst d wide m sh g).vregs = w.vregs := by cases d <;> cases wide <;> rfl
@[simp] theorem Warp.writeDst_p (w : Warp) (d : Sel) (wide : Bool) (m : Mask) (sh : Shape) (g : Nat → DWord) :
    (w.writeDst d wide m sh g).p = w.p := by cases d <;> cases wide <;> rfl
@[simp] theorem Warp.writeDst_k (w : Warp) (d : Sel) (wide : Bool) (m : Mask) (sh : Shape) (g : Nat → DWord) :
    (w.writeDst d wide m sh g).k = w.k := by cases d <;> cases wide <;> rfl
@[simp] theorem Warp.writeDst_exec (w : Warp) (d : Sel) (wide : Bool) (m : Mask) (sh : Shape) (g : Nat → DWord) :
    (w.writeDst d wide m sh g).exec = w.exec := by cases d <;> cases wide <;> rfl
@[simp] theorem Warp.writeDst_fflags (w : Warp) (d : Sel) (wide : Bool) (m : Mask) (sh : Shape) (g : Nat → DWord) :
    (w.writeDst d wide m sh g).fflags = w.fflags := by cases d <;> cases wide <;> rfl
@[simp] theorem Warp.writeDst_splits (w : Warp) (d : Sel) (wide : Bool) (m : Mask) (sh : Shape) (g : Nat → DWord) :
    (w.writeDst d wide m sh g).splits = w.splits := by cases d <;> cases wide <;> rfl
@[simp] theorem Warp.writeDst_ibufs (w : Warp) (d : Sel) (wide : Bool) (m : Mask) (sh : Shape) (g : Nat → DWord) :
    (w.writeDst d wide m sh g).ibufs = w.ibufs := by cases d <;> cases wide <;> rfl
@[simp] theorem Warp.writeDst_fetching (w : Warp) (d : Sel) (wide : Bool) (m : Mask) (sh : Shape) (g : Nat → DWord) :
    (w.writeDst d wide m sh g).fetching = w.fetching := by cases d <;> cases wide <;> rfl
@[simp] theorem Warp.writeDst_gld (w : Warp) (d : Sel) (wide : Bool) (m : Mask) (sh : Shape) (g : Nat → DWord) :
    (w.writeDst d wide m sh g).gld = w.gld := by cases d <;> cases wide <;> rfl
@[simp] theorem Warp.writeDst_gst (w : Warp) (d : Sel) (wide : Bool) (m : Mask) (sh : Shape) (g : Nat → DWord) :
    (w.writeDst d wide m sh g).gst = w.gst := by cases d <;> cases wide <;> rfl
@[simp] theorem Warp.writeDst_spm (w : Warp) (d : Sel) (wide : Bool) (m : Mask) (sh : Shape) (g : Nat → DWord) :
    (w.writeDst d wide m sh g).spm = w.spm := by cases d <;> cases wide <;> rfl
@[simp] theorem Warp.writeDst_privbase (w : Warp) (d : Sel) (wide : Bool) (m : Mask) (sh : Shape) (g : Nat → DWord) :
    (w.writeDst d wide m sh g).privbase = w.privbase := by cases d <;> cases wide <;> rfl
@[simp] theorem Warp.writeDst_wdlimit (w : Warp) (d : Sel) (wide : Bool) (m : Mask) (sh : Shape) (g : Nat → DWord) :
    (w.writeDst d wide m sh g).wdlimit = w.wdlimit := by cases d <;> cases wide <;> rfl
@[simp] theorem Warp.writeDst_waitFrom (w : Warp) (d : Sel) (wide : Bool) (m : Mask) (sh : Shape) (g : Nat → DWord) :
    (w.writeDst d wide m sh g).waitFrom = w.waitFrom := by cases d <;> cases wide <;> rfl
@[simp] theorem Warp.writeDst_progress (w : Warp) (d : Sel) (wide : Bool) (m : Mask) (sh : Shape) (g : Nat → DWord) :
    (w.writeDst d wide m sh g).progress = w.progress := by cases d <;> cases wide <;> rfl
@[simp] theorem Warp.writeDst_fails (w : Warp) (d : Sel) (wide : Bool) (m : Mask) (sh : Shape) (g : Nat → DWord) :
    (w.writeDst d wide m sh g).fails = w.fails := by cases d <;> cases wide <;> rfl
@[simp] theorem Warp.writeDst_readyAt (w : Warp) (d : Sel) (wide : Bool) (m : Mask) (sh : Shape) (g : Nat → DWord) :
    (w.writeDst d wide m sh g).readyAt = w.readyAt := by cases d <;> cases wide <;> rfl
@[simp] theorem Warp.writeDst_held (w : Warp) (d : Sel) (wide : Bool) (m : Mask) (sh : Shape) (g : Nat → DWord) :
    (w.writeDst d wide m sh g).held = w.held := by cases d <;> cases wide <;> rfl
@[simp] theorem Warp.writeDst_joinCtr (w : Warp) (d : Sel) (wide : Bool) (m : Mask) (sh : Shape) (g : Nat → DWord) :
    (w.writeDst d wide m sh g).joinCtr = w.joinCtr := by cases d <;> cases wide <;> rfl

/-- The warp that an ALU instruction leaves keeps its place. -/
theorem Alu.write_id (op : Alu) (w : Warp) (x : LongOp) (m : Mask) (sh : Shape) : (op.write w x m sh).id = w.id := by
  unfold Alu.write; dsimp only; split <;> simp

theorem Alu.after_id (op : Alu) (w : Warp) (x : LongOp) : (op.after w x).id = w.id := by
  unfold Alu.after; dsimp only; split
  · rfl
  · exact Alu.write_id ..

/-- ALU instruction that is met: it completes with its results written and its cycles passed. -/
theorem issueAlu_next {s : State} {w : Warp} {opc : BitVec 8} {x : LongOp} {op : Alu} (len : Nat) (h : s.issues w opc x)
    (hf : op.fits w x = true) : s.issueAlu len opc x op = .next (s.retire (op.after w x) len (op.cycles w x)) := by
  obtain ⟨⟨h1, h2⟩, h3⟩ := h
  have : w.running.isNone = false := by cases hh : w.running <;> simp_all
  simp only [State.issueAlu, State.issue, h1, h3, this, Bool.false_eq_true, if_false, Alu.issue]
  by_cases ho : op.once x
  · simp only [Alu.fits, ho, Bool.not_true, Bool.false_or, Bool.and_eq_true, Bool.not_eq_true', Bool.or_eq_true] at hf
    have : ((op.shape w x).isGeneral || selIsS x.d && !op.pdst && !(op.shape w x).isU) = false := by
      rcases hf with ⟨a, b⟩; simp [a]; intro c d; rcases b with (b | b) | b <;> simp_all
    simp [ho, this, Alu.after, Alu.threads, Alu.cycles]
  · simp only [ho, Alu.after, Alu.threads, Alu.cycles, Bool.false_or, if_false, Bool.false_eq_true]
    by_cases hg : (op.shape w x).isGeneral <;> by_cases hm : w.active x.g = 0 <;> simp [hg, hm]

/-- And one that is not met traps with class 5, SHAPE. -/
theorem issueAlu_trap {s : State} {w : Warp} {opc : BitVec 8} {x : LongOp} {op : Alu} (len : Nat) (h : s.issues w opc x)
    (hf : op.fits w x = false) : s.issueAlu len opc x op = .next (s.trap w causeShape) := by
  obtain ⟨⟨h1, h2⟩, h3⟩ := h
  have : w.running.isNone = false := by cases hh : w.running <;> simp_all
  simp only [State.issueAlu, State.issue, h1, h3, this, Bool.false_eq_true, if_false, Alu.issue]
  simp only [Alu.fits, Bool.or_eq_false_iff, Bool.not_eq_false', Bool.and_eq_false_iff] at hf
  obtain ⟨ho, hf⟩ := hf
  have : ((op.shape w x).isGeneral || selIsS x.d && !op.pdst && !(op.shape w x).isU) = true := by
    rcases hf with a | ⟨⟨a, b⟩, c⟩ <;> simp_all
  simp [ho, this]

/-- What its destination, lr and the flags then hold. -/
theorem retire_after_holds {s : State} {w : Warp} {x : LongOp} {op : Alu} (len cost : Nat) (h : s.warp? s.cur = some w)
    (hd : op.pdst = false) (hk : DstOk w x.d op.wide) (hr : w.regsOk = true) :
    ∃ w', (s.retire (op.after w x) len cost).warp? s.cur = some w' ∧
      w'.fflags = w.fflags ||| orFlags ((threadsOf (op.threads w x)).map fun u => (op.result w x u).2) ∧
      (selIsS x.d = true → op.once x = true → w'.dst x.d op.wide 0 = fitted op.wide (op.result w x 0).1 ∧ w'.lr = w.lr) ∧
      (selIsS x.d = false → ∀ u, (op.threads w x).getLsbD u = true →
        w'.lr.get u = (op.result w x u).1.lo ∧ (x.d = .zr ∨ w'.dst x.d op.wide u = fitted op.wide (op.result w x u).1)) := by
  refine ⟨_, State.retire_self _ _ h (by rw [Alu.after_id, State.warp?_id h]), ?_⟩
  unfold Alu.after
  dsimp only
  split
  case isTrue hm =>
    have hm : op.threads w x = 0 := by simpa using hm
    refine ⟨?_, ?_, ?_⟩
    · show w.fflags = _
      have : threadsOf (0 : Mask) = [] := by decide
      rw [hm, this]; simp [orFlags]
    · intro _ ho
      unfold Alu.threads at hm
      rw [ho] at hm
      exact absurd hm (show ¬(BitVec.allOnes 32 = 0) by decide)
    · intro _ u hu; rw [hm] at hu; simp at hu
  case isFalse hm =>
    have key := Warp.writeDst_holds (w := w.orFlags (op.flags w x (op.threads w x))) (d := x.d) (wide := op.wide) (m := op.threads w x)
      (sh := if op.threads w x == BitVec.allOnes 32 then op.shape w x else .general) (f := fun t => (op.result w x t).1) hk hr
    simp only [Alu.write, hd]
    refine ⟨?_, fun hs _ => key.1 hs, fun hs u hu => key.2 hs u hu⟩
    show (Warp.writeDst _ _ _ _ _ _).fflags = _
    rw [Warp.writeDst_fflags]
    rfl

/-- The destination field of a legal ALU instruction has the instruction's own width. -/
theorem alu_dst_field {i : Instr} {opc : BitVec 8} {x : LongOp} {op : Alu} {lim : Limits} (h1 : i.long? = some (opc, x))
    (h2 : aluOf i = some op) (h3 : longReason lim opc x = none) (h4 : op.pdst = false) :
    (rowOf opc x.fn x.fn2).d = fD op.wide := by
  have hok := (longReason_none h3).2.1
  cases i <;> (try (cases h2; done)) <;> cases h1
  case imad =>
    cases h2
    unfold aluImad
    cases h : fnBit2 x.fn
    · show fD (ty64 (tyOf x.fn) || fnBit2 x.fn) = _
      rw [h, Bool.or_false]; rfl
    · show fD (ty64 (tyOf x.fn) || fnBit2 x.fn) = _
      rw [h, Bool.or_true]; rfl
  case iset => cases h2; cases h4
  case plop => cases h2; cases h4
  case fset => cases h2; cases h4
  case btab =>
    cases h2
    show fD (x.fn2.toNat == 1) = fD (x.fn2 == 1)
    congr 1
    rw [Bool.eq_iff_iff, beq_iff_eq, beq_iff_eq, ← BitVec.toNat_inj]
    rfl
  case cvt =>
    cases h2
    revert hok
    show (rowFloat 0x30 x.fn x.fn2.toNat).ok = true → (rowFloat 0x30 x.fn x.fn2.toNat).d = fD (ty64 (tyOf x.fn))
    have go (g : Bool) (a b : Field) (h : g = true) : (if g = true then a else b) = a := if_pos h
    exact fun h => go _ _ _ h
  case cvtpk =>
    simp only [aluOf, Option.ite_none_right_eq_some] at h2
    obtain ⟨ht, h2⟩ := h2
    cases h2
    show (rowFloat 0x31 x.fn x.fn2.toNat).d = .d32
    unfold rowFloat
    dsimp only
    have : tyOf x.fn = 0 ∨ tyOf x.fn = 1 := by omega
    rcases this with h | h <;> (rw [h]; rfl)
  case cvtupk =>
    simp only [aluOf, Option.ite_none_right_eq_some] at h2
    obtain ⟨ht, h2⟩ := h2
    cases h2
    show (rowFloat 0x32 x.fn x.fn2.toNat).d = .d64
    unfold rowFloat
    dsimp only
    have : tyOf x.fn = 0 ∨ tyOf x.fn = 1 := by omega
    rcases this with h | h <;> (rw [h]; rfl)
  all_goals (cases h2; rfl)

/-- What the check of a long form has found in its warp: it names no unit that the warp lacks, and the encoding is legal (R180). -/
theorem State.longCheck_none {s : State} {w : Warp} {opc : BitVec 8} {x : LongOp} (h : s.longCheck w opc x = none) :
    w.namesLacking opc x = false ∧ longReason (s.limits w) opc x = none := by
  unfold State.longCheck at h
  split at h
  · cases h
  · rename_i hn; exact ⟨by simpa using hn, h⟩

/-- The destination of an ALU instruction that is met can be written. -/
theorem AluReady.dstOk {s : State} {w : Warp} {i : Instr} {x : LongOp} {op : Alu} (h : AluReady s w i x op) (hp : op.pdst = false) :
    DstOk w x.d op.wide := by
  obtain ⟨opc, h1, h2, ⟨-, h3⟩, -, -⟩ := h
  replace h3 := (State.longCheck_none h3).2
  have := (longReason_none h3).1.1
  rw [alu_dst_field h1 h2 h3 hp] at this
  exact dstOk_of_fine this

end Sys2Proof.Machine
end

