-- ==== Sys2Proof/Laws/Memory.lean ====
section
/-!
SUPPORT. Sparse memory: a byte read after a write, and every memory operation keeps the canonical form.
-/
namespace Sys2Proof.Machine

variable {d : Nat → Byte}

/-- A rising list whose addresses start above `k` lists nothing at `k`. -/
theorem memGet_below {m : Mem} {lo k : Nat} (h : memWfFrom d lo m = true) (hk : k < lo) : memGet d m k = d k := by
  cases m with
  | nil => rfl
  | cons c m =>
    obtain ⟨a, b⟩ := c
    simp only [memWfFrom, Bool.and_eq_true, decide_eq_true_eq] at h
    have h1 : (a == k) = false := by simp; omega
    have h2 : k < a := by omega
    simp [memGet, h1, h2]

/-- A lower bound on the addresses may be lowered. -/
theorem memWfFrom_mono {m : Mem} {lo lo' : Nat} (h : memWfFrom d lo m = true) (hl : lo' ≤ lo) : memWfFrom d lo' m = true := by
  cases m with
  | nil => rfl
  | cons c m =>
    simp only [memWfFrom, Bool.and_eq_true, decide_eq_true_eq] at h ⊢
    exact ⟨⟨by omega, h.1.2⟩, h.2⟩

/-- A write keeps the canonical form above any bound that its address meets. -/
theorem memWfFrom_memPut {m : Mem} {lo k : Nat} {b : Byte} (h : memWfFrom d lo m = true) (hk : lo ≤ k) :
    memWfFrom d lo (memPut d m k b) = true := by
  induction m generalizing lo with
  | nil => cases hb : b == d k <;> simp_all [memPut, memWfFrom, bne]
  | cons c m ih =>
    obtain ⟨a, x⟩ := c
    have h0 := h
    simp only [memWfFrom, Bool.and_eq_true, decide_eq_true_eq] at h
    obtain ⟨⟨ha, hx⟩, hm⟩ := h
    simp only [memPut]
    by_cases h1 : k < a
    · simp only [h1, if_true]
      cases hb : b == d k
      · have hm1 : memWfFrom d (k + 1) ((a, x) :: m) = true := by
          simp only [memWfFrom, Bool.and_eq_true, decide_eq_true_eq]
          exact ⟨⟨by omega, hx⟩, hm⟩
        simp only [Bool.false_eq_true, if_false]
        rw [memWfFrom, hm1]
        simp [hk, bne, hb]
      · simpa using h0
    · simp only [h1, if_false]
      by_cases h2 : a = k
      · subst h2
        cases hb : b == d a
        · simp [memWfFrom, hk, bne, hb, hm]
        · simpa using memWfFrom_mono hm (by omega)
      · have h2' : (a == k) = false := by simpa using h2
        simp only [h2', Bool.false_eq_true, if_false, memWfFrom, Bool.and_eq_true, decide_eq_true_eq]
        exact ⟨⟨ha, hx⟩, ih hm (by omega)⟩

/-- A write keeps the canonical form. -/
theorem wf_memPut {m : Mem} {k : Nat} {b : Byte} (h : m.wf d = true) : (memPut d m k b).wf d = true :=
  memWfFrom_memPut h (Nat.zero_le k)

/-- Several writes keep it. -/
theorem wf_memPuts {m : Mem} {k : Nat} {bs : List Byte} (h : m.wf d = true) : (memPuts d m k bs).wf d = true := by
  induction bs generalizing m k with
  | nil => exact h
  | cons b bs ih => exact ih (wf_memPut h)

/-- Dropping entries keeps the canonical form above a bound. -/
theorem memWfFrom_memDrop {m : Mem} {lo : Nat} {p : Nat → Bool} (h : memWfFrom d lo m = true) : memWfFrom d lo (memDrop p m) = true := by
  induction m generalizing lo with
  | nil => rfl
  | cons c m ih =>
    obtain ⟨a, x⟩ := c
    simp only [memWfFrom, Bool.and_eq_true, decide_eq_true_eq] at h
    obtain ⟨⟨ha, hx⟩, hm⟩ := h
    have hi := ih hm
    cases hp : p a
    · have hs : memDrop p ((a, x) :: m) = (a, x) :: memDrop p m := by simp [memDrop, hp]
      rw [hs]
      simp only [memWfFrom, Bool.and_eq_true, decide_eq_true_eq]
      exact ⟨⟨ha, hx⟩, hi⟩
    · have hs : memDrop p ((a, x) :: m) = memDrop p m := by simp [memDrop, hp]
      rw [hs]
      exact memWfFrom_mono hi (by omega)

/-- Dropping entries keeps the canonical form. -/
theorem wf_memDrop {m : Mem} {p : Nat → Bool} (h : m.wf d = true) : (memDrop p m).wf d = true := memWfFrom_memDrop h

/-- A byte read after a write, above any bound. -/
theorem memGet_memPut_from {m : Mem} {lo k : Nat} {b : Byte} (h : memWfFrom d lo m = true) (j : Nat) :
    memGet d (memPut d m k b) j = if j = k then b else memGet d m j := by
  induction m generalizing lo with
  | nil =>
    cases hb : b == d k
    · by_cases hj : j = k
      · simp [memPut, memGet, hb, hj]
      · have hj2 : (k == j) = false := by simp; omega
        simp [memPut, memGet, hb, hj, hj2]
    · by_cases hj : j = k <;> simp_all [memPut, memGet]
  | cons c m ih =>
    obtain ⟨a, x⟩ := c
    simp only [memWfFrom, Bool.and_eq_true, decide_eq_true_eq] at h
    obtain ⟨⟨ha, hx⟩, hm⟩ := h
    have hi := ih hm
    simp only [memPut]
    by_cases h1 : k < a
    · simp only [h1, if_true]
      have hak : (a == k) = false := by simp; omega
      cases hb : b == d k
      · by_cases hj : j = k
        · simp [memGet, hj]
        · have hkj : (k == j) = false := by simp; omega
          by_cases hjk : j < k
          · have haj : (a == j) = false := by simp; omega
            have hja : j < a := by omega
            simp [memGet, hkj, hjk, haj, hja, hj]
          · simp [memGet, hkj, hjk, hj]
      · by_cases hj : j = k
        · subst hj
          simp [memGet, hak, h1, (beq_iff_eq.mp hb).symm]
        · simp [hj]
    · simp only [h1, if_false]
      by_cases h2 : a = k
      · subst h2
        cases hb : b == d a
        · by_cases hj : j = a
          · simp [memGet, hj]
          · have hja : (a == j) = false := by simp; omega
            simp [memGet, hja, hj]
        · by_cases hj : j = a
          · subst hj
            have hl : j < j + 1 := by omega
            simp [memGet_below hm hl, (beq_iff_eq.mp hb).symm]
          · have hja : (a == j) = false := by simp; omega
            by_cases hlt : j < a
            · have hl : j < a + 1 := by omega
              simp [memGet, hja, hj, hlt, memGet_below hm hl]
            · simp [memGet, hja, hj, hlt]
      · have h2' : (a == k) = false := by simpa using h2
        simp only [h2', Bool.false_eq_true, if_false, memGet]
        by_cases haj : a = j
        · subst haj
          simp [h2]
        · have haj' : (a == j) = false := by simpa using haj
          simp only [haj', Bool.false_eq_true, if_false]
          by_cases hja : j < a
          · have hjk : j ≠ k := by omega
            simp [hja, hjk]
          · simp only [hja, if_false]
            exact hi

/-- A byte read after a write: the byte written at its address, the old one elsewhere. -/
theorem memGet_memPut {m : Mem} {k : Nat} {b : Byte} (h : m.wf d = true) (j : Nat) :
    memGet d (memPut d m k b) j = if j = k then b else memGet d m j := memGet_memPut_from h j

/-- Bytes written from an address upward read back; every other byte reads as before. -/
theorem memGet_memPuts {m : Mem} {k : Nat} {bs : List Byte} (h : m.wf d = true) (j : Nat) :
    memGet d (memPuts d m k bs) j = if k ≤ j ∧ j < k + bs.length then bs.getD (j - k) 0 else memGet d m j := by
  induction bs generalizing m k with
  | nil =>
    have hj : ¬(k ≤ j ∧ j < k) := by omega
    simp [memPuts, hj]
  | cons b bs ih =>
    rw [memPuts, ih (wf_memPut h), memGet_memPut h]
    by_cases h1 : j = k
    · subst h1
      have : ¬(j + 1 ≤ j ∧ j < j + 1 + bs.length) := by omega
      have h2 : j ≤ j ∧ j < j + (b :: bs).length := ⟨Nat.le_refl _, by simp⟩
      simp only [this, h2, if_false, if_true]
      simp
    · by_cases h2 : k + 1 ≤ j ∧ j < k + 1 + bs.length
      · have h3 : k ≤ j ∧ j < k + (b :: bs).length := by simp only [List.length_cons]; omega
        have h4 : j - k = (j - (k + 1)) + 1 := by omega
        simp only [h2, h3, if_true, h4, and_self]
        rfl
      · have h3 : ¬(k ≤ j ∧ j < k + (b :: bs).length) := by simp only [List.length_cons]; omega
        simp only [h2, h3, h1, if_false]

/-- A byte read after entries have been dropped, above any bound. -/
theorem memGet_memDrop_from {m : Mem} {lo : Nat} {p : Nat → Bool} (h : memWfFrom d lo m = true) (j : Nat) :
    memGet d (memDrop p m) j = if p j then d j else memGet d m j := by
  induction m generalizing lo with
  | nil => simp [memDrop, memGet]
  | cons c m ih =>
    obtain ⟨a, x⟩ := c
    simp only [memWfFrom, Bool.and_eq_true, decide_eq_true_eq] at h
    obtain ⟨⟨ha, hx⟩, hm⟩ := h
    have hi := ih hm
    cases hp : p a
    · have hs : memDrop p ((a, x) :: m) = (a, x) :: memDrop p m := by simp [memDrop, hp]
      rw [hs]
      by_cases haj : a = j
      · subst haj; simp [memGet, hp]
      · have haj' : (a == j) = false := by simpa using haj
        by_cases hja : j < a
        · simp [memGet, haj', hja]
        · simp [memGet, haj', hja, hi]
    · have hs : memDrop p ((a, x) :: m) = memDrop p m := by simp [memDrop, hp]
      rw [hs, hi]
      by_cases haj : a = j
      · subst haj; simp [hp]
      · have haj' : (a == j) = false := by simpa using haj
        by_cases hja : j < a
        · have hl : j < a + 1 := by omega
          simp [memGet, haj', hja, memGet_below hm hl]
        · simp [memGet, haj', hja]

/-- A byte read after entries have been dropped reads as unlisted; every other byte reads as before. -/
theorem memGet_memDrop {m : Mem} {p : Nat → Bool} (h : m.wf d = true) (j : Nat) :
    memGet d (memDrop p m) j = if p j then d j else memGet d m j := memGet_memDrop_from h j

/-- Writing DRAM bytes keeps the canonical form. -/
theorem State.dramPut_wf {s : State} (pa : Nat) (b : Byte) (h : s.mem.wf dramUnlisted = true) :
    (s.dramPut pa b).mem.wf dramUnlisted = true := wf_memPut h

/-- Zeroing DRAM keeps it. -/
theorem State.dramZero_wf {s : State} (p : Nat → Bool) (h : s.mem.wf dramUnlisted = true) :
    (s.dramZero p).mem.wf dramUnlisted = true :=
  wf_memDrop (p := fun k => p (k % 2 ^ 48)) h

/-- A fold keeps the form where each of its steps does. -/
theorem State.foldl_wf {f : State → Nat → State}
    (hf : ∀ (t : State) (i : Nat), t.mem.wf dramUnlisted = true → (f t i).mem.wf dramUnlisted = true) (l : List Nat) {t : State}
    (h : t.mem.wf dramUnlisted = true) : (l.foldl f t).mem.wf dramUnlisted = true := by
  induction l generalizing t with
  | nil => exact h
  | cons i l ih => exact ih (hf t i h)

/-- Making a granule unknown under the other keys keeps it (log 4). -/
theorem State.dramScramble_wf {s : State} (pa : Nat) (h : s.mem.wf dramUnlisted = true) :
    (s.dramScramble pa).mem.wf dramUnlisted = true :=
  State.foldl_wf (fun _ _ ht => State.foldl_wf (fun _ _ hu => wf_memPut hu) _ ht) _ h

/-- Writing a run of DRAM bytes keeps it. -/
theorem State.dramPuts_wf {s : State} (pa : Nat) (bs : List Byte) (h : s.mem.wf dramUnlisted = true) :
    (s.dramPuts pa bs).mem.wf dramUnlisted = true := by
  induction bs generalizing s pa with
  | nil => exact h
  | cons b bs ih => exact ih _ (State.dramScramble_wf pa (State.dramPut_wf pa b h))

end Sys2Proof.Machine
end

