-- ==== Sys2Proof/Laws/PerInstr.lean ====
section
/-!
SUPPORT. Laws per instruction. Family Encoding: the first word of an instruction gives the length of its words (R170).
-/
namespace Sys2Proof.Laws.Encoding

/-- The first word of an instruction gives the length of all its words; a step of the machine has none. -/
def Statement (i : Instr) : Prop := ∀ w ∈ (encode i).head?, lengthOf w.toNat = 4 * (encode i).length

/-- LEN of a long form, and of a literal form. -/
theorem long_len (opc : BitVec 8) (x : LongOp) :
    lengthOf (BitVec.ofNat 32 (x.toNat opc)).toNat = if x.lit.isSome then 12 else 8 := by
  cases hl : x.lit.isSome
  · have h : (BitVec.ofNat 32 (x.toNat opc)).toNat % 4 = 1 := by
      simp only [BitVec.toNat_ofNat, LongOp.toNat, hl]
      cases x.w <;> simp <;> omega
    unfold lengthOf; rw [h]; rfl
  · have h : (BitVec.ofNat 32 (x.toNat opc)).toNat % 4 = 2 := by
      simp only [BitVec.toNat_ofNat, LongOp.toNat, hl]
      cases x.w <;> simp <;> omega
    unfold lengthOf; rw [h]; rfl

/-- LEN of a short form. -/
theorem short_len (sopc : BitVec 6) (x : ShortOp) : lengthOf (BitVec.ofNat 32 (x.toNat sopc)).toNat = 4 := by
  have h : (BitVec.ofNat 32 (x.toNat sopc)).toNat % 4 = 0 := by
    simp only [BitVec.toNat_ofNat, ShortOp.toNat]
    omega
  unfold lengthOf; rw [h]; rfl

/-- A long or literal form. -/
theorem of_long {i : Instr} {opc : BitVec 8} {x : LongOp} (hs : i.short? = none) (hl : i.long? = some (opc, x)) : Statement i := by
  intro w hw
  simp only [encode, hs, hl, List.cons_append, List.nil_append, List.head?_cons, Option.mem_some_iff] at hw ⊢
  subst hw
  rw [long_len]
  cases x.lit <;> rfl

/-- A short form. -/
theorem of_short {i : Instr} {sopc : BitVec 6} {x : ShortOp} (hs : i.short? = some (sopc, x)) : Statement i := by
  intro w hw
  simp only [encode, hs, List.head?_cons, Option.mem_some_iff] at hw ⊢
  subst hw
  exact short_len sopc x

/-- A step of the machine, or a word that is no instruction. -/
theorem of_none {i : Instr} (hs : i.short? = none) (hl : i.long? = none) : Statement i := by
  intro w hw
  simp [encode, hs, hl] at hw

theorem nopShort (x : ShortOp) : Statement (.nopShort x) := of_short rfl
theorem movShort (x : ShortOp) : Statement (.movShort x) := of_short rfl
theorem iaddShort (x : ShortOp) : Statement (.iaddShort x) := of_short rfl
theorem isubShort (x : ShortOp) : Statement (.isubShort x) := of_short rfl
theorem imulShort (x : ShortOp) : Statement (.imulShort x) := of_short rfl
theorem iminShort (x : ShortOp) : Statement (.iminShort x) := of_short rfl
theorem imaxShort (x : ShortOp) : Statement (.imaxShort x) := of_short rfl
theorem inegShort (x : ShortOp) : Statement (.inegShort x) := of_short rfl
theorem iabsShort (x : ShortOp) : Statement (.iabsShort x) := of_short rfl
theorem andShort (x : ShortOp) : Statement (.andShort x) := of_short rfl
theorem orShort (x : ShortOp) : Statement (.orShort x) := of_short rfl
theorem xorShort (x : ShortOp) : Statement (.xorShort x) := of_short rfl
theorem notShort (x : ShortOp) : Statement (.notShort x) := of_short rfl
theorem shlShort (x : ShortOp) : Statement (.shlShort x) := of_short rfl
theorem shrShort (x : ShortOp) : Statement (.shrShort x) := of_short rfl
theorem sarShort (x : ShortOp) : Statement (.sarShort x) := of_short rfl
theorem popcShort (x : ShortOp) : Statement (.popcShort x) := of_short rfl
theorem clzShort (x : ShortOp) : Statement (.clzShort x) := of_short rfl
theorem ctzShort (x : ShortOp) : Statement (.ctzShort x) := of_short rfl
theorem brevShort (x : ShortOp) : Statement (.brevShort x) := of_short rfl
theorem faddShort (x : ShortOp) : Statement (.faddShort x) := of_short rfl
theorem fsubShort (x : ShortOp) : Statement (.fsubShort x) := of_short rfl
theorem fmulShort (x : ShortOp) : Statement (.fmulShort x) := of_short rfl
theorem fminShort (x : ShortOp) : Statement (.fminShort x) := of_short rfl
theorem fmaxShort (x : ShortOp) : Statement (.fmaxShort x) := of_short rfl
theorem faddPackedShort (x : ShortOp) : Statement (.faddPackedShort x) := of_short rfl
theorem fmulPackedShort (x : ShortOp) : Statement (.fmulPackedShort x) := of_short rfl
theorem rcpShort (x : ShortOp) : Statement (.rcpShort x) := of_short rfl
theorem rsqShort (x : ShortOp) : Statement (.rsqShort x) := of_short rfl
theorem sqrtShort (x : ShortOp) : Statement (.sqrtShort x) := of_short rfl
theorem exp2Short (x : ShortOp) : Statement (.exp2Short x) := of_short rfl
theorem log2Short (x : ShortOp) : Statement (.log2Short x) := of_short rfl
theorem sinShort (x : ShortOp) : Statement (.sinShort x) := of_short rfl
theorem cosShort (x : ShortOp) : Statement (.cosShort x) := of_short rfl
theorem tanhShort (x : ShortOp) : Statement (.tanhShort x) := of_short rfl
theorem cvtShort (x : ShortOp) : Statement (.cvtShort x) := of_short rfl
theorem yieldShort (x : ShortOp) : Statement (.yieldShort x) := of_short rfl
theorem exitShort (x : ShortOp) : Statement (.exitShort x) := of_short rfl
theorem retShort (x : ShortOp) : Statement (.retShort x) := of_short rfl
theorem illegalEncoding (x : Illegal) : Statement (.illegalEncoding x) := of_none rfl rfl
theorem iadd (x : LongOp) : Statement (.iadd x) := of_long rfl rfl
theorem isub (x : LongOp) : Statement (.isub x) := of_long rfl rfl
theorem imul (x : LongOp) : Statement (.imul x) := of_long rfl rfl
theorem imulh (x : LongOp) : Statement (.imulh x) := of_long rfl rfl
theorem imad (x : LongOp) : Statement (.imad x) := of_long rfl rfl
theorem imin (x : LongOp) : Statement (.imin x) := of_long rfl rfl
theorem imax (x : LongOp) : Statement (.imax x) := of_long rfl rfl
theorem iabs (x : LongOp) : Statement (.iabs x) := of_long rfl rfl
theorem ineg (x : LongOp) : Statement (.ineg x) := of_long rfl rfl
theorem idiv (x : LongOp) : Statement (.idiv x) := of_long rfl rfl
theorem lea (x : LongOp) : Statement (.lea x) := of_long rfl rfl
theorem iset (x : LongOp) : Statement (.iset x) := of_long rfl rfl
theorem sel (x : LongOp) : Statement (.sel x) := of_long rfl rfl
theorem mov (x : LongOp) : Statement (.mov x) := of_long rfl rfl
theorem idp4 (x : LongOp) : Statement (.idp4 x) := of_long rfl rfl
theorem plop (x : LongOp) : Statement (.plop x) := of_long rfl rfl
theorem andB (x : LongOp) : Statement (.andB x) := of_long rfl rfl
theorem orB (x : LongOp) : Statement (.orB x) := of_long rfl rfl
theorem xorB (x : LongOp) : Statement (.xorB x) := of_long rfl rfl
theorem btab (x : LongOp) : Statement (.btab x) := of_long rfl rfl
theorem notB (x : LongOp) : Statement (.notB x) := of_long rfl rfl
theorem shl (x : LongOp) : Statement (.shl x) := of_long rfl rfl
theorem shr (x : LongOp) : Statement (.shr x) := of_long rfl rfl
theorem sar (x : LongOp) : Statement (.sar x) := of_long rfl rfl
theorem shf (x : LongOp) : Statement (.shf x) := of_long rfl rfl
theorem bfe (x : LongOp) : Statement (.bfe x) := of_long rfl rfl
theorem bfi (x : LongOp) : Statement (.bfi x) := of_long rfl rfl
theorem popc (x : LongOp) : Statement (.popc x) := of_long rfl rfl
theorem clz (x : LongOp) : Statement (.clz x) := of_long rfl rfl
theorem ctz (x : LongOp) : Statement (.ctz x) := of_long rfl rfl
theorem brev (x : LongOp) : Statement (.brev x) := of_long rfl rfl
theorem fadd (x : LongOp) : Statement (.fadd x) := of_long rfl rfl
theorem fsub (x : LongOp) : Statement (.fsub x) := of_long rfl rfl
theorem fmul (x : LongOp) : Statement (.fmul x) := of_long rfl rfl
theorem ffma (x : LongOp) : Statement (.ffma x) := of_long rfl rfl
theorem fmin (x : LongOp) : Statement (.fmin x) := of_long rfl rfl
theorem fmax (x : LongOp) : Statement (.fmax x) := of_long rfl rfl
theorem fset (x : LongOp) : Statement (.fset x) := of_long rfl rfl
theorem fclass (x : LongOp) : Statement (.fclass x) := of_long rfl rfl
theorem frnd (x : LongOp) : Statement (.frnd x) := of_long rfl rfl
theorem fdot2 (x : LongOp) : Statement (.fdot2 x) := of_long rfl rfl
theorem fscale (x : LongOp) : Statement (.fscale x) := of_long rfl rfl
theorem cvt (x : LongOp) : Statement (.cvt x) := of_long rfl rfl
theorem cvtpk (x : LongOp) : Statement (.cvtpk x) := of_long rfl rfl
theorem cvtupk (x : LongOp) : Statement (.cvtupk x) := of_long rfl rfl
theorem rcp (x : LongOp) : Statement (.rcp x) := of_long rfl rfl
theorem rsq (x : LongOp) : Statement (.rsq x) := of_long rfl rfl
theorem sqrt (x : LongOp) : Statement (.sqrt x) := of_long rfl rfl
theorem exp2 (x : LongOp) : Statement (.exp2 x) := of_long rfl rfl
theorem log2 (x : LongOp) : Statement (.log2 x) := of_long rfl rfl
theorem sin (x : LongOp) : Statement (.sin x) := of_long rfl rfl
theorem cos (x : LongOp) : Statement (.cos x) := of_long rfl rfl
theorem tanh (x : LongOp) : Statement (.tanh x) := of_long rfl rfl
theorem fdiv (x : LongOp) : Statement (.fdiv x) := of_long rfl rfl
theorem shfl (x : LongOp) : Statement (.shfl x) := of_long rfl rfl
theorem poll (x : LongOp) : Statement (.poll x) := of_long rfl rfl
theorem redx (x : LongOp) : Statement (.redx x) := of_long rfl rfl
theorem redxi (x : LongOp) : Statement (.redxi x) := of_long rfl rfl
theorem scan (x : LongOp) : Statement (.scan x) := of_long rfl rfl
theorem matchT (x : LongOp) : Statement (.matchT x) := of_long rfl rfl
theorem elect (x : LongOp) : Statement (.elect x) := of_long rfl rfl
theorem isect (x : LongOp) : Statement (.isect x) := of_long rfl rfl
theorem brank (x : LongOp) : Statement (.brank x) := of_long rfl rfl
theorem treestep (x : LongOp) : Statement (.treestep x) := of_long rfl rfl
theorem kset (x : LongOp) : Statement (.kset x) := of_long rfl rfl
theorem kmov (x : LongOp) : Statement (.kmov x) := of_long rfl rfl
theorem bra (x : LongOp) : Statement (.bra x) := of_long rfl rfl
theorem brx (x : LongOp) : Statement (.brx x) := of_long rfl rfl
theorem call (x : LongOp) : Statement (.call x) := of_long rfl rfl
theorem ret (x : LongOp) : Statement (.ret x) := of_long rfl rfl
theorem reconv (x : LongOp) : Statement (.reconv x) := of_long rfl rfl
theorem yield (x : LongOp) : Statement (.yield x) := of_long rfl rfl
theorem exit (x : LongOp) : Statement (.exit x) := of_long rfl rfl
theorem execMask (x : LongOp) : Statement (.execMask x) := of_long rfl rfl
theorem nop (x : LongOp) : Statement (.nop x) := of_long rfl rfl
theorem waitc (x : LongOp) : Statement (.waitc x) := of_long rfl rfl
theorem trap (x : LongOp) : Statement (.trap x) := of_long rfl rfl
theorem bkpt (x : LongOp) : Statement (.bkpt x) := of_long rfl rfl
theorem sleep (x : LongOp) : Statement (.sleep x) := of_long rfl rfl
theorem ld (x : LongOp) : Statement (.ld x) := of_long rfl rfl
theorem ldDec (x : LongOp) : Statement (.ldDec x) := of_long rfl rfl
theorem st (x : LongOp) : Statement (.st x) := of_long rfl rfl
theorem stEnc (x : LongOp) : Statement (.stEnc x) := of_long rfl rfl
theorem ldu (x : LongOp) : Statement (.ldu x) := of_long rfl rfl
theorem ldg (x : LongOp) : Statement (.ldg x) := of_long rfl rfl
theorem pref (x : LongOp) : Statement (.pref x) := of_long rfl rfl
theorem cctl (x : LongOp) : Statement (.cctl x) := of_long rfl rfl
theorem atom (x : LongOp) : Statement (.atom x) := of_long rfl rfl
theorem atomcas (x : LongOp) : Statement (.atomcas x) := of_long rfl rfl
theorem red (x : LongOp) : Statement (.red x) := of_long rfl rfl
theorem fence (x : LongOp) : Statement (.fence x) := of_long rfl rfl
theorem promote (x : LongOp) : Statement (.promote x) := of_long rfl rfl
theorem ldacq (x : LongOp) : Statement (.ldacq x) := of_long rfl rfl
theorem strel (x : LongOp) : Statement (.strel x) := of_long rfl rfl
theorem cadd (x : LongOp) : Statement (.cadd x) := of_long rfl rfl
theorem cwait (x : LongOp) : Statement (.cwait x) := of_long rfl rfl
theorem cread (x : LongOp) : Statement (.cread x) := of_long rfl rfl
theorem bar (x : LongOp) : Statement (.bar x) := of_long rfl rfl
theorem barsig (x : LongOp) : Statement (.barsig x) := of_long rfl rfl
theorem fork (x : LongOp) : Statement (.fork x) := of_long rfl rfl
theorem spawn (x : LongOp) : Statement (.spawn x) := of_long rfl rfl
theorem mbxrd (x : LongOp) : Statement (.mbxrd x) := of_long rfl rfl
theorem fwd (x : LongOp) : Statement (.fwd x) := of_long rfl rfl
theorem mma (x : LongOp) : Statement (.mma x) := of_long rfl rfl
theorem mmal (x : LongOp) : Statement (.mmal x) := of_long rfl rfl
theorem mmv (x : LongOp) : Statement (.mmv x) := of_long rfl rfl
theorem mzero (x : LongOp) : Statement (.mzero x) := of_long rfl rfl
theorem mlda (x : LongOp) : Statement (.mlda x) := of_long rfl rfl
theorem msta (x : LongOp) : Statement (.msta x) := of_long rfl rfl
theorem mbatch (x : LongOp) : Statement (.mbatch x) := of_long rfl rfl
theorem mwait (x : LongOp) : Statement (.mwait x) := of_long rfl rfl
theorem copy (x : LongOp) : Statement (.copy x) := of_long rfl rfl
theorem cptr (x : LongOp) : Statement (.cptr x) := of_long rfl rfl
theorem qfence (x : LongOp) : Statement (.qfence x) := of_long rfl rfl
theorem bin (x : LongOp) : Statement (.bin x) := of_long rfl rfl
theorem binplay (x : LongOp) : Statement (.binplay x) := of_long rfl rfl
theorem route (x : LongOp) : Statement (.route x) := of_long rfl rfl
theorem embpool (x : LongOp) : Statement (.embpool x) := of_long rfl rfl
theorem getsys (x : LongOp) : Statement (.getsys x) := of_long rfl rfl
theorem setsys (x : LongOp) : Statement (.setsys x) := of_long rfl rfl
theorem setsysAsgen (x : LongOp) : Statement (.setsysAsgen x) := of_long rfl rfl
theorem setsysCtxpush (x : LongOp) : Statement (.setsysCtxpush x) := of_long rfl rfl
theorem setsysPreempt (x : LongOp) : Statement (.setsysPreempt x) := of_long rfl rfl
theorem time (x : LongOp) : Statement (.time x) := of_long rfl rfl
theorem tretRes (x : LongOp) : Statement (.tretRes x) := of_long rfl rfl
theorem tretKill (x : LongOp) : Statement (.tretKill x) := of_long rfl rfl
theorem fetchBlockReturn (w : WarpId) (e : Ecc) : Statement (.fetchBlockReturn w e) := of_none rfl rfl
theorem coalescingWindowClose (c : CoreId) : Statement (.coalescingWindowClose c) := of_none rfl rfl
theorem walkEntryRead (die : Nat) (walk : Nat) (e : Ecc) : Statement (.walkEntryRead die walk e) := of_none rfl rfl
theorem formatEntryRead (c : CoreId) (e : Ecc) : Statement (.formatEntryRead c e) := of_none rfl rfl
theorem l1FillReturn (pid : Nat) : Statement (.l1FillReturn pid) := of_none rfl rfl
theorem loadDataReturn (c : CoreId) (rid : Nat) : Statement (.loadDataReturn c rid) := of_none rfl rfl
theorem storeAck (pid : Nat) : Statement (.storeAck pid) := of_none rfl rfl
theorem combiningEntryAge (c : CoreId) : Statement (.combiningEntryAge c) := of_none rfl rfl
theorem peerProbe (c : CoreId) (rid : Nat) : Statement (.peerProbe c rid) := of_none rfl rfl
theorem peerProbeAnswer (c : CoreId) (rid : Nat) : Statement (.peerProbeAnswer c rid) := of_none rfl rfl
theorem meshHop (pid : Nat) (granted : Nat) (merge : Bool) : Statement (.meshHop pid granted merge) := of_none rfl rfl
theorem interposerLinkCrossing (pid : Nat) : Statement (.interposerLinkCrossing pid) := of_none rfl rfl
theorem slotBoundary : Statement .slotBoundary := of_none rfl rfl
theorem l2Request (pid : Nat) : Statement (.l2Request pid) := of_none rfl rfl
theorem atomicUnitService (pid : Nat) : Statement (.atomicUnitService pid) := of_none rfl rfl
theorem cwaitAnswer (pid : Nat) : Statement (.cwaitAnswer pid) := of_none rfl rfl
theorem cwaitRetry (c : CoreId) (rid : Nat) : Statement (.cwaitRetry c rid) := of_none rfl rfl
theorem hbmAccess (stack : Nat) (channel : Nat) (e : Ecc) : Statement (.hbmAccess stack channel e) := of_none rfl rfl
theorem maintenanceSlot (stack : Nat) (refreshDone : Bool) (e : Ecc) (overwritten : Bool) : Statement (.maintenanceSlot stack refreshDone e overwritten) := of_none rfl rfl
theorem hbmTemperatureSample (stack : Nat) (celsius : Nat) : Statement (.hbmTemperatureSample stack celsius) := of_none rfl rfl
theorem bufferAccess (buffer : Nat) (e : Ecc) : Statement (.bufferAccess buffer e) := of_none rfl rfl
theorem bufferRefresh (buffer : Nat) : Statement (.bufferRefresh buffer) := of_none rfl rfl
theorem bufferScrub (buffer : Nat) (e : Ecc) : Statement (.bufferScrub buffer e) := of_none rfl rfl
theorem bagTakeUp (c : CoreId) (e : Ecc) : Statement (.bagTakeUp c e) := of_none rfl rfl
theorem bufferPool (c : CoreId) (view : Nat) (e : Ecc) : Statement (.bufferPool c view e) := of_none rfl rfl
theorem partialVectorCombine (c : CoreId) : Statement (.partialVectorCombine c) := of_none rfl rfl
theorem copyEntryStart (c : CoreId) (ch : Nat) : Statement (.copyEntryStart c ch) := of_none rfl rfl
theorem deliveryUnitPerformed (c : CoreId) (ch : Nat) (e : Ecc) : Statement (.deliveryUnitPerformed c ch e) := of_none rfl rfl
theorem copyEntryComplete (c : CoreId) (ch : Nat) : Statement (.copyEntryComplete c ch) := of_none rfl rfl
theorem qfenceEntryComplete (c : CoreId) (fence : Nat) : Statement (.qfenceEntryComplete c fence) := of_none rfl rfl
theorem guardedOffEntry (c : CoreId) (queue : Nat) (slot : Nat) : Statement (.guardedOffEntry c queue slot) := of_none rfl rfl
theorem binplayEntry (c : CoreId) (e : Ecc) : Statement (.binplayEntry c e) := of_none rfl rfl
theorem matrixEntryStart (c : CoreId) (e : Ecc) : Statement (.matrixEntryStart c e) := of_none rfl rfl
theorem tileWrite (c : CoreId) : Statement (.tileWrite c) := of_none rfl rfl
theorem collectorRowDrop (c : CoreId) (lane : Nat) : Statement (.collectorRowDrop c lane) := of_none rfl rfl
theorem rowBlockStart (c : CoreId) (block : Nat) : Statement (.rowBlockStart c block) := of_none rfl rfl
theorem mmvStreamData (c : CoreId) (e : Ecc) : Statement (.mmvStreamData c e) := of_none rfl rfl
theorem batchComplete (c : CoreId) (slot : Nat) : Statement (.batchComplete c slot) := of_none rfl rfl
theorem rotDemotion (w : WarpId) : Statement (.rotDemotion w) := of_none rfl rfl
theorem sleepExpiry (w : WarpId) : Statement (.sleepExpiry w) := of_none rfl rfl
theorem generationBroadcast (c : CoreId) : Statement (.generationBroadcast c) := of_none rfl rfl
theorem generationRaiseComplete : Statement .generationRaiseComplete := of_none rfl rfl
theorem catload (m : Ccp) (image : List Byte) : Statement (.catload m image) := of_none rfl rfl
theorem catdrop (m : Ccp) (cat : Nat) : Statement (.catdrop m cat) := of_none rfl rfl
theorem kick (m : Ccp) (cat : Nat) (kickSeq : Nat) (patches : List Patch) : Statement (.kick m cat kickSeq patches) := of_none rfl rfl
theorem replayStart (wing : Nat) (cat : Nat) : Statement (.replayStart wing cat) := of_none rfl rfl
theorem nodeDispatch (wing : Nat) (cat : Nat) : Statement (.nodeDispatch wing cat) := of_none rfl rfl
theorem workPacketSend (wing : Nat) (cat : Nat) : Statement (.workPacketSend wing cat) := of_none rfl rfl
theorem mailboxPacketArrival (die : Nat) : Statement (.mailboxPacketArrival die) := of_none rfl rfl
theorem cohortRelease (wing : Nat) (cat : Nat) : Statement (.cohortRelease wing cat) := of_none rfl rfl
theorem groupEnd (c : CoreId) (slot : Nat) : Statement (.groupEnd c slot) := of_none rfl rfl
theorem groupEndNotice (c : CoreId) : Statement (.groupEndNotice c) := of_none rfl rfl
theorem nodeEnd (unit : Nat) : Statement (.nodeEnd unit) := of_none rfl rfl
theorem replayEnd (wing : Nat) (cat : Nat) : Statement (.replayEnd wing cat) := of_none rfl rfl
theorem coreStop (c : CoreId) : Statement (.coreStop c) := of_none rfl rfl
theorem otherWarpsResume (c : CoreId) : Statement (.otherWarpsResume c) := of_none rfl rfl
theorem deferredTrap (c : CoreId) (slot : Nat) : Statement (.deferredTrap c slot) := of_none rfl rfl
theorem swapOut (c : CoreId) (slot : Nat) : Statement (.swapOut c slot) := of_none rfl rfl
theorem frameWaitResume (c : CoreId) (slot : Nat) : Statement (.frameWaitResume c slot) := of_none rfl rfl
theorem preemptionStop (c : CoreId) (slot : Nat) : Statement (.preemptionStop c slot) := of_none rfl rfl
theorem watchdog (w : WarpId) : Statement (.watchdog w) := of_none rfl rfl
theorem portFrameReceive (port : Nat) (kind : FrameKind) : Statement (.portFrameReceive port kind) := of_none rfl rfl
theorem roceWrite (qp : Nat) (rkey : Nat) (va : Nat) (data : List Byte) : Statement (.roceWrite qp rkey va data) := of_none rfl rfl
theorem roceWriteImmediate (qp : Nat) (rkey : Nat) (va : Nat) (data : List Byte) (imm : Word) : Statement (.roceWriteImmediate qp rkey va data imm) := of_none rfl rfl
theorem roceRead (qp : Nat) (rkey : Nat) (va : Nat) (len : Nat) : Statement (.roceRead qp rkey va len) := of_none rfl rfl
theorem sendDescriptorTake (qp : Nat) : Statement (.sendDescriptorTake qp) := of_none rfl rfl
theorem descriptorComplete (qp : Nat) (nak : Bool) (data : List Byte) : Statement (.descriptorComplete qp nak data) := of_none rfl rfl
theorem resync (m : Ccp) : Statement (.resync m) := of_none rfl rfl
theorem genraise (m : Ccp) (asid : Nat) : Statement (.genraise m asid) := of_none rfl rfl
theorem preempt (m : Ccp) (die : Nat) (core : Nat) (slot : Nat) : Statement (.preempt m die core slot) := of_none rfl rfl
theorem mrreg (m : Ccp) (b : MrBody) : Statement (.mrreg m b) := of_none rfl rfl
theorem mrdrop (m : Ccp) (rkey : Nat) : Statement (.mrdrop m rkey) := of_none rfl rfl
theorem qpcreate (m : Ccp) (b : QpBody) : Statement (.qpcreate m b) := of_none rfl rfl
theorem qpdestroy (m : Ccp) (qp : Nat) : Statement (.qpdestroy m qp) := of_none rfl rfl
theorem wingset (m : Ccp) (b : WingBody) : Statement (.wingset m b) := of_none rfl rfl
theorem wingquiesce (m : Ccp) (wing : Nat) : Statement (.wingquiesce m wing) := of_none rfl rfl
theorem wingQuiesced (wing : Nat) : Statement (.wingQuiesced wing) := of_none rfl rfl
theorem slotset (m : Ccp) (owners : List (Nat × BitVec 8)) : Statement (.slotset m owners) := of_none rfl rfl
theorem keyload (m : Ccp) (pair : Wrapped) (retain : Bool) : Statement (.keyload m pair retain) := of_none rfl rfl
theorem keyrevoke (m : Ccp) (wing : Nat) : Statement (.keyrevoke m wing) := of_none rfl rfl
theorem keyrevokeComplete (wing : Nat) : Statement (.keyrevokeComplete wing) := of_none rfl rfl
theorem zeroingComplete (u : Unit') : Statement (.zeroingComplete u) := of_none rfl rfl
theorem mgmtrd (m : Ccp) (r : MgmtReg) : Statement (.mgmtrd m r) := of_none rfl rfl
theorem mgmtwr (m : Ccp) (r : MgmtReg) (value : DWord) : Statement (.mgmtwr m r value) := of_none rfl rfl
theorem hmcfgCntClr (stack : Nat) : Statement (.hmcfgCntClr stack) := of_none rfl rfl
theorem filterFullClear (stack : Nat) : Statement (.filterFullClear stack) := of_none rfl rfl
theorem warmReset : Statement .warmReset := of_none rfl rfl
theorem fwload (m : Ccp) (image : FwImage) : Statement (.fwload m image) := of_none rfl rfl
theorem attest (m : Ccp) (nonce : Nat) : Statement (.attest m nonce) := of_none rfl rfl
theorem powerGood (selfTestOk : Bool) : Statement (.powerGood selfTestOk) := of_none rfl rfl
theorem stage1Reached (failed : List Unit') (slowRows : List (Nat × Nat × Nat)) : Statement (.stage1Reached failed slowRows) := of_none rfl rfl
theorem stage2Reached : Statement .stage2Reached := of_none rfl rfl
theorem junctionTemperatureSample (die : Nat) (celsius : Nat) : Statement (.junctionTemperatureSample die celsius) := of_none rfl rfl
theorem powerCapExceeded (milliwatts : Nat) : Statement (.powerCapExceeded milliwatts) := of_none rfl rfl
theorem coreFence (c : CoreId) : Statement (.coreFence c) := of_none rfl rfl
theorem stackFence (u : Unit') : Statement (.stackFence u) := of_none rfl rfl
theorem portLinkFailure (port : Nat) : Statement (.portLinkFailure port) := of_none rfl rfl
theorem curatorReload (die : Nat) : Statement (.curatorReload die) := of_none rfl rfl
theorem uncoreResetEntry (die : Nat) : Statement (.uncoreResetEntry die) := of_none rfl rfl
theorem uncoreResetExit (die : Nat) : Statement (.uncoreResetExit die) := of_none rfl rfl
theorem coreDomainResetExit (die : Nat) : Statement (.coreDomainResetExit die) := of_none rfl rfl
theorem coreDomainResetEntry (die : Nat) : Statement (.coreDomainResetEntry die) := of_none rfl rfl
theorem dieFence (die : Nat) : Statement (.dieFence die) := of_none rfl rfl
theorem promotionRequest (c : CoreId) (issuer : CoreId) : Statement (.promotionRequest c issuer) := of_none rfl rfl
theorem dcqcnRateReduction (qp : Nat) : Statement (.dcqcnRateReduction qp) := of_none rfl rfl

end Sys2Proof.Laws.Encoding
end

