-- ==== Sys2Proof/Laws/Units.lean ====
section
/-!
SUPPORT. Each field of a core, a die, a wing and the state after the updates of one unit that several meanings share.
-/
namespace Sys2Proof.Machine

/-! ### taint -/

@[simp] theorem Core.taint_id (k : Core) (p : Req → Bool) : (k.taint p).id = k.id := rfl
@[simp] theorem Core.taint_fenced (k : Core) (p : Req → Bool) : (k.taint p).fenced = k.fenced := rfl
@[simp] theorem Core.taint_stop (k : Core) (p : Req → Bool) : (k.taint p).stop = k.stop := rfl
@[simp] theorem Core.taint_place (k : Core) (p : Req → Bool) : (k.taint p).place = k.place := rfl
@[simp] theorem Core.taint_ports (k : Core) (p : Req → Bool) : (k.taint p).ports = k.ports := rfl
@[simp] theorem Core.taint_spm (k : Core) (p : Req → Bool) : (k.taint p).spm = k.spm := rfl
@[simp] theorem Core.taint_busyBanks (k : Core) (p : Req → Bool) : (k.taint p).busyBanks = k.busyBanks := rfl
@[simp] theorem Core.taint_bankTurn (k : Core) (p : Req → Bool) : (k.taint p).bankTurn = k.bankTurn := rfl
@[simp] theorem Core.taint_l1 (k : Core) (p : Req → Bool) : (k.taint p).l1 = k.l1 := rfl
@[simp] theorem Core.taint_epoch (k : Core) (p : Req → Bool) : (k.taint p).epoch = k.epoch := rfl
@[simp] theorem Core.taint_tlb (k : Core) (p : Req → Bool) : (k.taint p).tlb = k.tlb := rfl
@[simp] theorem Core.taint_fmts (k : Core) (p : Req → Bool) : (k.taint p).fmts = k.fmts := rfl
@[simp] theorem Core.taint_fmtReads (k : Core) (p : Req → Bool) : (k.taint p).fmtReads = k.fmtReads := rfl
@[simp] theorem Core.taint_gens (k : Core) (p : Req → Bool) : (k.taint p).gens = k.gens := rfl
@[simp] theorem Core.taint_predict (k : Core) (p : Req → Bool) : (k.taint p).predict = k.predict := rfl
@[simp] theorem Core.taint_seq (k : Core) (p : Req → Bool) : (k.taint p).seq = k.seq := rfl
@[simp] theorem Core.taint_comb (k : Core) (p : Req → Bool) : (k.taint p).comb = k.comb := rfl
@[simp] theorem Core.taint_outst (k : Core) (p : Req → Bool) : (k.taint p).outst = k.outst := rfl
@[simp] theorem Core.taint_heldOps (k : Core) (p : Req → Bool) : (k.taint p).heldOps = k.heldOps := rfl
@[simp] theorem Core.taint_promotes (k : Core) (p : Req → Bool) : (k.taint p).promotes = k.promotes := rfl
@[simp] theorem Core.taint_chans (k : Core) (p : Req → Bool) : (k.taint p).chans = k.chans := rfl
@[simp] theorem Core.taint_binq (k : Core) (p : Req → Bool) : (k.taint p).binq = k.binq := rfl
@[simp] theorem Core.taint_poolq (k : Core) (p : Req → Bool) : (k.taint p).poolq = k.poolq := rfl
@[simp] theorem Core.taint_bag (k : Core) (p : Req → Bool) : (k.taint p).bag = k.bag := rfl
@[simp] theorem Core.taint_fences (k : Core) (p : Req → Bool) : (k.taint p).fences = k.fences := rfl
@[simp] theorem Core.taint_windows (k : Core) (p : Req → Bool) : (k.taint p).windows = k.windows := rfl
@[simp] theorem Core.taint_runs (k : Core) (p : Req → Bool) : (k.taint p).runs = k.runs := rfl
@[simp] theorem Core.taint_turn (k : Core) (p : Req → Bool) : (k.taint p).turn = k.turn := rfl
@[simp] theorem Core.taint_granted (k : Core) (p : Req → Bool) : (k.taint p).granted = k.granted := rfl
@[simp] theorem Core.taint_notices (k : Core) (p : Req → Bool) : (k.taint p).notices = k.notices := rfl

/-! ### keepPtrs -/

@[simp] theorem Die.keepPtrs_id (d : Die) (k : Walk) : (d.keepPtrs k).id = d.id := rfl
@[simp] theorem Die.keepPtrs_coreDom (d : Die) (k : Walk) : (d.keepPtrs k).coreDom = d.coreDom := rfl
@[simp] theorem Die.keepPtrs_uncore (d : Die) (k : Walk) : (d.keepPtrs k).uncore = d.uncore := rfl
@[simp] theorem Die.keepPtrs_zeroing (d : Die) (k : Walk) : (d.keepPtrs k).zeroing = d.zeroing := rfl
@[simp] theorem Die.keepPtrs_mailbox (d : Die) (k : Walk) : (d.keepPtrs k).mailbox = d.mailbox := rfl
@[simp] theorem Die.keepPtrs_inbound (d : Die) (k : Walk) : (d.keepPtrs k).inbound = d.inbound := rfl
@[simp] theorem Die.keepPtrs_frames (d : Die) (k : Walk) : (d.keepPtrs k).frames = d.frames := rfl
@[simp] theorem Die.keepPtrs_walks (d : Die) (k : Walk) : (d.keepPtrs k).walks = d.walks := rfl
@[simp] theorem Die.keepPtrs_curatorLoaded (d : Die) (k : Walk) : (d.keepPtrs k).curatorLoaded = d.curatorLoaded := rfl
@[simp] theorem Die.keepPtrs_mailboxRead (d : Die) (k : Walk) : (d.keepPtrs k).mailboxRead = d.mailboxRead := rfl
@[simp] theorem Die.keepPtrs_clockStep (d : Die) (k : Walk) : (d.keepPtrs k).clockStep = d.clockStep := rfl

/-! ### setSlot -/

@[simp] theorem Wing.setSlot_id (w : Wing) (k : KeySlot) : (w.setSlot k).id = w.id := rfl
@[simp] theorem Wing.setSlot_st (w : Wing) (k : KeySlot) : (w.setSlot k).st = w.st := rfl
@[simp] theorem Wing.setSlot_catUnit (w : Wing) (k : KeySlot) : (w.setSlot k).catUnit = w.catUnit := rfl
@[simp] theorem Wing.setSlot_bufs (w : Wing) (k : KeySlot) : (w.setSlot k).bufs = w.bufs := rfl
@[simp] theorem Wing.setSlot_ports (w : Wing) (k : KeySlot) : (w.setSlot k).ports = w.ports := rfl
@[simp] theorem Wing.setSlot_dies (w : Wing) (k : KeySlot) : (w.setSlot k).dies = w.dies := rfl
@[simp] theorem Wing.setSlot_quiescing (w : Wing) (k : KeySlot) : (w.setSlot k).quiescing = w.quiescing := rfl
@[simp] theorem Wing.setSlot_revoking (w : Wing) (k : KeySlot) : (w.setSlot k).revoking = w.revoking := rfl
@[simp] theorem Wing.setSlot_pairsSeen (w : Wing) (k : KeySlot) : (w.setSlot k).pairsSeen = w.pairsSeen := rfl
@[simp] theorem Wing.setSlot_control (w : Wing) (k : KeySlot) : (w.setSlot k).control = w.control := rfl
@[simp] theorem Wing.setSlot_wrapping (w : Wing) (k : KeySlot) : (w.setSlot k).wrapping = w.wrapping := rfl
@[simp] theorem Wing.setSlot_kickSeq (w : Wing) (k : KeySlot) : (w.setSlot k).kickSeq = w.kickSeq := rfl
@[simp] theorem Wing.setSlot_inSeq (w : Wing) (k : KeySlot) : (w.setSlot k).inSeq = w.inSeq := rfl
@[simp] theorem Wing.setSlot_outSeq (w : Wing) (k : KeySlot) : (w.setSlot k).outSeq = w.outSeq := rfl
@[simp] theorem Wing.setSlot_dropped (w : Wing) (k : KeySlot) : (w.setSlot k).dropped = w.dropped := rfl
@[simp] theorem Wing.setSlot_reports (w : Wing) (k : KeySlot) : (w.setSlot k).reports = w.reports := rfl
@[simp] theorem Wing.setSlot_lost (w : Wing) (k : KeySlot) : (w.setSlot k).lost = w.lost := rfl

@[simp] theorem Wing.setSlot_keyMirror (w : Wing) (k : KeySlot) : (w.setSlot k).keyMirror = k := rfl
/-- Both security units hold the slot alike after a write (R19). -/
@[simp] theorem Wing.setSlot_slot (w : Wing) (k : KeySlot) : (⟨(w.setSlot k).keySt, (w.setSlot k).retain, (w.setSlot k).pair⟩ : KeySlot) = k := rfl

/-! ### useBanks -/

@[simp] theorem State.useBanks_clk (s : State) (g : Group) (r : SpmRuns) : (s.useBanks g r).clk = s.clk := rfl
@[simp] theorem State.useBanks_agenda (s : State) (g : Group) (r : SpmRuns) : (s.useBanks g r).agenda = s.agenda := rfl
@[simp] theorem State.useBanks_cur (s : State) (g : Group) (r : SpmRuns) : (s.useBanks g r).cur = s.cur := rfl
@[simp] theorem State.useBanks_free (s : State) (g : Group) (r : SpmRuns) : (s.useBanks g r).free = s.free := rfl
@[simp] theorem State.useBanks_tableErrs (s : State) (g : Group) (r : SpmRuns) : (s.useBanks g r).tableErrs = s.tableErrs := rfl
@[simp] theorem State.useBanks_names (s : State) (g : Group) (r : SpmRuns) : (s.useBanks g r).names = s.names := rfl
@[simp] theorem State.useBanks_mem (s : State) (g : Group) (r : SpmRuns) : (s.useBanks g r).mem = s.mem := rfl
@[simp] theorem State.useBanks_l2 (s : State) (g : Group) (r : SpmRuns) : (s.useBanks g r).l2 = s.l2 := rfl
@[simp] theorem State.useBanks_monitors (s : State) (g : Group) (r : SpmRuns) : (s.useBanks g r).monitors = s.monitors := rfl
@[simp] theorem State.useBanks_packets (s : State) (g : Group) (r : SpmRuns) : (s.useBanks g r).packets = s.packets := rfl
@[simp] theorem State.useBanks_hbms (s : State) (g : Group) (r : SpmRuns) : (s.useBanks g r).hbms = s.hbms := rfl
@[simp] theorem State.useBanks_buffers (s : State) (g : Group) (r : SpmRuns) : (s.useBanks g r).buffers = s.buffers := rfl
@[simp] theorem State.useBanks_dies (s : State) (g : Group) (r : SpmRuns) : (s.useBanks g r).dies = s.dies := rfl
@[simp] theorem State.useBanks_groups (s : State) (g : Group) (r : SpmRuns) : (s.useBanks g r).groups = s.groups := rfl
@[simp] theorem State.useBanks_warps (s : State) (g : Group) (r : SpmRuns) : (s.useBanks g r).warps = s.warps := rfl
@[simp] theorem State.useBanks_cats (s : State) (g : Group) (r : SpmRuns) : (s.useBanks g r).cats = s.cats := rfl
@[simp] theorem State.useBanks_ends (s : State) (g : Group) (r : SpmRuns) : (s.useBanks g r).ends = s.ends := rfl
@[simp] theorem State.useBanks_wings (s : State) (g : Group) (r : SpmRuns) : (s.useBanks g r).wings = s.wings := rfl
@[simp] theorem State.useBanks_regions (s : State) (g : Group) (r : SpmRuns) : (s.useBanks g r).regions = s.regions := rfl
@[simp] theorem State.useBanks_qps (s : State) (g : Group) (r : SpmRuns) : (s.useBanks g r).qps = s.qps := rfl
@[simp] theorem State.useBanks_ports (s : State) (g : Group) (r : SpmRuns) : (s.useBanks g r).ports = s.ports := rfl
@[simp] theorem State.useBanks_raises (s : State) (g : Group) (r : SpmRuns) : (s.useBanks g r).raises = s.raises := rfl
@[simp] theorem State.useBanks_docent (s : State) (g : Group) (r : SpmRuns) : (s.useBanks g r).docent = s.docent := rfl
@[simp] theorem State.useBanks_out (s : State) (g : Group) (r : SpmRuns) : (s.useBanks g r).out = s.out := rfl

end Sys2Proof.Machine
end

