-- ==== Sys2Proof/Tests/Slice0.lean ====
section
/-!
SUPPORT. The model's own tests: terms that are not well formed, words decoded, and for every obligation with hypotheses a state and
operands that meet them. Expected words are written from the layouts of R171 to R174 and the encoding tables.
-/
namespace Sys2Proof.Tests

open Sys2Proof Sys2Proof.Machine

/-! ### Terms that are not well formed -/

/-- A guard that always passes. -/
def pt : Guard := ⟨false, 7⟩
/-- An instruction's fields, with the guard pt. -/
def op (d a b c : Sel) (fn : BitVec 8) (fn2 : BitVec 5) : LongOp := ⟨pt, false, d, a, b, c, fn, fn2, none⟩
/-- IADD.s32 v2, v0, v1. -/
def addX : LongOp := op (.v 2) (.v 0) (.v 1) (.v 0) 0x00 0

/-- A legal IADD is well formed; each of the others breaks one rule of R180: FN and FN2, a reserved field, the selector, the literal, the
destination, an odd pair, the S bit, a unit that the curator core lacks is still an encoding, and a term under another instruction's FN. -/
theorem test_wf_long :
    wellFormed (.iadd addX) = true ∧ wellFormed (.iadd { addX with fn := 0x80 }) = false ∧
    wellFormed (.iadd { addX with fn2 := 1 }) = false ∧ wellFormed (.iadd { addX with c := .v 1 }) = false ∧
    wellFormed (.iadd { addX with a := .rsvLow 0 }) = false ∧ wellFormed (.iadd { addX with a := .lit }) = false ∧
    wellFormed (.iadd { addX with d := .tix }) = false ∧ wellFormed (.iadd { addX with fn := 0x60, d := .v 3 }) = false ∧
    wellFormed (.elect (op (.v 2) (.v 0) (.v 0) (.v 0) 0 0)) = true ∧
    wellFormed (.elect { op (.v 2) (.v 0) (.v 0) (.v 0) 0 0 with w := true }) = false ∧
    wellFormed (.mma (op (.v 2) (.s 8) (.s 12) (.s 10) 0x50 0)) = true ∧
    wellFormed (.ld (op (.v 2) (.v 0) (.zr) (.v 0) 0x80 0)) = false ∧ wellFormed (.ldDec (op (.v 2) (.v 0) (.zr) (.v 0) 0x80 0)) = true := by
  decide

/-- A short form under a function that its row lacks, and one whose unused field is not 0. -/
theorem test_wf_short :
    wellFormed (.iaddShort ⟨pt, 0, .v 7, .imm (-1)⟩) = true ∧ wellFormed (.fminShort ⟨pt, 1, .v 7, .v 1⟩) = false ∧
    wellFormed (.exitShort ⟨pt, 0, .v 0, .v 0⟩) = true ∧ wellFormed (.exitShort ⟨pt, 0, .v 1, .v 0⟩) = false := by
  decide

/-- An event names a unit that exists; an illegal word is one that no table lists. -/
theorem test_wf_event :
    wellFormed (.coreStop ⟨8, 16⟩) = true ∧ wellFormed (.coreStop ⟨9, 0⟩) = false ∧ wellFormed (.coreStop ⟨0, 17⟩) = false ∧
    wellFormed (.watchdog ⟨0, 0, 63, 7⟩) = true ∧ wellFormed (.watchdog ⟨0, 16, 4, 0⟩) = false ∧
    wellFormed (.hbmAccess 8 31 .good) = true ∧ wellFormed (.hbmAccess 8 32 .good) = false ∧
    wellFormed (.bufferAccess 8 .good) = false ∧ wellFormed (.zeroingComplete (.buffer 8)) = false ∧ wellFormed (.nodeEnd 15) = false ∧
    wellFormed (.portLinkFailure 16) = false ∧ wellFormed (.dieFence 9) = false ∧
    wellFormed (.illegalEncoding .length) = true ∧ wellFormed (.illegalEncoding (.long 0x00 addX)) = false ∧
    wellFormed (.illegalEncoding (.long 0x1F addX)) = true ∧ wellFormed (.illegalEncoding (.short 0x3F ⟨pt, 0, .v 0, .v 0⟩)) = true := by
  decide

/-! ### Words -/

set_option maxRecDepth 20000

/-- The 64 bits of a long form, LEN 1, field by field (R171): opcode at 2, GUARD at 10, S at 14, D at 15, A at 24, B at 33, C at 42, FN at 51,
FN2 at 59. -/
def word64 (opc guard s d a b c fn fn2 : Nat) : Nat :=
  1 + opc * 2 ^ 2 + guard * 2 ^ 10 + s * 2 ^ 14 + d * 2 ^ 15 + a * 2 ^ 24 + b * 2 ^ 33 + c * 2 ^ 42 + fn * 2 ^ 51 + fn2 * 2 ^ 59
/-- The 32 bits of a short form, LEN 0 (R172): SOPC at 2, GUARD at 8, D at 12, A at 21, SFN at 30. -/
def word32 (sopc guard d a sfn : Nat) : Nat := sopc * 2 ^ 2 + guard * 2 ^ 8 + d * 2 ^ 12 + a * 2 ^ 21 + sfn * 2 ^ 30

/-- Integer, logic and bit instructions: IMAD.wide, AND.b64, SHF, BFE, POPC, ISET. -/
theorem test_words_integer :
    decodeTableWord 64 (word64 0x04 7 0 4 1 2 6 0x04 0) = some (.imad (op (.v 4) (.v 1) (.v 2) (.v 6) 0x04 0)) ∧
    decodeTableWord 64 (word64 0x10 7 0 4 6 8 0 0xC0 0) = some (.andB (op (.v 4) (.v 6) (.v 8) (.v 0) 0xC0 0)) ∧
    decodeTableWord 64 (word64 0x18 7 1 4 0x181 0x1FF 0x0CA 0xB0 1) =
      some (.shf ⟨pt, true, .v 4, .imm 1, .imm (-1), .tix, 0xB0, 1, none⟩) ∧
    decodeTableWord 64 (word64 0x19 0 0 0x0C7 0x0C8 0x0C9 0x13F 0x10 0) =
      some (.bfe ⟨⟨false, 0⟩, false, .q 7, .lr, .zr, .s 63, 0x10, 0, none⟩) ∧
    decodeTableWord 64 (word64 0x1B 7 0 4 1 0 0 0xB0 0) = some (.popc (op (.v 4) (.v 1) (.v 0) (.v 0) 0xB0 0)) ∧
    decodeTableWord 64 (word64 0x0B 7 0 3 1 2 6 0x00 9) = some (.iset (op (.v 3) (.v 1) (.v 2) (.v 6) 0x00 9)) := by
  decide

/-- Floating point, special functions, conversions, cross-thread and sparse instructions. -/
theorem test_words_float_cross :
    decodeTableWord 64 (word64 0x20 7 0 4 1 2 0 0x9A 0) = some (.fadd (op (.v 4) (.v 1) (.v 2) (.v 0) 0x9A 0)) ∧
    decodeTableWord 64 (word64 0x40 7 0 4 1 0 0 0x88 0) = some (.rcp (op (.v 4) (.v 1) (.v 0) (.v 0) 0x88 0)) ∧
    decodeTableWord 64 (word64 0x30 7 0 4 1 0 0 0x01 8) = some (.cvt (op (.v 4) (.v 1) (.v 0) (.v 0) 0x01 8)) ∧
    decodeTableWord 64 (word64 0x50 7 0 4 1 2 3 0xB0 2) = some (.shfl (op (.v 4) (.v 1) (.v 2) (.v 3) 0xB0 2)) ∧
    decodeTableWord 64 (word64 0x60 7 0 4 1 2 3 0xB0 1) = some (.isect (op (.v 4) (.v 1) (.v 2) (.v 3) 0xB0 1)) ∧
    decodeTableWord 64 (word64 0x64 7 0 0x105 0 0 0 0 0) = some (.kmov (op (.s 5) (.v 0) (.v 0) (.v 0) 0 0)) := by
  decide

/-- Control, memory, atomic, ordering and counter instructions. -/
theorem test_words_control_memory :
    decodeTableWord 64 (word64 0x70 8 1 0 0x1FE 0 0 0 0) = some (.bra ⟨⟨true, 0⟩, true, .v 0, .imm (-2), .v 0, .v 0, 0, 0, none⟩) ∧
    decodeTableWord 64 (word64 0x79 7 0 0 0 0 0 0x3F 3) = some (.waitc (op (.v 0) (.v 0) (.v 0) (.v 0) 0x3F 3)) ∧
    decodeTableWord 64 (word64 0x80 7 0 4 2 0x0C9 0 0x40 0) = some (.ld (op (.v 4) (.v 2) .zr (.v 0) 0x40 0)) ∧
    decodeTableWord 64 (word64 0x81 7 0 0 2 0x0C9 4 0x60 8) = some (.st (op (.v 0) (.v 2) .zr (.v 4) 0x60 8)) ∧
    decodeTableWord 64 (word64 0x93 7 0 0 0 0 0 0x00 0xE) = some (.fence (op (.v 0) (.v 0) (.v 0) (.v 0) 0x00 0xE)) ∧
    decodeTableWord 64 (word64 0xA0 7 0 0 0x100 0x181 0 0x00 8) = some (.cadd (op (.v 0) (.s 0) (.imm 1) (.v 0) 0x00 8)) := by
  decide

/-- Engines, matrix and system instructions; the curator's TRET.kill, and the two forms of a shared opcode. -/
theorem test_words_engines :
    decodeTableWord 64 (word64 0xD0 7 0 0 0x102 0 0 0 7) = some (.copy (op (.v 0) (.s 2) (.v 0) (.v 0) 0 7)) ∧
    decodeTableWord 64 (word64 0xD6 7 0 0 0x102 0 0 0 1) = some (.embpool (op (.v 0) (.s 2) (.v 0) (.v 0) 0 1)) ∧
    decodeTableWord 64 (word64 0xC5 7 0 15 0x102 0x104 0 0 3) = some (.msta (op (.v 15) (.s 2) (.s 4) (.v 0) 0 3)) ∧
    decodeTableWord 64 (word64 0xE3 7 0 0x101 0x102 0 0 0 1) = some (.tretKill (op (.s 1) (.s 2) (.v 0) (.v 0) 0 1)) ∧
    decodeTableWord 64 (word64 0xE1 7 0 0 0x102 0 0 0x10 0) = some (.setsysCtxpush (op (.v 0) (.s 2) (.v 0) (.v 0) 0x10 0)) ∧
    decodeTableWord 64 (word64 0x3F 7 0 0 0 0 0 0 0) = none := by
  decide

/-- Short forms; SOPC 0x3F is none. -/
theorem test_words_short :
    decodeTableWord 32 (word32 0x01 7 4 1 0) = some (.movShort ⟨pt, 0, .v 4, .v 1⟩) ∧
    decodeTableWord 32 (word32 0x16 7 4 1 2) = some (.fmulShort ⟨pt, 2, .v 4, .v 1⟩) ∧
    decodeTableWord 32 (word32 0x23 7 4 1 3) = some (.cvtShort ⟨pt, 3, .v 4, .v 1⟩) ∧
    decodeTableWord 32 (word32 0x26 7 0 0 0) = some (.retShort ⟨pt, 0, .v 0, .v 0⟩) ∧
    decodeTableWord 32 (word32 0x3F 7 0 0 0) = none := by
  decide

/-- R170: LEN 3 is no instruction; R172, R178: the all-zero word. -/
theorem test_length : decodeTableWord 32 3 = none ∧ decodeTableWord 32 0 = some (.nopShort ⟨⟨false, 0⟩, 0, .v 0, .v 0⟩) := by
  decide

/-! ### A small machine -/

/-- A warp of 16 v registers in slot 0 of lane 0 of a core, at 0x1000, all 32 threads running. -/
def warpAt (c : CoreId) : Warp where
  id := ⟨c.die, c.core, 0, 0⟩
  grp := 0
  widx := 0
  vregs := 16
  v := List.replicate 16 (VReg.uniform 0)
  q := List.replicate 8 (VReg.uniform 0)
  lr := VReg.uniform 0
  s := List.replicate 64 0
  p := List.replicate 7 0
  k := 0x7F
  exec := BitVec.allOnes 32
  fflags := 0
  splits := [⟨0x1000, .running, BitVec.allOnes 32, 0, 0⟩]
  ibufs := []
  fetching := none
  gld := 0
  gst := 0
  spm := 0
  privbase := 0x80000
  wdlimit := 0
  waitFrom := none
  progress := none
  fails := []
  readyAt := 0
  held := false
  joinCtr := none

/-- Its group: 1 warp, 2 tiles, 4 counters, 2,048 bytes of scratchpad. -/
def groupAt (c : CoreId) : Group :=
  { Group.nobody c 0 with
    wing := 0, asid := 1, ngroups := 1, res := ⟨1, 16, 2, 4, 4, 1⟩
    tiles := List.replicate 2 (List.replicate 64 (List.replicate 64 0)), ctrs := List.replicate 4 0, wptr := List.replicate 8 0 }

/-- A machine with one core, one group and one warp, which stands in the issuing slot. -/
def small (k : Core) (g : Group) (w : Warp) : State :=
  { State.reset with cores := [k], groups := [g], warps := [w], cur := w.id }

/-- A user core and a curator core of die 0. -/
def c0 : CoreId := ⟨0, 0⟩
def c16 : CoreId := ⟨0, 16⟩
def w0 : Warp := warpAt c0
def w16 : Warp := warpAt c16
def g0 : Group := groupAt c0
def g16 : Group := groupAt c16
/-- A state on each of them, with a warp of one's own. -/
def onUser (w : Warp) : State := small (Core.reset c0) g0 w
def onCurator (w : Warp) : State := small (Core.reset c16) g16 w
/-- The standard ones. -/
def s0 : State := onUser w0
def s16 : State := onCurator w16

theorem stands_user : s0.stands w0 := ⟨rfl, rfl⟩
theorem stands_curator : s16.stands w16 := ⟨rfl, rfl⟩

/-- A long form that is legal on the user core issues there. -/
theorem issues_user {opc : BitVec 8} {x : LongOp} (h : s0.longCheck w0 opc x = none) : s0.issues w0 opc x := ⟨stands_user, h⟩
/-- The same on the curator core. -/
theorem issues_curator {opc : BitVec 8} {x : LongOp} (h : s16.longCheck w16 opc x = none) : s16.issues w16 opc x :=
  ⟨stands_curator, h⟩

theorem hasCore_user (w : Warp) : (onUser w).hasCore c0 := ⟨Core.reset c0, List.mem_singleton.mpr rfl, rfl⟩
theorem hasCore_curator (w : Warp) : (onCurator w).hasCore c16 := ⟨Core.reset c16, List.mem_singleton.mpr rfl, rfl⟩

/-! ### Encoding, the step and reset -/

theorem witness_DecodeOfEncode : wellFormed (.iadd addX) = true ∧ encode (.iadd addX) ≠ [] := by decide

theorem witness_EncodeOfDecode : ∀ x, decodeWords (0x03050401 : Word).toNat (0x0000020A : Word).toNat (0 : Word).toNat ≠ .illegalEncoding x := by
  intro x h
  have : decodeWords 0x03050401 0x0000020A 0 = .iadd ⟨⟨false, 1⟩, false, .v 10, .v 3, .s 5, .v 0, 0x00, 0, none⟩ := by decide
  exact Instr.noConfusion (this.symm.trans h)

/-- The warp with 64 bytes of code in its buffer. -/
def codeWarp : Warp := { w0 with ibufs := [⟨0x1000, List.replicate 64 0⟩], takes := .once }

theorem witness_StepRunsDecoded :
    (onUser codeWarp).agenda = [] ∧ (onUser codeWarp).unitEvent = none ∧ (onUser codeWarp).lateStep = none ∧
    ({ onUser codeWarp with agenda := (onUser codeWarp).agenda.tail } : State).pickWarp = some codeWarp ∧
    (codeWarp.rotDue && codeWarp.phase == 0) = false ∧ codeWarp.needsBlock = none ∧
    (decode (codeWarp.codeBytes codeWarp.codeLen)).1 = .nopShort ⟨⟨false, 0⟩, 0, .v 0, .v 0⟩ :=
  ⟨rfl, rfl, rfl, by decide, rfl, rfl, by decide⟩

/-- The other clause: an instruction row at the head of the agenda. -/
theorem witness_StepRunsDecoded_row :
    ({ onUser codeWarp with agenda := [.nopShort ⟨pt, 0, .v 0, .v 0⟩] } : State).agenda.head? = some (.nopShort ⟨pt, 0, .v 0, .v 0⟩) ∧
    isEvent (.nopShort ⟨pt, 0, .v 0, .v 0⟩) = false ∧
    ({ onUser codeWarp with agenda := [] } : State).pickWarp = some codeWarp := ⟨rfl, rfl, by decide⟩

theorem witness_IllegalWordsTrap :
    7 % 4 = 3 ∧ s0.stands w0 ∧ s0.longCheck w0 0x1F addX = some 0x21 ∧
    s0.longCheck w0 0x00 { addX with d := .v 16 } = some 0x28 ∧ Instr.long? (.iadd { addX with d := .v 16 }) = some (0x00, { addX with d := .v 16 }) ∧
    shortReason (s0.limits w0) 0x02 ⟨pt, 0, .v 16, .v 0⟩ = some 0x28 ∧ Instr.short? (.iaddShort ⟨pt, 0, .v 16, .v 0⟩) = some (0x02, ⟨pt, 0, .v 16, .v 0⟩) :=
  ⟨rfl, stands_user, by decide, by decide, rfl, by decide, rfl⟩

theorem witness_StepKeepsMemoryForm : s0.memOk = true ∧ ({ s0 with mem := [(5, 1), (6, 2)] } : State).memOk = true := by decide

/-- The machine after reset keeps its wings apart, and so does the small machine, whose step is a next state. -/
theorem witness_StepKeepsWings : State.reset.wingsApart = true ∧ State.reset.stageOk = true ∧
    (onUser codeWarp).wingsApart = true ∧ (onUser codeWarp).stageOk = true ∧ (step (onUser codeWarp) matches .next _) = true := by
  refine ⟨by decide, by decide, by decide, by decide, rfl⟩

theorem witness_StepKeepsRegisters : ∀ w ∈ s0.warps, w.regsOk = true := by
  intro w h
  rw [List.mem_singleton.mp h]
  decide

/-- That a step of these states is a next state: the short NOP of the buffer. -/
theorem witness_step_next : (step (onUser codeWarp) matches .next _) = true := by rfl

theorem witness_MemoryReadAfterWrite : Mem.wf spmUnlisted [(5, 1), (6, 2)] = true := by decide

/-! ### The ALU and the SFU -/

/-- Every instruction of the ALU and the SFU once, with operands that are legal and, where it matters, at an edge of their range. -/
def aluCases : List Instr :=
  [.iadd addX, .isub (op (.v 15) (.v 0) (.imm (-64)) (.v 0) 0x18 0), .imul (op (.v 2) (.v 0) (.v 1) (.v 0) 0x50 0),
   .imulh (op (.v 2) (.v 0) (.v 2) (.v 0) 0x60 0), .imad (op (.v 2) (.v 0) (.v 1) (.v 4) 0x04 0), .imin (op (.v 2) (.v 0) (.v 1) (.v 0) 0x20 0),
   .imax (op (.q 7) .lr .tix (.v 0) 0x30 0), .iabs (op (.v 2) (.s 63) (.v 0) (.v 0) 0x08 0), .ineg (op (.v 2) (.v 0) (.v 0) (.v 0) 0x40 0),
   .idiv (op (.v 2) (.v 0) .zr (.v 0) 0x04 0), .lea (op (.v 4) (.v 8) (.v 9) (.v 0) 0x10 31), .iset (op (.v 7) (.v 0) (.v 1) (.v 6) 0x04 23),
   .sel (op (.v 2) (.v 0) (.v 1) (.v 7) 0xB4 0), .mov (op .lr (.imm 63) (.v 0) (.v 0) 0xB0 0), .idp4 (op (.v 2) (.v 0) (.v 1) (.v 3) 0x08 3),
   .plop (op (.v 0) (.v 1) (.v 2) (.v 7) 0xE8 0), .andB (op (.v 2) (.v 0) (.v 4) (.v 0) 0xC0 0), .orB (op (.v 2) (.v 0) (.v 1) (.v 0) 0xB0 0),
   .xorB (op (.v 2) (.v 0) (.v 1) (.v 0) 0xB0 0), .btab (op (.v 2) (.v 0) (.v 4) (.v 6) 0xCA 1), .notB (op (.v 2) (.v 0) (.v 0) (.v 0) 0xB0 0),
   .shl (op (.v 2) (.v 0) (.imm 32) (.v 0) 0xB0 0), .shr (op (.v 2) (.v 0) (.imm 63) (.v 0) 0xC0 0), .sar (op (.v 2) (.v 0) (.v 1) (.v 0) 0xB0 0),
   .shf (op (.v 2) (.v 0) (.v 1) (.imm 33) 0xB0 1), .bfe (op (.v 2) (.v 0) (.imm 31) (.imm 32) 0x00 0), .bfi (op (.v 2) (.v 0) (.v 1) (.v 3) 0xB0 0),
   .popc (op (.v 2) (.v 0) (.v 0) (.v 0) 0xC0 0), .clz (op (.v 2) (.v 0) (.v 0) (.v 0) 0xB0 0), .ctz (op (.v 2) (.v 0) (.v 0) (.v 0) 0xC0 0),
   .brev (op (.v 2) (.v 0) (.v 0) (.v 0) 0xB0 0), .fadd (op (.v 2) (.v 0) (.v 1) (.v 0) 0x80 0), .fsub (op (.v 2) (.v 0) (.v 1) (.v 0) 0x81 0),
   .fmul (op (.v 2) (.v 0) (.v 1) (.v 0) 0x82 0), .ffma (op (.v 2) (.v 0) (.v 1) (.v 3) 0x83 0), .fmin (op (.v 2) (.v 0) (.v 1) (.v 0) 0x8C 0),
   .fmax (op (.v 2) (.v 0) (.v 1) (.v 0) 0x90 0), .fset (op (.v 6) (.v 0) (.v 1) (.v 7) 0x8C 31), .fclass (op (.v 2) (.v 0) (.v 0) (.v 0) 0x80 0),
   .frnd (op (.v 2) (.v 0) (.v 0) (.v 0) 0x8B 0), .fdot2 (op (.v 2) (.v 0) (.v 1) (.v 3) 0x90 0), .fscale (op (.v 2) (.v 0) (.v 1) (.v 0) 0x80 0),
   .cvt (op (.v 2) (.v 0) (.v 0) (.v 0) 0x80 7), .rcp (op (.v 2) (.v 0) (.v 0) (.v 0) 0x80 0), .rsq (op (.v 2) (.v 0) (.v 0) (.v 0) 0x88 0),
   .sqrt (op (.v 2) (.v 0) (.v 0) (.v 0) 0x83 0), .exp2 (op (.v 2) (.v 0) (.v 0) (.v 0) 0x80 0), .log2 (op (.v 2) (.v 0) (.v 0) (.v 0) 0x80 0),
   .sin (op (.v 2) (.v 0) (.v 0) (.v 0) 0x80 0), .cos (op (.v 2) (.v 0) (.v 0) (.v 0) 0x80 0), .tanh (op (.v 2) (.v 0) (.v 0) (.v 0) 0x80 0),
   .fdiv (op (.v 2) (.v 0) (.v 1) (.v 0) 0x80 0), .cvtpk (op (.v 2) (.v 0) (.v 1) (.v 0) 0x08 0), .cvtupk (op (.v 2) (.v 0) (.v 0) (.v 0) 0x18 0)]

/-- An instruction of the ALU is met on the standard warp. -/
def aluMet (i : Instr) : Bool :=
  match i.long?, aluOf i with
  | some (opc, x), some o => s0.longCheck w0 opc x == none && o.fits w0 x
  | _, _ => false

theorem aluReady_of_met {i : Instr} (h : aluMet i = true) : ∃ x o, AluReady s0 w0 i x o := by
  unfold aluMet at h
  split at h
  · next opc x o h1 h2 =>
    rw [Bool.and_eq_true, beq_iff_eq] at h
    exact ⟨x, o, opc, h1, h2, issues_user h.1, by decide, h.2⟩
  · exact absurd h (by decide)

set_option maxRecDepth 20000 in
theorem aluCases_met : aluCases.all aluMet = true := by decide

/-- For AluCompletes, AluFrame, AluWritesDestination and each statement about an ALU or SFU instruction of any form: it is met. -/
theorem witness_AluCompletes : ∀ i ∈ aluCases, ∃ x o, AluReady s0 w0 i x o := fun i h =>
  aluReady_of_met (List.all_eq_true.mp aluCases_met i h)

theorem witness_AluFrame : ∀ i ∈ aluCases, ∃ x o, AluReady s0 w0 i x o := witness_AluCompletes

/-- The warp-once form with an s destination, and a guard that passes in no thread. -/
theorem witness_AluCompletes_once :
    AluReady s0 w0 (.iadd { addX with w := true, d := .s 3 }) { addX with w := true, d := .s 3 } (aluIadd { addX with w := true, d := .s 3 }) ∧
    AluReady s0 w0 (.iadd { addX with g := ⟨true, 7⟩ }) { addX with g := ⟨true, 7⟩ } (aluIadd { addX with g := ⟨true, 7⟩ }) :=
  ⟨⟨0x00, rfl, rfl, issues_user (by decide), by decide, by decide⟩, 0x00, rfl, rfl, issues_user (by decide), by decide, by decide⟩

/-- The short forms, in their table's order. -/
def shortCases : List Instr :=
  let x : ShortOp := ⟨pt, 0, .v 2, .v 1⟩
  [.movShort x, .iaddShort x, .isubShort x, .imulShort x, .iminShort x, .imaxShort x, .inegShort x, .iabsShort x, .andShort x, .orShort x,
   .xorShort x, .notShort x, .shlShort x, .shrShort x, .sarShort x, .popcShort x, .clzShort x, .ctzShort x, .brevShort x, .faddShort x,
   .fsubShort x, .fmulShort x, .fminShort x, .fmaxShort x, .faddPackedShort x, .fmulPackedShort x, .rcpShort x, .rsqShort x, .sqrtShort x,
   .exp2Short x, .log2Short x, .sinShort x, .cosShort x, .tanhShort x, .cvtShort x]

/-- A short form is met. -/
def shortMet (i : Instr) : Bool :=
  match i.short?, longFormOf i with
  | some (sopc, y), some j =>
    match j.long?, aluOf j with
    | some (_, x), some o => shortReason ⟨false, 16, 2⟩ sopc y == none && o.fits w0 x
    | _, _ => false
  | _, _ => false

set_option maxRecDepth 20000 in
theorem shortCases_met : shortCases.all shortMet = true := by decide

theorem witness_ShortFormsComplete : ∀ i ∈ shortCases, ∃ j sopc y opc x o, i.short? = some (sopc, y) ∧ longFormOf i = some j ∧
    j.long? = some (opc, x) ∧ aluOf j = some o ∧ s0.issuesShort w0 sopc y ∧ o.fits w0 x = true := by
  intro i hi
  have h := List.all_eq_true.mp shortCases_met i hi
  unfold shortMet at h
  split at h
  · next sopc y j h1 h2 =>
    split at h
    · next opc x o h3 h4 =>
      rw [Bool.and_eq_true, beq_iff_eq] at h
      exact ⟨j, sopc, y, opc, x, o, h1, h2, h3, h4, ⟨stands_user, h.1⟩, h.2⟩
    · exact absurd h (by decide)
  · exact absurd h (by decide)

/-- A warp whose v 0 differs between threads. -/
def wDiv : Warp := { w0 with v := (w0.v.set 0 ⟨.general, (List.range 32).map (BitVec.ofNat 32)⟩) }
/-- A warp whose v 0 holds in thread 3 the address 0x2002, and elsewhere 0x2000. -/
def wOdd : Warp := { w0 with v := w0.v.set 0 ⟨.general, (List.range 32).map fun t => if t = 3 then 0x2002 else 0x2000⟩ }
/-- A warp with p0 set in its even threads only. -/
def wGuard : Warp := { w0 with p := w0.p.set 0 0x55555555 }

/-- RET v0. -/
def retX : LongOp := op (.v 0) (.v 0) (.v 0) (.v 0) 0 0

/-- R148 where a source is not uniform, R149 where a cross-thread destination is an s register, R346 with a divergent guard and with divergent
targets, R354 with a misaligned target in thread 3. -/
theorem witness_OperandTraps :
    (let x : LongOp := { addX with w := true }
     Instr.long? (.iadd x) = some (0x00, x) ∧ (onUser wDiv).issues wDiv 0x00 x ∧ (aluIadd x).fits wDiv x = false) ∧
    (let x : LongOp := op (.s 3) (.v 0) (.v 0) (.v 0) 0 0
     Instr.long? (.elect x) = some (0x56, x) ∧ s0.issues w0 0x56 x ∧ (crossElect x).hasD = true ∧ selIsS x.d = true) ∧
    (let x : LongOp := { op (.v 0) (.imm 2) (.v 0) (.v 0) 0 0 with g := ⟨false, 0⟩, w := true }
     ControlReady (onUser wGuard) wGuard (.bra x) 0x70 x 8 ∧ wGuard.passing x ≠ 0 ∧ wGuard.passing x ≠ wGuard.splitMask) ∧
    (let x : LongOp := { retX with w := true }
     ControlReady (onUser wOdd) wOdd (.ret x) 0x73 x 8 ∧ (wOdd.passing x).getLsbD 2 = true ∧ (wOdd.passing x).getLsbD 3 = true ∧
       wOdd.target 0x73 x 2 ≠ wOdd.target 0x73 x 3) ∧
    (ControlReady (onUser wOdd) wOdd (.ret retX) 0x73 retX 8 ∧ targetInPair 0x73 retX = true ∧ (wOdd.branching retX).getLsbD 3 = true ∧
      wOdd.target 0x73 retX 3 % 4 ≠ 0 ∧ ∀ u, u < 3 → (wOdd.branching retX).getLsbD u = true → wOdd.target 0x73 retX u % 4 = 0) :=
  ⟨⟨rfl, ⟨⟨rfl, rfl⟩, by decide⟩, by decide⟩, ⟨rfl, issues_user (by decide), rfl, rfl⟩,
    ⟨.inl ⟨rfl, ⟨⟨rfl, rfl⟩, by decide⟩, rfl⟩, by decide, by decide⟩,
    ⟨.inl ⟨rfl, ⟨⟨rfl, rfl⟩, by decide⟩, rfl⟩, by decide, by decide, by decide⟩,
    .inl ⟨rfl, ⟨⟨rfl, rfl⟩, by decide⟩, rfl⟩, by decide, by decide, by decide, by decide⟩

/-- An ALU instruction with a register destination, with tags that say the truth; a predicate destination is the other form. -/
theorem witness_AluWritesDestination : AluReady s0 w0 (.iadd addX) addX (aluIadd addX) ∧ (aluIadd addX).pdst = false :=
  ⟨⟨0x00, rfl, rfl, issues_user (by decide), by decide, by decide⟩, rfl⟩
theorem witness_ShapeTagsStayTrue : AluReady s0 w0 (.iadd addX) addX (aluIadd addX) ∧ w0.tagsTrue = true :=
  ⟨⟨0x00, rfl, rfl, issues_user (by decide), by decide, by decide⟩, by decide⟩

/-- An instruction of the ALU that is legal and whose request is met is ready. -/
theorem alu (w : Warp) {i : Instr} {opc : BitVec 8} {x : LongOp} {o : Alu} (h1 : i.long? = some (opc, x)) (h2 : aluOf i = some o)
    (h3 : (onUser w).issues w opc x) (h4 : w.regsOk = true) (h5 : o.fits w x = true) : AluReady (onUser w) w i x o :=
  ⟨opc, h1, h2, h3, h4, h5⟩

/-- Eight of the first nine cases have an element function (the ninth is IMAD.wide), and an IMAD without `.wide` has one. -/
theorem witness_IntegerElements :
    ((aluCases.take 9).filter fun i => (elementOf i).isSome).length = 8 ∧
    (let x := op (.v 2) (.v 0) (.v 1) (.v 3) 0x08 0
     AluReady s0 w0 (.imad x) x (aluImad x) ∧ (elementOf (.imad x)).isSome = true) :=
  ⟨by decide, alu w0 rfl rfl ⟨⟨rfl, rfl⟩, by decide⟩ (by decide) (by decide), rfl⟩

theorem witness_WideDivideDotMoveSelect :
    (let x := op (.v 2) (.v 0) (.v 1) (.v 4) 0x04 0
     AluReady s0 w0 (.imad x) x (aluImad x) ∧ fnBit2 x.fn = true) ∧
    (let x := op (.v 4) (.v 8) (.v 9) (.v 0) 0x10 31
     AluReady s0 w0 (.lea x) x (aluLea x)) ∧
    (let x := op (.v 2) (.v 0) .zr (.v 0) 0x04 0
     AluReady s0 w0 (.idiv x) x (aluIdiv x)) ∧
    (let x := op (.v 2) (.v 0) (.v 1) (.v 3) 0x08 3
     AluReady s0 w0 (.idp4 x) x (aluIdp4 x)) ∧
    (let x := op .lr (.imm 63) (.v 0) (.v 0) 0xB0 0
     AluReady s0 w0 (.mov x) x (aluMov x)) ∧
    (let x := op (.v 2) (.v 0) (.v 1) (.v 7) 0xB4 0
     AluReady s0 w0 (.sel x) x (aluSel x)) :=
  ⟨⟨alu w0 rfl rfl ⟨⟨rfl, rfl⟩, by decide⟩ (by decide) (by decide), rfl⟩,
    alu w0 rfl rfl ⟨⟨rfl, rfl⟩, by decide⟩ (by decide) (by decide), alu w0 rfl rfl ⟨⟨rfl, rfl⟩, by decide⟩ (by decide) (by decide),
    alu w0 rfl rfl ⟨⟨rfl, rfl⟩, by decide⟩ (by decide) (by decide), alu w0 rfl rfl ⟨⟨rfl, rfl⟩, by decide⟩ (by decide) (by decide),
    alu w0 rfl rfl ⟨⟨rfl, rfl⟩, by decide⟩ (by decide) (by decide)⟩

/-- ISET and PLOP, and of the cases the five logic instructions, which have a bit function. -/
theorem witness_CompareTableAndLogic :
    (let x := op (.v 7) (.v 0) (.v 1) (.v 6) 0x04 23
     AluReady s0 w0 (.iset x) x (aluIset x)) ∧
    (let x := op (.v 0) (.v 1) (.v 2) (.v 7) 0xE8 0
     AluReady s0 w0 (.plop x) x (aluPlop x)) ∧
    (((aluCases.drop 16).take 5).all fun i => (logicOf i).isSome && aluMet i) = true :=
  ⟨alu w0 rfl rfl ⟨⟨rfl, rfl⟩, by decide⟩ (by decide) (by decide), alu w0 rfl rfl ⟨⟨rfl, rfl⟩, by decide⟩ (by decide) (by decide), by decide⟩

/-- SHL to BREV are met, among them a shift by 32, one by 63, one in a register, a length of 32 and a count of 33. -/
theorem witness_ShiftsFieldsCounts : (((aluCases.drop 21).take 10).all aluMet) = true := by decide

/-- A warp whose v registers hold FP32 values, each uniform: the largest finite, the least subnormal, 1, -1, +0, -0, +infinity, -infinity, a
quiet NaN, a signalling NaN and 2^23 + 1/2 of it. -/
def wF : Warp :=
  { w0 with v := [0x7F7FFFFF, 0x00000001, 0x3F800000, 0xBF800000, 0x00000000, 0x80000000, 0x7F800000, 0xFF800000, 0x7FC00000, 0x7F800001,
      0x4B000001, 0, 0, 0, 0, 0].map VReg.uniform }

/-- Each of FADD, FSUB, FMUL, FFMA, FSCALE, FDIV by 2^-149 and CVT from s64, on the largest finite value. -/
theorem witness_FloatRounding :
    (let x := op (.v 12) (.v 0) (.v 1) (.v 2) 0x80 0
     let y := op (.v 12) (.v 0) (.v 1) (.v 0) 0x82 0
     let z := op (.v 12) (.v 4) (.v 0) (.v 0) 0x80 6
     AluReady (onUser wF) wF (.ffma x) x (aluFfma x) ∧ AluReady (onUser wF) wF (.fadd y) y (aluFadd y) ∧
     AluReady (onUser wF) wF (.fsub y) y (aluFsub y) ∧ AluReady (onUser wF) wF (.fmul y) y (aluFmul y) ∧
     AluReady (onUser wF) wF (.fdiv y) y (aluFdiv y) ∧ AluReady (onUser wF) wF (.fscale y) y (aluFscale y) ∧
     AluReady (onUser wF) wF (.cvt z) z (aluCvt z) ∧
     tyOf x.fn = 8 ∧ fnBit3 x.fn = false ∧ tyOf y.fn = 8 ∧ fnBit3 y.fn = false ∧ tyOf z.fn = 8 ∧ fnBit3 z.fn = false ∧ z.fn2.toNat % 16 ≤ 7) ∧
    f32Finite (wF.src none .f32 (.v 0) 0).lo.toNat = true ∧ f32Finite (wF.src none .f32 (.v 1) 0).lo.toNat = true ∧
    f32Finite (wF.src none .f32 (.v 2) 0).lo.toNat = true ∧ 0 < f32Units (wF.src none .f32 (.v 1) 0).lo.toNat ∧
    (let x := op (.v 12) (.v 10) (.v 10) (.v 10) 0x90 0
     let y := op (.v 12) (.v 10) (.v 10) (.v 2) 0x90 0
     let z := op (.v 12) (.v 1) (.v 0) (.v 0) 0x80 0
     let t := op (.v 12) (.v 10) (.v 10) (.v 0) 0x90 0
     AluReady (onUser wF) wF (.ffma x) x (aluFfma x) ∧ AluReady (onUser wF) wF (.fadd t) t (aluFadd t) ∧
     AluReady (onUser wF) wF (.fsub t) t (aluFsub t) ∧ AluReady (onUser wF) wF (.fmul t) t (aluFmul t) ∧
     AluReady (onUser wF) wF (.fdot2 y) y (aluFdot2 y) ∧ AluReady (onUser wF) wF (.sqrt z) z (aluSqrt z) ∧ tyOf x.fn = 9 ∧ neT 9 = 2 ∧
     ∀ j < 2, (fmtOf 9).finite (fbits 9 (wF.src none (srcF 9) (.v 10) 0) j) = true) :=
  ⟨⟨alu wF rfl rfl ⟨⟨rfl, rfl⟩, by decide⟩ (by decide) (by decide), alu wF rfl rfl ⟨⟨rfl, rfl⟩, by decide⟩ (by decide) (by decide),
    alu wF rfl rfl ⟨⟨rfl, rfl⟩, by decide⟩ (by decide) (by decide), alu wF rfl rfl ⟨⟨rfl, rfl⟩, by decide⟩ (by decide) (by decide),
    alu wF rfl rfl ⟨⟨rfl, rfl⟩, by decide⟩ (by decide) (by decide), alu wF rfl rfl ⟨⟨rfl, rfl⟩, by decide⟩ (by decide) (by decide),
    alu wF rfl rfl ⟨⟨rfl, rfl⟩, by decide⟩ (by decide) (by decide), by decide⟩, by decide, by decide, by decide, by decide,
    alu wF rfl rfl ⟨⟨rfl, rfl⟩, by decide⟩ (by decide) (by decide), alu wF rfl rfl ⟨⟨rfl, rfl⟩, by decide⟩ (by decide) (by decide),
    alu wF rfl rfl ⟨⟨rfl, rfl⟩, by decide⟩ (by decide) (by decide), alu wF rfl rfl ⟨⟨rfl, rfl⟩, by decide⟩ (by decide) (by decide),
    alu wF rfl rfl ⟨⟨rfl, rfl⟩, by decide⟩ (by decide) (by decide), alu wF rfl rfl ⟨⟨rfl, rfl⟩, by decide⟩ (by decide) (by decide), by decide, by decide, by decide⟩

/-- FADD of infinities of opposite sign, FMUL of zero by infinity and FFMA with a signalling NaN; FMIN, FSET and FCLASS. -/
theorem witness_FloatInvalid :
    (let x := op (.v 12) (.v 6) (.v 7) (.v 9) 0x80 0
     let y := op (.v 12) (.v 6) (.v 7) (.v 0) 0x80 0
     AluReady (onUser wF) wF (.fadd y) y (aluFadd y) ∧ AluReady (onUser wF) wF (.ffma x) x (aluFfma x) ∧
     fp32.isInf (fbits 8 (wF.src none .f32 (.v 6) 0) 0) = true ∧ fp32.isInf (fbits 8 (wF.src none .f32 (.v 7) 0) 0) = true ∧
     fp32.isSnan (fbits 8 (wF.src none .f32 (.v 9) 0) 0) = true) ∧
    (let x := op (.v 12) (.v 4) (.v 7) (.v 0) 0x80 0
     AluReady (onUser wF) wF (.fmul x) x (aluFmul x)) ∧
    (let x := op (.v 12) (.v 9) (.v 6) (.v 7) 0x90 0
     let t := op (.v 12) (.v 9) (.v 6) (.v 0) 0x90 0
     AluReady (onUser wF) wF (.fmul t) t (aluFmul t) ∧ AluReady (onUser wF) wF (.fdot2 x) x (aluFdot2 x) ∧
     (fmtOf 9).isNan (fbits 9 (wF.src none (srcF 9) (.v 9) 0) 1) = true ∧ fp32.isInf (wF.src none .f32 (.v 7) 0).lo.toNat = true) :=
  ⟨⟨alu wF rfl rfl ⟨⟨rfl, rfl⟩, by decide⟩ (by decide) (by decide), alu wF rfl rfl ⟨⟨rfl, rfl⟩, by decide⟩ (by decide) (by decide),
    by decide, by decide, by decide⟩, alu wF rfl rfl ⟨⟨rfl, rfl⟩, by decide⟩ (by decide) (by decide),
    alu wF rfl rfl ⟨⟨rfl, rfl⟩, by decide⟩ (by decide) (by decide), alu wF rfl rfl ⟨⟨rfl, rfl⟩, by decide⟩ (by decide) (by decide), by decide, by decide⟩
theorem witness_FloatOrderAndClass :
    (let x := op (.v 12) (.v 4) (.v 5) (.v 0) 0x8C 0
     AluReady (onUser wF) wF (.fmin x) x (aluFmin x) ∧ AluReady (onUser wF) wF (.fmax x) x (aluFmax x)) ∧
    (let x := op (.v 6) (.v 8) (.v 9) (.v 7) 0x8C 31
     AluReady (onUser wF) wF (.fset x) x (aluFset x)) ∧
    (let x := op (.v 12) (.v 5) (.v 0) (.v 0) 0x80 0
     AluReady (onUser wF) wF (.fclass x) x (aluFclass x)) :=
  ⟨⟨alu wF rfl rfl ⟨⟨rfl, rfl⟩, by decide⟩ (by decide) (by decide), alu wF rfl rfl ⟨⟨rfl, rfl⟩, by decide⟩ (by decide) (by decide)⟩,
    alu wF rfl rfl ⟨⟨rfl, rfl⟩, by decide⟩ (by decide) (by decide), alu wF rfl rfl ⟨⟨rfl, rfl⟩, by decide⟩ (by decide) (by decide)⟩

/-- FRND and CVT to s32 of a NaN, of an infinity and of a finite value beyond the range. -/
theorem witness_FloatConversions :
    (∀ a : Fin 10, let x := op (.v 12) (.v ⟨a.val, by omega⟩) (.v 0) (.v 0) 0x80 0
      AluReady (onUser wF) wF (.frnd x) x (aluFrnd x)) ∧
    (∀ a : Fin 10, let x := op (.v 12) (.v ⟨a.val, by omega⟩) (.v 0) (.v 0) 0x01 8
      AluReady (onUser wF) wF (.cvt x) x (aluCvt x) ∧ x.fn2.toNat % 16 = 8) ∧
    fp32.isNan (wF.src none .f32 (.v 8) 0).lo.toNat = true ∧ fp32.isInf (wF.src none .f32 (.v 7) 0).lo.toNat = true ∧
    f32Finite (wF.src none .f32 (.v 0) 0).lo.toNat = true ∧
    (let x := op (.v 12) (.v 10) (.v 0) (.v 0) 0x80 9
     let y := op (.v 12) (.v 10) (.v 0) (.v 0) 0x90 10
     let z := op (.v 12) (.v 10) (.v 9) (.v 0) 0x00 0
     let u := op (.v 12) (.v 10) (.v 0) (.v 0) 0x00 0
     AluReady (onUser wF) wF (.cvt x) x (aluCvt x) ∧ tyOf x.fn = 8 ∧ x.fn2.toNat % 16 = 9 ∧
     AluReady (onUser wF) wF (.cvt y) y (aluCvt y) ∧ tyOf y.fn = 9 ∧ y.fn2.toNat % 16 = 10 ∧
     AluReady (onUser wF) wF (.cvtpk z) z (aluCvtpk z) ∧ AluReady (onUser wF) wF (.cvtupk u) u (aluCvtupk u) ∧ tyOf z.fn = 0) :=
  ⟨fun a => alu wF rfl rfl ⟨⟨rfl, rfl⟩, by revert a; decide⟩ (by decide) (by revert a; decide),
    fun a => ⟨alu wF rfl rfl ⟨⟨rfl, rfl⟩, by revert a; decide⟩ (by decide) (by revert a; decide), rfl⟩, by decide, by decide, by decide,
    alu wF rfl rfl ⟨⟨rfl, rfl⟩, by decide⟩ (by decide) (by decide), by decide, by decide, alu wF rfl rfl ⟨⟨rfl, rfl⟩, by decide⟩ (by decide) (by decide), by decide, by decide,
    alu wF rfl rfl ⟨⟨rfl, rfl⟩, by decide⟩ (by decide) (by decide), alu wF rfl rfl ⟨⟨rfl, rfl⟩, by decide⟩ (by decide) (by decide), by decide⟩

/-- The SFU's instructions are met on each of these values, and the values are of the kinds that R223 lists. -/
theorem witness_SpecialFunctionTable :
    (((aluCases.drop 43).take 9).all aluMet) = true ∧
    (let a n := fp32.asRead false (wF.src none .f32 (.v n) 0).lo.toNat
     fp32.isNan (a 9) = true ∧ a 7 = 0xFF800000 ∧ (f32Finite (a 3) = true ∧ f32Units (a 3) < 0) ∧ fp32.mag (a 5) = 0 ∧ a 6 = 0x7F800000 ∧
     (f32Finite (a 0) = true ∧ fp32.mag (a 0) ≠ 0 ∧ fp32.mag (a 4) = 0) ∧ (fp32.isInf (a 6) = true ∧ fp32.isInf (a 7) = true)) ∧
    (let x := op (.v 12) (.v 0) (.v 4) (.v 0) 0x80 0
     AluReady (onUser wF) wF (.fdiv x) x (aluFdiv x)) ∧
    ∀ a : Fin 10, let x := op (.v 12) (.v ⟨a.val, by omega⟩) (.v 0) (.v 0) 0x80 0
      AluReady (onUser wF) wF (.rcp x) x (aluRcp x) ∧ AluReady (onUser wF) wF (.tanh x) x (aluTanh x) :=
  ⟨by decide, by decide, alu wF rfl rfl ⟨⟨rfl, rfl⟩, by decide⟩ (by decide) (by decide),
    fun a => ⟨alu wF rfl rfl ⟨⟨rfl, rfl⟩, by revert a; decide⟩ (by decide) (by revert a; decide),
      alu wF rfl rfl ⟨⟨rfl, rfl⟩, by revert a; decide⟩ (by decide) (by revert a; decide)⟩⟩

/-! ### Cross-thread instructions, tile predicates and control -/

/-- Each cross-thread, sparse and tree instruction, in each of its functions. -/
def crossCases : List Instr :=
  [.shfl (op (.v 2) (.v 0) (.v 1) (.v 3) 0xB0 0), .shfl (op (.v 2) (.v 0) (.imm 31) (.v 3) 0xC0 1), .shfl (op (.v 2) (.v 0) (.imm 32) (.v 7) 0xB0 2),
   .shfl (op (.q 0) (.v 0) (.imm 16) (.v 3) 0xB0 3), .poll (op (.v 2) (.v 0) (.v 0) (.v 0) 0x00 0), .poll (op (.v 2) (.v 0) (.v 0) (.v 0) 0x04 1),
   .poll (op (.v 6) (.v 7) (.v 0) (.v 0) 0x00 2), .poll (op (.v 6) (.v 0) (.v 0) (.v 0) 0x00 3), .redx (op (.v 2) (.v 0) (.v 0) (.v 0) 0x00 0),
   .redx (op (.v 2) (.v 0) (.v 0) (.v 0) 0xB0 5), .redxi (op (.v 2) (.v 0) (.v 1) (.v 0) 0x10 0), .redxi (op (.v 2) (.v 0) (.v 1) (.v 0) 0x00 1),
   .scan (op (.v 2) (.v 0) (.v 0) (.v 0) 0x00 9), .scan (op (.v 2) (.v 0) (.v 0) (.v 0) 0xB0 4), .matchT (op (.v 2) (.v 0) (.v 0) (.v 0) 0xC0 0),
   .matchT (op (.v 2) (.v 0) (.v 0) (.v 5) 0xB0 1), .elect (op (.v 2) (.v 0) (.v 0) (.v 5) 0 0), .isect (op (.v 2) (.v 0) (.v 1) (.imm 31) 0xB0 0),
   .isect (op (.v 2) (.v 0) (.v 1) (.imm 32) 0xB0 1), .brank (op (.v 2) (.v 0) (.imm 32) (.v 3) 0xB0 0), .brank (op (.v 2) (.v 0) (.imm 31) (.v 3) 0xB0 1),
   .treestep (op (.v 2) (.v 4) (.v 1) (.v 5) 0 0), .redx (op (.v 2) (.v 0) (.v 0) (.v 0) 0x80 0), .redx (op (.v 2) (.v 0) (.v 0) (.v 0) 0x80 2),
   .scan (op (.v 2) (.v 0) (.v 0) (.v 0) 0x80 9)]

/-- A cross-thread instruction is met. -/
def crossMet (i : Instr) : Bool :=
  match i.long?, crossOf i with
  | some (opc, x), some o => s0.longCheck w0 opc x == none && (o.hasD && selIsS x.d) == false
  | _, _ => false

set_option maxRecDepth 20000 in
theorem crossCases_met : crossCases.all crossMet = true := by decide

/-- For CrossCompletes, ShuffleVoteMatchElect, FoldsAndBestPair and BitmapsAndTrees. -/
theorem witness_CrossCompletes : ∀ i ∈ crossCases, ∃ x o, CrossReady s0 w0 i x o := by
  intro i hi
  have h := List.all_eq_true.mp crossCases_met i hi
  unfold crossMet at h
  split at h
  · next opc x o h1 h2 =>
    rw [Bool.and_eq_true, beq_iff_eq, beq_iff_eq] at h
    exact ⟨x, o, opc, h1, h2, issues_user h.1, by decide, h.2⟩
  · exact absurd h (by decide)
theorem witness_ShuffleVoteMatchElect : (crossCases.take 8 ++ (crossCases.drop 14).take 3).all crossMet = true ∧
    w0.active pt ≠ 0 ∧ (∀ x : LongOp, op (.v 2) (.v 0) (.v 0) (.v 5) 0xB0 1 = x → x.fn2 = 1) := by
  refine ⟨by decide, by decide, ?_⟩
  rintro x rfl
  rfl
theorem witness_FoldsAndBestPair : ((crossCases.drop 8).take 6 ++ crossCases.drop 22).all crossMet = true ∧ tyOf (0x00 : BitVec 8) ≠ 8 ∧
    tyOf (0xB0 : BitVec 8) ≠ 8 ∧ tyOf (0x80 : BitVec 8) = 8 ∧ (w0.active pt).getLsbD 0 = true ∧ threadsBelow (w0.active pt) 0 = [] ∧
    (threadsBelow (w0.active pt) 1).getLast? = some 0 := by
  decide
theorem witness_BitmapsAndTrees : ((crossCases.drop 17).take 5).all crossMet = true := by decide

theorem witness_TilePredicates :
    s0.issues w0 0x63 (op (.v 6) (.v 7) (.v 0) (.v 0) 0x04 1) ∧ s0.issues w0 0x63 (op (.v 7) (.v 0) (.v 0) (.v 0) 0x00 0) ∧
    s0.issues w0 0x64 (op (.s 63) (.v 0) (.v 0) (.v 0) 0 0) ∧ s0.issues w0 0x64 (op (.v 0) (.imm 63) (.v 0) (.v 0) 0 1) ∧ w0.regsOk = true :=
  ⟨issues_user (by decide), issues_user (by decide), issues_user (by decide), issues_user (by decide), by decide⟩

/-- A split. -/
def sp (pc : Nat) (st : SplitSt) (m : Mask) : Split := ⟨pc, st, m, 0, 0⟩
/-- The standard warp with other splits. -/
def wS (l : List Split) : Warp := { w0 with splits := l }

/-- A long control instruction that is legal is ready. -/
theorem control (w : Warp) {i : Instr} {opc : BitVec 8} {x : LongOp} (h1 : i.long? = some (opc, x)) (h2 : (onUser w).issues w opc x) :
    ControlReady (onUser w) w i opc x (longLen x) := .inl ⟨h1, h2, rfl⟩

/-- What BranchesDivideTheSplit asks of the running split beside readiness, for a list that the table holds. -/
def BranchOk (w : Warp) (opc : BitVec 8) (x : LongOp) (pre post : List Split) (p : Split) : Prop :=
  w.regsOk = true ∧ w.splits = pre ++ p :: post ∧ p.st = .running ∧ (∀ o ∈ pre, o.st ≠ .running) ∧ p.mask ≠ 0 ∧
  (targetInPair opc x = true → ∀ t : Fin 32, (w.branching x).getLsbD t = true → w.target opc x t % 4 = 0) ∧
  (x.w = true → (w.passing x = 0 ∨ w.passing x = p.mask) ∧ ∀ t u : Fin 32, w.target opc x t = w.target opc x u) ∧
  (pre ++ p :: post).length + (w.branchParts opc x 8).length ≤ 9

/-- BRA under a guard that half of the threads pass, behind six other splits, so that the list then fills the table's 8 entries; BRX, CALL.x and
RET to a pair, CALL, and the `.u` form; the short RET. -/
theorem witness_BranchesDivideTheSplit :
    (let w := { wGuard with splits := List.replicate 6 (sp 0x2000 .ready 0) ++ [sp 0x1000 .running (BitVec.allOnes 32)] }
     let x : LongOp := { op (.v 0) (.imm 2) (.v 0) (.v 0) 0 0 with g := ⟨false, 0⟩ }
     ControlReady (onUser w) w (.bra x) 0x70 x 8 ∧
     BranchOk w 0x70 x (List.replicate 6 (sp 0x2000 .ready 0)) [] (sp 0x1000 .running (BitVec.allOnes 32)) ∧ (w.branchParts 0x70 x 8).length = 2) ∧
    (let x := op (.v 0) (.v 0) (.v 0) (.v 0) 0 0
     let y := op (.v 2) (.v 0) (.v 0) (.v 0) 0 1
     let z := op (.v 2) (.imm (-1)) (.v 0) (.v 0) 0 0
     let p := sp 0x1000 .running (BitVec.allOnes 32)
     ControlReady s0 w0 (.brx x) 0x71 x 8 ∧ BranchOk w0 0x71 x [] [] p ∧ ControlReady s0 w0 (.call y) 0x72 y 8 ∧ BranchOk w0 0x72 y [] [] p ∧
     ControlReady s0 w0 (.call z) 0x72 z 8 ∧ BranchOk w0 0x72 z [] [] p ∧ ControlReady s0 w0 (.ret x) 0x73 x 8 ∧ BranchOk w0 0x73 x [] [] p ∧
     ControlReady s0 w0 (.ret { x with w := true }) 0x73 { x with w := true } 8 ∧ BranchOk w0 0x73 { x with w := true } [] [] p) ∧
    ∃ x, ControlReady s0 w0 (.retShort ⟨pt, 0, .v 0, .v 0⟩) 0x73 x 4 :=
  ⟨⟨control _ rfl ⟨⟨rfl, rfl⟩, by decide⟩, ⟨by decide, rfl, rfl, by decide, by decide, by decide, by decide, by decide⟩, by decide⟩,
    ⟨control w0 rfl (issues_user (by decide)), ⟨by decide, rfl, rfl, by decide, by decide, by decide, by decide, by decide⟩,
      control w0 rfl (issues_user (by decide)), ⟨by decide, rfl, rfl, by decide, by decide, by decide, by decide, by decide⟩,
      control w0 rfl (issues_user (by decide)), ⟨by decide, rfl, rfl, by decide, by decide, by decide, by decide, by decide⟩,
      control w0 rfl (issues_user (by decide)), ⟨by decide, rfl, rfl, by decide, by decide, by decide, by decide, by decide⟩,
      control w0 rfl (issues_user (by decide)), ⟨by decide, rfl, rfl, by decide, by decide, by decide, by decide, by decide⟩⟩,
    _, .inr ⟨0x26, ⟨pt, 0, .v 0, .v 0⟩, ⟨0x73, .none, [(0x00, 0)]⟩, rfl, rfl, rfl, ⟨stands_user, by decide⟩, rfl, rfl⟩⟩

/-- NOP; each instruction under a guard that does not pass; EXEC in its four forms; WAITC met with a count of 63 and not met; SLEEP. -/
theorem witness_ControlEffects :
    (let x := op (.v 0) (.v 0) (.v 0) (.v 0) 0 0
     let n : LongOp := { x with g := ⟨true, 7⟩ }
     ControlReady s0 w0 (.nop x) 0x78 x 8 ∧ w0.acts n.g = false ∧ ControlReady s0 w0 (.reconv n) 0x74 n 8 ∧
     ControlReady s0 w0 (.yield n) 0x75 n 8 ∧ ControlReady s0 w0 (.waitc n) 0x79 n 8 ∧
     ControlReady s0 w0 (.trap { n with a := .imm 0 }) 0x7A { n with a := .imm 0 } 8) ∧
    (w0.acts pt = true ∧ s0.issues w0 0x77 (op (.v 0) .zr (.v 0) (.v 0) 0 0) ∧ s0.issues w0 0x77 (op (.v 0) (.imm (-1)) (.v 0) (.v 0) 0 1) ∧
     s0.issues w0 0x77 (op (.v 0) (.s 63) (.v 0) (.v 0) 0 2) ∧ s0.issues w0 0x77 (op (.s 63) (.v 0) (.v 0) (.v 0) 0 3)) ∧
    (let w := { w0 with gld := 63, gst := 1 }
     let x := op (.v 0) (.v 0) (.v 0) (.v 0) 0x3F 3
     let y := op (.v 0) (.v 0) (.v 0) (.v 0) 0 1
     (onUser w).issues w 0x79 x ∧ w.acts x.g = true ∧ w.gld ≤ x.fn.toNat ∧ (onUser w).issues w 0x79 y ∧ ¬ w.gst ≤ y.fn.toNat) ∧
    s0.issues w0 0x7C (op (.v 0) .zr (.v 0) (.v 0) 0 0) :=
  ⟨⟨control w0 rfl (issues_user (by decide)), by decide, control w0 rfl (issues_user (by decide)), control w0 rfl (issues_user (by decide)),
      control w0 rfl (issues_user (by decide)), control w0 rfl (issues_user (by decide))⟩,
    ⟨by decide, issues_user (by decide), issues_user (by decide), issues_user (by decide), issues_user (by decide)⟩,
    ⟨⟨⟨rfl, rfl⟩, by decide⟩, by decide, by decide, ⟨⟨rfl, rfl⟩, by decide⟩, by decide⟩, issues_user (by decide)⟩

/-- Two splits, the second of them ready. -/
def pA : Split := sp 0x1000 .running 0x0000FFFF
def pB : Split := sp 0x2000 .ready 0xFFFF0000
def noX : LongOp := op (.v 0) (.v 0) (.v 0) (.v 0) 0 0

theorem witness_YieldRotatesTheList :
    ControlReady (onUser (wS [pA, pB])) (wS [pA, pB]) (.yield noX) 0x75 noX 8 ∧ (wS [pA, pB]).acts noX.g = true ∧
    (wS [pA, pB]).splits = [] ++ pA :: [pB] ∧ pA.st = .running ∧ (∀ o ∈ ([] : List Split) ++ [pB], o.st ≠ .running ∧ o.stalls = false) ∧
    (let l := ([] : List Split) ++ [pB] ++ [{ pA with pc := (pA.pc + 8) % 2 ^ 64, st := .ready, rot := 0, phase := 0 }]
     (∃ q : Split, l[0]? = some q ∧ q.st = .ready) ∧ (∀ (j : Nat) (q : Split), j < 0 → l[j]? = some q → q.st ≠ .ready) ∧
     (onUser (wS [pA, pB])).splitsFit (wS [pA, pB]) (l.mapIdx fun j q => if j = 0 then { q with st := .running, rot := 0 } else q)) :=
  ⟨control _ rfl ⟨⟨rfl, rfl⟩, by decide⟩, by decide, rfl, rfl, by decide, ⟨pB, rfl, rfl⟩, fun _ _ h => absurd h (Nat.not_lt_zero _), rfl⟩

/-- A split that waits at RECONV with token 15. -/
def pR : Split := sp 0x2000 (.reconv 15) 0xFFFF0000
def recX : LongOp := { noX with fn := 15 }

/-- The first ready split runs, where another is ready; and two splits at token 15 merge, where none is. -/
theorem witness_ReconvergenceMerges :
    ((onUser (wS [pA, pB])).issues (wS [pA, pB]) 0x74 recX ∧ (wS [pA, pB]).acts recX.g = true ∧ (wS [pA, pB]).splits = [] ++ pA :: [pB] ∧
      pA.st = .running ∧ (∀ o ∈ ([] : List Split) ++ [pB], o.st ≠ .running ∧ o.stalls = false) ∧
      (([pB] : List Split) ++ [])[0]? = some pB ∧ pB.st = .ready) ∧
    ((onUser (wS [pA, pR])).issues (wS [pA, pR]) 0x74 recX ∧ (wS [pA, pR]).acts recX.g = true ∧ (wS [pA, pR]).splits = [] ++ pA :: [pR] ∧
      (∀ o ∈ ([] : List Split) ++ [pR], o.st ≠ .running ∧ o.stalls = false) ∧ (∀ o ∈ ([] : List Split) ++ [pR], ∃ t, o.token = some t) ∧
      let a : Split := { pA with pc := (pA.pc + longLen recX) % 2 ^ 64, st := .reconv (recX.fn.toNat % 16), phase := 0 }
      let l : List Split := [] ++ a :: [pR]
      l = [] ++ a :: [pR] ∧ a.token = some 15 ∧ (∀ o ∈ l, o.token = some 15) ∧ a ∈ l ∧ a.mask.getLsbD 0 = true ∧
        ∀ o ∈ l, o = a ∨ o.mask.getLsbD 0 = false) :=
  ⟨⟨⟨⟨rfl, rfl⟩, by decide⟩, by decide, rfl, rfl, by decide, rfl, rfl⟩,
    ⟨⟨rfl, rfl⟩, by decide⟩, by decide, rfl, by decide, fun o h => ⟨15, by rw [List.mem_singleton.mp h]; rfl⟩, rfl, rfl, by decide,
    List.mem_cons_self, by decide, by decide⟩

/-- A guard that some threads fail; all threads leave, with another split that is ready; and the last split leaves. -/
theorem witness_ExitTakesThreads :
    (let w := { wGuard with splits := [pA, pB] }
     let x : LongOp := { noX with g := ⟨false, 0⟩ }
     ControlReady (onUser w) w (.exit x) 0x76 x 8 ∧ w.splits = [] ++ pA :: [pB] ∧ pA.mask &&& ~~~(pA.mask &&& w.guard x.g) ≠ 0 ∧
     (∀ o ∈ ([] : List Split) ++ [pB], o.st ≠ .running ∧ o.stalls = false)) ∧
    (ControlReady (onUser (wS [pA, pB])) (wS [pA, pB]) (.exit noX) 0x76 noX 8 ∧ (wS [pA, pB]).splits = [] ++ pA :: [pB] ∧
      pA.mask &&& ~~~(pA.mask &&& (wS [pA, pB]).guard noX.g) = 0 ∧ ∃ o ∈ ([] : List Split) ++ [pB], o.st = .ready) ∧
    (ControlReady s0 w0 (.exit noX) 0x76 noX 8 ∧ w0.splits = [] ++ sp 0x1000 .running (BitVec.allOnes 32) :: [] ∧
      (BitVec.allOnes 32 : Mask) &&& ~~~((BitVec.allOnes 32 : Mask) &&& w0.guard noX.g) = 0) ∧
    ∃ x, ControlReady s0 w0 (.exitShort ⟨pt, 0, .v 0, .v 0⟩) 0x76 x 4 :=
  ⟨⟨control _ rfl ⟨⟨rfl, rfl⟩, by decide⟩, rfl, by decide, by decide⟩,
    ⟨control _ rfl ⟨⟨rfl, rfl⟩, by decide⟩, rfl, by decide, pB, List.mem_singleton.mpr rfl, rfl⟩,
    ⟨control w0 rfl (issues_user (by decide)), rfl, by decide⟩,
    _, .inr ⟨0x25, ⟨pt, 0, .v 0, .v 0⟩, ⟨0x76, .none, [(0x00, 0)]⟩, rfl, rfl, rfl, ⟨stands_user, by decide⟩, rfl, rfl⟩⟩

theorem witness_SoftwareTraps :
    s0.issues w0 0x7A (op (.v 0) (.imm (-1)) (.v 0) (.v 0) 0 0) ∧ s0.issues w0 0x7B (op (.v 0) (.s 0) (.v 0) (.v 0) 0 0) ∧ w0.acts pt = true :=
  ⟨issues_user (by decide), issues_user (by decide), by decide⟩

/-! ### Memory instructions -/

/-- A translation of a 64 KiB page of address space 1. -/
def page (vpn base fmt : Nat) : TlbEntry := ⟨1, 0, vpn, ⟨base, 65536, 0, fmt, false, false, 0, false, true, false⟩⟩
/-- A format of 8-bit codes without blocks: sign, 4 exponent bits, 3 mantissa bits, bias 7. -/
def fmt8 : Fmt := ⟨0, 2, 7, 1, 4, 3, 0, 0⟩
/-- The same with blocks of 8 codes. -/
def fmtB : Fmt := { fmt8 with blk := 1 }
/-- A core that has translated pages at 0, 0x10000, 0x20000 and, for private data, 0x80000; 0x20000 is of format 1. -/
def coreM : Core :=
  { Core.reset c0 with
    gens := [(1, 0)], fmts := [⟨1, 0, 1, some fmt8⟩, ⟨1, 0, 2, some fmtB⟩]
    tlb := [page 0 0x090000100000 0, page 0x10000 0x090000300000 0, page 0x20000 0x090000400000 1, page 0x80000 0x090000500000 0] }
/-- Wing 0 with die 0, buffer 0 and port 0, its control and wrapping keys 7 and 8, and no key pair. -/
def wing0 : Wing :=
  { Wing.reset 0 with
    st := .active, dies := 1, bufs := 1, ports := 1, control := some 7, wrapping := some 8 }
/-- Page tables of address space 1 in the memory of die 0: its descriptor, with ROOT 0x090000100000 and FMTBASE 0x090000300000; in the root, entry 0
to the table at 0x090000200000; there, entry 0 with a leaf that maps the first 2^30 bytes to 0x090000000000, executable, and entry 1 with one that
maps the next 2^30 to buffer 0, write-through, pooled and pinned, both of wing 0. Then an arena header at 0x400000 (NREG 1, CAP 1, SHIFT 4), and a
route header at 0x410000 (1 expert of capacity 1, its bin at 0x430000, 1 residual slot at 0x420000). -/
def tables : Mem :=
  [(0x090000000022, 0x10), (0x090000000025, 0x09), (0x09000000002A, 0x30), (0x09000000002D, 0x09), (0x090000000033, 0x80),
   (0x090000100000, 0x03), (0x090000100002, 0x20), (0x090000100005, 0x09), (0x090000200000, 0x09), (0x090000200005, 0x09),
   (0x090000200008, 0x01), (0x09000020000D, 0x20), (0x09000020000E, 0xD0), (0x090000400000, 1), (0x090000400004, 1), (0x090000400008, 4),
   (0x090000410000, 1), (0x090000410004, 1), (0x09000041000A, 0x42), (0x090000410084, 1), (0x09000041008A, 0x43)]
/-- A machine of one core, group and warp, with wing 0, its tables, and its stack and buffer in service. -/
def inWing (k : Core) (g : Group) (w : Warp) : State :=
  { small k g w with
    wings := [wing0], mem := tables, hbms := [{ Stack.reset 0 with trained := true }], buffers := [{ Buffer.reset 0 with trained := true }] }
/-- The user core's machine. -/
def onMem (w : Warp) : State := inWing coreM g0 w
/-- A warp whose p0 holds thread 0 alone; v0 and v1 hold the address 0x20, v4 the address 0x20000, v6 0xFFFC, v8 0x1FFFC, v10 0x22. -/
def wM : Warp :=
  { w0 with p := w0.p.set 0 1, v := [0x20, 0, 0, 0, 0x20000, 0, 0xFFFC, 0, 0x1FFFC, 0, 0x22, 0, 0, 0, 0, 0].map VReg.uniform }
def sM : State := onMem wM
/-- Fields under the guard p0. -/
def opM (d a b c : Sel) (fn : BitVec 8) (fn2 : BitVec 5) : LongOp := { op d a b c fn fn2 with g := ⟨false, 0⟩ }

/-- The accesses of checks that all pass. -/
def goods : List AccRes → Option (List Acc)
  | [] => some []
  | .good a :: rs => (goods rs).map (a :: ·)
  | _ :: _ => none

theorem goods_eq {rs : List AccRes} {l : List Acc} (h : goods rs = some l) : rs = l.map .good := by
  induction rs generalizing l with
  | nil => rw [goods, Option.some.injEq] at h; subst h; rfl
  | cons r rs ih =>
    cases r with
    | good a =>
      rw [goods, Option.map_eq_some_iff] at h
      obtain ⟨m, hm, rfl⟩ := h
      rw [ih hm, List.map_cons]
    | miss => exact absurd h (by simp [goods])
    | fmt => exact absurd h (by simp [goods])
    | bad => exact absurd h (by simp [goods])

/-- A memory instruction's accesses all pass on a warp; `empty` says whether they have no part. -/
def memMet (w : Warp) (empty : Bool) (i : Instr) : Bool :=
  match i.long?, memOf i with
  | some (opc, x), some f =>
    (onMem w).longCheck w opc x == none && w.active x.g != 0 && decide (w.count f.cls < 63) && (!x.w || f.whole (onMem w) w) && !selIsS x.d &&
      (match goods ((threadsOf (w.active x.g)).map (f.check (onMem w) w g0)) with
       | some l => (l.any (fun a => !a.pieces.isEmpty) == !empty) && f.waits (onMem w) w l == []
       | none => false)
  | _, _ => false

theorem memReady_of_met {w : Warp} {i : Instr} (hid : w.id = w0.id) (hg : w.grp = 0) (hr : w.running.isSome = true)
    (ha : w.atAccess i) {e : Bool} (h : memMet w e i = true) :
    ∃ (x : LongOp) (f : MemForm) (accs : List Acc), MemReady i (onMem w) w x f (accs.map .good) ∧
      f.waits (onMem w) w accs = [] ∧ ((∃ a ∈ accs, a.pieces ≠ []) ↔ e = false) := by
  unfold memMet at h
  split at h
  · next opc x f h1 h2 =>
    simp only [Bool.and_eq_true, beq_iff_eq, bne_iff_ne, decide_eq_true_eq, Bool.not_eq_true', Bool.or_eq_true] at h
    obtain ⟨⟨⟨⟨⟨h3, h4⟩, h5⟩, h6⟩, h7⟩, h8⟩ := h
    split at h8
    · next l hl =>
      rw [Bool.and_eq_true, beq_iff_eq, beq_iff_eq] at h8
      have hs : (onMem w).stands w := by
        refine ⟨?_, hr⟩
        simp [State.warp?, onMem, inWing, small, hid]
      have hgrp : (onMem w).grp w = g0 := by
        simp only [State.grp, State.groupOf, WarpId.coreId, hid, hg]
        rfl
      refine ⟨x, f, l, ⟨opc, h1, h2, ⟨hs, h3⟩, ?_, ha, h4, h5, ?_, fun _ => h7, ?_⟩, h8.2, ?_⟩
      · exact ⟨coreM, List.mem_singleton.mpr rfl, by rw [WarpId.coreId, hid]; rfl⟩
      · intro hx
        rcases h6 with h6 | h6
        · rw [hx] at h6; exact absurd h6 (by decide)
        · exact h6
      · rw [hgrp]; exact goods_eq hl
      · have h9 := h8.1
        cases e <;> simp_all [List.any_eq_true]
    · exact absurd h8 (by decide)
  · exact absurd h (by decide)

/-- The memory instructions that do not acquire, each in the forms that its table gives it. -/
def memCases : List Instr :=
  [.ld (opM (.v 4) (.v 0) .zr (.v 0) 0x00 0), .ld (opM (.v 4) (.v 6) .zr (.v 0) 0x60 0), .ld (opM (.v 5) (.v 0) (.imm 60) (.v 0) 0x10 1),
   .ld (opM (.v 4) (.v 0) .zr (.v 0) 0x50 2), .ldDec (opM (.v 2) (.v 4) .zr (.v 0) 0x88 0), .st (opM (.v 0) (.v 0) .zr (.v 3) 0x40 0),
   .st (opM (.v 0) (.v 0) .zr (.v 4) 0x60 1), .st (opM (.v 0) (.v 0) .zr (.v 3) 0x00 2), .stEnc (opM (.v 0) (.v 4) .zr (.v 0) 0xAC 0),
   .ldg (opM (.v 4) (.v 0) .zr (.v 0) 0x60 0), .pref (opM (.v 0) (.v 0) (.imm (-32)) (.v 0) 0 4), .cctl (opM (.v 0) (.v 0) .zr (.v 0) 0 4),
   .atom (opM (.v 2) (.v 0) .zr (.v 3) 0x00 0), .atom (opM (.v 2) (.v 0) .zr (.v 6) 0xC6 8), .atomcas (opM (.v 2) (.v 0) (.v 4) (.v 5) 0xB2 0),
   .red (opM (.v 0) (.v 0) .zr (.v 3) 0x80 8), .strel (opM (.v 0) (.v 0) .zr (.v 4) 0x50 3)]

set_option maxRecDepth 20000 in
theorem memCases_met : memCases.all (memMet wM false) = true := by decide

/-- Every form of a memory instruction that does not acquire launches; a guard that passes nowhere; a PREF whose only line is of a page that is
not mapped, as SYS says, with no access left; LDU. -/
theorem witness_MemoryInstructionsIssue :
    (∀ i ∈ memCases, acquires i = false) ∧
    (∀ i ∈ memCases, ∃ (x : LongOp) (f : MemForm) (accs : List Acc), MemReady i sM wM x f (accs.map .good) ∧
      f.waits sM wM accs = [] ∧ ∃ a ∈ accs, a.pieces ≠ []) ∧
    (let x := opM (.s 3) .zr (.imm 63) (.v 0) 0x00 1
     sM.issues wM 0x82 { x with g := pt } ∧ sM.hasCore wM.id.coreId ∧ wM.lduOperand x .i32 x.a = true ∧ wM.lduOperand x .i32 x.b = true ∧
       wM.count .spm < 63 ∧ ∃ a, sM.checkPlain wM (sM.grp wM) { x with g := pt } 1 .read 1 false 0 = .good a) ∧
    (let x : LongOp := { op (.v 4) (.v 0) .zr (.v 0) 0x00 0 with g := ⟨true, 7⟩ }
     Instr.long? (.ld x) = some (0x80, x) ∧ (memOf (.ld x)).isSome = true ∧ sM.issues wM 0x80 x ∧ wM.phase = 0 ∧ wM.active x.g = 0) := by
  refine ⟨by decide, fun i hi => ?_, ⟨⟨⟨rfl, rfl⟩, by decide⟩, ⟨coreM, List.mem_singleton.mpr rfl, rfl⟩, by decide, by decide, by decide, _, rfl⟩,
    rfl, rfl, ⟨⟨rfl, rfl⟩, by decide⟩, by decide, by decide⟩
  have hat : wM.atAccess i := by
    revert i; simp only [memCases, List.forall_mem_cons]
    exact ⟨rfl, rfl, rfl, rfl, rfl, rfl, rfl, rfl, rfl, rfl, rfl, rfl, rfl, rfl, rfl, rfl, rfl, fun _ h => absurd h List.not_mem_nil⟩
  obtain ⟨x, f, accs, h, hw, he⟩ := memReady_of_met (w := wM) rfl rfl rfl hat (List.all_eq_true.mp memCases_met i hi)
  exact ⟨x, f, accs, h, hw, he.mpr rfl⟩

/-- An address beyond 2^56, on which a PREF or CCTL does nothing. -/
theorem witness_MemoryInstructionsIssue_empty :
    ∃ (x : LongOp) (f : MemForm) (accs : List Acc),
      MemReady (.pref (opM (.v 0) (.s 2) .zr (.v 0) 0 0)) (onMem { wM with s := w0.s.set 3 0x01000000 }) { wM with s := w0.s.set 3 0x01000000 } x f
        (accs.map .good) ∧ ∀ a ∈ accs, a.pieces = [] := by
  obtain ⟨x, f, accs, h, -, he⟩ := memReady_of_met (w := { wM with s := w0.s.set 3 0x01000000 }) (e := true) (i := .pref (opM (.v 0) (.s 2) .zr (.v 0) 0 0))
    rfl rfl rfl rfl (by decide)
  refine ⟨x, f, accs, h, fun a ha => ?_⟩
  by_contra hp
  exact absurd (he.mp ⟨a, ha, hp⟩) (by decide)

/-- An access that ends with its page; one that goes on into a page with the same attributes, and into one with others; misaligned ones; the
scratchpad at its end; and private words. -/
theorem witness_AccessBytes :
    let l (n : Nat) (base fmt : Nat) : Leaf := (page n base fmt).leaf
    (wM.ea (opM (.v 0) (.v 6) .zr (.v 0) 0 0) true true 0 = 0xFFFC ∧ sM.lookup wM (sM.grp wM) .read 0xFFFC = .hit (l 0 0x090000100000 0) ∧
      4 ≤ 65536 - 0xFFFC % 65536 ∧ sM.lookup wM (sM.grp wM) .read 0x10000 = .hit (l 0x10000 0x090000300000 0)) ∧
    (wM.ea (opM (.v 0) (.v 8) .zr (.v 0) 0 0) true true 0 = 0x1FFFC ∧ sM.lookup wM (sM.grp wM) .read 0x1FFFC = .hit (l 0x10000 0x090000300000 0) ∧
      sM.lookup wM (sM.grp wM) .read 0x20000 = .hit (l 0x20000 0x090000400000 1)) ∧
    wM.ea (opM (.v 0) (.v 10) .zr (.v 0) 0 0) true true 0 % 4 ≠ 0 ∧ wM.ea (opM (.v 0) (.v 10) .zr (.v 0) 0 0) false true 0 % 16 ≠ 0 ∧
    (let b := wM.ea (opM (.v 0) .zr .lit (.v 0) 0 0) false true 0
     b % 16 = 0 ∧ sM.lookup wM (sM.grp wM) .write (wM.privbase + (b / 4 + 3) * 128 + 31 * 4) = .hit (l 0x80000 0x090000500000 0)) := by
  decide

/-- A core with an instruction of the warp that has not left the count of loads and one of the count of stores. -/
def coreOut : Core :=
  { coreM with outst := [⟨90, w0.id, 0, 1, .gld, 0x1000, 0, 0, .zr, .none, 1, [], .line, false, 1, 0⟩, ⟨91, w0.id, 0, 1, .gst, 0x1000, 0, 0, .zr, .none, 1, [], .line, false, 1, 0⟩] }
/-- The machine with it. -/
def onOut (w : Warp) : State := { small coreOut g0 w with wings := [wing0] }
/-- The warp at a phase of its instruction. -/
def atPhase (w : Warp) (n : Nat) : Warp := { w with splits := [⟨0x1000, .running, BitVec.allOnes 32, 0, n⟩] }
/-- The warp with s0 naming core 0 of die 0. -/
def wP : Warp := { wM with s := w0.s.set 0 0x00010001 }

/-- LDACQ, the atomics that acquire, and LDACQ.rem after its promotion. -/
def acqCases : List Instr :=
  [.ldacq (opM (.v 4) (.v 0) .zr (.v 0) 0x50 2), .atom (opM (.v 2) (.v 0) .zr (.v 3) 0x00 4), .atomcas (opM (.v 2) (.v 0) (.v 4) (.v 5) 0xB0 12)]

set_option maxRecDepth 20000 in
theorem witness_OrderingInstructions :
    (∀ i ∈ acqCases, acquires i = true ∧ ¬ sM.toPromote wM i ∧ ∃ (x : LongOp) (f : MemForm) (accs : List Acc),
      MemReady i sM wM x f (accs.map .good) ∧ ∃ a ∈ accs, a.pieces ≠ []) ∧
    (∃ (x : LongOp) (f : MemForm) (accs : List Acc), MemReady (.strel (opM (.v 0) (.v 0) .zr (.v 4) 0x50 3)) sM wM x f (accs.map .good) ∧
      releases (.strel (opM (.v 0) (.v 0) .zr (.v 4) 0x50 3)) = true) ∧
    (let x := opM (.v 2) (.v 0) .zr (.v 3) 0x00 5
     selIsS x.d = false ∧ (onMem (atPhase wM 2)).issues (atPhase wM 2) 0x90 x ∧ (atPhase wM 2).phase = 2 ∧ wideScope (scopeOf x) = false ∧
     wideScope (scopeOf { x with fn2 := 7 }) = true ∧ (onMem (atPhase wM 2)).issues (atPhase wM 2) 0x95 (opM (.v 4) (.v 0) .zr (.v 0) 0x50 3)) ∧
    (let x := op (.v 0) (.v 0) (.v 0) (.v 0) 0 15
     (onOut w0).issues w0 0x93 x ∧ (onOut w0).hasCore c0 ∧ w0.acts x.g = true ∧ w0.phase = 0 ∧
     ((onOut w0).outstOf w0.id (· == .gld) = [90] ∧ (onOut w0).releaseNeeds w0.id = [91]) ∧
     (onMem w0).issues w0 0x93 x ∧ (onMem w0).outstOf w0.id (· == .gld) = [] ∧ (onMem w0).releaseNeeds w0.id = [] ∧
     isRel (hintOf x) = true ∧ isAcq (hintOf x) = true ∧ wideScope (scopeOf x) = true ∧
     isRel (hintOf { x with fn2 := 7 }) = false ∧ isAcq (hintOf { x with fn2 := 7 }) = true) ∧
    (let x := op (.v 0) (.s 0) (.v 0) (.v 0) 0 0
     (onMem wP).issues wP 0x94 x ∧ (onMem wP).hasCore c0 ∧ wP.acts x.g = true ∧ wP.phase = 0 ∧
     (onMem wP).promoteCores ((onMem wP).grp wP) (wP.usrc x.lit .d64 x.a) = [c0] ∧
     (onMem (atPhase wP 1)).issues (atPhase wP 1) 0x94 x ∧ (atPhase wP 1).phase ≠ 0) ∧
    (let x := opM (.v 4) (.v 0) .zr (.s 0) 0x50 7
     (onMem wP).remCores wP x = [c0] ∧ (∃ (y : LongOp) (f : MemForm) (accs : List Acc), MemReady (.ldacq x) (onMem wP) wP y f (accs.map .good)) ∧
     hintOf x % 2 = 1 ∧ ¬ (onMem (atPhase wP 1)).toPromote (atPhase wP 1) (.ldacq x) ∧
     ∃ (y : LongOp) (f : MemForm) (accs : List Acc), MemReady (.ldacq x) (onMem (atPhase wP 1)) (atPhase wP 1) y f (accs.map .good)) := by
  refine ⟨?_, ?_, ⟨by decide, ⟨⟨rfl, rfl⟩, by decide⟩, rfl, by decide, by decide, ⟨rfl, rfl⟩, by decide⟩,
    ⟨⟨⟨rfl, rfl⟩, by decide⟩, ⟨coreOut, List.mem_singleton.mpr rfl, rfl⟩, by decide, rfl, ⟨by decide, by decide⟩, ⟨⟨rfl, rfl⟩, by decide⟩, by decide, by decide,
      by decide, by decide, by decide, by decide, by decide⟩,
    ⟨⟨⟨rfl, rfl⟩, by decide⟩, ⟨coreM, List.mem_singleton.mpr rfl, rfl⟩, by decide, rfl, by decide, ⟨⟨rfl, rfl⟩, by decide⟩, by decide⟩,
    by decide, ?_, by decide, fun h => absurd h.1 (by decide), ?_⟩
  · intro i hi
    have hm : memMet wM false i = true := by
      have : acqCases.all (memMet wM false) = true := by decide
      exact List.all_eq_true.mp this i hi
    have hat : wM.atAccess i ∧ acquires i = true ∧ ¬ sM.toPromote wM i := by
      revert i; simp only [acqCases, List.forall_mem_cons]
      exact ⟨fun _ => ⟨show wM.phase ≠ 2 by decide, rfl, fun h => h.2 rfl⟩, fun _ => ⟨rfl, rfl, id⟩, fun _ => ⟨rfl, rfl, id⟩,
        fun _ h => absurd h List.not_mem_nil⟩
    obtain ⟨x, f, accs, h, -, he⟩ := memReady_of_met (w := wM) rfl rfl rfl hat.1 hm
    exact ⟨hat.2.1, hat.2.2, x, f, accs, h, he.mpr rfl⟩
  · obtain ⟨x, f, accs, h, -⟩ := memReady_of_met (w := wM) (e := false) (i := .strel (opM (.v 0) (.v 0) .zr (.v 4) 0x50 3)) rfl rfl rfl rfl
      (by decide)
    exact ⟨x, f, accs, h, rfl⟩
  · obtain ⟨x, f, accs, h, -⟩ := memReady_of_met (w := wP) (e := false) (i := .ldacq (opM (.v 4) (.v 0) .zr (.s 0) 0x50 7)) rfl rfl rfl
      (show wP.phase ≠ 2 by decide) (by decide)
    exact ⟨x, f, accs, h⟩
  · obtain ⟨x, f, accs, h, -⟩ := memReady_of_met (w := atPhase wP 1) (e := false) (i := .ldacq (opM (.v 4) (.v 0) .zr (.s 0) 0x50 7)) rfl rfl rfl
      (show (atPhase wP 1).phase ≠ 2 by decide) (by decide)
    exact ⟨x, f, accs, h⟩

/-- A misaligned LDG of thread 0; S off the whole-instruction path; LDU under an address that differs; an s destination of ATOM; a full count; and
an address that is not in the translation cache. -/
theorem witness_MemoryTraps :
    (∃ (x : LongOp) (f : MemForm) (c : Cause),
      MemReady (.ldg (opM (.v 4) (.v 10) .zr (.v 0) 0x40 0)) sM wM x f (([] : List Acc).map .good ++ .bad c :: [])) ∧
    (let x : LongOp := { opM (.v 4) (.v 0) .zr (.v 0) 0x40 0 with w := true }
     let w := { wM with v := wDiv.v }
     Instr.long? (.ld x) = some (0x80, x) ∧ (onMem w).issues w 0x80 x ∧ w.active x.g ≠ 0 ∧ ∃ f, memOf (.ld x) = some f ∧ f.whole (onMem w) w = false) ∧
    (let x := op (.v 2) (.v 0) .zr (.v 0) 0x40 1
     (onMem { wDiv with q := wM.q }).issues { wDiv with q := wM.q } 0x82 x ∧
     ({ wDiv with q := wM.q }.lduOperand x .i32 x.a && { wDiv with q := wM.q }.lduOperand x .i32 x.b) = false) ∧
    (let x := op (.s 2) (.v 0) .zr (.v 3) 0x00 0
     Instr.long? (.atom x) = some (0x90, x) ∧ sM.issues wM 0x90 x ∧ selIsS x.d = true) ∧
    (let x := opM (.v 4) (.v 0) .zr (.v 0) 0x40 0
     let w := { wM with gld := 63 }
     Instr.long? (.ld x) = some (0x80, x) ∧ (onMem w).issues w 0x80 x ∧ w.atAccess (.ld x) ∧ w.active x.g ≠ 0 ∧
       ∃ f, memOf (.ld x) = some f ∧ 63 ≤ w.count f.cls) ∧
    ∃ (x : LongOp) (f : MemForm),
      MemReady (.ld (opM (.v 4) (.v 0) .zr (.v 0) 0x40 0)) { onMem wM with cores := [{ coreM with tlb := [] }] } wM x f [.miss [0x20]] ∧
        checkAll [.miss [0x20]] = .wait [0x20] [] :=
  ⟨⟨_, _, _, 0x83, rfl, rfl, ⟨⟨rfl, rfl⟩, by decide⟩, ⟨coreM, List.mem_singleton.mpr rfl, rfl⟩, rfl, by decide, by decide, by decide, fun _ => rfl, rfl⟩,
    ⟨rfl, ⟨⟨rfl, rfl⟩, by decide⟩, by decide, _, rfl, by decide⟩, ⟨⟨⟨rfl, rfl⟩, by decide⟩, by decide⟩,
    ⟨rfl, ⟨⟨rfl, rfl⟩, by decide⟩, rfl⟩, ⟨rfl, ⟨⟨rfl, rfl⟩, by decide⟩, rfl, by decide, _, rfl, by decide⟩,
    _, _, ⟨0x80, rfl, rfl, ⟨⟨rfl, rfl⟩, by decide⟩, ⟨_, List.mem_singleton.mpr rfl, rfl⟩, rfl, by decide, by decide, by decide, fun _ => rfl, rfl⟩, rfl⟩

/-! ### Counters, engines and the matrix -/

/-- A user core whose warp has an add of counter 1 held. -/
def coreHeld : Core := { coreM with heldOps := [⟨0, [], false, w0.issuer, .localAdd 1 1⟩] }
/-- Counter 3 stands at its end. -/
def gSat : Group := { g0 with ctrs := [0, 0, 0, BitVec.allOnes 64] }
/-- A counter instruction's fields: its counter, and its amount or value. -/
def ctrX (a b : Sel) (fn2 : BitVec 5) : LongOp := op (.v 0) a b (.v 0) 0 fn2

theorem witness_CountersAndBarriers :
    (∃ n : Nat, n = g0.ctrs.length ∧ sM.issues wM 0xA0 (ctrX (.imm 4) (.imm 1) 0) ∧ (wM.word (ctrX (.imm 4) (.imm 1) 0) (.imm 4) 0).toNat % 256 = n) ∧
    (sM.issues wM 0xA0 (ctrX (.imm 3) (.imm 1) 0) ∧ wM.acts pt = true ∧ wM.regsOk = true ∧ sM.hasCore c0 ∧ sM.groupOf wM = some g0 ∧
      (ctrX (.imm 3) (.imm 1) 0).fn2.getLsbD 4 = false ∧ sM.heldAdd wM 3 = false ∧ isRel (hintOf (ctrX (.imm 3) (.imm 1) 0)) = false ∧
      (inWing coreM gSat wM).groupOf wM = some gSat ∧ 2 ^ 64 ≤ (gSat.ctrs.getD 3 0).toNat + 1 ∧ (inWing coreHeld g0 wM).heldAdd wM 1 = true) ∧
    (sM.issues wM 0xA1 (ctrX (.imm 0) .zr 4) ∧ (wM.src none .d64 .zr 0).toNat ≤ (g0.ctrs.getD 0 0).toNat ∧ isAcq (hintOf (ctrX (.imm 0) .zr 4)) = true ∧
      sM.issues wM 0xA1 (ctrX (.imm 0) (.imm 1) 0) ∧ (g0.ctrs.getD 0 0).toNat < (wM.src none .d64 (.imm 1) 0).toNat ∧ wM.phase ≠ 1 ∧
      sM.issues wM 0xA2 (op (.s 2) (.imm 0) (.v 0) (.v 0) 0 0) ∧ (onMem (atPhase wM 1)).issues (atPhase wM 1) 0xA3 (ctrX (.imm 0) (.imm 1) 3) ∧
      (atPhase wM 1).phase = 1 ∧ sM.issues wM 0xA3 (ctrX (.imm 0) (.imm 1) 3) ∧ sM.issues wM 0xA4 (ctrX (.imm 0) (.imm 1) 3) ∧
      sM.issues wM 0xA0 (ctrX (.imm 0) (.imm 1) 8) ∧ isRel (hintOf (ctrX (.imm 0) (.imm 1) 8)) = true ∧ (sM.core c0).heldOps = [] ∧
      (sM.core c0).reqs = [] ∧ (∀ v ∈ sM.warps, v.id.coreId = c0 → v.splits ≠ []) ∧ sM.releaseNeeds wM.id = [] ∧
      (inWing coreOut g0 wM).releaseNeeds wM.id ≠ []) ∧
    (let w := { wM with s := w0.s.set 0 0x24 }
     (onMem w).issues w 0xA0 (ctrX (.s 0) (.imm 1) 16) ∧ (w.src none .d64 (.s 0) 0).toNat % 8 ≠ 0 ∧ w.count .gst < 63) ∧
    (let w := { wM with s := w0.s.set 0 0xFFF8 }
     (onMem w).issues w 0xA0 (ctrX (.s 0) (.imm 1) 16) ∧ (onMem w).issues w 0xA1 (ctrX (.s 0) (.imm 1) 16) ∧
     (onMem w).issues w 0xA2 (op (.s 2) (.s 0) (.v 0) (.v 0) 0 16) ∧ w.phase = 0 ∧ (ctrX (.s 0) (.imm 1) 16).fn2.getLsbD 4 = true ∧
     (∃ a, (onMem w).checkCounter w g0 .atomic 0xFFF8 = .good a ∧ a.pieces ≠ []) ∧ ∃ a, (onMem w).checkCounter w g0 .read 0xFFF8 = .good a ∧ a.pieces ≠ []) ∧
    (let ps := [Split.mk 0x1000 (.blocked (.count (some 0) none (some 0) 8)) 1 0 0, Split.mk 0x1000 (.blocked (.answer 91 8 (some true))) 2 0 0,
       Split.mk 0x1000 (.blocked (.localCtr 0 0 8 none)) 4 0 0]
     let w : Warp := { wM with splits := ps }
     (onMem w).warp? w.id = some w ∧ (w.splits.map Split.mask).Nodup ∧ w.gld ≤ 0 ∧ w.spm ≤ 0 ∧
     (∀ o ∈ ((onMem w).core w.id.coreId).outst, o.iid ≠ 91) ∧ (0 : DWord).toNat ≤ (((onMem w).grp w).ctrs.getD 0 0).toNat) := by
  refine ⟨⟨_, rfl, ⟨⟨rfl, rfl⟩, by decide⟩, by decide⟩,
    ⟨⟨⟨rfl, rfl⟩, by decide⟩, by decide, by decide, ⟨coreM, List.mem_singleton.mpr rfl, rfl⟩, rfl, by decide, by decide, by decide, rfl, by decide, by decide⟩,
    ⟨⟨⟨rfl, rfl⟩, by decide⟩, by decide, by decide, ⟨⟨rfl, rfl⟩, by decide⟩, by decide, by decide, ⟨⟨rfl, rfl⟩, by decide⟩, ⟨⟨rfl, rfl⟩, by decide⟩,
      rfl, ⟨⟨rfl, rfl⟩, by decide⟩, ⟨⟨rfl, rfl⟩, by decide⟩, ⟨⟨rfl, rfl⟩, by decide⟩, by decide, rfl, rfl, ?_, rfl, by decide⟩,
    ⟨⟨⟨rfl, rfl⟩, by decide⟩, by decide, by decide⟩,
    ⟨⟨⟨rfl, rfl⟩, by decide⟩, ⟨⟨rfl, rfl⟩, by decide⟩, ⟨⟨rfl, rfl⟩, by decide⟩, rfl, rfl, ⟨_, rfl, by decide⟩, _, rfl, by decide⟩, rfl, by decide, by decide, by decide, by decide,
    by decide⟩
  intro v hv _
  rw [List.mem_singleton.mp hv]
  decide

/-- The core's scratchpad: a copy command at 0 (64 bytes from 0x100 to 0x180), a BINPLAY command at 0x40 (the arena at 0x400000, its vectors at
0x500000 and 0x600000, region 0 to 0x200, SUM) and a pooling command at 0x80 (table at 2^30, 4 rows of 4 FP32 values, 1 bag of row 0, to 0x3C0). -/
def coreE : Core :=
  { coreM with
    spm := [(1, 1), (8, 0x80), (9, 1), (16, 0x40), (20, 1), (22, 3), (0x42, 0x40), (0x4A, 0x50), (0x52, 0x60), (0x5D, 2), (0x6D, 1), (0x83, 0x40),
      (0x88, 4), (0x8C, 4), (0x8E, 8), (0x90, 16), (0x94, 1), (0x99, 3), (0x9C, 0x40), (0x9D, 3), (0xA4, 0x80), (0xA5, 3), (0xA8, 0xC0), (0xA9, 3),
      (0xB0, 16), (0x344, 1)] }
def sE : State := inWing coreE g0 wM
/-- A command's instruction. -/
def cmdX (a : Sel) (fn2 : BitVec 5) : LongOp := op (.v 0) a (.v 0) (.v 0) 0 fn2

/-- The three commands are legal at their places; CPTR of channel 7; QFENCE of every queue, of none, of one too many, with a local counter. -/
theorem witness_EngineCommands :
    (sE.issues wM 0xD0 (cmdX .zr 7) ∧ sE.wholeCore c0 ∧ (sE.cmdBytes wM (cmdX .zr 7) 48).length = 48 ∧
      (let c := CopyCmd.parse (sE.cmdBytes wM (cmdX .zr 7) 48)
       CommandMet sE wM (cmdX .zr 7) 7 48 (c.ctrKind, c.ctr) ∧ c.reject (sE.grp wM) = none)) ∧
    (let w := { wM with s := (w0.s.set 0 0x40).set 1 0x80 }
     let s := inWing coreE g0 w
     let c := PlayCmd.parse (s.cmdBytes w (cmdX (.s 0) 0) 48)
     let d := PoolCmd.parse (s.cmdBytes w (cmdX (.s 1) 1) 64)
     s.issues w 0xD4 (cmdX (.s 0) 0) ∧ CommandMet s w (cmdX (.s 0) 0) 8 48 (c.ctrKind, c.ctr) ∧
     (∃ ps, s.engPages (s.grp w).whoIs .read c.abase 16 = .ok ps ∧ s.ownWrites w.id false (runsOf ps) = [] ∧
       c.reject (Arena.parse (s.engRead (s.grp w).core ps).2) (s.grp w) = none) ∧ s.issues w 0xD6 (cmdX (.s 1) 1) ∧
     CommandMet s w (cmdX (.s 1) 1) 9 64 (d.ctrKind, d.ctr) ∧ d.reject (s.grp w) = none) ∧
    (let w := { wM with s := (w0.s.set 0 2032).set 1 8 }
     let s := inWing coreE g0 w
     s.issues w 0xD0 (cmdX (.s 1) 0) ∧ w.cmdOff (cmdX (.s 1) 0) % 16 ≠ 0 ∧ s.issues w 0xD4 (cmdX (.s 0) 0) ∧ w.cmdOff (cmdX (.s 0) 0) % 16 = 0 ∧
     (s.grp w).res.spm * 512 < w.cmdOff (cmdX (.s 0) 0) + 48) ∧
    (sE.issues wM 0xD1 (op (.s 2) (.imm 7) (.v 0) (.v 0) 0 0) ∧ s16.stands w16 ∧ w16.id.core = 16 ∧
      2 ≤ (w16.word (op (.s 2) (.imm 2) (.v 0) (.v 0) 0 0) (.imm 2) 0).toNat % 8 ∧
      (w16.word (op (.v 0) (.imm 4) (.v 0) (.v 0) 0 0) (.imm 4) 0).toNat / 4 % 512 ≠ 0) ∧
    (let w := { wM with s := w0.s.set 0 2047 }
     let s := inWing coreE g0 w
     s.issues w 0xD2 (op (.v 0) (.s 0) (.imm 3) (.imm 1) 0 1) ∧ s.groupOf w = some g0 ∧ s.checkCtr g0 0 (.loc 3) 0xFF = none ∧
     (w.word (op (.v 0) (.s 0) (.imm 3) (.imm 1) 0 1) (.s 0) 0).toNat = 2047 ∧ (∀ n, n < 11 → s.queueRoom g0 n = true) ∧
     sE.issues wM 0xD2 (op (.v 0) .zr (.v 0) (.v 0) 0 0) ∧ sE.issues wM 0xD2 (op (.v 0) (.imm (-1)) (.v 0) (.v 0) 0 0) ∧
     2048 ≤ (wM.word (op (.v 0) (.imm (-1)) (.v 0) (.v 0) 0 0) (.imm (-1)) 0).toNat) := by
  refine ⟨⟨⟨⟨rfl, rfl⟩, by decide⟩, ⟨⟨coreE, List.mem_singleton.mpr rfl, rfl⟩, rfl⟩, by decide,
      ⟨⟨⟨coreE, List.mem_singleton.mpr rfl, rfl⟩, rfl⟩, by decide, by decide, by decide, by decide, by decide⟩, by decide⟩,
    ⟨⟨⟨rfl, rfl⟩, by decide⟩, ⟨⟨⟨coreE, List.mem_singleton.mpr rfl, rfl⟩, rfl⟩, by decide, by decide, by decide, by decide, by decide⟩, ⟨_, rfl, by decide, by decide⟩,
      ⟨⟨rfl, rfl⟩, by decide⟩, ⟨⟨⟨coreE, List.mem_singleton.mpr rfl, rfl⟩, rfl⟩, by decide, by decide, by decide, by decide, by decide⟩, by decide⟩,
    ⟨⟨⟨rfl, rfl⟩, by decide⟩, by decide, ⟨⟨rfl, rfl⟩, by decide⟩, by decide, by decide⟩,
    ⟨⟨⟨rfl, rfl⟩, by decide⟩, stands_curator, rfl, by decide, by decide⟩,
    ⟨⟨rfl, rfl⟩, by decide⟩, rfl, by decide, by decide, by decide, ⟨⟨rfl, rfl⟩, by decide⟩, ⟨⟨rfl, rfl⟩, by decide⟩, by decide⟩

/-- A warp whose s4 and s5 hold the arena's address and s6 and s7 the route header's; its v8 is 0. -/
def wB : Warp := { w0 with s := (w0.s.set 4 0x400000).set 6 0x410000, p := w0.p.set 0 1 }
def sB : State := inWing coreE g0 wB
/-- BIN with index v3 and value v4 and predicate 1, and ROUTE with destination v5, for thread 0. -/
def binX : LongOp := { op (.v 0) (.s 4) (.v 3) (.v 4) 2 0 with g := ⟨false, 0⟩ }
def routeX : LongOp := { op (.v 5) (.s 6) (.v 3) (.v 4) 2 0 with g := ⟨false, 0⟩ }
/-- Whether a thread is done. -/
def isDone : ThreadRes → Bool
  | .done _ _ => true
  | .fault _ _ _ _ => false

theorem done_of {r : ThreadRes} (h : isDone r = true) : ∃ s w, r = .done s w := by
  cases r with
  | done s w => exact ⟨s, w, rfl⟩
  | fault => exact Bool.noConfusion h

/-- BIN and ROUTE with an access of their warp on its way; with a header that is not mapped; with well-formed headers, and thread 0 is done; with a
header off its boundary; a thread with a claimed slot; no active thread. -/
theorem witness_BinAndRoute :
    (sB.issues wB 0xD3 { binX with g := ⟨true, 7⟩ } ∧ wB.active ⟨true, 7⟩ = 0) ∧
    ((onOut wB).issues wB 0xD3 binX ∧ (onOut wB).outstOf wB.id (· != .spm) ≠ [] ∧ (onOut wB).issues wB 0xD5 routeX) ∧
    (let w := { wB with s := (wB.s.set 5 1).set 7 1 }
     (inWing coreE g0 w).issues w 0xD3 binX ∧ (inWing coreE g0 w).issues w 0xD5 routeX ∧ (inWing coreE g0 w).outstOf w.id (· != .spm) = [] ∧
     ∃ c, (inWing coreE g0 w).engPages g0.whoIs .read 0x100400000 16 = .error c) ∧
    (sB.issues wB 0xD3 binX ∧ wB.active binX.g ≠ 0 ∧ sB.outstOf wB.id (· != .spm) = [] ∧
      (∃ ps, sB.engPages (sB.grp wB).whoIs .read 0x400000 16 = .ok ps ∧ (Arena.parse (sB.engRead (sB.grp wB).core ps).2).ok = true) ∧
      ∃ s w, runThreads (fun st u t cl => st.binThread (sB.grp wB) u binX ⟨1, 1, 4⟩ 0x400000 t (cl.map (·.1))) sB wB none [0] = .done s w) ∧
    (let w := { wB with s := wB.s.set 4 0x400040 }
     (inWing coreE g0 w).issues w 0xD3 binX ∧ (w.src none .d64 (.s 4) 0).toNat % 128 ≠ 0 ∧ ∃ ps, (inWing coreE g0 w).engPages g0.whoIs .read 0x400040 16 = .ok ps) ∧
    (sB.issues wB 0xD5 routeX ∧ selIsS routeX.d = false ∧ wB.active routeX.g ≠ 0 ∧ (∃ ps, sB.engPages (sB.grp wB).whoIs .read 0x410000 16 = .ok ps ∧
        (RouteHdr.parse (sB.engRead (sB.grp wB).core ps).2).ok = true) ∧
      ∃ s w, runThreads (fun st u t cl => st.routeThread (sB.grp wB) u routeX ⟨1, 1, 0x420000⟩ 0x410000 t cl) sB wB none [0] = .done s w) ∧
    (wB.regsOk = true ∧ pdOf binX = 1 ∧ ∃ s w, sB.binThread g0 wB binX ⟨1, 1, 4⟩ 0x400000 0 (some 0) = .done s w) ∧
    (∃ s w, sB.routeThread g0 wB routeX ⟨1, 1, 0x420000⟩ 0x410000 0 (some (0, true)) = .done s w) ∧
    (sB.issues wB 0xD5 { routeX with d := .s 5, g := pt } ∧ selIsS (.s 5) = true) ∧
    (let gen : VReg := ⟨.general, List.replicate 32 0⟩
     let w := { wB with v := (wB.v.set 3 gen).set 7 gen }
     (inWing coreE g0 w).issues w 0xD3 { binX with c := .v 7 } ∧ (w.getV 3).tag.isGeneral = true ∧ (w.getV 7).tag.isGeneral = true ∧
     ∃ s u, runThreads (fun st u t cl => st.binThread g0 u { binX with c := .v 7 } ⟨1, 1, 4⟩ 0x400000 t (cl.map (·.1))) (inWing coreE g0 w) w none [0] = .done s u) :=
  ⟨⟨⟨⟨rfl, rfl⟩, by decide⟩, by decide⟩, ⟨⟨⟨rfl, rfl⟩, by decide⟩, by decide, ⟨rfl, rfl⟩, by decide⟩,
    ⟨⟨⟨rfl, rfl⟩, by decide⟩, ⟨⟨rfl, rfl⟩, by decide⟩, rfl, _, rfl⟩,
    ⟨⟨⟨rfl, rfl⟩, by decide⟩, by decide, rfl, ⟨_, rfl, by decide⟩, done_of rfl⟩,
    ⟨⟨⟨rfl, rfl⟩, by decide⟩, by decide, _, rfl⟩,
    ⟨⟨⟨rfl, rfl⟩, by decide⟩, rfl, by decide, ⟨_, rfl, by decide⟩, done_of rfl⟩, ⟨by decide, by decide, done_of rfl⟩, done_of rfl, ⟨⟨⟨rfl, rfl⟩, by decide⟩, rfl⟩,
    ⟨⟨rfl, rfl⟩, by decide⟩, by decide, by decide, done_of rfl⟩

/-- The leaf of the first 2^30 bytes, as the page tables give it, in the core's translation cache. -/
def leafB : Leaf := ⟨0x090000000000, 2 ^ 30, 0, 0, false, false, 0, false, true, false⟩
def coreB : Core := { coreE with tlb := [⟨1, 0, 0, leafB⟩] }
/-- The machine with it and with bytes of memory beside the tables. -/
def onWords (l : List (Nat × Byte)) (w : Warp) : State :=
  { inWing coreB g0 w with mem := l.foldl (fun m p => memPut dramUnlisted m p.1 p.2) tables }

/-- What an address that is held is held by, as a test. -/
def heldOk (s : State) (w : Who) (k : Kind) (va n : Nat) (l : Leaf) : Bool :=
  ((s.core w.core).gens.any fun q => q.1 == w.asid) && s.tlb? w.core w.asid va == some l &&
  s.protect (isCurator w.core) w.wing k l == none && decide (va % l.size + n ≤ l.size) && !s.memDown (l.pa va) &&
  (k != .atomic || !s.bypass (l.pa va))

theorem held_of {s : State} {w : Who} {k : Kind} {va n : Nat} {l : Leaf} (h : heldOk s w k va n l = true) : s.heldBy w k va n l := by
  simp only [heldOk, Bool.and_eq_true, List.any_eq_true, beq_iff_eq, decide_eq_true_eq, Bool.not_eq_true', Bool.or_eq_true, bne_iff_ne] at h
  obtain ⟨⟨⟨⟨⟨h1, h2⟩, h3⟩, h4⟩, h5⟩, h6⟩ := h
  exact ⟨h1, h2, h3, h4, h5, fun hk => h6.resolve_left (· hk)⟩

/-- Thread 0 alone is active under p0. -/
theorem first_alone (u : Nat) : (wB.active binX.g).getLsbD u = decide (u = 0) := by
  have h : wB.active binX.g = 1#32 := by decide
  rw [h, BitVec.getLsbD_one]
  simp

/-- BIN of a thread alone that finds room, all that it can reach held; and of one whose index lies beyond the regions. -/
theorem witness_BinAndRoute_bin :
    (let s := onWords [] wB
     s.issues wB 0xD3 binX ∧ wB.regsOk = true ∧ wB.progress = none ∧ s.outstOf wB.id (· != .spm) = [] ∧ (s.core c0).l1 = [] ∧ (s.core c0).comb = [] ∧
     ∃ ps, s.engPages g0.whoIs .read 0x400000 16 = .ok ps ∧
       let a := Arena.parse (s.engRead c0 ps).2
       a.ok = true ∧ (wB.word binX binX.b 0).toNat / 2 ^ a.shift < a.nreg ∧
       ∀ t, (wB.active binX.g).getLsbD t = true →
         (∃ l, s.heldBy g0.whoIs .atomic (Arena.countVA 0x400000 ((wB.word binX binX.b t).toNat / 2 ^ a.shift)) 8 l) ∧
         ∀ j, j < a.cap → ∃ l, s.heldBy g0.whoIs .write (a.slotVA 0x400000 ((wB.word binX binX.b t).toNat / 2 ^ a.shift) j) 8 l) ∧
    (let w := { wB with v := wB.v.set 3 (VReg.uniform 0x10) }
     (onWords [] w).issues w 0xD3 binX ∧ (1 : Nat) ≤ (w.word binX binX.b 0).toNat / 2 ^ 4) := by
  refine ⟨⟨⟨⟨rfl, rfl⟩, by decide⟩, by decide, rfl, rfl, rfl, rfl, _, rfl, by decide, by decide, fun t ht => ?_⟩, ⟨⟨rfl, rfl⟩, by decide⟩, by decide⟩
  rw [first_alone, decide_eq_true_eq] at ht
  subst ht
  refine ⟨⟨leafB, held_of (by decide)⟩, fun j hj => ?_⟩
  have : j = 0 := Nat.lt_one_iff.mp hj
  subst this
  exact ⟨leafB, held_of (by decide)⟩

/-- ROUTE of a thread that names no expert, with the residual list held; of one whose expert is below its capacity; and of one whose expert is
full. -/
theorem witness_BinAndRoute_route :
    (let w := { wB with v := wB.v.set 3 (VReg.uniform 1) }
     (onWords [] w).issues w 0xD5 routeX ∧ w.regsOk = true ∧ (1 : Nat) ≤ (w.word routeX routeX.b 0).toNat) ∧
    (let s := onWords [] wB
     s.issues wB 0xD5 routeX ∧ wB.progress = none ∧ s.outstOf wB.id (· != .spm) = [] ∧ (s.core c0).l1 = [] ∧ (s.core c0).comb = [] ∧
     ∃ ps, s.engPages g0.whoIs .read 0x410000 16 = .ok ps ∧
       let h := RouteHdr.parse (s.engRead c0 ps).2
       let va := expertVA 0x410000 0
       let old := s.devNat (leafB.pa va) 8
       h.ok = true ∧ (wB.word routeX routeX.b 0).toNat = 0 ∧ 0 < h.nexp ∧
       ((∃ l, s.heldBy g0.whoIs .atomic (0x410000 + 64) 8 l) ∧ ∀ k, k < h.rescap → ∃ l, s.heldBy g0.whoIs .write (h.resbase + 8 * k) 8 l) ∧
       (∀ v, (wB.active routeX.g).getLsbD v = decide (v = 0)) ∧
       s.heldBy g0.whoIs .atomic va 8 leafB ∧ s.heldBy g0.whoIs .read (va + 8) 8 leafB ∧ va % leafB.size + 16 ≤ leafB.size ∧
       leafB.pa va % 128 + 16 ≤ 128 ∧ old % 2 ^ 32 < old / 2 ^ 32 ∧
       ∃ m, s.heldBy g0.whoIs .write (s.devNat (leafB.pa (va + 8)) 8 + 4 * (old % 2 ^ 32)) 4 m) ∧
    (let old := (onWords [(0x090000410080, 1)] wB).devNat (leafB.pa (expertVA 0x410000 0)) 8
     old / 2 ^ 32 ≤ old % 2 ^ 32) := by
  refine ⟨⟨⟨⟨rfl, rfl⟩, by decide⟩, by decide, by decide⟩,
    ⟨⟨⟨rfl, rfl⟩, by decide⟩, rfl, rfl, rfl, rfl, _, rfl, by decide, by decide, by decide, ⟨⟨leafB, held_of (by decide)⟩, fun k hk => ?_⟩, first_alone,
      held_of (by decide), held_of (by decide), by decide, by decide, by decide, leafB, held_of (by decide)⟩, by decide⟩
  have : k = 0 := Nat.lt_one_iff.mp hk
  subst this
  exact ⟨leafB, held_of (by decide)⟩

/-- A group with 32 KiB of scratchpad, and one whose batches are all complete. -/
def gX : Group := { g0 with res := ⟨1, 16, 2, 4, 64, 1⟩, batchDone := 0xFFFF, nextb := 15 }
/-- A warp whose s0 and s1 hold 0, s2 and s3 0x400, s4 the shape K = 16, N = 16, V = 1 of INT8, s5 the pitch 256, s6 and s7 a mask of lane 0, s8 and
s9 a mask of lane 1, and s10 a counter at 0x420008. -/
def wX : Warp := { w0 with s := (((((w0.s.set 2 0x400).set 4 0x001000A0).set 5 256).set 6 1).set 8 2).set 10 0x420008 }
def sX : State := inWing coreE gX wX
/-- A skew window of another group, of lane 1 alone, and of lane 0 unclaimed and claimed. -/
def win (slot lane : Nat) (claimed : Bool) : Window :=
  ⟨50, slot, op (.v 0) (.v 0) (.s 6) (.s 2) 0x0A 0, 1, 0, 256, 0, [], [⟨lane, [], claimed, false, false, 0⟩], 0, false⟩
/-- The machine with that window. -/
def onWin (slot lane : Nat) (claimed : Bool) : State := inWing { coreE with windows := [win slot lane claimed] } gX wX

/-- MMA, MMV, MZERO, MLDA from each space and MSTA in both widths meet their conditions. -/
theorem witness_MatrixInstructions :
    (∀ t : Fin 2,
      let mma := op (.v ⟨t.val, by omega⟩) (.s 0) (.s 2) (.s 4) 0 0
      let mzero := op (.v ⟨t.val, by omega⟩) (.v 0) (.v 0) (.v 0) 0 0
      let mlda := op (.v ⟨t.val, by omega⟩) (.s 0) (.s 5) (.v 0) 0 0
      sX.issues wX 0xC0 mma ∧ sX.issues wX 0xC2 mma ∧ sX.issues wX 0xC3 mzero ∧ sX.issues wX 0xC4 mlda ∧ sX.issues wX 0xC4 { mlda with fn2 := 1 } ∧
        sX.issues wX 0xC5 { mlda with fn2 := 2 } ∧ sX.issues wX 0xC5 { mlda with fn2 := 3 }) ∧
    (sX.groupOf wX = some gX ∧ gX.mxq.length < 32 ∧ wX.actsK pt = true ∧ wX.actsK ⟨true, 7⟩ = false ∧ sX.issueFmts wX gX [0, 0] = .ok [none, none] ∧
      shapeWord 0x001000A0 ∧ shapeV 0x001000A0 = 1 ∧ operandMet gX ⟨none, 2⟩ 16 64 0 ∧ operandMet gX ⟨none, 2⟩ 16 16 0x400 ∧
      moveMet gX false 256 0 256 ∧ moveMet gX true 256 0 256 ∧ moveMet gX false 128 0 256) ∧
    (let x := op (.v 0) (.v 0) (.s 6) (.s 2) 0x0A 0
     sX.issues wX 0xC1 x ∧ sX.hasCore c0 ∧ (sX.core c0).openWin sX.clk = none ∧ sX.issueFmts wX gX [0] = .ok [none] ∧
     operandMet gX ⟨none, 2⟩ 16 (mmalN x) (wX.src none .d64 (.s 2) 0) ∧ (wX.src none .d64 (.s 6) 0).getLsbD 0 = true ∧
     sX.issues wX 0xC1 { x with b := .s 8 } ∧ (wX.src none .d64 (.s 8) 0).getLsbD 0 = false ∧
     (onWin 9 0 false).issues wX 0xC1 x ∧ ((onWin 9 0 false).core c0).openWin 0 = some (win 9 0 false) ∧ (win 9 0 false).slot ≠ gX.slot ∧
     ((onWin 0 1 false).core c0).openWin 0 = some (win 0 1 false) ∧ (∀ r ∈ (win 0 1 false).rows, r.lane ≠ 0) ∧
     ((onWin 0 0 true).core c0).openWin 0 = some (win 0 0 true) ∧ ((onWin 0 0 false).core c0).openWin 0 = some (win 0 0 false) ∧
     (win 0 0 false).x.fn2.getLsbD 0 = x.fn2.getLsbD 0) ∧
    (sX.issues wX 0xC6 (op (.s 20) (.v 0) (.v 0) (.v 0) 0 0) ∧ sX.issues wX 0xC6 (op (.s 20) (.imm 3) (.imm 1) (.v 0) 0 1) ∧
      sX.issues wX 0xC6 (op (.s 20) (.s 10) (.imm 1) (.v 0) 0 2) ∧ sX.checkCtr gX 0 (.glob 0x420008) 10 = none ∧
      gX.batchDone.getLsbD gX.nextb = true ∧ gX.nextb < 16 ∧ g0.batchDone.getLsbD g0.nextb = false ∧ sE.issues wM 0xC6 (op (.s 20) (.v 0) (.v 0) (.v 0) 0 0)) ∧
    (sX.issues wX 0xC7 (op (.v 0) (.imm 15) (.v 0) (.v 0) 0 0) ∧ (sX.grp wX).batchDone.getLsbD 15 = true ∧ wX.phase ≠ 1 ∧
      (sE.grp wM).batchDone.getLsbD 15 = false ∧ sE.issues wM 0xC7 (op (.v 0) (.imm 15) (.v 0) (.v 0) 0 0)) := by
  refine ⟨fun t => ⟨⟨⟨rfl, rfl⟩, by revert t; decide⟩, ⟨⟨rfl, rfl⟩, by revert t; decide⟩, ⟨⟨rfl, rfl⟩, by revert t; decide⟩,
      ⟨⟨rfl, rfl⟩, by revert t; decide⟩, ⟨⟨rfl, rfl⟩, by revert t; decide⟩, ⟨⟨rfl, rfl⟩, by revert t; decide⟩, ⟨⟨rfl, rfl⟩, by revert t; decide⟩⟩,
    ⟨rfl, by decide, by decide, by decide, rfl, ?_, by decide, ?_, ?_, ?_, ?_, ?_⟩,
    ⟨⟨⟨rfl, rfl⟩, by decide⟩, ⟨coreE, List.mem_singleton.mpr rfl, rfl⟩, rfl, rfl, ?_, by decide, ⟨⟨rfl, rfl⟩, by decide⟩, by decide,
      ⟨⟨rfl, rfl⟩, by decide⟩, rfl, by decide, rfl, by decide, rfl, rfl, rfl⟩,
    ⟨⟨⟨rfl, rfl⟩, by decide⟩, ⟨⟨rfl, rfl⟩, by decide⟩, ⟨⟨rfl, rfl⟩, by decide⟩, by decide, by decide, by decide, by decide, ⟨⟨rfl, rfl⟩, by decide⟩⟩,
    ⟨⟨⟨rfl, rfl⟩, by decide⟩, by decide, by decide, by decide, ⟨⟨rfl, rfl⟩, by decide⟩⟩⟩
  · unfold shapeWord; decide
  all_goals first
    | (unfold operandMet; decide)
    | (unfold moveMet; decide)

/-- CVTPK of four values from v12 to v15, the last of the warp's registers; with blocks of 8 from v8 to v13 and on; CVTUPK to v12. -/
theorem witness_RunFormats :
    (sM.issues wM 0x31 (op (.v 15) (.v 12) (.v 0) (.v 0) 0x20 1) ∧ sM.fmt? c0 1 1 = some (some fmt8) ∧ fmt8.cb = 8 ∧
      sM.fmtEntryPA (sM.grp wM).asid 1 ≠ none ∧ 12 + 32 / fmt8.cb ≤ wM.vregs ∧ 15 + 1 ≤ wM.vregs) ∧
    (sM.issues wM 0x31 (op (.v 13) (.v 8) (.v 0) (.v 0) 0x30 2) ∧ sM.fmt? c0 1 2 = some (some fmtB) ∧ fmtB.cb = 8 ∧ fmtB.blk ≠ 0 ∧ fmtB.blkN = 8 ∧
      8 + fmtB.blkN ≤ wM.vregs ∧ 13 + fmtB.blkN * fmtB.cb / 32 + 1 ≤ wM.vregs) ∧
    (sM.issues wM 0x32 (op (.v 12) (.v 0) .zr (.v 0) 0x20 1) ∧ 12 + 32 / fmt8.cb ≤ wM.vregs) ∧ wM.regsOk = true :=
  ⟨⟨⟨⟨rfl, rfl⟩, by decide⟩, by decide, by decide, by decide, by decide, by decide⟩,
    ⟨⟨⟨rfl, rfl⟩, by decide⟩, by decide, by decide, by decide, by decide, by decide, by decide⟩,
    ⟨⟨⟨rfl, rfl⟩, by decide⟩, by decide⟩, by decide⟩

/-! ### The system, work creation and the return from a swap-out -/

/-- The curator core's scratchpad: at 0x40 a packet of one warp with 16 v registers, 4 counters and 512 bytes; at 0x80 64 zeros; at 0x100 one of 512 warps
with 192 v registers each; at 0x140 the first one as KIND 1. -/
def coreC : Core :=
  { Core.reset c16 with
    spm := [(0x61, 0x10), (0x67, 1), (0x70, 4), (0x72, 4), (0x74, 1), (0x78, 1), (0x7E, 1), (0x132, 0xF0), (0x133, 0x7F), (0x161, 0x10), (0x167, 1),
      (0x170, 4), (0x172, 4), (0x174, 1), (0x175, 0x20), (0x178, 1), (0x17E, 1)] }
/-- The curator's machine, with a catalogue that replays, and a second core that is fenced. -/
def onCur (w : Warp) : State :=
  let s := inWing coreC g16 w
  { s with
    cores := [coreC, Core.reset c0, { Core.reset ⟨0, 1⟩ with fenced := true }]
    cats := [⟨1, 0, 0, 0, 0, [], [], [], [], some ⟨7, [], [], none⟩⟩] }
/-- The curator's warp with a value in s0. -/
def wC (z : Word) : Warp := { w16 with s := w16.s.set 0 z }

theorem witness_SystemRegisters :
    (∀ n : Fin 20, s16.issues w16 0xE0 (op (.s 2) (.v 0) (.v 0) (.v 0) (BitVec.ofNat 8 n.val) 0)) ∧
    (s0.issues w0 0xE0 (op (.s 2) (.v 0) (.v 0) (.v 0) 0x11 0) ∧ w0.id.core ≠ 16 ∧ s0.issues w0 0xE0 (op (.v 15) (.v 0) (.v 0) (.v 0) 0 0) ∧
      selIsS (.v 15) = false ∧ w0.acts pt = true ∧ w0.regsOk = true) ∧
    (∀ n ∈ [(0x09 : BitVec 8), 0x0B, 0x13], s0.issues w0 0xE1 (op (.v 0) (.imm (-1)) (.v 0) (.v 0) n 0)) ∧
    (let x := op (.v 0) (.s 0) (.v 0) (.v 0) 0x0F 0
     (onCur (wC 1)).issues (wC 1) 0xE1 x ∧ (wC 1).id.core = 16 ∧ (wC 1).phase ≠ 1 ∧
     ((onCur (wC 1)).memDown ((onCur (wC 1)).descPA 1 + 16) || (onCur (wC 1)).bypass ((onCur (wC 1)).descPA 1 + 16)) = false ∧
     (let t : State := { s16 with dies := [{ Die.reset 0 with uncore := .reset }] }
      (t.memDown (t.descPA 0 + 16) || t.bypass (t.descPA 0 + 16)) = true ∧ t.issues w16 0xE1 x) ∧
     (onCur (atPhase w16 1)).issues (atPhase w16 1) 0xE1 x ∧ (atPhase w16 1).phase = 1) ∧
    (s16.issues w16 0xE1 (op (.v 0) (.s 0) (.v 0) (.v 0) 0x10 0) ∧ (s16.die 0).frames.length < 64 ∧ (∃ k ∈ s16.dies, k.id = 0) ∧
      64 ≤ (({ s16 with dies := [{ Die.reset 0 with frames := List.replicate 64 0 }] } : State).die 0).frames.length ∧
      s16.issues w16 0xE1 (op (.v 0) (.s 0) (.v 0) (.v 0) 0x11 0)) ∧
    s0.issues w0 0xE2 (op (.v 14) (.v 0) (.v 0) (.v 0) 0 0) ∧
    (Instr.long? (.spawn (op (.s 4) (.s 2) (.s 3) (.v 0) 0 0)) = some (0xB1, op (.s 4) (.s 2) (.s 3) (.v 0) 0 0) ∧
      s0.issues w0 0xB1 (op (.s 4) (.s 2) (.s 3) (.v 0) 0 0) ∧ s0.issues w0 0xE1 (op (.v 0) (.s 0) (.v 0) (.v 0) 0x11 0)) ∧
    (s0.issues w0 0xA0 { op (.v 0) (.imm 1) (.imm 1) (.v 0) 0 0 with g := ⟨true, 7⟩ } ∧ w0.acts ⟨true, 7⟩ = false) := by
  refine ⟨fun n => ⟨stands_curator, by revert n; decide⟩, ⟨issues_user (by decide), by decide, issues_user (by decide), rfl, by decide, by decide⟩,
    fun n hn => ⟨stands_user, by revert n; decide⟩,
    ⟨⟨⟨rfl, rfl⟩, by decide⟩, rfl, by decide, by decide, ⟨by decide, ⟨⟨rfl, rfl⟩, by decide⟩⟩, ⟨⟨rfl, rfl⟩, by decide⟩, rfl⟩,
    ⟨issues_curator (by decide), by decide, ⟨Die.reset 0, by decide, rfl⟩, by decide, issues_curator (by decide)⟩, issues_user (by decide),
    ⟨rfl, issues_user (by decide), issues_user (by decide)⟩, issues_user (by decide), by decide⟩

/-- FORK of no warp and of 32, of 33, into a counter that is not declared; SPAWN at its four statuses and of a cohort; a misplaced packet; MBXRD of a packet
and of none; FWD to its own die and to another wing's. -/
theorem witness_WorkCreation :
    (let x (n c : BitVec 7) : LongOp := op (.s 4) (.imm n) .zr (.imm c) 0 0
     s0.issues w0 0xB0 (x 0 0) ∧ s0.issues w0 0xB0 (x 33 0) ∧ s0.issues w0 0xB0 (x 32 4) ∧ s0.issues w0 0xB0 (x 32 3) ∧ s0.groupOf w0 = some g0 ∧
     g0.ctrs.length = 4 ∧ (s0.occupied c0).length + 32 ≤ 512 ∧
     (placeWarps (lanesOf c0) (s0.core c0).place w0.vregs (s0.occupied c0) (s0.freeIndices g0 32)).isSome = true ∧ (s0.freeIndices g0 32).length = 32 ∧
     placeWarps (lanesOf c16) (s16.core c16).place 192 (s16.occupied c16) (s16.freeIndices g16 32) = none) ∧
    (let x := op (.s 4) (.s 0) .zr (.v 0) 0 0
     (onCur (wC 8)).issues (wC 8) 0xB1 x ∧ (wC 8).acts pt = true ∧ ((wC 8).word x (.s 0) 0).toNat % 16 ≠ 0 ∧ (wC 2032).regsOk = true ∧
     (onCur (wC 2032)).issues (wC 2032) 0xB1 x ∧ ((onCur (wC 2032)).grp (wC 2032)).inSpm 2032 64 = false) ∧
    (let x := op (.s 4) (.s 0) .zr (.v 0) 0 0
     let s (z : Word) := onCur (wC z)
     let p (z : Word) := WorkPkt.parse ((s z).grpSpm ((s z).grp (wC z)) z.toNat 64)
     let r (z : Word) := resOf (p z).res (p z).spm (p z).priv
     (s 0x40).issues (wC 0x40) 0xB1 x ∧ (r 0x40).ok = true ∧ (p 0x40).kind = 0 ∧ ((s 0x40).fit c0 (r 0x40)).isSome = true ∧
     ((s 0x40).core c0).fenced = false ∧ ((s 0x40).die 0).coreDom = .running ∧ (s 0x80).issues (wC 0x80) 0xB1 x ∧ (r 0x80).ok = false ∧
     ((s 0x40).core ⟨0, 1⟩).fenced = true ∧ (r 0x100).ok = true ∧ (s 0x100).fit c0 (r 0x100) = none ∧ (p 0x140).kind = 1 ∧ (r 0x140).ok = true ∧
     ∃ q rp, (s 0x140).cat? ((s 0x140).dieWing 0) (p 0x140).cat = some q ∧ q.replay = some rp ∧ rp.refused = none) ∧
    (let s : State := { onCur (wC 0x40) with dies := [{ Die.reset 0 with mailbox := [List.replicate 64 1] }] }
     let x := op (.s 4) (.s 0) (.v 0) (.v 0) 0 0
     s.issues (wC 0x40) 0xB2 x ∧ s.groupOf (wC 0x40) = some g16 ∧ s.memOk = true ∧ (s.die 0).mailbox = List.replicate 64 1 :: [] ∧
     ((onCur (wC 0x40)).die 0).mailbox = [] ∧ (onCur (wC 0x40)).issues (wC 0x40) 0xB2 { x with fn2 := 1 } ∧ (onCur (wC 0x40)).issues (wC 0x40) 0xB2 x) ∧
    (let x (d : BitVec 7) : LongOp := op (.v 0) (.s 0) (.imm d) (.v 0) 0 0
     let s := onCur (wC 0x40)
     s.issues (wC 0x40) 0xB3 (x 0) ∧ s.dieWing 0 = 0 ∧ s.dieWing 8 = 15 ∧ s.issues (wC 0x40) 0xB3 (x 8) ∧ (s.die 0).otherRoom = true ∧
     (∃ k ∈ s.dies, k.id = 0) ∧
     (({ s with dies := [{ Die.reset 0 with inbound := List.replicate 64 [] }] } : State).die 0).otherRoom = false) := by
  refine ⟨⟨issues_user (by decide), issues_user (by decide), issues_user (by decide), issues_user (by decide), rfl, by decide, by decide, by decide, by decide,
      by decide⟩,
    ⟨⟨⟨rfl, rfl⟩, by decide⟩, by decide, by decide, by decide, ⟨⟨rfl, rfl⟩, by decide⟩, by decide⟩,
    ⟨⟨⟨rfl, rfl⟩, by decide⟩, by decide, by decide, by decide, by decide, by decide, ⟨⟨rfl, rfl⟩, by decide⟩, by decide, by decide, by decide, by decide,
      by decide, by decide, _, _, rfl, rfl, rfl⟩,
    ⟨⟨⟨rfl, rfl⟩, by decide⟩, rfl, by decide, rfl, rfl, ⟨⟨rfl, rfl⟩, by decide⟩, ⟨⟨rfl, rfl⟩, by decide⟩⟩,
    ⟨⟨rfl, rfl⟩, by decide⟩, by decide, by decide, ⟨⟨rfl, rfl⟩, by decide⟩, by decide, ⟨Die.reset 0, by decide, rfl⟩, by decide⟩

/-- A context image at 0x440000 of address space 0: the magic number, version 1, 1 warp record, 256 bytes, core 0, slot 3, 8 v registers. -/
def imageMem : Mem :=
  [(0x090000000002, 0x10), (0x090000000005, 0x09), (0x090000000013, 0x80)] ++ tables ++
    [(0x090000440000, 0x41), (0x090000440001, 0x43), (0x090000440002, 0x58), (0x090000440003, 0x47), (0x090000440004, 1), (0x090000440006, 1),
      (0x090000440009, 1), (0x090000440014, 3), (0x090000440022, 2)]
/-- The curator's machine with the image, a group of one's own on core 0 and further warps. -/
def onImage (w : Warp) (gs : List Group) (ws : List Warp) : State :=
  { inWing coreC g16 w with mem := imageMem, cores := [coreC, Core.reset c0], groups := g16 :: gs, warps := w :: ws }
/-- The group that the image names. -/
def gI (p : Phase) (wing : Nat) : Group := { g0 with slot := 3, phase := p, wing := wing }
def retI : LongOp := op (.s 4) (.s 0) (.v 0) (.v 0) 0 0
/-- What the read of an image answers, with a test of it. -/
theorem ok_of {r : Except AccFail (Header × List Byte)} {P : Header → List Byte → Bool}
    (h : (match r with | .ok (a, b) => P a b | .error _ => false) = true) : ∃ a b, r = .ok (a, b) ∧ P a b = true := by
  match r with
  | .ok (a, b) => exact ⟨a, b, rfl, h⟩
  | .error _ => exact Bool.noConfusion h
theorem error_of {r : Except AccFail (Header × List Byte)} (h : (match r with | .ok _ => false | .error _ => true) = true) : ∃ e, r = .error e := by
  match r with
  | .ok _ => exact Bool.noConfusion h
  | .error e => exact ⟨e, rfl⟩

/-- A test that TRET's restore finds a group's warps from the image's records. -/
def restorable (s : State) (g : Group) (h : Header) (img : List Byte) : Bool :=
  h.ok && h.slot == 3 && (s.refit c0 h.res ((cutEvery (warpSize h.res.vregs) h.nwarps (img.drop 256)).map fun b => bytesNat b 2 1)).isSome &&
    match s.restoreWarps g h.res (cutEvery (warpSize h.res.vregs) h.nwarps (img.drop 256)) with
    | .ok ws => ws.length == 1
    | .error _ => false

set_option maxRecDepth 20000 in
theorem witness_TrapReturn :
    let w (f : Word) : Warp := { w16 with s := w16.s.set 0 f }
    let who : Who := { (s16.grp w16).whoIs with asid := 0 }
    let s (gs : List Group) (ws : List Warp) : State := onImage (w 0x440000) gs ws
    ((onImage (w 0x440100) [] []).issues (w 0x440100) 0xE3 retI ∧ (w 0x440100).acts pt = true ∧ (w 0x440100).regsOk = true ∧
      ((w 0x440100).src none .d64 (.s 0) 0).toNat % 512 ≠ 0 ∧ (onImage (w 0x440100) [] []).issues (w 0x440100) 0xE3 { retI with fn2 := 1 }) ∧
    ((onImage (w 0x80000000) [] []).issues (w 0x80000000) 0xE3 retI ∧ ∃ e, (onImage (w 0x80000000) [] []).readImage who 0x80000000 = .error e) ∧
    ((onImage (w 0x450000) [] []).issues (w 0x450000) 0xE3 retI ∧
      ∃ h img, (onImage (w 0x450000) [] []).readImage who 0x450000 = .ok (h, img) ∧ (!h.ok) = true) ∧
    ((s [] []).issues (w 0x440000) 0xE3 retI ∧ (s [] []).grp (w 0x440000) = g16 ∧
      (∃ h img, (s [] []).readImage who 0x440000 = .ok (h, img) ∧ (h.ok && ((s [] []).group? c0 h.slot).isNone) = true) ∧
      (∃ h img, (s [gI .running 0] []).readImage who 0x440000 = .ok (h, img) ∧ (h.ok && (s [gI .running 0] []).group? c0 h.slot == some (gI .running 0)) = true) ∧
      (gI .running 0).resident = true ∧ (gI (.swapped 0x440000 0) 0).resident = false ∧ (s [] []).dieWing 0 = 0 ∧
      (gI (.swapped 0x440000 0) 5).wing ≠ 0 ∧
      (∃ h img, (s [gI (.swapped 0x440000 0) 0] []).readImage who 0x440000 = .ok (h, img) ∧
        restorable (s [gI (.swapped 0x440000 0) 0] []) (gI (.swapped 0x440000 0) 0) h img = true) ∧
      ∃ h img, (s [gI (.swapped 0x440000 0) 0] [{ w0 with vregs := 192 }]).readImage who 0x440000 = .ok (h, img) ∧
        ((s [gI (.swapped 0x440000 0) 0] [{ w0 with vregs := 192 }]).refit c0 h.res
          ((cutEvery (warpSize h.res.vregs) h.nwarps (img.drop 256)).map fun b => bytesNat b 2 1)).isNone = true) ∧
    ((onImage (w 0x80000000) [] []).imageHome who 0x80000000 = onImage (w 0x80000000) [] [] ∧
      (onImage (w 0x450000) [] []).imageHome who 0x450000 = onImage (w 0x450000) [] [] ∧ (s [] []).imageHome who 0x440000 = s [] [] ∧
      (s [gI .running 0] []).imageHome who 0x440000 = s [gI .running 0] [] ∧
      (s [gI (.swapped 0x440000 0) 0] []).imageHome who 0x440000 = s [gI (.swapped 0x440000 0) 0] [] ∧
      (s [] []).warp? (w 0x440000).id = some (w 0x440000) ∧ ({ s [] [] with wings := [] } : State).dieWing 0 ≠ 0) :=
  ⟨⟨⟨⟨rfl, rfl⟩, by decide⟩, by decide, by decide, by decide, ⟨⟨rfl, rfl⟩, by decide⟩⟩, ⟨⟨⟨rfl, rfl⟩, by decide⟩, error_of (by decide)⟩,
    ⟨⟨⟨rfl, rfl⟩, by decide⟩, ok_of (P := fun h _ => !h.ok) (by decide)⟩,
    ⟨⟨⟨rfl, rfl⟩, by decide⟩, rfl, ok_of (P := fun h _ => h.ok && ((onImage _ [] []).group? c0 h.slot).isNone) (by decide),
    ok_of (P := fun h _ => h.ok && (onImage _ [gI .running 0] []).group? c0 h.slot == some (gI .running 0)) (by decide), rfl, rfl, by decide, by decide,
    ok_of (P := restorable _ _) (by decide),
    ok_of (P := fun h img => ((onImage _ _ _).refit c0 h.res ((cutEvery (warpSize h.res.vregs) h.nwarps (img.drop 256)).map fun b => bytesNat b 2 1)).isNone)
      (by decide)⟩, rfl, rfl, rfl, rfl, rfl, rfl, by decide⟩

/-! ### The steps of the machine's other agents -/

/-- A piece of thread 0: 4 bytes at an address, with their data. -/
def pc4 (a : Nat) (d : List Byte) : Piece := ⟨0, 0, a, a, 4, d⟩
/-- A request of core 0, of instruction 90, of the line at 0x090000400000, with one piece there. -/
def rq (rid : Nat) (k : ReqKind) (st : Stage) : Req :=
  { rid := rid, iid := 90, core := c0, kind := k, spm := false, line := 0x090000400000, vaLine := 0x400000, cp := 0, ro := false, priv := false,
    noAlloc := false, acq := false, seq := 0, gran := none, pieces := [pc4 0x090000400000 []], stage := st, wg := 0, acqBit := false, stale := false, kept := [] }
/-- The instruction, a load to v2, or another form. -/
def ou (f : LdForm) (c : Cls) (n : Nat) : Outst := ⟨90, w0.id, 0, 1, c, 0x1000, 0, 0, .v 2, f, n, [], .line, false, 1, 0⟩
/-- The machine with those requests and that instruction outstanding, and packets. -/
def onReq (o : Outst) (rs : List Req) (ps : List Packet) : State :=
  { inWing { coreM with reqs := rs, outst := [o] } g0 w0 with packets := ps, names := 200 }
/-- A packet, number 100, of request 7. -/
def pk (resp : Bool) (loc : Loc) : Packet :=
  { pid := 100, core := c0, rid := 7, resp := resp, sys := false, wing := 0, smask := 15, via := 0, arrived := 0, loc := loc, die := 0, router := 9, merged := [], waiting := false,
    fault := false, data := List.replicate 128 3, value := 5, ok := true, hint := none }
theorem hasCore_onReq (o : Outst) (rs : List Req) (ps : List Packet) : (onReq o rs ps).hasCore c0 := ⟨_, List.mem_singleton.mpr rfl, rfl⟩

/-- The machine whose stack 0 is fenced, and whose die 0's uncore is in reset. -/
def downState (s : State) : State := { s with hbms := [{ Stack.reset 0 with fenced := true }] }
def asideState (s : State) : State := { s with dies := [{ Die.reset 0 with uncore := .reset }] }
/-- Two wrong symbols in the first granule of an access. -/
def eccTwo : Ecc := .error 0 [(0, 1), (3, 1)] true 7

/-- A warp that waits for a block. -/
def fetchW (base : Nat) : Warp := { w0 with fetching := some base }
/-- The walk of an address: at the root, whose entry is a table; at the table, whose entry is a leaf; at an entry that is 0; an older generation. -/
def walkOn (va gen level table : Nat) : Walk := ⟨c0, w0.id, 1, gen, va, level, table, []⟩
/-- A core that reads format 1 of address space 1, and one beyond the format table. -/
def fmtCore (n : Nat) : Core := { coreM with fmts := [], fmtReads := [⟨w0.id, 1, n⟩] }
/-- Warps whose running split stands at ROT 4096 and 4095. -/
def rotW (n : Nat) : Warp := wS [{ pA with rot := n }, pB]

set_option maxRecDepth 20000 in
theorem witness_CoreSteps :
    (let s (l : List TlbEntry) (f : List WalkFail) : State := inWing { coreM with tlb := l } g0 { fetchW 0x80 with fails := f }
     (s [] []).warp? w0.id = some (fetchW 0x80) ∧ (fetchW 0x80).fetching = some 0x80 ∧ (s [] []).lookup (fetchW 0x80) g0 .fetch 0x80 = .miss ∧
     (∃ f, (s [] [⟨0x80, 1, 2, 0⟩]).lookup { fetchW 0x80 with fails := [⟨0x80, 1, 2, 0⟩] } g0 .fetch 0x80 = .fail f) ∧
     ∃ l, (s coreM.tlb []).lookup (fetchW 0x80) g0 .fetch 0x80 = .hit l ∧ (s coreM.tlb []).memDown (l.pa 0x80) = false ∧
       (downState (s coreM.tlb [])).memDown (l.pa 0x80) = true ∧ (∃ aux, ((s coreM.tlb []).homeCheck eccTwo (l.pa 0x80) 64).aux = some aux)) ∧
    (let k : Core := { coreM with reqs := [rq 7 .load .lane, rq 8 .load .lane], outst := [ou (.plain 4 false) .gld 2] }
     0 < k.ports.length ∧ (3 + 1 + 0) % 4 = 0 ∧ k.laneHead 0 0 = some (ou (.plain 4 false) .gld 2) ∧ (k.nextAccess (ou (.plain 4 false) .gld 2)).length = 2 ∧
     k.closing 0 = none ∧ ({ k with reqs := [rq 7 .load (.window 7 0), rq 8 .load .lane] }).closing 7 = none ∧
     ({ k with reqs := [rq 7 .load (.window 7 0), rq 8 .load .lane] }).closing 8 = some (90, 7)) ∧
    (let q (n : Nat) : Req := { rq n .load (.window 7 0) with pieces := [pc4 (0x090000400000 + 64 * n) []] }
     let s := onReq (ou (.plain 4 false) .gld 3) [q 7, q 8, q 9] []
     (s.core c0).closing s.clk = some (90, 7) ∧ (s.core c0).outst.find? (fun x => x.iid == 90) = some (ou (.plain 4 false) .gld 3) ∧
     (s.core c0).closeFits 90 7 = true ∧ ((s.core c0).reqs.map Req.rid).Nodup ∧
     (((s.core c0).reqs.filter (·.inWindow 90 7)).map fun r => r.pieces.length) = [1, 1, 1] ∧ (ou (.plain 4 false) .gld 3).shape = .line) ∧
    (let r : Req := { rq 7 .load (.bank 0) with spm := true, pieces := [pc4 0 [], ⟨1, 0, 0x4000, spmBeyond, 4, []⟩] }
     let t : Req := { r with kind := .store, pieces := [pc4 0 [1, 2, 3, 4], pc4 3 [5]] }
     (onReq (ou .none .spm 1) [r] []).memOk = true ∧ (onReq (ou .none .spm 1) [r] []).hasCore r.core ∧ r.kind ≠ .store ∧
     (onReq (ou .none .spm 1) [r] []).req? c0 7 = some r ∧ t.kind = .store) ∧
    (let s (k : Walk) : State := { inWing coreM g0 w0 with dies := [{ Die.reset 0 with walks := [k] }] }
     let a := walkOn 0x410000 0 0 0x090000100000
     let b := walkOn 0x410000 0 1 0x090000200000
     let z := walkOn 0x410000 0 1 0x0900007FF000
     ((s a).die 0).walks[0]? = some a ∧ (s a).genOf c0 1 = a.gen ∧ (s a).genOf c0 1 ≠ 7 ∧
     (∃ t, (s a).entryCheck 1 ((s a).desc 1).wg 0 ((s a).devNat (a.table + 8 * walkIndex 0 a.va) 8) = .table t) ∧
     (∃ l, (s b).entryCheck 1 ((s b).desc 1).wg 1 ((s b).devNat (b.table + 8 * walkIndex 1 b.va) 8) = .leaf l) ∧
     (s a).memDown (a.table + 8 * walkIndex 0 a.va) = false ∧ (∃ aux, ((s a).homeCheck eccTwo (a.table + 8 * walkIndex 0 a.va) 8).aux = some aux) ∧
     (downState (s a)).memDown (a.table + 8 * walkIndex 0 a.va) = true ∧
     ∃ r, (s z).entryCheck 1 ((s z).desc 1).wg 1 ((s z).devNat (z.table + 8 * walkIndex 1 z.va) 8) = .fail r) ∧
    (let s : State := inWing coreM g0 w0
     (s.die 0).ptrs = [] ∧ s.memDown (s.descPA 1) = false ∧ s.tableOk 1 (s.desc 1).wg (s.desc 1).root = true ∧ (∃ x ∈ s.dies, x.id = 0) ∧
     (downState s).memDown (s.descPA 1) = true ∧ s.memDown (s.descPA 2) = false ∧ s.tableOk 2 (s.desc 2).wg (s.desc 2).root = false ∧
     s.tableErrs = [] ∧ s.l2Line? (lineOf (s.descPA 1)) = none ∧
     ({ s with tableErrs := [(s.descPA 1 / 16 * 16, 7)] } : State).tableErrs = [(s.descPA 1 / 16 * 16, 7)]) ∧
    (let s (n : Nat) : State := inWing (fmtCore n) g0 w0
     ((s 1).core c0).fmtReads = ⟨w0.id, 1, 1⟩ :: [] ∧ (∃ pa, (s 1).fmtEntryPA 1 1 = some pa ∧ (s 1).memDown pa = false ∧ (downState (s 1)).memDown pa = true ∧
       ∃ aux, ((s 1).homeCheck eccTwo pa 32).aux = some aux) ∧ (s 1).fmtEntryPA 2 1 = none) ∧
    ((onUser (rotW 4096)).warp? w0.id = some (rotW 4096) ∧ (rotW 4096).running = some { pA with rot := 4096 } ∧
      (∃ q ∈ (rotW 4096).splits, q.st = .ready) ∧ (rotW 4095).running = some { pA with rot := 4095 } ∧ ¬ 4096 ≤ 4095) ∧
    (let a := sp 0x1000 (.blocked (.sleep 0)) 1
     let b := sp 0x1000 (.blocked (.sleep 1)) 2
     let s := onUser (wS [a, b])
     s.warp? w0.id = some (wS [a, b]) ∧ (wS [a, b]).splits[0]? = some a ∧ a.st = .blocked (.sleep 0) ∧ 0 ≤ s.clk ∧ (wS [a, b]).splits[1]? = some b ∧
     b.st = .blocked (.sleep 1) ∧ s.clk < 1) :=
  ⟨⟨rfl, rfl, rfl, ⟨_, rfl⟩, _, rfl, rfl, rfl, _, rfl⟩, by decide, by decide, ⟨by decide, hasCore_onReq _ _ _, by decide, rfl, rfl⟩,
    ⟨rfl, by decide, by decide, ⟨_, rfl⟩, ⟨_, rfl⟩, rfl, ⟨_, rfl⟩, rfl, _, rfl⟩, by decide, ⟨rfl, ⟨_, rfl, rfl, rfl, _, rfl⟩, by decide⟩,
    ⟨rfl, rfl, ⟨pB, List.mem_cons_of_mem _ (List.mem_singleton.mpr rfl), rfl⟩, rfl, by decide⟩, rfl, rfl, rfl, Nat.le_refl _, rfl, rfl, by decide⟩

/-- Nine splits, the first of them at ROT 4096: its demotion moves it to the spill area, which is unmapped, or at a private page that is mapped. -/
def nineW : Warp := wS ({ sp 0x1000 .running 1 with rot := 4096 } :: (List.range 8).map fun i => sp 0x2000 .ready (2 <<< i))

set_option maxRecDepth 20000 in
theorem witness_listsBeyondTheTable :
    let fault (s : State) (w : Warp) := s.spillFault w (s.grp w) (w.splits.map (·.mask)) ((w.demote 0).splits.map (·.mask))
    let v := { nineW with privbase := 0x80000 }
    (onUser nineW).warp? w0.id = some nineW ∧ nineW.running = some { sp 0x1000 .running 1 with rot := 4096 } ∧
    (∃ q ∈ nineW.splits, q.st = .ready) ∧ (∃ c, fault (onUser nineW) nineW = some c) ∧
    (onMem v).warp? w0.id = some v ∧ fault (onMem v) v = none :=
  ⟨rfl, rfl, ⟨_, List.mem_cons_of_mem _ List.mem_cons_self, rfl⟩, ⟨_, rfl⟩, rfl, rfl⟩

/-- A line that the L1 of core 0 holds, its sector 0 valid, or all of it. -/
def l1Of (all : Bool) : L1Line :=
  ⟨0, 0x090000400000, 0, false, 0, none, (List.range 128).map fun i => ⟨9, all || i < 32, if i = 0 && !all then some 0 else none⟩⟩
/-- Core 1 of die 0, which core 0 probes. -/
def core1 (all : Bool) : Core := { Core.reset ⟨0, 1⟩ with l1 := [l1Of all] }
/-- The machine whose core 0 has a request, with core 1 beside it. -/
def onPeer (r : Req) (all : Bool) : State := { onReq (ou (.plain 4 false) .gld 1) [r] [] with cores := [{ coreM with reqs := [r] }, core1 all] }
/-- A request of two sectors. -/
def rq2 (st : Stage) : Req := { rq 7 .load st with pieces := [pc4 0x090000400000 [], pc4 0x090000400020 []] }
/-- A packet that came back with a failed read. -/
def pkBad : Packet := { pk true .home with fault := true }
/-- A core with a full combining buffer at the age limit, and one that promotes core 1 and itself. -/
def coreComb : Core := { coreM with comb := [⟨8, 4, .add, .u32, 1, 0, 0, 0, 0⟩, ⟨16, 4, .add, .u32, 1, 0, 7, 0, 0⟩], promotes := [⟨w0.id, [c0, ⟨0, 1⟩]⟩] }

set_option maxRecDepth 20000 in
theorem witness_CoreReturns :
    (let r := rq 7 .load (.fabric 100)
     (onReq (ou (.plain 4 false) .gld 1) [r] [pk true .home]).returned? 100 = some (pk true .home, r) ∧ r.core = c0 ∧ r.kind = .load ∧
     (onReq (ou (.plain 4 false) .gld 1) [r] [pkBad]).returned? 100 = some (pkBad, r) ∧ pkBad.fault = true ∧
     ((onReq (ou (.plain 4 false) .gld 1) [r] [pkBad]).core c0).l1 = []) ∧
    (let r : Req := { rq 7 .load .ready with pieces := [pc4 0x090000400000 [1, 2, 3, 4]] }
     let s := onReq (ou (.plain 4 false) .gld 1) [r] []
     s.req? c0 7 = some r ∧ r.stage = .ready ∧ (s.core c0).outst.find? (fun x => x.iid == r.iid) = some (ou (.plain 4 false) .gld 1) ∧
     s.warp? w0.id = some w0 ∧ 2 < w0.v.length ∧ gotBytes ([] ++ r.pieces) 0 4 = some [1, 2, 3, 4] ∧ gotBytes ([] ++ r.pieces) 1 4 = none ∧
     ((s.core c0).reqs.map Req.rid).Nodup ∧ r.sectors.length ≤ 1 ∧
     let q : Req := { rq2 .ready with pieces := [pc4 0x090000400000 [1, 2, 3, 4], { pc4 0x090000400020 [5, 6, 7, 8] with thread := 1 }] }
     (onReq (ou (.plain 4 false) .gld 1) [q] []).req? c0 7 = some q ∧ 1 < q.sectors.length) ∧
    (let r : Req := { rq 7 .load .ready with pieces := [{ pc4 0x090000400004 [5, 6, 7, 8] with off := 4 }] }
     let o : Outst := { ou (.plain 8 false) .gld 2 with got := [pc4 0x090000400000 [1, 2, 3, 4]] }
     let s := onReq o [r] []
     s.req? c0 7 = some r ∧ (s.core c0).outst.find? (fun x => x.iid == r.iid) = some o ∧ o.form = .plain 8 false ∧ s.warp? w0.id = some w0 ∧
     2 + 8 / 4 ≤ w0.v.length ∧ r.sectors.length ≤ 1 ∧ r.pieces.any (fun p => p.thread == 0) = true ∧
     gotFrom o.got 0 0 4 = some [1, 2, 3, 4] ∧ gotFrom o.got 0 4 4 = none ∧ gotFrom (o.got ++ r.pieces) 0 4 4 = some [5, 6, 7, 8]) ∧
    (let r := rq 7 (.atom .add .u32 1 true) (.fabric 100)
     let s := onReq (ou (.atom 4) .gld 1) [r] [pk true .home]
     s.returned? 100 = some (pk true .home, r) ∧ r.stage = .fabric 100 ∧ r.pieces = [pc4 0x090000400000 []] ∧
     (s.core c0).outst.find? (fun x => x.iid == r.iid) = some (ou (.atom 4) .gld 1) ∧ (ou (.atom 4) .gld 1).got = []) ∧
    (let r := rq 7 .store (.fabric 100)
     let q := rq 7 (.atom .add .u32 1 false) (.fabric 100)
     (onReq (ou .none .gst 1) [r] [pk true .home]).returned? 100 = some (pk true .home, r) ∧
     (onReq (ou .none .gst 1) [r] [pkBad]).returned? 100 = some (pkBad, r) ∧ (onReq (ou .none .gst 1) [q] [pk true .home]).returned? 100 = some (pk true .home, q)) ∧
    (∀ n ∈ [1, 2], ((onReq (ou .none .gst n) [rq 7 .store .ready] []).core c0).outst.find? (fun x => x.iid == 90) = some (ou .none .gst n) ∧
      (ou .none .gst n).left = n) ∧
    ((inWing coreComb g0 w0).hasCore c0 ∧ ((({ inWing coreComb g0 w0 with clk := 1024 } : State).core c0).comb.map fun e => decide (1024 < e.born + 1024)) =
      [false, true]) ∧
    (∀ b : Bool, (onPeer (rq2 (.probe 1)) b).req? c0 7 = some (rq2 (.probe 1)) ∧ ((onPeer (rq2 (.probe 1)) b).core ⟨0, 1⟩).fenced = false ∧
      ((onPeer (rq2 (.probe 1)) b).die 0).coreDom = .running ∧
      ((onPeer (rq2 (.probe 1)) b).core ⟨0, 1⟩).l1.find? (fun l => l.line == (rq2 (.probe 1)).line) = some (l1Of b) ∧
      ((((onPeer (rq2 (.probe 1)) b).askedSectors (rq2 (.probe 1))).all fun i => (List.range 32).all fun j =>
        ((l1Of b).bytes.getD (32 * i + j) l1Invalid).valid && ((l1Of b).bytes.getD (32 * i + j) l1Invalid).dirty == none) = b) ∧
      ((onPeer (rq2 (.probe 1)) b).core ⟨0, 1⟩).reqs = []) ∧
    ((onPeer (rq 7 .load (.probe 2)) true).req? c0 7 = some (rq 7 .load (.probe 2)) ∧
      ((onPeer (rq 7 .load (.probe 2)) true).core ⟨0, 2⟩).l1 = []) ∧
    (∀ a : Option (List Byte), (onReq (ou (.plain 4 false) .gld 1) [rq 7 .load (.probed a)] []).req? c0 7 = some (rq 7 .load (.probed a)) ∧
      ((onReq (ou (.plain 4 false) .gld 1) [rq 7 .load (.probed a)] []).core c0).seqHeld = false ∧ (rq 7 .load (.probed a)).stale = false ∧
      ({ rq 7 .load (.probed a) with stale := true } : Req).stale = true) ∧
    ({ coreM with reqs := [rq 7 .load (.probed none), rq 8 .load (.fabric 101)], seq := 16 } : Core).seqHeld = true ∧
    (let s : State := { inWing coreComb g0 w0 with cores := [coreComb, core1 true] }
     s.hasCore ⟨0, 1⟩ ∧ s.hasCore c0 ∧ (∃ p ∈ (s.core c0).promotes, ⟨0, 1⟩ ∈ p.left) ∧ ∃ p ∈ (s.core c0).promotes, c0 ∈ p.left) :=
  ⟨⟨rfl, rfl, rfl, rfl, rfl, rfl⟩, ⟨rfl, rfl, rfl, rfl, by decide, by decide, by decide, by decide, by decide, rfl, by decide⟩,
    ⟨rfl, rfl, rfl, rfl, by decide, by decide, by decide, by decide, by decide, by decide⟩, ⟨rfl, rfl, rfl, rfl, rfl⟩, ⟨rfl, rfl, rfl⟩, by decide,
    ⟨⟨_, List.mem_singleton.mpr rfl, rfl⟩, by decide⟩, by decide, ⟨rfl, by decide⟩, fun _ => ⟨rfl, rfl, rfl, rfl⟩, rfl,
    ⟨core1 true, List.mem_cons_of_mem _ (List.mem_singleton.mpr rfl), rfl⟩, ⟨coreComb, List.mem_cons_self, rfl⟩, by decide, by decide⟩

/-- A packet between two routers. -/
def pkAt (l : Loc) (die : Nat) (sys : Bool) : Packet := { pk false l with die := die, sys := sys }
/-- A newer read of the same line at the same router. -/
def pkB : Packet := { pkAt (.mesh 0 9) 0 false with pid := 101, rid := 8 }
/-- The machine with an oldest read and a newer one. -/
def onMesh (ps : List Packet) : State := onReq (ou (.plain 4 false) .gld 2) [rq 7 .load (.fabric 100), rq 8 .load (.fabric 101)] ps
/-- The machine at a slot of the wheel, whose slot 1 is wing 0's, at a time. -/
def onWheel (slot clk : Nat) (ps : List Packet) : State :=
  let s := onMesh ps
  { s with clk := clk, docent := { s.docent with wheelSlot := slot, wheel := s.docent.wheel.set 1 0x40, opReports := [[1]], wheelNext := some (List.replicate 64 0x40) } }
/-- A raise that waits for some cores, for requests, and for what core 0's combining buffer held then. -/
def raiseX (l : List CoreId) (o : List (CoreId × Nat)) : Raise := ⟨1, 1, false, l, o, [(c0, 5)], none, some (0, 4)⟩

set_option maxRecDepth 20000 in
/-- A packet at the tile of another die, too early for it. -/
theorem witness_packetTooEarly :
    let h : Packet := { pkAt (.tile 2) 1 false with due := 100000 }
    (onWheel 1 42 [h]).packet? 100 = some h ∧ h.die < 9 ∧ 2 = 5 * (h.die / 3) + h.die % 3 + 1 ∧ (onWheel 1 42 [h]).clk < h.due := by decide

set_option maxRecDepth 20000 in
theorem witness_FabricSteps :
    (let a := pkAt (.mesh 0 9) 0 false
     (onMesh [a, pkB]).packet? 100 = some a ∧ (onMesh [a, pkB]).packets.find? ((onMesh [a, pkB]).mayMerge a) = some pkB ∧
     (onMesh [a]).packets.find? ((onMesh [a]).mayMerge a) = none ∧ a.router = 9 ∧ (onMesh [a]).packet? 100 = some a) ∧
    (∀ r ∈ [(8 : Nat), 10, 1, 17], (onMesh [pkAt (.mesh 0 r) 0 false]).packet? 100 = some (pkAt (.mesh 0 r) 0 false) ∧
      ((0 < 1 ∧ 1 ≤ 9 % 8 - r % 8) ∨ (0 < 1 ∧ 1 ≤ r % 8 - 9 % 8) ∨ (r % 8 = 9 % 8 ∧ 1 ≤ 9 / 8 - r / 8) ∨ (r % 8 = 9 % 8 ∧ 1 ≤ r / 8 - 9 / 8))) ∧
    (let p := pkAt (.tile 1) 1 false
     let q := pkAt (.tile 1) 1 true
     let h := pkAt (.tile 2) 1 false
     let full := (List.range 8).map fun i => { p with pid := 200 + i, loc := .tile 2, via := 1 }
     let e := { pkAt .edge 1 false with via := 1 }
     let held (l : List Packet) (n v : Nat) := (l.filter fun q => q.loc == .tile n && q.via == v && q.wing == p.wing && q.cls == p.cls).length
     (onWheel 1 42 [h]).packet? 100 = some h ∧ (onWheel 1 42 [p]).packet? 100 = some p ∧ held (onWheel 1 42 [p]).packets 2 1 = 0 ∧
     held (onWheel 1 42 (p :: full)).packets 2 1 = 8 ∧ (onWheel 1 42 (p :: full)).packet? 100 = some p ∧ 5 * (1 / 3) + 1 % 3 + 1 = 2 ∧
     (onMesh [e]).packet? 100 = some e ∧ held (onMesh [e]).packets 1 1 = 0 ∧
     held (onMesh (e :: full.map fun q => { q with loc := .tile 1 })).packets 1 1 = 8 ∧
     (onWheel 1 42 [p]).slotKind 1 = (1, p.wing) ∧ (onWheel 1 42 [p]).time % 32 ≤ 24 ∧ (onWheel 1 42 [p]).slotNow = 1 ∧
     ¬ (onWheel 1 80 [p]).time % 32 ≤ 24 ∧ (onWheel 0 0 [q]).packet? 100 = some q ∧ ((onWheel 0 0 [q]).slotKind 0).1 = 2 ∧
     ((onWheel 1 42 [q]).slotKind 1).1 ≠ 2) ∧
    ((onWheel 0 0 []).slotNow = 0 ∧ (onWheel 0 42 []).slotNow ≠ 0 ∧ (onWheel 63 0 []).slotNow ≠ 63 ∧ (63 + 1) % 64 = 0) ∧
    (let s : State := { onMesh [] with raises := [raiseX [c0] [], raiseX [] [(c0, 7)], raiseX [] []] }
     (∀ r ∈ [s.raises.head?], r = some (raiseX [c0] [])) ∧ (∃ x ∈ (s.core c0).reqs, (s.core c0).asidOf x = some 1) ∧ (∃ e ∈ (s.core c0).tlb, e.asid = 1) ∧ s.req? c0 7 ≠ none ∧
     s.raises[2]? = some (raiseX [] []) ∧ (∀ o ∈ (raiseX [] []).combs, ∀ e ∈ (s.core o.1).comb, o.2 < e.born) ∧
     ∀ (j : Nat) (q : Raise), j < 2 → s.raises[j]? = some q →
       ¬ (q.left = [] ∧ (∀ o ∈ q.older, s.req? o.1 o.2 = none) ∧ ∀ o ∈ q.combs, ∀ e ∈ (s.core o.1).comb, o.2 < e.born)) := by
  refine ⟨⟨rfl, by decide, by decide, rfl, rfl⟩, by decide, ⟨rfl, rfl, by decide, by decide, rfl, rfl, rfl, by decide, by decide, by decide, by decide, by decide, by decide, rfl, by decide, by decide⟩,
    by decide, by decide, ⟨_, List.mem_cons_self, by decide⟩, ⟨_, List.mem_cons_self, rfl⟩, by decide, rfl, by decide, fun j q hj hq => ?_⟩
  match j, hj with
  | 0, _ => cases hq; exact fun h => absurd h.1 (by decide)
  | 1, _ => cases hq; exact fun h => absurd (h.2.1 _ (List.mem_singleton.mpr rfl)) (by decide)

/-- A packet at home, and the machine whose home holds the line, in L2, or not. -/
def pkHome : Packet := pk false .home
def l2X : L2Line := ⟨0x090000400000, 0, List.replicate 8 true, List.replicate 8 false, List.replicate 128 7, none, 0⟩
def onHome (r : Req) (inL2 : Bool) : State := { onReq (ou (.atom 4) .gld 1) [r] [pkHome] with l2 := if inL2 then [l2X] else [] }
/-- A fetch-and-op of a word, a counter's wait, and a counter's read. -/
def rqA (k : ReqKind) (st : Stage) : Req := rq 7 k st
/-- 32 monitors of the word's slice. -/
def monX (n : Nat) : List Monitor := List.replicate n ⟨0x090000400000, 9, 300⟩

set_option maxRecDepth 20000 in
theorem witness_HomeSteps :
    (∀ k ∈ [ReqKind.load, .prefL1, .prefL2, .store], let r := rq 7 k (.fabric 100)
      ∀ b : Bool, (onHome r b).packet? 100 = some pkHome ∧ (onHome r b).req? c0 7 = some r ∧ (onHome r b).memDown r.line = false ∧
        (onHome r b).bypass r.line = false ∧ (downState (onHome r b)).memDown r.line = true ∧ (asideState (onHome r b)).bypass r.line = true) ∧
    (pkHome.resp = false ∧ pkHome.waiting = false ∧ pkHome.loc = .home ∧
      (onHome (rq 7 .load (.fabric 100)) true).l2Line? 0x090000400000 = some l2X ∧ (∀ g < 8, l2X.valid.getD g false = true) ∧
      (onHome (rq 7 .load (.fabric 100)) false).l2Line? 0x090000400000 = none) ∧
    (let r := rqA (.atom .add .u32 1 true) (.fabric 100)
     let late := rqA (.atom .add .u32 1 true) .waiting
     r.atAtomicUnit = true ∧ (onHome r true).runOf r = [r] ∧ (onHome r true).atHome r = some pkHome ∧ (onHome late true).runOf late = [late] ∧
     (onHome late true).atHome late = none ∧ l2X.has (r.wordPA % 128) = true ∧ r.wordPA % 4 = 0 ∧ l2X.data.length = 128) ∧
    (let c := rqA (.cwait 0x0707070707070707) (.fabric 100)
     let d := rqA (.cwait 0x0707070707070708) (.fabric 100)
     (0x0707070707070707 : DWord).toNat ≤ (onHome c true).devNat c.wordPA 8 ∧ (onHome d true).devNat d.wordPA 8 < (0x0707070707070708 : DWord).toNat ∧
     ∀ n ∈ [(31, true), (32, false)], (({ onHome d true with monitors := monX n.1 } : State).monitors.filter fun m =>
       (onHome d true).homeDie m.pa == pkHome.die && sliceOf m.pa == sliceOf d.wordPA).length = n.1 ∧ decide (n.1 < 32) = n.2) ∧
    (let r := rqA (.cwait 3) (.fabric 100)
     let s (p : Packet) := onReq (ou .none .none 1) [r] [p]
     (s (pk true .home)).returned? 100 = some (pk true .home, r) ∧ (pk true .home).ok = true ∧ (s pkBad).returned? 100 = some (pkBad, r) ∧
     (s { pk true .home with ok := false }).returned? 100 = some ({ pk true .home with ok := false }, r)) ∧
    (∀ n ∈ [(0 : Nat), 1], (onReq (ou .none .none 1) [rqA (.cwait 3) (.retry n)] []).req? c0 7 = some (rqA (.cwait 3) (.retry n))) ∧
    0 ≤ (onReq (ou .none .none 1) [] []).clk ∧ (onReq (ou .none .none 1) [] []).clk < 1 := by
  refine ⟨by decide, ⟨rfl, rfl, rfl, rfl, by decide, rfl⟩, by decide, by decide, ⟨rfl, rfl, rfl, rfl⟩, by decide, by decide, by decide⟩

/-- A read of a line, of source die 0 and a group slot; a full write of two bytes; and a masked write of one. -/
def rdX (slot : Nat) : MemReq := ⟨0, slot, 0, none, 15, 0, 0x090000400000, [], some 100⟩
def wrX (kind : Nat) : MemReq := ⟨0, 0, kind, none, 1, 0, 0x090000400000, [(0, 1), (1, 2)], none⟩
/-- A stack with one channel's queue and turn. -/
def onChan (q : List MemReq) (t : Option Turn) : State :=
  { onReq (ou (.plain 4 false) .gld 1) [rq 7 .load (.fabric 100)] [pk false .home] with
    hbms := [{ Stack.reset 0 with trained := true, chans := [⟨q, t⟩] }], buffers := [{ Buffer.reset 0 with trained := true, queue := q }] }

set_option maxRecDepth 20000 in
theorem witness_MemorySteps :
    (((onChan [rdX 5, rdX 6] none).stack 0).chans[0]? = some ⟨[rdX 5, rdX 6], none⟩ ∧ [rdX 5, rdX 6][0]? = some (rdX 5) ∧
      16 ≤ (⟨0, 6, 16⟩ : Turn).count ∧ (∀ r ∈ [rdX 5], r.ofTurn ⟨0, 6, 3⟩ = false)) ∧
    (((onChan [{ rdX 5 with line := 0x090000400080 }, rdX 6] (some ⟨0, 6, 15⟩)).stack 0).chans[0]? =
        some ⟨[{ rdX 5 with line := 0x090000400080 }, rdX 6], some ⟨0, 6, 15⟩⟩ ∧ (15 : Nat) < 16 ∧ (rdX 6).ofTurn ⟨0, 6, 15⟩ = true ∧
      (rdX 5).ofTurn ⟨0, 6, 15⟩ = false ∧ (rdX 6).overlaps { rdX 5 with line := 0x090000400080 } = false) ∧
    ((onChan [rdX 5] none).buffer 0).queue = rdX 5 :: [] ∧
    (let s := onChan [] none
     (rdX 5).kind = 0 ∧ (rdX 5).ack = some 100 ∧ s.packet? 100 = some (pk false .home) ∧ s.req? c0 7 = some (rq 7 .load (.fabric 100)) ∧ s.memOk = true ∧
     ((wrX 1).bytes.map (·.1)).Nodup ∧ (∀ c ∈ (wrX 1).bytes, isStackPA ((wrX 1).line + c.1) = true) ∧ (wrX 2).kind = 2 ∧ (wrX 2).ack = none) ∧
    (let s := onChan [] none
     (s.slotKind s.docent.wheelSlot).1 = 2 ∧ (s.stack 0).trained = true ∧ (s.stack 0).scrubHours ≠ 0 ∧
     ¬ (({ s with docent := { s.docent with wheelSlot := 1 } } : State).slotKind 1).1 = 2 ∧
     (({ s with hbms := [{ Stack.reset 0 with trained := true, scrubHours := 0 }] } : State).stack 0).scrubHours = 0 ∧ ∃ k ∈ s.hbms, k.id = 0) ∧
    (isViewPA 0x090000400000 = false ∧ (∃ k ∈ (onChan [] none).hbms, k.id = stackDie 0x090000400000) ∧
      (wrX 2).line % checkUnit (wrX 2).line = 0 ∧
      ∃ x, (eccCheck eccTwo (wrX 2).partUnits).lost = some x ∧ x.1 % checkUnit (wrX 2).line = 0) ∧
    (∀ n ∈ [(64, true), (65, false)], ∀ clk ∈ [0, 4679999999999],
      let errs (l : List Nat) : Nat := (l.filter fun c => clk < c + 4680000000000).length
      decide (errs (({ onChan [] none with hbms := [{ Stack.reset 0 with hourErrs := List.replicate n.1 0 }] } : State).stack 0).hourErrs ≤ 64) = n.2 ∧
      decide (errs (({ onChan [] none with buffers := [{ Buffer.reset 0 with hourErrs := List.replicate n.1 0 }] } : State).buffer 0).hourErrs ≤ 64) = n.2) := by
  refine ⟨⟨rfl, rfl, by decide, by decide⟩, ⟨rfl, by decide, by decide, by decide, by decide⟩, rfl,
    ⟨rfl, rfl, rfl, rfl, by decide, by decide, by decide, rfl, rfl⟩, ⟨by decide, rfl, by decide, by decide, rfl, ⟨_, List.mem_singleton.mpr rfl, rfl⟩⟩,
    ⟨by decide, ⟨_, List.mem_singleton.mpr rfl, by decide⟩, by decide, _, rfl, by decide⟩, by decide⟩

/-- An entry of core 0's queues, of the group in slot 0: the command at a place of the scratchpad, with its progress. -/
def entX (place len : Nat) (hdr : List Nat) (done : Nat) (started : Bool) : EngEntry :=
  ⟨60, 0, false, sE.spmBytes c0 place len, hdr, done, started, false, false, false, [], w0.issuer, none⟩
/-- The copy from scratchpad to scratchpad, the BINPLAY and the EMBPOOL that the scratchpad holds. -/
def copyX (done : Nat) (started : Bool) : EngEntry := entX 0 48 [] done started
def playX (done : Nat) : EngEntry := entX 0x40 48 [1, 1, 4] done false
def poolX : EngEntry := entX 0x80 64 [] 0 false
/-- The machine with an item at the head of each of the eight channels, of the binning queue and of the pooling queue. -/
def onQueue (ch bin pool : List QItem) : State :=
  inWing { coreE with chans := List.replicate 8 ch, binq := bin, poolq := pool } g0 w0
/-- A machine whose core has taken up the bag, with a view left or none, or with an uncorrectable row. -/
def onBag (b : Bag) : State := inWing { coreE with poolq := [.entry poolX], bag := some b } g0 w0
def bagX (views : List Nat) (bad : Option DWord) : Bag :=
  ⟨[0], [0], [(0, 0x40000000, 0x200000000000)], none, [], views, [], false, false, bad⟩
/-- A fence of every queue. -/
def fenceX (mask : BitVec 11) : Fence := ⟨61, 0, mask, .none, 0, [], w0.issuer⟩
/-- The mark of the fence in the matrix queue, and an entry that is guarded off. -/
def mxX (off : Bool) (f : Option Nat) : MxEntry := ⟨62, 0xC3, mzeroX, 0, 0, 0, off, 0, f, some [], [], false, w0.issuer⟩
  where mzeroX : LongOp := op (.v 1) (.v 0) (.v 0) (.v 0) 0 0
/-- The machine where every queue holds the mark at its head, and where the channels do not. -/
def onFence (heads : Bool) : State :=
  let m : List QItem := [.fence 61]
  inWing { coreE with chans := List.replicate 8 (if heads then m else .entry (copyX 0 false) :: m), binq := m, poolq := m, fences := [fenceX 2047] }
    { g0 with mxq := [mxX false (some 61)] } w0

/-- What a result answers is an error, or not. -/
theorem isErr_of {α : Type} {r : Except Cause α} (h : (match r with | .ok _ => false | .error _ => true) = true) : ∃ e, r = .error e := by
  match r with
  | .ok _ => exact Bool.noConfusion h
  | .error e => exact ⟨e, rfl⟩
theorem isOk_of {α : Type} {r : Except Cause α} (h : (match r with | .ok _ => true | .error _ => false) = true) : ∃ a, r = .ok a := by
  match r with
  | .ok a => exact ⟨a, rfl⟩
  | .error _ => exact Bool.noConfusion h

set_option maxRecDepth 20000 in
theorem witness_EngineSteps_copy :
    (∀ n < 8, (onQueue [.entry (copyX 0 false)] [] []).headOf c0 n = some (g0, copyX 0 false)) ∧
    (onQueue [.entry (copyX 0 true)] [] []).headOf c0 7 = some (g0, copyX 0 true) ∧ (onQueue [.entry (copyX 0 true)] [] []).memOk = true ∧
    7 < g0.wptr.length ∧ (onQueue [] [] []).memOk = true ∧ ((onQueue [] [] []).core c0).needsOver [] = true ∧
    (let cmd := CopyCmd.parse (copyX 0 true).cmd
     cmd.total = 64 ∧ cmd.unitAt 0 = 64 ∧ cmd.dec = 0 ∧ cmd.sspm = true ∧ cmd.dspm = true ∧
     (∀ k ∈ [(64, false), (0, true)], decide (k.1 < cmd.total) = k.2) ∧
     (onQueue [.entry (copyX 64 true)] [] []).headOf c0 0 = some (g0, copyX 64 true)) ∧
    (∀ f : Bool × Bool, let e : EngEntry := { copyX 0 true with cmd := (copyX 0 true).cmd.set 22 (if f.1 then 1 else if f.2 then 2 else 0) }
     (onQueue [.entry e] [] []).headOf c0 0 = some (g0, e)) ∧
    (let out := CopyCmd.parse ((copyX 0 true).cmd.set 22 1)
     let inn := CopyCmd.parse ((copyX 0 true).cmd.set 22 2)
     let bad : EngEntry := { copyX 0 true with cmd := ((copyX 0 true).cmd.set 22 2).set 4 1 }
     out.sspm = true ∧ out.dspm = false ∧ (∃ ps, sE.engPages g0.whoIs .write out.dst 64 = .ok ps) ∧
     (∃ f, sE.engPages g0.whoIs .write (2 ^ 40) 64 = .error f) ∧ inn.sspm = false ∧ inn.dspm = true ∧ (sE.core c0).comb = [] ∧ (sE.core c0).l1 = [] ∧
     (∃ l, sE.engPages g0.whoIs .read (inn.srcAt 0) 1 = .ok [(inn.srcAt 0, 1, l)] ∧
       ∃ f, (sE.engCheck [(inn.srcAt 0, 1, l)] eccTwo).cause = some f) ∧
     (∃ f, (sE.copySource g0 bad 0 64).head? = some (.error f)) ∧
     let one (flags : Byte) : EngEntry := { copyX 0 true with cmd := ((copyX 0 true).cmd.set 22 flags).set 16 1 }
     let far := CopyCmd.parse (one 0).cmd
     let dec := CopyCmd.parse (one 6).cmd
     far.sspm = false ∧ far.dspm = false ∧ far.dec = 0 ∧ far.unitAt 0 = 1 ∧
     (∃ l, sE.engPages g0.whoIs .read (far.srcAt 0) 1 = .ok [(far.srcAt 0, 1, l)]) ∧ (∃ ps, sE.engPages g0.whoIs .write (far.dstAt 0) 1 = .ok ps) ∧
     dec.sspm = false ∧ dec.dspm = true ∧ dec.dec = 1 ∧ dec.unitAt 0 = 4 ∧ dec.rowLen = 1 ∧ fmtBits none dec.raw = 16 ∧
     sE.entryFmt g0 (one 6) = .ok (0, none) ∧ (∃ l, sE.engPages g0.whoIs .read dec.src 2 = .ok [(dec.src, 2, l)] ∧ l.fmt = 0) ∧
     (sE.core c0).headEntry 0 = none ∧ ∀ f ∈ [(0 : Byte), 6], (onQueue [.entry (one f)] [] []).headOf c0 0 = some (g0, one f)) := by
  refine ⟨by decide, rfl, by decide, by decide, by decide, by decide, by decide, fun _ => rfl, ?_⟩
  exact ⟨by decide, by decide, ⟨_, rfl⟩, ⟨_, rfl⟩, by decide, by decide, rfl, rfl, ⟨_, rfl, _, rfl⟩,
    ⟨_, rfl⟩, by decide, by decide, by decide, by decide, ⟨_, rfl⟩, ⟨_, rfl⟩, by decide, by decide, by decide, by decide, by decide, by decide, rfl, ⟨_, rfl, rfl⟩,
    by decide, by decide⟩

set_option maxRecDepth 20000 in
theorem witness_EngineSteps :
    (∀ n < 8, (onQueue [.entry { copyX 0 false with off := true }] [] []).headOf c0 n = some (g0, { copyX 0 false with off := true })) ∧
    ((onQueue [] [] []).core c0).needsOver [] = true ∧ ({ coreE with outst := [ou .none .gst 1] } : Core).needsOver [90] = false ∧
    (onQueue [] [.entry (playX 1)] []).headOf c0 8 = some (g0, playX 1) ∧ (playX 1).done ≠ 0 ∧
    (let g : Group := { g0 with mxq := [mxX true none] }
     (inWing coreE g w0).group? c0 0 = some g ∧ (mxX true none).off = true) ∧
    (let s := onQueue [.entry (copyX 64 true)] [.entry (playX 1)] [.entry poolX]
     s.group? c0 0 = some g0 ∧ (s.core c0).headEntry 7 = some (copyX 64 true) ∧ ((copyX 64 true).counter 7).1 = .none ∧
     ({ copyX 64 true with cmd := ((copyX 64 true).cmd.set 22 0x13).set 23 3 }.counter 7).1 = .loc 3 ∧
     ({ copyX 64 true with cmd := ((copyX 64 true).cmd.set 22 0x23).set 36 1 }.counter 7).1 = .glob (2 ^ 32) ∧
     (∃ f, s.engPages g0.whoIs .atomic (2 ^ 32) 8 = .error f) ∧
     (∀ k ∈ s.hbms, ∀ ch ∈ k.chans, ch.queue = []) ∧ (∀ b ∈ s.buffers, b.queue = []) ∧
     (let m : MemReq := { wrX 1 with slot := g0.whoIs.slot }
      m.kind ≠ 0 ∧ m.ack = none ∧ m.src = g0.core.die ∧ ∃ k ∈ (onChan [m] none).hbms, ∃ ch ∈ k.chans, m ∈ ch.queue) ∧
     fenceX 2047 ∈ ((onFence true).core c0).fences ∧ (fenceX 2047).mask.getLsbD 7 = true ∧ g0.deferred = []) ∧
    ((onFence true).group? c0 0 = some { g0 with mxq := [mxX false (some 61)] } ∧
      ((onFence true).core c0).fences.find? (fun x => x.fid == 61) = some (fenceX 2047) ∧
      (∀ n < 10, (((onFence true).core c0).queue n).head? = some (.fence 61)) ∧ (((onFence false).core c0).queue 0).head? ≠ some (.fence 61) ∧
      (∃ s1, (onFence true).engineAdd { g0 with mxq := [mxX false (some 61)] } .none 0 w0.issuer = .ok s1) ∧
      (∃ x, (onFence true).engineAdd g0 (.glob (2 ^ 32)) 0 w0.issuer = .error x ∧ x.cls = 1) ∧
      (∃ x, (asideState (onFence true)).engineAdd g0 (.glob 0x400000) 0 w0.issuer = .error x ∧ x.cls ≠ 1) ∧
      ((onFence false).core g0.core).queue 0 = [.entry (copyX 0 false)] ++ .fence 61 :: [] ∧ QItem.fence 61 ∉ [QItem.entry (copyX 0 false)]) ∧
    (let s := onQueue [] [.entry (playX 0)] []
     s.headOf c0 8 = some (g0, playX 0) ∧ (playX 0).done = 0 ∧ (∃ p, s.playPages g0 (PlayCmd.parse (playX 0).cmd) ⟨1, 1, 4⟩ = .ok p ∧
       ∃ f, (s.engCheck (p.count ++ p.target ++ p.slots) eccTwo).cause = some f) ∧
     ∃ f, s.playPages g0 { PlayCmd.parse (playX 0).cmd with abase := 2 ^ 40 } ⟨1, 1, 4⟩ = .error f) ∧
    ([(0 : Word), 1].length = 2 ^ 1 ∧ 1 < 2 ^ 1 ∧ ∀ e ∈ [(3, 2 ^ 32 - 1)], e.2 < 2 ^ 32) := by
  refine ⟨by decide, by decide, by decide, rfl, by decide, ⟨rfl, rfl⟩, ⟨rfl, rfl, by decide, by decide, by decide, isErr_of rfl, by decide, by decide,
      ⟨by decide, rfl, rfl, _, List.mem_singleton.mpr rfl, _, List.mem_singleton.mpr rfl, List.mem_singleton.mpr rfl⟩, by decide, by decide, rfl⟩,
    ⟨rfl, rfl, by decide, by decide, ⟨_, rfl⟩, ⟨_, rfl, by decide⟩, ⟨_, rfl, by decide⟩, rfl, by decide⟩,
    ⟨rfl, rfl, ⟨_, rfl, _, rfl⟩, isErr_of rfl⟩, by decide⟩

set_option maxRecDepth 200000 in
theorem witness_PoolSteps :
    (let s := onQueue [] [] [.entry poolX]
     let cmd := PoolCmd.parse poolX.cmd
     let lo := leNat (s.grpSpm g0 cmd.offOff 4)
     let hi := leNat (s.grpSpm g0 (cmd.offOff + 4) 4)
     let idx := (s.spmWords g0 (cmd.idxOff + 4 * lo) (hi - lo)).map (·.toNat)
     s.headOf c0 9 = some (g0, poolX) ∧ (s.core c0).bag = none ∧ 0 < cmd.nbags ∧ poolGeom g0 cmd (s.tableOf g0 cmd) lo hi = false ∧ lo < hi ∧
     s.bagCode g0 cmd (s.tableOf g0 cmd) idx = 0 ∧ s.bagCode g0 cmd (s.tableOf g0 cmd) [4] ≠ 0 ∧ poolGeom g0 cmd (s.tableOf g0 cmd) 0 0 = false ∧
     poolGeom g0 cmd (s.tableOf g0 cmd) 1 0 = true ∧ cmd.dspm = true ∧ (poolX.counter 9).1 = .none ∧ poolX.trapT = false ∧ poolX.reject = false ∧
     (downState s).bagCode g0 cmd (s.tableOf g0 cmd) idx = 0x20 ∧ (∃ f, (downState s).bagFail g0 cmd (s.tableOf g0 cmd) idx = some f) ∧
     (∃ u, s.tableOf g0 cmd = some u ∧ idx ≠ [] ∧ (∀ x ∈ idx, x < cmd.nrows) ∧ (∀ x ∈ idx, ∀ y ∈ idx, u.segOf cmd x = u.segOf cmd y) ∧
       (∃ x, cmd.nrows ≤ x) ∧ u.segOf cmd 0 ≠ u.segOf cmd (2 ^ 20) ∧
       ∀ base ∈ [cmd.tbase, u.segBase cmd idx], ∀ i : Fin 32,
         (match s.leafNow c0 g0.asid (base + 65536 * i) with | .ok l => isViewPA l.base && l.fmt == 0 | .error _ => false) = true) ∧
     s.memOk = true ∧ (s.core c0).headEntry 9 = some poolX ∧
     cmd.nbags ≤ ({ poolX with done := 1 } : EngEntry).done ∧ (onQueue [] [] [.entry { poolX with trapT := true }]).headOf c0 9 = some (g0, { poolX with trapT := true })) ∧
    ((onBag (bagX [0] none)).headOf c0 9 = some (g0, poolX) ∧ ((onBag (bagX [0] none)).core c0).bag = some (bagX [0] none) ∧
      (∃ aux, (eccCheck eccTwo (rowUnits (PoolCmd.parse poolX.cmd) (bagX [0] none) ((bagX [0] none).rowsOf 0))).aux = some aux) ∧
      0 ∈ (bagX [0] none).views ∧ (bagX [0] none).fmt = none ∧
      (let b := { bagX [] none with parts := [(0, [0x3F800000])] }
       (List.range 8).filterMap (fun v => (b.parts.find? fun q => q.1 == v).map (·.2)) = [0x3F800000] :: [] ∧
       (PoolCmd.parse poolX.cmd).obf = false ∧ b.idx ≠ [] ∧ b.idx.length < 2 ^ 32) ∧ f32Finite 0x3F800000 = true ∧
      ((onBag (bagX [] none)).core c0).bag = some (bagX [] none) ∧ ((onBag (bagX [] (some 3))).core c0).bag = some (bagX [] (some 3)) ∧
      ∃ ps, (onBag (bagX [] none)).engPages g0.whoIs .write 0x400000 16 = .ok ps) :=
  by
  refine ⟨⟨rfl, rfl, by decide, by decide, by decide, by decide, by decide, by decide, by decide, by decide, by decide, rfl, rfl, by decide, ⟨_, rfl⟩,
      ⟨_, rfl, by decide, by decide, by decide, ⟨_, le_refl _⟩, by decide, by decide⟩, by decide, rfl, by decide, rfl⟩,
    rfl, rfl, ⟨_, rfl⟩, by decide, rfl, ⟨by decide, by decide, by decide, by decide⟩, by decide, rfl, rfl, _, rfl⟩

/-- An entry of the group's matrix queue: its opcode, its fields and its three sources, with formats as codes. -/
def mxE (opc : BitVec 8) (x : LongOp) (a b c : DWord) : MxEntry := ⟨50, opc, x, a, b, c, false, 3, none, some [none, none], [], false, w0.issuer⟩
/-- MMA of tile 1, MSTA of tile 1, and a batch mark. -/
def tileX (fn2 : BitVec 5) : LongOp := op (.v 1) (.s 0) (.s 2) (.s 4) 0 fn2
def mmaE : MxEntry := mxE 0xC0 (tileX 0) 0 0x400 0x001000A0
def mmvE (a : DWord) : MxEntry := mxE 0xC2 (tileX 0) a 0x400 0x001000A0
def mstaE (fn2 : BitVec 5) (pitch : DWord) : MxEntry := mxE 0xC5 (tileX fn2) 0 pitch 0
def batchE (fn2 : BitVec 5) (a : DWord) : MxEntry := mxE 0xC6 (op (.s 20) (.imm 3) (.imm 1) (.v 0) 0 fn2) a 1 0
/-- The group with entries in its queue, and the machine whose engine performs a run, with windows. -/
def gQ (l : List MxEntry) : Group := { gX with mxq := l }
def onRun (l : List MxEntry) (r : Option MxRun) (vs : List Window) : State := inWing { coreE with runs := r.toList, windows := vs } (gQ l) wX
/-- A run of tile 1's row 0, and the skew window of entry 50 in row block 0, its one row claimed or dropped. -/
def runX (streaming : Bool) (at_ : Nat) : MxRun := ⟨0, 50, 1, [(0, List.replicate 64 9)], at_, streaming⟩
def winX (claimed dropped done closed : Bool) : Window :=
  ⟨50, 0, op (.v 0) (.v 0) (.s 6) (.s 2) 0x0A 0, 1, 0, 256, 0, List.replicate 256 1, [⟨0, List.replicate 16 1, claimed, dropped, done, 0⟩], 0, closed⟩

set_option maxRecDepth 20000 in
theorem witness_MatrixSteps_start :
    (∀ e ∈ [mmaE, mmvE 0x400000, mxE 0xC3 (tileX 0) 0 0 0, mxE 0xC4 (tileX 0) 0 256 0, mstaE 0 256, mstaE 2 128],
      (onRun [e] none []).nextTurn c0 = some (gQ [e], e) ∧ ((onRun [e] none []).core c0).windows = []) ∧
    (onRun [batchE 0 0] none []).nextTurn c0 = some (gQ [batchE 0 0], batchE 0 0) ∧ (onRun [] none []).nextTurn c0 = none ∧
    (let s : State := { onRun [mmaE] none [] with groups := [gQ [mmaE], { gQ [mstaE 0 256] with slot := 4 }] }
     s.nextTurn c0 = some ({ gQ [mstaE 0 256] with slot := 4 }, mstaE 0 256)) ∧
    (mmaE.opc = 0xC0 ∧ mmaE.fmts = some [none, none] ∧ (onRun [mstaE 0 256] none []).memOk = true ∧
      (∀ r < 64, ((gQ []).tileRow 1 r).length = 64) ∧ (256 : Nat) ≤ (mstaE 0 256).b.lo.toNat ∧ (128 : Nat) ≤ (mstaE 2 128).b.lo.toNat ∧
      (tileX 0).fn2.getLsbD 0 = false ∧ (tileX 2).fn2.getLsbD 0 = false ∧ (tileX 2).fn2.getLsbD 1 = true) ∧
    (let row : Nat × List Word := (0, List.replicate 64 9)
     let ld : MxEntry := mxE 0xC4 (tileX 1) 0x400000 256 0
     let st (a : DWord) : MxEntry := mxE 0xC5 (tileX 1) a 256 0
     row.2 ≠ [] ∧ (∀ e ∈ [ld, st 0x400000, st (2 ^ 40)], (onRun [e] none []).nextTurn c0 = some (gQ [e], e)) ∧
     (∀ r : Fin 64, (match (onRun [ld] none []).engPages (gQ []).whoIs .read (0x400000 + r * 256) 256 with
       | .ok [p] => p.1 == 0x400000 + r * 256 && p.2.1 == 256
       | _ => false) = true) ∧
     ((onRun [ld] none []).core c0).l1 = [] ∧ ((onRun [ld] none []).core c0).comb = [] ∧
     (∃ l, (onRun [] none []).engPages (gQ []).whoIs .write 0x400000 1 = .ok [(0x400000, 1, l)] ∧ 0x400000 % l.size + 256 ≤ l.size) ∧
     ∃ f, (onRun [] none []).engPages (gQ []).whoIs .write (2 ^ 40) 1 = .error f) := by
  refine ⟨by decide, by decide, by decide, by decide, by decide, by decide, by decide, by decide, rfl, rfl, ⟨_, rfl, by decide⟩, _, rfl⟩

set_option maxRecDepth 20000 in
theorem witness_MatrixSteps :
    ((∀ n ∈ [1, 4, 7], 0 < n) ∧ (⟨16, 16, false⟩ : Shape3).n ≤ 63 ∧ 15 < (⟨16, 16, false⟩ : Shape3).n) ∧
    (∀ r ∈ [runX true 0, runX false 1, runX false 0], ((onRun [mmaE] (some r) []).core c0).runs = [] ++ r :: [] ∧
      (onRun [mmaE] (some r) []).group? c0 r.slot = some (gQ [mmaE]) ∧ 1 < (gQ [mmaE]).tiles.length) ∧
    (runX true 0).streaming = true ∧ (∀ r ∈ [runX false 0], r.streaming = false ∧ r.writeAt ≤ (onRun [] none []).clk) ∧
    ((∃ v ∈ ((onRun [mmaE] (some (runX false 0)) [winX true false false false]).core c0).windows, v.eid = 50) ∧
      ((onRun [] none [winX true false true true]).core c0).windows.find? (fun x => x.eid == 50) = some (winX true false true true) ∧
      (winX true false true true).over ((onRun [] none []).core c0) = true ∧ (winX true false false true).over ((onRun [] none []).core c0) = false) ∧
    (let v : Window := { winX true false false false with bytes := [] }
     ((onRun [] none [v]).core c0).windows = [v] ∧ (onRun [] none [v]).group? c0 v.slot = some (gQ [])) ∧
    (onRun [] none []).headWindow c0 = none ∧
    (let s (n : Nat) : State := { onRun [] none [winX false false false false] with clk := n }
     ((s 256).core c0).openWin 256 = some (winX false false false false) ∧ (winX false false false false).reach 0 = some 0 ∧ 0 + 256 ≤ 256 ∧
     ((s 255).core c0).openWin 255 = some (winX false false false false) ∧ ¬ 0 + 256 ≤ 255) ∧
    (let e := mxE 0xC1 (op (.v 0) (.v 0) (.s 6) (.s 2) 0x0A 0) 0 1 0
     let s (n : Nat) : State := { onRun [e] none [winX true false false false] with clk := n }
     (s 16).headWindow c0 = some (gQ [e], e, winX true false false false) ∧ ((s 16).core c0).needsOver e.needs = true ∧
     (Shape3.ofMmal (winX true false false false).x).recomb = false ∧ e.fmts = some [none, none] ∧
     (winX true false false false).blockReady 16 0 = true ∧ (winX true false false false).blockReady 15 0 = false ∧
     (winX true false false false).blockReady 16 1 = false) ∧
    (let s (a : DWord) : State := onRun [mmvE a] (some (runX true 0)) []
     ((s 0x400000).core c0).runs.find? (·.streaming) = some (runX true 0) ∧ (s 0x400000).group? c0 0 = some (gQ [mmvE 0x400000]) ∧
     (∃ a, (s 0x400000).mmvResult (gQ [mmvE 0x400000]) (mmvE 0x400000) .good = .ok a) ∧
     (∃ f, (s (2 ^ 40)).mmvResult (gQ [mmvE (2 ^ 40)]) (mmvE (2 ^ 40)) .good = .error f) ∧
     (∃ f, ((s 0x400000).engCheck ((s 0x400000).mmvPages (gQ [mmvE 0x400000]) (mmvE 0x400000)) eccTwo).cause = some f) ∧
     ∃ l tw, (s 0x400000).engPages (gQ []).whoIs .read 0x400000 1 = .ok [(0x400000, 1, l)] ∧ l.fmt = 0 ∧
       (s 0x400000).weightType (gQ []) l ⟨none, shapeTA 0x001000A0⟩ 0x001000A0 0x400000 = .ok tw ∧
       ({ l with fmt := 1 } : Leaf).fmt ≠ 0 ∧ (⟨none, shapeTA 0x001000A0⟩ : MxType).isInt = true ∧
       ∃ n, (⟨none, n⟩ : MxType).isInt = false ∧ ∃ o, (s 0x400000).fmtFor c0 (gQ []).asid 1 0x400000 = .ok o) ∧
    (∀ n ∈ [(0 : BitVec 5), 1], (onRun [batchE n 3] none []).group? c0 0 = some (gQ [batchE n 3]) ∧ (batchE n 3).opc = 0xC6) ∧
    (∃ u, (onRun [batchE 1 3] none []).engineAdd (gQ [batchE 1 3]) (ctrOperand 1 3) 1 w0.issuer = .ok u) ∧
    (∃ f, (onRun [batchE 2 0] none []).engineAdd (gQ [batchE 2 0]) (ctrOperand 2 (2 ^ 40)) 1 w0.issuer = .error f) ∧
    (onRun [mmaE] none []).hasCore c0 :=
  ⟨by decide, by decide, by decide, by decide, ⟨by decide, by decide, by decide, by decide⟩, ⟨rfl, rfl⟩, by decide, ⟨rfl, by decide, by decide, rfl, by decide⟩,
    ⟨rfl, by decide, rfl, rfl, by decide, by decide, by decide⟩, ⟨rfl, rfl, isOk_of rfl, isErr_of rfl, ⟨_, rfl⟩, _, _, rfl, rfl, rfl, by decide, by decide, 0, by decide, _, rfl⟩, by decide, isOk_of rfl, isErr_of rfl,
    _, List.mem_singleton.mpr rfl, rfl⟩

/-! ### Messages, catalogues and groups -/

/-- A store of `n` bytes by instruction 90 of the warp, on its way to `pa`. -/
def coreSt (spm : Bool) (pa n : Nat) : Core :=
  { coreE with
    outst := [ou .none .gst 1], reqs := [{ rq 7 .store .waiting with spm := spm, pieces := [⟨0, 0, pa, pa, n, []⟩] }]
    tlb := [⟨1, 0, 0, { leafB with fmt := 2 }⟩] }
def onSt (spm : Bool) (pa n : Nat) : State := inWing (coreSt spm pa n) gX wX
def sSt (spm : Bool) (pa n : Nat) : State := inWing (coreSt spm pa n) g0 wM
/-- ST.enc with a scale, FMT being the page's. -/
def stEncX : LongOp := opM (.v 0) (.v 4) .zr (.v 8) 0xAC 0

set_option maxRecDepth 20000 in
/-- ST.enc behind its warp's store to a scale. -/
theorem witness_ownAccessesOnTheirWay_stEnc :
    ∃ (f : MemForm) (l : List Acc),
      MemReady (.stEnc stEncX) (sSt false 0x090000000000 0x100000) wM stEncX f (l.map .good) ∧
        f.waits (sSt false 0x090000000000 0x100000) wM l ≠ [] := by
  refine ⟨_, _, ⟨_, rfl, rfl, ⟨⟨rfl, rfl⟩, by decide⟩, ⟨_, List.mem_singleton.mpr rfl, rfl⟩, rfl, by decide, by decide, by decide, fun h => ?_,
      (goods_eq (l := _) rfl)⟩, by decide⟩
  obtain ⟨y, h | h⟩ := h <;> cases h

set_option maxRecDepth 20000 in
/-- A command behind its warp's store to the scratchpad. -/
theorem witness_ownAccessesOnTheirWay_command :
    (sSt true 0 16).issues wM 0xD0 (cmdX .zr 7) ∧ wM.cmdOff (cmdX .zr 7) % 16 = 0 ∧
      ((sSt true 0 16).grp wM).inSpm (wM.cmdOff (cmdX .zr 7)) 48 = true ∧ (sSt true 0 16).cmdWrites wM (cmdX .zr 7) 48 ≠ [] :=
  ⟨⟨⟨rfl, rfl⟩, by decide⟩, by decide, by decide, by decide⟩

set_option maxRecDepth 20000 in
/-- A packet behind its warp's store, and behind its load, for MBXRD alone. -/
theorem witness_ownAccessesOnTheirWay_packet :
    let w := wC 0x40
    let s (k : ReqKind) : State :=
      { onCur w with
        cores := [{ coreC with
          outst := [{ ou .none .spm 1 with warp := w16.id }]
          reqs := [{ rq 7 k .waiting with core := c16, spm := true, pieces := [⟨0, 0, 0x7C, 0x7C, 4, []⟩] }] }] }
    (s .store).issues w 0xB1 (op (.s 4) (.s 0) .zr (.v 0) 0 0) ∧ (s .store).packetWaits w .read 0x40 = [90] ∧
    (s .load).packetWaits w .read 0x40 = [] ∧ (s .load).packetWaits w .write 0x40 = [90] ∧ (onCur w).packetWaits w .write 0x40 = [] ∧
    (s .load).issues w 0xB2 (op (.s 4) (.s 0) (.v 0) (.v 0) 0 0) ∧ ((s .load).grp w).inSpm 0x40 64 = true :=
  ⟨⟨⟨rfl, rfl⟩, by decide⟩, by decide, by decide, by decide, by decide, ⟨⟨rfl, rfl⟩, by decide⟩, by decide⟩

set_option maxRecDepth 20000 in
/-- A header behind its warp's store to it. -/
theorem witness_ownAccessesOnTheirWay_header :
    let w := { wM with s := w0.s.set 0 0x40 }
    let s := inWing (coreSt false 0x090000400000 8) g0 w
    s.issues w 0xD4 (cmdX (.s 0) 0) ∧ (∃ ps, s.engPages (s.grp w).whoIs .read 0x400000 16 = .ok ps ∧ s.ownWrites w.id false (runsOf ps) ≠ []) ∧
      w.actsK { cmdX (.s 0) 0 with g := ⟨true, 7⟩ }.g = false ∧ CommandMet s w (cmdX (.s 0) 0) 8 48 (0, .none) :=
  ⟨⟨⟨rfl, rfl⟩, by decide⟩, ⟨_, rfl, by decide⟩, by decide, ⟨⟨_, List.mem_singleton.mpr rfl, rfl⟩, rfl⟩, by decide, by decide, by decide, by decide,
    by decide⟩

set_option maxRecDepth 20000 in
/-- QFENCE of no queue behind a store, and a window's operand B behind one. -/
theorem witness_ownAccessesOnTheirWay_fenceAndWindow :
    ((sSt false 0 4).issues wM 0xD2 (op (.v 0) .zr (.v 0) (.v 0) 0 0) ∧ wM.phase = 0 ∧ (sSt false 0 4).releaseNeeds wM.id = [90]) ∧
    (let x := op (.v 0) (.v 0) (.s 6) (.s 2) 0x0A 0
     let (data, scales) := mmalBytes x ⟨none, 2⟩
     (onSt true 0x400 4).issues wX 0xC1 x ∧ ((onSt true 0x400 4).core c0).openWin 0 = none ∧
     (onSt true 0x400 4).ownWrites wX.id true [(0x400, data), (0, scales)] ≠ []) :=
  ⟨⟨⟨⟨rfl, rfl⟩, by decide⟩, rfl, by decide⟩, ⟨⟨rfl, rfl⟩, by decide⟩, rfl, by decide⟩

/-- An earlier atomic on the word, and the machine with both at home. -/
def rqE : Req := { rqA (.atom .add .u32 1 true) (.fabric 101) with rid := 8, pieces := [pc4 0x090000400008 []] }
def onBoth : State :=
  { onReq (ou (.atom 4) .gld 2) [rqA (.atom .add .u32 1 true) (.fabric 100), rqE] [{ pkHome with arrived := 5 }, { pkHome with pid := 101, rid := 8, arrived := 4 }] with
    l2 := [l2X] }

set_option maxRecDepth 20000 in
/-- The words on which a statement's clauses turn where an access of another unit is on its way: a bypassed home's CREAD, an atomic behind an earlier
one, a maintenance slot, a turn whose reads have ended, a granule with two wrong symbols, a dropped row, a frame that its port does not carry. -/
theorem witness_othersOnTheirWay :
    (let first := rqA (.atom .add .u32 1 true) (.fabric 100)
     onBoth.earlier [first] first.wordPA = true ∧ onBoth.runArrival [first] = some 5 ∧ onBoth.runArrival [rqE] = some 4 ∧
      onBoth.earlier [rqE] rqE.wordPA = false ∧ (asideState (onHome (rqA .cread (.fabric 100)) true)).bypass 0x090000400000 = true ∧
      (rqA .cread (.fabric 100)).atAtomicUnit = true) ∧
    (let s := onChan [rdX 5] none
     let t : State := { s with hbms := s.hbms.map fun k => { k with maint := some s.slotNow } }
     s.inMaintenance 0 = false ∧ t.inMaintenance 0 = true ∧ (⟨0, 5, 1⟩ : Turn).goesOn [rdX 5] = true ∧ (⟨0, 5, 1⟩ : Turn).goesOn [rdX 6] = false ∧
     (∃ aux, (eccCheck eccTwo (rdX 5).units).aux = some aux) ∧
     (eccCheck eccTwo (((wrX 2).bytes.map fun c => ((wrX 2).line + c.1) / 16 * 16).eraseDups)).aux ≠ none) ∧
    (let v := win 0 0 false
     let d : Window := { v with rows := [⟨0, [], false, true, false, 0⟩, ⟨1, [], false, false, false, 0⟩] }
     ((inWing { coreE with windows := [d] } gX wX).core c0).openWin 0 = some d ∧ d.rows.find? (fun r => r.lane == 0) = some ⟨0, [], false, true, false, 0⟩) ∧
    (let s : State := { State.reset with docent := { Docent.reset with socket := 19 } }
     let m : Ccp := ⟨0x4343, 1, 1, 0, 0, 0, 5, some 7, true, 0⟩
     s.carries 0 (.ccp m) = false ∧ s.carries 8 (.ccp m) = true ∧ s.carries 1 (.ccp m) = false ∧ s.docent.stage = 0) :=
  ⟨⟨by decide, by decide, by decide, by decide, by decide, by decide⟩, ⟨by decide, by decide, by decide, by decide, ⟨_, rfl⟩, by decide⟩, ⟨rfl, rfl⟩, by decide⟩

/-- Bytes that are 0 but at the given places. -/
def sparse (n : Nat) (l : List (Nat × Byte)) : List Byte := (List.range n).map fun i => ((l.find? fun e => e.1 == i).map (·.2)).getD 0
/-- A catalogue image of two nodes, an edge from node 0 to node 1, and a slot for 8 bytes at 24 of node 0's parameters: its magic number, version 1, the
two counts; then the nodes, in address space 1, of one group each on die 0, with 1 warp of 16 v registers (VREGS from bit 14). -/
def imageX : List Byte :=
  sparse 208
    ([(0, 0x41), (1, 0x43), (2, 0x41), (3, 0x56), (4, 1), (6, 2), (8, 1), (10, 1)] ++
      [(70, 1), (72, 1), (74, 1), (78, 4)] ++ [(132, 1), (134, 1), (136, 1), (138, 1), (142, 4)] ++ [(194, 1), (202, 24), (203, 1)])
/-- A message of wing 0, and of the operator, of a TYPE and LENGTH. -/
def msg (ty : Nat) (len : Nat := 0) : Ccp := ⟨0x4343, 1, ty, 0, 0, len, 5, some 7, true, 0⟩
def msgOp (ty : Nat) (len : Nat := 0) : Ccp := ⟨0x4343, 1, ty, 15, 0, len, 5, some 0, true, 0⟩
/-- The machine at Stage 2 with a wing. -/
def atStage (n : Nat) (w : Wing) : State :=
  let s := onCur w16
  { s with docent := { s.docent with stage := n }, wings := [w], dies := [{ Die.reset 0 with curatorLoaded := true, mailboxRead := true }, Die.reset 1], cats := [] }
theorem takes_msg {s : State} {ty len : Nat} (h : s.lastSeq 0 = some 0) (ht : s.tagOk (msg ty len) = true := by rfl)
    (hc : s.carries 0 (.ccp (msg ty len)) = true := by rfl) : s.takes (msg ty len) := ⟨hc, 0, h, ht, show 0 < 5 by decide⟩
theorem grants_wing {s : State} {ty len : Nat} (h : s.lastSeq 0 = some 0) (hn : (ccpType ty).1 ≤ s.docent.stage)
    (ha : (ccpType ty).2.admits 0 := by first | exact trivial | exact (by decide : (0 : Nat) ≠ 15)) (hf : ccpFormOk (msg ty len) ty = true := by rfl)
    (ht : s.tagOk (msg ty len) = true := by rfl) (hc : s.carries 0 (.ccp (msg ty len)) = true := by rfl) : s.grants (msg ty len) ty :=
  ⟨takes_msg h ht hc, hn, ha, hf⟩
theorem grants_op {s : State} {ty len : Nat} (h : s.docent.opIn = 0) (hn : (ccpType ty).1 ≤ s.docent.stage)
    (ha : (ccpType ty).2.admits 15 := by first | exact trivial | rfl) (hf : ccpFormOk (msgOp ty len) ty = true := by rfl)
    (ht : s.tagOk (msgOp ty len) = true := by rfl) (hc : s.carries 0 (.ccp (msgOp ty len)) = true := by rfl) : s.grants (msgOp ty len) ty :=
  ⟨⟨hc, 0, congrArg some h, ht, show 0 < 5 by decide⟩, hn, ha, hf⟩
theorem active_msg {s : State} {ty len : Nat} (h : s.lastSeq 0 = some 0) (hn : (ccpType ty).1 ≤ s.docent.stage) (hs : (s.wing 0).st = .active)
    (hr : (s.wing 0).revoking = none) (ha : (ccpType ty).2.admits 0 := by first | exact trivial | exact (by decide : (0 : Nat) ≠ 15))
    (hf : ccpFormOk (msg ty len) ty = true := by rfl) (ht : s.tagOk (msg ty len) = true := by rfl)
    (hc : s.carries 0 (.ccp (msg ty len)) = true := by rfl) : s.grantsActive (msg ty len) ty := ⟨grants_wing h hn ha hf ht hc, hs, hr⟩

/-- A node, its run, a replay of it, and a catalogue. -/
def nodeX (id groups : Nat) (cohort : Bool) : Node := ⟨0, id, 1, groups, cohort, 1, ⟨1, 16, 0, 0, 0, 0⟩, 0, List.replicate 8 0⟩
def replayX (dispatched released cohort : Bool) (sent created ended : Nat) (refused : Option (Nat × Nat)) : Replay :=
  ⟨7, [nodeX 0 2 cohort, nodeX 1 1 false], [⟨0, dispatched, sent, created, ended, released, [0]⟩, ⟨1, false, 0, 0, 0, false, []⟩], refused⟩
def catX (queued : List Nat) (r : Option Replay) : Catalogue := ⟨3, 0, 0, 0, 0, [nodeX 0 2 false, nodeX 1 1 false], [(0, 1)], [⟨0, 24, true⟩], queued, r⟩
/-- The machine at Stage 2 with a catalogue. -/
def onCat (queued : List Nat) (r : Option Replay) : State := { atStage 2 wing0 with cats := [catX queued r] }

set_option maxRecDepth 20000 in
theorem witness_CatalogueSteps_messages :
    (let m := msg 2
     ∀ i ∈ [Instr.catload m [], .catdrop m 0, .kick m 0 0 [], .genraise m 0, .preempt m 0 0 0, .mrdrop m 0, .qpdestroy m 0, .resync m,
        .attest m 0, .slotset m [], .wingquiesce m 0, .keyload m ⟨8, 1, 2⟩ false, .keyrevoke m 0, .mgmtrd m .reset], (ccpRule i).isSome = true) ∧
    (let s := atStage 2 wing0
     s.takes (msg 2) ∧ s.lastSeq 0 = some 0 ∧ ¬ s.takes { msg 2 with tag := none } ∧ ¬ s.takes { msg 2 with tag := some 8 } ∧
     s.carries 8 (.ccp { msg 2 with port := 8 }) = true ∧ s.carries 1 (.ccp { msg 2 with port := 1 }) = false ∧
     (atStage 1 wing0).docent.stage < 2 ∧ ¬ Sender.admits .operator 0 ∧ ¬ Sender.admits .wing 15 ∧ s.takes (msg 3) ∧
     s.grants (msg 2) 2 ∧ (atStage 2 { wing0 with st := .quiesced }).grants (msg 2) 2 ∧ s.takes (msg 5) ∧ (atStage 1 wing0).takes (msg 5)) ∧
    (∀ p ∈ [((132 : Nat), (0 : Byte), 2), (192, 1, 3), (202, 28, 4)], (match catCheck (imageX.set p.1 p.2.1) with | .ok _ => false | .error c => c == p.2.2) = true) ∧
    (match catCheck ((imageX.set 75 128).set 73 255) with | .ok _ => false | .error c => c == 5) = true ∧
    ((atStage 2 wing0).grantsActive (msg 2) 2 ∧ (match catCheck imageX with | .ok x => x.2.1.length == 2 && x.2.2.1 == [(0, 1)] | .error _ => false) = true ∧
      (match catCheck [] with | .ok _ => false | .error c => c == codeFORMAT) = true ∧ ((atStage 2 wing0).handles 0).length < 255 ∧
      255 ≤ (({ atStage 2 wing0 with cats := List.replicate 255 (catX [] none) } : State).handles ((atStage 2 wing0).unitOf 0)).length) ∧
    ((onCat [1] none).grantsActive (msg 3) 3 ∧ (onCat [1] none).grantsActive (msg 4 24) 4 ∧ (msg 4 24).length = 8 + 16 * 1 ∧ (msg 4).length ≠ 8 + 16 * 0 ∧
      (onCat [1] none).grantsActive (msg 4) 4 ∧ (onCat [1] none).cat? 0 3 = some (catX [1] none) ∧ (onCat [] none).cat? 0 3 = some (catX [] none) ∧
      (onCat [] none).cat? 0 4 = none ∧ ((onCat [] none).wing 0).quiescing = false ∧ ((onCat [] none).wing 0).kickSeq = 0 ∧
      ((atStage 2 { wing0 with quiescing := true }).wing 0).quiescing = true ∧ (atStage 2 { wing0 with quiescing := true }).grantsActive (msg 4 24) 4 ∧
      (catX [] none).slots.length = 1 ∧ (catX [1, 2, 3, 4] none).queued.length = 4 ∧
      (onCat [1, 2, 3] none).cat? 0 3 = some (catX [1, 2, 3] none)) ∧
    (([⟨0, 24, true⟩] : List Slot)[0]? = some ⟨0, 24, true⟩ ∧ (nodeX 0 2 false).params.length = 8 ∧ (7 : Nat) = 24 / 4 + 1) :=
  ⟨by decide, ⟨takes_msg rfl, rfl, fun ⟨_, _, _, h, _⟩ => absurd h (by decide), fun ⟨_, _, _, h, _⟩ => absurd h (by decide), rfl, rfl, by decide,
      by unfold Sender.admits; decide, by unfold Sender.admits; decide, takes_msg rfl, grants_wing rfl (by decide), grants_wing rfl (by decide),
      takes_msg rfl, takes_msg rfl⟩,
    by decide, by decide,
    ⟨active_msg rfl (by decide) rfl rfl, by decide, by decide, by decide, by decide⟩,
    ⟨active_msg rfl (by decide) rfl rfl, active_msg rfl (by decide) rfl rfl, rfl, by decide, active_msg rfl (by decide) rfl rfl, rfl, rfl, rfl, rfl, rfl, rfl, active_msg rfl (by decide) rfl rfl, rfl, rfl, rfl⟩, rfl, rfl, rfl⟩

set_option maxRecDepth 20000 in
theorem witness_CatalogueSteps :
    ((onCat [7] none).cat? 0 3 = some (catX [7] none) ∧
      (∀ r : Replay, (onCat [] (some r)).cat? 0 3 = some (catX [] (some r)))) ∧
    (let s (r : Replay) := onCat [] (some r)
     let c (r : Replay) := catX [] (some r)
     let ready := replayX false false false 0 0 0 none
     let sending := replayX true false false 1 0 0 none
     let placed := replayX true false true 2 2 0 none
     let refused := replayX true false false 2 2 2 (some (0x20, 0))
     ready.nextNode (c ready).edges ((s ready).cohortBusy 0) = some (nodeX 0 2 false) ∧ ((s ready).desc 1).valid = true ∧ ((s ready).desc 1).wg = 0 ∧
     diesOf ((nodeX 0 2 false).dies &&& ((s ready).wing 0).dies) = [0] ∧ diesOf ((2 : BitVec 9) &&& ((s ready).wing 0).dies) = [] ∧
     ((s ready).desc 9).valid = false ∧
     sending.nextNode (c sending).edges ((s sending).cohortBusy 0) = none ∧ (s ready).nextPacket (c ready) = none ∧
     (s sending).nextPacket (c sending) = some (⟨0, true, 1, 0, 0, false, [0]⟩, nodeX 0 2 false, 0) ∧
     (c placed).cohortReady = some (nodeX 0 2 true) ∧ (c sending).cohortReady = none ∧ sending.over = false ∧ refused.over = true) ∧
    ((∃ w, (onCat [] none).wings.find? (fun x => x.id == 0) = some w) ∧
      (∀ b : Bool, (({ onCat [] none with ends := [⟨0, 0, 3, 0, b⟩] } : State).ends.find? fun x => x.unit == 0) = some ⟨0, 0, 3, 0, b⟩) ∧
      ∀ e ∈ (onCat [] none).ends, e.unit ≠ 0) ∧
    (let s (ws : List Warp) : State := { onUser w0 with warps := ws }
     (s []).group? c0 0 = some g0 ∧ (s []).groupOver g0 = true ∧ (s [w0]).groupOver g0 = false ∧ g0.cat = 0 ∧
     (onUser w0).group? c0 0 = some g0 ∧ ((onUser w0).die 0).mailbox.length < 64 ∧ ((onUser w0).core c0).notices = [] ∧ (onUser w0).hasCore c0 ∧
     (∃ d ∈ (onUser w0).dies, d.id = 0) ∧
     64 ≤ (({ onUser w0 with dies := [{ Die.reset 0 with mailbox := List.replicate 64 [] }] } : State).die 0).mailbox.length) ∧
    (let s : State := { onUser w0 with cores := [{ Core.reset c0 with notices := [[1]] }], dies := [{ Die.reset 0 with inbound := [[2]] }] }
     (s.core c0).notices = [1] :: [] ∧ (s.die 0).mailbox.length < 64 ∧ (s.die 0).inbound = [2] :: [] ∧ ((onUser w0).die 0).inbound = []) ∧
    (let p : WorkPkt :=
       { params := List.replicate 8 1, cat := 255, entry := 2 ^ 56 - 64, privva := 2 ^ 64 - 128, res := 2 ^ 32 - 1, kind := 7, spm := 8191, priv := 65535,
         asid := 65535, node := 65535, gidx := 65535, ngroups := 65535 }
     p.params.length = 8 ∧ p.kind < 8 ∧ p.entry < 2 ^ 56 ∧ p.spm < 2 ^ 13) :=
  ⟨⟨rfl, fun _ => rfl⟩, by decide, ⟨⟨_, rfl⟩, fun _ => rfl, fun _ h => absurd h List.not_mem_nil⟩,
    ⟨rfl, by decide, by decide, rfl, rfl, by decide, rfl, hasCore_user w0, ⟨_, List.mem_cons_self, rfl⟩, by decide⟩, ⟨rfl, by decide, rfl, rfl⟩, by decide⟩

/-- A trap of a class and reason of a group's warp 0, by age. -/
def trapX (cls age : Nat) (since : Nat := 0) : PendTrap := ⟨0, age, { TrapRec.zero with cls := cls, reason := 0x40, pc := 0x1000 }, 0, false, since⟩
/-- The machine whose core has a stop, and its group a phase, a pre-emption and deferred traps. -/
def onStop (st : Stop) (p : Phase) (pre : Option Nat) (d : List PendTrap) (ws : List Warp) : State :=
  { inWing { coreM with stop := st } { g0 with phase := p, preempt := pre, deferred := d, asid := 1 } w0 with warps := ws }
def gP (p : Phase) (pre : Option Nat) (d : List PendTrap) : Group := { g0 with phase := p, preempt := pre, deferred := d, asid := 1 }
/-- The curator's machine with a stop. -/
def onStopC (l : List PendTrap) : State := small { Core.reset c16 with stop := .stopping 0 l } g16 w16
/-- A warp that waits for a counter since a cycle, with a limit of 65,536 cycles. -/
def wWait (from_ : Option Nat) (lim : BitVec 16) : Warp :=
  { wS [sp 0x1000 (.blocked (.localCtr 0 1 8 none)) (BitVec.allOnes 32)] with waitFrom := from_, wdlimit := lim }
/-- The machine of a held group, with frames: one that is mapped, and one that is not. -/
def gH (p : Phase) : Group := { g0 with phase := p, tiles := [], ctrs := [], res := ⟨1, 8, 0, 0, 0, 0⟩ }
def onHeld (p : Phase) (frames : List Nat) : State :=
  { inWing coreM (gH p) { w0 with held := true, vregs := 8, v := List.replicate 8 (VReg.uniform 0) } with
    mem := imageMem, dies := [{ Die.reset 0 with frames := frames }] }

set_option maxRecDepth 20000 in
theorem witness_TrapSteps :
    (chooseTrap [] = none ∧ chooseTrap [trapX 9 0, trapX 1 5, trapX 1 3] = some (trapX 1 3)) ∧
    ((∀ n l, ((onStop .none .running none [] [w0]).core c0).stop ≠ .stopping n l) ∧
      ((onStop (.stopping 0 [trapX 2 0]) .running none [] [w0]).core c0).stop = .stopping 0 [trapX 2 0] ∧
      (onStop (.stopping 0 [trapX 2 0]) .running none [] [w0]).clk = 0 ∧
      ({ onStop (.stopping 0 [trapX 2 0]) .running none [] [w0] with clk := 1 }.core c0).stop = .stopping 0 [trapX 2 0] ∧
      ((onStopC [trapX 2 0]).core c16).stop = .stopping 0 [trapX 2 0] ∧ (∀ g ∈ (onStopC [trapX 2 0]).groups, g.core = c16 → g.deferred = []) ∧
      (onStopC [trapX 2 0]).docent.opReports.length < 64) ∧
    ((onStop .none .running none [trapX 1 0] [w0]).group? c0 0 = some (gP .running none [trapX 1 0]) ∧
      (∀ n ∈ [1, 8, 9], chooseTrap (([trapX n 0].filter fun t => t.slot == 0) ++ [trapX 10 0]) = some (trapX n 0)) ∧ (trapX 10 0).trapRec.cls ∉ [1, 8, 9] ∧
      (gP .running none []).resident = true ∧ (gP .running none []).slot ≠ 0xFFF) ∧
    (∀ n ∈ [(0 : Nat), 1], ((onStop (.resuming n) .running none [] [w0]).core c0).stop = .resuming n) ∧
    (let due := onStop .none .running none [trapX 1 0] [w0]
     let late := onStop .none .running none [trapX 1 0] [{ w0 with readyAt := 1 }]
     due.deferDue (gP .running none [trapX 1 0]) (trapX 1 0) = true ∧ late.deferDue (gP .running none [trapX 1 0]) (trapX 1 0) = false ∧ due.hasCore c0 ∧
     (∀ w ∈ due.warps, w.readyAt ≤ due.clk) ∧ (∀ w ∈ late.warps, late.clk < w.readyAt) ∧ ∃ w ∈ late.warps, w.id.coreId = c0 ∧ w.grp = 0 ∧ w.splits ≠ []) ∧
    ((onStop .none .running (some 2) [] [w0]).group? c0 0 = some (gP .running (some 2) []) ∧ (onStop .none .running (some 2) [] [w0]).hasCore c0 ∧
      (onStop (.stopping 0 []) .running (some 2) [] [w0]).group? c0 0 = some (gP .running (some 2) [])) ∧
    (let s (w : Warp) (n : Nat) : State := { onUser w with clk := n }
     (s (wWait none 1) 0).warp? w0.id = some (wWait none 1) ∧ (wWait none 1).waitFrom = none ∧ (wWait (some 0) 0).wdlimit = 0 ∧ w0.waitingAt = none ∧
     (s (wWait (some 0) 1) 65536).warp? w0.id = some (wWait (some 0) 1) ∧ (wWait (some 0) 1).waitingAt = some (0, 0x1000) ∧
     0 + (1 : BitVec 16).toNat * 2 ^ 16 ≤ 65536 ∧ 65535 < 0 + (1 : BitVec 16).toNat * 2 ^ 16 ∧ (s (wWait (some 0) 1) 65536).groupOf (wWait (some 0) 1) = some g0) ∧
    (let s := onHeld (.held 0) [0x440000]
     let g : Group := gH (.held 0)
     let t := (s.modDie 0 fun d => { d with frames := [] }).combFlush c0 fun _ => true
     s.group? c0 0 = some g ∧ s.drained g = true ∧ (s.die 0).frames = 0x440000 :: [] ∧ (∃ d ∈ s.dies, d.id = 0) ∧ ((onHeld (.held 0) []).die 0).frames = [] ∧
     (match t.saveWarps g (t.liveWarps g) with
      | .ok u => (match u.pagesUp (u.frameWho 0) .write 0x440000 (u.image g 0).length with
        | .ok _ => true
        | .error _ => false)
      | .error _ => false) = true) ∧
    ((onHeld (.frameWait 0) [0x440000]).group? c0 0 = some (gH (.frameWait 0)) ∧ ((onHeld (.frameWait 0) [0x440000]).die 0).frames ≠ []) ∧
    (g0.slot < 2 ^ 12 ∧ g0.core.core < 16 ∧ 1 ≤ g0.res.warps ∧ g0.res.vregs < 2 ^ 8 ∧ g0.wptr.length = 8 ∧ g0.trap.bytes.length = 32 ∧ g0.nextb < 16) :=
  ⟨by decide, ⟨fun _ l h => Stop.noConfusion h, rfl, rfl, rfl, rfl, by decide, by decide⟩, ⟨rfl, by decide, by decide, by decide, by decide⟩, by decide,
    ⟨by decide, by decide, ⟨_, List.mem_singleton.mpr rfl, rfl⟩, by decide, by decide, by decide⟩,
    ⟨rfl, ⟨_, List.mem_singleton.mpr rfl, rfl⟩, rfl⟩, ⟨rfl, rfl, rfl, by decide, rfl, by decide, by decide, by decide, rfl⟩,
    ⟨rfl, by decide, rfl, ⟨_, List.mem_singleton.mpr rfl, rfl⟩, rfl, by decide⟩, ⟨rfl, by decide⟩, by decide⟩

/-! ### Ports, wings and management -/

/-- A queue pair of wing 0 whose ring lies at an address and whose doorbell, at 0x400000 (what the arena's first words read as) or at 0x500000, is past
its first descriptor, or 0. -/
def bodyX (ring bell : Nat) : QpBody := ⟨0, 0, 1, 0, 0, 1, ring, 16, bell, 0x600000⟩
def qpX (ring bell : Nat) (sent : List SendDesc) : Qp := ⟨5, 0, bodyX ring bell, 0, 0, 0, 256, sent, []⟩
/-- A region of wing 0, with a counter. -/
def regX (cv : Option Nat) : Region := ⟨9, 0, 1, 0x400000, 2 ^ 41, true, true, cv⟩
/-- The machine at Stage 2 with a queue pair and a region. -/
def onPort (q : Qp) (r : Region) : State := { atStage 2 wing0 with qps := [q], regions := [r] }
/-- A write is placed whole, or fails. -/
def placed (s : State) (va : Nat) (l : List Byte) : Bool := (s.place (roceWho 1 0) va l).2.isNone
theorem placed_of {s : State} {va : Nat} {l : List Byte} (h : placed s va l = true) : ∃ t, s.place (roceWho 1 0) va l = (t, none) := by
  unfold placed at h
  match hp : s.place (roceWho 1 0) va l with
  | (t, none) => exact ⟨t, rfl⟩
  | (t, some c) => rw [hp] at h; exact Bool.noConfusion h
theorem failed_of {s : State} {va : Nat} {l : List Byte} (h : placed s va l = false) : ∃ t c, s.place (roceWho 1 0) va l = (t, some c) := by
  unfold placed at h
  match hp : s.place (roceWho 1 0) va l with
  | (t, none) => rw [hp] at h; exact Bool.noConfusion h
  | (t, some c) => exact ⟨t, c, rfl⟩

/-- The machine whose queue pair's ring at 0x430000 begins with a descriptor: its operation and length, and two bytes of its address; and whether the
doorbell rings for it and it reads so. -/
def onDesc (op len a b : Byte) : State :=
  { onPort (qpX 0x430000 0x400000 []) (regX none) with
    mem := tables ++ [(0x090000430000, op), (0x090000430004, len), (0x09000043000A, a), (0x09000043000D, b)] }
def descOk (op len a b : Byte) : Bool :=
  let q := qpX 0x430000 0x400000 []
  decide (q.taken < (onDesc op len a b).doorbell q) &&
    match (onDesc op len a b).engPages q.who .read 0x430000 32 with
    | .ok ps => (onDesc op len a b).readPages ps ==
        [op, 0, 0, 0, len, 0, 0, 0, 0, 0, a, 0, 0, b, 0, 0] ++ List.replicate 16 0
    | .error _ => false

set_option maxRecDepth 20000 in
theorem witness_PortSteps :
    (let s := onPort (qpX 0x410000 0x400000 []) (regX (some 0x400100))
     s.carries 0 (.roce 5) = true ∧ s.carries 0 (.ccp (msg 1)) = true ∧ s.carries 8 (.ccp (msg 1)) = true ∧ s.carries 1 (.roce 5) = false ∧
     (onPort { qpX 0 0 [] with wing := 1 } (regX none)).carries 0 (.roce 5) = false ∧ ccpListed (msg 1) = true ∧
     (∃ w ∈ s.wings, w.holds = true ∧ w.ports.getLsbD 0 = true) ∧ ¬ ∃ w ∈ s.wings, w.holds = true ∧ w.ports.getLsbD 1 = true) ∧
    (let s : State := { atStage 2 wing0 with agenda := [.resync (msgOp 1), .resync (msg 1)] }
     s.ccpNext = some (.resync (msg 1), 0)) ∧
    (let s := onPort (qpX 0x410000 0x400000 []) (regX (some 0x400100))
     2 ≤ s.docent.stage ∧ s.qp? 5 = some (qpX 0x410000 0x400000 []) ∧ s.qp? 6 = none ∧ State.reset.docent.stage < 2 ∧
     ({ s with docent := { s.docent with stage := 1 } } : State).carries 0 (.roce 5) = true ∧
     (∀ b : Bool, s.regionFor (qpX 0x410000 0x400000 []) 9 0x400000 1 b = some (regX (some 0x400100))) ∧
     (∀ r ∈ s.regions, r.rkey ≠ 8) ∧ (∃ t, s.place (roceWho 1 0) 0x400000 [1] = (t, none)) ∧ (∃ t c, s.place (roceWho 1 0) (2 ^ 40) [1] = (t, some c)) ∧
     (∃ ps, s.engPages (roceWho 1 0) .read 0x400000 4 = .ok ps) ∧ (∃ c, s.engPages (roceWho 1 0) .read (2 ^ 40) 4 = .error c) ∧
     (match s.unitAdd 1 0 0x400100 3 with | .ok (_, b) => b == false | .error _ => false) = true ∧ ∃ c, s.unitAdd 1 0 (2 ^ 40) 3 = .error c) ∧
    (let m (va : Nat) : Placing := ⟨regX (some 0x400100), va, 9, List.replicate 9 1, some 3⟩
     let q (va : Nat) : Qp := { qpX 0 0 [] with writes := [m va] }
     let s (va : Nat) := onPort (q va) (regX none)
     (∀ va : Nat, (s va).qp? 5 = some (q va) ∧ (q va).writes = m va :: []) ∧ min 9 (8 - 0x400000 % 8) < 9 ∧
     (∃ t, (s 0x400000).place (roceWho 1 0) 0x400000 (List.replicate 8 1) = (t, none)) ∧
     (∃ t c, (s (2 ^ 40)).place (roceWho 1 0) (2 ^ 40) (List.replicate 8 1) = (t, some c)) ∧
     let last : Placing := { m 0x400008 with data := [1] }
     min last.data.length (8 - last.va % 8) = last.data.length ∧ (∃ t, (s 0).place (roceWho 1 0) 0x400008 [1] = (t, none))) ∧
    (let q : Qp := qpX 0x410000 0x400000 [⟨0, 0, 1, some 1⟩, ⟨0, 0, 1, none⟩]
     let s := onPort q (regX none)
     s.qp? 5 = some q ∧ q.sent = ⟨0, 0, 1, some 1⟩ :: [⟨0, 0, 1, none⟩] ∧ ({ q with sent := [⟨0, 0, 1, none⟩] } : Qp).sent.head? = some ⟨0, 0, 1, none⟩ ∧
     let t := s.modQp 5 fun x => { x with completed := x.completed + 1, sent := x.sent.drop 1 }
     (match t.unitAdd 1 0 0x600000 1 with | .ok (_, b) => b == false | .error _ => false) = true ∧
     (match (t.place q.who (q.slotVa 0 + 1) [1]).1.unitAdd 1 0 0x600000 1 with | .ok (_, b) => b == false | .error _ => false) = true) ∧
    (∀ x ∈ [(0x410000, 1, 0), (0x500000, 0, 0), (0x400008, 4, 0)],
      let s := onPort (qpX x.1 0x400000 []) (regX none)
      s.qp? 5 = some (qpX x.1 0x400000 []) ∧ (qpX x.1 0x400000 []).taken < s.doorbell (qpX x.1 0x400000 []) ∧
        (match s.engPages (qpX x.1 0x400000 []).who .read ((qpX x.1 0x400000 []).slotVa 0) 32 with
         | .ok ps => bytesNat (s.readPages ps) 0 1 == x.2.1
         | .error _ => false) = true) ∧
    (descOk 0 4 0x40 0 = true ∧ descOk 2 4 0x40 0 = true ∧ descOk 0 0 0x40 0 = true ∧ descOk 0 4 0 1 = true) ∧
    ((onPort (qpX 0x410000 0x500000 []) (regX none)).doorbell (qpX 0x410000 0x500000 []) = 0 ∧
      ∃ c, (onPort (qpX (2 ^ 40) 0x400000 []) (regX none)).engPages (qpX (2 ^ 40) 0x400000 []).who .read ((qpX (2 ^ 40) 0x400000 []).slotVa 0) 32 =
        .error c) ∧
    (∀ op : Nat, (onPort (qpX 0 0 [⟨op, 0x400000, 1, none⟩]) (regX none)).qp? 5 = some (qpX 0 0 [⟨op, 0x400000, 1, none⟩])) ∧
    (let s := onPort (qpX 0x410000 0x400000 []) (regX none)
     s.grantsActive (msg 0x0A) 0x0A ∧ qpBodyOk (bodyX 0 0) = true ∧ qpBodyOk { bodyX 0 0 with ringSize := 17 } = false ∧
     ((s.wing 0).ports.getLsbD 0 = true ∧ ((s.ccpAccept (msg 0x0A)).desc 1).wg = 0) ∧ (s.wing 0).ports.getLsbD 1 = false ∧
     (∃ p, s.ports.find? (fun p => p.id == 0) = some p ∧ p.up = true) ∧
     (¬ ∃ p, ({ s with ports := s.ports.map fun p => { p with up := false } } : State).ports.find? (fun p => p.id == 0) = some p ∧ p.up = true) ∧
     (s.qps.filter fun q => q.wing == 0).length < 256 ∧ s.qps.length < 2048 ∧
     256 ≤ (({ s with qps := List.replicate 256 (qpX 0 0 []) } : State).qps.filter fun q => q.wing == 0).length ∧
     s.regions.find? (fun r => r.rkey == 9) = some (regX none) ∧ (qpX 0 0 []).wing = (msg 0x0B).wing ∧ ({ qpX 0 0 [] with wing := 1 } : Qp).wing ≠ (msg 0x0B).wing ∧
     s.grantsActive (msg 0x0B) 0x0B ∧ s.grantsActive (msg 9) 9 ∧ s.grantsActive (msg 6) 6 ∧
     ((s.ccpAccept (msg 6)).memDown ((s.ccpAccept (msg 6)).genPA 1) || (s.ccpAccept (msg 6)).bypass ((s.ccpAccept (msg 6)).genPA 1)) = false ∧
     (let t := downState s
      ((t.ccpAccept (msg 6)).memDown ((t.ccpAccept (msg 6)).genPA 1) || (t.ccpAccept (msg 6)).bypass ((t.ccpAccept (msg 6)).genPA 1)) = true) ∧
     s.grantsActive (msg 8) 8 ∧ s.regions.length < 2 ^ 32 ∧ (0x400000 + 2 ^ 30 ≤ 2 ^ 56 ∧ ∀ v, some 8 = some v → v % 8 = 0) ∧
     s.grantsActive (msg 7) 7 ∧ s.dieWing 0 = 0 ∧ s.dieWing 1 ≠ 0 ∧ (∀ g, s.group? ⟨0, 0⟩ 4095 = some g → g.wing = 0) ∧
     s.grants (msg 1) 1 ∧ s.ports.length = 16 ∧ s.grants (msgOp 1) 1 ∧ s.grants (msg 0x1B) 0x1B) :=
  ⟨by decide, by decide, ⟨by decide, rfl, rfl, by decide, by decide, by decide, by decide, placed_of rfl, failed_of rfl, isOk_of rfl, isErr_of rfl, by decide, isErr_of rfl⟩,
    ⟨fun _ => ⟨rfl, rfl⟩, by decide, placed_of rfl, failed_of rfl, by decide, placed_of rfl⟩, ⟨rfl, rfl, rfl, by decide, by decide⟩, by decide, ⟨rfl, rfl, rfl, rfl⟩,
    ⟨by decide, isErr_of rfl⟩, fun _ => rfl,
    ⟨active_msg rfl (by decide) rfl rfl, by decide, by decide, by decide, by decide, ⟨_, rfl, rfl⟩, fun ⟨_, h, h'⟩ => by cases h; exact Bool.noConfusion h',
      by decide, by decide, by decide, rfl, rfl, by decide,
      active_msg rfl (by decide) rfl rfl, active_msg rfl (by decide) rfl rfl, active_msg rfl (by decide) rfl rfl, by decide, by decide,
      active_msg rfl (by decide) rfl rfl, by decide, ⟨by decide, fun v h => by cases h; rfl⟩, active_msg rfl (by decide) rfl rfl, by decide, by decide,
      fun g h => (by cases (show (none : Option Group) = some g from h)), grants_wing rfl (by decide), by decide, grants_op rfl (by decide),
      grants_wing rfl (by decide)⟩⟩

/-- A body that keeps wing 0's die, buffer and port, with keys, and the same for another wing. -/
def wb (n : Nat) (dies : BitVec 9) (keys : Option Wrapped) : WingBody := ⟨n, false, 1, 1, dies, keys⟩
/-- The machine at a stage with wings, whose wheel's slot 1 is a wing's. -/
def onWings (n : Nat) (ws : List Wing) (serves : Nat) : State :=
  let s := atStage n wing0
  { s with wings := ws, docent := { s.docent with wheel := s.docent.wheel.set 1 (BitVec.ofNat 8 (64 + serves)) } }
def wingQ : Wing := { wing0 with st := .quiesced }
def wingF : Wing := Wing.reset 0

set_option maxRecDepth 20000 in
theorem witness_WingsAndManagement_messages :
    ((∀ w ∈ [wing0, wingQ, wingF], (onWings 1 [w, Wing.reset 1] 0).grants (msgOp 0x10) 0x10 ∧ (∃ x ∈ (onWings 1 [w, Wing.reset 1] 0).wings, x.id = 0)) ∧
      (onWings 1 [wingQ] 0).wingClash (wb 0 1 none) = false ∧ (onWings 1 [wing0] 0).wingClash (wb 1 1 none) = true ∧
      (onWings 1 [wingQ] 0).namesZeroing (wb 0 1 none) = false ∧
      (({ onWings 1 [wingQ] 0 with dies := [{ Die.reset 0 with zeroing := true }] } : State).namesZeroing (wb 0 1 none) = true) ∧
      (({ wingQ with keySt := .loaded } : Wing).assign (wb 0 1 none) none).st = .active ∧ (wingQ.assign (wb 0 1 none) none).st = .quiesced ∧ wheelServes (onWings 1 [wingQ] 0).lastWheel 0 = true ∧ wheelServes (onWings 1 [wingQ] 1).lastWheel 0 = false ∧
      (wingF.assign (wb 0 1 (some ⟨0, 1, 2⟩)) (some (1, 2))).st = .quiesced ∧ (onWings 1 [wingF] 0).docent.opKey = 0) ∧
    ((onWings 2 [wing0] 0).grants (msg 0x11) 0x11 ∧ (onWings 2 [wingQ] 0).grants (msg 0x11) 0x11 ∧ ((onWings 2 [wing0] 0).wing 0).st = .active ∧
      ((onWings 2 [wing0] 0).wing 0).revoking = none) ∧
    (let s (w : Wing) (gs : List Group) : State := { onWings 2 [w] 0 with groups := gs }
     ((s { wing0 with quiescing := true } []).wing 0).quiescing = true ∧ (∀ c ∈ (s { wing0 with quiescing := true } []).cats, c.wing ≠ 0) ∧
     (s { wing0 with quiescing := true } []).hasGroups 0 = false ∧ (s { wing0 with quiescing := true } [g0]).hasGroups 0 = true) ∧
    (let s := onWings 1 [wing0] 0
     let wheel (l : List (Nat × BitVec 8)) := l.foldl (fun l o => l.set o.1 (ownerStored o.1 o.2)) s.lastWheel
     (∀ w ∈ s.wings, wheelServes (wheel [(63, 0x40)]) w.id = true) ∧ (¬ ∀ w ∈ s.wings, wheelServes (wheel [(1, 0)]) w.id = true) ∧ ((63 : Nat), 0x40).1 < 64 ∧
     s.grants (msgOp 0x12) 0x12) ∧
    (let s (w : Wing) := onWings 1 [w] 0
     let e : Wing := { wingQ with keySt := .empty }
     (s e).grants (msg 0x13) 0x13 ∧ e.wrapping = some (⟨8, 1, 2⟩ : Wrapped).under ∧ (1 : Nat) ≠ 2 ∧ ((s e).wing 0).keySt = .empty ∧ ((s e).wing 0).revoking = none ∧ ((s e).wing 0).st = .quiesced ∧
     ((s { e with st := .active }).wing 0).st = .active ∧ (s { e with st := .active }).grants (msg 0x13) 0x13 ∧
     ((s { e with keySt := .loaded }).wing 0).keySt ≠ .empty) ∧
    ((onWings 1 [wing0] 0).grants (msg 0x14) 0x14 ∧ ((onWings 1 [wing0] 0).wing 0).st ≠ .free ∧ ((onWings 1 [wing0] 0).wing 0).revoking = none) ∧
    (let s (ps : List Packet) (ws : List Warp) : State := { onWings 1 [{ wing0 with revoking := some (15, 4) }] 0 with packets := ps, warps := ws }
     ((s [] []).wing 0).revoking = some (15, 4) ∧ (∀ p ∈ (s [] []).packets, p.wing ≠ 0) ∧ (∀ x ∈ (s [] []).warps, ¬ x.id.core < 16) ∧
     (∃ p ∈ (s [pk false .home] []).packets, p.wing = 0) ∧ (∃ x ∈ (s [] [w0]).warps, x.id.core < 16) ∧ wing0.keySt ≠ .zeroising ∧
     ∃ z : Wing, z.keySt = .zeroising ∧ z.revoking = some (15, 4)) := by
  refine ⟨⟨?_, by decide, by decide, by decide, by decide, by decide, by decide, by decide, by decide, by decide, by decide⟩,
    ⟨grants_wing rfl (by decide), grants_wing rfl (by decide), rfl, rfl⟩, ⟨rfl, by decide, by decide, by decide⟩,
    ⟨by decide, by decide, by decide, grants_op rfl (by decide)⟩,
    ⟨grants_wing rfl (by decide), rfl, by decide, rfl, rfl, rfl, rfl, grants_wing rfl (by decide), by decide⟩,
    ⟨grants_wing rfl (by decide), by decide, rfl⟩, rfl, by decide, by decide, by decide, by decide, by decide,
    { wing0 with keySt := .zeroising, revoking := some (15, 4) }, rfl, rfl⟩
  intro w hw
  have hid : w.id = 0 := by revert w; decide
  exact ⟨grants_op rfl (by show 1 ≤ 1; decide), w, List.mem_cons_self, hid⟩

/-- The module right after power-good and at Stage 1, and its parts in each state that a step asks for. -/
def onDie (cd un : Domain) (z cur : Bool) : State :=
  { State.reset with dies := [{ Die.reset 0 with coreDom := cd, uncore := un, zeroing := z, curatorLoaded := cur, mailboxRead := cur }] }

set_option maxRecDepth 20000 in
theorem witness_WingsAndManagement :
    ((∀ b : Bool, ((onDie .running .running b false).die 0).zeroing = b) ∧
      (∀ b : Bool, (({ State.reset with hbms := [{ Stack.reset 0 with zeroing := b }] } : State).stack 0).zeroing = b) ∧
      ∀ b : Bool, (({ State.reset with buffers := [{ Buffer.reset 0 with zeroing := b }] } : State).buffer 0).zeroing = b) ∧
    (State.reset.grants (msgOp 0x18) 0x18 ∧ State.reset.grants (msgOp 0x19) 0x19 ∧ mgmtOk (.hmcfg 8) = true ∧ mgmtOk (.hmcfg 9) = false ∧
      (let v : DWord := 0x090000000020
       isStackPA v.toNat = true ∧ v.toNat % 2 ^ 40 + 2 ^ 21 ≤ 2 ^ 36 ∧ v.toNat % 32 = 0) ∧ isStackPA 0 = false ∧ ∃ k ∈ State.reset.hbms, k.id = 8) ∧
    (let s := onWings 1 [wing0] 0
     let f (r : Nat) (b : Bool) : FwImage := ⟨.curator, 1, 1, r, b, true⟩
     s.grants (msgOp 0x1A) 0x1A ∧ (f 0 true).rsaOk = true ∧ (s.docent.firmware .curator).stored ≤ (f 0 true).rollback ∧ (f 0 false).rsaOk = false) ∧
    ((∃ w, State.reset.wings[14]? = some w ∧ w.st = .free) ∧ (onWings 1 [wing0] 0).wings[0]? = some wing0 ∧ wing0.st ≠ .free ∧ wing0.retain = false) ∧
    (State.reset.docent.stage = 0 ∧ (∃ x ∈ State.reset.dies, x.id = 8) ∧ (State.reset.die 8).coreDom = .running ∧ (State.reset.die 8).curatorLoaded = false ∧
      (onWings 1 [wing0] 0).docent.stage ≠ 0 ∧ ((onWings 1 [wing0] 0).die 1).curatorLoaded = false ∧ ((onWings 1 [wing0] 0).die 0).curatorLoaded = true) ∧
    (let s (b : Bool) : State := { onDie .running .running false b with docent := { State.reset.docent with stage := 1 } }
     (∀ d ∈ (s true).dies, d.coreDom = .fenced ∨ (d.curatorLoaded = true ∧ d.mailboxRead = true)) ∧
     ¬ (∀ d ∈ (s false).dies, d.coreDom = .fenced ∨ (d.curatorLoaded = true ∧ d.mailboxRead = true))) ∧
    ((onUser w0).hasCore c0 ∧ ((onUser w0).core c0).fenced = false ∧ c0.core ≠ 16 ∧ c16.core = 16 ∧
      ((onCur w16).core ⟨0, 1⟩).fenced = true) ∧
    (∀ d ∈ [Domain.running, .reset, .fenced], ((onDie d .running false false).die 0).coreDom = d ∧ ((onDie d .running false false).die 0).uncore = .running ∧
      ((onDie .reset d false false).die 0).uncore = d ∧ ∃ x ∈ (onDie d .running false false).dies, x.id = 0) ∧
    (∀ b : Bool, (({ State.reset with ports := [⟨15, b, 0⟩] } : State).ports.find? fun y => y.id == 15) = some ⟨15, b, 0⟩) :=
  ⟨by decide, ⟨grants_op rfl (by decide), grants_op rfl (by decide), by decide⟩, ⟨grants_op rfl (by decide), by decide⟩, ⟨⟨_, rfl, rfl⟩, rfl, by decide, rfl⟩, by decide, by decide,
    ⟨hasCore_user w0, by decide⟩, by decide, by decide⟩

/-! ### Effects -/

/-- What a next state shows. -/
def shows {α : Type} (r : Host.Outcome State Fault Refusal) (f : State → α) : Option α :=
  match r with
  | .next t => some (f t)
  | _ => none
/-- A warp's v registers 0, 1 and 3 with one value each in every thread. -/
def wV (a b c : Word) : Warp := { w0 with v := ((w0.v.set 0 (VReg.uniform a)).set 1 (VReg.uniform b)).set 3 (VReg.uniform c) }
/-- v2 of thread 31 after an instruction on that warp. -/
def v2After (i : Instr) (a b c : Word) : Option Word :=
  shows (exec i (onUser (wV a b c))) fun t => ((t.warps.head?).map fun w => (w.getV 2).get 31).getD 0

set_option maxRecDepth 20000

/-- A sum and a difference that wrap. -/
theorem test_iadd : v2After (.iadd addX) 0x7FFFFFFF 1 0 = some 0x80000000 ∧ v2After (.isub addX) 0 1 0 = some 0xFFFFFFFF := by decide

/-- BTAB's tables as its description names them: a and b, a or b, and the exclusive or of three (R200). -/
theorem test_btab :
    v2After (.btab (op (.v 2) (.v 0) (.v 1) (.v 3) 0x88 0)) 0x0F 0x3C 0xFF = some 0x0C ∧
    v2After (.btab (op (.v 2) (.v 0) (.v 1) (.v 3) 0xEE 0)) 0x0F 0x3C 0 = some 0x3F ∧
    v2After (.btab (op (.v 2) (.v 0) (.v 1) (.v 3) 0x96 0)) 0x0F 0x3C 0x55 = some 0x66 := by decide

/-- Sums of single precision, by hand: 1.5 - 0.5, and the largest finite number doubled. -/
theorem test_fadd :
    v2After (.fadd (op (.v 2) (.v 0) (.v 1) (.v 0) 0x80 0)) 0x3FC00000 0xBF000000 0 = some 0x3F800000 ∧
    v2After (.fadd (op (.v 2) (.v 0) (.v 1) (.v 0) 0x80 0)) 0x7F7FFFFF 0x7F7FFFFF 0 = some 0x7F800000 ∧
    v2After (.ffma (op (.v 2) (.v 0) (.v 1) (.v 3) 0x80 0)) 0x40400000 0x40400000 0xC1000000 = some 0x3F800000 := by decide

/-- Counts and shifts at the edges of their amounts. -/
theorem test_bits :
    v2After (.clz (op (.v 2) (.v 0) (.v 0) (.v 0) 0xB0 0)) 0 0 0 = some 32 ∧ v2After (.popc (op (.v 2) (.v 0) (.v 0) (.v 0) 0xB0 0)) 0xF000000F 0 0 = some 8 ∧
    v2After (.brev (op (.v 2) (.v 0) (.v 0) (.v 0) 0xB0 0)) 1 0 0 = some 0x80000000 := by decide

/-- TRAP stops its core for a trap of class 8, with AUX its code and the pc of the instruction; the warp stays (R382, R396). -/
theorem test_trap :
    shows (exec (.trap (op (.v 0) (.imm 9) (.v 0) (.v 0) 0 0)) s0) (fun t => match (t.core c0).stop with
      | .stopping _ l => l.map fun p => (p.trapRec.cls, p.trapRec.aux, p.trapRec.pc)
      | _ => []) = some [(8, 9, 0x1000)] := by decide

/-- In the cycle of a trap the core's other warps issue, and from the next one on none does (R383). -/
theorem test_stop :
    let s := onStop (.stopping 0 [trapX 8 0]) .running none [] [w0]
    s.issuing c0 = true ∧ s.trapped w0 = true ∧ { s with clk := 1 }.issuing c0 = false ∧ s.unitEvent = none ∧
    { s with clk := 1 }.unitEvent = some (.coreStop c0) := by decide

/-- A late trap names the instruction at its warp's boundary, any other the one it came with (R385). -/
theorem test_late :
    let s := onStop .none .running none [] [w0]
    let t : PendTrap := { trapX 6 0 with trapRec := TrapRec.zero }
    (s.located c0 { t with late := true }).trapRec.pc = 0x1000 ∧ (s.located c0 t).trapRec.pc = 0 := by decide

/-- An unmapped append of thread 2 fails as an access of kind 3 (R73, R385, R447). -/
theorem test_append_kind :
    (match sM.appendPages gSat 2 0x100400000 8 with | .error c => some (c.thread, c.kind) | .ok _ => none) = some (2, 3) := by decide

/-- CADD.l of 5 to counter 3, and a saturating one (R305). -/
theorem test_cadd :
    shows (exec (.cadd (ctrX (.imm 3) (.imm 5) 0)) sM) (fun t => (t.groups.head?).map (·.ctrs)) = some (some [0, 0, 0, 5]) ∧
    shows (exec (.cadd (ctrX (.imm 3) (.imm 5) 0)) (inWing coreM gSat wM)) (fun t => (t.groups.head?).map fun g => g.ctrs.getD 3 0) =
      some (some (BitVec.allOnes 64)) := by decide

/-- The last split's EXIT takes its warp away or leaves it without a split (R356); BRA by 2 goes to its own address plus 8 (R352). -/
theorem test_control :
    shows (exec (.exit noX) s0) (fun t => t.warps.all fun w => w.splits.isEmpty) = some true ∧
    shows (exec (.bra (op (.v 0) (.imm 2) (.v 0) (.v 0) 0 0)) s0) (fun t => ((t.warps.head?).map (·.pc)).getD 0) = some 0x1008 := by decide

/-- The words that the manual writes beside the worked case of its chapter on control flow. -/
theorem test_worked_words :
    decodeTableWord 64 0x00000001850005C1 = some (.bra { op (.v 0) (.imm 5) (.v 0) (.v 0) 0 0 with g := ⟨false, 1⟩ }) ∧
    decodeTableWord 64 0x0000000183005DC1 = some (.bra { op (.v 0) (.imm 3) (.v 0) (.v 0) 0 0 with w := true }) ∧
    decodeTableWord 64 0x0000000000001DD1 = some (.reconv noX) ∧ decodeTableWord 32 0x30204708 = some (.iaddShort ⟨pt, 0, .v 4, .imm 1⟩) := by decide

end Sys2Proof.Tests
end

section
/-!
SUPPORT. The state after a cold reset: what its lists hold, the invariants there, and the statement that says both (O6).
-/
namespace Sys2Proof.Machine

/-! ### What the lists hold -/

@[simp] theorem State.reset_hbms : State.reset.hbms = (List.range 9).map Stack.reset := rfl
@[simp] theorem State.reset_buffers : State.reset.buffers = (List.range 8).map Buffer.reset := rfl
@[simp] theorem State.reset_dies : State.reset.dies = (List.range 9).map Die.reset := rfl
@[simp] theorem State.reset_cores : State.reset.cores = (List.range 9).flatMap coresOf := rfl
@[simp] theorem State.reset_wings : State.reset.wings = (List.range 15).map Wing.reset := rfl
@[simp] theorem State.reset_ports : State.reset.ports = (List.range 16).map fun p => ⟨p, true, 0⟩ := rfl

/-- What holds of every core after a cold reset holds of each core of the module. -/
theorem State.forall_reset_cores {P : Core → Prop} (h : ∀ c, P (Core.reset c)) : ∀ k ∈ State.reset.cores, P k := by
  intro k hk
  obtain ⟨d, -, hkd⟩ := List.mem_flatMap.mp hk
  obtain ⟨n, -, rfl⟩ := List.mem_map.mp hkd
  exact h ⟨d, n⟩

/-- Nine dies of 17 cores (R5). -/
theorem State.length_reset_cores : State.reset.cores.length = 153 := by
  simp [coresOf, List.length_flatMap]

/-! ### The invariants -/

/-- DRAM and every scratchpad list nothing, which is canonical. -/
theorem State.reset_memOk : State.reset.memOk = true := by
  have hspm : ∀ k ∈ State.reset.cores, Mem.wf spmUnlisted k.spm = true := State.forall_reset_cores fun _ => rfl
  exact Bool.and_eq_true_iff.mpr ⟨rfl, List.all_eq_true.mpr hspm⟩

/-- A wing after a cold reset holds no die, no buffer and no port. -/
theorem Wing.reset_holdsNothing (i : Nat) : (Wing.reset i).dies = 0 ∧ (Wing.reset i).bufs = 0 ∧ (Wing.reset i).ports = 0 :=
  ⟨rfl, rfl, rfl⟩

/-- So two of them share nothing. -/
theorem Wing.reset_apart (i j : Nat) : (Wing.reset i).apart (Wing.reset j) = true := by
  simp [Wing.apart, Wing.reset_holdsNothing]

/-- The wings after a cold reset are numbered 0 to 14. -/
theorem State.reset_wings_ids : State.reset.wings.map (·.id) = List.range 15 := by
  simp [Function.comp_def, Wing.reset]

/-- Wherever the wings are those of a cold reset, they have a number each and share nothing. -/
theorem State.wingsApart_of_wings_eq_reset {s : State} (h : s.wings = State.reset.wings) : s.wingsApart = true := by
  have hids : (State.reset.wings.map (·.id)).Nodup := State.reset_wings_ids ▸ List.nodup_range
  have hfree : ∀ a ∈ State.reset.wings, (a.holds || (a.dies == 0 && a.bufs == 0 && a.ports == 0)) = true := by
    simp [Wing.reset_holdsNothing]
  have hapart : ∀ a ∈ State.reset.wings, ∀ b ∈ State.reset.wings, (a.id == b.id || a.apart b) = true := by
    simp [Wing.reset_apart]
  unfold State.wingsApart
  rw [h, Bool.and_eq_true, decide_eq_true_eq, List.all_eq_true]
  exact ⟨hids, fun a ha => Bool.and_eq_true_iff.mpr ⟨hfree a ha, List.all_eq_true.mpr (hapart a ha)⟩⟩

/-- Stage 0 is a legal stage. -/
theorem State.reset_stageOk : State.reset.stageOk = true := rfl

/-! ### The statement -/

/-- Settles O6: the module's lists are ranges of parts as a cold reset leaves each, so what is said of every part is read off one
of them, and the invariants are the lemmas above. -/
theorem resetState : Obligations.ResetState := by
  unfold Obligations.ResetState
  refine ⟨rfl, rfl, rfl, rfl, rfl, rfl, rfl, rfl, rfl, rfl, rfl, rfl, rfl, by simp, ?wings, by simp, ?hbms, by simp, ?buffers,
    by simp, ?dies, State.length_reset_cores, ?cores, ?ports,
    State.reset_memOk, ?warps, State.wingsApart_of_wings_eq_reset rfl, State.reset_stageOk⟩
  case wings => simp [Wing.reset]
  case hbms => simp [Stack.reset]
  case buffers => simp [Buffer.reset]
  case dies => simp [Die.reset]
  case cores => exact State.forall_reset_cores fun _ => ⟨rfl, rfl, rfl, rfl⟩
  case ports => simp
  case warps => exact fun w hw => absurd hw List.not_mem_nil

end Sys2Proof.Machine
end

section
/-!
SUPPORT. Lists of units: what a search finds after an update of the units it looks for, and what a fold of the state keeps.
-/
namespace Sys2Proof.Machine

/-! ### Searches and folds -/

/-- An update of the elements that a search looks for, which it still finds then. -/
theorem find?_map_update {α : Type} {p : α → Bool} {f : α → α} (hf : ∀ x, p x = true → p (f x) = true) (l : List α) :
    (l.map fun x => if p x then f x else x).find? p = (l.find? p).map f := by
  induction l with
  | nil => rfl
  | cons x l ih => cases hx : p x <;> simp [hx, hf, ih]

/-- An update that a search does not see. -/
theorem find?_map_of_unseen {α : Type} {p : α → Bool} {u : α → α} (hu : ∀ x, p (u x) = p x) (l : List α) :
    (l.map u).find? p = (l.find? p).map u := by
  rw [List.find?_map, show p ∘ u = p from funext hu]

/-- A fold keeps what each of its steps keeps. -/
theorem foldl_keeps {σ α β : Type} (view : σ → β) {f : σ → α → σ} (hf : ∀ s a, view (f s a) = view s) (l : List α) (s : σ) :
    view (l.foldl f s) = view s := by
  induction l generalizing s with
  | nil => rfl
  | cons a l ih => rw [List.foldl_cons, ih, hf]

/-- The first number below `n` of which a function gives something. -/
theorem findSome?_range {β : Type} {f : Nat → Option β} {n : Nat} {b : β} (h : (List.range n).findSome? f = some b) :
    ∃ k < n, f k = some b ∧ ∀ j < k, f j = none := by
  induction n with
  | zero => simp at h
  | succ n ih =>
    rw [List.range_succ, List.findSome?_append] at h
    cases hn : (List.range n).findSome? f with
    | some c =>
      obtain ⟨k, hk, hfk, hmin⟩ := ih (by simpa [hn] using h)
      exact ⟨k, by omega, hfk, hmin⟩
    | none =>
      refine ⟨n, by omega, by simpa [hn] using h, fun j hj => ?_⟩
      exact List.findSome?_eq_none_iff.mp hn j (List.mem_range.mpr hj)

/-- An element of blocks of one width that stand one after another. -/
theorem getD_flatMap_range {α : Type} {f : Nat → List α} {w n k : Nat} (hf : ∀ i, (f i).length = w) (hk : k < w) (d : α) {N : Nat}
    (hn : n < N) : ((List.range N).flatMap f).getD (w * n + k) d = (f n).getD k d := by
  have hlen : ∀ N, ((List.range N).flatMap f).length = w * N := fun N => by
    simp [List.length_flatMap, hf, Nat.mul_comm]
  induction N with
  | zero => omega
  | succ N ih =>
    rw [List.range_succ, List.flatMap_append]
    by_cases h : n < N
    · have hin : w * n + k < w * N := by
        calc w * n + k < w * n + w := by omega
          _ = w * (n + 1) := by ring
          _ ≤ w * N := Nat.mul_le_mul_left w h
      rw [List.getD_append _ _ _ _ (by rw [hlen]; exact hin), ih h]
    · obtain rfl : n = N := by omega
      rw [List.getD_append_right _ _ _ _ (by rw [hlen]; omega), hlen]
      simp

end Sys2Proof.Machine
end

section
/-!
SUPPORT. One queue pair and one group after an update, what leaves the queue pairs alone, and a number that is not in use.
-/
namespace Sys2Proof.Machine

/-! ### A unit after its update -/

/-- A queue pair reads as it was updated. -/
theorem State.qp?_modQp {s : State} {n : Nat} {q : Qp} {f : Qp → Qp} (hf : ∀ x : Qp, (f x).qpn = x.qpn) (h : s.qp? n = some q) :
    (s.modQp n f).qp? n = some (f q) := by
  have := find?_map_update (p := fun x : Qp => x.qpn == n) (f := f) (fun x hx => by rw [hf]; exact hx) s.qps
  exact this.trans (congrArg (Option.map f) h)

/-- So does a group. -/
theorem State.group?_modGroup {s : State} {c : CoreId} {n : Nat} {g : Group} {f : Group → Group}
    (hf : ∀ x : Group, (f x).core = x.core ∧ (f x).slot = x.slot) (h : s.group? c n = some g) : (s.modGroup c n f).group? c n = some (f g) := by
  have := find?_map_update (p := fun x : Group => x.core == c && x.slot == n) (f := f)
    (fun x hx => by rw [(hf x).1, (hf x).2]; exact hx) s.groups
  exact this.trans (congrArg (Option.map f) h)

/-- What an update of a wing keeps of it reads as before, whichever wing is asked. -/
theorem State.wing_modWing_of_kept {α : Type} {view : Wing → α} {f : Wing → Wing} (hid : ∀ w, (f w).id = w.id) (hf : ∀ w, view (f w) = view w)
    (s : State) (k n : Nat) : view ((s.modWing k f).wing n) = view (s.wing n) := by
  have hfind := find?_map_of_unseen (p := fun x : Wing => x.id == n) (u := fun x => if x.id == k then f x else x)
    (fun x => by split <;> simp [hid]) s.wings
  simp only [State.wing, State.modWing, hfind]
  cases s.wings.find? fun x => x.id == n with
  | none => rfl
  | some w =>
    simp only [Option.map_some, Option.getD_some]
    split
    · exact hf w
    · rfl

/-! ### What leaves the queue pairs alone -/

@[simp] theorem State.enqueueMem_qps (s : State) (pa : Nat) (r : MemReq) : (s.enqueueMem pa r).qps = s.qps := by
  unfold State.enqueueMem; split <;> rfl

@[simp] theorem State.l2WriteBack_qps (s : State) (l : L2Line) : (s.l2WriteBack l).qps = s.qps := by
  unfold State.l2WriteBack; simp only; split
  · rfl
  · exact State.enqueueMem_qps ..

@[simp] theorem State.l2Set_qps (s : State) (l : L2Line) : (s.l2Set l).qps = s.qps := by
  unfold State.l2Set; simp only
  split
  · rfl
  · split
    · rfl
    · split
      · rfl
      · exact State.l2WriteBack_qps ..

@[simp] theorem State.respond_qps (s : State) (pid : Nat) (f : Packet → Packet) : (s.respond pid f).qps = s.qps := by
  unfold State.respond
  split
  · rfl
  · exact (foldl_keeps State.qps (fun _ _ => by rfl) _ _).trans rfl

@[simp] theorem State.pokeMonitors_qps (s : State) (line : Nat) : (s.pokeMonitors line).qps = s.qps :=
  foldl_keeps State.qps (fun t (m : Monitor) => State.respond_qps t m.pid _) ..

@[simp] theorem State.l2Merge_qps (s : State) (line wg : Nat) (bs : LineBytes) : (s.l2Merge line wg bs).qps = s.qps := by
  simp [State.l2Merge]

@[simp] theorem State.l2Through_qps (s : State) (src slot wg line : Nat) (u : Bool) (bs : LineBytes) (ack : Option Nat) :
    (s.l2Through src slot wg line u bs ack).qps = s.qps := by
  simp only [State.l2Through, State.pokeMonitors_qps, State.enqueueMem_qps]
  split
  · rfl
  · exact State.l2Set_qps ..

@[simp] theorem State.homeWrite_qps (s : State) (src slot wg cp line : Nat) (bs : LineBytes) :
    (s.homeWrite src slot wg cp line bs).qps = s.qps := by
  unfold State.homeWrite
  split
  · rfl
  · split
    · exact State.l2Merge_qps ..
    · exact State.l2Through_qps ..

@[simp] theorem State.homePuts_qps (s : State) (src slot wg cp pa : Nat) (bs : List Byte) : (s.homePuts src slot wg cp pa bs).qps = s.qps :=
  foldl_keeps State.qps (fun _ _ => State.homeWrite_qps ..) ..

@[simp] theorem State.homeAdd_qps (s : State) (src slot wg cp pa : Nat) (amt : DWord) : (s.homeAdd src slot wg cp pa amt).1.qps = s.qps :=
  State.homePuts_qps ..

@[simp] theorem State.writePages_qps (s : State) (w : Who) (ps : Pages) (bs : List Byte) : (s.writePages w ps bs).qps = s.qps := by
  induction ps generalizing s bs with
  | nil => rfl
  | cons p ps ih => rw [State.writePages, ih, State.homePuts_qps]

@[simp] theorem State.report_qps (s : State) (wing : Nat) (body : List Nat) : (s.report wing body).qps = s.qps := by
  unfold State.report; split <;> rfl

@[simp] theorem State.found_qps (s : State) (c : Cause) : (s.found c).qps = s.qps := by
  unfold State.found
  split
  · unfold State.uncorrectable; split <;> simp
  · rfl

@[simp] theorem State.unitReport_qps (s : State) (wing : Nat) (src : RepSrc) (place : Nat) (c : Cause) :
    (s.unitReport wing src place c).qps = s.qps := by
  simp [State.unitReport]

@[simp] theorem State.place_qps (s : State) (w : Who) (va : Nat) (data : List Byte) : (s.place w va data).1.qps = s.qps :=
  State.writePages_qps ..

/-- An add to a counter at its home changes no queue pair. -/
theorem State.unitAdd_qps {s t : State} {asid wing va : Nat} {amt : DWord} {spill : Bool} (h : s.unitAdd asid wing va amt = .ok (t, spill)) :
    t.qps = s.qps := by
  unfold State.unitAdd at h
  split at h
  · cases h
  · split at h
    · cases h; rfl
    · next p _ =>
      obtain rfl : (s.homeAdd 0 0xFFF p.2.2.wg p.2.2.cp (p.2.2.pa va) amt).1 = t := congrArg Prod.fst (Except.ok.inj h)
      exact State.homeAdd_qps ..

/-! ### A number not in use (log 32) -/

/-- Of more numbers than are in use, one is not. -/
theorem exists_find?_not_contains {l used : List Nat} (hl : l.Nodup) (h : used.length < l.length) :
    ∃ k ∈ l, k ∉ used ∧ (l.find? fun x => !used.contains x) = some k := by
  cases hfind : l.find? fun x => !used.contains x with
  | none =>
    have hsub : l ⊆ used := fun x hx => by simpa using List.find?_eq_none.mp hfind x hx
    have := (List.subperm_of_subset hl hsub).length_le
    omega
  | some k => exact ⟨k, List.mem_of_find?_eq_some hfind, by simpa using List.find?_some hfind, rfl⟩

/-- Numbers that follow one another modulo `n` are apart, if they are no more than `n`. -/
theorem nodup_range_add_mod {c lo m n : Nat} (h : m ≤ n) : ((List.range m).map fun i => lo + (c + i) % n).Nodup := by
  refine List.Nodup.map_on (fun i hi j hj hij => ?_) List.nodup_range
  have hi' := List.mem_range.mp hi
  have hj' := List.mem_range.mp hj
  have hmod : i ≡ j [MOD n] := Nat.ModEq.add_left_cancel' c (show (c + i) % n = (c + j) % n by omega)
  exact hmod.eq_of_lt_of_lt (by omega) (by omega)

/-- Where fewer than all `n` numbers are in use, one of the others is taken. -/
theorem State.pickUnused_eq_some (s : State) {used : List Nat} {n : Nat} (lo : Nat) (h : used.length < n) :
    ∃ k, s.pickUnused used lo n = (some k, s.freshFree.2) ∧ lo ≤ k ∧ k < lo + n ∧ k ∉ used := by
  obtain ⟨k, hk, hfree, hfind⟩ :=
    exists_find?_not_contains (used := used) (nodup_range_add_mod (c := Config.name s.free) (lo := lo) (m := used.length + 1) h) (by simp)
  obtain ⟨i, -, rfl⟩ := List.mem_map.mp hk
  exact ⟨_, congrArg (·, s.freshFree.2) hfind, by omega, by have := Nat.mod_lt (Config.name s.free + i) (show 0 < n by omega); omega, hfree⟩

end Sys2Proof.Machine
end

section
/-!
SUPPORT. Frames by a port (R401), and what an accepted message leaves as it was (R409, R411).
-/
namespace Sys2Proof.Machine

/-! ### Ports (R18, R401) -/

/-- A port that is a wing's is held by one of the wings. -/
theorem State.mem_of_portWing {s : State} {port : Nat} {w : Wing} (h : s.portWing port = some w) :
    w ∈ s.wings ∧ w.holds = true ∧ w.ports.getLsbD port = true :=
  ⟨List.mem_of_find?_eq_some h, by simpa using List.find?_some h⟩

theorem State.carries_ccp_iff {s : State} {port : Nat} {m : Ccp} :
    s.carries port (.ccp m) = true ↔
      (port = 0 ∨ port = 8) ∧ (s.docent.stage ≠ 0 ∨ s.docent.socket = 18 ∨ s.docent.socket = if port < 8 then 18 else 19) := by
  have hio : (portSocket port == s.docent.socket) = true ↔ s.docent.socket = if port < 8 then 18 else 19 := by
    rw [beq_iff_eq, eq_comm]; rfl
  simp only [State.carries, Bool.and_eq_true, Bool.or_eq_true, beq_iff_eq, bne_iff_ne, or_assoc, hio]

theorem State.carries_roce_iff {s : State} {port qp : Nat} :
    s.carries port (.roce qp) = true ↔ ∃ w, s.portWing port = some w ∧ ∀ q, s.qp? qp = some q → q.wing = w.id := by
  cases hw : s.portWing port <;> cases hq : s.qp? qp <;> simp [State.carries, hw, hq]

theorem State.frame_of_carries {s : State} {port : Nat} {k : FrameKind} (h : s.carries port k = true) : s.frame port k = s := by
  simp [State.frame, h]

theorem State.frame_of_not_carries {s : State} {port : Nat} {k : FrameKind} (h : ¬ s.carries port k = true) :
    s.frame port k =
      { s with ports := s.ports.map fun p => if p.id == port then { p with dropped := min (p.dropped + 1) (2 ^ 32 - 1) } else p } := by
  simp [State.frame, h]

/-- A frame is only carried or dropped by its own row where no message without a row is in it. -/
theorem exec_portFrameReceive {port : Nat} {k : FrameKind} (hk : ∀ m, k = .ccp m → ccpListed m = true) (s : State) :
    exec (.portFrameReceive port k) s = .next (s.frame port k) := by
  have hnone : ccpOf (.portFrameReceive port k) = none := by
    cases k with
    | ccp m => simp [ccpOf, hk m rfl]
    | roce qp => rfl
    | other => rfl
  show execPortFrameReceive port k s = _
  simp [execPortFrameReceive, hnone]

/-! ### The docent's rotation (R409) -/

/-- The docent serves a message of the sender that comes first after the one served last: no message that has come is of a sender nearer
in the rotation. -/
theorem State.ccpNext_spec {s : State} {i : Instr} {who : Nat} (h : s.ccpNext = some (i, who)) :
    ∃ m, i ∈ s.agenda ∧ ccpOf i = some m ∧ m.wing % 16 = who ∧
      ∀ j x rest, s.agenda = j :: rest → ccpOf j = some x → (who + 31 - s.docent.ccpTurn % 16) % 16 ≤ (x.wing % 16 + 31 - s.docent.ccpTurn % 16) % 16 := by
  obtain ⟨k, hk, hfound, hbefore⟩ := findSome?_range h
  obtain ⟨j, hj, heq⟩ := Option.map_eq_some_iff.mp hfound
  obtain ⟨rfl, rfl⟩ := Prod.mk.inj heq
  obtain ⟨m, hm, hwho⟩ : ∃ m, ccpOf j = some m ∧ m.wing % 16 = (s.docent.ccpTurn + 1 + k) % 16 := by
    simpa [Option.any_eq_true] using List.find?_some hj
  have hmem : j ∈ s.agenda := (List.takeWhile_subset _) (List.mem_of_find?_eq_some hj)
  refine ⟨m, hmem, hm, hwho, fun a x rest hagenda hx => ?_⟩
  have hhead : a ∈ s.agenda.takeWhile fun i => (ccpOf i).isSome := by simp [hagenda, hx]
  by_contra hlt
  have hnone := hbefore ((x.wing % 16 + 31 - s.docent.ccpTurn % 16) % 16) (by omega)
  have hmiss := List.find?_eq_none.mp (Option.map_eq_none_iff.mp hnone) a hhead
  simp only [hx, Option.any_some, beq_iff_eq] at hmiss
  omega

/-! ### An accepted message (R409, R411) -/

@[simp] theorem State.ccpAccept_groups (s : State) (m : Ccp) : (s.ccpAccept m).groups = s.groups := by unfold State.ccpAccept; split <;> rfl
@[simp] theorem State.ccpAccept_regions (s : State) (m : Ccp) : (s.ccpAccept m).regions = s.regions := by unfold State.ccpAccept; split <;> rfl
@[simp] theorem State.ccpAccept_qps (s : State) (m : Ccp) : (s.ccpAccept m).qps = s.qps := by unfold State.ccpAccept; split <;> rfl
@[simp] theorem State.ccpAccept_ports (s : State) (m : Ccp) : (s.ccpAccept m).ports = s.ports := by unfold State.ccpAccept; split <;> rfl
@[simp] theorem State.ccpAccept_out (s : State) (m : Ccp) : (s.ccpAccept m).out = s.out := by unfold State.ccpAccept; split <;> rfl
@[simp] theorem State.ccpAccept_stage (s : State) (m : Ccp) : (s.ccpAccept m).docent.stage = s.docent.stage := by
  unfold State.ccpAccept; split <;> rfl
@[simp] theorem State.ccpAccept_fwDocent (s : State) (m : Ccp) : (s.ccpAccept m).docent.fwDocent = s.docent.fwDocent := by
  unfold State.ccpAccept; split <;> rfl
@[simp] theorem State.ccpAccept_fwCurator (s : State) (m : Ccp) : (s.ccpAccept m).docent.fwCurator = s.docent.fwCurator := by
  unfold State.ccpAccept; split <;> rfl
@[simp] theorem State.ccpAccept_fwBuffer (s : State) (m : Ccp) : (s.ccpAccept m).docent.fwBuffer = s.docent.fwBuffer := by
  unfold State.ccpAccept; split <;> rfl
@[simp] theorem State.ccpAccept_qp? (s : State) (m : Ccp) (n : Nat) : (s.ccpAccept m).qp? n = s.qp? n := by simp [State.qp?]
@[simp] theorem State.ccpAccept_group? (s : State) (m : Ccp) (c : CoreId) (n : Nat) : (s.ccpAccept m).group? c n = s.group? c n := by
  simp [State.group?]

/-- Of a wing, accepting a message changes its last SEQ alone. -/
theorem State.wing_ccpAccept_of_kept {α : Type} {view : Wing → α} (hv : ∀ (w : Wing) (n : Nat), view { w with inSeq := n } = view w)
    (s : State) (m : Ccp) (n : Nat) : view ((s.ccpAccept m).wing n) = view (s.wing n) := by
  unfold State.ccpAccept
  split
  · rfl
  · exact State.wing_modWing_of_kept (view := view) (f := fun w => { w with inSeq := m.seq }) (fun _ => rfl) (fun w => hv w m.seq) s m.wing n

@[simp] theorem State.ccpAccept_wing_st (s : State) (m : Ccp) (n : Nat) : ((s.ccpAccept m).wing n).st = (s.wing n).st :=
  State.wing_ccpAccept_of_kept (view := Wing.st) (fun _ _ => rfl) s m n
@[simp] theorem State.ccpAccept_wing_revoking (s : State) (m : Ccp) (n : Nat) : ((s.ccpAccept m).wing n).revoking = (s.wing n).revoking :=
  State.wing_ccpAccept_of_kept (view := Wing.revoking) (fun _ _ => rfl) s m n
@[simp] theorem State.ccpAccept_wing_ports (s : State) (m : Ccp) (n : Nat) : ((s.ccpAccept m).wing n).ports = (s.wing n).ports :=
  State.wing_ccpAccept_of_kept (view := Wing.ports) (fun _ _ => rfl) s m n

/-- A die keeps its wing when a message is accepted. -/
@[simp] theorem State.ccpAccept_dieWing (s : State) (m : Ccp) (d : Nat) : (s.ccpAccept m).dieWing d = s.dieWing d := by
  unfold State.ccpAccept
  split
  · rfl
  · have hfind := find?_map_of_unseen (p := fun w : Wing => w.holds && w.dies.getLsbD d)
      (u := fun x => if x.id == m.wing then { x with inSeq := m.seq } else x) (fun x => by split <;> rfl) s.wings
    simp only [State.dieWing, State.modWing, hfind]
    cases s.wings.find? fun w => w.holds && w.dies.getLsbD d with
    | none => rfl
    | some w => simp only [Option.map_some]; split <;> rfl

/-- A message that is granted acts on the state in which its SEQ is its sender's last. -/
theorem State.ccp_of_grants {s : State} {m : Ccp} {ty : Nat} (h : s.grants m ty) (f : State → State) : s.ccp m ty f = f (s.ccpAccept m) := by
  obtain ⟨⟨hcarries, last, hlast, htag, hseq⟩, hstage, hsender, hform⟩ := h
  have hnew : ¬ m.seq ≤ last := by omega
  have hlate : ¬ s.docent.stage < (ccpType ty).1 := by omega
  have hsent : ((ccpType ty).2 == .wing && m.wing == 15 || (ccpType ty).2 == .operator && m.wing != 15) = false := by
    cases hwho : (ccpType ty).2 <;> simp_all [Sender.admits]
  simp [State.ccp, hlast, hcarries, htag, hnew, hlate, hsent, hform]

/-- So does one that needs its wing active, where the wing is. -/
theorem State.ccpActive_of_grantsActive {s : State} {m : Ccp} {ty : Nat} (h : s.grantsActive m ty) (f : State → State) :
    s.ccpActive m ty f = f (s.ccpAccept m) := by
  obtain ⟨hgrants, hactive, hrevoking⟩ := h
  simp [State.ccpActive, State.ccp_of_grants hgrants, hactive, hrevoking]

end Sys2Proof.Machine
end

section
/-!
SUPPORT. RoCEv2 as responder and as requester: what each operation on a queue pair does, by case (R406 to R408, R416).
-/
namespace Sys2Proof.Machine

/-! ### Responder (R406, R407, R416) -/

section
variable {s : State} {qp : Nat} {q : Qp} {f : Qp → State}

theorem State.roce_of_unknown (h : s.qp? qp = none) : s.roce qp f = s.nak qp := by
  simp [State.roce, h]

theorem State.roce_of_foreign (h : s.qp? qp = some q) (hc : s.carries q.body.port (.roce qp) = false) :
    s.roce qp f = s.frame q.body.port (.roce qp) := by
  simp [State.roce, h, hc]

theorem State.roce_of_early (h : s.qp? qp = some q) (hc : s.carries q.body.port (.roce qp) = true) (hs : s.docent.stage < 2) :
    s.roce qp f = s.nak qp := by
  simp [State.roce, h, hc, hs]

theorem State.roce_of_ready (h : s.qp? qp = some q) (hc : s.carries q.body.port (.roce qp) = true) (hs : 2 ≤ s.docent.stage) :
    s.roce qp f = f q := by
  have hlate : ¬ s.docent.stage < 2 := by omega
  simp [State.roce, h, hc, hlate]

end

/-- A region admits an access of `n` bytes for a queue pair (R407). -/
def Region.Admits (r : Region) (q : Qp) (rkey va n : Nat) (write : Bool) : Prop :=
  r.rkey = rkey ∧ r.wing = q.wing ∧ r.va ≤ va ∧ va + n ≤ r.va + r.len ∧ (if write then r.writeOk else r.readOk) = true

/-- The region that an operation is given is one that admits it. -/
theorem State.admits_of_regionFor {s : State} {q : Qp} {rkey va n : Nat} {write : Bool} {r : Region}
    (h : s.regionFor q rkey va n write = some r) : r ∈ s.regions ∧ r.Admits q rkey va n write := by
  have hp := List.find?_some h
  simp only [Bool.and_eq_true, beq_iff_eq, decide_eq_true_eq] at hp
  obtain ⟨⟨⟨⟨hkey, hwing⟩, hlo⟩, hhi⟩, hmode⟩ := hp
  exact ⟨List.mem_of_find?_eq_some h, hkey, hwing, hlo, hhi, hmode⟩

theorem State.regionFor_eq_none {s : State} {q : Qp} {rkey va n : Nat} {write : Bool} (h : ∀ r ∈ s.regions, ¬ r.Admits q rkey va n write) :
    s.regionFor q rkey va n write = none := by
  cases hr : s.regionFor q rkey va n write with
  | none => rfl
  | some r =>
    obtain ⟨hmem, hadmits⟩ := State.admits_of_regionFor hr
    exact absurd hadmits (h r hmem)

section
variable {s : State} {qp rkey va : Nat} {q : Qp} (hq : s.qp? qp = some q) (hc : s.carries q.body.port (.roce qp) = true)
  (hs : 2 ≤ s.docent.stage)
include hq hc hs

theorem State.roceWrite_of_unadmitted {data : List Byte} {imm : Option Word} (h : ∀ r ∈ s.regions, ¬ r.Admits q rkey va data.length true) :
    s.roceWrite qp rkey va data imm = s.nak qp := by
  rw [State.roceWrite, State.roce_of_ready hq hc hs, State.regionFor_eq_none h]

theorem State.roceWrite_of_region {data : List Byte} {imm : Option Word} {r : Region} (h : s.regionFor q rkey va data.length true = some r) :
    s.roceWrite qp rkey va data imm = s.modQp qp fun x => { x with writes := x.writes ++ [⟨r, va, data.length, data, imm⟩] } := by
  rw [State.roceWrite, State.roce_of_ready hq hc hs, h]

theorem State.roceRead_of_unadmitted {len : Nat} (h : ∀ r ∈ s.regions, ¬ r.Admits q rkey va len false) : s.roceRead qp rkey va len = s.nak qp := by
  rw [State.roceRead, State.roce_of_ready hq hc hs, State.regionFor_eq_none h]

theorem State.roceRead_of_pages {len : Nat} {r : Region} {ps : Pages} (h : s.regionFor q rkey va len false = some r)
    (hps : s.engPages (roceWho r.asid r.wing) .read va len = .ok ps) : s.roceRead qp rkey va len = s.roceDone q len (s.readPages ps) := by
  rw [State.roceRead, State.roce_of_ready hq hc hs, h]; simp only [hps]

theorem State.roceRead_of_fault {len : Nat} {r : Region} {c : Cause} (h : s.regionFor q rkey va len false = some r)
    (hps : s.engPages (roceWho r.asid r.wing) .read va len = .error c) : s.roceRead qp rkey va len = s.roceFault q c := by
  rw [State.roceRead, State.roce_of_ready hq hc hs, h]; simp only [hps]

end

/-- An acknowledged operation's queue pair expects the packets after it (R406). -/
theorem State.qp?_roceDone {s : State} {q : Qp} (h : s.qp? q.qpn = some q) (len : Nat) (data : List Byte) :
    (s.roceDone q len data).qp? q.qpn = some { q with rxPsn := (q.rxPsn + max 1 ((len + 4095) / 4096)) % 2 ^ 24 } :=
  State.qp?_modQp (fun _ => rfl) h

/-! ### Placing (R121, R407) -/

section
variable {s t : State} {q : Qp} {m : Placing} {rest : List Placing} (hq : s.qp? q.qpn = some q) (hw : q.writes = m :: rest)
include hq hw

theorem State.placeNext_of_fault {c : Cause}
    (h : s.place (roceWho m.region.asid m.region.wing) m.va (m.data.take (min m.data.length (8 - m.va % 8))) = (t, some c)) :
    s.placeNext q.qpn = (t.modQp q.qpn fun x => { x with writes := rest }).roceFault q c := by
  simp only [State.placeNext, hq, hw, h]

theorem State.placeNext_of_more (hmore : min m.data.length (8 - m.va % 8) < m.data.length)
    (h : s.place (roceWho m.region.asid m.region.wing) m.va (m.data.take (min m.data.length (8 - m.va % 8))) = (t, none)) :
    s.placeNext q.qpn = t.modQp q.qpn fun x =>
      { x with writes := { m with va := m.va + min m.data.length (8 - m.va % 8), data := m.data.drop (min m.data.length (8 - m.va % 8)) } :: rest } := by
  have hleft : (m.data.drop (min m.data.length (8 - m.va % 8))).isEmpty = false := by
    simp only [List.isEmpty_eq_false_iff, ne_eq, List.drop_eq_nil_iff]; omega
  simp only [State.placeNext, hq, hw, h, hleft, Bool.false_eq_true, if_false]

theorem State.placeNext_of_last (hlast : min m.data.length (8 - m.va % 8) = m.data.length)
    (h : s.place (roceWho m.region.asid m.region.wing) m.va (m.data.take (min m.data.length (8 - m.va % 8))) = (t, none)) :
    s.placeNext q.qpn = (t.modQp q.qpn fun x => { x with writes := rest }).placed q m := by
  have hleft : (m.data.drop (min m.data.length (8 - m.va % 8))).isEmpty = true := by simp [hlast]
  simp only [State.placeNext, hq, hw, h, hleft, if_true]

end

/-- A WRITE whose bytes are all placed is acknowledged where it adds to no counter. -/
theorem State.placed_of_no_add {s : State} {q : Qp} {m : Placing} (h : m.imm = none ∨ m.region.cntVa = none) :
    s.placed q m = s.roceDone q m.len [] := by
  rcases h with h | h
  · simp [State.placed, h]
  · cases hi : m.imm <;> simp [State.placed, h, hi]

section
variable {s : State} {q : Qp} {m : Placing} {i : Word} {cv : Nat} (hi : m.imm = some i) (hcv : m.region.cntVa = some cv)
include hi hcv

theorem State.placed_of_add {u : State} (h : s.unitAdd m.region.asid m.region.wing cv (i.setWidth 64) = .ok (u, false)) :
    s.placed q m = u.roceDone q m.len [] := by
  simp [State.placed, hi, hcv, h]

theorem State.placed_of_add_fault {c : Cause} (h : s.unitAdd m.region.asid m.region.wing cv (i.setWidth 64) = .error c) :
    s.placed q m = s.roceFault q { c with va := some cv } := by
  simp [State.placed, hi, hcv, h]

end

/-! ### Completion in ring order (R408) -/

/-- The oldest descriptor leaves its queue pair and is counted. -/
def State.popSent (s : State) (qp : Nat) : State := s.modQp qp fun x => { x with completed := x.completed + 1, sent := x.sent.drop 1 }

/-- The state in which the completion counter goes up. -/
def State.statusPlaced (s : State) (q : Qp) (status : Nat) : State :=
  if status == 0 then s else (s.place q.who (q.slotVa q.completed + 1) [BitVec.ofNat 8 status]).1

theorem State.finish_of_add {s u : State} {q : Qp} {status : Nat} (hq : s.qp? q.qpn = some q)
    (h : ((s.popSent q.qpn).statusPlaced q status).unitAdd q.body.asid q.wing q.body.doneVa 1 = .ok (u, false)) : s.finish q.qpn status = u := by
  simp only [State.statusPlaced, State.popSent] at h
  simp only [State.finish, hq, h, Bool.false_eq_true, if_false]

/-- Writing the status and counting change no queue pair: a completion leaves them as its pop does. -/
theorem State.finish_qps {s : State} {q : Qp} (hq : s.qp? q.qpn = some q) (status : Nat) : (s.finish q.qpn status).qps = (s.popSent q.qpn).qps := by
  have hplaced : ((s.popSent q.qpn).statusPlaced q status).qps = (s.popSent q.qpn).qps := by
    unfold State.statusPlaced; split
    · rfl
    · exact State.place_qps ..
  cases h : ((s.popSent q.qpn).statusPlaced q status).unitAdd q.body.asid q.wing q.body.doneVa 1 with
  | error c =>
    simp only [State.statusPlaced, State.popSent] at h hplaced ⊢
    simp only [State.finish, hq, h, State.unitReport_qps, hplaced]
  | ok r =>
    have hu := (State.unitAdd_qps h).trans hplaced
    simp only [State.statusPlaced, State.popSent] at h hu ⊢
    simp only [State.finish, hq, h]
    split
    · rw [State.unitReport_qps, hu]
    · exact hu

/-- What is left of a queue pair after a completion. -/
theorem State.qp?_finish {s : State} {q : Qp} (hq : s.qp? q.qpn = some q) (status : Nat) :
    (s.finish q.qpn status).qp? q.qpn = some { q with completed := q.completed + 1, sent := q.sent.drop 1 } := by
  rw [State.qp?, State.finish_qps hq]
  exact State.qp?_modQp (fun _ => rfl) hq

theorem State.finishAll_of_unknown_status {s : State} {q : Qp} (hq : s.qp? q.qpn = some q) (h : ∀ d rest, q.sent = d :: rest → d.status = none) :
    s.finishAll q.qpn = s := by
  cases hsent : q.sent with
  | nil => simp [State.finishAll, State.finishKnown, hq, hsent]
  | cons d rest => simp [State.finishAll, State.finishKnown, hq, hsent, h d rest hsent]

theorem State.finishAll_of_status {s : State} {q : Qp} {d : SendDesc} {rest : List SendDesc} {status : Nat} (hq : s.qp? q.qpn = some q)
    (hsent : q.sent = d :: rest) (hd : d.status = some status) : s.finishAll q.qpn = (s.finish q.qpn status).finishAll q.qpn := by
  simp [State.finishAll, State.finishKnown, State.qp?_finish hq, hq, hsent, hd]

/-! ### Requester (R408) -/

theorem State.takeDescriptor_of_unknown {s : State} {qp : Nat} (h : s.qp? qp = none) : s.takeDescriptor qp = s := by
  simp [State.takeDescriptor, h]

theorem State.takeDescriptor_of_early {s : State} (h : s.docent.stage < 2) (qp : Nat) : s.takeDescriptor qp = s := by
  cases hq : s.qp? qp <;> simp [State.takeDescriptor, hq, h]

theorem State.takeDescriptor_of_no_bell {s : State} {q : Qp} (hq : s.qp? q.qpn = some q) (h : s.doorbell q ≤ q.taken) :
    s.takeDescriptor q.qpn = s := by
  simp [State.takeDescriptor, hq, h]

/-- The next descriptor counts as taken before it is read. -/
def State.popRing (s : State) (qp : Nat) : State := s.modQp qp fun x => { x with taken := x.taken + 1 }

section
variable {s : State} {q : Qp} (hs : 2 ≤ s.docent.stage) (hq : s.qp? q.qpn = some q) (hbell : q.taken < s.doorbell q)
include hs hq hbell

theorem State.takeDescriptor_of_fault {c : Cause} (h : (s.popRing q.qpn).engPages q.who .read (q.slotVa q.taken) 32 = .error c) :
    s.takeDescriptor q.qpn = (((s.popRing q.qpn).found c).enlist q.qpn ⟨0, 0, 0, some 0x02⟩).finishAll q.qpn := by
  have hgo : (s.docent.stage < 2 || s.doorbell q ≤ q.taken : Bool) = false := by simp; omega
  rw [State.popRing] at h ⊢
  simp only [State.takeDescriptor, hq, hgo, h, Bool.false_eq_true, if_false]

theorem State.takeDescriptor_of_pages {ps : Pages} (h : (s.popRing q.qpn).engPages q.who .read (q.slotVa q.taken) 32 = .ok ps) :
    s.takeDescriptor q.qpn = (s.popRing q.qpn).perform q ((s.popRing q.qpn).readPages ps) := by
  have hgo : (s.docent.stage < 2 || s.doorbell q ≤ q.taken : Bool) = false := by simp; omega
  rw [State.popRing] at h ⊢
  simp only [State.takeDescriptor, hq, hgo, h, Bool.false_eq_true, if_false]

end

/-- A descriptor leaves for the remote side, with the data that it carries (R408). -/
def State.sendOff (s : State) (q : Qp) (b data : List Byte) : State :=
  ((s.enlist q.qpn (SendDesc.parse b)).modQp q.qpn fun x =>
    { x with body := { x.body with txPsn := psnAfter x.body.txPsn (SendDesc.parse b).len } }).send
      (.roceSend q.qpn (SendDesc.parse b).op (bytesNat b 16 8) (bytesNat b 24 4) (bytesNat b 28 4) (SendDesc.parse b).len data)

section
variable {s : State} {q : Qp} {b : List Byte} {op lva len : Nat}

/-- What is sent of a descriptor that leaves, and what its queue pair keeps of it. -/
theorem State.sendOff_spec {x : Qp} (hq : s.qp? q.qpn = some x) (h : SendDesc.parse b = ⟨op, lva, len, none⟩) (data : List Byte) :
    ∃ y, (s.sendOff q b data).out = .roceSend q.qpn op (bytesNat b 16 8) (bytesNat b 24 4) (bytesNat b 28 4) len data :: s.out ∧
      (s.sendOff q b data).qp? q.qpn = some y ∧ y.sent = x.sent ++ [⟨op, lva, len, none⟩] ∧ y.taken = x.taken ∧ y.completed = x.completed ∧
      y.body.txPsn = (x.body.txPsn + max 1 ((len + 4095) / 4096)) % 2 ^ 24 := by
  have henlisted := State.qp?_modQp (f := fun z : Qp => { z with sent := z.sent ++ [⟨op, lva, len, none⟩] }) (fun _ => rfl) hq
  have hsent := State.qp?_modQp (f := fun z : Qp => { z with body := { z.body with txPsn := psnAfter z.body.txPsn len } }) (fun _ => rfl) henlisted
  rw [State.sendOff, h]
  exact ⟨_, rfl, hsent, rfl, rfl, rfl, rfl⟩

theorem State.perform_of_status {status : Nat} (h : SendDesc.parse b = ⟨op, lva, len, some status⟩) :
    s.perform q b = (s.enlist q.qpn ⟨op, lva, len, some status⟩).finishAll q.qpn := by
  simp [State.perform, h]

theorem State.perform_of_read (h : SendDesc.parse b = ⟨2, lva, len, none⟩) : s.perform q b = s.sendOff q b [] := by
  simp [State.perform, State.sendOff, h]

variable (h : SendDesc.parse b = ⟨op, lva, len, none⟩) (hop : op ≠ 2)
include h hop

theorem State.perform_of_fault {c : Cause} (hps : s.engPages q.who .read lva len = .error c) :
    s.perform q b = ((s.found c).enlist q.qpn ⟨op, lva, len, some 0x02⟩).finishAll q.qpn := by
  simp [State.perform, h, hop, hps]

theorem State.perform_of_pages {ps : Pages} (hps : s.engPages q.who .read lva len = .ok ps) : s.perform q b = s.sendOff q b (s.readPages ps) := by
  simp [State.perform, State.sendOff, h, hop, hps]

end

theorem SendDesc.parse_of_bad_op {b : List Byte} (h : 3 ≤ bytesNat b 0 1) :
    SendDesc.parse b = ⟨bytesNat b 0 1, bytesNat b 8 8, bytesNat b 4 4, some 0x01⟩ := by
  simp [SendDesc.parse, h]

theorem SendDesc.parse_of_bad_len {b : List Byte} (hop : bytesNat b 0 1 < 3) (h : bytesNat b 4 4 = 0 ∨ 2 ^ 31 < bytesNat b 4 4) :
    SendDesc.parse b = ⟨bytesNat b 0 1, bytesNat b 8 8, bytesNat b 4 4, some 0x02⟩ := by
  have hlen : (bytesNat b 4 4 == 0 || 2 ^ 31 < bytesNat b 4 4 : Bool) = true := by simpa using h
  have hop3 : ¬ 3 ≤ bytesNat b 0 1 := by omega
  simp only [SendDesc.parse, hop3, hlen, if_false, if_true]

theorem SendDesc.parse_of_ok {b : List Byte} (hop : bytesNat b 0 1 < 3) (hlo : 1 ≤ bytesNat b 4 4) (hhi : bytesNat b 4 4 ≤ 2 ^ 31) :
    SendDesc.parse b = ⟨bytesNat b 0 1, bytesNat b 8 8, bytesNat b 4 4, none⟩ := by
  have hlen : (bytesNat b 4 4 == 0 || 2 ^ 31 < bytesNat b 4 4 : Bool) = false := by simp; omega
  have hop3 : ¬ 3 ≤ bytesNat b 0 1 := by omega
  simp only [SendDesc.parse, hop3, hlen, if_false, Bool.false_eq_true]

theorem State.completeDescriptor_of_unknown {s : State} {qp : Nat} (h : s.qp? qp = none) (nak : Bool) (data : List Byte) :
    s.completeDescriptor qp nak data = s := by
  simp [State.completeDescriptor, h]

section
variable {s : State} {q : Qp} (hs : 2 ≤ s.docent.stage) (hq : s.qp? q.qpn = some q) (hc : s.carries q.body.port (.roce q.qpn) = true)
include hs hq hc

theorem State.completeDescriptor_of_none_sent (h : q.sent = []) (nak : Bool) (data : List Byte) : s.completeDescriptor q.qpn nak data = s := by
  simp [State.completeDescriptor, hq, State.roce_of_ready hq hc hs, h]

variable {d : SendDesc} {rest : List SendDesc} (h : q.sent = d :: rest)
include h

theorem State.completeDescriptor_of_nak (data : List Byte) : s.completeDescriptor q.qpn true data = (s.finish q.qpn 0x03).finishAll q.qpn := by
  simp [State.completeDescriptor, hq, State.roce_of_ready hq hc hs, h]

theorem State.completeDescriptor_of_ack (hop : d.op ≠ 2) (data : List Byte) :
    s.completeDescriptor q.qpn false data = (s.finish q.qpn 0).finishAll q.qpn := by
  simp [State.completeDescriptor, hq, State.roce_of_ready hq hc hs, h, hop]

theorem State.completeDescriptor_of_placed {data : List Byte} {t : State} (hop : d.op = 2)
    (hp : s.place q.who d.lva (data.take d.len) = (t, none)) : s.completeDescriptor q.qpn false data = (t.finish q.qpn 0).finishAll q.qpn := by
  simp [State.completeDescriptor, hq, State.roce_of_ready hq hc hs, h, hop, hp]

theorem State.completeDescriptor_of_fault {data : List Byte} {t : State} {c : Cause} (hop : d.op = 2)
    (hp : s.place q.who d.lva (data.take d.len) = (t, some c)) :
    s.completeDescriptor q.qpn false data = ((t.found c).finish q.qpn 0x02).finishAll q.qpn := by
  simp [State.completeDescriptor, hq, State.roce_of_ready hq hc hs, h, hop, hp]

end

end Sys2Proof.Machine
end

section
/-!
SUPPORT. The rate of a queue pair, the messages by which a wing makes and drops queue pairs and regions, raises a generation and pre-empts a
group, and what RESYNC and ATTEST show (R80, R391, R406, R407, R411, R418, R425).
-/
namespace Sys2Proof.Machine

/-! ### Rate (R406) -/

/-- A rate reduction lowers the rate of one queue pair, or keeps it, and changes no other. -/
theorem exec_dcqcnRateReduction (s : State) (qp : Nat) :
    ∃ t, exec (.dcqcnRateReduction qp) s = .next t ∧ t.qps.length = s.qps.length ∧
      ∀ (k : Nat) (q : Qp), s.qps[k]? = some q → ∃ r, r ≤ q.rate ∧ t.qps[k]? = some (if q.qpn = qp then { q with rate := r } else q) := by
  refine ⟨_, rfl, List.length_map .., fun k q hq => ⟨q.rate - Config.name s.free % (q.rate + 1), Nat.sub_le .., ?_⟩⟩
  simp [State.modQp, hq]

/-! ### Queue pairs (R406) -/

section
variable {s : State} {m : Ccp} {b : QpBody} (hg : s.grantsActive m 0x0A)
include hg

theorem State.qpCreate_of_bad_body (hb : qpBodyOk b = false) : s.qpCreate m b = (s.ccpAccept m).reply m codeBADMSG [] := by
  rw [State.qpCreate, State.ccpActive_of_grantsActive hg]; simp [hb]

variable (hb : qpBodyOk b = true)
include hb

theorem State.qpCreate_of_denied (hmine : ¬((s.wing m.wing).ports.getLsbD b.port = true ∧ ((s.ccpAccept m).desc b.asid).wg = m.wing)) :
    s.qpCreate m b = (s.ccpAccept m).reply m codeDENIED [] := by
  rw [State.qpCreate, State.ccpActive_of_grantsActive hg]
  have hdenied : (!((s.wing m.wing).ports.getLsbD b.port) || ((s.ccpAccept m).desc b.asid).wg != m.wing) = true := by
    by_cases hport : (s.wing m.wing).ports.getLsbD b.port = true
    · simpa [hport] using hmine
    · simp [hport]
  simp [-Bool.or_eq_true, hb, hdenied]

variable (hport : (s.wing m.wing).ports.getLsbD b.port = true) (hasid : ((s.ccpAccept m).desc b.asid).wg = m.wing)
include hport hasid

theorem State.qpCreate_of_down (hup : ¬ ∃ p, s.ports.find? (fun p => p.id == b.port) = some p ∧ p.up = true) :
    s.qpCreate m b = (s.ccpAccept m).reply m codeNOTREADY [] := by
  rw [State.qpCreate, State.ccpActive_of_grantsActive hg]
  have hdown : (s.ports.find? fun p => p.id == b.port).any (·.up) = false := by
    rw [Bool.eq_false_iff]; exact fun h => hup (by simpa [Option.any_eq_true] using h)
  simp [hb, hport, hasid, hdown]

variable (hup : ∃ p, s.ports.find? (fun p => p.id == b.port) = some p ∧ p.up = true)
include hup

theorem State.qpCreate_of_full (hfull : 256 ≤ (s.qps.filter fun q => q.wing == m.wing).length ∨ 2048 ≤ s.qps.length) :
    s.qpCreate m b = (s.ccpAccept m).reply m codeFULL [] := by
  rw [State.qpCreate, State.ccpActive_of_grantsActive hg]
  obtain ⟨p, hp, hpup⟩ := hup
  simp [hb, hport, hasid, hp, hpup, hfull]

/-- A queue pair is made under a number that none has. -/
theorem State.qpCreate_of_room (hroom : ¬(256 ≤ (s.qps.filter fun q => q.wing == m.wing).length ∨ 2048 ≤ s.qps.length)) :
    ∃ n, n < 2 ^ 24 ∧ (∀ q ∈ s.qps, q.qpn ≠ n) ∧ (s.qpCreate m b).out = .reply m.wing m.seq 0 [n] :: s.out ∧
      (s.qpCreate m b).qps = s.qps ++ [⟨n, m.wing, b, 0, 0, b.rxPsn, 256, [], []⟩] := by
  obtain ⟨p, hp, hpup⟩ := hup
  obtain ⟨n, hpick, -, hlt, hfree⟩ := (s.ccpAccept m).pickUnused_eq_some (used := s.qps.map (·.qpn)) (n := 2 ^ 24) 0
    (by rw [List.length_map]; omega)
  have hfew : (256 ≤ (s.qps.filter fun q => q.wing == m.wing).length || 2048 ≤ s.qps.length : Bool) = false := by simpa using hroom
  have hmade : s.qpCreate m b = ({ (s.ccpAccept m).freshFree.2 with
      qps := (s.ccpAccept m).freshFree.2.qps ++ [⟨n, m.wing, b, 0, 0, b.rxPsn, 256, [], []⟩] } : State).reply m codeOK [n] := by
    rw [State.qpCreate, State.ccpActive_of_grantsActive hg]
    simp only [hb, State.ccpAccept_wing_ports, hport, hasid, bne_self_eq_false, State.ccpAccept_ports, hp, Option.any_some, hpup,
      State.ccpAccept_qps, hfew, hpick, Bool.not_true, Bool.or_self, Bool.false_eq_true, if_false]
  refine ⟨n, by omega, fun q hq h => hfree (List.mem_map.mpr ⟨q, hq, h⟩), ?_, ?_⟩
  · rw [hmade]; simp [State.reply, State.send, codeOK]
  · rw [hmade]; simp [State.reply, State.send]

end

/-! ### Regions (R407) -/

/-- MRREG's body is in range, as its check computes it. -/
theorem mrBody_check_iff {b : MrBody} :
    (b.asid < 2 ^ 16 && b.va + b.len ≤ 2 ^ 56 && (b.cntVa.map fun v => v % 8 == 0).getD true : Bool) = true ↔
      b.asid < 2 ^ 16 ∧ b.va + b.len ≤ 2 ^ 56 ∧ ∀ v, b.cntVa = some v → v % 8 = 0 := by
  cases hv : b.cntVa <;> simp [and_assoc]

section
variable {s : State} {m : Ccp} {b : MrBody} (hg : s.grantsActive m 0x08)
include hg

theorem State.mrReg_of_bad_body (hb : ¬(b.asid < 2 ^ 16 ∧ b.va + b.len ≤ 2 ^ 56 ∧ ∀ v, b.cntVa = some v → v % 8 = 0)) :
    s.mrReg m b = (s.ccpAccept m).reply m codeBADMSG [] := by
  rw [State.mrReg, State.ccpActive_of_grantsActive hg]
  simp only [Bool.eq_false_iff.mpr (mt mrBody_check_iff.mp hb), Bool.not_false, if_true]

variable (hb : b.asid < 2 ^ 16 ∧ b.va + b.len ≤ 2 ^ 56 ∧ ∀ v, b.cntVa = some v → v % 8 = 0)
include hb

theorem State.mrReg_of_denied (hasid : ((s.ccpAccept m).desc b.asid).wg ≠ m.wing) :
    s.mrReg m b = (s.ccpAccept m).reply m codeDENIED [] := by
  rw [State.mrReg, State.ccpActive_of_grantsActive hg]
  simp only [mrBody_check_iff.mpr hb, Bool.not_true, Bool.false_eq_true, if_false, bne_iff_ne.mpr hasid, if_true]

/-- A region is registered under a key that none has. -/
theorem State.mrReg_of_room (hasid : ((s.ccpAccept m).desc b.asid).wg = m.wing) (hroom : s.regions.length < 2 ^ 32) :
    ∃ k, k < 2 ^ 32 ∧ (∀ r ∈ s.regions, r.rkey ≠ k) ∧ (s.mrReg m b).out = .reply m.wing m.seq 0 [k] :: s.out ∧
      (s.mrReg m b).regions = s.regions ++ [⟨k, m.wing, b.asid, b.va, b.len, b.readOk, b.writeOk, b.cntVa⟩] := by
  obtain ⟨k, hpick, -, hlt, hfree⟩ := (s.ccpAccept m).pickUnused_eq_some (used := s.regions.map (·.rkey)) (n := 2 ^ 32) 0
    (by rw [List.length_map]; exact hroom)
  have hmine : (((s.ccpAccept m).desc b.asid).wg != m.wing) = false := by simp [hasid]
  have hmade : s.mrReg m b = ({ (s.ccpAccept m).freshFree.2 with
      regions := (s.ccpAccept m).freshFree.2.regions ++ [⟨k, m.wing, b.asid, b.va, b.len, b.readOk, b.writeOk, b.cntVa⟩] } : State).reply m codeOK [k] := by
    rw [State.mrReg, State.ccpActive_of_grantsActive hg]
    simp only [mrBody_check_iff.mpr hb, hmine, hpick, Bool.not_true, Bool.false_eq_true, if_false, State.ccpAccept_regions]
  refine ⟨k, by omega, fun r hr h => hfree (List.mem_map.mpr ⟨r, hr, h⟩), ?_, ?_⟩
  · rw [hmade]; simp [State.reply, State.send, codeOK]
  · rw [hmade]; simp [State.reply, State.send]

end

/-! ### Messages that end what their sender made, and GENRAISE (R80, R406, R407) -/

section
variable {s : State} {m : Ccp} {n : Nat}

theorem exec_qpdestroy_of_unknown (hg : s.grantsActive m 0x0B) (h : s.qp? n = none) :
    exec (.qpdestroy m n) s = .next ((s.ccpAccept m).reply m codeBADMSG []) := by
  show execQpdestroy m n s = _
  simp only [execQpdestroy, State.ccpActive_of_grantsActive hg, State.ccpAccept_qp?, h]

theorem exec_qpdestroy_of_denied (hg : s.grantsActive m 0x0B) {q : Qp} (h : s.qp? n = some q) (hw : q.wing ≠ m.wing) :
    exec (.qpdestroy m n) s = .next ((s.ccpAccept m).reply m codeDENIED []) := by
  show execQpdestroy m n s = _
  simp only [execQpdestroy, State.ccpActive_of_grantsActive hg, State.ccpAccept_qp?, h, bne_iff_ne.mpr hw, if_true]

theorem exec_qpdestroy_of_own (hg : s.grantsActive m 0x0B) {q : Qp} (h : s.qp? n = some q) (hw : q.wing = m.wing) :
    exec (.qpdestroy m n) s =
      .next (({ s.ccpAccept m with qps := (s.ccpAccept m).qps.filter fun x => x.qpn != n } : State).reply m codeOK []) := by
  show execQpdestroy m n s = _
  simp only [execQpdestroy, State.ccpActive_of_grantsActive hg, State.ccpAccept_qp?, h, hw, bne_self_eq_false, Bool.false_eq_true, if_false]

theorem exec_mrdrop_of_unknown (hg : s.grantsActive m 0x09) (h : ∀ r ∈ s.regions, r.rkey ≠ n) :
    exec (.mrdrop m n) s = .next ((s.ccpAccept m).reply m codeBADMSG []) := by
  show execMrdrop m n s = _
  have hnone : s.regions.find? (fun r => r.rkey == n) = none := by simpa using h
  simp only [execMrdrop, State.ccpActive_of_grantsActive hg, State.ccpAccept_regions, hnone]

theorem exec_mrdrop_of_denied (hg : s.grantsActive m 0x09) {r : Region} (h : s.regions.find? (fun r => r.rkey == n) = some r)
    (hw : r.wing ≠ m.wing) : exec (.mrdrop m n) s = .next ((s.ccpAccept m).reply m codeDENIED []) := by
  show execMrdrop m n s = _
  simp only [execMrdrop, State.ccpActive_of_grantsActive hg, State.ccpAccept_regions, h, bne_iff_ne.mpr hw, if_true]

theorem exec_mrdrop_of_own (hg : s.grantsActive m 0x09) {r : Region} (h : s.regions.find? (fun r => r.rkey == n) = some r)
    (hw : r.wing = m.wing) :
    exec (.mrdrop m n) s =
      .next (({ s.ccpAccept m with regions := (s.ccpAccept m).regions.filter fun x => x.rkey != n } : State).reply m codeOK []) := by
  show execMrdrop m n s = _
  have hfound : (s.ccpAccept m).regions.find? (fun r => r.rkey == n) = some r := by rw [State.ccpAccept_regions]; exact h
  simp only [execMrdrop, State.ccpActive_of_grantsActive hg, hfound, hw, bne_self_eq_false, Bool.false_eq_true, if_false]

variable (hg : s.grantsActive m 0x06)
include hg

theorem exec_genraise_of_bad_asid (h : 2 ^ 16 ≤ n) : exec (.genraise m n) s = .next ((s.ccpAccept m).reply m codeBADMSG []) := by
  show execGenraise m n s = _
  simp only [execGenraise, State.ccpActive_of_grantsActive hg, h, if_true]

theorem exec_genraise_of_denied (h : n < 2 ^ 16) (hw : ((s.ccpAccept m).desc n).wg ≠ m.wing) :
    exec (.genraise m n) s = .next ((s.ccpAccept m).reply m codeDENIED []) := by
  show execGenraise m n s = _
  simp only [execGenraise, State.ccpActive_of_grantsActive hg, Nat.not_le.mpr h, bne_iff_ne.mpr hw, if_false, if_true]

variable (h : n < 2 ^ 16) (hw : ((s.ccpAccept m).desc n).wg = m.wing)
include h hw

theorem exec_genraise_of_down
    (hdown : ((s.ccpAccept m).memDown ((s.ccpAccept m).genPA n) || (s.ccpAccept m).bypass ((s.ccpAccept m).genPA n)) = true) :
    exec (.genraise m n) s = .next ((s.ccpAccept m).reply m codeNOTREADY []) := by
  show execGenraise m n s = _
  simp only [execGenraise, State.ccpActive_of_grantsActive hg, Nat.not_le.mpr h, hw, bne_self_eq_false, Bool.false_eq_true, hdown, if_false, if_true]

theorem exec_genraise_of_up
    (hup : ((s.ccpAccept m).memDown ((s.ccpAccept m).genPA n) || (s.ccpAccept m).bypass ((s.ccpAccept m).genPA n)) = false) :
    exec (.genraise m n) s = .next ((s.ccpAccept m).startRaise 0 n none (some (m.wing, m.seq))) := by
  show execGenraise m n s = _
  simp only [execGenraise, State.ccpActive_of_grantsActive hg, Nat.not_le.mpr h, hw, bne_self_eq_false, Bool.false_eq_true, hup, if_false]

end

/-! ### Pre-emption (R391) -/

/-- A group after a request to pre-empt it. -/
theorem State.group?_requestPreempt {s : State} {c : CoreId} {n : Nat} {g : Group} (h : s.group? c n = some g) (cause : Nat) :
    (s.requestPreempt c n cause).group? c n = some (if g.phase = .running ∧ g.preempt = none then { g with preempt := some cause } else g) := by
  have hkeep : ∀ x : Group, (if x.phase == .running && x.preempt.isNone then { x with preempt := some cause } else x).core = x.core ∧
      (if x.phase == .running && x.preempt.isNone then { x with preempt := some cause } else x).slot = x.slot := fun x => by
    split <;> exact ⟨rfl, rfl⟩
  rw [State.requestPreempt, State.group?_modGroup hkeep h]
  simp

section
variable {s : State} {m : Ccp} {d c n : Nat} (hg : s.grantsActive m 0x07)
include hg

theorem exec_preempt_of_bad_place (h : ¬(d < 9 ∧ c < 16 ∧ n < 4096)) :
    exec (.preempt m d c n) s = .next ((s.ccpAccept m).reply m codeBADMSG []) := by
  show execPreempt m d c n s = _
  have hbad : (9 ≤ d || 16 ≤ c || 4096 ≤ n : Bool) = true := by simp; omega
  simp only [execPreempt, State.ccpActive_of_grantsActive hg, hbad, if_true]

variable (h : d < 9 ∧ c < 16 ∧ n < 4096)
include h

theorem exec_preempt_of_denied (hmine : ¬(s.dieWing d = m.wing ∧ ∀ g, s.group? ⟨d, c⟩ n = some g → g.wing = m.wing)) :
    exec (.preempt m d c n) s = .next ((s.ccpAccept m).reply m codeDENIED []) := by
  show execPreempt m d c n s = _
  have hbad : (9 ≤ d || 16 ≤ c || 4096 ≤ n : Bool) = false := by simp; omega
  have hdenied : (s.dieWing d != m.wing || ((s.group? ⟨d, c⟩ n).map fun g => g.wing != m.wing).getD false) = true := by
    by_cases hdie : s.dieWing d = m.wing
    · cases hgroup : s.group? ⟨d, c⟩ n <;> simp_all
    · simp [hdie]
  simp only [execPreempt, State.ccpActive_of_grantsActive hg, State.ccpAccept_dieWing, State.ccpAccept_group?, hbad, hdenied, Bool.false_eq_true,
    if_false, if_true]

theorem exec_preempt_of_own (hmine : s.dieWing d = m.wing ∧ ∀ g, s.group? ⟨d, c⟩ n = some g → g.wing = m.wing) :
    exec (.preempt m d c n) s = .next (((s.ccpAccept m).requestPreempt ⟨d, c⟩ n 2).reply m codeOK []) := by
  show execPreempt m d c n s = _
  have hbad : (9 ≤ d || 16 ≤ c || 4096 ≤ n : Bool) = false := by simp; omega
  have hallowed : (s.dieWing d != m.wing || ((s.group? ⟨d, c⟩ n).map fun g => g.wing != m.wing).getD false) = false := by
    obtain ⟨hdie, hgroups⟩ := hmine
    cases hgroup : s.group? ⟨d, c⟩ n <;> simp_all
  simp only [execPreempt, State.ccpActive_of_grantsActive hg, State.ccpAccept_dieWing, State.ccpAccept_group?, hbad, hallowed, Bool.false_eq_true,
    if_false]

end

/-! ### RESYNC (R418) -/

@[simp] theorem length_natBytes (n v : Nat) : (natBytes n v).length = n := by simp [natBytes]

theorem getD_natBytes {n k : Nat} (h : k < n) (v : Nat) : (natBytes n v).getD k 0 = v / 256 ^ k % 256 := by
  simp [natBytes, h]

/-- A summary has 544 bytes in a module of 16 ports. -/
theorem State.length_summary {s : State} (h : s.ports.length = 16) (who : Nat) : (s.summary who).length = 544 := by
  simp [State.summary, List.length_flatMap, h]

/-- The wings' entries stand behind the first 8 bytes of a summary. -/
theorem State.summary_eq_entries_append (s : State) (who : Nat) :
    ∃ head tail : List Nat, head.length = 8 ∧
      s.summary who = head ++ ((List.range 15).flatMap (fun i => natBytes 8 (shown who (some i) (s.wing i).entry)) ++ tail) := by
  refine ⟨natBytes 1 s.docent.stage ++ natBytes 1 s.docent.socket ++ natBytes 1 (if s.docent.warmLast then 1 else 0) ++ natBytes 5 0, ?tail,
    by simp, ?split⟩
  case split =>
    simp only [State.summary, List.append_assoc]
    rfl

/-- A byte of a wing's entry in a summary: shown to the operator and the wing itself. -/
theorem State.getD_summary_entry (s : State) (who : Nat) {k n : Nat} (hk : k < 8) (hn : n < 15) :
    (s.summary who).getD (8 + 8 * n + k) 0 = if who = 15 ∨ who = n then (s.wing n).entry / 256 ^ k % 256 else 0 := by
  obtain ⟨head, tail, hhead, hsummary⟩ := s.summary_eq_entries_append who
  have hlen : ((List.range 15).flatMap fun i => natBytes 8 (shown who (some i) (s.wing i).entry)).length = 120 := by
    simp [List.length_flatMap]
  rw [hsummary, List.getD_append_right _ _ _ _ (by omega), List.getD_append _ _ _ _ (by omega), hhead,
    show 8 + 8 * n + k - 8 = 8 * n + k by omega, getD_flatMap_range (fun _ => length_natBytes ..) hk 0 hn, getD_natBytes hk]
  by_cases h15 : who = 15
  · simp [shown, h15]
  · by_cases hwho : who = n
    · simp [shown, hwho]
    · simp [shown, h15, hwho, Ne.symm hwho]

/-! ### ATTEST (R425) -/

theorem State.evidence_ccpAccept (s : State) (m : Ccp) (who nonce : Nat) :
    (s.ccpAccept m).evidence who nonce = [nonce, s.docent.fwDocent.hash, s.docent.fwCurator.hash, s.docent.fwBuffer.hash,
      ((s.ccpAccept m).wing who).entry, ((s.ccpAccept m).wing who).slotByte, s.docent.stage] := by
  simp [State.evidence]

/-- The reply to ATTEST: the evidence, and two signatures of it. -/
theorem exec_attest_of_grants {s : State} {m : Ccp} (hg : s.grants m 0x1B) (nonce : Nat) :
    ∃ sig1 sig2, exec (.attest m nonce) s =
      .next ((s.ccpAccept m).reply m codeOK ((s.ccpAccept m).evidence m.wing nonce ++ [sig1, sig2])) := by
  refine ⟨Config.sign (0 :: (s.ccpAccept m).evidence m.wing nonce), Config.sign (1 :: (s.ccpAccept m).evidence m.wing nonce), ?_⟩
  show execAttest m nonce s = _
  rw [execAttest, State.ccp_of_grants hg]

end Sys2Proof.Machine
end

section
/-!
The statement on ports, RoCEv2 and the wings' messages (O59), clause by clause.
-/
namespace Sys2Proof.Machine

/-- Two outcomes are one where their next states are. -/
theorem next_congr {s t : State} (h : s = t) : (.next s : Result) = .next t := congrArg _ h

/-- Settles O59: each clause is a case of the operation that it names. What they turn on: writes at home change no queue pair,
so that a completion leaves one as its pop does, and of more numbers than are in use one is free for a new queue pair or region. -/
theorem portSteps : Obligations.PortSteps := by
  unfold Obligations.PortSteps
  refine ⟨?frames, fun s i who => State.ccpNext_spec, ?responder, ?placing, ?ack, ?finish, ?unknown, ?take, ?complete,
    exec_dcqcnRateReduction, ?qpcreate, ?drops, ?mrreg, ?preempt, ?resync⟩
  case frames =>
    intro s port k owned own ofPort carried
    have hiff : s.carries port k = true ↔ carried := by
      cases k with
      | ccp m => simpa [carried, own, and_assoc] using State.carries_ccp_iff
      | roce qp =>
        have hof : s.carries port (.roce qp) = true ↔ ofPort qp := State.carries_roce_iff
        simpa [carried] using hof
      | other => simp [carried, State.carries]
    refine ⟨fun qp ⟨w, hw, _⟩ => ⟨w, State.mem_of_portWing hw⟩, hiff, fun hk => ⟨fun hc => ?_, fun hc => ?_⟩⟩
    · rw [exec_portFrameReceive hk, State.frame_of_carries (hiff.mpr hc)]
    · rw [exec_portFrameReceive hk, State.frame_of_not_carries (mt hiff.mp hc)]
  case responder =>
    intro s qp rkey va data imm len
    refine ⟨fun h => ?_, fun q h hc => ?_, fun q h hc hs => ?_, fun q hs h hc => ?_⟩
    · exact ⟨next_congr (State.roce_of_unknown h), next_congr (State.roce_of_unknown h), next_congr (State.roce_of_unknown h)⟩
    · exact ⟨next_congr (State.roce_of_foreign h hc), next_congr (State.roce_of_foreign h hc), next_congr (State.roce_of_foreign h hc)⟩
    · exact ⟨next_congr (State.roce_of_early h hc hs), next_congr (State.roce_of_early h hc hs), next_congr (State.roce_of_early h hc hs)⟩
    · refine ⟨fun hr => ?_, fun hr => ?_, fun r hr => ?_, fun r hr => ?_⟩
      · exact ⟨next_congr (State.roceWrite_of_unadmitted h hc hs hr), next_congr (State.roceWrite_of_unadmitted h hc hs hr)⟩
      · exact next_congr (State.roceRead_of_unadmitted h hc hs hr)
      · obtain ⟨hmem, hadmits⟩ := State.admits_of_regionFor hr
        exact ⟨hmem, hadmits, next_congr (State.roceWrite_of_region h hc hs hr), next_congr (State.roceWrite_of_region h hc hs hr)⟩
      · obtain ⟨hmem, hadmits⟩ := State.admits_of_regionFor hr
        exact ⟨hmem, hadmits, fun ps hps => next_congr (State.roceRead_of_pages h hc hs hr hps),
          fun c hps => next_congr (State.roceRead_of_fault h hc hs hr hps)⟩
  case placing =>
    intro s q m rest hq hw
    refine ⟨fun t c h => State.placeNext_of_fault hq hw h, fun t h hmore => State.placeNext_of_more hq hw hmore h, fun t h hlast => ?_⟩
    rw [State.placeNext_of_last hq hw hlast h]
    exact ⟨State.placed_of_no_add, fun i cv hi hcv => ⟨fun u => State.placed_of_add hi hcv, fun c => State.placed_of_add_fault hi hcv⟩⟩
  case ack => exact fun s q len data h => ⟨rfl, State.qp?_roceDone h len data⟩
  case finish =>
    intro s q hq
    refine ⟨State.qp?_finish hq, fun u => State.finish_of_add (status := 0) hq, fun status u hst h => State.finish_of_add hq ?_,
      State.finishAll_of_unknown_status hq, fun d rest status => State.finishAll_of_status hq⟩
    rw [State.statusPlaced, if_neg (by simpa using hst)]
    exact h
  case unknown =>
    refine fun s qp => ⟨fun h => next_congr ?_, fun h nak data => next_congr (State.completeDescriptor_of_unknown h nak data)⟩
    exact h.elim (State.takeDescriptor_of_early · qp) State.takeDescriptor_of_unknown
  case take =>
    intro s q hs hq
    refine ⟨fun h => next_congr (State.takeDescriptor_of_no_bell hq h), fun hbell => ?_⟩
    refine ⟨fun c h => next_congr (State.takeDescriptor_of_fault hs hq hbell h), fun ps h => ?_⟩
    have htake : exec (.sendDescriptorTake q.qpn) s = .next ((s.popRing q.qpn).perform q ((s.popRing q.qpn).readPages ps)) :=
      next_congr (State.takeDescriptor_of_pages hs hq hbell h)
    have hpop : (s.popRing q.qpn).qp? q.qpn = some { q with taken := q.taken + 1 } := State.qp?_modQp (fun _ => rfl) hq
    intro d op len lva sends
    have hparse : op < 3 → 1 ≤ len → len ≤ 2 ^ 31 → SendDesc.parse d = ⟨op, lva, len, none⟩ := SendDesc.parse_of_ok
    have hsends : ∀ data, SendDesc.parse d = ⟨op, lva, len, none⟩ → (s.popRing q.qpn).perform q d = (s.popRing q.qpn).sendOff q d data → sends data := by
      intro data hd hperform
      obtain ⟨y, hleft⟩ := State.sendOff_spec hpop hd data
      exact ⟨_, y, htake.trans (next_congr hperform), hleft⟩
    refine ⟨fun hop => ?_, fun hop hlen => ?_, fun hlo hhi => ⟨fun hop => ?_, fun hop c hc => ?_, fun hop ls hls => ?_⟩⟩
    · exact htake.trans (next_congr (State.perform_of_status (SendDesc.parse_of_bad_op hop)))
    · exact htake.trans (next_congr (State.perform_of_status (SendDesc.parse_of_bad_len hop hlen)))
    · have hd := hparse (by omega) hlo hhi
      exact hsends [] hd (State.perform_of_read (hop ▸ hd))
    · have hd := hparse (by omega) hlo hhi
      exact htake.trans (next_congr (State.perform_of_fault hd (by omega) hc))
    · have hd := hparse (by omega) hlo hhi
      exact hsends _ hd (State.perform_of_pages hd (by omega) hls)
  case complete =>
    intro s q data hs hq hc
    refine ⟨fun h nak => next_congr (State.completeDescriptor_of_none_sent hs hq hc h nak data), fun d rest h => ⟨?_, fun hop => ?_, fun hop t hp => ?_,
      fun hop t c hp => ?_⟩⟩
    · exact next_congr (State.completeDescriptor_of_nak hs hq hc h data)
    · exact next_congr (State.completeDescriptor_of_ack hs hq hc h hop data)
    · exact next_congr (State.completeDescriptor_of_placed hs hq hc h hop hp)
    · exact next_congr (State.completeDescriptor_of_fault hs hq hc h hop hp)
  case qpcreate =>
    intro s m b hg
    refine ⟨fun hb => next_congr (State.qpCreate_of_bad_body hg hb), fun hb hmine => next_congr (State.qpCreate_of_denied hg hb hmine),
      fun hb ⟨hport, hasid⟩ hup => next_congr (State.qpCreate_of_down hg hb hport hasid hup),
      fun hb ⟨hport, hasid⟩ hup hfull => next_congr (State.qpCreate_of_full hg hb hport hasid hup hfull), fun hb ⟨hport, hasid⟩ hup hroom => ?_⟩
    obtain ⟨n, hmade⟩ := State.qpCreate_of_room hg hb hport hasid hup hroom
    exact ⟨s.qpCreate m b, n, rfl, hmade⟩
  case drops =>
    intro s m n
    exact ⟨fun hg => ⟨exec_qpdestroy_of_unknown hg, fun q => exec_qpdestroy_of_denied hg, fun q => exec_qpdestroy_of_own hg⟩,
      fun hg => ⟨exec_mrdrop_of_unknown hg, fun r => exec_mrdrop_of_denied hg, fun r => exec_mrdrop_of_own hg⟩,
      fun hg => ⟨exec_genraise_of_bad_asid hg, exec_genraise_of_denied hg, exec_genraise_of_down hg, exec_genraise_of_up hg⟩⟩
  case mrreg =>
    intro s m b hg hroom
    refine ⟨fun hb => next_congr (State.mrReg_of_bad_body hg hb), fun hb hw => next_congr (State.mrReg_of_denied hg hb hw), fun hb hw => ?_⟩
    obtain ⟨k, hmade⟩ := State.mrReg_of_room hg hb hw hroom
    exact ⟨s.mrReg m b, k, rfl, hmade⟩
  case preempt =>
    intro s m d c n hg
    refine ⟨exec_preempt_of_bad_place hg, exec_preempt_of_denied hg, fun h hmine => ⟨_, exec_preempt_of_own hg h hmine, ?_, fun g hgroup => ?_⟩⟩
    · simp [State.reply, State.send, State.requestPreempt, codeOK]
    · exact State.group?_requestPreempt (s := s.ccpAccept m) (by rw [State.ccpAccept_group?]; exact hgroup) 2
  case resync =>
    intro s m nonce
    refine ⟨fun hg => next_congr (State.ccp_of_grants hg _), fun hports => State.length_summary (by rw [State.ccpAccept_ports]; exact hports) m.wing,
      fun k hk n hn => State.getD_summary_entry _ _ hk hn, fun hg => ?_⟩
    have hattest := exec_attest_of_grants hg nonce
    rwa [State.evidence_ccpAccept] at hattest

end Sys2Proof.Machine
end

section
/-!
SETTLED. Sparse memory: a byte reads as it was last written (O10).
-/
namespace Sys2Proof.Machine

variable {d : Nat → Byte}

/-- A run of bytes reads back as it was written. -/
theorem memGets_memPuts {m : Mem} (h : m.wf d = true) (k : Nat) (bs : List Byte) : memGets d (memPuts d m k bs) k bs.length = bs := by
  refine List.ext_getElem (by simp [memGets]) fun i hi hbs => ?_
  have hread := memGet_memPuts (bs := bs) (k := k) h (k + i)
  rw [if_pos ⟨Nat.le_add_right k i, Nat.add_lt_add_left hbs k⟩, Nat.add_sub_cancel_left, List.getD_eq_getElem _ _ hbs] at hread
  simpa [memGets] using hread

/-- A byte outside a run reads as before the run was written. -/
theorem memGet_memPuts_of_outside {m : Mem} (h : m.wf d = true) {k a : Nat} {bs : List Byte} (ha : a < k ∨ k + bs.length ≤ a) :
    memGet d (memPuts d m k bs) a = memGet d m a := by
  rw [memGet_memPuts h, if_neg (by omega)]

/-- Settles O10: a byte and a run of bytes read as they were written, other bytes as before, and the form is kept. -/
theorem memoryReadAfterWrite : Obligations.MemoryReadAfterWrite := by
  intro d m h
  refine ⟨fun k b => ⟨wf_memPut h, ?_, fun a ha => ?_⟩, fun k bs => ⟨wf_memPuts h, memGets_memPuts h k bs, fun a => memGet_memPuts_of_outside h⟩⟩
  · rw [memGet_memPut h, if_pos rfl]
  · rw [memGet_memPut h, if_neg ha]

end Sys2Proof.Machine
end

section
/-!
SUPPORT (O8). All bytes that the module holds, DRAM and scratchpads, as one value, and what leaves it as it is.
-/
namespace Sys2Proof.Machine

/-- All bytes that the module holds: DRAM, and the scratchpad of each core. -/
def State.stored (s : State) : Mem × List Mem := (s.mem, s.cores.map Core.spm)

@[simp] theorem State.mk_stored (clk agenda cur free tableErrs names mem l2 monitors packets hbms buffers dies cores groups warps cats ends wings
    regions qps ports raises docent out) :
    (State.mk clk agenda cur free tableErrs names mem l2 monitors packets hbms buffers dies cores groups warps cats ends wings
      regions qps ports raises docent out).stored = (mem, cores.map Core.spm) := rfl

@[simp] theorem State.ite_stored (p : Prop) [Decidable p] (s t : State) : (if p then s else t).stored = if p then s.stored else t.stored :=
  apply_ite State.stored p s t

theorem State.stored_of_ite {p : Prop} [Decidable p] {t u : State} {m : Mem × List Mem} (ht : t.stored = m) (hu : u.stored = m) :
    (if p then t else u).stored = m := by
  split
  · exact ht
  · exact hu

@[simp] theorem State.mem_spm_eq_stored (s : State) : (s.mem, s.cores.map Core.spm) = s.stored := rfl

@[simp] theorem State.map_spm_modCore (s : State) (c : CoreId) (f : Core → Core) (h : ∀ k, (f k).spm = k.spm) :
    (s.modCore c f).cores.map Core.spm = s.cores.map Core.spm := by
  simp only [State.modCore, List.map_map]
  refine List.map_congr_left fun k _ => ?_
  simp only [Function.comp_apply]
  split
  · exact h k
  · rfl

@[simp] theorem State.modCore_stored (s : State) (c : CoreId) (f : Core → Core) (h : ∀ k, (f k).spm = k.spm) : (s.modCore c f).stored = s.stored := by
  rw [State.stored, State.map_spm_modCore s c f h]; rfl

@[simp] theorem State.foldl_stored {α : Type} {f : State → α → State} (hf : ∀ t x, (f t x).stored = t.stored) (l : List α) (s : State) :
    (l.foldl f s).stored = s.stored := by
  induction l generalizing s with
  | nil => rfl
  | cons x l ih => simp [ih, hf]

@[simp] theorem Core.pend_spm (clk : Nat) (k : Core) (t : PendTrap) : (k.pend clk t).spm = k.spm := by simp only [Core.pend]
@[simp] theorem Core.modQueue_spm (k : Core) (n : Nat) (f : List QItem → List QItem) : (k.modQueue n f).spm = k.spm := by
  unfold Core.modQueue; (repeat' split) <;> rfl

@[simp] theorem Core.formWindow_spm (k : Core) (o : Outst) (n clk : Nat) : (k.formWindow o n clk).spm = k.spm := by simp only [Core.formWindow]
@[simp] theorem Core.receiveGen_spm (k : Core) (r : Raise) : (k.receiveGen r).spm = k.spm := by
  simp [Core.receiveGen]

@[simp] theorem Core.foldl_spm {α : Type} {f : Core → α → Core} (hf : ∀ k x, (f k x).spm = k.spm) (l : List α) (k : Core) :
    (l.foldl f k).spm = k.spm := by
  induction l generalizing k with
  | nil => rfl
  | cons x l ih => simp [ih, hf]

@[simp] theorem State.modCore_taint_stored (s : State) (c : CoreId) (p : Req → Bool) : (s.modCore c fun k => k.taint p).stored = s.stored :=
  s.modCore_stored c _ fun _ => rfl

/-! ### Ops.lean -/

@[simp] theorem State.modWarp_stored (s : State) (id : WarpId) (f : Warp → Warp) : (s.modWarp id f).stored = s.stored := by simp [State.modWarp]
@[simp] theorem State.setWarp_stored (s : State) (w : Warp) : (s.setWarp w).stored = s.stored := by simp [State.setWarp]
@[simp] theorem State.modGroup_stored (s : State) (c : CoreId) (slot : Nat) (f : Group → Group) : (s.modGroup c slot f).stored = s.stored := by
  simp [State.modGroup]

@[simp] theorem State.modDie_stored (s : State) (d : Nat) (f : Die → Die) : (s.modDie d f).stored = s.stored := by simp [State.modDie]
@[simp] theorem State.modWing_stored (s : State) (n : Nat) (f : Wing → Wing) : (s.modWing n f).stored = s.stored := by simp [State.modWing]
@[simp] theorem State.modStack_stored (s : State) (d : Nat) (f : Stack → Stack) : (s.modStack d f).stored = s.stored := by simp [State.modStack]
@[simp] theorem State.modBuffer_stored (s : State) (n : Nat) (f : Buffer → Buffer) : (s.modBuffer n f).stored = s.stored := by simp [State.modBuffer]
@[simp] theorem State.modCat_stored (s : State) (wing handle : Nat) (f : Catalogue → Catalogue) : (s.modCat wing handle f).stored = s.stored := by
  simp [State.modCat]

@[simp] theorem State.modQp_stored (s : State) (n : Nat) (f : Qp → Qp) : (s.modQp n f).stored = s.stored := by simp [State.modQp]
@[simp] theorem State.fresh_stored (s : State) : (s.fresh).2.stored = s.stored := by simp [State.fresh]
@[simp] theorem State.freshFree_stored (s : State) : (s.freshFree).2.stored = s.stored := by simp [State.freshFree]
@[simp] theorem State.pickUnused_stored (s : State) (used : List Nat) (lo n : Nat) : (s.pickUnused used lo n).2.stored = s.stored := by
  simp [State.pickUnused]

@[simp] theorem State.trap_stored (s : State) (w : Warp) (c : Cause) : (s.trap w c).stored = s.stored := by simp [State.trap]
@[simp] theorem State.deferTrap_stored (s : State) (c : CoreId) (slot : Nat) (i : Issuer) (cause : Cause) (late : Bool) :
    (s.deferTrap c slot i cause late).stored = s.stored := by
  simp [State.deferTrap]

@[simp] theorem State.report_stored (s : State) (wing : Nat) (body : List Nat) : (s.report wing body).stored = s.stored := by simp [State.report]
@[simp] theorem State.retire_stored (s : State) (w : Warp) (len cost : Nat) : (s.retire w len cost).stored = s.stored := by simp [State.retire]
@[simp] theorem State.retireAt_stored (s : State) (id : WarpId) (len cost : Nat) : (s.retireAt id len cost).stored = s.stored := by
  simp [State.retireAt]

@[simp] theorem State.block_stored (s : State) (w : Warp) (wt : Wait) (phase : Nat) : (s.block w wt phase).stored = s.stored := by simp [State.block]
@[simp] theorem State.blockAt_stored (s : State) (id : WarpId) (wt : Wait) (phase : Nat) : (s.blockAt id wt phase).stored = s.stored := by
  unfold State.blockAt; split <;> simp

/-! ### Memory.lean -/

@[simp] theorem State.countCorrected_stored (s : State) (pa : Nat) : (s.countCorrected pa).stored = s.stored := by simp [State.countCorrected]
@[simp] theorem State.uncorrectable_stored (s : State) (wing pa : Nat) (syn : BitVec 16) : (s.uncorrectable wing pa syn).stored = s.stored := by
  simp [State.uncorrectable]

@[simp] theorem State.found_stored (s : State) (c : Cause) : (s.found c).stored = s.stored := by unfold State.found; split <;> simp
@[simp] theorem State.trapFound_stored (s : State) (w : Warp) (c : Cause) : (s.trapFound w c).stored = s.stored := by simp [State.trapFound]
@[simp] theorem State.enqueueMem_stored (s : State) (pa : Nat) (r : MemReq) : (s.enqueueMem pa r).stored = s.stored := by simp [State.enqueueMem]
@[simp] theorem State.l2WriteBack_stored (s : State) (l : L2Line) : (s.l2WriteBack l).stored = s.stored := by simp [State.l2WriteBack]
@[simp] theorem State.l2Set_stored (s : State) (l : L2Line) : (s.l2Set l).stored = s.stored := by dsimp only [State.l2Set]; (repeat' split) <;> simp
@[simp] theorem State.modPacket_stored (s : State) (pid : Nat) (f : Packet → Packet) : (s.modPacket pid f).stored = s.stored := by
  simp [State.modPacket]

@[simp] theorem State.dropPacket_stored (s : State) (pid : Nat) : (s.dropPacket pid).stored = s.stored := by simp [State.dropPacket]
@[simp] theorem State.modReq_stored (s : State) (c : CoreId) (rid : Nat) (f : Req → Req) : (s.modReq c rid f).stored = s.stored := by
  simp [State.modReq]

@[simp] theorem State.dropReq_stored (s : State) (c : CoreId) (rid : Nat) : (s.dropReq c rid).stored = s.stored := by simp [State.dropReq]
@[simp] theorem State.forsake_stored (s : State) (pid : Nat) : (s.forsake pid).stored = s.stored := by simp [State.forsake]
@[simp] theorem State.respond_stored (s : State) (pid : Nat) (f : Packet → Packet) : (s.respond pid f).stored = s.stored := by
  unfold State.respond; split <;> simp

@[simp] theorem State.pokeMonitors_stored (s : State) (line : Nat) : (s.pokeMonitors line).stored = s.stored := by simp [State.pokeMonitors]
@[simp] theorem State.l2Merge_stored (s : State) (line wg : Nat) (bs : LineBytes) : (s.l2Merge line wg bs).stored = s.stored := by
  simp [State.l2Merge]

@[simp] theorem State.l2Through_stored (s : State) (src slot wg line : Nat) (uncached : Bool) (bs : LineBytes) (ack : Option Nat) :
    (s.l2Through src slot wg line uncached bs ack).stored = s.stored := by
  unfold State.l2Through; split <;> simp

@[simp] theorem State.homeWrite_stored (s : State) (src slot wg cp line : Nat) (bs : LineBytes) :
    (s.homeWrite src slot wg cp line bs).stored = s.stored := by
  simp [State.homeWrite]

@[simp] theorem State.homePuts_stored (s : State) (src slot wg cp pa : Nat) (bs : List Byte) :
    (s.homePuts src slot wg cp pa bs).stored = s.stored := by
  simp [State.homePuts]

/-! ### Translate.lean -/

@[simp] theorem State.writePages_stored (s : State) (w : Who) (ps : Pages) (bs : List Byte) : (s.writePages w ps bs).stored = s.stored := by
  induction ps generalizing s bs with
  | nil => rfl
  | cons p ps ih => simp [State.writePages, ih]

@[simp] theorem State.walkFailed_stored (s : State) (w : WarpId) (f : WalkFail) : (s.walkFailed w f).stored = s.stored := by simp [State.walkFailed]
@[simp] theorem State.startWalk_stored (s : State) (c : CoreId) (w : WarpId) (asid va : Nat) : (s.startWalk c w asid va).stored = s.stored := by
  dsimp only [State.startWalk]; split <;> simp

@[simp] theorem State.startWalks_stored (s : State) (w : Warp) (g : Group) (vas : List Nat) : (s.startWalks w g vas).stored = s.stored := by
  simp [State.startWalks]

@[simp] theorem State.startFmtRead_stored (s : State) (w : Warp) (g : Group) (idx : Nat) : (s.startFmtRead w g idx).stored = s.stored := by
  simp [State.startFmtRead]

/-! ### L1.lean -/

@[simp] theorem State.leave_stored (s : State) (c : CoreId) (line : Nat) (bs : LineBytes) : (s.leave c line bs).stored = s.stored := by
  simp [State.leave]

@[simp] theorem State.l1Home_stored (s : State) (c : CoreId) (l : L1Line) (p : L1Byte → Bool) : (s.l1Home c l p).stored = s.stored := by
  simp [State.l1Home]

@[simp] theorem State.l1Flush_stored (s : State) (c : CoreId) (p : L1Byte → Bool) : (s.l1Flush c p).stored = s.stored := by simp [State.l1Flush]
@[simp] theorem State.l1Older_stored (s : State) (c : CoreId) : (s.l1Older c).stored = s.stored := by simp [State.l1Older]
@[simp] theorem State.l1Clean_stored (s : State) (c : CoreId) (set line : Nat) : (s.l1Clean c set line).stored = s.stored := by
  unfold State.l1Clean; split <;> simp

@[simp] theorem State.l1Drop_stored (s : State) (c : CoreId) (set line : Nat) : (s.l1Drop c set line).stored = s.stored := by simp [State.l1Drop]
@[simp] theorem State.l1Purge_stored (s : State) (c : CoreId) (line : Nat) : (s.l1Purge c line).stored = s.stored := by simp [State.l1Purge]
@[simp] theorem State.adopt_stored (s : State) (r : Req) (warp : WarpId) : (s.adopt r warp).stored = s.stored := by unfold State.adopt; split <;> simp
@[simp] theorem State.l1Room_stored (s : State) (c : CoreId) (set : Nat) : (s.l1Room c set).stored = s.stored := by
  dsimp only [State.l1Room]; (repeat' split) <;> simp

@[simp] theorem State.l1Alloc_stored (s : State) (r : Req) (warp : WarpId) (wg : Nat) : (s.l1Alloc r warp wg).stored = s.stored := by
  simp [State.l1Alloc]

@[simp] theorem State.l1Map_stored (s : State) (c : CoreId) (set line : Nat) (f : Nat → L1Byte → L1Byte) :
    (s.l1Map c set line f).stored = s.stored := by
  simp [State.l1Map]

@[simp] theorem State.l1Merge_stored (s : State) (c : CoreId) (set line : Nat) (bs : LineBytes) (dirty : Bool) :
    (s.l1Merge c set line bs dirty).stored = s.stored := by
  simp [State.l1Merge]

@[simp] theorem State.l1Install_stored (s : State) (r : Req) (warp : WarpId) (wg : Nat) (secs : List Nat) (data : List Byte) :
    (s.l1Install r warp wg secs data).stored = s.stored := by
  dsimp only [State.l1Install]; split <;> simp

@[simp] theorem State.homeSetWord_stored (s : State) (src slot wg cp pa w : Nat) (x : DWord) :
    (s.homeSetWord src slot wg cp pa w x).stored = s.stored := by
  simp [State.homeSetWord]

@[simp] theorem State.homeAdd_stored (s : State) (src slot wg cp pa : Nat) (amt : DWord) : (s.homeAdd src slot wg cp pa amt).1.stored = s.stored := by
  simp [State.homeAdd]

@[simp] theorem State.groupCheck_stored (s : State) (die slot : Nat) (cause : Cause) : (s.groupCheck die slot cause).stored = s.stored := by
  unfold State.groupCheck; split <;> simp

@[simp] theorem State.combSend_stored (s : State) (c : CoreId) (e : CombEntry) : (s.combSend c e).stored = s.stored := by simp [State.combSend]
@[simp] theorem State.combFlush_stored (s : State) (c : CoreId) (p : CombEntry → Bool) : (s.combFlush c p).stored = s.stored := by
  simp [State.combFlush]

@[simp] theorem State.combTouch_stored (s : State) (c : CoreId) (pa len : Nat) : (s.combTouch c pa len).stored = s.stored := by simp [State.combTouch]
@[simp] theorem State.combPut_stored (s : State) (c : CoreId) (e : CombEntry) : (s.combPut c e).stored = s.stored := by
  dsimp only [State.combPut]; (repeat' split) <;> simp

@[simp] theorem State.releaseActs_stored (s : State) (c : CoreId) (wide : Bool) : (s.releaseActs c wide).stored = s.stored := by
  simp [State.releaseActs]

@[simp] theorem State.acquireActs_stored (s : State) (c : CoreId) (wide : Bool) : (s.acquireActs c wide).stored = s.stored := by
  simp [State.acquireActs]

@[simp] theorem State.promoted_stored (s : State) (c : CoreId) : (s.promoted c).stored = s.stored := by simp [State.promoted]
@[simp] theorem State.privOut_stored (s : State) (w : WarpId) (keep : Bool) : (s.privOut w keep).stored = s.stored := by simp [State.privOut]

/-! ### Lsu.lean -/

@[simp] theorem State.launch_stored (s : State) (w : Warp) (g : Group) (o : ReqOpts) (shape : ReqShape) (whole : Bool) (cls : Cls) (dst :
    Sel) (form : LdForm) (accs : List Acc) :
    (s.launch w g o shape whole cls dst form accs).1.stored = s.stored := by
  simp [State.launch]

@[simp] theorem State.leaveLane_stored (s : State) (c : CoreId) (o : Outst) : (s.leaveLane c o).stored = s.stored := by simp [State.leaveLane]
@[simp] theorem State.grantQuad_stored (s : State) (c : CoreId) (q : Nat) : (s.grantQuad c q).stored = s.stored := by
  dsimp only [State.grantQuad]; split <;> simp

@[simp] theorem State.grantPorts_stored (s : State) (c : CoreId) : (s.grantPorts c).stored = s.stored := by simp [State.grantPorts]
@[simp] theorem State.waitWalk_stored (s : State) (w : Warp) (g : Group) (vas fmts : List Nat) (phase : Nat) :
    (s.waitWalk w g vas fmts phase).stored = s.stored := by
  simp [State.waitWalk]

@[simp] theorem State.finishReq_stored (s : State) (c : CoreId) (iid : Nat) : (s.finishReq c iid).stored = s.stored := by
  unfold State.finishReq; split <;> simp

@[simp] theorem State.endReq_stored (s : State) (r : Req) : (s.endReq r).stored = s.stored := by simp [State.endReq]
@[simp] theorem State.receive_stored (s : State) (r : Req) : (s.receive r).stored = s.stored := by unfold State.receive; split <;> simp
@[simp] theorem State.machineCheck_stored (s : State) (r : Req) (aux : DWord) : (s.machineCheck r aux).stored = s.stored := by
  unfold State.machineCheck; split <;> simp

@[simp] theorem State.sendReq_stored (s : State) (r : Req) : (s.sendReq r).stored = s.stored := by simp [State.sendReq]
@[simp] theorem State.sendRead_stored (s : State) (r : Req) : (s.sendRead r).stored = s.stored := by simp [State.sendRead]
@[simp] theorem State.combTouchAll_stored (s : State) (r : Req) : (s.combTouchAll r).stored = s.stored := by simp [State.combTouchAll]
@[simp] theorem State.joinFill_stored (s : State) (r o : Req) : (s.joinFill r o).stored = s.stored := by unfold State.joinFill; split <;> simp
@[simp] theorem State.takeHits_stored (s : State) (r : Req) (l : L1Line) : (s.takeHits r l).stored = s.stored := by simp [State.takeHits]
@[simp] theorem State.missLoad_stored (s : State) (r : Req) : (s.missLoad r).stored = s.stored := by unfold State.missLoad; (repeat' split) <;> simp
@[simp] theorem State.enterLoad_stored (s : State) (r : Req) : (s.enterLoad r).stored = s.stored := by dsimp only [State.enterLoad]; split <;> simp
@[simp] theorem State.sendWrite_stored (s : State) (r : Req) : (s.sendWrite r).stored = s.stored := by simp [State.sendWrite]
@[simp] theorem State.enterStore_stored (s : State) (r : Req) : (s.enterStore r).stored = s.stored := by
  dsimp only [State.enterStore]; (repeat' split) <;> simp

@[simp] theorem State.enterOther_stored (s : State) (r : Req) : (s.enterOther r).stored = s.stored := by
  unfold State.enterOther; (repeat' split) <;> simp

@[simp] theorem State.enterReq_stored (s : State) (r : Req) : (s.enterReq r).stored = s.stored := by unfold State.enterReq; split <;> simp
@[simp] theorem State.pump_stored (s : State) (c : CoreId) : (s.pump c).stored = s.stored := by
  refine State.foldl_stored (fun t rid => ?_) _ _
  (repeat' split) <;> simp

@[simp] theorem State.localAdd_stored (s : State) (c : CoreId) (slot ctr : Nat) (amt : DWord) (who : Issuer) (engine : Bool) :
    (s.localAdd c slot ctr amt who engine).stored = s.stored := by
  unfold State.localAdd; split <;> simp

@[simp] theorem State.releaseHeld_stored (s : State) (c : CoreId) (h : Held) : (s.releaseHeld c h).stored = s.stored := by
  unfold State.releaseHeld; (repeat' split) <;> simp

@[simp] theorem State.reapWarp_stored (s : State) (w : Warp) : (s.reapWarp w).stored = s.stored := by unfold State.reapWarp; (repeat' split) <;> simp
@[simp] theorem State.reap_stored (s : State) (c : CoreId) : (s.reap c).stored = s.stored := by simp [State.reap]
@[simp] theorem State.moveOn_stored (s : State) (c : CoreId) : (s.moveOn c).stored = s.stored := by simp [State.moveOn]
@[simp] theorem State.settle_stored (s : State) (c : CoreId) : (s.settle c).stored = s.stored := by simp [State.settle]

/-! ### MemInstr.lean -/

@[simp] theorem State.scalesSent_stored (s : State) (w : Warp) (x : LongOp) (accs : List Acc) : (s.scalesSent w x accs).stored = s.stored := by
  simp [State.scalesSent]

@[simp] theorem State.hold_stored (s : State) (w : Warp) (g : Group) (needs : List Nat) (wide : Bool) (iid : Nat) :
    (s.hold w g needs wide iid).stored = s.stored := by
  simp [State.hold]

@[simp] theorem State.startPromote_stored (s : State) (w : Warp) (g : Group) (cores : List CoreId) :
    (s.startPromote w g cores).stored = s.stored := by
  simp [State.startPromote]

/-! ### Pack.lean -/

@[simp] theorem State.notLegal_stored (s : State) (w : Warp) (opc : BitVec 8) (x : LongOp) (reason : Nat) :
    (s.notLegal w opc x reason).stored = s.stored := by
  dsimp only [State.notLegal]; (repeat' split) <;> simp

/-! ### Control.lean -/

@[simp] theorem State.privPut_stored (s : State) (w : Warp) (g : Group) (pa va : Nat) (wg : Nat) (bs : List Byte) :
    (s.privPut w g pa va wg bs).stored = s.stored := by
  simp [State.privPut]

theorem State.spillOut_stored {s t : State} {w : Warp} {g : Group} (h : s.spillOut w g = .ok t) : t.stored = s.stored := by
  dsimp only [State.spillOut] at h
  split at h
  · cases h; rfl
  · split at h <;> cases h
    refine State.foldl_stored (fun u c => ?_) _ _
    split <;> simp

@[simp] theorem State.commitSplits_stored (s : State) (old new : Warp) (cost lag : Nat) : (s.commitSplits old new cost lag).stored = s.stored := by
  dsimp only [State.commitSplits]
  split
  · simp
  · rw [State.setWarp_stored]
    split
    · rfl
    · split
      next h => exact State.spillOut_stored h
      · rfl

@[simp] theorem State.turnTo_stored (s : State) (w w1 : Warp) (len : Nat) : (s.turnTo w w1 len).stored = s.stored := by simp [State.turnTo]
@[simp] theorem State.sleep_stored (s : State) (w : Warp) (x : LongOp) : (s.sleep w x).stored = s.stored := by simp [State.sleep]

/-! ### CoreEvents.lean -/

@[simp] theorem State.checked_stored (s : State) (wing : Nat) (k : Check) : (s.checked wing k).stored = s.stored := by
  unfold State.checked; split <;> simp

@[simp] theorem State.windowClose_stored (s : State) (c : CoreId) : (s.windowClose c).stored = s.stored := by
  dsimp only [State.windowClose]; (repeat' split) <;> simp

@[simp] theorem State.setWalk_stored (s : State) (die i : Nat) (k : Option Walk) : (s.setWalk die i k).stored = s.stored := by simp [State.setWalk]
@[simp] theorem State.takeLine_stored (s : State) (data : List Byte) (q : Req) : (s.takeLine data q).stored = s.stored := by simp [State.takeLine]
@[simp] theorem State.predictFrom_stored (s : State) (c : CoreId) (line : Nat) (hint : Option Nat) :
    (s.predictFrom c line hint).stored = s.stored := by
  unfold State.predictFrom; split <;> simp

@[simp] theorem State.fill_stored (s : State) (r : Req) (secs : List Nat) (data : List Byte) (hint : Option Nat) :
    (s.fill r secs data hint).stored = s.stored := by
  simp [State.fill]

@[simp] theorem State.fillFault_stored (s : State) (r : Req) (aux : DWord) : (s.fillFault r aux).stored = s.stored := by simp [State.fillFault]
@[simp] theorem State.l1Fill_stored (s : State) (pid : Nat) : (s.l1Fill pid).stored = s.stored := by unfold State.l1Fill; (repeat' split) <;> simp
@[simp] theorem State.casPred_stored (s : State) (r : Req) (ok : Bool) : (s.casPred r ok).stored = s.stored := by
  unfold State.casPred; (repeat' split) <;> simp

@[simp] theorem State.sectorReturn_stored (s : State) (r : Req) : (s.sectorReturn r).stored = s.stored := by unfold State.sectorReturn; split <;> simp
@[simp] theorem State.loadReturn_stored (s : State) (c : CoreId) (rid : Nat) : (s.loadReturn c rid).stored = s.stored := by
  unfold State.loadReturn; (repeat' split) <;> simp

@[simp] theorem State.ack_stored (s : State) (pid : Nat) : (s.ack pid).stored = s.stored := by unfold State.ack; split <;> simp
@[simp] theorem State.probe_stored (s : State) (c : CoreId) (rid : Nat) : (s.probe c rid).stored = s.stored := by
  unfold State.probe; (repeat' split) <;> simp

@[simp] theorem State.probeAnswer_stored (s : State) (c : CoreId) (rid : Nat) : (s.probeAnswer c rid).stored = s.stored := by
  unfold State.probeAnswer; (repeat' split) <;> simp

@[simp] theorem State.promotionRequest_stored (s : State) (c issuer : CoreId) : (s.promotionRequest c issuer).stored = s.stored := by
  simp [State.promotionRequest]

/-! ### Counter.lean -/

@[simp] theorem State.holdLocal_stored (s : State) (w : Warp) (g : Group) (wide : Bool) (ctr : Nat) (amt : DWord) :
    (s.holdLocal w g wide ctr amt).stored = s.stored := by
  simp [State.holdLocal]

@[simp] theorem State.counterDone_stored (s : State) (w : Warp) (x : LongOp) (acq : Bool) : (s.counterDone w x acq).stored = s.stored := by
  simp [State.counterDone]

/-! ### Engine.lean -/

@[simp] theorem State.engChecked_stored (s : State) (k : EngCheck) : (s.engChecked k).stored = s.stored := by simp [State.engChecked]
@[simp] theorem State.engPull_stored (s : State) (c : CoreId) (ps : Pages) : (s.engPull c ps).stored = s.stored := by simp [State.engPull]
@[simp] theorem State.engRead_stored (s : State) (c : CoreId) (ps : Pages) : (s.engRead c ps).1.stored = s.stored := by simp [State.engRead]
@[simp] theorem State.engWrite_stored (s : State) (w : Who) (ps : Pages) (bs : List Byte) : (s.engWrite w ps bs).stored = s.stored := by
  simp [State.engWrite]

@[simp] theorem State.useBanks_stored (s : State) (g : Group) (runs : SpmRuns) : (s.useBanks g runs).stored = s.stored := by simp [State.useBanks]
@[simp] theorem State.engTrap_stored (s : State) (g : Group) (i : Issuer) (c : Cause) : (s.engTrap g i c).stored = s.stored := by simp [State.engTrap]
theorem State.engineAdd_stored {s t : State} {g : Group} {r : CtrRef} {amt : Nat} {i : Issuer} (h : s.engineAdd g r amt i = .ok t) :
    t.stored = s.stored := by
  dsimp only [State.engineAdd] at h
  cases r with
  | none => cases h; rfl
  | loc b => cases h; simp
  | glob va =>
    dsimp only at h
    split at h
    · cases h
    · split at h <;> cases h
      · rfl
      · split <;> simp

@[simp] theorem State.modQueue_stored (s : State) (c : CoreId) (n : Nat) (f : List QItem → List QItem) : (s.modQueue c n f).stored = s.stored := by
  simp [State.modQueue]

@[simp] theorem State.setHead_stored (s : State) (c : CoreId) (n : Nat) (e : EngEntry) : (s.setHead c n e).stored = s.stored := by
  simp [State.setHead]

@[simp] theorem State.popHead_stored (s : State) (c : CoreId) (n : Nat) : (s.popHead c n).stored = s.stored := by simp [State.popHead]
@[simp] theorem State.discardQueue_stored (s : State) (c : CoreId) (n slot : Nat) : (s.discardQueue c n slot).stored = s.stored := by
  simp [State.discardQueue]

@[simp] theorem State.dropFence_stored (s : State) (c : CoreId) (f : Fence) : (s.dropFence c f).stored = s.stored := by simp [State.dropFence]
@[simp] theorem State.discardFences_stored (s : State) (g : Group) (n : Nat) : (s.discardFences g n).stored = s.stored := by
  simp [State.discardFences]

@[simp] theorem State.engFail_stored (s : State) (g : Group) (n : Nat) (e : EngEntry) (c : Cause) : (s.engFail g n e c).stored = s.stored := by
  simp [State.engFail]

@[simp] theorem State.completeEntry_stored (s : State) (g : Group) (n : Nat) (e : EngEntry) : (s.completeEntry g n e).stored = s.stored := by
  dsimp only [State.completeEntry]
  split
  next h => simp [State.engineAdd_stored h]
  · simp

@[simp] theorem State.enqueueEntry_stored (s : State) (w : Warp) (x : LongOp) (g : Group) (n : Nat) (cmd : List Byte) (hdr : List Nat) (off
    trapT : Bool) :
    (s.enqueueEntry w x g n cmd hdr off trapT).stored = s.stored := by
  simp [State.enqueueEntry]

/-! ### Bin.lean -/

@[simp] theorem State.engAtomic_stored (s : State) (w : Who) (ps : Pages) (f : Nat → Nat) (n : Nat) : (s.engAtomic w ps f n).1.stored = s.stored := by
  simp [State.engAtomic]

theorem State.routeClaim_stored {s u : State} {g : Group} {h : RouteHdr} {rbase e t slot : Nat} {resid : Bool}
    (hr : s.routeClaim g h rbase e t = .ok (u, slot, resid)) : u.stored = s.stored := by
  unfold State.routeClaim at hr
  dsimp only at hr
  split at hr
  · split at hr
    · cases hr
    · rw [apply_ite (· = _)] at hr
      split at hr
      · simp only [Except.ok.injEq, Prod.mk.injEq] at hr
        simp [← hr.1]
      · split at hr
        · cases hr
        · simp only [Except.ok.injEq, Prod.mk.injEq] at hr
          simp [← hr.1]
  · split at hr
    · cases hr
    · simp only [Except.ok.injEq, Prod.mk.injEq] at hr
      simp [← hr.1]

/-! ### CopyEvents.lean -/

@[simp] theorem State.copyStart_stored (s : State) (c : CoreId) (ch : Nat) : (s.copyStart c ch).stored = s.stored := by
  unfold State.copyStart; (repeat' split) <;> simp

@[simp] theorem State.copyComplete_stored (s : State) (c : CoreId) (ch : Nat) : (s.copyComplete c ch).stored = s.stored := by
  unfold State.copyComplete; (repeat' split) <;> simp

@[simp] theorem State.discardBehind_stored (s : State) (g : Group) (f : Fence) : (s.discardBehind g f).stored = s.stored := by
  simp [State.discardBehind]

@[simp] theorem State.fenceComplete_stored (s : State) (c : CoreId) (fid : Nat) : (s.fenceComplete c fid).stored = s.stored := by
  dsimp only [State.fenceComplete]
  split
  · rfl
  · split
    · simp
    · split
      · rfl
      · split
        next h => simp [State.engineAdd_stored h]
        · split <;> simp

@[simp] theorem State.popMx_stored (s : State) (c : CoreId) (slot : Nat) : (s.popMx c slot).stored = s.stored := by simp [State.popMx]
@[simp] theorem State.guardedOff_stored (s : State) (c : CoreId) (queue slot : Nat) : (s.guardedOff c queue slot).stored = s.stored := by
  unfold State.guardedOff; (repeat' split) <;> simp

/-! ### Pool.lean -/

@[simp] theorem State.poolComplete_stored (s : State) (g : Group) (e : EngEntry) : (s.poolComplete g e).stored = s.stored := by
  simp [State.poolComplete]

@[simp] theorem State.freeBytes_stored (s : State) (n : Nat) : (s.freeBytes n).1.stored = s.stored := by simp [State.freeBytes]

/-! ### MatrixInstr.lean -/

@[simp] theorem State.pushMx_stored (s : State) (g : Group) (e : MxEntry) : (s.pushMx g e).stored = s.stored := by simp [State.pushMx]
@[simp] theorem State.pushBatch_stored (s : State) (g : Group) (e : MxEntry) : (s.pushBatch g e).stored = s.stored := by simp [State.pushBatch]
@[simp] theorem State.modWindow_stored (s : State) (c : CoreId) (eid : Nat) (f : Window → Window) : (s.modWindow c eid f).stored = s.stored := by
  simp [State.modWindow]

/-! ### MatrixEvents.lean -/

@[simp] theorem State.feedWindows_stored (s : State) (c : CoreId) : (s.feedWindows c).stored = s.stored := by
  refine State.foldl_stored (fun t v => ?_) _ _
  split <;> simp

@[simp] theorem State.mxFail_stored (s : State) (g : Group) (e : MxEntry) (c : Cause) : (s.mxFail g e c).stored = s.stored := by simp [State.mxFail]
@[simp] theorem State.mxDone_stored (s : State) (g : Group) : (s.mxDone g).stored = s.stored := by simp [State.mxDone]
@[simp] theorem State.beginRun_stored (s : State) (c : CoreId) (r : MxRun) : (s.beginRun c r).stored = s.stored := by simp [State.beginRun]
@[simp] theorem State.endWindow_stored (s : State) (c : CoreId) (eid : Nat) : (s.endWindow c eid).stored = s.stored := by
  unfold State.endWindow; split <;> simp

@[simp] theorem State.tileWrite_stored (s : State) (c : CoreId) : (s.tileWrite c).stored = s.stored := by unfold State.tileWrite; split <;> simp
@[simp] theorem State.rowDrop_stored (s : State) (c : CoreId) (lane : Nat) : (s.rowDrop c lane).stored = s.stored := by
  unfold State.rowDrop; split <;> simp

@[simp] theorem State.blockStart_stored (s : State) (c : CoreId) (b : Nat) : (s.blockStart c b).stored = s.stored := by
  unfold State.blockStart; (repeat' split) <;> simp

@[simp] theorem State.wakeBatch_stored (s : State) (c : CoreId) (slot n : Nat) : (s.wakeBatch c slot n).stored = s.stored := by simp [State.wakeBatch]
@[simp] theorem State.batchComplete_stored (s : State) (c : CoreId) (slot : Nat) : (s.batchComplete c slot).stored = s.stored := by
  dsimp only [State.batchComplete]
  split
  · rfl
  · split
    · rfl
    · split
      · simp
      next h => simp [State.engineAdd_stored h]

/-! ### Groups.lean -/

@[simp] theorem State.mail_stored (s : State) (die : Nat) (b : List Byte) : (s.mail die b).stored = s.stored := by simp [State.mail]
theorem State.pickUnused_stored_of_eq {s t : State} {used : List Nat} {lo n : Nat} {k : Option Nat} (h : s.pickUnused used lo n = (k, t)) :
    t.stored = s.stored := by
  simpa [h] using s.pickUnused_stored used lo n

@[simp] theorem State.newSlot_stored (s : State) (c : CoreId) : (s.newSlot c).2.stored = s.stored := by
  dsimp only [State.newSlot]
  split <;> next h => exact State.pickUnused_stored_of_eq h

@[simp] theorem State.createGroup_stored (s : State) (c : CoreId) (wing : Nat) (p : WorkPkt) (r : Res) (place : List (Nat × Nat)) (base : Nat) :
    (s.createGroup c wing p r place base).1.stored = s.stored := by
  simp [State.createGroup]

@[simp] theorem State.notify_stored (s : State) (c : CoreId) (b : List Byte) : (s.notify c b).stored = s.stored := by simp [State.notify]
@[simp] theorem State.endGroup_stored (s : State) (g : Group) (killed : Bool) : (s.endGroup g killed).stored = s.stored := by simp [State.endGroup]
@[simp] theorem State.groupEnd_stored (s : State) (c : CoreId) (slot : Nat) : (s.groupEnd c slot).stored = s.stored := by
  unfold State.groupEnd; split <;> simp

@[simp] theorem State.dropWaits_stored (s : State) (c : CoreId) (slot : Nat) : (s.dropWaits c slot).stored = s.stored := by simp [State.dropWaits]
@[simp] theorem State.dropEntries_stored (s : State) (c : CoreId) (slot : Nat) : (s.dropEntries c slot).stored = s.stored := by
  simp [State.dropEntries]

@[simp] theorem State.retireWarps_stored (s : State) (c : CoreId) (slot : Nat) : (s.retireWarps c slot).stored = s.stored := by
  simp [State.retireWarps]

@[simp] theorem State.cancelCwait_stored (s : State) (r : Req) : (s.cancelCwait r).stored = s.stored := by unfold State.cancelCwait; split <;> simp
@[simp] theorem State.dropHeldAdds_stored (s : State) (c : CoreId) (slot : Nat) : (s.dropHeldAdds c slot).stored = s.stored := by
  simp [State.dropHeldAdds]

@[simp] theorem State.killGroup_stored (s : State) (g : Group) (rep : Option TrapRec) : (s.killGroup g rep).stored = s.stored := by
  unfold State.killGroup; (repeat' split) <;> simp

@[simp] theorem State.killGroups_stored (s : State) (p : Group → Bool) (rep : Option TrapRec) : (s.killGroups p rep).stored = s.stored := by
  simp [State.killGroups]

@[simp] theorem State.killCohort_stored (s : State) (wing cat node : Nat) : (s.killCohort wing cat node).stored = s.stored := by
  simp [State.killCohort]

/-! ### Launch.lean -/

@[simp] theorem State.spawn_stored (s : State) (c : CoreId) (p : WorkPkt) : (s.spawn c p).1.stored = s.stored := by
  dsimp only [State.spawn]; (repeat' split) <;> simp

@[simp] theorem State.countCohort_stored (s : State) (wing : Nat) (p : WorkPkt) : (s.countCohort wing p).stored = s.stored := by
  dsimp only [State.countCohort]; (repeat' split) <;> simp

theorem State.fork_stored {s t : State} {w : Warp} {g : Group} {count entry ctr : Nat} (h : s.fork w g count entry ctr = .some t) :
    t.stored = s.stored := by
  dsimp only [State.fork] at h
  split at h
  · cases h
  · obtain ⟨place, -, rfl⟩ := Option.map_eq_some_iff.mp h
    simp

/-! ### Traps.lean -/

@[simp] theorem State.softTrap_stored (s : State) (w : Warp) (x : LongOp) (cls : Nat) : (s.softTrap w x cls).stored = s.stored := by
  simp [State.softTrap]

@[simp] theorem State.holdGroup_stored (s : State) (g : Group) (cause : Nat) (t : TrapRec) : (s.holdGroup g cause t).stored = s.stored := by
  simp [State.holdGroup]

@[simp] theorem State.deliver'_stored (s : State) (g : Group) (t : PendTrap) : (s.deliver' g t).stored = s.stored := by simp [State.deliver']
@[simp] theorem State.settleTraps_stored (s : State) (c : CoreId) (l : List PendTrap) (slot : Nat) : (s.settleTraps c l slot).stored = s.stored := by
  dsimp only [State.settleTraps]; (repeat' split) <;> simp

@[simp] theorem State.curatorTrap_stored (s : State) (c : CoreId) (t : PendTrap) : (s.curatorTrap c t).stored = s.stored := by
  simp [State.curatorTrap]

@[simp] theorem State.coreStop_stored (s : State) (c : CoreId) : (s.coreStop c).stored = s.stored := by unfold State.coreStop; split <;> simp
@[simp] theorem State.raiseDeferred_stored (s : State) (c : CoreId) (slot : Nat) : (s.raiseDeferred c slot).stored = s.stored := by
  unfold State.raiseDeferred; split <;> simp

@[simp] theorem State.requestPreempt_stored (s : State) (c : CoreId) (slot cause : Nat) : (s.requestPreempt c slot cause).stored = s.stored := by
  simp [State.requestPreempt]

@[simp] theorem State.preemptStop_stored (s : State) (c : CoreId) (slot : Nat) : (s.preemptStop c slot).stored = s.stored := by
  unfold State.preemptStop; (repeat' split) <;> simp

@[simp] theorem State.watchdog_stored (s : State) (id : WarpId) : (s.watchdog id).stored = s.stored := by
  unfold State.watchdog; (repeat' split) <;> simp

/-! ### System.lean -/

@[simp] theorem State.startRaise_stored (s : State) (die asid : Nat) (warp : Option WarpId) (ccp : Option (Nat × Nat)) :
    (s.startRaise die asid warp ccp).stored = s.stored := by
  simp [State.startRaise]

@[simp] theorem State.receiveGen_stored (s : State) (c : CoreId) (r : Raise) : (s.receiveGen c r).stored = s.stored := by simp [State.receiveGen]
@[simp] theorem State.broadcast_stored (s : State) (c : CoreId) : (s.broadcast c).stored = s.stored := by simp [State.broadcast]
@[simp] theorem State.send_stored (s : State) (o : Out) : (s.send o).stored = s.stored := by simp [State.send]
@[simp] theorem State.l1AllHome_stored (s : State) : (s.l1AllHome).stored = s.stored := by simp [State.l1AllHome]
@[simp] theorem State.raiseEnd_stored (s : State) : (s.raiseEnd).stored = s.stored := by unfold State.raiseEnd; (repeat' split) <;> simp

/-! ### Context.lean -/

@[simp] theorem State.sendMail_stored (s : State) (die : Nat) (b : List Byte) : (s.sendMail die b).stored = s.stored := by simp [State.sendMail]
@[simp] theorem State.takeEntries_stored (s : State) (c : CoreId) (slot : Nat) : (s.takeEntries c slot).stored = s.stored := by
  simp [State.takeEntries]

theorem State.saveWarps_stored {s t : State} {g : Group} {ws : List Warp} (h : s.saveWarps g ws = .ok t) : t.stored = s.stored := by
  induction ws generalizing s with
  | nil => cases h; rfl
  | cons w ws ih =>
    unfold State.saveWarps at h
    split at h
    · cases h
    next hs => simpa [State.spillOut_stored hs] using ih h

@[simp] theorem State.swapStuck_stored (s : State) (g : Group) (cause : Nat) (f : AccFail) : (s.swapStuck g cause f).stored = s.stored := by
  simp [State.swapStuck]

@[simp] theorem State.swapTo_stored (s : State) (g : Group) (cause frame : Nat) : (s.swapTo g cause frame).stored = s.stored := by
  dsimp only [State.swapTo]
  split
  · simp
  next h =>
    split
    · simp
    · simp [State.saveWarps_stored h]

@[simp] theorem State.swapOut_stored (s : State) (c : CoreId) (slot : Nat) : (s.swapOut c slot).stored = s.stored := by
  unfold State.swapOut; (repeat' split) <;> simp

@[simp] theorem State.restoreRecs_stored (s : State) (g : Group) (recs : List (List Byte)) : (s.restoreRecs g recs).stored = s.stored := by
  simp [State.restoreRecs]

@[simp] theorem State.pullVA_stored (s : State) (w : Who) (va n : Nat) : (s.pullVA w va n).stored = s.stored := by unfold State.pullVA; split <;> simp
@[simp] theorem State.imageHome_stored (s : State) (w : Who) (f : Nat) : (s.imageHome w f).stored = s.stored := by
  dsimp only [State.imageHome]; split <;> simp

/-! ### Catalogue.lean -/

@[simp] theorem State.frame_stored (s : State) (port : Nat) (k : FrameKind) : (s.frame port k).stored = s.stored := by simp [State.frame]
@[simp] theorem State.ccpDrop_stored (s : State) (m : Ccp) : (s.ccpDrop m).stored = s.stored := by simp [State.ccpDrop]
@[simp] theorem State.ccpAccept_stored (s : State) (m : Ccp) : (s.ccpAccept m).stored = s.stored := by simp [State.ccpAccept]
@[simp] theorem State.reply_stored (s : State) (m : Ccp) (code : Nat) (body : List Nat) : (s.reply m code body).stored = s.stored := by
  simp [State.reply]

theorem State.ccp_stored {s : State} {m : Ccp} {ty : Nat} {f : State → State} (hf : ∀ t, (f t).stored = t.stored) :
    (s.ccp m ty f).stored = s.stored := by
  dsimp only [State.ccp]
  (repeat' split) <;> simp [hf]

theorem State.ccpActive_stored {s : State} {m : Ccp} {ty : Nat} {f : State → State} (hf : ∀ t, (f t).stored = t.stored) :
    (s.ccpActive m ty f).stored = s.stored := by
  refine State.ccp_stored fun t => ?_
  dsimp only
  split <;> simp [hf]

@[simp] theorem State.unlisted_stored (s : State) (m : Ccp) : (s.unlisted m).stored = s.stored := State.ccp_stored fun t => by simp
@[simp] theorem State.catload_stored (s : State) (m : Ccp) (image : List Byte) : (s.catload m image).stored = s.stored := by
  refine State.ccpActive_stored fun t => ?_
  dsimp only
  split
  · simp
  · split
    · simp
    · split <;> next h => simp [State.pickUnused_stored_of_eq h]

@[simp] theorem State.kick_stored (s : State) (m : Ccp) (cat kickSeq : Nat) (patches : List Patch) :
    (s.kick m cat kickSeq patches).stored = s.stored := by
  refine State.ccpActive_stored fun t => ?_
  dsimp only
  (repeat' split) <;> simp

@[simp] theorem State.stopReplay_stored (s : State) (wing cat status node : Nat) : (s.stopReplay wing cat status node).stored = s.stored := by
  simp [State.stopReplay]

@[simp] theorem State.dispatch_stored (s : State) (wing cat : Nat) : (s.dispatch wing cat).stored = s.stored := by
  unfold State.dispatch; (repeat' split) <;> simp

@[simp] theorem State.sendPacket_stored (s : State) (wing cat : Nat) : (s.sendPacket wing cat).stored = s.stored := by
  unfold State.sendPacket; (repeat' split) <;> simp

@[simp] theorem State.release_stored (s : State) (wing cat : Nat) : (s.release wing cat).stored = s.stored := by unfold State.release; split <;> simp
@[simp] theorem State.nodeEnd_stored (s : State) (unit : Nat) : (s.nodeEnd unit).stored = s.stored := by unfold State.nodeEnd; split <;> simp
theorem State.unitAdd_stored {s t : State} {asid wing va : Nat} {amt : DWord} {spill : Bool} (h : s.unitAdd asid wing va amt = .ok (t, spill)) :
    t.stored = s.stored := by
  unfold State.unitAdd at h
  split at h
  · cases h
  · split at h <;> cases h
    · rfl
    · simp

@[simp] theorem State.unitReport_stored (s : State) (wing : Nat) (src : RepSrc) (place : Nat) (c : Cause) :
    (s.unitReport wing src place c).stored = s.stored := by
  simp [State.unitReport]

@[simp] theorem State.doneAdd_stored (s : State) (c : Catalogue) : (s.doneAdd c).stored = s.stored := by
  dsimp only [State.doneAdd]
  split
  · rfl
  · split
    · simp
    next h => split <;> simp [State.unitAdd_stored h]

@[simp] theorem State.sendDone_stored (s : State) (wing seq status node : Nat) : (s.sendDone wing seq status node).stored = s.stored := by
  simp [State.sendDone]

@[simp] theorem State.replayEnd_stored (s : State) (wing cat : Nat) : (s.replayEnd wing cat).stored = s.stored := by
  unfold State.replayEnd; (repeat' split) <;> simp

/-! ### Fabric.lean -/

@[simp] theorem State.mergeInto_stored (s : State) (a b : Packet) : (s.mergeInto a b).stored = s.stored := by simp [State.mergeInto]
@[simp] theorem State.arrive_stored (s : State) (pid : Nat) : (s.arrive pid).stored = s.stored := by simp [State.arrive]
@[simp] theorem State.meshStep_stored (s : State) (pid granted : Nat) (merge : Bool) : (s.meshStep pid granted merge).stored = s.stored := by
  dsimp only [State.meshStep]; (repeat' split) <;> simp

@[simp] theorem State.tileStep_stored (s : State) (pid : Nat) : (s.tileStep pid).stored = s.stored := by
  unfold State.tileStep; (repeat' split) <;> simp

@[simp] theorem State.slotStep_stored (s : State) : (s.slotStep).stored = s.stored := by simp [State.slotStep]
@[simp] theorem State.sendReports_stored (s : State) : (s.sendReports).stored = s.stored := by simp [State.sendReports]
@[simp] theorem State.askMemory_stored (s : State) (p : Packet) (r : Req) : (s.askMemory p r).stored = s.stored := by simp [State.askMemory]
@[simp] theorem State.answerRead_stored (s : State) (p : Packet) (r : Req) (data : List Byte) : (s.answerRead p r data).stored = s.stored := by
  unfold State.answerRead; split <;> simp

@[simp] theorem State.refuse_stored (s : State) (p : Packet) (pa : Nat) : (s.refuse p pa).stored = s.stored := by simp [State.refuse]
@[simp] theorem State.l2Serve_stored (s : State) (pid : Nat) : (s.l2Serve pid).stored = s.stored := by unfold State.l2Serve; (repeat' split) <;> simp
@[simp] theorem State.overflow_stored (s : State) (r : Req) : (s.overflow r).stored = s.stored := by unfold State.overflow; split <;> simp
@[simp] theorem State.atomServe_stored (s : State) (r : Req) (p : Packet) : (s.atomServe r p).stored = s.stored := by
  cases hk : r.kind <;> simp only [State.atomServe, hk]
  case atom => simp
  case cwait => (repeat' split) <;> simp
  case cread => simp

@[simp] theorem State.atomicService_stored (s : State) (pid : Nat) : (s.atomicService pid).stored = s.stored := by
  dsimp only [State.atomicService]
  iterate 2 (split; · rfl)
  iterate 4 (split; · simp)
  exact State.stored_of_ite (by simp) (State.stored_of_ite (State.foldl_stored (fun t q => by split <;> simp) _ _) rfl)

@[simp] theorem State.cwaitRefused_stored (s : State) (r : Req) (aux : DWord) : (s.cwaitRefused r aux).stored = s.stored := by
  unfold State.cwaitRefused; split <;> simp

@[simp] theorem State.cwaitAnswer_stored (s : State) (pid : Nat) : (s.cwaitAnswer pid).stored = s.stored := by
  unfold State.cwaitAnswer; (repeat' split) <;> simp

@[simp] theorem State.cwaitRetry_stored (s : State) (c : CoreId) (rid : Nat) : (s.cwaitRetry c rid).stored = s.stored := by
  unfold State.cwaitRetry; (repeat' split) <;> simp

@[simp] theorem State.l2Forget_stored (s : State) (m : MemReq) : (s.l2Forget m).stored = s.stored := by simp [State.l2Forget]
@[simp] theorem State.scrub_stored (s : State) (n : Nat) (e : Ecc) : (s.scrub n e).stored = s.stored := by dsimp only [State.scrub]; split <;> simp
@[simp] theorem State.maintenance_stored (s : State) (n : Nat) (refreshDone : Bool) (e : Ecc) (_overwritten : Bool) :
    (s.maintenance n refreshDone e _overwritten).stored = s.stored := by
  simp [State.maintenance]

@[simp] theorem State.fenceReport_stored (s : State) (owner : Option Wing) (src : RepSrc) (place : Nat) :
    (s.fenceReport owner src place).stored = s.stored := by
  simp [State.fenceReport]

@[simp] theorem State.fenceStack_stored (s : State) (n : Nat) : (s.fenceStack n).stored = s.stored := by simp [State.fenceStack]
@[simp] theorem State.fenceBuffer_stored (s : State) (n : Nat) : (s.fenceBuffer n).stored = s.stored := by simp [State.fenceBuffer]
@[simp] theorem State.stackTemp_stored (s : State) (n celsius : Nat) : (s.stackTemp n celsius).stored = s.stored := by simp [State.stackTemp]
@[simp] theorem State.bufferScrub_stored (s : State) (n : Nat) (e : Ecc) : (s.bufferScrub n e).stored = s.stored := by simp [State.bufferScrub]

/-! ### Peers.lean -/

@[simp] theorem State.nak_stored (s : State) (qp : Nat) : (s.nak qp).stored = s.stored := by simp [State.nak]
@[simp] theorem State.place_stored (s : State) (w : Who) (va : Nat) (data : List Byte) : (s.place w va data).1.stored = s.stored := by
  simp [State.place]

@[simp] theorem State.roceDone_stored (s : State) (q : Qp) (len : Nat) (data : List Byte) : (s.roceDone q len data).stored = s.stored := by
  simp [State.roceDone]

@[simp] theorem State.roceFault_stored (s : State) (q : Qp) (c : Cause) : (s.roceFault q c).stored = s.stored := by simp [State.roceFault]
@[simp] theorem State.placed_stored (s : State) (q : Qp) (m : Placing) : (s.placed q m).stored = s.stored := by
  unfold State.placed
  split
  · split
    · simp
    next h => split <;> simp [State.unitAdd_stored h]
  · simp

theorem State.place_stored_of_eq {s t : State} {w : Who} {va : Nat} {data : List Byte} {c : Option Cause} (h : s.place w va data = (t, c)) :
    t.stored = s.stored := by
  simpa [h] using s.place_stored w va data

@[simp] theorem State.placeNext_stored (s : State) (qp : Nat) : (s.placeNext qp).stored = s.stored := by
  dsimp only [State.placeNext]
  split
  · rfl
  · split
    · rfl
    · split
      next h => simp [State.place_stored_of_eq h]
      next h => split <;> simp [State.place_stored_of_eq h]

theorem State.roce_stored {s : State} {qp : Nat} {f : Qp → State} (hf : ∀ q, (f q).stored = s.stored) : (s.roce qp f).stored = s.stored := by
  dsimp only [State.roce]
  (repeat' split) <;> simp [hf]

@[simp] theorem State.roceWrite_stored (s : State) (qp rkey va : Nat) (data : List Byte) (imm : Option Word) :
    (s.roceWrite qp rkey va data imm).stored = s.stored := by
  refine State.roce_stored fun q => ?_
  split <;> simp

@[simp] theorem State.roceRead_stored (s : State) (qp rkey va len : Nat) : (s.roceRead qp rkey va len).stored = s.stored := by
  refine State.roce_stored fun q => ?_
  (repeat' split) <;> simp

@[simp] theorem State.finish_stored (s : State) (qp status : Nat) : (s.finish qp status).stored = s.stored := by
  dsimp only [State.finish]
  split
  · rfl
  · split
    · simp [apply_ite State.stored]
    next h => split <;> simp [State.unitAdd_stored h, apply_ite State.stored]

@[simp] theorem State.finishKnown_stored (s : State) (qp n : Nat) : (s.finishKnown qp n).stored = s.stored := by
  induction n generalizing s with
  | zero => rfl
  | succ n ih => unfold State.finishKnown; split <;> simp [ih]

@[simp] theorem State.finishAll_stored (s : State) (qp : Nat) : (s.finishAll qp).stored = s.stored := by simp [State.finishAll]
@[simp] theorem State.enlist_stored (s : State) (qp : Nat) (d : SendDesc) : (s.enlist qp d).stored = s.stored := by simp [State.enlist]
@[simp] theorem State.perform_stored (s : State) (q : Qp) (b : List Byte) : (s.perform q b).stored = s.stored := by
  dsimp only [State.perform]; (repeat' split) <;> simp

@[simp] theorem State.takeDescriptor_stored (s : State) (qp : Nat) : (s.takeDescriptor qp).stored = s.stored := by
  dsimp only [State.takeDescriptor]; (repeat' split) <;> simp

@[simp] theorem State.completeDescriptor_stored (s : State) (qp : Nat) (nak : Bool) (data : List Byte) :
    (s.completeDescriptor qp nak data).stored = s.stored := by
  unfold State.completeDescriptor
  split
  · rfl
  · refine State.roce_stored fun q => ?_
    split
    · rfl
    · split
      · simp
      · split
        · split <;> next h => simp [State.place_stored_of_eq h]
        · simp

@[simp] theorem State.qpCreate_stored (s : State) (m : Ccp) (b) : (s.qpCreate m b).stored = s.stored := by
  refine State.ccpActive_stored fun t => ?_
  dsimp only
  iterate 4 (split; · simp)
  split <;> next h => simp [State.pickUnused_stored_of_eq h]

@[simp] theorem State.mrReg_stored (s : State) (m : Ccp) (b : MrBody) : (s.mrReg m b).stored = s.stored := by
  refine State.ccpActive_stored fun t => ?_
  dsimp only
  split
  · simp
  · split
    · simp
    · split <;> next h => simp [State.pickUnused_stored_of_eq h]

/-! ### Wings.lean -/

@[simp] theorem State.l2Leave_stored (s : State) (p : L2Line → Bool) : (s.l2Leave p).stored = s.stored := by simp [State.l2Leave]
@[simp] theorem State.curatorWings_stored (s : State) : (s.curatorWings).stored = s.stored := by simp [State.curatorWings]
@[simp] theorem State.beginZeroing_stored (s : State) (dies : BitVec 9) (bufs : BitVec 8) : (s.beginZeroing dies bufs).stored = s.stored := by
  simp [State.beginZeroing]

@[simp] theorem State.freeWing_stored (s : State) (n : Nat) : (s.freeWing n).stored = s.stored := by simp [State.freeWing]
@[simp] theorem State.wingSet_stored (s : State) (m : Ccp) (b : WingBody) : (s.wingSet m b).stored = s.stored := by
  refine State.ccp_stored fun t => ?_
  dsimp only
  (repeat' split) <;> simp

@[simp] theorem State.dropQueued_stored (s : State) (wing : Nat) : (s.dropQueued wing).stored = s.stored := by simp [State.dropQueued]
@[simp] theorem State.closeQps_stored (s : State) (wing : Nat) : (s.closeQps wing).stored = s.stored := by simp [State.closeQps]
@[simp] theorem State.wingQuiesce_stored (s : State) (m : Ccp) (b : Nat) : (s.wingQuiesce m b).stored = s.stored := by
  refine State.ccp_stored fun t => ?_
  (repeat' split) <;> simp

@[simp] theorem State.wingQuiesced_stored (s : State) (wing : Nat) : (s.wingQuiesced wing).stored = s.stored := by simp [State.wingQuiesced]
@[simp] theorem State.slotSet_stored (s : State) (m : Ccp) (b) : (s.slotSet m b).stored = s.stored := by
  refine State.ccp_stored fun t => ?_
  (repeat' split) <;> simp

@[simp] theorem State.keyLoad_stored (s : State) (m : Ccp) (b : Wrapped) (r : Bool) : (s.keyLoad m b r).stored = s.stored := by
  refine State.ccp_stored fun t => ?_
  dsimp only
  (repeat' split) <;> simp

@[simp] theorem State.killReplay_stored (s : State) (c : Catalogue) (node : Nat) : (s.killReplay c node).stored = s.stored := by
  unfold State.killReplay; split <;> simp

@[simp] theorem State.killReplays_stored (s : State) (wing : Nat) (groups : List Group) : (s.killReplays wing groups).stored = s.stored := by
  simp [State.killReplays]

@[simp] theorem State.l1Empty_stored (s : State) (c : CoreId) : (s.l1Empty c).stored = s.stored := by simp [State.l1Empty]
@[simp] theorem State.revoke_stored (s : State) (wing : Nat) (who seq : Nat) : (s.revoke wing who seq).stored = s.stored := by simp [State.revoke]
@[simp] theorem State.keyRevoke_stored (s : State) (m : Ccp) (b) : (s.keyRevoke m b).stored = s.stored := by
  refine State.ccp_stored fun t => ?_
  (repeat' split) <;> simp

@[simp] theorem State.dropNotices_stored (s : State) (d : Nat) : (s.dropNotices d).stored = s.stored := by
  rw [State.stored, State.stored, State.dropNotices, List.map_map]
  refine congrArg _ (List.map_congr_left fun k _ => ?_)
  simp only [Function.comp_apply]
  split <;> rfl

/-! ### Manage.lean -/

@[simp] theorem State.fenceCore_stored (s : State) (c : CoreId) : (s.fenceCore c).stored = s.stored := by simp [State.fenceCore]
@[simp] theorem State.refuseMonitors_stored (s : State) (d : Nat) : (s.refuseMonitors d).stored = s.stored := by simp [State.refuseMonitors]
@[simp] theorem State.stopUncore_stored (s : State) (d : Nat) (to_ : Domain) : (s.stopUncore d to_).stored = s.stored := by simp [State.stopUncore]
@[simp] theorem State.failQp_stored (s : State) (q : Qp) : (s.failQp q).stored = s.stored := by simp [State.failQp]
@[simp] theorem State.binRow_stored (s : State) (r : Nat × Nat × Nat) : (s.binRow r).stored = s.stored := by simp [State.binRow]
@[simp] theorem State.clearCounts_stored (s : State) (n : Nat) : (s.clearCounts n).stored = s.stored := by simp [State.clearCounts]
@[simp] theorem State.clearFull_stored (s : State) (n : Nat) : (s.clearFull n).stored = s.stored := by simp [State.clearFull]

/-! ### Sched.lean -/

@[simp] theorem State.endWaits_stored (s : State) (w : Warp) : (s.endWaits w).stored = s.stored := by
  dsimp only [State.endWaits]
  split
  · rfl
  · rw [State.setWarp_stored, State.foldl_stored]
    intro t x
    split <;> simp

@[simp] theorem State.portTurn_stored (s : State) (c : CoreId) (t : Takes) (q : Nat) : (s.portTurn c t q).stored = s.stored := by
  dsimp only [State.portTurn]; split <;> simp

/-! ### Reads, walks and streams -/

@[simp] theorem State.memRead_stored (s : State) (m : MemReq) (e : Ecc) : (s.memRead m e).stored = s.stored := by
  dsimp only [State.memRead]; (repeat' split) <;> simp

@[simp] theorem State.fetchReturn_stored (s : State) (id : WarpId) (e : Ecc) : (s.fetchReturn id e).stored = s.stored := by
  dsimp only [State.fetchReturn]; (repeat' split) <;> simp

@[simp] theorem Core.tlbPut_spm (k : Core) (e : TlbEntry) : (k.tlbPut e).spm = k.spm := by
  simp only [Core.tlbPut]

@[simp] theorem State.walkRead_stored (s : State) (die i : Nat) (e : Ecc) : (s.walkRead die i e).stored = s.stored := by
  dsimp only [State.walkRead]; (repeat' split) <;> simp

@[simp] theorem State.formatRead_stored (s : State) (c : CoreId) (e : Ecc) : (s.formatRead c e).stored = s.stored := by
  dsimp only [State.formatRead]; (repeat' split) <;> simp

@[simp] theorem State.poolView_stored (s : State) (c : CoreId) (view : Nat) (ecc : Ecc) : (s.poolView c view ecc).stored = s.stored := by
  dsimp only [State.poolView]; (repeat' split) <;> simp
/-- What each step of a fold keeps of a result that is no error, the fold keeps. -/
theorem foldl_ok {ε α β : Type} {P : β → Prop} {f : Except ε β → α → Except ε β}
    (hf : ∀ r a b, f r a = .ok b → ∃ c, r = .ok c ∧ (P c → P b)) {l : List α} {c b : β} (h : l.foldl f (.ok c) = .ok b) (hc : P c) : P b := by
  induction l using List.reverseRecOn generalizing b with
  | nil => cases h; exact hc
  | append_singleton l a ih =>
    rw [List.foldl_append] at h
    obtain ⟨b', hb', hkeep⟩ := hf _ a b h
    exact hkeep (ih hb')

theorem State.loadRows_stored {s t : State} {g : Group} {glob : Bool} {a pitch : Nat} {k : Check} {rows : List (List Byte)}
    (h : s.loadRows g glob a pitch k = .ok (t, rows)) : t.stored = s.stored := by
  refine foldl_ok (P := fun c => c.1.stored = s.stored) (fun r i b hb => ?_) h rfl
  split at hb
  · cases hb
  · refine ⟨_, rfl, fun hst => ?_⟩
    split at hb
    · split at hb <;> cases hb
      simpa using hst
    · cases hb; exact hst

theorem State.mmvResult_stored {s t : State} {g : Group} {e : MxEntry} {k : Check} {rows : List (Nat × List Word)} {n : Nat}
    (h : s.mmvResult g e k = .ok (t, rows, n)) : t.stored = s.stored := by
  dsimp only [State.mmvResult] at h
  iterate 3 (split at h; · cases h)
  split at h
  · cases h
  iterate 2 (split at h; · cases h)
  cases h; simp

@[simp] theorem State.mmvStream_stored (s : State) (c : CoreId) (ecc : Ecc) : (s.mmvStream c ecc).stored = s.stored := by
  dsimp only [State.mmvStream]
  split
  · rfl
  · split
    · rfl
    · split
      · simp
      · split
        · simp
        next h => simp [State.mmvResult_stored h]

end Sys2Proof.Machine
end

section
/-!
SUPPORT (O8). What writes memory keeps its canonical form.
-/
namespace Sys2Proof.Machine

/-- DRAM and every scratchpad are in canonical form. -/
def StoredOk (m : Mem × List Mem) : Prop := m.1.wf dramUnlisted = true ∧ ∀ l ∈ m.2, l.wf spmUnlisted = true

theorem State.memOk_iff {s : State} : s.memOk = true ↔ StoredOk s.stored := by
  unfold State.memOk State.stored StoredOk
  simp only [Bool.and_eq_true, List.all_eq_true, List.forall_mem_map]

/-! ### Writes -/

theorem StoredOk.of_mem {s t : State} (h : StoredOk s.stored) (hm : t.mem.wf dramUnlisted = true) (hc : t.cores = s.cores) : StoredOk t.stored := by
  refine ⟨hm, ?_⟩
  show ∀ l ∈ t.cores.map Core.spm, _
  rw [hc]
  exact h.2

theorem StoredOk.modCore {s : State} (h : StoredOk s.stored) {c : CoreId} {f : Core → Core}
    (hf : ∀ k : Core, k.spm.wf spmUnlisted = true → (f k).spm.wf spmUnlisted = true) : StoredOk (s.modCore c f).stored := by
  refine ⟨h.1, fun l hl => ?_⟩
  simp only [State.stored, State.modCore, List.map_map, List.mem_map, Function.comp_apply] at hl
  obtain ⟨k, hk, rfl⟩ := hl
  have hok := h.2 k.spm (List.mem_map_of_mem hk)
  split
  · exact hf k hok
  · exact hok

theorem StoredOk.foldl {α : Type} {f : State → α → State} (hf : ∀ t x, StoredOk t.stored → StoredOk (f t x).stored) (l : List α) {s : State}
    (h : StoredOk s.stored) : StoredOk (l.foldl f s).stored := by
  induction l generalizing s with
  | nil => exact h
  | cons x l ih => exact ih (hf s x h)

section
variable {s : State} (h : StoredOk s.stored)
include h

theorem StoredOk.dramPut (pa : Nat) (b : Byte) : StoredOk (s.dramPut pa b).stored := h.of_mem (State.dramPut_wf pa b h.1) rfl

theorem StoredOk.dramPuts (pa : Nat) (bs : List Byte) : StoredOk (s.dramPuts pa bs).stored := by
  induction bs generalizing s pa with
  | nil => exact h
  | cons b bs ih =>
    refine ih (StoredOk.foldl (fun t e ht => StoredOk.foldl (fun u i hu => ?_) _ ht) _ (h.dramPut pa b)) (pa + 1)
    exact hu.of_mem (wf_memPut hu.1) rfl

theorem StoredOk.dramZero (p : Nat → Bool) : StoredOk (s.dramZero p).stored := h.of_mem (State.dramZero_wf p h.1) rfl
theorem StoredOk.spmPuts (c : CoreId) (a : Nat) (bs : List Byte) : StoredOk (s.spmPuts c a bs).stored := h.modCore fun _ hk => wf_memPuts hk
theorem StoredOk.grpSpmPuts (g : Group) (off : Nat) (bs : List Byte) : StoredOk (s.grpSpmPuts g off bs).stored := h.spmPuts ..
theorem StoredOk.asRead (k : Check) : StoredOk (s.asRead k).stored := by
  unfold State.asRead
  split
  · exact .foldl (fun _ _ ht => .foldl (fun _ _ hu => hu.dramPut ..) _ ht) _ h
  · exact h

theorem StoredOk.memWrite (m : MemReq) (e : Ecc) : StoredOk (s.memWrite m e).stored := by
  have hperform : ∀ (t : State) (q : MemReq), StoredOk t.stored → StoredOk (q.bytes.foldl (fun a c => a.dramPuts (m.line + c.1) [c.2]) t).stored :=
    fun t q ht => .foldl (fun _ _ hu => hu.dramPuts ..) _ ht
  have hreply : ∀ (t : State) f, StoredOk t.stored → StoredOk (match m.ack with | some pid => t.respond pid f | none => t).stored := by
    intro t f ht; split <;> simpa
  unfold State.memWrite
  dsimp only
  split
  · split
    · exact hreply _ _ (hperform _ _ (by simpa))
    · split
      · exact hreply _ _ (hperform _ _ (by simpa))
      · simpa using hperform _ _ (by simpa)
  · exact hreply _ _ (hperform _ _ (StoredOk.asRead (by simpa) _))

theorem StoredOk.memPerform (m : MemReq) (e : Ecc) : StoredOk (s.memPerform m e).stored := by
  unfold State.memPerform
  split
  · simpa
  · exact h.memWrite m e

theorem StoredOk.serveAll (dies : BitVec 9) (bufs : BitVec 8) : StoredOk (s.serveAll dies bufs).stored := by
  exact .foldl (fun _ _ ht => ht.memPerform ..) _ (by simpa)

theorem StoredOk.revoked (wing : Nat) : StoredOk (s.revoked wing).stored := by
  unfold State.revoked
  dsimp only
  split
  · exact h
  · split
    · simpa
    · split
      · exact h
      · rw [State.modWing_stored]
        exact StoredOk.serveAll (by simpa) ..

theorem StoredOk.lateStep {t : State} (ht : s.lateStep = some t) : StoredOk t.stored := by
  unfold State.lateStep at ht
  split at ht
  · cases ht; simpa
  · obtain ⟨w, -, rfl⟩ := Option.map_eq_some_iff.mp ht
    exact h.revoked w.id

theorem StoredOk.spmServe (r : Req) : StoredOk (s.spmServe r).stored := by
  unfold State.spmServe
  split
  · rw [State.endReq_stored]
    refine .foldl (fun t p ht => ?_) _ h
    split
    · exact ht
    · exact ht.spmPuts ..
  · simpa

theorem StoredOk.serveBanks (c : CoreId) : StoredOk (s.serveBanks c).stored := by
  refine .foldl (fun t b ht => ?_) _ h
  split
  next r _ => simpa using ht.spmServe r
  · exact ht

theorem StoredOk.coreCycle (c : CoreId) : StoredOk (s.coreCycle c).stored := by
  have hserve : StoredOk (((s.feedWindows c).grantPorts c).serveBanks c).stored := StoredOk.serveBanks (by simpa) c
  unfold State.coreCycle
  dsimp only
  rw [State.foldl_stored fun _ _ => State.portTurn_stored .., State.foldl_stored fun _ _ => State.portTurn_stored .., State.ite_stored,
    State.modCore_stored _ _ (fun k => { k with busyBanks := [], granted := [] }) fun _ => rfl, ite_self,
    State.ite_stored, State.settle_stored, State.feedWindows_stored]
  split
  · exact hserve
  · exact h

theorem StoredOk.tick : StoredOk s.tick.stored := by
  have hcores : StoredOk ((s.cores.map (·.id)).foldl State.coreCycle s).stored := .foldl (fun _ _ ht => ht.coreCycle _) _ h
  simpa [State.tick] using hcores

theorem StoredOk.hbmServe (n ch : Nat) (e : Ecc) : StoredOk (s.hbmServe n ch e).stored := by
  unfold State.hbmServe
  dsimp only
  split
  · exact h
  · exact StoredOk.memPerform (by simpa) ..

theorem StoredOk.bufferServe (n : Nat) (e : Ecc) : StoredOk (s.bufferServe n e).stored := by
  unfold State.bufferServe
  split
  · exact h
  · exact StoredOk.memPerform (by simpa) ..

theorem StoredOk.bagDone (g : Group) (e : EngEntry) (c : PoolCmd) (status code : Nat) : StoredOk (s.bagDone g e c status code).stored := by
  have hput := h.grpSpmPuts g (c.stOff + 4 * e.done) (leBytes 4 status)
  simp only [State.bagDone]
  split <;> simpa

theorem StoredOk.bagWrite {t : State} {g : Group} {c : PoolCmd} {b : Nat} {bs : List Byte} (ht : s.bagWrite g c b bs = .ok t) :
    StoredOk t.stored := by
  unfold State.bagWrite at ht
  dsimp only at ht
  split at ht
  · cases ht; exact h.grpSpmPuts ..
  · split at ht <;> cases ht
    simpa

theorem StoredOk.takeBag (c : CoreId) : StoredOk (s.takeBag c).stored := by
  unfold State.takeBag
  split
  · exact h
  · split
    · exact h
    · dsimp only
      split
      · simpa
      · split
        · exact h.bagDone ..
        · split
          · split
            · simpa
            next hw => exact (h.bagWrite hw).bagDone ..
          · split
            · simpa
            · split
              · simpa using h.bagDone ..
              · exact h.bagDone ..
end

section
variable {s : State} (h : StoredOk s.stored)
include h

theorem StoredOk.of_eq {t : State} (ht : t.stored = s.stored) : StoredOk t.stored := by rwa [ht]
theorem StoredOk.combine (c : CoreId) : StoredOk (s.combine c).stored := by
  unfold State.combine
  split
  next g e b _ _ =>
    dsimp only
    split
    · exact h
    · split
      · split
        · simpa
        next hw => simpa using ((h.of_eq (by simp)).bagWrite hw |>.of_eq (by simp)).bagDone g e _ _ _
      · split
        · simpa
        next hw => exact (h.bagWrite hw |>.of_eq (by simp)).bagDone g e _ _ _
  · exact h

theorem StoredOk.deliver (c : CoreId) (ch : Nat) (ecc : Ecc) : StoredOk (s.deliver c ch ecc).stored := by
  unfold State.deliver
  split
  · exact h
  split
  · exact h
  dsimp only
  split
  · exact h
  split
  · simpa
  split
  · simpa
  split
  · simpa using StoredOk.grpSpmPuts (by simpa) ..
  · split <;> simpa

theorem StoredOk.play (g : Group) (c : PlayCmd) (a : Arena) (p : PlayPages) (ck : Check) : StoredOk (s.play g c a p ck).stored := by
  simpa [State.play] using StoredOk.grpSpmPuts (by simpa) ..

theorem StoredOk.binplay (c : CoreId) (ecc : Ecc) : StoredOk (s.binplay c ecc).stored := by
  unfold State.binplay
  split
  · exact h
  split
  · exact h
  split
  · simpa
  dsimp only
  split
  · simpa
  split
  · simpa
  · simpa using StoredOk.play (by simpa) ..

theorem StoredOk.storeRows (g : Group) (glob bf : Bool) (a pitch : Nat) (rows : List (Nat × List Word)) :
    StoredOk (s.storeRows g glob bf a pitch rows).1.stored := by
  induction rows generalizing s with
  | nil => exact h
  | cons r rows ih =>
    unfold State.storeRows
    dsimp only
    split
    · split
      · simpa
      · exact ih (by simpa)
    · exact ih (h.grpSpmPuts ..)
/-- A state that the start of a matrix entry leaves. -/
def MxStart.states : MxStart → List State
  | .run s _ _ => [s]
  | .stream => []
  | .done s => [s]
  | .fail s _ => [s]

theorem StoredOk.mxBegin (g : Group) (e : MxEntry) (ecc : Ecc) : ∀ t ∈ (s.mxBegin g e ecc).states, StoredOk t.stored := by
  unfold State.mxBegin
  dsimp only
  split
  · split <;> simpa [MxStart.states]
  · simp [MxStart.states]
  · simpa [MxStart.states]
  · split
    · simpa [MxStart.states]
    · split
      · simpa [MxStart.states]
      next hl => simpa [MxStart.states, State.loadRows_stored hl]
  · have hrows := fun glob bf a pitch rows => h.storeRows g glob bf a pitch rows
    split <;> simpa [MxStart.states] using hrows ..
  · simpa [MxStart.states]

theorem StoredOk.mxStart (c : CoreId) (ecc : Ecc) : StoredOk (s.mxStart c ecc).stored := by
  unfold State.mxStart
  split
  · exact h
  next g e _ =>
    split
    · exact h
    · have hstart := StoredOk.mxBegin (s := s.useBanks g (s.mxRuns g e)) (by simpa) g e ecc
      dsimp only
      split
      next heq => simpa using hstart _ (by rw [heq]; exact List.mem_singleton_self _)
      next heq => simpa using hstart _ (by rw [heq]; exact List.mem_singleton_self _)
      · simpa
      next heq => simpa using hstart _ (by rw [heq]; exact List.mem_singleton_self _)

theorem StoredOk.restore {t : State} {st : Word} {g : Group} {hd : Header} {img : List Byte} (ht : s.restore g hd img = .ok (t, st)) :
    StoredOk t.stored := by
  dsimp only [State.restore] at ht
  split at ht
  · cases ht; exact h
  · split at ht <;> cases ht
    simpa using StoredOk.grpSpmPuts (by simpa) ..

theorem StoredOk.restoreCopy {t : State} {st : Word} {c : CoreId} {hd : Header} (ht : s.restoreCopy c hd = .ok (t, st)) : StoredOk t.stored := by
  dsimp only [State.restoreCopy] at ht
  split at ht
  · cases ht; exact h
  · split at ht <;> cases ht
    split
    · exact h
    next hr _ => exact StoredOk.restore (s := { (s.freeBytes _).1 with groups := _ }) (by simpa) hr

theorem StoredOk.resetCore (c : CoreId) : StoredOk (s.resetCore c).stored :=
  h.modCore (c := c) (f := fun k => { Core.reset c with fenced := k.fenced, notices := k.notices }) fun _ _ => rfl

theorem StoredOk.resetCores (d : Nat) : StoredOk (s.resetCores d).stored := by
  rw [State.resetCores, State.modDie_stored]
  exact .foldl (fun _ _ ht => ht.resetCore _) _ h

theorem StoredOk.dieZeroed (d : Nat) : StoredOk (s.dieZeroed d).stored := by
  dsimp only [State.dieZeroed]
  split
  · exact h
  · simpa using StoredOk.resetCores (by simpa) ..

theorem StoredOk.stackZeroed (d : Nat) : StoredOk (s.stackZeroed d).stored := by
  dsimp only [State.stackZeroed]
  split
  · exact h
  · simpa using StoredOk.dramZero (by simpa) ..

theorem StoredOk.bufferZeroed (d : Nat) : StoredOk (s.bufferZeroed d).stored := by
  dsimp only [State.bufferZeroed]
  split
  · exact h
  · simpa using StoredOk.dramZero (by simpa) ..

theorem StoredOk.drain : StoredOk s.drain.stored :=
  .foldl (fun _ _ ht => .foldl (fun _ _ hu => hu.dramPuts ..) _ ht) _ h

theorem StoredOk.warm : StoredOk s.warm.stored := by
  refine ⟨h.drain.1, List.forall_mem_map.mpr fun k hk => ?_⟩
  obtain ⟨k', -, rfl⟩ := List.mem_map.mp hk
  rfl

theorem StoredOk.mgmtWrite (r : MgmtReg) (v : DWord) : StoredOk (s.mgmtWrite r v).stored := by
  cases r <;> dsimp only [State.mgmtWrite]
  case hmcfg n => split <;> simpa
  case hmstat n => split <;> simpa
  case hmerr => exact h
  case reset =>
    split
    · exact h.warm
    · exact h
  case powerCap => exact h
  case descBase => exact h

theorem StoredOk.stopCores (d : Nat) (to_ : Domain) (rep : Option TrapRec) : StoredOk (s.stopCores d to_ rep).stored := by
  simpa [State.stopCores] using StoredOk.resetCores (by simpa) ..

theorem StoredOk.fenceDie (d : Nat) : StoredOk (s.fenceDie d).stored := by
  unfold State.fenceDie
  split
  · exact h
  · simpa using h.stopCores ..

theorem StoredOk.fenceUnit (u : Unit') : StoredOk (s.fenceUnit u).stored := by
  cases u
  case die d => exact h.fenceDie d
  case stack d => simpa [State.fenceUnit]
  case buffer n => simpa [State.fenceUnit]

theorem StoredOk.loadCurator (d : Nat) : StoredOk (s.loadCurator d).stored := by
  dsimp only [State.loadCurator]
  split
  · exact h
  · simpa using h.resetCore _

theorem StoredOk.stage1 (failed : List Unit') (slowRows : List (Nat × Nat × Nat)) : StoredOk (s.stage1 failed slowRows).stored := by
  have hfail : StoredOk (failed.foldl State.fenceUnit s).stored := .foldl (fun _ _ ht => ht.fenceUnit _) _ h
  dsimp only [State.stage1]
  split
  · exact h
  · refine .foldl (fun _ _ ht => ht.loadCurator _) _ ?_
    split <;> simpa using hfail
end

end Sys2Proof.Machine
end

section
/-!
SUPPORT (O8). The shapes of an instruction: memory stays in canonical form over each.
-/
namespace Sys2Proof.Machine

/-- An outcome leaves memory in canonical form, where it leaves a state. -/
def ResultOk : Result → Prop
  | .next t => StoredOk t.stored
  | .fault _ => True
  | .refused _ => True

@[simp] theorem ResultOk_next {t : State} : ResultOk (.next t) ↔ StoredOk t.stored := Iff.rfl
@[simp] theorem ResultOk_fault {f : Fault} : ResultOk (.fault f) := trivial

theorem ResultOk.ite {p : Prop} [Decidable p] {r q : Result} (hr : ResultOk r) (hq : ResultOk q) : ResultOk (if p then r else q) := by
  split
  · exact hr
  · exact hq

/-- The state that a thread's work leaves. -/
def ThreadRes.state : ThreadRes → State
  | .done s _ => s
  | .fault s _ _ _ => s

@[simp] theorem State.binThread_stored (s : State) (g : Group) (w : Warp) (x : LongOp) (a : Arena) (abase t : Nat) (claim : Option Nat) :
    (s.binThread g w x a abase t claim).state.stored = s.stored := by
  dsimp only [State.binThread]
  (repeat' split) <;> simp [ThreadRes.state]

@[simp] theorem State.routeThread_stored (s : State) (g : Group) (w : Warp) (x : LongOp) (h : RouteHdr) (rbase t : Nat) (claim : Option
    (Nat × Bool)) :
    (s.routeThread g w x h rbase t claim).state.stored = s.stored := by
  dsimp only [State.routeThread]
  split
  · (repeat' split) <;> simp [ThreadRes.state]
  · split
    · rfl
    next hc => (repeat' split) <;> simp [ThreadRes.state, State.routeClaim_stored hc]

theorem runThreads_stored {f : State → Warp → Nat → Option (Nat × Bool) → ThreadRes} (hf : ∀ s w t cl, (f s w t cl).state.stored = s.stored)
    (s : State) (w : Warp) (cl : Option (Nat × Bool)) (ts : List Nat) : (runThreads f s w cl ts).state.stored = s.stored := by
  induction ts generalizing s w cl with
  | nil => rfl
  | cons t ts ih =>
    have hthread := hf s w t cl
    unfold runThreads
    split
    next heq => rw [ih]; rwa [heq] at hthread
    · exact hthread

/-- The states that the checks of a command leave. -/
def CmdRes.states : CmdRes → List State
  | .bad s _ => [s]
  | .wait _ => []
  | .good s _ => [s]

section
variable {s : State} (h : StoredOk s.stored)
include h

/-! ### The shapes of an instruction -/

theorem ResultOk.issue {opc : BitVec 8} {x : LongOp} {f : Warp → Result} (hf : ∀ w, ResultOk (f w)) : ResultOk (s.issue opc x f) := by
  unfold State.issue
  (repeat' split) <;> simp [h, hf]

theorem ResultOk.issueWarp {opc : BitVec 8} {x : LongOp} {f : Warp → Result} (hf : ∀ w, ResultOk (f w)) : ResultOk (s.issueWarp opc x f) :=
  .issue h fun w => .ite (hf w) (by simpa)

theorem ResultOk.issueCurator {opc : BitVec 8} {x : LongOp} {f : Warp → Result} (hf : ∀ w, ResultOk (f w)) : ResultOk (s.issueCurator opc x f) :=
  .issueWarp h fun w => .ite (hf w) (by simpa)

theorem ResultOk.issueAlu {len : Nat} {opc : BitVec 8} {x : LongOp} {op : Alu} : ResultOk (s.issueAlu len opc x op) :=
  .issue h fun w => by split <;> simpa

theorem ResultOk.issueShort {sopc : BitVec 6} {x : ShortOp} {opc : BitVec 8} {op : LongOp → Alu} : ResultOk (s.issueShort sopc x opc op) := by
  unfold State.issueShort
  (repeat' split) <;> simp [h, ResultOk.issueAlu]

theorem ResultOk.issueCross {opc : BitVec 8} {x : LongOp} {op : Cross} : ResultOk (s.issueCross opc x op) :=
  .issue h fun w => .ite (by simpa) (.ite (by simpa) (by simpa))

theorem ResultOk.issueShortCtl {sopc : BitVec 6} {x : ShortOp} {f : Warp → LongOp → Result} (hf : ∀ w y, ResultOk (f w y)) :
    ResultOk (s.issueShortCtl sopc x f) := by
  unfold State.issueShortCtl
  (repeat' split) <;> simp [h, hf]

theorem ResultOk.control {w : Warp} {x : LongOp} {len : Nat} {f : Result} (hf : ResultOk f) : ResultOk (s.control w x len f) :=
  .ite hf (by simpa)

theorem ResultOk.perThread {w : Warp} {x : LongOp} {cls : Cls} {check : Group → Nat → AccRes} {go : Group → List Acc → Result}
    (hgo : ∀ g accs, ResultOk (go g accs)) : ResultOk (s.perThread w x cls check go) := by
  unfold State.perThread
  dsimp only
  (repeat' split) <;> simp [h, hgo]

theorem ResultOk.counterAccess {w : Warp} {x : LongOp} {cls : Cls} {k : Kind} {go : Group → List Acc → Result}
    (hgo : ∀ g accs, ResultOk (go g accs)) : ResultOk (s.counterAccess w x cls k go) := by
  unfold State.counterAccess
  dsimp only
  (repeat' split) <;> simp [h, hgo]

theorem ResultOk.localCounter {w : Warp} {ctr : Nat} {go : Group → DWord → Result} (hgo : ∀ g v, ResultOk (go g v)) :
    ResultOk (s.localCounter w ctr go) := .ite (by simpa) (.ite (by simpa) (hgo ..))

theorem ResultOk.packetAt {w : Warp} {k : Kind} {off : Nat} {go : Group → Result} (hgo : ∀ g, ResultOk (go g)) :
    ResultOk (s.packetAt w k off go) := .ite (by simpa) (.ite (by simpa) (.ite (by simpa) (hgo _)))

theorem ResultOk.command {w : Warp} {x : LongOp} {n size : Nat} {trapT : Bool} {ctr : List Byte → Nat × CtrRef} {more : Group → List Byte → CmdRes}
    (hmore : ∀ g b, ∀ t ∈ (more g b).states, t.stored = s.stored) : ResultOk (s.command w x n size trapT ctr more) := by
  have hchecks : ∀ off g b, ∀ t ∈ (if off = true then CmdRes.good s [] else more g b).states, t.stored = s.stored := fun off g b => by
    split
    · simp [CmdRes.states]
    · exact hmore g b
  unfold State.command
  dsimp only
  refine .ite (by simpa) (.ite (by simpa) (.ite (by simpa) ?_))
  split
  · simpa
  split
  next hr => simpa [hchecks _ _ _ _ (by rw [hr]; exact List.mem_singleton_self _)]
  · simpa
  next hr =>
    have hs1 := hchecks _ _ _ _ (by rw [hr]; exact List.mem_singleton_self _)
    split <;> simpa [hs1]

theorem ResultOk.serial {w : Warp} {x : LongOp} {f : State → Warp → Nat → Option (Nat × Bool) → ThreadRes}
    (hf : ∀ s w t cl, (f s w t cl).state.stored = s.stored) : ResultOk (s.serial w x f) := by
  unfold State.serial
  dsimp only
  split
  next hr =>
    have hs1 := runThreads_stored hf s w _ _ |>.symm.trans (congrArg (·.state.stored) hr)
    simpa [ThreadRes.state] using h.of_eq hs1.symm
  next hr =>
    have hs1 := runThreads_stored hf s w _ _ |>.symm.trans (congrArg (·.state.stored) hr)
    simpa [ThreadRes.state] using h.of_eq hs1.symm

theorem ResultOk.tileInstr {opc : BitVec 8} {x : LongOp} {idxs : List Nat} {a b c : Src}
    {reject : Group → List (Option Fmt) → DWord → DWord → DWord → Option Nat} : ResultOk (s.tileInstr opc x idxs a b c reject) := by
  refine .issue h fun w => ?_
  dsimp only
  (repeat' split) <;> simpa

theorem ResultOk.issueRun {opc : BitVec 8} {x : LongOp} : ResultOk (s.issueRun opc x) := by
  unfold State.issueRun State.runEntry State.runForm
  dsimp only
  (repeat' split) <;> simp [h]

theorem ResultOk.branch {w : Warp} {x : LongOp} {len : Nat} {reg : Bool} {tgt : Nat → Nat} {lnk : Option Sel} {cost : Nat} :
    ResultOk (s.branch w x len reg tgt lnk cost) := by
  unfold State.branch
  dsimp only
  (repeat' split) <;> simpa

/-! ### Memory instructions -/

theorem ResultOk.loadPlain {w : Warp} {x : LongOp} : ResultOk (s.loadPlain w x) := .ite (by simpa) (.perThread h fun g accs => by simpa)
theorem ResultOk.loadDec {w : Warp} {x : LongOp} : ResultOk (s.loadDec w x) := .ite (by simpa) (.perThread h fun g accs => by simpa)
theorem ResultOk.storePlain {w : Warp} {x : LongOp} : ResultOk (s.storePlain w x) := .ite (by simpa) (.perThread h fun g accs => by simpa)
theorem ResultOk.storeEnc {w : Warp} {x : LongOp} : ResultOk (s.storeEnc w x) :=
  .ite (by simpa) (.perThread h fun g accs => .ite (by simpa) (by simpa))

theorem ResultOk.loadUniform {w : Warp} {x : LongOp} : ResultOk (s.loadUniform w x) := by
  refine .ite (by simpa) (.ite (by simpa) ?_)
  split <;> simpa

theorem ResultOk.gather {w : Warp} {x : LongOp} : ResultOk (s.gather w x) := by
  unfold State.gather
  exact .perThread h fun g accs => by simpa

theorem ResultOk.lineOps {w : Warp} {x : LongOp} {kind : ReqKind} {cls : Cls} {whole : Bool} : ResultOk (s.lineOps w x kind cls whole) :=
  .perThread h fun g accs => .ite (by simpa) (by simpa)

theorem ResultOk.prefetch {w : Warp} {x : LongOp} : ResultOk (s.prefetch w x) := .ite (by simpa) (.lineOps h)
theorem ResultOk.atomic {w : Warp} {x : LongOp} {cls : Cls} {offset : Bool} {form : LdForm} {kind : Nat → ReqKind} :
    ResultOk (s.atomic w x cls offset form kind) := by
  refine .ite (by simpa) (.ite (by simpa) (.perThread h fun g accs => ?_))
  dsimp only
  (repeat' split) <;> simpa

theorem ResultOk.fence {w : Warp} {x : LongOp} : ResultOk (s.fence w x) := by
  refine .ite (by simpa) ?_
  (repeat' split) <;> simpa

theorem ResultOk.promote {w : Warp} {x : LongOp} : ResultOk (s.promote w x) := .ite (by simpa) (by simpa)
theorem ResultOk.loadAcquire {w : Warp} {x : LongOp} : ResultOk (s.loadAcquire w x) := by
  refine .ite (by simpa) (.perThread h fun g accs => .ite (by simpa) ?_)
  dsimp only
  split <;> simpa

theorem ResultOk.storeRelease {w : Warp} {x : LongOp} : ResultOk (s.storeRelease w x) := by
  unfold State.storeRelease
  exact .perThread h fun g accs => by simpa

/-! ### Control -/

theorem ResultOk.exit {w : Warp} {x : LongOp} {len : Nat} : ResultOk (s.exit w x len) := .ite (by simpa) (.ite (by simpa) (by simpa))
theorem ResultOk.yield {w : Warp} {x : LongOp} {len : Nat} : ResultOk (s.yield w x len) := .control h (by simpa)
theorem ResultOk.waitc {w : Warp} {x : LongOp} : ResultOk (s.waitc w x) := .ite (by simpa) (by simpa)

/-! ### Counters -/

theorem ResultOk.caddGlobal {w : Warp} {x : LongOp} : ResultOk (s.caddGlobal w x) := by
  unfold State.caddGlobal
  refine .counterAccess h fun g accs => ?_
  dsimp only
  split <;> simpa

theorem ResultOk.caddLocal {w : Warp} {x : LongOp} : ResultOk (s.caddLocal w x) := by
  unfold State.caddLocal
  refine .localCounter h fun g v => ?_
  dsimp only
  split <;> simpa

theorem ResultOk.cwaitGlobal {w : Warp} {x : LongOp} : ResultOk (s.cwaitGlobal w x) := .counterAccess h fun g accs => by simpa
theorem ResultOk.cwaitLocal {w : Warp} {x : LongOp} : ResultOk (s.cwaitLocal w x) := .localCounter h fun g v => .ite (by simpa) (by simpa)
theorem ResultOk.creadGlobal {w : Warp} {x : LongOp} : ResultOk (s.creadGlobal w x) := .ite (by simpa) (.counterAccess h fun g accs => by simpa)
theorem ResultOk.creadLocal {w : Warp} {x : LongOp} : ResultOk (s.creadLocal w x) := .localCounter h fun g v => by simpa
theorem ResultOk.bar {w : Warp} {x : LongOp} : ResultOk (s.bar w x) := by
  unfold State.bar
  exact .localCounter h fun g v => by simpa

theorem ResultOk.barsig {w : Warp} {x : LongOp} : ResultOk (s.barsig w x) := by
  unfold State.barsig
  exact .localCounter h fun g v => by simpa

/-! ### Engines -/

theorem ResultOk.qfence {w : Warp} {x : LongOp} : ResultOk (s.qfence w x) := by
  unfold State.qfence
  dsimp only
  split
  · simpa
  refine .ite (by simpa) (.ite (by simpa) (.ite ?_ (.ite (by simpa) ?_)))
  · split
    next ha => simpa [State.engineAdd_stored ha]
    · simpa
  · split <;> simpa

theorem ResultOk.binInstr {w : Warp} {x : LongOp} : ResultOk (s.binInstr w x) := by
  refine .ite (by simpa) (.ite (by simpa) ?_)
  split
  · simpa
  · exact .ite (by simpa) (.serial (by simpa) fun _ _ _ _ => State.binThread_stored ..)

theorem ResultOk.routeInstr {w : Warp} {x : LongOp} : ResultOk (s.routeInstr w x) := by
  refine .ite (by simpa) (.ite (by simpa) (.ite (by simpa) ?_))
  split
  · simpa
  · exact .ite (by simpa) (.serial (by simpa) fun _ _ _ _ => State.routeThread_stored ..)

theorem ResultOk.mbatch {w : Warp} {x : LongOp} : ResultOk (s.mbatch w x) := by
  unfold State.mbatch
  dsimp only
  split
  · simpa
  · exact .ite (by simpa) (.ite (by simpa) (by simpa))

theorem ResultOk.mwait {w : Warp} {x : LongOp} : ResultOk (s.mwait w x) := .ite (by simpa) (by simpa)
theorem ResultOk.mmalOpen {w : Warp} {x : LongOp} {g : Group} : ResultOk (s.mmalOpen w x g) := by
  unfold State.mmalOpen
  dsimp only
  (repeat' split) <;> simpa

theorem ResultOk.mmal {w : Warp} {x : LongOp} : ResultOk (s.mmal w x) := by
  unfold State.mmal
  dsimp only
  split
  · exact .mmalOpen h
  · (repeat' split) <;> simpa

/-! ### The curator -/

theorem ResultOk.mbxrd {w : Warp} {x : LongOp} {off : Nat} {g : Group} : ResultOk (s.mbxrd w x off g) := by
  unfold State.mbxrd
  dsimp only
  split
  · simpa using StoredOk.grpSpmPuts (by simpa) ..
  · exact .ite (by simpa) (by simpa)

theorem ResultOk.fwd {w : Warp} {x : LongOp} {off die : Nat} {g : Group} : ResultOk (s.fwd w x off die g) :=
  .ite (by simpa) (.ite (by simpa) (by simpa))

theorem ResultOk.tretDone {w : Warp} {x : LongOp} {st : Word} : ResultOk (s.tretDone w x st) := by simpa [State.tretDone]
theorem ResultOk.tret {w : Warp} {x : LongOp} {go : State → Header → List Byte → CoreId → Result}
    (hgo : ∀ t hd img c, StoredOk t.stored → ResultOk (go t hd img c)) : ResultOk (s.tret w x go) := by
  unfold State.tret
  dsimp only
  refine .ite (by simpa) ?_
  split
  · simpa
  · exact .ite (by simpa) (hgo _ _ _ _ (by simpa))
end

end Sys2Proof.Machine
end

section
/-!
SETTLED. Every step keeps the canonical form of memory (O8).
-/
namespace Sys2Proof.Machine

theorem StoredOk.ite {p : Prop} [Decidable p] {t u : State} (ht : StoredOk t.stored) (hu : StoredOk u.stored) :
    StoredOk (if p then t else u).stored := by
  split
  · exact ht
  · exact hu

theorem StoredOk.reset : StoredOk State.reset.stored := by
  refine ⟨rfl, List.forall_mem_map.mpr fun k hk => ?_⟩
  obtain ⟨d, -, hk⟩ := List.mem_flatMap.mp hk
  obtain ⟨n, -, rfl⟩ := List.mem_map.mp hk
  rfl

section
variable {s : State} (h : StoredOk s.stored)
include h

theorem StoredOk.ccp {m : Ccp} {ty : Nat} {f : State → State} (hf : ∀ t, StoredOk t.stored → StoredOk (f t).stored) :
    StoredOk (s.ccp m ty f).stored := by
  have haccept := hf (s.ccpAccept m) (by simpa)
  unfold State.ccp
  dsimp only
  (repeat' split) <;> simp [h, haccept]

theorem ResultOk.execZeroingComplete {u : Unit'} : ResultOk (execZeroingComplete u s) := by
  cases u
  case die d => exact h.dieZeroed d
  case stack d => exact h.stackZeroed d
  case buffer n => exact h.bufferZeroed n

theorem ResultOk.nop {w : Warp} {len : Nat} : ResultOk (s.nop w len) := h.of_eq (by simp)
theorem ResultOk.ret {w : Warp} {x : LongOp} {len : Nat} : ResultOk (s.ret w x len) := by
  unfold State.ret
  exact .branch h

theorem ResultOk.execNopShort {x : ShortOp} : ResultOk (execNopShort x s) := by
  unfold Machine.execNopShort
  exact .issueShortCtl h fun w y => .nop h

theorem ResultOk.execYieldShort {x : ShortOp} : ResultOk (execYieldShort x s) := by
  unfold Machine.execYieldShort
  exact .issueShortCtl h fun w y => .yield h

theorem ResultOk.execExitShort {x : ShortOp} : ResultOk (execExitShort x s) := by
  unfold Machine.execExitShort
  exact .issueShortCtl h fun w y => .exit h

theorem ResultOk.execRetShort {x : ShortOp} : ResultOk (execRetShort x s) := by
  unfold Machine.execRetShort
  exact .issueShortCtl h fun w y => .ret h

theorem ResultOk.execOtherWarpsResume {c : CoreId} : ResultOk (execOtherWarpsResume c s) :=
  h.of_eq (State.modCore_stored _ _ _ fun k => by (repeat' split) <;> rfl)

theorem ResultOk.execIllegalEncoding {x : Illegal} : ResultOk (execIllegalEncoding x s) := by
  unfold Machine.execIllegalEncoding
  (repeat' split) <;> simp [h]

theorem ResultOk.execCopy {x : LongOp} : ResultOk (execCopy x s) := by
  refine .issue h fun w => .command h fun g b => ?_
  split <;> simp [CmdRes.states]

theorem ResultOk.execBinplay {x : LongOp} : ResultOk (execBinplay x s) := by
  refine .issue h fun w => .command h fun g b => ?_
  dsimp only
  (repeat' split) <;> simp [CmdRes.states]

theorem ResultOk.execEmbpool {x : LongOp} : ResultOk (execEmbpool x s) := by
  refine .issue h fun w => .command h fun g b => ?_
  split <;> simp [CmdRes.states]

theorem ResultOk.execFork {x : LongOp} : ResultOk (execFork x s) := by
  refine .issueWarp h fun w => .ite (h.of_eq (by simp)) (.ite (h.of_eq (by simp)) ?_)
  split
  · exact h.of_eq (by simp)
  next hf => exact h.of_eq (by simp [State.fork_stored hf])

theorem ResultOk.execTretRes {x : LongOp} : ResultOk (execTretRes x s) := by
  refine .issueCurator h fun w => .tret h fun t hd img c ht => ?_
  split
  · refine .ite (.tretDone ht) ?_
    split
    · exact ht.of_eq (by simp)
    next hr => exact .tretDone (ht.restoreCopy hr)
  · refine .ite (.tretDone ht) (.ite (.tretDone ht) ?_)
    split
    · exact ht.of_eq (by simp)
    next hr => exact .tretDone (ht.restore hr)

theorem ResultOk.execTretKill {x : LongOp} : ResultOk (execTretKill x s) := by
  refine .issueCurator h fun w => .tret h fun t hd img c ht => ?_
  split
  · exact .tretDone ht
  · exact .tretDone (by simpa)

theorem ResultOk.execRotDemotion {id : WarpId} : ResultOk (execRotDemotion id s) := by
  unfold Machine.execRotDemotion
  split
  · exact h
  · exact StoredOk.ite (h.of_eq (by simp)) h

theorem ResultOk.execStackFence {u : Unit'} : ResultOk (execStackFence u s) := by
  refine StoredOk.ite ?_ h
  cases u
  case die d => exact h
  case stack d => exact h.of_eq (by simp)
  case buffer n => exact h.of_eq (by simp)

theorem ResultOk.execSlotBoundary : ResultOk (execSlotBoundary s) := StoredOk.ite (h.of_eq (by simp)) (h.of_eq (by simp))
theorem ResultOk.execSpawn {x : LongOp} : ResultOk (execSpawn x s) := by
  refine .issueCurator h fun w => .packetAt h fun g => ?_
  dsimp only
  split <;> simpa

theorem ResultOk.execPortFrameReceive {port : Nat} {kind : FrameKind} : ResultOk (execPortFrameReceive port kind s) := by
  unfold Machine.execPortFrameReceive
  split <;> simpa

theorem ResultOk.execMma {x : LongOp} : ResultOk (execMma x s) := by unfold Machine.execMma; exact .tileInstr h
theorem ResultOk.execMmv {x : LongOp} : ResultOk (execMmv x s) := by unfold Machine.execMmv; exact .tileInstr h
theorem ResultOk.execMzero {x : LongOp} : ResultOk (execMzero x s) := by unfold Machine.execMzero; exact .tileInstr h
theorem ResultOk.execMlda {x : LongOp} : ResultOk (execMlda x s) := by unfold Machine.execMlda; exact .tileInstr h
theorem ResultOk.execMsta {x : LongOp} : ResultOk (execMsta x s) := by unfold Machine.execMsta; exact .tileInstr h

/-- Whatever an instruction or event does, memory stays in canonical form. -/
theorem ResultOk.exec (i : Instr) : ResultOk (exec i s) := by
  cases i
  case movShort | iaddShort | isubShort | imulShort | iminShort | imaxShort | inegShort | iabsShort | andShort | orShort | xorShort | notShort |
      shlShort | shrShort | sarShort | popcShort | clzShort | ctzShort | brevShort | faddShort | fsubShort | fmulShort | fminShort | fmaxShort |
      faddPackedShort | fmulPackedShort | rcpShort | rsqShort | sqrtShort | exp2Short | log2Short | sinShort | cosShort | tanhShort | cvtShort =>
    exact .issueShort h
  case iadd | isub | imul | imulh | imad | imin | imax | iabs | ineg | idiv | lea | iset | sel | mov | idp4 | plop | andB | orB | xorB | btab | notB
      | shl | shr | sar | shf | bfe | bfi | popc | clz | ctz | brev | fadd | fsub | fmul | ffma | fmin | fmax | fset | fclass | frnd | fdot2 |
      fscale | cvt | rcp | rsq | sqrt | exp2 | log2 | sin | cos | tanh | fdiv =>
    exact .issueAlu h
  case cvtpk | cvtupk => exact .ite (.issueAlu h) (.issueRun h)
  case shfl | poll | redx | redxi | scan | matchT | elect | isect | brank | treestep => exact .issueCross h
  case kset | kmov => exact .issue h fun w => h.of_eq (by simp)
  case illegalEncoding x => exact .execIllegalEncoding h
  case bra | brx => exact .issue h fun w => .branch h
  case ret => exact .issue h fun w => .ret h
  case call => exact .issue h fun w => .ite (.branch h) (.branch h)
  case reconv | execMask | sleep => exact .issue h fun w => .control h (h.of_eq (by simp))
  case waitc => exact .issue h fun w => .control h (.waitc h)
  case yield => exact .issue h fun w => .yield h
  case exit => exact .issue h fun w => .exit h
  case nop => exact .issue h fun w => .nop h
  case trap | bkpt | setsys | time => exact .issueWarp h fun w => h.of_eq (by simp)
  case ld => exact .issue h fun w => .loadPlain h
  case ldDec => exact .issue h fun w => .loadDec h
  case st => exact .issue h fun w => .storePlain h
  case stEnc => exact .issue h fun w => .storeEnc h
  case ldu => exact .issue h fun w => .loadUniform h
  case ldg => exact .issue h fun w => .gather h
  case pref => exact .issue h fun w => .prefetch h
  case cctl => exact .issue h fun w => .lineOps h
  case atom | atomcas | red => exact .issue h fun w => .atomic h
  case ldacq => exact .issue h fun w => .loadAcquire h
  case strel => exact .issue h fun w => .storeRelease h
  case mmal => exact .issue h fun w => .mmal h
  case bin => exact .issue h fun w => .binInstr h
  case route => exact .issue h fun w => .routeInstr h
  case fence => exact .issueWarp h fun w => .fence h
  case promote => exact .issueWarp h fun w => .promote h
  case bar => exact .issueWarp h fun w => .bar h
  case barsig => exact .issueWarp h fun w => .barsig h
  case mbatch => exact .issueWarp h fun w => .mbatch h
  case mwait => exact .issueWarp h fun w => .mwait h
  case cadd => exact .issueWarp h fun w => .ite (.caddGlobal h) (.caddLocal h)
  case cwait => exact .issueWarp h fun w => .ite (.cwaitGlobal h) (.cwaitLocal h)
  case cread => exact .issueWarp h fun w => .ite (.creadGlobal h) (.creadLocal h)
  case copy => exact .execCopy h
  case binplay => exact .execBinplay h
  case embpool => exact .execEmbpool h
  case cptr => exact .issue h fun w => .ite (h.of_eq (by simp)) (h.of_eq (by simp))
  case qfence => exact .issue h fun w => .ite (.qfence h) (h.of_eq (by simp))
  case mma => exact .execMma h
  case mmv => exact .execMmv h
  case mzero => exact .execMzero h
  case mlda => exact .execMlda h
  case msta => exact .execMsta h
  case nopShort => exact .execNopShort h
  case yieldShort => exact .execYieldShort h
  case exitShort => exact .execExitShort h
  case retShort => exact .execRetShort h
  case spawn => exact .execSpawn h
  case slotBoundary => exact .execSlotBoundary h
  case portFrameReceive => exact .execPortFrameReceive h
  case otherWarpsResume => exact .execOtherWarpsResume h
  case fork => exact .execFork h
  case mbxrd => exact .issueCurator h fun w => .packetAt h fun g => .mbxrd h
  case fwd => exact .issueCurator h fun w => .packetAt h fun g => .fwd h
  case getsys => exact .issueWarp h fun w => .ite (h.of_eq (by simp)) (.ite (.ite (h.of_eq (by simp)) (h.of_eq (by simp))) (h.of_eq (by simp)))
  case setsysAsgen => exact .issueCurator h fun w => .ite (h.of_eq (by simp)) (.ite (h.of_eq (by simp)) (h.of_eq (by simp)))
  case setsysCtxpush => exact .issueCurator h fun w => .ite (h.of_eq (by simp)) (h.of_eq (by simp))
  case setsysPreempt => exact .issueCurator h fun w => h.of_eq (by simp)
  case tretRes => exact .execTretRes h
  case tretKill => exact .execTretKill h
  case hbmAccess n ch e => exact h.hbmServe ..
  case bufferAccess n e => exact h.bufferServe ..
  case bagTakeUp c e => exact h.takeBag c
  case partialVectorCombine c => exact h.combine c
  case deliveryUnitPerformed c ch e => exact h.deliver ..
  case binplayEntry c e => exact h.binplay ..
  case matrixEntryStart c e => exact h.mxStart ..
  case keyrevokeComplete w => exact h.revoked w
  case warmReset => exact h.warm
  case stage1Reached f r => exact h.stage1 f r
  case dieFence d => exact h.fenceDie d
  case zeroingComplete u => exact .execZeroingComplete h
  case mgmtwr m r v => exact h.ccp fun t ht => .ite (.mgmtWrite (by simpa) ..) (by simpa)
  case powerGood ok => exact StoredOk.reset
  case curatorReload d => exact StoredOk.ite h (h.loadCurator d)
  case coreDomainResetEntry d => exact StoredOk.ite (h.stopCores ..) h
  case coreDomainResetExit d => exact StoredOk.ite (by simpa using h.resetCores d) h
  case junctionTemperatureSample d n => exact StoredOk.ite (h.fenceDie d) (.ite (h.of_eq (by simp)) (.ite (h.of_eq (by simp)) h))
  case uncoreResetEntry | uncoreResetExit | powerCapExceeded | stage2Reached => exact StoredOk.ite (h.of_eq (by simp)) h
  case stackFence u => exact .execStackFence h
  case portLinkFailure p => exact StoredOk.ite (h.of_eq (by simp)) h
  case rotDemotion id => exact .execRotDemotion h
  case groupEndNotice | frameWaitResume | dcqcnRateReduction | roceWriteImmediate => exact h.of_eq (by (repeat' split) <;> simp)
  case catdrop | genraise | preempt | mrdrop | qpdestroy => exact h.of_eq (State.ccpActive_stored fun t => by (repeat' split) <;> simp)
  case resync | mgmtrd | fwload | attest => exact h.of_eq (State.ccp_stored fun t => by (repeat' split) <;> simp)
  case fetchBlockReturn | coalescingWindowClose | walkEntryRead | formatEntryRead | l1FillReturn | loadDataReturn | storeAck | combiningEntryAge |
      peerProbe | peerProbeAnswer | meshHop | interposerLinkCrossing | l2Request | atomicUnitService | cwaitAnswer | cwaitRetry | maintenanceSlot |
      hbmTemperatureSample | bufferRefresh | bufferScrub | bufferPool | copyEntryStart | copyEntryComplete | qfenceEntryComplete | guardedOffEntry |
      tileWrite | collectorRowDrop | rowBlockStart | mmvStreamData | batchComplete | sleepExpiry | generationBroadcast | generationRaiseComplete |
      catload | kick | replayStart | nodeDispatch | workPacketSend | mailboxPacketArrival | cohortRelease | groupEnd | nodeEnd | replayEnd |
      coreStop | deferredTrap | swapOut | preemptionStop | watchdog | roceWrite | roceRead | sendDescriptorTake | descriptorComplete | mrreg |
      qpcreate | wingset | wingquiesce | wingQuiesced | slotset | keyload | keyrevoke | hmcfgCntClr | filterFullClear | coreFence | promotionRequest
      =>
    exact h.of_eq (by simp)
end

/-- The state that a plan goes on from. -/
@[simp] def Plan.state : Plan → State
  | .run _ s => s
  | .idle s => s

section
variable {s : State} (h : StoredOk s.stored)
include h

theorem StoredOk.issueFrom (w : Warp) : StoredOk (s.issueFrom w).state.stored := by
  unfold State.issueFrom
  dsimp only
  split
  · simpa [Plan.state]
  · split <;> simpa [Plan.state]

theorem StoredOk.issueNext : StoredOk s.issueNext.state.stored := by
  unfold State.issueNext
  split
  · exact h.issueFrom _
  · exact h.tick

theorem StoredOk.unitPlan : StoredOk s.unitPlan.state.stored := by
  unfold State.unitPlan
  split
  · exact h
  · split
    next hl => exact h.lateStep hl
    · exact h.issueNext

theorem StoredOk.plan : StoredOk s.plan.state.stored := by
  unfold State.plan
  split
  · exact h.unitPlan
  · split
    · exact h
    · split
      · exact h.unitPlan
      · dsimp only
        split
        · exact h
        · exact StoredOk.issueNext h

theorem ResultOk.step : ResultOk (step s) := by
  have hplan := h.plan
  unfold Machine.step
  split
  next i t hp => exact .exec (by simpa [hp] using hplan) i
  next t hp => simpa [hp] using hplan

end

/-- Settles O8: whatever plan a step follows, it goes on from a state in canonical form, and the instruction or event that it runs keeps that form. -/
theorem stepKeepsMemoryForm : Obligations.StepKeepsMemoryForm := by
  intro s t hs ht
  have hstep : ResultOk (step s) := .step (State.memOk_iff.mp hs)
  rw [ht] at hstep
  exact State.memOk_iff.mpr hstep

end Sys2Proof.Machine
end

section
/-!
SETTLED. Two stacks of one number: what a channel access leaves in the second (O53).
-/
namespace Sys2Proof.Machine

/-- A read of no packet. -/
def strayRead : MemReq := ⟨0, 0, 0, none, 0, 0, 0, [], none⟩

/-- A stack with a given queue in its first channel, which is its only one. -/
def Stack.queued (q : List MemReq) : Stack := { Stack.reset 0 with chans := [⟨q, none⟩] }

/-- A state that lists two stacks numbered 0: one read waits in the first, and two wait in the second. -/
def twinStacks : State := { State.reset with hbms := [.queued [strayRead], .queued [strayRead, strayRead]] }

/-- How many requests wait in each channel of each stack. -/
def State.waiting (s : State) : List (List Nat) := s.hbms.map fun k => k.chans.map fun c => c.queue.length

/-- An access to stack 0 takes one request out of the queue of each stack of that number. -/
theorem twinStacks_hbmServe : (twinStacks.hbmServe 0 0 .good).waiting = [[0], [1]] := by decide

/-- Refutes O53: `State.modStack` changes every stack of a number, each by its own queue, and the first clause gives all of them what is left of
the first one's. Two stacks numbered 0, of which the second has a longer queue, tell them apart: one request stays in it. No run from reset
reaches such a state, and the obligation does not leave it out. -/
theorem not_memorySteps : ¬ Obligations.MemorySteps := by
  unfold Obligations.MemorySteps
  intro h
  obtain ⟨hserve, -⟩ := h
  have hfirst := hserve twinStacks 0 0 0 .good [strayRead] none strayRead ⟨0, 0, 1⟩ rfl rfl (.inl ⟨rfl, by simp, rfl⟩)
  obtain ⟨hrun, -⟩ := hfirst
  have hstates := Host.Outcome.next.inj (hrun rfl)
  have hwaiting := congrArg State.waiting hstates
  rw [twinStacks_hbmServe] at hwaiting
  exact absurd hwaiting (by decide)

end Sys2Proof.Machine
end

section
/-!
SUPPORT (O50). A request whose data has come keeps it while its core settles (R108).
-/
namespace Sys2Proof.Machine

/-- Of the requests of a core, one of a number holds given pieces, and the first of that number does not wait to enter the L1. -/
def Captured (rid : Nat) (ps : List Piece) (l : List Req) : Prop :=
  (∃ q ∈ l, q.rid = rid ∧ q.pieces = ps) ∧ ∀ q, l.find? (fun q => q.rid == rid) = some q → q.stage ≠ .waiting

/-- The same of a core in a state. -/
def State.captured (s : State) (c : CoreId) (rid : Nat) (ps : List Piece) : Prop := Captured rid ps (s.core c).reqs

section
variable {rid : Nat} {ps : List Piece} {l : List Req} (h : Captured rid ps l)
include h

theorem Captured.map {f : Req → Req} (hrid : ∀ q, (f q).rid = q.rid) (hps : ∀ q, q.rid = rid → (f q).pieces = q.pieces)
    (hstage : ∀ q, q.rid = rid → q.stage ≠ .waiting → (f q).stage ≠ .waiting) : Captured rid ps (l.map f) := by
  obtain ⟨⟨q, hq, hqr, hqp⟩, hfirst⟩ := h
  refine ⟨⟨f q, List.mem_map_of_mem hq, (hrid q).trans hqr, (hps q hqr).trans hqp⟩, fun x hx => ?_⟩
  rw [find?_map_of_unseen (fun y => by rw [hrid])] at hx
  obtain ⟨y, hy, rfl⟩ := Option.map_eq_some_iff.mp hx
  exact hstage y (by simpa using List.find?_some hy) (hfirst y hy)

theorem Captured.filter {other : Nat} (hother : other ≠ rid) : Captured rid ps (l.filter fun q => q.rid != other) := by
  obtain ⟨⟨q, hq, hqr, hqp⟩, hfirst⟩ := h
  refine ⟨⟨q, List.mem_filter.mpr ⟨hq, by simp [hqr, hother.symm]⟩, hqr, hqp⟩, fun x hx => hfirst x ?_⟩
  rw [List.find?_filter] at hx
  rw [← hx]
  congr 1
  funext q
  by_cases hq : q.rid = rid <;> simp [hq, hother.symm]

theorem Captured.flatMap {g : Req → List Req} (hsame : ∀ q, q.rid = rid → g q = [q])
    (hother : ∀ q, q.rid ≠ rid → ∀ x ∈ g q, x.rid = rid → x.stage ≠ .waiting) : Captured rid ps (l.flatMap g) := by
  obtain ⟨⟨q, hq, hqr, hqp⟩, hfirst⟩ := h
  refine ⟨⟨q, List.mem_flatMap.mpr ⟨q, hq, by simp [hsame q hqr]⟩, hqr, hqp⟩, ?_⟩
  clear hq
  induction l with
  | nil => simp
  | cons a l ih =>
    intro x hx
    rw [List.flatMap_cons, List.find?_append] at hx
    by_cases ha : a.rid = rid
    · refine hfirst x ?_
      simp_all
    · cases hg : (g a).find? (fun q => q.rid == rid) with
      | some y =>
        rw [hg] at hx
        cases hx
        exact hother a ha x (List.mem_of_find?_eq_some hg) (by simpa using List.find?_some hg)
      | none => exact ih (fun z hz => hfirst z (by simpa [ha] using hz)) x (by simpa [hg] using hx)
end

section
variable {s : State} {c : CoreId} {rid : Nat} {ps : List Piece} (h : s.captured c rid ps)
include h

theorem State.captured.of_cores {t : State} (ht : t.cores = s.cores) : t.captured c rid ps := by
  unfold State.captured State.core at *
  rwa [ht]

theorem State.captured.modCore {d : CoreId} {f : Core → Core} (hid : ∀ k, (f k).id = k.id)
    (hf : ∀ k : Core, Captured rid ps k.reqs → Captured rid ps (f k).reqs) : (s.modCore d f).captured c rid ps := by
  have hfind := find?_map_of_unseen (p := fun k : Core => k.id == c) (u := fun k => if k.id == d then f k else k)
    (fun k => by split <;> simp [hid]) s.cores
  unfold State.captured State.core State.modCore at *
  rw [hfind]
  cases hk : s.cores.find? fun k => k.id == c with
  | none => simpa [hk] using h
  | some k =>
    simp only [hk, Option.map_some, Option.getD_some] at h ⊢
    split
    · exact hf k h
    · exact h

theorem State.captured.modCore_reqs {d : CoreId} {f : Core → Core} (hid : ∀ k, (f k).id = k.id) (hf : ∀ k, (f k).reqs = k.reqs) :
    (s.modCore d f).captured c rid ps := h.modCore hid fun k hk => by rwa [hf]

theorem State.captured.foldl {α : Type} {f : State → α → State} (hf : ∀ t x, t.captured c rid ps → (f t x).captured c rid ps) (l : List α) :
    (l.foldl f s).captured c rid ps := by
  induction l generalizing s with
  | nil => exact h
  | cons x l ih => exact ih (hf s x h)

theorem State.captured.modReq {d : CoreId} {n : Nat} {f : Req → Req} (hrid : ∀ q, (f q).rid = q.rid) (hps : ∀ q, (f q).pieces = q.pieces)
    (hstage : ∀ q, q.stage ≠ .waiting → (f q).stage ≠ .waiting) : (s.modReq d n f).captured c rid ps :=
  h.modCore (fun _ => rfl) fun k hk => hk.map (fun q => by split <;> simp [hrid]) (fun q _ => by split <;> simp [hps]) fun q _ hq => by
    split
    · exact hstage q hq
    · exact hq

theorem State.captured.modReq_other {d : CoreId} {n : Nat} {f : Req → Req} (hn : n ≠ rid) (hrid : ∀ q, (f q).rid = q.rid) :
    (s.modReq d n f).captured c rid ps :=
  h.modCore (fun _ => rfl) fun k hk => hk.map (fun q => by split <;> simp [hrid]) (fun q hq => by simp [hq, hn.symm]) fun q hq hw => by
    simpa [hq, hn.symm] using hw

theorem State.captured.dropReq {d : CoreId} {n : Nat} (hn : n ≠ rid) : (s.dropReq d n).captured c rid ps :=
  h.modCore (fun _ => rfl) fun _ hk => hk.filter hn
end

section
variable {s : State} {c : CoreId} {rid : Nat} {ps : List Piece} (h : s.captured c rid ps)
include h

/-! ### Home -/

theorem State.captured.enqueueMem (pa : Nat) (m : MemReq) : (s.enqueueMem pa m).captured c rid ps :=
  h.of_cores (by unfold State.enqueueMem; split <;> rfl)

theorem State.captured.l2Set (l : L2Line) : (s.l2Set l).captured c rid ps := by
  refine h.of_cores ?_
  unfold State.l2Set State.l2WriteBack State.enqueueMem
  dsimp only
  (repeat' split) <;> rfl

theorem State.captured.respond (pid : Nat) (f : Packet → Packet) : (s.respond pid f).captured c rid ps := by
  unfold State.respond
  split
  · exact h
  · dsimp only
    refine State.captured.foldl ?_ (fun t m ht => ?_) _
    · exact h.of_cores rfl
    · refine State.captured.modReq ?_ (fun _ => rfl) (fun _ => rfl) fun _ _ => nofun
      exact ht.of_cores rfl

theorem State.captured.pokeMonitors (line : Nat) : (s.pokeMonitors line).captured c rid ps := by
  refine State.captured.foldl ?_ (fun _ _ ht => ht.respond ..) _
  exact h.of_cores rfl

theorem State.captured.homeWrite (src slot wg cp line : Nat) (bs : LineBytes) : (s.homeWrite src slot wg cp line bs).captured c rid ps := by
  unfold State.homeWrite State.l2Merge State.l2Through
  dsimp only
  split
  · exact h
  · split
    · exact (h.l2Set _).pokeMonitors _
    · refine State.captured.pokeMonitors (State.captured.enqueueMem ?_ _ _) _
      split
      · exact h
      · exact h.l2Set _

theorem State.captured.homePuts (src slot wg cp pa : Nat) (bs : List Byte) : (s.homePuts src slot wg cp pa bs).captured c rid ps :=
  h.foldl (fun _ _ ht => ht.homeWrite ..) _

/-! ### The L1 -/

theorem State.captured.taint (d : CoreId) (p : Req → Bool) : (s.modCore d fun k => k.taint p).captured c rid ps :=
  h.modCore (fun _ => rfl) fun _ hk => hk.map (fun _ => by split <;> rfl) (fun _ _ => by split <;> rfl) fun _ _ hq => by split <;> exact hq

theorem State.captured.leave (d : CoreId) (line : Nat) (bs : LineBytes) : (s.leave d line bs).captured c rid ps := by
  unfold State.leave
  split
  · exact h
  · refine h.modCore (fun _ => rfl) fun k hk => ?_
    have htaint : Captured rid ps (k.taint fun r => r.line == line).reqs :=
      hk.map (fun _ => by split <;> rfl) (fun _ _ => by split <;> rfl) fun _ _ hq => by split <;> exact hq
    exact htaint.map (fun _ => by split <;> rfl) (fun _ _ => by split <;> rfl) fun _ _ hq => by split <;> exact hq

theorem State.captured.l1Home (d : CoreId) (l : L1Line) (p : L1Byte → Bool) : (s.l1Home d l p).captured c rid ps :=
  ((h.leave ..).homeWrite ..).modCore_reqs (fun _ => rfl) fun _ => rfl

theorem State.captured.l1Flush (d : CoreId) (p : L1Byte → Bool) : (s.l1Flush d p).captured c rid ps := by
  refine h.foldl (fun t l ht => ?_) _
  split
  · exact ht
  · exact ht.l1Home ..

theorem State.captured.l1Clean (d : CoreId) (set line : Nat) : (s.l1Clean d set line).captured c rid ps := by
  unfold State.l1Clean
  dsimp only
  split
  · exact h
  · split
    · refine State.captured.l1Home ?_ ..
      split
      · exact h
      · exact h.l1Flush ..
    · exact h

theorem State.captured.l1Drop (d : CoreId) (set line : Nat) : (s.l1Drop d set line).captured c rid ps :=
  h.modCore_reqs (fun _ => rfl) fun _ => rfl

theorem State.captured.l1Purge (d : CoreId) (line : Nat) : (s.l1Purge d line).captured c rid ps :=
  (h.taint ..).foldl (fun _ _ ht => (ht.l1Clean ..).l1Drop ..) _

theorem State.captured.adopt (r : Req) (w : WarpId) : (s.adopt r w).captured c rid ps := by
  unfold State.adopt
  split
  · exact h
  · split
    · exact h.l1Purge ..
    · split
      · exact h.modCore_reqs (fun _ => rfl) fun _ => rfl
      · exact h

theorem State.captured.l1Room (d : CoreId) (set : Nat) : (s.l1Room d set).captured c rid ps := by
  have hfree : s.freshFree.2.captured c rid ps := h.of_cores rfl
  unfold State.l1Room
  dsimp only
  split
  · exact h
  · split
    · exact hfree
    · exact (hfree.l1Clean ..).l1Drop ..

theorem State.captured.l1Alloc (r : Req) (w : WarpId) (wg : Nat) : (s.l1Alloc r w wg).captured c rid ps := by
  unfold State.l1Alloc
  dsimp only
  split
  · exact h
  · exact (h.l1Room ..).modCore_reqs (fun _ => rfl) fun _ => rfl

theorem State.captured.l1Merge (d : CoreId) (set line : Nat) (bs : LineBytes) (dirty : Bool) : (s.l1Merge d set line bs dirty).captured c rid ps :=
  h.modCore_reqs (fun _ => rfl) fun _ => rfl

/-! ### The combining buffer -/

theorem State.captured.groupCheck (d slot : Nat) (cause : Cause) : (s.groupCheck d slot cause).captured c rid ps := by
  refine h.of_cores ?_
  unfold State.groupCheck
  split <;> rfl

theorem State.captured.combSend (d : CoreId) (e : CombEntry) : (s.combSend d e).captured c rid ps := by
  have holder : ((s.l1Purge d (lineOf e.pa)).l1Older d).captured c rid ps := (h.l1Purge ..).l1Flush ..
  refine State.captured.modCore_reqs ?_ (fun _ => rfl) fun _ => rfl
  split
  · exact holder.groupCheck ..
  · exact holder.homePuts ..

theorem State.captured.combFlush (d : CoreId) (p : CombEntry → Bool) : (s.combFlush d p).captured c rid ps :=
  h.foldl (fun _ _ ht => ht.combSend ..) _

theorem State.captured.combTouchAll (r : Req) : (s.combTouchAll r).captured c rid ps := h.foldl (fun _ _ ht => ht.combFlush ..) _

theorem State.captured.combPut (d : CoreId) (e : CombEntry) : (s.combPut d e).captured c rid ps := by
  have htouch : (s.combTouch d e.pa e.width).captured c rid ps := h.combFlush ..
  unfold State.combPut
  dsimp only
  split
  · exact h.modCore_reqs (fun _ => rfl) fun _ => rfl
  · refine State.captured.modCore_reqs ?_ (fun _ => rfl) fun _ => rfl
    split
    · exact htouch
    · split
      · exact htouch.combSend ..
      · exact htouch

theorem State.captured.releaseActs (d : CoreId) (wide : Bool) : (s.releaseActs d wide).captured c rid ps := by
  refine State.captured.modCore_reqs ?_ (fun _ => rfl) fun _ => rfl
  split
  · exact (h.combFlush ..).l1Flush ..
  · exact h.combFlush ..

theorem State.captured.privOut (w : WarpId) (keep : Bool) : (s.privOut w keep).captured c rid ps := by
  refine State.captured.modCore_reqs ?_ (fun _ => rfl) fun _ => rfl
  split
  · exact h.foldl (fun _ _ ht => ht.l1Home ..) _
  · exact h

/-! ### Requests of other numbers -/

theorem State.captured.finishReq (d : CoreId) (iid : Nat) : (s.finishReq d iid).captured c rid ps := by
  unfold State.finishReq
  split
  · exact h
  · split
    · have hdone := h.modCore_reqs (d := d) (f := fun k => { k with outst := k.outst.filter fun x => x.iid != iid }) (fun _ => rfl) fun _ => rfl
      exact hdone.of_cores rfl
    · exact h.modCore_reqs (fun _ => rfl) fun _ => rfl

theorem State.captured.endReq {r : Req} (hr : r.rid ≠ rid) : (s.endReq r).captured c rid ps := (h.dropReq hr).finishReq ..

theorem State.captured.machineCheck (r : Req) (aux : DWord) : (s.machineCheck r aux).captured c rid ps := by
  refine h.of_cores ?_
  unfold State.machineCheck
  split <;> rfl

theorem State.captured.sendReq (r : Req) : (s.sendReq r).captured c rid ps :=
  (h.of_cores rfl).modReq (fun _ => rfl) (fun _ => rfl) fun _ _ => nofun

theorem State.captured.sendRead (r : Req) : (s.sendRead r).captured c rid ps := by
  unfold State.sendRead
  dsimp only
  split
  · exact h
  · exact (h.sendReq r).modReq (fun _ => rfl) (fun _ => rfl) fun _ hq => hq

theorem State.captured.joinFill (r o : Req) : (s.joinFill r o).captured c rid ps := by
  refine State.captured.modReq ?_ (fun _ => rfl) (fun _ => rfl) fun _ _ => nofun
  split
  · split
    · exact h
    · exact h.modReq (fun _ => rfl) (fun _ => rfl) fun _ _ => nofun
  · exact h

theorem State.captured.takeHits {r : Req} (hr : r.rid ≠ rid) (l : L1Line) : (s.takeHits r l).captured c rid ps := by
  unfold State.takeHits
  dsimp only
  split
  · exact h
  · refine (h.of_cores rfl).modCore (fun _ => rfl) fun k hk => hk.flatMap (fun q hq => ?_) fun q hq x hx hxr => ?_
    · simp [hq, hr.symm]
    · split at hx
      · simp only [List.mem_cons, List.not_mem_nil, or_false] at hx
        obtain rfl | rfl := hx
        · exact absurd hxr hq
        · nofun
      · rw [List.mem_singleton.mp hx] at hxr
        exact absurd hxr hq

theorem State.captured.missLoad (r : Req) : (s.missLoad r).captured c rid ps := by
  unfold State.missLoad
  split
  · exact h.joinFill ..
  · split
    · exact h.modReq (fun _ => rfl) (fun _ => rfl) fun _ _ => nofun
    · exact h.sendRead r

theorem State.captured.enterLoad {r : Req} (hr : r.rid ≠ rid) : (s.enterLoad r).captured c rid ps := by
  have hs : (if r.acq = true then s.l1Purge r.core r.line else s.adopt r ((s.core r.core).warpOf r)).captured c rid ps := by
    split
    · exact h.l1Purge ..
    · exact h.adopt ..
  unfold State.enterLoad
  dsimp only
  generalize (if r.acq = true then s.l1Purge r.core r.line else s.adopt r ((s.core r.core).warpOf r)) = t at hs ⊢
  split
  · split
    · exact hs.sendRead r
    · split
      · exact hs.endReq hr
      · exact hs.missLoad r
  · split
    · split
      · exact hs.endReq hr
      · exact hs.modReq_other hr fun _ => rfl
    · split
      · exact (hs.takeHits hr _).missLoad _
      · exact hs.missLoad r

theorem State.captured.sendWrite (r : Req) : (s.sendWrite r).captured c rid ps := ((h.l1Flush ..).taint ..).sendReq r

theorem State.captured.enterStore {r : Req} (hr : r.rid ≠ rid) : (s.enterStore r).captured c rid ps := by
  have hs := h.adopt r ((s.core r.core).warpOf r)
  have hmerge := fun set bs dirty => hs.l1Merge r.core set r.line bs dirty
  unfold State.enterStore
  dsimp only
  split
  · exact (hs.machineCheck ..).endReq hr
  · split
    · split
      · exact (hmerge ..).sendWrite r
      · split
        · exact (hmerge ..).endReq hr
        · split
          · exact (((hmerge ..).l1Clean ..).l1Drop ..).endReq hr
          · split
            · exact (hs.l1Drop ..).sendWrite r
            · exact (hmerge ..).sendWrite r
    · split
      · exact ((hs.l1Alloc ..).l1Merge ..).endReq hr
      · exact hs.sendWrite r

theorem State.captured.enterOther {r : Req} (hr : r.rid ≠ rid) : (s.enterOther r).captured c rid ps := by
  have htouch := h.combTouchAll r
  unfold State.enterOther
  dsimp only
  split
  · split
    · split
      · split
        · exact (h.machineCheck ..).endReq hr
        · exact (h.combPut ..).endReq hr
      · exact (htouch.l1Purge ..).sendWrite r
    · exact h.endReq hr
  · refine State.captured.endReq ?_ hr
    split
    · exact htouch.l1Purge ..
    · exact htouch.foldl (fun _ _ ht => ht.l1Clean ..) _
  · exact (htouch.l1Purge ..).sendWrite r
  · exact (htouch.l1Purge ..).sendReq r

theorem State.captured.enterReq {r : Req} (hr : r.rid ≠ rid) : (s.enterReq r).captured c rid ps := by
  have htouch := h.combTouchAll r
  unfold State.enterReq
  split
  · exact htouch.enterLoad hr
  · exact htouch.enterLoad hr
  · exact htouch.sendRead r
  · exact htouch.enterStore hr
  · exact h.enterOther hr

/-- A request that may enter waits, so that it is another one. -/
theorem State.captured.ne_of_mayEnter {n : Nat} {r : Req} (hr : s.req? c n = some r) (hmay : (s.core c).mayEnter r = true) : r.rid ≠ rid := by
  intro heq
  have hn : r.rid = n := by simpa using List.find?_some hr
  subst hn
  rw [heq] at hr
  have hwaits : r.stage = .waiting := by
    simp only [Core.mayEnter, Bool.and_eq_true, beq_iff_eq] at hmay
    tauto
  exact h.2 r hr hwaits

/-! ### Settling -/

theorem State.captured.pump : (s.pump c).captured c rid ps := by
  refine h.foldl (fun t n ht => ?_) _
  split
  next r hr =>
    split
    next hmay => exact ht.enterReq (ht.ne_of_mayEnter hr hmay)
    · exact ht
  · exact ht

theorem State.captured.localAdd (d : CoreId) (slot ctr : Nat) (amt : DWord) (who : Issuer) (engine : Bool) :
    (s.localAdd d slot ctr amt who engine).captured c rid ps := by
  refine h.of_cores ?_
  unfold State.localAdd
  dsimp only
  (repeat' split) <;> rfl

theorem State.captured.releaseHeld (d : CoreId) (held : Held) : (s.releaseHeld d held).captured c rid ps := by
  have hs := (h.releaseActs d held.wide).modCore_reqs (d := d) (f := fun k => { k with heldOps := k.heldOps.filter fun x => x != held })
    (fun _ => rfl) fun _ => rfl
  unfold State.releaseHeld
  dsimp only
  split
  · split
    · exact hs
    · exact hs.localAdd ..
  · exact h

theorem State.captured.moveOn : (s.moveOn c).captured c rid ps := (h.foldl (fun _ _ ht => ht.releaseHeld ..) _).pump

theorem State.captured.reapWarp (w : Warp) : (s.reapWarp w).captured c rid ps := by
  have hs : { s.privOut w.id false with warps := (s.privOut w.id false).warps.filter fun x => x.id != w.id }.captured c rid ps :=
    (h.privOut ..).of_cores rfl
  unfold State.reapWarp
  dsimp only
  split
  · split
    · exact (hs.releaseActs ..).localAdd ..
    · exact hs
  · exact h

/-- A request whose data has come keeps it while its core settles (R108). -/
theorem State.captured.settle : (s.settle c).captured c rid ps :=
  ((h.foldl (fun _ _ ht => ht.moveOn) _).moveOn).foldl (fun _ _ ht => ht.reapWarp _) _
end

end Sys2Proof.Machine
end

section
/-!
SETTLED. Two responses to one load: what its L1 keeps for it (O50).
-/
namespace Sys2Proof.Machine

/-- Of a full set whose lines are all alike, that line leaves (R105). -/
theorem State.l1Room_of_alike {s : State} {c : CoreId} {set n : Nat} {v : L1Line}
    (h : ((s.core c).l1.filter fun o => o.set == set) = List.replicate (n + 16) v) :
    s.l1Room c set = (s.freshFree.2.l1Clean c v.set v.line).l1Drop c v.set v.line := by
  have hway : ∀ k : Nat, (List.replicate (n + 16) v)[k % (n + 16)]? = some v := fun k => by
    rw [List.getElem?_replicate, if_pos (Nat.mod_lt k (by omega))]
  unfold State.l1Room
  dsimp only
  rw [h, List.length_replicate, if_neg (by omega), hway]

/-- The core of the counterexample. -/
def strayCore : CoreId := ⟨0, 0⟩

/-- A line of set 0, dirty of epoch 1. -/
def victimLine : L1Line := ⟨0, 128, 0, false, 0, none, [⟨0, true, some 1⟩]⟩

/-- Line 0 in another set than that of `strayLoad`; its first byte is 7, dirty of epoch 0. -/
def otherSetLine : L1Line := ⟨1, 0, 0, false, 0, none, [⟨7, true, some 0⟩]⟩

/-- A load of the first byte of line 0, which has left in packet 2. -/
def strayLoad : Req :=
  { rid := 0, iid := 0, core := strayCore, kind := .load, spm := false, line := 0, vaLine := 0, cp := 0, ro := false, priv := false, noAlloc := true
    acq := false, seq := 0, gran := none, pieces := [⟨0, 0, 0, 0, 1, []⟩], stage := .fabric 2, wg := 0, acqBit := false, stale := false, kept := [] }

/-- A response of zeros that has come back to `strayLoad`. -/
def strayResponse (n : Nat) : Packet :=
  { pid := n, core := strayCore, rid := 0, resp := true, sys := false, wing := 0, smask := 0, via := 0, arrived := 0, loc := .home, die := 0
    router := 0, merged := [], waiting := false, fault := false, data := [], value := 0, ok := false, hint := none }

/-- A state with two responses to one load, packets 1 and 2, at a core whose set 0 is full of one line. -/
def twoResponses : State :=
  { State.reset with
    cores := [{ Core.reset strayCore with l1 := otherSetLine :: List.replicate 16 victimLine, reqs := [strayLoad] }]
    packets := [strayResponse 1, strayResponse 2] }

/-- That state once packet 1 is gone. -/
def oneResponse : State := twoResponses.dropPacket 1

/-- The line of the load finds room where the one in set 0 was; as that one is cleaned, the older byte of the other set goes home before it (R334). -/
theorem oneResponse_l1Alloc (w : WarpId) (wg : Nat) : (oneResponse.adopt strayLoad w).l1Alloc strayLoad w wg =
    ((oneResponse.freshFree.2.l1Clean strayCore 0 128).l1Drop strayCore 0 128).modCore strayCore fun k =>
      { k with l1 := ⟨0, 0, 0, false, wg, none, List.replicate 128 l1Invalid⟩ :: k.l1 } := by
  have hadopt : oneResponse.adopt strayLoad w = oneResponse := rfl
  rw [hadopt]
  unfold State.l1Alloc
  dsimp only
  rw [if_neg (by decide), State.l1Room_of_alike (n := 0) (v := victimLine) (by decide)]
  rfl

set_option maxRecDepth 4000 in
/-- The load reads the byte of the other set. -/
theorem oneResponse_settle : ((((oneResponse.fill strayLoad (List.range 4) [] none).settle strayCore).core strayCore).reqs.map Req.pieces) =
    [[⟨0, 0, 0, 0, 1, [7]⟩]] := by
  unfold State.fill State.l1Install
  dsimp only
  rw [oneResponse_l1Alloc]
  decide

/-- Refutes O50: the first clause does not ask that the request waits for the packet that has come. Where it waits for another one, which home has
answered too, dirty bytes of its line that leave another set of the L1 as this line finds its room are kept for it, and stand before those
of the packet. No run from reset reaches such a state, and the obligation does not leave it out. -/
theorem not_coreReturns : ¬ Obligations.CoreReturns := by
  unfold Obligations.CoreReturns
  intro h
  obtain ⟨hfill, -⟩ := h
  obtain ⟨hgood, -⟩ := hfill twoResponses 1 (strayResponse 1) strayLoad rfl rfl ⟨_, List.mem_singleton_self _, rfl⟩ rfl (by decide) nofun
  obtain ⟨u, q, hrun, hq, hready, -, hpieces⟩ := hgood rfl
  have hsettled : (oneResponse.fill strayLoad (List.range 4) [] none).settle strayCore = u.settle strayCore := Host.Outcome.next.inj hrun
  have hcaptured : u.captured strayCore strayLoad.rid q.pieces := by
    refine ⟨⟨q, List.mem_of_find?_eq_some hq, by simpa using List.find?_some hq, rfl⟩, fun x hx => ?_⟩
    rw [Option.some.inj (hx.symm.trans hq), hready]
    nofun
  obtain ⟨⟨x, hx, -, hxps⟩, -⟩ := hcaptured.settle
  have hmem := List.mem_map_of_mem (f := Req.pieces) hx
  rw [← hsettled, oneResponse_settle, hxps, hpieces] at hmem
  exact absurd hmem (by decide)

end Sys2Proof.Machine
end

section
/-!
SUPPORT (O55). Rounding to nearest (R157, R160): the magnitudes of a format as a strictly rising scale of patterns, and the pattern whose half-way
points to its neighbours enclose an exact value.
-/
namespace Sys2Proof.Machine

/-! ### The scale of magnitudes -/

/-- The value of a magnitude pattern, in units of 2^-lsb; the pattern of infinity stands for the value that would follow the largest finite one. -/
def FFmt.magUnits (f : FFmt) (n : Nat) : Nat :=
  if n / 2 ^ f.mb = 0 then n else (n % 2 ^ f.mb + 2 ^ f.mb) * 2 ^ (n / 2 ^ f.mb - 1)

/-- Twice the half-way point between a magnitude and the next one. -/
def FFmt.midUnits (f : FFmt) (n : Nat) : Nat := f.magUnits n + f.magUnits (n + 1)

/-- `k` steps of width 2^E, from the least normal magnitude of that width to the first of the next (of width 1 from zero on). -/
theorem FFmt.magUnits_block (f : FFmt) {E k : Nat} (hlow : E = 0 ∨ 2 ^ f.mb ≤ k) (hk : k ≤ 2 ^ (f.mb + 1)) :
    f.magUnits (E * 2 ^ f.mb + k) = k * 2 ^ E := by
  have hp : 0 < 2 ^ f.mb := Nat.two_pow_pos _
  rw [pow_succ] at hk
  by_cases hsub : k < 2 ^ f.mb
  · obtain rfl : E = 0 := by omega
    simp [magUnits, Nat.div_eq_of_lt hsub]
  · obtain ⟨r, rfl⟩ : ∃ r, k = 2 ^ f.mb + r := ⟨k - 2 ^ f.mb, by omega⟩
    by_cases hr : r < 2 ^ f.mb
    · have hn : E * 2 ^ f.mb + (2 ^ f.mb + r) = r + 2 ^ f.mb * (E + 1) := by ring
      have hdiv : (r + 2 ^ f.mb * (E + 1)) / 2 ^ f.mb = E + 1 := by rw [Nat.add_mul_div_left _ _ hp, Nat.div_eq_of_lt hr, Nat.zero_add]
      rw [magUnits, hn, hdiv, Nat.add_mul_mod_self_left, Nat.mod_eq_of_lt hr, if_neg E.succ_ne_zero, Nat.add_comm r, Nat.add_sub_cancel]
    · obtain rfl : r = 2 ^ f.mb := by omega
      have hn : E * 2 ^ f.mb + (2 ^ f.mb + 2 ^ f.mb) = 2 ^ f.mb * (E + 2) := by ring
      simp [magUnits, hn, Nat.mul_div_cancel_left _ hp, pow_succ]
      ring

/-- Every pattern stands in such a block, before its end. -/
theorem FFmt.exists_block (f : FFmt) (n : Nat) :
    ∃ E k, n = E * 2 ^ f.mb + k ∧ (E = 0 ∨ 2 ^ f.mb ≤ k) ∧ k < 2 ^ (f.mb + 1) := by
  have hp : 0 < 2 ^ f.mb := Nat.two_pow_pos _
  have hdiv := Nat.div_add_mod n (2 ^ f.mb)
  have hmod := Nat.mod_lt n hp
  rw [Nat.mul_comm] at hdiv
  rw [pow_succ]
  rcases hq : n / 2 ^ f.mb with _ | E
  · exact ⟨0, n % 2 ^ f.mb, by rw [hq] at hdiv; omega, .inl rfl, by omega⟩
  · exact ⟨E, 2 ^ f.mb + n % 2 ^ f.mb, by rw [hq, Nat.succ_mul] at hdiv; omega, .inr (by omega), by omega⟩

/-- Twice a half-way point of a block is an odd number of its steps. -/
theorem FFmt.midUnits_block (f : FFmt) {E k : Nat} (hlow : E = 0 ∨ 2 ^ f.mb ≤ k) (hk : k < 2 ^ (f.mb + 1)) :
    f.midUnits (E * 2 ^ f.mb + k) = (2 * k + 1) * 2 ^ E := by
  rw [midUnits, Nat.add_assoc, f.magUnits_block hlow hk.le, f.magUnits_block (k := k + 1) (by omega) hk]
  ring

theorem FFmt.magUnits_strictMono (f : FFmt) : StrictMono f.magUnits := by
  refine strictMono_nat_of_lt_succ fun n => ?_
  obtain ⟨E, k, rfl, hlow, hk⟩ := f.exists_block n
  rw [Nat.add_assoc, f.magUnits_block hlow hk.le, f.magUnits_block (by omega) hk]
  exact Nat.mul_lt_mul_of_pos_right (Nat.lt_succ_self k) (Nat.two_pow_pos E)

theorem FFmt.midUnits_strictMono (f : FFmt) : StrictMono f.midUnits := fun _ _ h =>
  Nat.add_lt_add (f.magUnits_strictMono h) (f.magUnits_strictMono (Nat.succ_lt_succ h))

@[simp] theorem FFmt.magUnits_zero (f : FFmt) : f.magUnits 0 = 0 := by simp [magUnits]

/-! ### The nearest magnitude -/

/-- A value in units lies between the half-way points next to a magnitude; of an odd one, strictly. Above infinity there is none. -/
def FFmt.Near (f : FFmt) (n : Nat) (x : ℚ) : Prop :=
  (∀ j < n, (f.midUnits j : ℚ) ≤ 2 * x ∧ (n % 2 = 1 → (f.midUnits j : ℚ) < 2 * x)) ∧
  (n < f.infBits → 2 * x ≤ f.midUnits n ∧ (n % 2 = 1 → 2 * x < f.midUnits n))

section
variable {f : FFmt} {n : Nat} {x : ℚ}

/-- Nearness below needs a look at the next lower magnitude only. -/
theorem FFmt.near_of_pred (hlo : ∀ j, n = j + 1 → (f.midUnits j : ℚ) ≤ 2 * x ∧ (n % 2 = 1 → (f.midUnits j : ℚ) < 2 * x))
    (hhi : n < f.infBits → 2 * x ≤ f.midUnits n ∧ (n % 2 = 1 → 2 * x < f.midUnits n)) : f.Near n x := by
  refine ⟨fun j hj => ?_, hhi⟩
  obtain ⟨i, rfl⟩ : ∃ i, n = i + 1 := ⟨n - 1, by omega⟩
  obtain ⟨hle, hlt⟩ := hlo i rfl
  have hji : (f.midUnits j : ℚ) ≤ f.midUnits i := by exact_mod_cast f.midUnits_strictMono.monotone (by omega)
  exact ⟨hji.trans hle, fun h => hji.trans_lt (hlt h)⟩

/-- A magnitude is near its own value, and no other one is. -/
theorem FFmt.Near.eq_of_magUnits {j : Nat} (h : f.Near n (f.magUnits j)) (hn : n ≤ f.infBits) (hj : j ≤ f.infBits) : n = j := by
  obtain ⟨hlo, hhi⟩ := h
  rcases lt_trichotomy n j with hlt | heq | hgt
  · have hmid : f.midUnits n < 2 * f.magUnits j := by
      have h1 := f.magUnits_strictMono hlt
      have h2 : f.magUnits (n + 1) ≤ f.magUnits j := f.magUnits_strictMono.monotone hlt
      unfold midUnits; omega
    have hle := (hhi (by omega)).1
    norm_cast at hle
    omega
  · exact heq
  · have hmid : 2 * f.magUnits j < f.midUnits j := by
      have h1 : f.magUnits j < f.magUnits (j + 1) := f.magUnits_strictMono (Nat.lt_succ_self j)
      unfold midUnits; omega
    have hle := (hlo j hgt).1
    norm_cast at hle
    omega

/-- It is nearer than any other magnitude, or as near and even. -/
theorem FFmt.Near.dist_le (h : f.Near n x) (hn : n < f.infBits) {j : Nat} (hj : j ≠ n) :
    |(f.magUnits n : ℚ) - x| ≤ |(f.magUnits j : ℚ) - x| ∧ (n % 2 = 1 → |(f.magUnits n : ℚ) - x| < |(f.magUnits j : ℚ) - x|) := by
  obtain ⟨hlo, hhi⟩ := h
  rcases Nat.lt_or_gt_of_ne hj with hlt | hgt
  · have hmono : (f.magUnits j : ℚ) < f.magUnits n := by exact_mod_cast f.magUnits_strictMono hlt
    have hmid : (f.magUnits j : ℚ) + f.magUnits n ≤ f.midUnits (n - 1) + (f.magUnits j - f.magUnits (n - 1)) := by
      rw [midUnits, Nat.sub_add_cancel (by omega)]; push_cast; linarith
    have hle : (f.magUnits j : ℚ) ≤ f.magUnits (n - 1) := by exact_mod_cast f.magUnits_strictMono.monotone (by omega)
    obtain ⟨h1, h2⟩ := hlo (n - 1) (by omega)
    have habs : |(f.magUnits j : ℚ) - x| = x - f.magUnits j := by rw [abs_sub_comm, abs_of_nonneg (by linarith)]
    rw [habs]
    refine ⟨abs_le.mpr ⟨by linarith, by linarith⟩, fun hodd => abs_lt.mpr ⟨by linarith [h2 hodd], by linarith [h2 hodd]⟩⟩
  · have hmono : (f.magUnits n : ℚ) < f.magUnits j := by exact_mod_cast f.magUnits_strictMono hgt
    have hle : (f.magUnits (n + 1) : ℚ) ≤ f.magUnits j := by exact_mod_cast f.magUnits_strictMono.monotone (by omega)
    have hmid : (f.midUnits n : ℚ) = f.magUnits n + f.magUnits (n + 1) := by rw [midUnits]; push_cast; rfl
    obtain ⟨h1, h2⟩ := hhi hn
    have habs : |(f.magUnits j : ℚ) - x| = f.magUnits j - x := abs_of_nonneg (by linarith)
    rw [habs]
    refine ⟨abs_le.mpr ⟨by linarith, by linarith⟩, fun hodd => abs_lt.mpr ⟨by linarith [h2 hodd], by linarith [h2 hodd]⟩⟩

end

end Sys2Proof.Machine
end

section
/-!
SUPPORT (O55). One rounding to nearest of an exact value: what `roundF` answers is near the value, so it is what R160 asks for.
-/
namespace Sys2Proof.Machine

/-! ### Exact values -/

/-- The value of a finite result. -/
def FVal.rat : FVal → ℚ
  | .fin neg m e => (if neg then -1 else 1) * (m * 2 ^ e)
  | _ => 0

/-- The weight of a format's unit. -/
def FFmt.unit (f : FFmt) : ℚ := 2 ^ (-(f.lsb : ℤ))

theorem FFmt.unit_pos (f : FFmt) : 0 < f.unit := zpow_pos (by norm_num) _

/-- A power of two below the sum of two exponents. -/
theorem two_zpow_toNat {a b : ℤ} (h : b ≤ a) : ((2 ^ (a - b).toNat : ℕ) : ℚ) * 2 ^ b = 2 ^ a := by
  have hexp : ((a - b).toNat : ℤ) + b = a := by omega
  rw [Nat.cast_pow, Nat.cast_ofNat, ← zpow_natCast, ← zpow_add₀ two_ne_zero, hexp]

/-- The value of a finite result as a multiple of a lower power of two. -/
theorem FVal.rat_fin {lo e : ℤ} (h : lo ≤ e) (s : Bool) (m : ℕ) : FVal.rat (.fin s m e) =
    ((if s then -((m * 2 ^ (e - lo).toNat : ℕ) : ℤ) else ((m * 2 ^ (e - lo).toNat : ℕ) : ℤ)) : ℤ) * 2 ^ lo := by
  rw [FVal.rat, ← two_zpow_toNat h]
  cases s <;> push_cast <;> simp <;> ring

/-- The magnitude of m × 2^e lies between the powers of two that its leading bit names. -/
theorem log2N_bounds {m : ℕ} (hm : m ≠ 0) (e : ℤ) :
    (2 : ℚ) ^ ((log2N m : ℤ) + e) ≤ m * 2 ^ e ∧ (m : ℚ) * 2 ^ e < 2 ^ ((log2N m : ℤ) + e + 1) := by
  have h1 : (2 : ℚ) ^ (log2N m : ℤ) ≤ m := by exact_mod_cast Nat.log2_self_le hm
  have h2 : (m : ℚ) < 2 ^ ((log2N m : ℤ) + 1) := by exact_mod_cast Nat.lt_log2_self (n := m)
  have hp : (0 : ℚ) < 2 ^ e := zpow_pos (by norm_num) _
  refine ⟨?_, ?_⟩
  · rw [zpow_add₀ two_ne_zero]; gcongr
  · rw [add_right_comm, zpow_add₀ two_ne_zero]; gcongr

/-! ### To an integer -/

/-- `k` is a nearest integer to `y`, the even one of two. -/
def NearInt (k : ℕ) (y : ℚ) : Prop :=
  2 * (k : ℚ) - 1 ≤ 2 * y ∧ 2 * y ≤ 2 * k + 1 ∧ (k % 2 = 1 → 2 * (k : ℚ) - 1 < 2 * y ∧ 2 * y < 2 * k + 1)

/-- A quotient rounded by its remainder. -/
theorem nearInt_div {m d : ℕ} (hd : 0 < d) (neg : Bool) :
    NearInt (if roundUp 0 neg (m / d) (2 * (m % d)) d then m / d + 1 else m / d) ((m : ℚ) / d) := by
  have hd' : (0 : ℚ) < d := by exact_mod_cast hd
  have hlt : (m % d : ℕ) < (d : ℚ) := by exact_mod_cast Nat.mod_lt m hd
  have hm : (m : ℚ) / d = (m / d : ℕ) + ((m % d : ℕ) : ℚ) / d := by
    rw [eq_comm, ← mul_left_inj' hd'.ne', add_mul, div_mul_cancel₀ _ hd'.ne', div_mul_cancel₀ _ hd'.ne']
    exact_mod_cast Nat.div_add_mod' m d
  have hr0 : (0 : ℚ) ≤ ((m % d : ℕ) : ℚ) / d := by positivity
  have hr1 : ((m % d : ℕ) : ℚ) / d < 1 := (div_lt_one hd').mpr hlt
  rw [hm]
  generalize hk : m / d = k
  cases hup : roundUp 0 neg k (2 * (m % d)) d with
  | true =>
    have hhalf : d < 2 * (m % d) ∨ (2 * (m % d) = d ∧ k % 2 = 1) := by
      simp [roundUp] at hup
      omega
    have hge : (1 : ℚ) ≤ 2 * (((m % d : ℕ) : ℚ) / d) := by
      rw [← mul_div_assoc, le_div_iff₀ hd', one_mul]; exact_mod_cast (by omega : d ≤ 2 * (m % d))
    refine ⟨by simp; linarith, by simp; linarith, fun hodd => ?_⟩
    have hgt : (1 : ℚ) < 2 * (((m % d : ℕ) : ℚ) / d) := by
      simp only [if_true] at hodd
      rw [← mul_div_assoc, lt_div_iff₀ hd', one_mul]; exact_mod_cast (by omega : d < 2 * (m % d))
    exact ⟨by simp; linarith, by simp; linarith⟩
  | false =>
    have hhalf : 2 * (m % d) < d ∨ (2 * (m % d) = d ∧ (m % d = 0 ∨ k % 2 = 0)) := by
      simp [roundUp] at hup
      omega
    have hle : 2 * (((m % d : ℕ) : ℚ) / d) ≤ 1 := by
      rw [← mul_div_assoc, div_le_one hd']; exact_mod_cast (by omega : 2 * (m % d) ≤ d)
    refine ⟨by simp; linarith, by simp; linarith, fun hodd => ?_⟩
    have hlt1 : 2 * (((m % d : ℕ) : ℚ) / d) < 1 := by
      simp only [Bool.false_eq_true, if_false] at hodd
      rw [← mul_div_assoc, div_lt_one hd']; exact_mod_cast (by omega : 2 * (m % d) < d)
    exact ⟨by simp; linarith, by simp; linarith⟩

theorem roundInt_nearInt (neg : Bool) {m : ℕ} (hm : m ≠ 0) (e : ℤ) : NearInt (roundInt 0 neg m e).1 (m * 2 ^ e) := by
  unfold roundInt
  rw [if_neg (by simpa using hm)]
  by_cases he : 0 ≤ e
  · rw [if_pos he]
    have hval : ((m * 2 ^ e.toNat : ℕ) : ℚ) = m * 2 ^ e := by
      have h := two_zpow_toNat he
      rw [sub_zero, zpow_zero, mul_one] at h
      rw [Nat.cast_mul, h]
    rw [← hval]
    exact ⟨by linarith, by linarith, fun _ => ⟨by linarith, by linarith⟩⟩
  · rw [if_neg he]
    have hdiv : ∀ (a : ℕ) {g : ℤ}, g < 0 → (a : ℚ) * 2 ^ g = (a : ℚ) / ((2 ^ (-g).toNat : ℕ) : ℚ) := fun a g hg => by
      have h := two_zpow_toNat (a := 0) (b := g) hg.le
      rw [zero_sub, zpow_zero] at h
      rw [eq_div_iff (by positivity), mul_assoc, mul_comm (2 ^ g : ℚ), h, mul_one]
    dsimp only
    by_cases hbig : (log2N m : ℤ) + e < -3
    · have hsmall : (m : ℚ) * 2 ^ e < 1 / 8 := by
        calc (m : ℚ) * 2 ^ e < 2 ^ ((log2N m : ℤ) + e + 1) := (log2N_bounds hm e).2
          _ ≤ 2 ^ (-3 : ℤ) := zpow_le_zpow_right₀ (by norm_num) (by omega)
          _ = 1 / 8 := by norm_num
      have hpos : (0 : ℚ) ≤ m * 2 ^ e := by positivity
      rw [if_pos hbig]
      refine ⟨?_, ?_, ?_⟩ <;> simp [roundUp] <;> linarith
    · rw [if_neg hbig, hdiv m (by omega)]
      exact nearInt_div (Nat.two_pow_pos _) neg

/-! ### To a magnitude of a format -/

/-- A nearest number of steps of width 2^E is a nearest magnitude. -/
theorem FFmt.near_of_nearInt {f : FFmt} (hmb : 1 ≤ f.mb) {E k : ℕ} {y : ℚ} (hy : NearInt k y) (hlow : E = 0 ∨ 2 ^ f.mb ≤ y)
    (hhigh : y < 2 ^ (f.mb + 1)) : f.Near (E * 2 ^ f.mb + k) (y * 2 ^ E) := by
  obtain ⟨hy1, hy2, hy3⟩ := hy
  have hE : (0 : ℚ) < 2 ^ E := by positivity
  obtain ⟨a, ha⟩ : ∃ a, f.mb = a + 1 := ⟨f.mb - 1, by omega⟩
  have hpar : (E * 2 ^ f.mb + k) % 2 = k % 2 := by rw [ha, pow_succ, ← mul_assoc]; omega
  have hk : k ≤ 2 ^ (f.mb + 1) := by
    have hlt : (k : ℚ) < 2 ^ (f.mb + 1) + 1 := by linarith
    exact Nat.lt_succ_iff.mp (by exact_mod_cast hlt)
  have hk0 : E = 0 ∨ 2 ^ f.mb ≤ k := hlow.imp_right fun h => by
    have hlt : (2 : ℚ) ^ f.mb < k + 1 := by linarith
    exact Nat.lt_succ_iff.mp (by exact_mod_cast hlt)
  rw [mul_comm y]
  refine near_of_pred (fun j hj => ?_) fun _ => ?_
  · rw [hpar]
    by_cases hin : E = 0 ∨ 2 ^ f.mb < k
    · have hk1 : 1 ≤ k := by rcases hin with h | h <;> [(subst h; omega); omega]
      obtain ⟨i, rfl⟩ : ∃ i, k = i + 1 := ⟨k - 1, by omega⟩
      obtain rfl : j = E * 2 ^ f.mb + i := by omega
      rw [f.midUnits_block (by omega) (by omega)]
      push_cast at hy1 hy3 ⊢
      exact ⟨by nlinarith, fun h => by nlinarith [(hy3 h).1]⟩
    · obtain ⟨hE0, hk1⟩ := not_or.mp hin
      have hge := hlow.resolve_left hE0
      obtain ⟨D, rfl⟩ : ∃ D, E = D + 1 := ⟨E - 1, by omega⟩
      obtain ⟨i, hi⟩ : ∃ i, 2 ^ (f.mb + 1) = i + 1 := ⟨2 ^ (f.mb + 1) - 1, (Nat.sub_add_cancel Nat.one_le_two_pow).symm⟩
      have hi' : 2 * 2 ^ f.mb = i + 1 := by rw [← hi]; ring
      obtain rfl : j = D * 2 ^ f.mb + i := by
        have hsucc : (D + 1) * 2 ^ f.mb = D * 2 ^ f.mb + 2 ^ f.mb := Nat.succ_mul D _
        omega
      rw [f.midUnits_block (by omega) (by omega)]
      have hiq : (2 : ℚ) * 2 ^ f.mb = i + 1 := by exact_mod_cast hi'
      have hD : (0 : ℚ) < 2 ^ D := by positivity
      have hlt : (((2 * i + 1) * 2 ^ D : ℕ) : ℚ) < 2 * (2 ^ (D + 1) * y) := by
        push_cast [pow_succ]
        nlinarith
      exact ⟨hlt.le, fun _ => hlt⟩
  · rw [hpar]
    rcases hk.lt_or_eq with hlt | rfl
    · rw [f.midUnits_block hk0 hlt]
      push_cast at hy2 hy3 ⊢
      exact ⟨by nlinarith, fun h => by nlinarith [(hy3 h).2]⟩
    · have hmag := f.magUnits_block (E := E) (k := 2 ^ (f.mb + 1)) (by rw [pow_succ]; omega) le_rfl
      have hnext : f.magUnits (E * 2 ^ f.mb + 2 ^ (f.mb + 1)) < f.magUnits (E * 2 ^ f.mb + 2 ^ (f.mb + 1) + 1) :=
        f.magUnits_strictMono (Nat.lt_succ_self (E * 2 ^ f.mb + 2 ^ (f.mb + 1)))
      have hmid : 2 * (2 ^ (f.mb + 1) * 2 ^ E) ≤ f.midUnits (E * 2 ^ f.mb + 2 ^ (f.mb + 1)) := by
        rw [FFmt.midUnits]; omega
      have hlt : 2 * (2 ^ E * y) < f.midUnits (E * 2 ^ f.mb + 2 ^ (f.mb + 1)) := by
        have hmid' : (2 : ℚ) * (2 ^ (f.mb + 1) * 2 ^ E) ≤ f.midUnits (E * 2 ^ f.mb + 2 ^ (f.mb + 1)) := by exact_mod_cast hmid
        nlinarith
      exact ⟨hlt.le, fun _ => hlt⟩

/-- The shape of an IEEE format: room for an infinity beside normal values, and for an odd mantissa. -/
def FFmt.Shaped (f : FFmt) : Prop := 2 ≤ f.eb ∧ 1 ≤ f.mb

theorem FFmt.infBits_eq {f : FFmt} (hf : f.Shaped) : f.infBits = (2 ^ f.eb - 2) * 2 ^ f.mb + 2 ^ f.mb := by
  obtain ⟨b, hb⟩ : ∃ b, f.eb = b + 1 := ⟨f.eb - 1, by have := hf.1; omega⟩
  obtain ⟨q, hq⟩ : ∃ q, 2 ^ f.eb = q + 2 := ⟨2 ^ f.eb - 2, by rw [hb, pow_succ]; have := Nat.one_le_two_pow (n := b); omega⟩
  rw [infBits, hq, Nat.add_sub_cancel, ← Nat.succ_mul]
  rfl

theorem FFmt.infBits_pos {f : FFmt} (hf : f.Shaped) : 0 < f.infBits := by
  rw [infBits_eq hf]; positivity

theorem FFmt.infBits_even {f : FFmt} (hf : f.Shaped) : f.infBits % 2 = 0 := by
  obtain ⟨a, ha⟩ : ∃ a, f.mb = a + 1 := ⟨f.mb - 1, by have := hf.2; omega⟩
  rw [infBits, ha, pow_succ, ← mul_assoc, Nat.mul_mod_left]

/-- The place of infinity on the scale. -/
theorem FFmt.magUnits_infBits {f : FFmt} (hf : f.Shaped) : f.magUnits f.infBits = 2 ^ f.mb * 2 ^ (2 ^ f.eb - 2) := by
  rw [infBits_eq hf, f.magUnits_block (.inr le_rfl) (Nat.pow_le_pow_right two_pos (Nat.le_succ _))]

/-- Infinity is near all that lies past the last half-way point. -/
theorem FFmt.near_infBits {f : FFmt} (hf : f.Shaped) {n : ℕ} (hn : f.infBits ≤ n) {x : ℚ}
    (h : ∀ j < n, (f.midUnits j : ℚ) ≤ 2 * x) : f.Near f.infBits x := by
  have heven := infBits_even hf
  exact ⟨fun j hj => ⟨h j (by omega), fun hodd => by omega⟩, fun hlt => absurd hlt (lt_irrefl _)⟩

/-- In units of 2^emin × 2^-mb. -/
theorem FFmt.lsb_eq {f : FFmt} (hf : f.Shaped) : (f.lsb : ℤ) = f.mb - f.emin := by
  have hbias : f.bias = 2 ^ (f.eb - 1) - 1 := rfl
  have := hf.2
  unfold lsb emin
  omega

/-- The magnitude that a value rounds to, infinity where there is none below. -/
theorem roundMag_near {f : FFmt} (hf : f.Shaped) (neg : Bool) {m : ℕ} (hm : m ≠ 0) (e : ℤ) :
    let r := roundMag f.mb f.emin (f.infBits - 1) true 0 neg m e
    let n := (r.map (·.1)).getD f.infBits
    n ≤ f.infBits ∧ f.Near n (m * 2 ^ e / f.unit) := by
  have htop : (f.infBits - 1) / 2 ^ f.mb = 2 ^ f.eb - 2 := by
    have hp : 0 < 2 ^ f.mb := Nat.two_pow_pos _
    rw [FFmt.infBits_eq hf, Nat.add_sub_assoc hp, Nat.add_comm, Nat.add_mul_div_right _ _ hp, Nat.div_eq_of_lt (by omega), Nat.zero_add]
  have hunit : ∀ E : ℤ, (2 : ℚ) ^ E / f.unit = 2 ^ (E + f.lsb) := fun E => by
    rw [FFmt.unit, ← zpow_sub₀ two_ne_zero, sub_neg_eq_add]
  have hup := f.unit_pos
  unfold roundMag
  dsimp only
  by_cases hbig : f.emin + ((f.infBits - 1) / 2 ^ f.mb : ℕ) + 1 < (log2N m : ℤ) + e
  · rw [if_pos hbig]
    refine ⟨le_rfl, FFmt.near_infBits hf le_rfl fun j hj => ?_⟩
    have hpow : (f.magUnits f.infBits : ℚ) ≤ m * 2 ^ e / f.unit := by
      calc (f.magUnits f.infBits : ℚ) = 2 ^ ((f.mb : ℤ) + (2 ^ f.eb - 2 : ℕ)) := by
            rw [FFmt.magUnits_infBits hf, zpow_add₀ two_ne_zero]; push_cast; simp only [zpow_natCast]
        _ ≤ 2 ^ ((log2N m : ℤ) + e + f.lsb) := zpow_le_zpow_right₀ (by norm_num) (by rw [FFmt.lsb_eq hf]; omega)
        _ = 2 ^ ((log2N m : ℤ) + e) / f.unit := (hunit _).symm
        _ ≤ m * 2 ^ e / f.unit := by gcongr; exact (log2N_bounds hm e).1
    have hmid : f.midUnits j ≤ 2 * f.magUnits f.infBits := by
      have h1 := f.magUnits_strictMono.monotone hj.le
      have h2 : f.magUnits (j + 1) ≤ _ := f.magUnits_strictMono.monotone hj
      unfold FFmt.midUnits; omega
    have hmid' : (f.midUnits j : ℚ) ≤ 2 * f.magUnits f.infBits := by exact_mod_cast hmid
    linarith
  · rw [if_neg hbig]
    generalize hB : max ((log2N m : ℤ) + e) f.emin = B
    obtain ⟨E, hE⟩ : ∃ E : ℕ, (B - f.emin).toNat = E := ⟨_, rfl⟩
    have hBE : B = f.emin + E := by omega
    have hy : (m : ℚ) * 2 ^ e / f.unit = m * 2 ^ (e - (B - f.mb)) * 2 ^ E := by
      rw [mul_div_assoc, hunit, mul_assoc, ← zpow_natCast (2 : ℚ) E, ← zpow_add₀ two_ne_zero, FFmt.lsb_eq hf]
      congr 2; omega
    obtain ⟨hlow, hhigh⟩ := log2N_bounds hm (e - (B - f.mb))
    have hy1 : (m : ℚ) * 2 ^ (e - (B - f.mb)) < 2 ^ (f.mb + 1) := by
      refine hhigh.trans_le ?_
      rw [← zpow_natCast]
      exact zpow_le_zpow_right₀ (by norm_num) (by push_cast; omega)
    have hy0 : E = 0 ∨ (2 : ℚ) ^ f.mb ≤ m * 2 ^ (e - (B - f.mb)) := by
      rw [or_iff_not_imp_left]
      refine fun hE0 => le_trans ?_ hlow
      rw [← zpow_natCast]
      exact zpow_le_zpow_right₀ (by norm_num) (by omega)
    have hnear := FFmt.near_of_nearInt hf.2 (roundInt_nearInt neg hm (e - (B - f.mb))) hy0 hy1
    rw [← hy] at hnear
    rw [hE]
    by_cases htopc : f.infBits - 1 < E * 2 ^ f.mb + (roundInt 0 neg m (e - (B - f.mb))).1
    · rw [if_pos htopc]
      exact ⟨le_rfl, FFmt.near_infBits hf (by omega) fun j hj => (hnear.1 j hj).1⟩
    · rw [if_neg htopc]
      have := FFmt.infBits_pos hf
      exact ⟨by simp only [Option.map_some, Option.getD_some]; omega, hnear⟩

/-- Rounding a finite value: its sign, and a magnitude near it. -/
theorem roundF_near {f : FFmt} (hf : f.Shaped) (neg : Bool) (m : ℕ) (e : ℤ) :
    ∃ n ≤ f.infBits, (roundF f 0 false (.fin neg m e)).1 = f.signBit neg + n ∧ f.Near n (m * 2 ^ e / f.unit) := by
  cases m with
  | zero =>
    refine ⟨0, Nat.zero_le _, rfl, fun j hj => absurd hj (Nat.not_lt_zero j), fun _ => ⟨?_, fun h => absurd h (by decide)⟩⟩
    simp
  | succ m =>
    obtain ⟨hle, hnear⟩ := roundMag_near hf neg m.succ_ne_zero e
    refine ⟨_, hle, ?_, hnear⟩
    cases hr : roundMag f.mb f.emin (f.infBits - 1) true 0 neg (m + 1) e with
    | none => simp [roundF, hr, overflowInf]
    | some r => simp [roundF, hr]

/-! ### The pattern -/

section
variable {f : FFmt} {neg : Bool} {n : ℕ}

/-- Magnitude and sign of a pattern put together from them. -/
theorem FFmt.mag_signBit_add (hn : n < 2 ^ (f.eb + f.mb)) : f.mag (f.signBit neg + n) = n := by
  unfold mag signBit
  cases neg <;> simp [Nat.mod_eq_of_lt hn]

theorem FFmt.neg_signBit_add (hn : n < 2 ^ (f.eb + f.mb)) : f.neg (f.signBit neg + n) = neg := by
  unfold FFmt.neg signBit
  cases neg <;> simp [Nat.add_div_left, Nat.div_eq_of_lt hn]

/-- Every pattern is put together so. -/
theorem FFmt.signBit_add_mag (f : FFmt) {b : ℕ} (hb : b < 2 ^ f.width) : f.signBit (f.neg b) + f.mag b = b := by
  have hp : 0 < 2 ^ (f.eb + f.mb) := Nat.two_pow_pos _
  have hq : b / 2 ^ (f.eb + f.mb) < 2 := by
    rw [Nat.div_lt_iff_lt_mul hp]
    calc b < 2 ^ (1 + f.eb + f.mb) := hb
      _ = 2 * 2 ^ (f.eb + f.mb) := by rw [Nat.add_assoc, Nat.add_comm, pow_succ, Nat.mul_comm]
  have hdm := Nat.div_add_mod b (2 ^ (f.eb + f.mb))
  unfold FFmt.neg mag signBit
  generalize b / 2 ^ (f.eb + f.mb) = q at hq hdm
  interval_cases q
  · simpa using hdm
  · simpa using hdm

theorem FFmt.infBits_lt (f : FFmt) : f.infBits < 2 ^ (f.eb + f.mb) := by
  rw [infBits, pow_add]
  exact Nat.mul_lt_mul_of_pos_right (Nat.sub_lt (Nat.two_pow_pos _) one_pos) (Nat.two_pow_pos _)

theorem FFmt.signBit_even (hf : f.Shaped) : f.signBit neg % 2 = 0 := by
  obtain ⟨a, ha⟩ : ∃ a, f.mb = a + 1 := ⟨f.mb - 1, by have := hf.2; omega⟩
  unfold signBit
  cases neg
  · rfl
  · rw [if_pos rfl, ha, ← Nat.add_assoc, pow_succ, Nat.mul_mod_left]

/-- The value of a finite pattern by its magnitude. -/
theorem FFmt.units_eq (f : FFmt) (b : ℕ) : f.units b = (if f.neg b then -1 else 1) * (f.magUnits (f.mag b) : ℤ) := by
  have hdiv : f.mag b / 2 ^ f.mb = b / 2 ^ f.mb % 2 ^ f.eb := by
    rw [mag, Nat.add_comm, pow_add, Nat.mod_mul_right_div_self]
  have hmod : f.mag b % 2 ^ f.mb = b % 2 ^ f.mb := by
    rw [mag, Nat.mod_mod_of_dvd _ (pow_dvd_pow 2 (Nat.le_add_left _ _))]
  have hmag : (f.magUnits (f.mag b) : ℤ) = if b / 2 ^ f.mb % 2 ^ f.eb = 0 then ((b % 2 ^ f.mb : ℕ) : ℤ)
      else (((b % 2 ^ f.mb + 2 ^ f.mb) * 2 ^ (b / 2 ^ f.mb % 2 ^ f.eb - 1) : ℕ) : ℤ) := by
    rw [magUnits, hdiv, hmod]
    split
    next h =>
      have hlt : f.mag b < 2 ^ f.mb := (Nat.div_eq_zero_iff_lt (Nat.two_pow_pos _)).mp (hdiv.trans h)
      rw [← hmod, Nat.mod_eq_of_lt hlt]
    next => rfl
  rw [hmag]
  unfold FFmt.units
  cases f.neg b
  · exact (one_mul _).symm
  · exact (neg_one_mul _).symm

end

/-- The half-way point beyond which a value overflows. -/
theorem FFmt.midUnits_top {f : FFmt} (hf : f.Shaped) : (f.midUnits (f.infBits - 1) : ℤ) = 2 * f.maxUnits + f.topGap := by
  obtain ⟨b, hb⟩ : ∃ b, f.eb = b + 2 := ⟨f.eb - 2, by have := hf.1; omega⟩
  obtain ⟨q, hq⟩ : ∃ q, 2 ^ f.eb = q + 3 := ⟨2 ^ f.eb - 3, by rw [hb, pow_add]; have := Nat.one_le_two_pow (n := b); omega⟩
  obtain ⟨k, hk⟩ : ∃ k, 2 ^ (f.mb + 1) = k + 1 := ⟨2 ^ (f.mb + 1) - 1, (Nat.sub_add_cancel Nat.one_le_two_pow).symm⟩
  have hk' : 2 * 2 ^ f.mb = k + 1 := by rw [← hk, pow_succ, Nat.mul_comm]
  have htop : f.infBits - 1 = q * 2 ^ f.mb + k := by
    rw [infBits_eq hf, hq, show q + 3 - 2 = q + 1 from rfl, Nat.succ_mul]
    omega
  have hgap : f.topGap = 2 ^ q := by rw [topGap, hq, Nat.add_sub_cancel]
  have hkz : (2 : ℤ) ^ (f.mb + 1) = k + 1 := by exact_mod_cast hk
  rw [htop, f.midUnits_block (by omega) (by omega), maxUnits, hgap, hkz]
  push_cast
  ring

/-- A magnitude near a value is infinity just where the value lies past that point. -/
theorem FFmt.Near.eq_infBits_iff {f : FFmt} (hf : f.Shaped) {n : ℕ} {x : ℚ} (h : f.Near n x) (hn : n ≤ f.infBits) :
    n = f.infBits ↔ (f.midUnits (f.infBits - 1) : ℚ) ≤ 2 * x := by
  have hpos := infBits_pos hf
  obtain ⟨hlo, hhi⟩ := h
  refine ⟨fun heq => (hlo _ (by omega)).1, fun hx => ?_⟩
  by_contra hne
  obtain ⟨h1, h2⟩ := hhi (by omega)
  rcases (by omega : n = f.infBits - 1 ∨ n < f.infBits - 1) with heq | hlt
  · have hodd : n % 2 = 1 := by have := infBits_even hf; omega
    rw [← heq] at hx
    exact absurd (h2 hodd) (not_lt.mpr hx)
  · have hmono : (f.midUnits n : ℚ) < f.midUnits (f.infBits - 1) := by exact_mod_cast f.midUnits_strictMono hlt
    linarith

/-- The distance of a pattern's value from z / q, `q` times: that of its magnitude at least, and no more where the signs agree. -/
theorem FFmt.le_dist_units (f : FFmt) (y : ℕ) (z : ℤ) {q : ℕ} (hq : (0 : ℚ) < q) :
    q * |(f.magUnits (f.mag y) : ℚ) - |(z : ℚ)| / q| ≤ |(f.units y : ℚ) * q - z| := by
  have habs : |(f.units y : ℚ) * q| = q * f.magUnits (f.mag y) := by
    rw [f.units_eq, abs_mul, abs_of_pos hq, mul_comm]
    cases f.neg y <;> simp
  calc q * |(f.magUnits (f.mag y) : ℚ) - |(z : ℚ)| / q| = |q * (f.magUnits (f.mag y) - |(z : ℚ)| / q)| := by rw [abs_mul, abs_of_pos hq]
    _ = |(|(f.units y : ℚ) * q| - |(z : ℚ)|)| := by rw [habs, mul_sub, mul_div_cancel₀ _ hq.ne']
    _ ≤ |(f.units y : ℚ) * q - z| := abs_abs_sub_abs_le _ _

theorem FFmt.dist_units_of_sign (f : FFmt) (y : ℕ) (z : ℤ) {q : ℕ} (hq : (0 : ℚ) < q) (hsign : z ≠ 0 → f.neg y = decide (z < 0)) :
    |(f.units y : ℚ) * q - z| = q * |(f.magUnits (f.mag y) : ℚ) - |(z : ℚ)| / q| := by
  have hz : (z : ℚ) = (if f.neg y then -1 else 1) * |(z : ℚ)| := by
    rcases lt_trichotomy z 0 with h | h | h
    · have h' : (z : ℚ) < 0 := by exact_mod_cast h
      simp [hsign h.ne, h, abs_of_neg h']
    · simp [h]
    · have h' : (0 : ℚ) < z := by exact_mod_cast h
      simp [hsign h.ne', not_lt.mpr h.le, abs_of_pos h']
  have heq : (f.units y : ℚ) * q - z = (if f.neg y then -1 else 1) * (q * (f.magUnits (f.mag y) - |(z : ℚ)| / q)) := by
    rw [f.units_eq, mul_sub, mul_div_cancel₀ _ hq.ne']
    push_cast
    linear_combination -hz
  rw [heq, abs_mul, abs_mul, abs_of_pos hq]
  cases f.neg y <;> simp

/-- A pattern put together from the sign of an exact value z / q and a magnitude near it is that value rounded to nearest. -/
theorem roundedIn_of_near {f : FFmt} (hf : f.Shaped) {neg : Bool} {n : ℕ} (hn : n ≤ f.infBits) {z : ℤ} {q : ℕ} (hq : 0 < q)
    (hnear : f.Near n (|(z : ℚ)| / q)) (hsign : z ≠ 0 → neg = decide (z < 0)) : RoundedIn f 0 z q (f.signBit neg + n) := by
  have hlt : n < 2 ^ (f.eb + f.mb) := hn.trans_lt (FFmt.infBits_lt f)
  have hmag := FFmt.mag_signBit_add (neg := neg) hlt
  have hneg := FFmt.neg_signBit_add (neg := neg) hlt
  have hinf : f.isInf (f.signBit neg + n) = true ↔ n = f.infBits := by simp [FFmt.isInf, hmag]
  have hq' : (0 : ℚ) < q := by exact_mod_cast hq
  have hover : (2 * f.maxUnits + f.topGap) * q ≤ 2 * |z| ↔ n = f.infBits := by
    rw [hnear.eq_infBits_iff hf hn, ← FFmt.midUnits_top hf, ← mul_div_assoc, le_div_iff₀ hq']
    exact_mod_cast Iff.rfl
  refine ⟨by simp [FFmt.isNan, hmag, hn], ?inf, fun hz => by rw [hneg]; exact hsign hz, fun hfin => ?near⟩
  case inf =>
    rw [hinf, hover]
    simp
  case near =>
    have hn' : n < f.infBits := lt_of_le_of_ne hn fun h => Bool.noConfusion (hfin.symm.trans (hinf.mpr h))
    intro y _ _
    have hr := f.dist_units_of_sign (f.signBit neg + n) z hq' (by rwa [hneg])
    rw [hmag] at hr
    have hy := f.le_dist_units y z hq'
    by_cases hj : f.mag y = n
    · rw [hj] at hy
      refine ⟨by exact_mod_cast hr.trans_le hy, fun htie hne => ?_⟩
      have hopp : f.units y = -f.units (f.signBit neg + n) := by
        rw [f.units_eq, f.units_eq, hmag, hneg, hj] at hne ⊢
        cases neg <;> cases hy' : f.neg y <;> simp_all
      by_contra hodd
      have heven := FFmt.signBit_even (neg := neg) hf
      have hpos := (hnear.1 0 (by omega)).2 (by omega)
      rcases abs_eq_abs.mp htie with h | h
      · have hzero : f.units (f.signBit neg + n) = 0 := by
          have hmul : f.units (f.signBit neg + n) * (q : ℤ) = 0 := by rw [hopp] at h; linarith
          exact (mul_eq_zero.mp hmul).resolve_right (by omega)
        have hmn : f.magUnits n = f.magUnits 0 := by
          rw [f.units_eq, hmag] at hzero
          rw [f.magUnits_zero]
          cases h' : f.neg (f.signBit neg + n) <;> simpa [h'] using hzero
        have := f.magUnits_strictMono.injective hmn
        omega
      · obtain rfl : z = 0 := by rw [hopp] at h; linarith
        have hmid : (0 : ℚ) ≤ f.midUnits 0 := Nat.cast_nonneg _
        simp only [Int.cast_zero, abs_zero, zero_div, mul_zero] at hpos
        exact absurd hpos (not_lt.mpr hmid)
    · obtain ⟨hle, hlt'⟩ := hnear.dist_le hn' hj
      refine ⟨by exact_mod_cast hr.trans_le ((mul_le_mul_of_nonneg_left hle hq'.le).trans hy), fun htie _ => ?_⟩
      by_contra hodd
      have heven := FFmt.signBit_even (neg := neg) hf
      have hstrict := hr.trans_lt ((mul_lt_mul_of_pos_left (hlt' (by omega)) hq').trans_le hy)
      exact absurd (by exact_mod_cast htie) hstrict.ne

/-- One rounding to nearest of a finite result whose value is z / q units. -/
theorem roundF_roundedIn {f : FFmt} (hf : f.Shaped) {neg : Bool} {m : ℕ} {e : ℤ} {z : ℤ} {q : ℕ} (hq : 0 < q)
    (h : FVal.rat (.fin neg m e) * q = z * f.unit) : RoundedIn f 0 z q (roundF f 0 false (.fin neg m e)).1 := by
  obtain ⟨n, hn, hr, hnear⟩ := roundF_near hf neg m e
  have hq' : (0 : ℚ) < q := by exact_mod_cast hq
  have hu := f.unit_pos
  have hval : (0 : ℚ) ≤ m * 2 ^ e := by positivity
  have habs : (m : ℚ) * 2 ^ e / f.unit = |(z : ℚ)| / q := by
    rw [div_eq_div_iff hu.ne' hq'.ne']
    have hz : |FVal.rat (.fin neg m e) * q| = |(z : ℚ) * f.unit| := by rw [h]
    rw [abs_mul, abs_mul, abs_of_pos hq', abs_of_pos hu] at hz
    rw [← hz, FVal.rat, abs_mul, abs_of_nonneg hval]
    cases neg <;> simp
  rw [hr]
  refine roundedIn_of_near hf hn hq (habs ▸ hnear) fun hz => ?_
  rcases lt_or_gt_of_ne hz with hlt | hgt
  · have hz' : (z : ℚ) < 0 := by exact_mod_cast hlt
    cases neg with
    | true => simp [hlt]
    | false =>
      simp only [FVal.rat, Bool.false_eq_true, if_false, one_mul] at h
      nlinarith
  · have hz' : (0 : ℚ) < z := by exact_mod_cast hgt
    cases neg with
    | false => simp [hgt.le]
    | true =>
      simp only [FVal.rat, if_true] at h
      nlinarith

/-- A value that is a magnitude's own is not changed by rounding. -/
theorem roundF_of_magUnits {f : FFmt} (hf : f.Shaped) (neg : Bool) {m : ℕ} {e : ℤ} {n : ℕ} (hn : n ≤ f.infBits)
    (h : (m : ℚ) * 2 ^ e = f.magUnits n * f.unit) : (roundF f 0 false (.fin neg m e)).1 = f.signBit neg + n := by
  obtain ⟨k, hk, hr, hnear⟩ := roundF_near hf neg m e
  rw [h, mul_div_cancel_right₀ _ f.unit_pos.ne'] at hnear
  rw [hr, hnear.eq_of_magUnits hk hn]

/-! ### Operands -/

/-- A magnitude by the pattern's fields. -/
theorem FFmt.mag_eq (f : FFmt) (b : ℕ) : f.mag b = bitsN b f.mb f.eb * 2 ^ f.mb + bitsN b 0 f.mb := by
  unfold mag bitsN
  rw [Nat.add_comm, pow_add, Nat.mod_mul, pow_zero, Nat.div_one, Nat.mul_comm, Nat.add_comm]

/-- Where a pattern stands by its exponent field: a NaN or infinity at all ones, else finite. -/
theorem FFmt.class_iff (f : FFmt) (b : ℕ) :
    (f.finite b = true ↔ bitsN b f.mb f.eb ≠ 2 ^ f.eb - 1) ∧ (f.isInf b = true ↔ bitsN b f.mb f.eb = 2 ^ f.eb - 1 ∧ bitsN b 0 f.mb = 0) ∧
    (f.isNan b = true ↔ bitsN b f.mb f.eb = 2 ^ f.eb - 1 ∧ bitsN b 0 f.mb ≠ 0) := by
  have he : bitsN b f.mb f.eb < 2 ^ f.eb := Nat.mod_lt _ (Nat.two_pow_pos _)
  have hm : bitsN b 0 f.mb < 2 ^ f.mb := Nat.mod_lt _ (Nat.two_pow_pos _)
  unfold finite isInf isNan infBits
  rw [f.mag_eq]
  generalize bitsN b f.mb f.eb = x at *
  generalize bitsN b 0 f.mb = y at *
  have hlt : x ≠ 2 ^ f.eb - 1 → x * 2 ^ f.mb + y < (2 ^ f.eb - 1) * 2 ^ f.mb := fun hx => by
    calc x * 2 ^ f.mb + y < (x + 1) * 2 ^ f.mb := by rw [Nat.succ_mul]; omega
      _ ≤ (2 ^ f.eb - 1) * 2 ^ f.mb := Nat.mul_le_mul_right _ (by omega)
  by_cases hx : x = 2 ^ f.eb - 1
  · subst hx
    refine ⟨by simp, by simp, by simp; omega⟩
  · have := hlt hx
    refine ⟨by simp [hx, this], by simp [hx]; omega, by simp [hx]; omega⟩

/-- A finite pattern as an operand: its sign, and its magnitude in the format's units. -/
theorem unpackF_finite {f : FFmt} (hf : f.Shaped) {b : ℕ} (h : f.finite b = true) :
    ∃ m e, unpackF f false b = .fin (f.neg b) m e ∧ (m : ℚ) * 2 ^ e = f.magUnits (f.mag b) * f.unit := by
  have hE := (f.class_iff b).1.mp h
  have hm : bitsN b 0 f.mb < 2 ^ f.mb := Nat.mod_lt _ (Nat.two_pow_pos _)
  have hlsb := FFmt.lsb_eq hf
  unfold unpackF
  dsimp only
  rw [if_neg (by simpa using hE), f.mag_eq]
  by_cases h0 : bitsN b f.mb f.eb = 0
  · refine ⟨_, _, by rw [if_pos (by simpa using h0)]; rfl, ?_⟩
    rw [h0, f.magUnits_block (.inl rfl) (hm.le.trans (Nat.pow_le_pow_right two_pos (Nat.le_succ _))), FFmt.unit, hlsb]
    simp
  · refine ⟨_, _, by rw [if_neg (by simpa using h0)]; rfl, ?_⟩
    obtain ⟨E, hE1⟩ : ∃ E, bitsN b f.mb f.eb = E + 1 := ⟨bitsN b f.mb f.eb - 1, by omega⟩
    have hexp : ((E + 1 : ℕ) : ℤ) - f.bias - f.mb = E + (-(f.lsb : ℤ)) := by rw [hlsb, FFmt.emin]; push_cast; ring
    rw [hE1, Nat.succ_mul, Nat.add_assoc, f.magUnits_block (.inr (Nat.le_add_right _ _)) (by rw [pow_succ]; omega), FFmt.unit, hexp,
      zpow_add₀ two_ne_zero, zpow_natCast]
    push_cast
    ring

theorem unpackF_inf {f : FFmt} {b : ℕ} (h : f.isInf b = true) : unpackF f false b = .inf (f.neg b) := by
  obtain ⟨he, hm⟩ := (f.class_iff b).2.1.mp h
  unfold unpackF
  dsimp only
  rw [if_pos (by simpa using he), if_pos (by simpa using hm)]
  rfl

theorem unpackF_isNan (f : FFmt) (b : ℕ) : (unpackF f false b).isNan = f.isNan b := by
  have hnan : f.isNan b = decide (bitsN b f.mb f.eb = 2 ^ f.eb - 1 ∧ bitsN b 0 f.mb ≠ 0) := by
    rw [Bool.eq_iff_iff, (f.class_iff b).2.2, decide_eq_true_eq]
  rw [hnan]
  unfold unpackF
  dsimp only
  by_cases he : bitsN b f.mb f.eb = 2 ^ f.eb - 1
  · by_cases hm : bitsN b 0 f.mb = 0 <;> simp [he, hm, FVal.isNan]
  · rw [if_neg (by simpa using he), decide_eq_false fun h => he h.1]
    by_cases h0 : bitsN b f.mb f.eb = 0 <;> simp [h0, FVal.isNan]

/-! ### Sums and products -/

/-- An integer number of steps as a finite result. -/
theorem FVal.rat_natAbs (z : ℤ) (lo : ℤ) : FVal.rat (.fin (decide (z < 0)) z.natAbs lo) = z * 2 ^ lo := by
  have habs : ((z.natAbs : ℕ) : ℚ) = |(z : ℚ)| := by rw [Nat.cast_natAbs, Int.cast_abs]
  rw [FVal.rat, habs, ← mul_assoc]
  congr 1
  rcases lt_or_ge z 0 with h | h
  · have hq : (z : ℚ) < 0 := by exact_mod_cast h
    simp [h, abs_of_neg hq]
  · have hq : (0 : ℚ) ≤ z := by exact_mod_cast h
    simp [not_lt.mpr h, abs_of_nonneg hq]

/-- A sum of finite values is exact (R207). -/
theorem addF_fin (md : ℕ) (s t : Bool) (m n : ℕ) (e g : ℤ) :
    ∃ u k i, (addF md (.fin s m e) (.fin t n g)).1 = .fin u k i ∧
      FVal.rat (.fin u k i) = FVal.rat (.fin s m e) + FVal.rat (.fin t n g) := by
  have hs := FVal.rat_fin (min_le_left e g) s m
  have ht := FVal.rat_fin (min_le_right e g) t n
  unfold addF
  dsimp only
  by_cases hm : m = 0
  · by_cases hn : n = 0
    · exact ⟨_, _, _, by rw [if_pos (by simp [hm, hn])], by simp [FVal.rat, hm, hn]⟩
    · exact ⟨_, _, _, by rw [if_neg (by simp [hn]), if_pos (by simpa using hm)], by simp [FVal.rat, hm]⟩
  · by_cases hn : n = 0
    · exact ⟨_, _, _, by rw [if_neg (by simp [hm]), if_neg (by simpa using hm), if_pos (by simpa using hn)], by simp [FVal.rat, hn]⟩
    · rw [if_neg (by simp [hm]), if_neg (by simpa using hm), if_neg (by simpa using hn), hs, ht, ← add_mul, ← Int.cast_add]
      generalize (if s then _ else _ : ℤ) + (if t then _ else _ : ℤ) = z
      by_cases hz : z = 0
      · exact ⟨_, _, _, by rw [if_pos (by simpa using hz)], by simp [FVal.rat, hz]⟩
      · exact ⟨_, _, _, by rw [if_neg (by simpa using hz)], FVal.rat_natAbs z _⟩

/-- So is a product. -/
theorem mulF_fin (s t : Bool) (m n : ℕ) (e g : ℤ) :
    (mulF (.fin s m e) (.fin t n g)).1 = .fin (s != t) (m * n) (e + g) ∧
      FVal.rat (.fin (s != t) (m * n) (e + g)) = FVal.rat (.fin s m e) * FVal.rat (.fin t n g) := by
  refine ⟨rfl, ?_⟩
  rw [FVal.rat, FVal.rat, FVal.rat, zpow_add₀ two_ne_zero]
  cases s <;> cases t <;> push_cast <;> simp <;> ring

end Sys2Proof.Machine
end

section
/-!
SUPPORT (O55). The arithmetic of the pooling queue (R54, R56): what a fold step, the division by a count and the exact conversion of a raw
element answer.
-/
namespace Sys2Proof.Machine

theorem fp32_shaped : fp32.Shaped := ⟨by decide, by decide⟩
theorem bf16_shaped : bf16.Shaped := ⟨by decide, by decide⟩

/-- A finite pattern as an operand has its value. -/
theorem unpackF_rat {f : FFmt} (hf : f.Shaped) {b : ℕ} (h : f.finite b = true) :
    ∃ m e, unpackF f false b = .fin (f.neg b) m e ∧ FVal.rat (.fin (f.neg b) m e) = f.units b * f.unit := by
  obtain ⟨m, e, hu, hval⟩ := unpackF_finite hf h
  refine ⟨m, e, hu, ?_⟩
  rw [FVal.rat, hval, f.units_eq]
  push_cast
  ring

/-! ### Sums and fused products -/

theorem note_bits (f : FFmt) (ops : List FVal) (r : FVal) : (note f ops r).bits = (roundF f 0 false r).1 := rfl

/-- The bits of a fold step do not depend on what has been noted. -/
theorem foldElem_bits_congr (mode : ℕ) (w : Word) {a a' : Noted} (h : a.bits = a'.bits) (v : ℕ) :
    (foldElem mode w a v).bits = (foldElem mode w a' v).bits := by
  unfold foldElem
  rw [h]

theorem foldElem_sum {mode : ℕ} (hmode : mode = 0 ∨ mode = 2) (w : Word) {acc : Noted} {v : ℕ} (ha : f32Finite acc.bits = true)
    (hv : f32Finite v = true) : RoundedTo 0 (f32Units acc.bits + f32Units v) 1 (foldElem mode w acc v).bits := by
  obtain ⟨m, e, hm, hmval⟩ := unpackF_rat fp32_shaped ha
  obtain ⟨n, g, hn, hnval⟩ := unpackF_rat fp32_shaped hv
  obtain ⟨u, k, i, hadd, hval⟩ := addF_fin 0 (fp32.neg acc.bits) (fp32.neg v) m n e g
  have hbits : (foldElem mode w acc v).bits = (roundF fp32 0 false (addF 0 (unpackF fp32 false acc.bits) (unpackF fp32 false v)).1).1 := by
    rcases hmode with rfl | rfl <;> rfl
  rw [hbits, hm, hn, hadd]
  refine roundF_roundedIn fp32_shaped one_pos ?_
  rw [hval, hmval, hnval, f32Units, f32Units]
  push_cast
  ring

theorem foldElem_wsum {w : Word} {acc : Noted} {v : ℕ} (ha : f32Finite acc.bits = true) (hv : f32Finite v = true)
    (hw : f32Finite w.toNat = true) :
    RoundedTo 0 (f32Units acc.bits * 2 ^ 149 + f32Units w.toNat * f32Units v) (2 ^ 149) (foldElem 1 w acc v).bits := by
  obtain ⟨m, e, hm, hmval⟩ := unpackF_rat fp32_shaped ha
  obtain ⟨n, g, hn, hnval⟩ := unpackF_rat fp32_shaped hv
  obtain ⟨l, j, hl, hlval⟩ := unpackF_rat fp32_shaped hw
  obtain ⟨hmul, hprod⟩ := mulF_fin (fp32.neg w.toNat) (fp32.neg v) l n j g
  obtain ⟨u, k, i, hadd, hval⟩ := addF_fin 0 (fp32.neg w.toNat != fp32.neg v) (fp32.neg acc.bits) (l * n) m (j + g) e
  have hbits : (foldElem 1 w acc v).bits =
      (roundF fp32 0 false (addF 0 (mulF (unpackF fp32 false w.toNat) (unpackF fp32 false v)).1 (unpackF fp32 false acc.bits)).1).1 := rfl
  rw [hbits, hm, hn, hl, hmul, hadd]
  refine roundF_roundedIn fp32_shaped (Nat.two_pow_pos _) ?_
  have hunit : fp32.unit * 2 ^ 149 = 1 := by
    rw [FFmt.unit, show (fp32.lsb : ℤ) = 149 from rfl]
    norm_num
  rw [hval, hprod, hmval, hnval, hlval, f32Units, f32Units, f32Units]
  push_cast
  linear_combination (fp32.units w.toNat * fp32.units v * fp32.unit) * hunit

/-! ### The larger of two values -/

/-- A pattern is finite, an infinity or a NaN. -/
theorem FFmt.finite_or_isInf {f : FFmt} {b : ℕ} (h : f.isNan b = false) : f.finite b = true ∨ f.isInf b = true := by
  simp only [FFmt.isNan, FFmt.finite, FFmt.isInf, decide_eq_false_iff_not, decide_eq_true_eq, beq_iff_eq] at *
  omega

/-- A pattern that is no NaN comes back from its value. -/
theorem roundF_unpackF {f : FFmt} (hf : f.Shaped) {b : ℕ} (hb : b < 2 ^ f.width) (h : f.isNan b = false) :
    (roundF f 0 false (unpackF f false b)).1 = b := by
  rcases FFmt.finite_or_isInf h with hfin | hinf
  · obtain ⟨m, e, hu, hval⟩ := unpackF_finite hf hfin
    have hmag : f.mag b ≤ f.infBits := by simpa [FFmt.isNan] using h
    rw [hu, roundF_of_magUnits hf _ hmag hval, f.signBit_add_mag hb]
  · have hmag : f.infBits = f.mag b := (beq_iff_eq.mp hinf).symm
    rw [unpackF_inf hinf]
    calc f.signBit (f.neg b) + f.infBits = f.signBit (f.neg b) + f.mag b := by rw [hmag]
      _ = b := f.signBit_add_mag hb

/-- The order of finite values, where -0 lies below +0. -/
theorem FVal.le_fin (s t : Bool) (m n : ℕ) (e g : ℤ) : FVal.le (.fin s m e) (.fin t n g) =
    if m = 0 ∧ n = 0 then s || !t else decide (FVal.rat (.fin s m e) ≤ FVal.rat (.fin t n g)) := by
  have hp : (0 : ℚ) < 2 ^ min e g := zpow_pos (by norm_num) _
  have hiff := FVal.rat_fin (min_le_left e g) s m ▸ FVal.rat_fin (min_le_right e g) t n ▸
    (mul_le_mul_iff_left₀ hp).trans (Int.cast_le (R := ℚ) (m := if s then -((m * 2 ^ (e - min e g).toNat : ℕ) : ℤ)
      else ((m * 2 ^ (e - min e g).toNat : ℕ) : ℤ)))
  simp only [hiff, FVal.le, Bool.and_eq_true, beq_iff_eq]

/-- Which of two magnitudes with signs is the larger, by their values and by their places. -/
theorem signed_magUnits_le_iff (f : FFmt) (s t : Bool) (m n : ℕ) (h : ¬(m = 0 ∧ n = 0)) :
    (if s then -1 else 1) * (f.magUnits m : ℚ) ≤ (if t then -1 else 1) * f.magUnits n ↔
      (if s then -1 - (m : ℤ) else m) ≤ (if t then -1 - (n : ℤ) else n) := by
  have hmono := fun a b => f.magUnits_strictMono.le_iff_le (a := a) (b := b)
  cases s <;> cases t <;> simp only [Bool.false_eq_true, if_false, if_true, one_mul, neg_mul, neg_le_neg_iff]
  · rw [Nat.cast_le, hmono, Nat.cast_le]
  · have hsum : (0 : ℚ) < f.magUnits m + f.magUnits n := by
      have h0 := hmono
      have hm := hmono m 0
      have hn := hmono n 0
      rw [f.magUnits_zero] at hm hn
      exact_mod_cast (by omega : 0 < f.magUnits m + f.magUnits n)
    exact ⟨fun h => by linarith, fun h => by omega⟩
  · have hm : (0 : ℚ) ≤ f.magUnits m := Nat.cast_nonneg _
    have hn : (0 : ℚ) ≤ f.magUnits n := Nat.cast_nonneg _
    exact ⟨fun _ => by omega, fun _ => by linarith⟩
  · rw [Nat.cast_le, hmono]; omega

/-- Two numbers compare by their places (R211). -/
theorem le_unpackF {f : FFmt} (hf : f.Shaped) {a b : ℕ} (ha : f.isNan a = false) (hb : f.isNan b = false) :
    (unpackF f false a).le (unpackF f false b) = decide (f.place a ≤ f.place b) := by
  unfold FFmt.place
  have hpos := FFmt.infBits_pos hf
  rcases FFmt.finite_or_isInf ha with hfa | hia <;> rcases FFmt.finite_or_isInf hb with hfb | hib
  · obtain ⟨m, e, hm, hmval⟩ := unpackF_finite hf hfa
    obtain ⟨n, g, hn, hnval⟩ := unpackF_finite hf hfb
    have hzero : ∀ {k : ℕ} {i : ℤ} {j : ℕ}, (k : ℚ) * 2 ^ i = f.magUnits j * f.unit → (k = 0 ↔ j = 0) := fun {k i j} h => by
      have h1 : (k : ℚ) * 2 ^ i = 0 ↔ k = 0 := by simp [zpow_ne_zero]
      have h2 : f.magUnits j = f.magUnits 0 ↔ j = 0 := f.magUnits_strictMono.injective.eq_iff
      rw [← h1, h, mul_eq_zero, or_iff_left f.unit_pos.ne', Nat.cast_eq_zero, ← h2, f.magUnits_zero]
    simp only [hm, hn, FVal.le_fin, hzero hmval, hzero hnval]
    split
    next h0 => rw [h0.1, h0.2]; cases f.neg a <;> cases f.neg b <;> rfl
    next h0 =>
      rw [decide_eq_decide, ← signed_magUnits_le_iff f _ _ _ _ h0, FVal.rat, FVal.rat, hmval, hnval, ← mul_assoc, ← mul_assoc,
        mul_le_mul_iff_left₀ f.unit_pos]
  · obtain ⟨m, e, hm, -⟩ := unpackF_finite hf hfa
    rw [hm, unpackF_inf hib]
    simp only [FFmt.finite, FFmt.isInf, decide_eq_true_eq, beq_iff_eq] at hfa hib
    cases f.neg a <;> cases f.neg b <;> simp [FVal.le] <;> omega
  · obtain ⟨n, g, hn, -⟩ := unpackF_finite hf hfb
    rw [hn, unpackF_inf hia]
    simp only [FFmt.finite, FFmt.isInf, decide_eq_true_eq, beq_iff_eq] at hfb hia
    cases f.neg a <;> cases f.neg b <;> simp [FVal.le] <;> omega
  · rw [unpackF_inf hia, unpackF_inf hib]
    simp only [FFmt.isInf, beq_iff_eq] at hia hib
    cases f.neg a <;> cases f.neg b <;> simp [FVal.le] <;> omega

/-- MAX keeps the accumulator unless the element lies above it; a NaN among them gives the canonical one (R56). -/
theorem foldElem_max (w : Word) {acc : Noted} {v : ℕ} (ha : acc.bits < 2 ^ 32) (hv : v < 2 ^ 32) :
    (foldElem 3 w acc v).bits =
      if fp32.isNan acc.bits || fp32.isNan v then 0x7FC00000 else if fp32.place acc.bits < fp32.place v then v else acc.bits := by
  have hbits : (foldElem 3 w acc v).bits = (minmaxF fp32 false true true acc.bits v).1 := rfl
  rw [hbits]
  unfold minmaxF
  simp only [unpackF_isNan, Bool.and_true, if_true]
  cases hna : fp32.isNan acc.bits with
  | true => simp; rfl
  | false =>
    cases hnv : fp32.isNan v with
    | true => simp; rfl
    | false =>
      simp only [Bool.false_and, Bool.or_self, Bool.false_eq_true, if_false, le_unpackF fp32_shaped hnv hna, decide_eq_true_eq]
      by_cases hle : fp32.place v ≤ fp32.place acc.bits
      · rw [if_pos hle, if_neg (not_lt.mpr hle), roundF_unpackF fp32_shaped ha hna]
      · rw [if_neg hle, if_pos (not_le.mp hle), roundF_unpackF fp32_shaped hv hnv]

/-! ### Division by a count -/

/-- No half-way point lies between two quotients that follow each other where they have more bits than the format. -/
theorem FFmt.midUnits_outside (f : FFmt) {q : ℕ} (hq : 2 ^ (f.mb + 1) ≤ q) (d : ℤ) (j : ℕ) :
    (f.midUnits j : ℚ) ≤ 2 * (q * 2 ^ d) ∨ 2 * ((q + 1 : ℕ) * 2 ^ d) ≤ (f.midUnits j : ℚ) := by
  obtain ⟨E, k, rfl, hlow, hk⟩ := f.exists_block j
  rw [f.midUnits_block hlow hk]
  have hd : (0 : ℚ) < 2 ^ d := zpow_pos (by norm_num) _
  rcases le_or_gt (E : ℤ) d with hEd | hEd
  · left
    have hpow : (2 : ℚ) ^ E ≤ 2 ^ d := by rw [← zpow_natCast]; exact zpow_le_zpow_right₀ (by norm_num) hEd
    have hcoef : ((2 * k + 1 : ℕ) : ℚ) ≤ ((2 * q : ℕ) : ℚ) := by exact_mod_cast (by omega)
    calc (((2 * k + 1) * 2 ^ E : ℕ) : ℚ) = ((2 * k + 1 : ℕ) : ℚ) * 2 ^ E := by push_cast; ring
      _ ≤ ((2 * q : ℕ) : ℚ) * 2 ^ d := mul_le_mul hcoef hpow (by positivity) (by positivity)
      _ = 2 * (q * 2 ^ d) := by push_cast; ring
  · obtain ⟨r, hr⟩ : ∃ r : ℕ, (E : ℤ) = d + 1 + r := ⟨((E : ℤ) - d - 1).toNat, by omega⟩
    have hpow : (2 : ℚ) ^ E = 2 * 2 ^ r * 2 ^ d := by
      rw [← zpow_natCast, hr, zpow_add₀ two_ne_zero, zpow_add₀ two_ne_zero, zpow_one, zpow_natCast]; ring
    have hmid : (((2 * k + 1) * 2 ^ E : ℕ) : ℚ) = 2 * (((2 * k + 1) * 2 ^ r : ℕ) * 2 ^ d) := by push_cast; rw [hpow]; ring
    rw [hmid]
    rcases Nat.lt_or_ge q ((2 * k + 1) * 2 ^ r) with h | h
    · exact .inr (by gcongr; exact h)
    · exact .inl (by gcongr)

/-- So a value between them is rounded as the middle is. -/
theorem FFmt.Near.of_sticky {f : FFmt} {n q : ℕ} {d : ℤ} {x : ℚ} (hq : 2 ^ (f.mb + 1) ≤ q) (h : f.Near n ((2 * q + 1 : ℕ) * 2 ^ (d - 1)))
    (hlo : q * 2 ^ d < x) (hhi : x < (q + 1 : ℕ) * 2 ^ d) : f.Near n x := by
  have hd : (0 : ℚ) < 2 ^ d := zpow_pos (by norm_num) _
  have hmid : 2 * (((2 * q + 1 : ℕ) : ℚ) * 2 ^ (d - 1)) = (2 * q + 1) * 2 ^ d := by
    rw [zpow_sub_one₀ two_ne_zero]; push_cast; ring
  obtain ⟨h1, h2⟩ := h
  rw [hmid] at h2
  push_cast at hhi
  refine ⟨fun j hj => ?_, fun hn => ?_⟩
  · have hle := (h1 j hj).1
    rw [hmid] at hle
    have hlt : (f.midUnits j : ℚ) < 2 * x := by
      rcases f.midUnits_outside hq d j with h | h
      · linarith
      · push_cast at h; nlinarith
    exact ⟨hlt.le, fun _ => hlt⟩
  · have hle := (h2 hn).1
    have hlt : 2 * x < f.midUnits n := by
      rcases f.midUnits_outside hq d n with h | h
      · nlinarith
      · push_cast at h; linarith
    exact ⟨hlt.le, fun _ => hlt⟩

/-- The sign of a finite pattern is that of its value. -/
theorem FFmt.neg_of_units_ne_zero {f : FFmt} {b : ℕ} (h : f.units b ≠ 0) : f.neg b = decide (f.units b < 0) := by
  rw [f.units_eq] at h ⊢
  cases f.neg b <;> simp at h ⊢
  omega

/-- A mean: the quotient of a finite value and a count, rounded once (R56). -/
theorem divCount_rounded {b n : ℕ} (hb : f32Finite b = true) (hn : 0 < n) (hlt : n < 2 ^ 32) : RoundedTo 0 (f32Units b) n (divCount b n).bits := by
  obtain ⟨m, e, hu, hval⟩ := unpackF_finite fp32_shaped hb
  obtain ⟨N, hN⟩ : ∃ N, m * 2 ^ 64 = N := ⟨_, rfl⟩
  have hbits : (divCount b n).bits = (roundF fp32 0 false (.fin (fp32.neg b) (2 * (N / n) + if N % n == 0 then 0 else 1) (e - 65))).1 := by
    simp only [divCount, hu, hN, note_bits]
  obtain ⟨k, hk, hr, hnear⟩ := roundF_near fp32_shaped (fp32.neg b) (2 * (N / n) + if N % n == 0 then 0 else 1) (e - 65)
  have hn' : (0 : ℚ) < n := by exact_mod_cast hn
  have hunit : ∀ d : ℤ, (2 : ℚ) ^ d / fp32.unit = 2 ^ (d + fp32.lsb) := fun d => by
    rw [FFmt.unit, ← zpow_sub₀ two_ne_zero, sub_neg_eq_add]
  have hx : |((f32Units b : ℤ) : ℚ)| / n = (N : ℚ) / n * 2 ^ (e - 64 + fp32.lsb) := by
    have habs : |((f32Units b : ℤ) : ℚ)| = fp32.magUnits (fp32.mag b) := by
      rw [f32Units, fp32.units_eq]
      cases fp32.neg b <;> simp
    have hmag : (fp32.magUnits (fp32.mag b) : ℚ) = m * 2 ^ e / fp32.unit := by rw [hval, mul_div_cancel_right₀ _ fp32.unit_pos.ne']
    have hNq : (N : ℚ) = m * 2 ^ (64 : ℤ) := by rw [← hN]; push_cast; norm_num
    rw [habs, hmag, mul_div_assoc, hunit, hNq, show e + (fp32.lsb : ℤ) = 64 + (e - 64 + fp32.lsb) by ring, zpow_add₀ two_ne_zero]
    ring
  rw [hbits, hr]
  refine roundedIn_of_near fp32_shaped hk hn ?_ fun hz => FFmt.neg_of_units_ne_zero hz
  rw [hx]
  rw [mul_div_assoc, hunit] at hnear
  have hdm : ((n * (N / n) + N % n : ℕ) : ℚ) = N := by rw [Nat.div_add_mod]
  have hstep : e - 65 + (fp32.lsb : ℤ) = e - 64 + fp32.lsb - 1 := by ring
  rw [hstep] at hnear
  by_cases hexact : N % n = 0
  · rw [if_pos (by simpa using hexact), zpow_sub_one₀ two_ne_zero] at hnear
    convert hnear using 1
    rw [hexact] at hdm
    rw [← hdm]
    push_cast
    field_simp
    ring
  · rw [if_neg (by simpa using hexact)] at hnear
    have hm0 : 0 < m := Nat.pos_of_ne_zero fun h => hexact (by rw [← hN, h, Nat.zero_mul, Nat.zero_mod])
    have hq : 2 ^ (fp32.mb + 1) ≤ N / n := by
      rw [Nat.le_div_iff_mul_le hn, ← hN]
      calc 2 ^ (fp32.mb + 1) * n ≤ 2 ^ 32 * 2 ^ 32 := Nat.mul_le_mul (by decide) hlt.le
        _ ≤ m * 2 ^ 64 := by omega
    have hmod : N % n < n := Nat.mod_lt _ hn
    refine hnear.of_sticky hq ?_ ?_
    · refine mul_lt_mul_of_pos_right ?_ (zpow_pos (by norm_num) _)
      rw [lt_div_iff₀ hn', ← hdm]
      exact_mod_cast (by rw [Nat.mul_comm]; omega)
    · refine mul_lt_mul_of_pos_right ?_ (zpow_pos (by norm_num) _)
      rw [div_lt_iff₀ hn', ← hdm]
      exact_mod_cast (by rw [Nat.succ_mul, Nat.mul_comm]; omega)

/-! ### Raw elements -/

/-- The sign and the magnitude of the upper half of an FP32 pattern. -/
theorem fp32_mag_upper (c : ℕ) : fp32.mag (c * 2 ^ 16) = bf16.mag c * 2 ^ 16 := Nat.mul_mod_mul_right (2 ^ 16) c (2 ^ 15)

theorem fp32_neg_upper (c : ℕ) : fp32.neg (c * 2 ^ 16) = bf16.neg c := by
  show (c * 2 ^ 16 / (2 ^ 15 * 2 ^ 16) % 2 == 1) = (c / 2 ^ 15 % 2 == 1)
  rw [Nat.mul_div_mul_right _ _ (by norm_num)]

/-- Its value. -/
theorem fp32_magUnits_upper (n : ℕ) : (fp32.magUnits (n * 2 ^ 16) : ℚ) * fp32.unit = bf16.magUnits n * bf16.unit := by
  obtain ⟨E, k, rfl, hlow, hk⟩ := bf16.exists_block n
  have hpat : (E * 2 ^ bf16.mb + k) * 2 ^ 16 = E * 2 ^ fp32.mb + k * 2 ^ 16 := by
    rw [Nat.add_mul, Nat.mul_assoc, ← pow_add]; rfl
  have hlow' : E = 0 ∨ 2 ^ fp32.mb ≤ k * 2 ^ 16 := hlow.imp_right fun h => Nat.mul_le_mul_right (2 ^ 16) h
  have hk' : k * 2 ^ 16 ≤ 2 ^ (fp32.mb + 1) := Nat.mul_le_mul_right (2 ^ 16) hk.le
  have hunit : bf16.unit = 2 ^ 16 * fp32.unit := by
    rw [FFmt.unit, FFmt.unit, show (bf16.lsb : ℤ) = 133 from rfl, show (fp32.lsb : ℤ) = 149 from rfl]
    norm_num
  rw [hpat, fp32.magUnits_block hlow' hk', bf16.magUnits_block hlow hk.le, hunit]
  push_cast
  ring

/-- A BF16 pattern is the upper half of the FP32 pattern of its value (R54). -/
theorem poolRaw_bf16 {code : ℕ} (hc : code < 2 ^ 16) (h : fp32.isNan (code * 2 ^ 16) = false) : poolRaw 1 code = code * 2 ^ 16 := by
  have hinf : fp32.infBits = bf16.infBits * 2 ^ 16 := by decide
  have hle : bf16.mag code ≤ bf16.infBits := by
    rw [FFmt.isNan, decide_eq_false_iff_not, not_lt, fp32_mag_upper, hinf] at h
    exact Nat.le_of_mul_le_mul_right h (by norm_num)
  have hwhole := fp32.signBit_add_mag (b := code * 2 ^ 16) (Nat.mul_lt_mul_of_pos_right hc (by norm_num))
  rw [fp32_neg_upper, fp32_mag_upper] at hwhole
  show (roundF fp32 0 false (unpackF bf16 false code)).1 = code * 2 ^ 16
  rcases FFmt.finite_or_isInf (f := bf16) (b := code) (by simpa [FFmt.isNan] using hle) with hfin | hinf'
  · obtain ⟨m, e, hu, hval⟩ := unpackF_finite bf16_shaped hfin
    rw [hu, roundF_of_magUnits fp32_shaped _ (n := bf16.mag code * 2 ^ 16) (hinf ▸ Nat.mul_le_mul_right _ hle)
      (by rw [hval, fp32_magUnits_upper]), hwhole]
  · rw [FFmt.isInf, beq_iff_eq] at hinf'
    rw [unpackF_inf (by simpa [FFmt.isInf] using hinf')]
    rw [hinf', ← hinf] at hwhole
    exact hwhole

end Sys2Proof.Machine
end

section
/-!
SUPPORT (O55). The pooling queue's head and its core: which core and group an entry at the head names, and each of them after an update.
-/
namespace Sys2Proof.Machine

/-! ### A core after an update -/

/-- A core that the machine has, with the update of cores of its number. -/
theorem State.core_modCore_self {s : State} {c : CoreId} {f : Core → Core} (h : s.hasCore c) (hid : ∀ k, (f k).id = k.id := by intro; rfl) :
    (s.modCore c f).core c = f (s.core c) := by
  have hfind := find?_map_update (p := fun k : Core => k.id == c) (f := f) (fun k hk => by rw [hid]; exact hk) s.cores
  obtain ⟨k, hk, hkc⟩ := h
  obtain ⟨x, hx⟩ := Option.isSome_iff_exists.mp (List.find?_isSome (p := fun k : Core => k.id == c).mpr ⟨k, hk, beq_iff_eq.mpr hkc⟩)
  simp only [State.core, State.modCore, hfind, hx, Option.map_some, Option.getD_some]

/-- Another core. -/
theorem State.core_modCore_of_ne {s : State} {c d : CoreId} {f : Core → Core} (h : d ≠ c) (hid : ∀ k, (f k).id = k.id := by intro; rfl) :
    (s.modCore c f).core d = s.core d := by
  have hfind := find?_map_of_unseen (p := fun k : Core => k.id == d) (u := fun k => if k.id == c then f k else k)
    (fun k => by split <;> simp [hid]) s.cores
  simp only [State.core, State.modCore, hfind]
  cases hk : s.cores.find? fun k => k.id == d with
  | none => rfl
  | some k =>
    have hkd : k.id = d := by simpa using List.find?_some hk
    simp [hkd, h]

theorem State.hasCore.modCore {s : State} {c d : CoreId} {f : Core → Core} (h : s.hasCore c) (hid : ∀ k, (f k).id = k.id := by intro; rfl) :
    (s.modCore d f).hasCore c := by
  obtain ⟨k, hk, hkc⟩ := h
  exact ⟨_, List.mem_map_of_mem hk, by split <;> simp [hid, hkc]⟩

theorem State.hasCore.of_cores {s t : State} {c : CoreId} (ht : t.cores = s.cores) (h : s.hasCore c) : t.hasCore c := by
  unfold State.hasCore at *
  rwa [ht]

theorem State.core_of_cores {s t : State} (ht : t.cores = s.cores) (c : CoreId) : t.core c = s.core c := by
  unfold State.core
  rw [ht]

/-- A core that is not there reads as after a reset. -/
theorem State.core_of_not_hasCore {s : State} {c : CoreId} (h : ¬ s.hasCore c) : s.core c = Core.reset c := by
  have hnone : (s.cores.find? fun k => k.id == c) = none := List.find?_eq_none.mpr fun k hk => by
    simpa using fun hkc => h ⟨k, hk, hkc⟩
  simp [State.core, hnone]

/-- Canonical memory: each core's scratchpad. -/
theorem State.core_spm_wf {s : State} (h : s.memOk = true) {c : CoreId} (hc : s.hasCore c) : (s.core c).spm.wf spmUnlisted = true := by
  obtain ⟨k, hk, hkc⟩ := hc
  obtain ⟨x, hx⟩ := Option.isSome_iff_exists.mp (List.find?_isSome (p := fun k : Core => k.id == c).mpr ⟨k, hk, beq_iff_eq.mpr hkc⟩)
  have hcore : s.core c = x := by simp [State.core, hx]
  rw [hcore]
  exact (State.memOk_iff.mp h).2 _ (List.mem_map_of_mem (List.mem_of_find?_eq_some hx))

/-! ### The head of the pooling queue -/

theorem Core.headEntry_nine {k : Core} {e : EngEntry} : k.headEntry 9 = some e ↔ ∃ r, k.poolq = .entry e :: r := by
  have hq : k.queue 9 = k.poolq := rfl
  unfold Core.headEntry
  rw [hq]
  rcases k.poolq with _ | ⟨i, r⟩
  · simp
  · cases i <;> simp

/-- A core whose pooling queue holds an entry is there. -/
theorem State.hasCore_of_headEntry {s : State} {c : CoreId} {e : EngEntry} (h : (s.core c).headEntry 9 = some e) : s.hasCore c := by
  by_contra hc
  rw [State.core_of_not_hasCore hc] at h
  exact absurd h (by simp [Core.headEntry, Core.queue, Core.reset])

/-- What an entry at the head of a queue is and whose. -/
theorem State.headOf_some {s : State} {c : CoreId} {n : Nat} {g : Group} {e : EngEntry} (h : s.headOf c n = some (g, e)) :
    (s.core c).headEntry n = some e ∧ g.core = c := by
  unfold State.headOf at h
  split at h
  · cases h
  next e' he =>
    split at h
    · cases h
    · obtain ⟨g', hg, heq⟩ := Option.map_eq_some_iff.mp h
      cases heq
      have hgc := List.find?_some hg
      simp only [Bool.and_eq_true, beq_iff_eq] at hgc
      exact ⟨he, hgc.1⟩

theorem State.hasCore_of_headOf {s : State} {c : CoreId} {g : Group} {e : EngEntry} (h : s.headOf c 9 = some (g, e)) : s.hasCore c :=
  State.hasCore_of_headEntry (State.headOf_some h).1

/-! ### Numbers as bytes -/

@[simp] theorem length_leBytes (n x : Nat) : (leBytes n x).length = n := by
  induction n generalizing x with
  | zero => rfl
  | succ n ih => simp [leBytes, ih]

/-- A number reads back from its bytes as far as they hold it. -/
theorem leNat_leBytes (n x : Nat) : leNat (leBytes n x) = x % 256 ^ n := by
  induction n generalizing x with
  | zero => simp [leBytes, leNat, Nat.mod_one]
  | succ n ih =>
    have hbyte : (BitVec.ofNat 8 x).toNat = x % 256 := BitVec.toNat_ofNat ..
    rw [leBytes, leNat, ih, hbyte, Nat.pow_succ', Nat.mod_mul]

theorem leNat_lt (bs : List Byte) : leNat bs < 256 ^ bs.length := by
  induction bs with
  | nil => simp [leNat]
  | cons b bs ih =>
    have hb := b.isLt
    rw [leNat, List.length_cons, pow_succ]
    omega

end Sys2Proof.Machine
end

section
/-!
SUPPORT (O55). Taking up a bag: the steps of the queue's head, the first check, and the checks of the table's pages in order (R53, R59, R60).
-/
namespace Sys2Proof.Machine

/-! ### The queue's step -/

theorem bagStatus_plain (n code : Nat) : bagStatus n false false code = min n 0xFFFF * 2 ^ 16 + code := by simp [bagStatus]

section
variable {s : State} {c : CoreId} {g : Group} {e : EngEntry} (hhead : s.headOf c 9 = some (g, e)) (hoff : e.off = false)
  (hbag : (s.core c).bag = none) (hneeds : (s.core c).needsOver e.needs = true)
include hhead hoff hbag hneeds

theorem State.takeBag_of_done (h : (PoolCmd.parse e.cmd).nbags ≤ e.done) : s.takeBag c = s.poolComplete g e := by
  simp [State.takeBag, hhead, hoff, hbag, hneeds, h]

variable (hmore : e.done < (PoolCmd.parse e.cmd).nbags)
include hmore

/-- A bag of the wrong shape. -/
theorem State.takeBag_of_geom {lo hi : Nat} (hends : s.bagEnds g (.parse e.cmd) e.done = (lo, hi))
    (hgeom : poolGeom g (.parse e.cmd) (s.tableOf g (.parse e.cmd)) lo hi = true) :
    s.takeBag c = s.bagDone g e (.parse e.cmd) (bagStatus (hi - lo) false false cGEOM) cGEOM := by
  simp [State.takeBag, hhead, hoff, hbag, hneeds, hends, hgeom, Nat.not_le.mpr hmore]

/-- An empty bag whose result goes to the scratchpad. -/
theorem State.takeBag_of_empty {lo : Nat} (hends : s.bagEnds g (.parse e.cmd) e.done = (lo, lo))
    (hgeom : poolGeom g (.parse e.cmd) (s.tableOf g (.parse e.cmd)) lo lo = false) (hspm : (PoolCmd.parse e.cmd).dspm = true) :
    s.takeBag c = (s.grpSpmPuts g ((PoolCmd.parse e.cmd).dst + e.done * (PoolCmd.parse e.cmd).pitch)
      (List.replicate (PoolCmd.parse e.cmd).outBytes 0)).bagDone g e (.parse e.cmd) (bagStatus 0 false false cEMPTY) cEMPTY := by
  simp [State.takeBag, hhead, hoff, hbag, hneeds, hends, hgeom, Nat.not_le.mpr hmore, State.bagWrite, hspm]

variable {lo hi : Nat} (hends : s.bagEnds g (.parse e.cmd) e.done = (lo, hi))
  (hgeom : poolGeom g (.parse e.cmd) (s.tableOf g (.parse e.cmd)) lo hi = false) (hlt : lo < hi)
include hends hgeom hlt

/-- A bag that a later check rejects, by no failed table read. -/
theorem State.takeBag_of_code {idx : List Nat} (hidx : (s.spmWords g ((PoolCmd.parse e.cmd).idxOff + 4 * lo) (hi - lo)).map (·.toNat) = idx)
    {code : Nat} (hcode : s.bagCode g (.parse e.cmd) (s.tableOf g (.parse e.cmd)) idx = code) (h0 : code ≠ 0) (hfail : code ≠ cUNCORR) :
    s.takeBag c = s.bagDone g e (.parse e.cmd) (bagStatus (hi - lo) false false code) code := by
  have hn : ¬ hi - lo = 0 := by omega
  simp only [State.takeBag, hhead, hoff, hbag, hneeds, hends, hgeom, Nat.not_le.mpr hmore, hidx, hcode, Option.isSome_none, Bool.not_true,
    Bool.or_self, Bool.false_eq_true, if_false, hn, beq_iff_eq]
  split
  · contradiction
  · simp only [if_neg hfail]

/-- A bag whose checks a table read ends (R60). -/
theorem State.takeBag_of_fail {idx : List Nat} (hidx : (s.spmWords g ((PoolCmd.parse e.cmd).idxOff + 4 * lo) (hi - lo)).map (·.toNat) = idx)
    (hcode : s.bagCode g (.parse e.cmd) (s.tableOf g (.parse e.cmd)) idx = cUNCORR) {f : AccFail}
    (hfail : s.bagFail g (.parse e.cmd) (s.tableOf g (.parse e.cmd)) idx = some f) :
    s.takeBag c = (s.bagDone g e (.parse e.cmd) (bagStatus (hi - lo) false false cUNCORR) cUNCORR).engTrap g e.who (f.engine .read) := by
  have hn : ¬ hi - lo = 0 := by omega
  have hcode0 : cUNCORR ≠ 0 := by decide
  simp only [State.takeBag, hhead, hoff, hbag, hneeds, hends, hgeom, Nat.not_le.mpr hmore, hidx, hcode, Option.isSome_none, Bool.not_true,
    Bool.or_self, Bool.false_eq_true, if_false, hn, beq_iff_eq]
  split
  · contradiction
  · simp only [if_true, hfail]

/-- A bag that passes all checks. -/
theorem State.takeBag_of_ok {idx : List Nat} (hidx : (s.spmWords g ((PoolCmd.parse e.cmd).idxOff + 4 * lo) (hi - lo)).map (·.toNat) = idx)
    {u : Table} (hu : s.tableOf g (.parse e.cmd) = some u) (hcode : s.bagCode g (.parse e.cmd) (some u) idx = 0) :
    ∃ ws, s.takeBag c = (s.useBanks g (s.bagRuns g (.parse e.cmd) e.done)).modCore c fun k =>
      { k with bag := some (s.newBag g (.parse e.cmd) u idx ws) } := by
  have hn : ¬ hi - lo = 0 := by omega
  rw [hu] at hgeom
  simp only [State.takeBag, hhead, hoff, hbag, hneeds, hends, hgeom, Nat.not_le.mpr hmore, hidx, hcode, hu, Option.isSome_none, Bool.not_true,
    Bool.or_self, Bool.false_eq_true, if_false, hn, beq_iff_eq]
  exact ⟨_, rfl⟩

end

/-! ### The checks -/

/-- Check 1 in words (R59). -/
theorem poolGeom_iff (g : Group) (c : PoolCmd) (u : Table) (lo hi : Nat) : poolGeom g c (some u) lo hi = true ↔
    c.tbase % 2 ^ 21 ≠ 0 ∨ c.nrows = 0 ∨ c.rowLen = 0 ∨ 1024 < c.rowLen ∨ c.stride % 16 ≠ 0 ∨ hi < lo ∨
    (lo < hi ∧ g.res.spm * 512 < c.idxOff + 4 * lo + 4 * (hi - lo)) ∨
    (lo < hi ∧ c.mode = 1 ∧ g.res.spm * 512 < c.wOff + 4 * lo + 4 * (hi - lo)) ∨
    c.stride < (c.rowLen * u.bits + 7) / 8 ∨ 2 ^ 18 / u.b < c.stride := by
  have hn : hi - lo ≠ 0 ↔ lo < hi := by omega
  simp only [poolGeom, Group.inSpm, Bool.or_eq_true, Bool.and_eq_true, bne_iff_ne, beq_iff_eq, decide_eq_true_eq,
    Bool.not_eq_true', decide_eq_false_iff_not, not_le, hn, or_assoc, and_assoc]
  rfl

/-- A table that is not there is no bag's. -/
theorem State.bagCode_none (s : State) (g : Group) (c : PoolCmd) (idx : List Nat) : s.bagCode g c none idx ≠ 0 := by
  unfold State.bagCode
  split
  · decide
  · dsimp only
    split <;> decide

theorem State.bagCode_of_range (s : State) (g : Group) (c : PoolCmd) (t : Option Table) {idx : List Nat} (h : ∃ x ∈ idx, c.nrows ≤ x) :
    s.bagCode g c t idx = cRANGE := by
  unfold State.bagCode
  rw [if_pos (by simpa using h)]

/-- Whether the rows of a bag lie in one segment. -/
theorem one_lt_eraseDups_iff {l : List Nat} : 1 < l.eraseDups.length ↔ ∃ x ∈ l, ∃ y ∈ l, x ≠ y := by
  cases l with
  | nil => simp
  | cons a t =>
    rw [List.eraseDups_cons, List.length_cons]
    have hother : 0 < (t.filter fun b => !b == a).eraseDups.length ↔ ∃ b ∈ t, b ≠ a := by
      cases hf : t.filter fun b => !b == a with
      | nil => simpa using fun b hb => by simpa using List.filter_eq_nil_iff.mp hf b hb
      | cons b r =>
        have hb := List.mem_filter.mp (hf ▸ List.mem_cons_self : b ∈ t.filter fun b => !b == a)
        exact iff_of_true (by simp [List.eraseDups_cons]) ⟨b, hb.1, by simpa using hb.2⟩
    rw [Nat.lt_add_left_iff_pos, hother]
    constructor
    · rintro ⟨b, hb, hne⟩
      exact ⟨b, List.mem_cons_of_mem a hb, a, List.mem_cons_self, hne⟩
    · rintro ⟨x, hx, y, hy, hne⟩
      by_cases hxa : x = a
      · exact ⟨y, (List.mem_cons.mp hy).resolve_left (hxa ▸ hne.symm), hxa ▸ hne.symm⟩
      · exact ⟨x, (List.mem_cons.mp hx).resolve_left hxa, hxa⟩

theorem State.bagCode_of_segments (s : State) (g : Group) (c : PoolCmd) (u : Table) {idx : List Nat} (hr : ∀ x ∈ idx, x < c.nrows)
    (h : ∃ x ∈ idx, ∃ y ∈ idx, u.segOf c x ≠ u.segOf c y) : s.bagCode g c (some u) idx = cSEGCROSS := by
  unfold State.bagCode
  rw [if_neg (by simpa using hr)]
  dsimp only
  rw [if_pos (one_lt_eraseDups_iff.mpr (by simpa using h))]

/-- The 32 frames of a block, raw pages of a capacity view each. -/
def State.RawBlock (s : State) (g : Group) (base : Nat) (leaf : Nat → Leaf) : Prop :=
  ∀ i, i < 32 → s.leafNow g.core g.asid (base + 65536 * i) = .ok (leaf i) ∧ isViewPA (leaf i).base = true ∧ (leaf i).fmt = 0

section
variable {s : State} {g : Group} {base : Nat} {leaf : Nat → Leaf} (h : s.RawBlock g base leaf)
include h

theorem State.RawBlock.blockLeaves : s.blockLeaves g base = (List.range 32).map fun i => (base + 65536 * i, .ok (leaf i)) :=
  List.map_congr_left fun i hi => by rw [(h i (List.mem_range.mp hi)).1]

/-- A raw page needs no format entry. -/
theorem State.RawBlock.leafFmt {i : Nat} (hi : i < 32) (va : Nat) : s.leafFmt g va (leaf i) = .ok (some none) := by
  obtain ⟨-, -, hfmt⟩ := h i hi
  simp [State.leafFmt, hfmt]

theorem State.RawBlock.segFmt : s.segFmt g base = some none := by
  obtain ⟨hleaf, -, -⟩ := h 0 (by decide)
  rw [Nat.mul_zero, Nat.add_zero] at hleaf
  unfold State.segFmt
  rw [hleaf]
  dsimp only
  rw [h.leafFmt (by decide)]
  rfl

theorem State.RawBlock.pageFail_none : ∀ r ∈ s.blockLeaves g base, s.pageFail g r = none := by
  rw [h.blockLeaves]
  intro r hr
  obtain ⟨i, hi, rfl⟩ := List.mem_map.mp hr
  simp [State.pageFail, h.leafFmt (List.mem_range.mp hi)]

theorem State.RawBlock.poolPage : ∀ r ∈ s.blockLeaves g base, s.poolPage g r = true := by
  rw [h.blockLeaves]
  intro r hr
  obtain ⟨i, hi, rfl⟩ := List.mem_map.mp hr
  obtain ⟨-, hview, -⟩ := h i (List.mem_range.mp hi)
  simp [State.poolPage, hview, h.leafFmt (List.mem_range.mp hi), Except.toOption]

theorem State.RawBlock.okLeaves : okLeaves (s.blockLeaves g base) = (List.range 32).map leaf := by
  rw [h.blockLeaves, Sys2Proof.Machine.okLeaves, List.filterMap_map]
  exact congrFun List.filterMap_eq_map _

/-- R50's attributes over the frames: an aligned base that is not write-back, and no frame out of order or of another CP or wing. -/
theorem State.RawBlock.poolAttrs : (!poolAttrs base ((List.range 32).map leaf)) =
    ((leaf 0).pa base % 2 ^ 21 != 0 || (leaf 0).cp == 0 || (List.range 32).any fun i =>
      (leaf i).pa (base + 65536 * i) != (leaf 0).pa base + 65536 * i || (leaf i).cp != (leaf 0).cp || (leaf i).wg != (leaf 0).wg) := by
  have hfmt : ∀ i, i < 32 → (leaf i).fmt = 0 := fun i hi => (h i hi).2.2
  have hmap : (((List.range 32).map leaf).mapIdx fun i x => x.pa (base + 65536 * i) == (leaf 0).pa base + 65536 * i && x.cp == (leaf 0).cp &&
      x.fmt == (leaf 0).fmt && x.wg == (leaf 0).wg) = (List.range 32).map fun i =>
        (leaf i).pa (base + 65536 * i) == (leaf 0).pa base + 65536 * i && (leaf i).cp == (leaf 0).cp && (leaf i).wg == (leaf 0).wg := by
    refine List.ext_getElem (by simp) fun i hi _ => ?_
    simp [hfmt i (by simpa using hi), hfmt 0 (by decide)]
  have hhead : ((List.range 32).map leaf).head? = some (leaf 0) := rfl
  unfold Sys2Proof.Machine.poolAttrs
  rw [hhead]
  dsimp only
  rw [hmap, List.all_map]
  simp only [Bool.not_and, List.not_all_eq_any_not, Function.comp_def, id_eq, bne, Bool.not_not]

/-- The checks 4 to 9 of a bag whose rows lie in one segment of raw pages (R59). -/
theorem State.RawBlock.bagCode {c : PoolCmd} {u : Table} {idx : List Nat} {first : Nat → Leaf} (hbase : base = u.segBase c idx)
    (hfirst : s.RawBlock g c.tbase first)
    (hr : ∀ x ∈ idx, x < c.nrows) (hseg : ∀ x ∈ idx, ∀ y ∈ idx, u.segOf c x = u.segOf c y) : s.bagCode g c (some u) idx =
      if (List.range 32).any fun i => !(leaf i).pool then cNOPOOL
      else if (List.range 32).any fun i => !(leaf i).pin then cNOPIN
      else if (leaf 0).pa base % 2 ^ 21 != 0 || (leaf 0).cp == 0 || (List.range 32).any fun i =>
        (leaf i).pa (base + 65536 * i) != (leaf 0).pa base + 65536 * i || (leaf i).cp != (leaf 0).cp || (leaf i).wg != (leaf 0).wg then cATTRMIX
      else if (List.range 32).any fun i => (leaf i).wg != g.wing ||
        (viewBuffers (paSel (leaf i).base)).any fun n => !(s.wing g.wing).bufs.getLsbD n then cWING
      else if (List.range 32).any fun i => (viewBuffers (paSel (leaf i).base)).any fun n => (s.buffer n).fenced || !(s.buffer n).trained then cBUFDOWN
      else cOK := by
  have hblocks : s.bagBlocks g c u idx = [base] := by
    simp only [State.bagBlocks, ← hbase, h.segFmt, Option.getD_some, scaleBlocks]
  have hfail : s.bagFail g c (some u) idx = none := by
    simp only [State.bagFail, hblocks]
    refine List.findSome?_eq_none_iff.mpr fun r hr => ?_
    simp only [List.flatMap_cons, List.flatMap_nil, List.append_nil, List.mem_append] at hr
    exact hr.elim (hfirst.pageFail_none r) (h.pageFail_none r)
  have hpages : (s.blockLeaves g c.tbase ++ s.blockLeaves g base).all (s.poolPage g) = true :=
    List.all_eq_true.mpr fun r hr => (List.mem_append.mp hr).elim (hfirst.poolPage r) (h.poolPage r)
  unfold State.bagCode
  rw [if_neg (by simpa using hr)]
  dsimp only
  rw [if_neg (mt one_lt_eraseDups_iff.mp (by simpa using hseg))]
  simp only [← hbase, h.segFmt, hblocks, hfail, h.okLeaves, List.map_cons, List.map_nil, List.flatMap_cons, List.flatMap_nil, List.append_nil,
    Option.getD_some, hpages, Option.isSome_none, Bool.not_true, Bool.or_self, Bool.false_eq_true, if_false, List.all_cons, List.all_nil,
    Bool.and_true, List.any_map, Function.comp_def, h.poolAttrs, List.not_all_eq_any_not]

end

end Sys2Proof.Machine
end

section
/-!
SUPPORT (O55). The end of a bag: its status word, and the head entry that it leaves (R58, R62, R64).
-/
namespace Sys2Proof.Machine

/-! ### A core's own scratchpad and pooling queue -/

section
variable {s : State} {c : CoreId} {g : Group}

theorem State.hasCore.grpSpmPuts (h : s.hasCore c) (off : Nat) (bs : List Byte) : (s.grpSpmPuts g off bs).hasCore c := h.modCore

theorem State.core_grpSpmPuts (h : s.hasCore g.core) (off : Nat) (bs : List Byte) :
    (s.grpSpmPuts g off bs).core g.core = { s.core g.core with spm := memPuts spmUnlisted (s.core g.core).spm (g.spmBase + off) bs } :=
  State.core_modCore_self h

theorem State.core_setHead {e : EngEntry} {i : QItem} {r : List QItem} (h : s.hasCore c) (hq : (s.core c).poolq = i :: r) :
    (s.setHead c 9 e).core c = { s.core c with poolq := .entry e :: r } := by
  refine (State.core_modCore_self h).trans ?_
  simp [Core.modQueue, hq]

theorem State.core_popHead (h : s.hasCore c) : (s.popHead c 9).core c = { s.core c with poolq := (s.core c).poolq.drop 1 } :=
  State.core_modCore_self h

/-- What an engine writes to a group's scratchpad in canonical form reads back. -/
theorem State.grpSpm_of_spm {t : State} {k : Core} {off : Nat} {bs : List Byte} (hk : k.spm.wf spmUnlisted = true)
    (ht : (t.core g.core).spm = memPuts spmUnlisted k.spm (g.spmBase + off) bs) : t.grpSpm g off bs.length = bs := by
  unfold State.grpSpm State.spmBytes
  rw [ht]
  exact memGets_memPuts hk _ _

end

/-! ### The end of a bag -/

/-- The status word stands, and the core has no bag. -/
def State.bagClosed (s : State) (g : Group) (e : EngEntry) (c : PoolCmd) (status : Nat) : State :=
  (s.grpSpmPuts g (c.stOff + 4 * e.done) (leBytes 4 status)).modCore g.core fun k => { k with bag := none }

/-- The entry after a bag with an outcome code. -/
def EngEntry.afterBag (e : EngEntry) (code : Nat) : EngEntry :=
  { e with done := e.done + 1, reject := e.reject || (e.trapT && 0x10 ≤ code && code ≤ 0x18) }

theorem State.bagDone_eq (s : State) (g : Group) (e : EngEntry) (c : PoolCmd) (status code : Nat) :
    s.bagDone g e c status code =
      if e.done + 1 < c.nbags then (s.bagClosed g e c status).setHead g.core 9 (e.afterBag code)
      else ((s.bagClosed g e c status).setHead g.core 9 (e.afterBag code)).poolComplete g (e.afterBag code) := rfl

section
variable {s : State} {g : Group} {e : EngEntry} {c : PoolCmd} {status code : Nat}

/-- A command without a counter is complete. -/
theorem State.poolComplete_of_none (hctr : (e.counter 9).1 = .none) : s.poolComplete g e =
    if e.reject then (s.popHead g.core 9).engTrap g e.who { (causeReject rPOOLREJ 9) with thread := 0xFF } else s.popHead g.core 9 := by
  have hcounter : e.counter 9 = (.none, (e.counter 9).2) := Prod.ext hctr rfl
  unfold State.poolComplete State.completeEntry
  rw [hcounter]
  rfl

variable (hc : s.hasCore g.core)
include hc

theorem State.core_bagClosed : (s.bagClosed g e c status).hasCore g.core ∧ (s.bagClosed g e c status).core g.core =
    { s.core g.core with
      spm := memPuts spmUnlisted (s.core g.core).spm (g.spmBase + (c.stOff + 4 * e.done)) (leBytes 4 status), bag := none } := by
  have hput := hc.grpSpmPuts (g := g) (c.stOff + 4 * e.done) (leBytes 4 status)
  refine ⟨hput.modCore, ?_⟩
  rw [State.bagClosed, State.core_modCore_self hput, State.core_grpSpmPuts hc]

variable {r : List QItem} (hq : (s.core g.core).poolq = .entry e :: r)
include hq

/-- The core after a bag of a command that has more. -/
theorem State.core_bagDone_of_more (hmore : e.done + 1 < c.nbags) : (s.bagDone g e c status code).core g.core =
    { s.core g.core with
      spm := memPuts spmUnlisted (s.core g.core).spm (g.spmBase + (c.stOff + 4 * e.done)) (leBytes 4 status), bag := none
      poolq := .entry (e.afterBag code) :: r } := by
  obtain ⟨hc1, hcore⟩ := State.core_bagClosed (e := e) (c := c) (status := status) hc
  rw [State.bagDone_eq, if_pos hmore, State.core_setHead hc1 (by rw [hcore]; exact hq), hcore]

/-- The core after the last bag of a command without a counter. -/
theorem State.core_bagDone_of_last (hlast : c.nbags ≤ e.done + 1) (hctr : (e.counter 9).1 = .none) :
    (s.bagDone g e c status code).core g.core =
    { s.core g.core with
      spm := memPuts spmUnlisted (s.core g.core).spm (g.spmBase + (c.stOff + 4 * e.done)) (leBytes 4 status), bag := none
      poolq := (s.core g.core).poolq.drop 1 } := by
  obtain ⟨hc1, hcore⟩ := State.core_bagClosed (e := e) (c := c) (status := status) hc
  have hset := State.core_setHead (e := e.afterBag code) hc1 (by rw [hcore]; exact hq)
  have hc2 : ((s.bagClosed g e c status).setHead g.core 9 (e.afterBag code)).hasCore g.core := hc1.modCore
  have hpop := State.core_popHead hc2
  rw [hset, hcore] at hpop
  rw [State.bagDone_eq, if_neg (Nat.not_lt.mpr hlast), State.poolComplete_of_none (e := e.afterBag code) hctr, hq]
  cases (e.afterBag code).reject
  · exact hpop
  · exact hpop

end

/-- The trap of a rejected bag under `.t`, as the command's last bag leaves it with its group (R62). -/
theorem State.group?_bagDone_of_reject {s : State} {g : Group} {e : EngEntry} {c : PoolCmd} {status code : Nat}
    (hg : s.group? g.core g.slot = some g) (hlast : c.nbags ≤ e.done + 1) (hctr : (e.counter 9).1 = .none)
    (hrej : (e.afterBag code).reject = true) :
    ∃ d, (s.bagDone g e c status code).group? g.core g.slot = some { g with deferred := g.deferred ++ [d] } ∧
      d.trapRec = mkRecord e.who true { (causeReject rPOOLREJ 9) with thread := 0xFF } := by
  rw [State.bagDone_eq, if_neg (Nat.not_lt.mpr hlast), State.poolComplete_of_none (e := e.afterBag code) hctr, hrej, if_pos rfl]
  exact ⟨_, State.group?_modGroup (fun _ => ⟨rfl, rfl⟩) hg, rfl⟩

/-- The end of a bag: the status word, the progress of its command, and the trap of one that rejected a bag (R58, R62, R64). -/
theorem State.bagDone_spec (s : State) (g : Group) (e : EngEntry) (cmd : PoolCmd) (status code : Nat)
    (hg : s.group? g.core g.slot = some g) (hhead : (s.core g.core).headEntry 9 = some e) (hmem : s.memOk = true) :
    let t := s.bagDone g e cmd status code
    (e.trapT = true → 0x10 ≤ code → code ≤ 0x18 → cmd.nbags ≤ e.done + 1 → (e.counter 9).1 = .none →
      ∃ d, t.group? g.core g.slot = some { g with deferred := g.deferred ++ [d] } ∧ d.trapRec.cls = 7 ∧ d.trapRec.reason = rPOOLREJ ∧
        d.trapRec.pc = e.who.pc ∧ (t.core g.core).poolq = ((s.core g.core).poolq).drop 1) ∧
    (e.trapT = false → e.reject = false →
    (e.done + 1 < cmd.nbags →
      (t.core g.core).bag = none ∧ (t.core g.core).headEntry 9 = some { e with done := e.done + 1 } ∧
      leNat (t.grpSpm g (cmd.stOff + 4 * e.done) 4) = status % 2 ^ 32) ∧
    (cmd.nbags ≤ e.done + 1 → (e.counter 9).1 = .none →
      (t.core g.core).bag = none ∧ (t.core g.core).poolq = ((s.core g.core).poolq).drop 1 ∧
      leNat (t.grpSpm g (cmd.stOff + 4 * e.done) 4) = status % 2 ^ 32)) := by
  have hc := State.hasCore_of_headEntry hhead
  obtain ⟨r, hq⟩ := Core.headEntry_nine.mp hhead
  have hread : ∀ {t : State}, (t.core g.core).spm =
      memPuts spmUnlisted (s.core g.core).spm (g.spmBase + (cmd.stOff + 4 * e.done)) (leBytes 4 status) →
      leNat (t.grpSpm g (cmd.stOff + 4 * e.done) 4) = status % 2 ^ 32 := fun ht => by
    have hbytes := State.grpSpm_of_spm (State.core_spm_wf hmem hc) ht
    rw [length_leBytes] at hbytes
    rw [hbytes, leNat_leBytes]
    norm_num
  intro t
  refine ⟨fun htrap hlo hhi hlast hctr => ?_, fun htrap hrej => ⟨fun hmore => ?_, fun hlast hctr => ?_⟩⟩
  · obtain ⟨d, hgroup, hrec⟩ := State.group?_bagDone_of_reject (status := status) (code := code) hg hlast hctr
      (by simp [EngEntry.afterBag, htrap, hlo, hhi])
    refine ⟨d, hgroup, by rw [hrec]; rfl, by rw [hrec]; rfl, by rw [hrec]; rfl, ?_⟩
    rw [State.core_bagDone_of_last hc hq hlast hctr]
  · have hcore := State.core_bagDone_of_more (status := status) (code := code) hc hq hmore
    have hentry : e.afterBag code = { e with done := e.done + 1 } := by simp [EngEntry.afterBag, htrap]
    refine ⟨by rw [hcore], ?_, hread (by rw [hcore])⟩
    rw [hcore, Core.headEntry_nine, hentry]
    exact ⟨r, rfl⟩
  · have hcore := State.core_bagDone_of_last (status := status) (code := code) hc hq hlast hctr
    exact ⟨by rw [hcore], by rw [hcore], hread (by rw [hcore])⟩

end Sys2Proof.Machine
end

section
/-!
SUPPORT (O55). The partial vectors of the buffers, and their combination (R54 to R56, R61, R320).
-/
namespace Sys2Proof.Machine

/-! ### A buffer's rows -/

theorem State.report_cores (s : State) (wing : Nat) (body : List Nat) : (s.report wing body).cores = s.cores := by
  unfold State.report
  split <;> rfl

theorem State.uncorrectable_cores (s : State) (wing pa : Nat) (syn : BitVec 16) : (s.uncorrectable wing pa syn).cores = s.cores := by
  unfold State.uncorrectable
  split <;> exact State.report_cores ..

/-- What a check's outcome counts and reports touches no core. -/
theorem State.checked_cores (s : State) (wing : Nat) (k : Check) : (s.checked wing k).cores = s.cores := by
  cases k with
  | good => rfl
  | corrected pa =>
    show (s.countCorrected pa).cores = s.cores
    unfold State.countCorrected
    split <;> rfl
  | uncorrectable pa syn => exact State.uncorrectable_cores ..
  | wrong pa flips => rfl

theorem State.foldRows_eq_foldl (s : State) (c : PoolCmd) (b : Bag) (e : Nat) (rows : List (Nat × Nat × Word)) (acc : Noted) :
    s.foldRows c b e rows acc = rows.foldl (fun a r => foldElem c.mode r.2.2 a (s.rowElem c b r.1 r.2.1 e)) acc := by
  induction rows generalizing acc with
  | nil => rfl
  | cons r rows ih => exact ih _

theorem poolInit_eq (mode : Nat) : poolInit mode = ⟨if mode = 3 then 0xFF800000 else 0x80000000, false, false⟩ := by
  simp only [poolInit, beq_iff_eq]

/-- The bag after a buffer's read of its rows. -/
def State.bagAfter (s : State) (cmd : PoolCmd) (b : Bag) (view : Nat) (k : Check) : Bag :=
  let out := (List.range cmd.rowLen).map fun i => (s.asRead k).foldRows cmd b i (b.rowsOf view) (poolInit cmd.mode)
  { b with
    views := b.views.filter (· != view), parts := b.parts ++ [(view, out.map fun r => BitVec.ofNat 32 r.bits)],
    inv := b.inv || out.any (·.inv), ovf := b.ovf || out.any (·.ovf), uncorr := if k.aux.isSome then k.aux else b.uncorr }

theorem State.bagAfter_uncorr (s : State) {cmd : PoolCmd} {b : Bag} {view : Nat} {k : Check} {aux : DWord} (h : k.aux = some aux) :
    (s.bagAfter cmd b view k).uncorr = some aux := by
  simp [State.bagAfter, h]

theorem State.core_poolView {s : State} {c : CoreId} {view : Nat} {g : Group} {e : EngEntry} {b : Bag} (hhead : s.headOf c 9 = some (g, e))
    (hbag : (s.core c).bag = some b) (hview : view ∈ b.views) (ecc : Ecc) :
    ((s.poolView c view ecc).core c).bag =
      some (s.bagAfter (.parse e.cmd) b view (eccCheck ecc (rowUnits (.parse e.cmd) b (b.rowsOf view)))) := by
  have hc := (State.hasCore_of_headOf hhead).of_cores
    (State.checked_cores s g.wing (eccCheck ecc (rowUnits (.parse e.cmd) b (b.rowsOf view))))
  have hin : b.views.contains view = true := List.contains_iff_mem.mpr hview
  simp only [State.poolView, hhead, hbag, hin, Bool.not_true, Bool.false_eq_true, if_false]
  rw [State.core_modCore_self hc]
  rfl

/-- A raw element of a row (R54, R318). -/
theorem State.rowElem_raw (s : State) (c : PoolCmd) {b : Bag} (va pa e : Nat) (hfmt : b.fmt = none) :
    let bytes (n : Nat) : Nat := leNat ((List.range n).map fun i => s.memByte (pa + n * e + i))
    (c.raw = 0 → s.rowElem c b va pa e = bytes 4) ∧
    (c.raw = 1 → fp32.isNan (bytes 2 * 2 ^ 16) = false → s.rowElem c b va pa e = bytes 2 * 2 ^ 16) := by
  have hlt : ∀ n, leNat ((List.range n).map fun i => s.memByte (pa + n * e + i)) < 256 ^ n := fun n => by
    simpa using leNat_lt ((List.range n).map fun i => s.memByte (pa + n * e + i))
  intro bytes
  refine ⟨fun hraw => ?_, fun hraw hnan => ?_⟩
  · have hoff : e * 32 / 8 = 4 * e := by omega
    have hbit : e * 32 % 8 = 0 := by omega
    have hcode : s.rowElem c b va pa e = bytes 4 / 2 ^ 0 % 2 ^ 32 % 2 ^ 32 := by
      simp only [State.rowElem, elemBits, hfmt, hraw, poolRawBits, poolRaw, hoff, hbit]
      rfl
    have h4 : bytes 4 < 2 ^ 32 := (hlt 4).trans_eq (by norm_num)
    rw [hcode, pow_zero, Nat.div_one, Nat.mod_mod, Nat.mod_eq_of_lt h4]
  · have hoff : e * 16 / 8 = 2 * e := by omega
    have hbit : e * 16 % 8 = 0 := by omega
    have hcode : s.rowElem c b va pa e = poolRaw 1 (bytes 2 / 2 ^ 0 % 2 ^ 16) := by
      simp only [State.rowElem, elemBits, hfmt, hraw, poolRawBits, hoff, hbit]
      rfl
    have h2 : bytes 2 < 2 ^ 16 := (hlt 2).trans_eq (by norm_num)
    rw [hcode, pow_zero, Nat.div_one, Nat.mod_eq_of_lt h2, poolRaw_bf16 h2 hnan]

/-! ### Combination -/

/-- The combination of an element depends on the bits of the parts only. -/
theorem foldl_combineElem_bits (mode i : Nat) (ps : List (List Word)) (acc : Noted) :
    (ps.foldl (fun acc q => combineElem mode acc (q.getD i 0).toNat) acc).bits =
      ps.foldl (fun a q => (foldElem (if mode = 3 then 3 else 0) 0 ⟨a, false, false⟩ (q.getD i 0).toNat).bits) acc.bits := by
  induction ps generalizing acc with
  | nil => rfl
  | cons q ps ih =>
    have hstep : (combineElem mode acc (q.getD i 0).toNat).bits =
        (foldElem (if mode = 3 then 3 else 0) 0 ⟨acc.bits, false, false⟩ (q.getD i 0).toNat).bits := by
      simp only [combineElem, beq_iff_eq]
      exact foldElem_bits_congr _ _ rfl _
    rw [List.foldl_cons, List.foldl_cons, ih, hstep]

/-- An FP32 element of the final vector (R56). -/
theorem finalElem_bits {c : PoolCmd} {b : Bag} {p : List Word} {ps : List (List Word)} (i : Nat) (hparts : partsAsc b = p :: ps)
    (hobf : c.obf = false) :
    let all := ps.foldl (fun a q => (foldElem (if c.mode = 3 then 3 else 0) 0 ⟨a, false, false⟩ (q.getD i 0).toNat).bits) (p.getD i 0).toNat
    (finalElem c b i).bits = if c.mode = 2 then (divCount all b.idx.length).bits else all := by
  have hall := foldl_combineElem_bits c.mode i ps ⟨(p.getD i 0).toNat, false, false⟩
  intro all
  simp only [finalElem, hparts, hobf, Bool.false_eq_true, if_false, hall, beq_iff_eq]
  split
  · rfl
  · exact hall

/-- A vector goes to the scratchpad, or to the pages of its destination (R55). -/
theorem State.bagWrite_spm (s : State) (g : Group) {c : PoolCmd} (b : Nat) {bs : List Byte} (h : c.dspm = true) :
    s.bagWrite g c b bs = .ok (s.grpSpmPuts g (c.dst + b * c.pitch) bs) := by
  simp only [State.bagWrite, h, if_true]

theorem State.bagWrite_pages {s : State} {g : Group} {c : PoolCmd} {b : Nat} {bs : List Byte} {ps : Pages} (h : c.dspm = false)
    (hps : s.engPages g.whoIs .write (c.dst + b * c.pitch) bs.length = .ok ps) : s.bagWrite g c b bs = .ok (s.engWrite g.whoIs ps bs) := by
  simp only [State.bagWrite, h, hps, Bool.false_eq_true, if_false]

/-- A combination's bag ends with its vector written, by the codes of its parts (R55, R56). -/
theorem State.combine_of_sound {s : State} {c : CoreId} {g : Group} {e : EngEntry} {b : Bag} (hhead : s.headOf c 9 = some (g, e))
    (hbag : (s.core c).bag = some b) (hviews : b.views = []) (hgood : b.uncorr = none) {t : State}
    (hwrite : s.bagWrite g (.parse e.cmd) e.done (((List.range (PoolCmd.parse e.cmd).rowLen).map (finalElem (.parse e.cmd) b)).flatMap fun r =>
      leBytes (if (PoolCmd.parse e.cmd).obf then 2 else 4) r.bits) = .ok t) :
    let out := (List.range (PoolCmd.parse e.cmd).rowLen).map (finalElem (.parse e.cmd) b)
    s.combine c = (t.useBanks g ((PoolCmd.parse e.cmd).outRuns e.done)).bagDone g e (.parse e.cmd)
      (bagStatus b.idx.length (b.inv || out.any (·.inv)) (b.ovf || out.any (·.ovf)) cOK) cOK := by
  simp only [State.combine, hhead, hbag, hviews, hgood, hwrite, List.isEmpty_nil, Bool.not_true, Bool.false_eq_true, if_false]

/-- The state that takes the free bytes of a bag with an uncorrectable row to the scratchpad (R61). -/
def State.freed (s : State) (g : Group) (c : PoolCmd) (b : Nat) : State :=
  ((s.freeBytes (c.outBytes + 1)).1.grpSpmPuts g (c.dst + b * c.pitch) ((s.freeBytes (c.outBytes + 1)).2.drop 1)).useBanks g (c.outRuns b)

theorem State.combine_of_lost {s : State} {c : CoreId} {g : Group} {e : EngEntry} {b : Bag} (hhead : s.headOf c 9 = some (g, e))
    (hbag : (s.core c).bag = some b) (hviews : b.views = []) {aux : DWord} (hbad : b.uncorr = some aux)
    (hspm : (PoolCmd.parse e.cmd).dspm = true) :
    ∃ inv ovf, s.combine c =
      ((s.freed g (.parse e.cmd) e.done).bagDone g e (.parse e.cmd) (bagStatus b.idx.length inv ovf cUNCORR) cUNCORR).engTrap g e.who
        { cls := 0, kind := 1, aux := aux } := by
  simp only [State.combine, hhead, hbag, hviews, hbad, List.isEmpty_nil, Bool.not_true, Bool.false_eq_true, if_false, State.bagWrite, hspm]
  exact ⟨_, _, rfl⟩

end Sys2Proof.Machine
end

section
/-!
SUPPORT (O55). The free bytes of a bag with an uncorrectable row (R61, log 22) in a scratchpad of any form: bytes other than 0 are listed where
they are written and hide nothing; a 0 takes an entry away, and lets one behind it be read where the list does not rise.
-/
namespace Sys2Proof.Machine

variable {d : Nat → Byte}

/-! ### Lists of any form -/

/-- A byte that is listed leaves all others as they read. -/
theorem memGet_memPut_of_listed {m : Mem} {k : Nat} {b : Byte} (hb : b ≠ d k) {j : Nat} (hj : j ≠ k) :
    memGet d (memPut d m k b) j = memGet d m j := by
  have hbeq : (b == d k) = false := beq_eq_false_iff_ne.mpr hb
  have hkj : (k == j) = false := beq_eq_false_iff_ne.mpr hj.symm
  induction m with
  | nil =>
    simp [memPut, memGet, hbeq, hkj]
  | cons c m ih =>
    obtain ⟨a, x⟩ := c
    rcases lt_trichotomy k a with hlt | rfl | hgt
    · by_cases hjk : j < k
      · have haj : ¬ a = j := by omega
        simp [memPut, memGet, hbeq, hkj, hlt, hjk, haj, hjk.trans hlt]
      · simp [memPut, memGet, hbeq, hkj, hlt, hjk]
    · simp [memPut, memGet, hbeq, hkj]
    · simp [memPut, memGet, hgt.ne, not_lt.mpr hgt.le, ih]

/-- So does a run of them. -/
theorem memGet_memPuts_of_listed {m : Mem} {k : Nat} {bs : List Byte} (hbs : ∀ b ∈ bs, ∀ i, b ≠ d i) {j : Nat}
    (hj : j < k ∨ k + bs.length ≤ j) :
    memGet d (memPuts d m k bs) j = memGet d m j := by
  induction bs generalizing m k with
  | nil => rfl
  | cons b bs ih =>
    rw [List.length_cons] at hj
    rw [memPuts, ih (fun x hx => hbs x (List.mem_cons_of_mem b hx)) (by omega), memGet_memPut_of_listed (hbs b List.mem_cons_self k) (by omega)]

/-- An entry at the head stays there when higher addresses are written. -/
theorem memPuts_cons {a k : Nat} (h : a < k) (x : Byte) (m : Mem) (bs : List Byte) : ∃ m', memPuts d ((a, x) :: m) k bs = (a, x) :: m' := by
  induction bs generalizing m k with
  | nil => exact ⟨m, rfl⟩
  | cons b bs ih =>
    have hput : memPut d ((a, x) :: m) k b = (a, x) :: memPut d m k b := by simp [memPut, h.ne, not_lt.mpr h.le]
    rw [memPuts, hput]
    exact ih (by omega) _

/-- And stood there before, where the first of them is listed. -/
theorem eq_cons_of_memPuts {m m' : Mem} {a k : Nat} {x b : Byte} {bs : List Byte} (hb : b ≠ d k) (ha : a < k)
    (h : memPuts d m k (b :: bs) = (a, x) :: m') : ∃ r, m = (a, x) :: r := by
  have hbeq : (b == d k) = false := beq_eq_false_iff_ne.mpr hb
  have hnot : ∀ r, memPut d m k b ≠ (k, b) :: r := fun r hr => by
    obtain ⟨r', hr'⟩ := memPuts_cons (d := d) (Nat.lt_succ_self k) b r bs
    rw [memPuts, hr, hr'] at h
    cases h
    omega
  cases m with
  | nil => exact absurd (by simp [memPut, hbeq]) (hnot [])
  | cons c m =>
    obtain ⟨a', x'⟩ := c
    rcases lt_trichotomy k a' with hlt | rfl | hgt
    · exact absurd (by simp [memPut, hbeq, hlt]) (hnot ((a', x') :: m))
    · exact absurd (by simp [memPut, hbeq]) (hnot m)
    · obtain ⟨r, hr⟩ := memPuts_cons (d := d) hgt x' m (b :: bs)
      rw [h] at hr
      cases hr
      exact ⟨m, rfl⟩

/-! ### The free bytes -/

theorem State.spmByte_useBanks {s : State} {g : Group} (hc : s.hasCore g.core) (runs : SpmRuns) (c : CoreId) (a : Nat) :
    (s.useBanks g runs).spmByte c a = s.spmByte c a := by
  unfold State.spmByte State.useBanks
  by_cases h : c = g.core
  · subst h
    rw [State.core_modCore_self hc]
  · rw [State.core_modCore_of_ne h]

/-- Every byte but the first, whose bits are INV and OVF, has a number above 0. -/
theorem State.mem_freeBytes_drop {s : State} {n : Nat} {x : Byte} (hx : x ∈ (s.freeBytes (n + 1)).2.drop 1) :
    ∃ k, 0 < k ∧ Config.freeByte k = x := by
  rw [State.freeBytes, List.range_succ_eq_map, List.map_cons, List.drop_one, List.tail_cons, List.map_map] at hx
  obtain ⟨i, -, rfl⟩ := List.mem_map.mp hx
  exact ⟨s.free + (i + 1), by omega, rfl⟩

/-- A bag with an uncorrectable row leaves the scratchpad beside its destination where that is in canonical form, or where no free byte is 0. -/
theorem State.freed_spmByte {s : State} {g : Group} {c : PoolCmd} {b : Nat} (hc : s.hasCore g.core)
    (hkeep : s.memOk = true ∨ ∀ k, 0 < k → Config.freeByte k ≠ 0) {d : CoreId} {a : Nat}
    (ha : d = g.core → a < g.spmBase + (c.dst + b * c.pitch) ∨ g.spmBase + (c.dst + b * c.pitch) + c.outBytes ≤ a) :
    (s.freed g c b).spmByte d a = s.spmByte d a := by
  have hcs : (s.freeBytes (c.outBytes + 1)).1.hasCore g.core := hc.of_cores rfl
  rw [State.freed, State.spmByte_useBanks (hcs.grpSpmPuts _ _)]
  by_cases hd : d = g.core
  · subst hd
    have ha' : a < g.spmBase + (c.dst + b * c.pitch) ∨
        g.spmBase + (c.dst + b * c.pitch) + ((s.freeBytes (c.outBytes + 1)).2.drop 1).length ≤ a := by simpa [State.freeBytes] using ha rfl
    unfold State.spmByte
    rw [State.core_grpSpmPuts hcs]
    rcases hkeep with hmem | hfree
    · exact memGet_memPuts_of_outside (State.core_spm_wf hmem hc) ha'
    · refine memGet_memPuts_of_listed (fun x hx _ => ?_) ha'
      obtain ⟨k, hk, rfl⟩ := State.mem_freeBytes_drop hx
      exact hfree k hk
  · unfold State.spmByte State.grpSpmPuts State.spmPuts
    rw [State.core_modCore_of_ne hd]
    rfl

/-- What combining the bag of an uncorrectable row comes to in such a state: O55's last clause. -/
theorem State.combine_of_lost_frame {s : State} {c : CoreId} {g : Group} {e : EngEntry} {b : Bag} (hhead : s.headOf c 9 = some (g, e))
    (hbag : (s.core c).bag = some b) (hviews : b.views = []) {aux : DWord} (hbad : b.uncorr = some aux)
    (hspm : (PoolCmd.parse e.cmd).dspm = true) (hkeep : s.memOk = true ∨ ∀ k, 0 < k → Config.freeByte k ≠ 0) :
    let cmd := PoolCmd.parse e.cmd
    let dest := cmd.dst + e.done * cmd.pitch
    ∃ (u : State) (inv ovf : Bool), u.free = s.free + cmd.outBytes + 1 ∧ u.mem = s.mem ∧ u.groups = s.groups ∧
      (∀ d a, (d = c → a < g.spmBase + dest ∨ g.spmBase + dest + cmd.outBytes ≤ a) → u.spmByte d a = s.spmByte d a) ∧
      exec (.partialVectorCombine c) s =
        .next ((u.bagDone g e cmd (bagStatus b.idx.length inv ovf 0x20) 0x20).engTrap g e.who { cls := 0, kind := 1, aux := aux }) := by
  obtain ⟨-, rfl⟩ := State.headOf_some hhead
  obtain ⟨inv, ovf, hrun⟩ := State.combine_of_lost hhead hbag hviews hbad hspm
  exact ⟨s.freed g (.parse e.cmd) e.done, inv, ovf, rfl, rfl, rfl,
    fun d a ha => State.freed_spmByte (State.hasCore_of_headOf hhead) hkeep ha, congrArg Host.Outcome.next hrun⟩

/-! ### A scratchpad that does not rise -/

/-- The core of the state below. -/
def tornCore : CoreId := ⟨0, 0⟩

/-- A pooling command of one FP32 element and two bags, to byte 5 of the scratchpad, with its status words from byte 64 on. -/
def tornCmd : List Byte :=
  [0, 0, 0, 0, 0, 0, 0, 0, 0, 0, 0, 0, 1, 0, 8, 0, 0, 0, 0, 0, 2, 0, 0, 0, 0, 0, 0, 0, 0, 0, 0, 0, 0, 0, 0, 0, 64, 0, 0, 0, 5]

/-- Its entry, of which no bag is done. -/
def tornEntry : EngEntry :=
  { eid := 0, slot := 0, off := false, cmd := tornCmd, hdr := [], done := 0, started := false, stopped := false, trapT := false, reject := false
    needs := [], who := ⟨⟨0, 0, 0, 0⟩, 0, 0, 0, 0⟩ }

/-- A bag whose views have been read, with an uncorrectable row. -/
def tornBag : Bag :=
  { idx := [], weights := [], rows := [], fmt := none, scales := [], views := [], parts := [], inv := false, ovf := false, uncorr := some 0 }

/-- A scratchpad that lists byte 3 behind byte 5, where no read finds it. -/
def tornState (free : Nat) : State :=
  { State.reset with
    free := free
    groups := [Group.nobody tornCore 0]
    cores := [{ Core.reset tornCore with spm := [(5, 1), (3, 7)], poolq := [.entry tornEntry], bag := some tornBag }] }

theorem tornState_head (free : Nat) : (tornState free).headOf tornCore 9 = some (Group.nobody tornCore 0, tornEntry) := rfl

/-- The scratchpad of a core when a bag of a command with more ends. -/
theorem State.spm_bagDone_of_more {s : State} {g : Group} {e : EngEntry} {c : PoolCmd} {status code : Nat} (hc : s.hasCore g.core)
    (hmore : e.done + 1 < c.nbags) : ((s.bagDone g e c status code).core g.core).spm =
      memPuts spmUnlisted (s.core g.core).spm (g.spmBase + (c.stOff + 4 * e.done)) (leBytes 4 status) := by
  obtain ⟨hc1, hcore⟩ := State.core_bagClosed (e := e) (c := c) (status := status) hc
  have hset : ((s.bagClosed g e c status).setHead g.core 9 (e.afterBag code)).core g.core = _ := State.core_modCore_self hc1
  rw [State.bagDone_eq, if_pos hmore, hset, hcore]
  rfl

theorem State.hasCore.of_modCore {s : State} {c d : CoreId} {f : Core → Core} (h : (s.modCore d f).hasCore c)
    (hid : ∀ k, (f k).id = k.id := by intro; rfl) : s.hasCore c := by
  obtain ⟨x, hx, hxc⟩ := h
  obtain ⟨k, hk, rfl⟩ := List.mem_map.mp hx
  refine ⟨k, hk, ?_⟩
  rw [← hxc]
  split <;> simp [hid]

theorem State.hasCore_bagDone_of_more {s : State} {g : Group} {e : EngEntry} {c : PoolCmd} {status code : Nat} {d : CoreId}
    (hmore : e.done + 1 < c.nbags) : (s.bagDone g e c status code).hasCore d ↔ s.hasCore d := by
  rw [State.bagDone_eq, if_pos hmore]
  refine ⟨fun h => ?_, fun h => ?_⟩
  · have hclosed : (s.bagClosed g e c status).hasCore d := State.hasCore.of_modCore h
    have hput : (s.grpSpmPuts g (c.stOff + 4 * e.done) (leBytes 4 status)).hasCore d := State.hasCore.of_modCore hclosed
    exact State.hasCore.of_modCore hput
  · have hclosed : (s.bagClosed g e c status).hasCore d := (h.grpSpmPuts _ _).modCore
    exact hclosed.modCore

/-- A trap that comes from no table error touches no core. -/
theorem State.engTrap_cores (s : State) (g : Group) (i : Issuer) {x : Cause} (hx : x.err = none) : (s.engTrap g i x).cores = s.cores := by
  unfold State.engTrap State.found
  rw [hx]
  rfl

/-- Two states in which a bag of a command with more ends alike held the same scratchpad but for its status word. -/
theorem State.spm_of_same_end {s u : State} {g : Group} {e : EngEntry} {c : PoolCmd} {i : Issuer} {x : Cause} {st su code : Nat}
    (hc : s.hasCore g.core) (hmore : e.done + 1 < c.nbags) (hx : x.err = none)
    (h : (s.bagDone g e c st code).engTrap g i x = (u.bagDone g e c su code).engTrap g i x) :
    memPuts spmUnlisted (u.core g.core).spm (g.spmBase + (c.stOff + 4 * e.done)) (leBytes 4 su) =
      memPuts spmUnlisted (s.core g.core).spm (g.spmBase + (c.stOff + 4 * e.done)) (leBytes 4 st) := by
  have hcores : (u.bagDone g e c su code).cores = (s.bagDone g e c st code).cores :=
    (State.engTrap_cores _ g i hx).symm.trans ((congrArg State.cores h.symm).trans (State.engTrap_cores _ g i hx))
  have hu : u.hasCore g.core := by
    rw [← State.hasCore_bagDone_of_more (c := c) hmore]
    exact ((State.hasCore_bagDone_of_more hmore).mpr hc).of_cores hcores
  rw [← State.spm_bagDone_of_more hu hmore (code := code), ← State.spm_bagDone_of_more hc hmore (code := code), State.core_of_cores hcores]

/-- The list once a 0 has been written to byte 5: byte 3 is its head, whatever is written above. -/
theorem tornState_freed {free : Nat} (h : Config.freeByte (free + 1) = 0) (status : Nat) :
    ∃ r, memPuts spmUnlisted (((tornState free).freed (Group.nobody tornCore 0) (.parse tornCmd) 0).core tornCore).spm 64 (leBytes 4 status) =
      (3, 7) :: r := by
  have hspm : (((tornState free).freed (Group.nobody tornCore 0) (.parse tornCmd) 0).core tornCore).spm = memPuts spmUnlisted [(5, 1), (3, 7)] 5
      [Config.freeByte (free + 1), Config.freeByte (free + 2), Config.freeByte (free + 3), Config.freeByte (free + 4)] := rfl
  have hzero : memPut spmUnlisted [(5, 1), (3, 7)] 5 0 = [(3, 7)] := by decide
  obtain ⟨r, hr⟩ := memPuts_cons (d := spmUnlisted) (a := 3) (k := 6) (by decide) 7 []
    [Config.freeByte (free + 2), Config.freeByte (free + 3), Config.freeByte (free + 4)]
  rw [hspm, memPuts, h, hzero, hr]
  exact memPuts_cons (by decide) 7 r _

/-- A status word with an uncorrectable row's code begins with that. -/
theorem leBytes_status_lost (inv ovf : Bool) : ∃ bs, leBytes 4 (bagStatus 0 inv ovf cUNCORR) = 0x20 :: bs := by
  cases inv <;> cases ovf <;> exact ⟨_, rfl⟩

/-- Where a free byte is 0, O55 fails, in its last clause: that state ends with byte 3 at the head of its scratchpad, so any state in which the bag
may have ended so reads 7 there, where the state before read 0. -/
theorem not_poolSteps_of_zero {k : Nat} (hk : 0 < k) (h : Config.freeByte k = 0) : ¬ Obligations.PoolSteps := by
  unfold Obligations.PoolSteps
  intro hsteps
  obtain ⟨-, -, -, -, -, -, -, -, hcombine⟩ := hsteps
  obtain ⟨free, rfl⟩ : ∃ free, k = free + 1 := ⟨k - 1, by omega⟩
  obtain ⟨-, -, hlost⟩ := hcombine (tornState free) tornCore _ _ tornBag (tornState_head free) rfl rfl
  obtain ⟨u, inv, ovf, -, -, -, hframe, hrun⟩ := hlost 0 rfl rfl
  obtain ⟨inv', ovf', hcomb⟩ := State.combine_of_lost (tornState_head free) rfl rfl rfl rfl
  have hmore : tornEntry.done + 1 < (PoolCmd.parse tornEntry.cmd).nbags := by decide
  have hstates := Host.Outcome.next.inj ((congrArg Host.Outcome.next hcomb.symm).trans hrun)
  have hspm := State.spm_of_same_end (g := Group.nobody tornCore 0) ⟨_, List.mem_singleton_self _, rfl⟩ hmore rfl hstates
  obtain ⟨r, hr⟩ := tornState_freed h (bagStatus 0 inv' ovf' cUNCORR)
  obtain ⟨bs, hbs⟩ := leBytes_status_lost inv ovf
  obtain ⟨r', hr'⟩ : ∃ r', (u.core tornCore).spm = (3, 7) :: r' :=
    eq_cons_of_memPuts (by decide) (by decide) ((congrArg _ hbs.symm).trans (hspm.trans hr))
  have hkept := hframe tornCore 3 fun _ => .inl (by decide)
  unfold State.spmByte at hkept
  rw [hr'] at hkept
  exact absurd (show (7 : Byte) = 0 from hkept) (by decide)

end Sys2Proof.Machine
end

section
/-!
UNSETTLED (O55). The obligation is equivalent to a statement of the model's free bytes (log 22), which are opaque: its last clause asks that the
bytes beside a lost bag's destination stay, in scratchpads of any form too. Every other clause holds, and so does the last one where memory is in
canonical form (`State.combine_of_lost_frame`), which reset gives and every step keeps.
-/
namespace Sys2Proof.Machine

/-- What a bag that has passed its checks holds of its rows (R53). -/
theorem State.newBag_spec (s : State) (g : Group) (c : PoolCmd) (u : Table) (idx : List Nat) (ws : List Word) :
    let b := s.newBag g c u idx ws
    (∀ v, v ∈ b.views ↔ v < u.b ∧ ∃ x ∈ idx, u.viewOf c x = v) ∧ b.rows.map (·.1) = idx.map (u.viewOf c) ∧
    b.rows.map (·.2.1) = idx.map (u.rowVA c) ∧
    ∀ l, s.leafNow g.core g.asid (u.segBase c idx) = .ok l →
      ∀ r ∈ b.rows, r.2.2 = l.pa (u.segBase c idx) + (r.2.1 - u.segBase c idx) := by
  refine ⟨fun v => by simp [State.newBag], by simp [State.newBag], by simp [State.newBag], fun l hl r hr => ?_⟩
  obtain ⟨x, -, rfl⟩ := List.mem_map.mp hr
  simp only [hl]

/-- Where no free byte is 0, O55 holds. -/
theorem poolSteps_of_nonzero (hfree : ∀ k, 0 < k → Config.freeByte k ≠ 0) : Obligations.PoolSteps := by
  unfold Obligations.PoolSteps
  refine ⟨?takeUp, poolGeom_iff, ?checks, State.bagDone_spec, ?view, fun s c b va pa e => State.rowElem_raw s c va pa e, ?fold, ?final, ?combine⟩
  case takeUp =>
    intro s c g e hhead hoff hbag hneeds cmd lo hi idx code i dest
    have hends : s.bagEnds g cmd e.done = (lo, hi) := rfl
    have hstep : ∀ {t}, s.takeBag c = t → exec i s = .next t := fun h => congrArg Host.Outcome.next h
    refine ⟨fun hdone => hstep (State.takeBag_of_done hhead hoff hbag hneeds hdone), fun hmore => ⟨fun hgeom => ?_, fun hgeom heq hspm => ?_,
      fun hgeom hlt h0 h20 => ?_, fun f hgeom hlt h20 hf => ?_, fun hgeom hlt h0 => ?_⟩⟩
    · rw [← bagStatus_plain]
      exact hstep (State.takeBag_of_geom hhead hoff hbag hneeds hmore hends hgeom)
    · rw [heq] at hends hgeom
      exact hstep (State.takeBag_of_empty hhead hoff hbag hneeds hmore hends hgeom hspm)
    · rw [← bagStatus_plain]
      exact hstep (State.takeBag_of_code hhead hoff hbag hneeds hmore hends hgeom hlt rfl rfl h0 h20)
    · rw [← bagStatus_plain, h20]
      exact hstep (State.takeBag_of_fail hhead hoff hbag hneeds hmore hends hgeom hlt rfl h20 hf)
    · obtain ⟨u, hu⟩ : ∃ u, s.tableOf g cmd = some u := Option.ne_none_iff_exists'.mp fun h => s.bagCode_none g cmd idx (h ▸ h0)
      obtain ⟨ws, hrun⟩ := State.takeBag_of_ok hhead hoff hbag hneeds hmore hends hgeom hlt rfl hu (hu ▸ h0)
      have hc : (s.useBanks g (s.bagRuns g cmd e.done)).hasCore c := (State.hasCore_of_headOf hhead).modCore
      refine ⟨_, s.newBag g cmd u idx ws, hstep hrun, by rw [State.core_modCore_self hc], rfl, rfl, rfl, rfl, rfl, fun u' hu' => ?_⟩
      obtain rfl : u = u' := Option.some.inj (hu.symm.trans hu')
      exact State.newBag_spec ..
  case checks =>
    intro s g c u idx first leaf _ hne base code
    refine ⟨s.bagCode_of_range g c _, s.bagCode_of_segments g c u, fun hr hseg hfirst hleaf => ?_⟩
    exact State.RawBlock.bagCode hleaf rfl hfirst hr hseg
  case view =>
    intro s c v g e b hhead hbag hv cmd rows
    have hcore := State.core_poolView hhead hbag hv
    refine ⟨fun ecc aux haux => ⟨_, _, rfl, hcore ecc, rfl, State.bagAfter_uncorr _ haux⟩, _, _, rfl, hcore .good, rfl, rfl, rfl, _, rfl,
      by rw [List.length_map, List.length_map, List.length_range], fun k hk => ?_⟩
    rw [List.getD_eq_getElem _ _ (by rwa [List.length_map, List.length_map, List.length_range]), List.getElem_map, List.getElem_map,
      List.getElem_range, State.foldRows_eq_foldl, ← poolInit_eq]
    rfl
  case fold =>
    exact fun mode w acc v ha hv =>
      ⟨fun hmode => foldElem_sum hmode w, fun hmode => hmode ▸ foldElem_wsum, fun hmode => hmode ▸ foldElem_max w ha hv⟩
  case final =>
    intro c b i p ps hparts hobf all
    have hbits := finalElem_bits i hparts hobf
    refine ⟨fun hmode => hbits.trans (if_neg hmode), fun hmode hfin hidx hlen => ?_⟩
    rw [hbits, if_pos hmode]
    exact divCount_rounded hfin (List.length_pos_iff.mpr hidx) hlen
  case combine =>
    intro s c g e b hhead hbag hviews cmd out bytes status dest used
    have hsound := fun {t} => State.combine_of_sound (t := t) hhead hbag hviews
    refine ⟨fun hgood hspm => ?_, fun hgood hspm ps hps => ?_, fun aux hbad hspm => ?_⟩
    · exact congrArg Host.Outcome.next (hsound hgood (State.bagWrite_spm s _ _ hspm))
    · exact congrArg Host.Outcome.next (hsound hgood (State.bagWrite_pages hspm hps))
    · exact State.combine_of_lost_frame hhead hbag hviews hbad hspm (.inr hfree)

/-- O55 holds just where no free byte is 0, and no proof can see the value of one (log 22). -/
theorem poolSteps_iff : Obligations.PoolSteps ↔ ∀ k, 0 < k → Config.freeByte k ≠ 0 :=
  ⟨fun h _ hk hzero => not_poolSteps_of_zero hk hzero h, poolSteps_of_nonzero⟩

end Sys2Proof.Machine
end

section
/-!
SUPPORT. The bytes that the parts of an access cover, and what its check comes to, part by part.
-/
namespace Sys2Proof.Machine

/-! ### Addresses -/

/-- A signed offset added modulo the width of the address. -/
theorem toNat_add_ofInt {m : Nat} (a : BitVec m) (z : Int) : (a + BitVec.ofInt m z).toNat = ((a.toNat + z) % 2 ^ m).toNat := by
  have hpos : (0 : Int) < 2 ^ m := by positivity
  have hcast : (((2 ^ m : Nat)) : Int) = 2 ^ m := by norm_cast
  apply Int.ofNat_inj.mp
  rw [BitVec.toNat_add, BitVec.toNat_ofInt, Int.toNat_of_nonneg (Int.emod_nonneg _ hpos.ne'), Int.natCast_emod, Int.natCast_add,
    Int.toNat_of_nonneg (Int.emod_nonneg _ (by rw [hcast]; exact hpos.ne')), hcast, Int.add_emod_emod]

/-- The effective address of a global access (R276). -/
theorem Warp.ea_global (w : Warp) (x : LongOp) (t : Nat) :
    w.ea x true true t = (((w.src x.lit .d64 x.a t).toNat + (w.word x x.b t).toInt) % 2 ^ 64).toNat :=
  toNat_add_ofInt _ _

/-- The effective address of a scratchpad access, or one in a thread's own space (R276). -/
theorem Warp.ea_local (w : Warp) (x : LongOp) (t : Nat) :
    w.ea x false true t = (((w.word x x.a t).toNat + (w.word x x.b t).toInt) % 2 ^ 32).toNat := by
  have h := toNat_add_ofInt (w.word x x.a t) (w.word x x.b t).toInt
  rw [BitVec.ofInt_toInt] at h
  exact h

/-! ### Pieces -/

/-- Pieces of thread `t` that hold the `n` bytes of its element from offset `lo` on, byte `i` at addresses `va i` and `pa i`. -/
def Covering (ps : List (Piece × Attr)) (t lo n : Nat) (va pa : Nat → Nat) : Prop :=
  (ps.map fun p => p.1.len).sum = n ∧ (∀ p ∈ ps, p.1.thread = t) ∧
  ∀ i, lo ≤ i → i < lo + n → ∃ p ∈ ps, p.1.off ≤ i ∧ i < p.1.off + p.1.len ∧
    p.1.va + (i - p.1.off) = va i ∧ p.1.pa + (i - p.1.off) = pa i

section
variable {ps qs : List (Piece × Attr)} {t lo n m : Nat} {va pa : Nat → Nat}

/-- An access whose pieces hold all of its element covers it. -/
theorem Covering.covers {v : Nat} (h : Covering ps t 0 n va pa) : (Acc.mk t v ps).covers t n va pa := by
  obtain ⟨hsum, hthread, hbytes⟩ := h
  exact ⟨rfl, hsum, hthread, fun i hi => hbytes i (Nat.zero_le i) (by omega)⟩

/-- What is said of the bytes' addresses matters for those bytes only. -/
theorem Covering.congr {va' pa' : Nat → Nat} (h : Covering ps t lo n va pa) (hva : ∀ i, lo ≤ i → i < lo + n → va i = va' i)
    (hpa : ∀ i, lo ≤ i → i < lo + n → pa i = pa' i) : Covering ps t lo n va' pa' := by
  obtain ⟨hsum, hthread, hbytes⟩ := h
  refine ⟨hsum, hthread, fun i hlo hhi => ?_⟩
  rw [← hva i hlo hhi, ← hpa i hlo hhi]
  exact hbytes i hlo hhi

/-- No pieces hold no bytes. -/
theorem Covering.nil : Covering [] t lo 0 va pa := ⟨rfl, fun _ h => absurd h List.not_mem_nil, fun i _ _ => by omega⟩

/-- A run of bytes and the one behind it. -/
theorem Covering.append (hp : Covering ps t lo n va pa) (hq : Covering qs t (lo + n) m va pa) : Covering (ps ++ qs) t lo (n + m) va pa := by
  obtain ⟨hpsum, hpthread, hpbytes⟩ := hp
  obtain ⟨hqsum, hqthread, hqbytes⟩ := hq
  refine ⟨by rw [List.map_append, List.sum_append, hpsum, hqsum], fun p h => (List.mem_append.mp h).elim (hpthread p) (hqthread p),
    fun i hlo hhi => ?_⟩
  by_cases h : i < lo + n
  · obtain ⟨p, hmem, hrest⟩ := hpbytes i hlo h
    exact ⟨p, List.mem_append_left _ hmem, hrest⟩
  · obtain ⟨p, hmem, hrest⟩ := hqbytes i (by omega) (by omega)
    exact ⟨p, List.mem_append_right _ hmem, hrest⟩

/-- The attributes of the pieces do not matter. -/
theorem Covering.map_attr (f : Attr → Attr) (h : Covering ps t lo n va pa) : Covering (ps.map fun p => (p.1, f p.2)) t lo n va pa := by
  obtain ⟨hsum, hthread, hbytes⟩ := h
  refine ⟨by rw [List.map_map]; exact hsum, ?_, fun i hlo hhi => ?_⟩
  · intro p hp
    obtain ⟨q, hq, rfl⟩ := List.mem_map.mp hp
    exact hthread q hq
  · obtain ⟨p, hp, hrest⟩ := hbytes i hlo hhi
    exact ⟨_, List.mem_map_of_mem hp, hrest⟩

/-- One piece holds its own bytes. -/
theorem Covering.piece (v p : Nat) (at_ : Attr) : Covering [(⟨t, lo, v, p, n, []⟩, at_)] t lo n (fun i => v + (i - lo)) fun i => p + (i - lo) :=
  ⟨rfl, fun _ h => by rw [List.mem_singleton.mp h], fun _ hlo hhi => ⟨_, List.mem_singleton_self _, hlo, hhi, rfl, rfl⟩⟩

/-- A run cut at its line holds what it held. -/
theorem Covering.of_linePieces (v p : Nat) (at_ : Attr) :
    Covering ((linePieces t lo v p n).map fun q => (q, at_)) t lo n (fun i => v + (i - lo)) fun i => p + (i - lo) := by
  unfold linePieces
  dsimp only
  split
  case isTrue => exact Covering.piece v p at_
  case isFalse h =>
    obtain ⟨k, rfl⟩ : ∃ k, n = 128 - v % 128 + k := ⟨n - (128 - v % 128), by omega⟩
    rw [Nat.add_sub_cancel_left]
    exact (Covering.piece v p at_).append
      ((Covering.piece _ _ at_).congr (fun i _ _ => by omega) fun i _ _ => by omega)

end

/-! ### One part of an access -/

/-- The attributes of a page that its accesses' requests follow. -/
def Leaf.attr (l : Leaf) : Attr := ⟨l.wg, l.cp, l.ro⟩

section
variable {s : State} {w : Warp} {g : Group} {k : Kind} {t off va len : Nat} {l m : Leaf}

/-- A part within its page (R66, R101). -/
theorem State.checkPart_of_room (hl : s.lookup w g k va = .hit l) (h : len ≤ l.size - va % l.size) :
    s.checkPart w g k t (off, va, len) = .good ⟨t, va, (linePieces t off va (l.pa va) len).map fun p => (p, l.attr)⟩ := by
  simp only [State.checkPart, hl, if_pos h]
  rfl

/-- A part that passes into another page of the same caching, format and wing (R115). -/
theorem State.checkPart_of_alike (hl : s.lookup w g k va = .hit l) (h : l.size - va % l.size < len)
    (hm : s.lookup w g k (va + (l.size - va % l.size)) = .hit m) (halike : l.cp = m.cp ∧ l.fmt = m.fmt ∧ l.wg = m.wg) :
    s.checkPart w g k t (off, va, len) =
      .good ⟨t, va, [(⟨t, off, va, l.pa va, l.size - va % l.size, []⟩, l.attr),
        (⟨t, off + (l.size - va % l.size), va + (l.size - va % l.size), m.pa (va + (l.size - va % l.size)), len - (l.size - va % l.size), []⟩,
          m.attr)]⟩ := by
  have hbne : (l.cp != m.cp || l.fmt != m.fmt || l.wg != m.wg) = false := by simp [halike]
  simp only [State.checkPart, hl, if_neg (Nat.not_le.mpr h), hm, hbne, Bool.false_eq_true, if_false]
  rfl

/-- A part that passes into a page of another caching, format or wing is class 3, STRADDLE (R115). -/
theorem State.checkPart_of_unlike (hl : s.lookup w g k va = .hit l) (h : l.size - va % l.size < len)
    (hm : s.lookup w g k (va + (l.size - va % l.size)) = .hit m) (hunlike : ¬ (l.cp = m.cp ∧ l.fmt = m.fmt ∧ l.wg = m.wg)) :
    s.checkPart w g k t (off, va, len) =
      .bad { cls := 3, reason := 0x71, thread := t, kind := k.no, va := some (va + (l.size - va % l.size)) } := by
  have hbne : (l.cp != m.cp || l.fmt != m.fmt || l.wg != m.wg) = true := by
    simp only [Bool.or_eq_true, bne_iff_ne]
    tauto
  simp only [State.checkPart, hl, if_neg (Nat.not_le.mpr h), hm, if_pos hbne]
  rfl

/-- An access of one part that passes has that part's pieces. -/
theorem State.checkParts_of_good {v : Nat} {ps : List (Piece × Attr)} (h : s.checkPart w g k t (off, va, len) = .good ⟨t, v, ps⟩) :
    s.checkParts w g k t [(off, va, len)] = .good ⟨t, va, ps⟩ := by
  simp only [State.checkParts, List.map_cons, List.map_nil, List.foldl_cons, List.foldl_nil, h]
  rfl

/-- One whose only part fails fails with it. -/
theorem State.checkParts_of_bad {c : Cause} (h : s.checkPart w g k t (off, va, len) = .bad c) :
    s.checkParts w g k t [(off, va, len)] = .bad c := by
  simp only [State.checkParts, List.map_cons, List.map_nil, List.foldl_cons, List.foldl_nil, h]
  rfl

/-- Results that all pass join into one access with the pieces of all. -/
theorem foldl_join_good {α : Type} (f : α → Acc) (l : List α) (a : Acc) :
    (l.map fun x => AccRes.good (f x)).foldl AccRes.join (.good a) = .good { a with pieces := a.pieces ++ l.flatMap fun x => (f x).pieces } := by
  induction l generalizing a with
  | nil => simp
  | cons x l ih => rw [List.map_cons, List.foldl_cons, AccRes.join, ih, List.flatMap_cons, List.append_assoc]

end

end Sys2Proof.Machine
end

section
/-!
SETTLED. Which bytes an access names, space by space (O38).
-/
namespace Sys2Proof.Machine

section
variable {s : State} {w : Warp} {g : Group} {k : Kind} {t n : Nat}

/-! ### Global and scratchpad accesses -/

/-- An access within its page covers its bytes. -/
theorem State.checkParts_covers {va : Nat} {l : Leaf} (hl : s.lookup w g k va = .hit l) (h : n ≤ l.size - va % l.size) :
    ∃ a, s.checkParts w g k t [(0, va, n)] = .good a ∧ a.covers t n (va + ·) (l.pa va + ·) :=
  ⟨_, State.checkParts_of_good (State.checkPart_of_room hl h), (Covering.of_linePieces va (l.pa va) l.attr).covers⟩

/-- An access that passes into a page alike covers its bytes in both. -/
theorem State.checkParts_covers_alike {va : Nat} {l m : Leaf} (hl : s.lookup w g k va = .hit l) (h : l.size - va % l.size < n)
    (hm : s.lookup w g k (va + (l.size - va % l.size)) = .hit m) (halike : l.cp = m.cp ∧ l.fmt = m.fmt ∧ l.wg = m.wg) :
    ∃ a, s.checkParts w g k t [(0, va, n)] = .good a ∧ a.covers t n (va + ·) fun i =>
      if i < l.size - va % l.size then l.pa va + i else m.pa (va + (l.size - va % l.size)) + (i - (l.size - va % l.size)) := by
  refine ⟨_, State.checkParts_of_good (State.checkPart_of_alike hl h hm halike), Covering.covers ?_⟩
  generalize l.size - va % l.size = room at h ⊢
  obtain ⟨rest, rfl⟩ : ∃ rest, n = room + rest := ⟨n - room, by omega⟩
  rw [Nat.add_sub_cancel_left]
  refine Covering.append (ps := [_]) (qs := [_]) ((Covering.piece _ _ _).congr (fun i _ _ => ?_) fun i _ hi => ?_)
    ((Covering.piece _ _ _).congr (fun i hi _ => ?_) fun i hi _ => ?_)
  · rw [Nat.sub_zero]
  · rw [Nat.sub_zero, if_pos (by omega)]
  · omega
  · rw [if_neg (by omega), Nat.zero_add]

/-- A scratchpad access covers its bytes of the allocation, or of none. -/
theorem Group.checkSpm_covers {b : Nat} (hb : b % n = 0) :
    ∃ a, g.checkSpm k t b n = .good a ∧ a.covers t n (b + ·) fun i => (if b + n ≤ g.res.spm * 512 then g.spmBase + b else spmBeyond) + i :=
  ⟨_, if_neg (by simp [hb]), (Covering.piece _ _ _).covers⟩

/-! ### Accesses in a thread's own space (R113, R114) -/

/-- The part of such an access that brings word `j`, where that word lies in a page at `va j`. -/
def wordAccess (t : Nat) (va : Nat → Nat) (leaf : Nat → Leaf) (j : Nat) : Acc :=
  ⟨t, va j, (linePieces t (4 * j) (va j) ((leaf j).pa (va j)) 4).map fun p => (p, (leaf j).attr)⟩

/-- The words of a wide one cover it, each where its own page lies. -/
theorem Covering.words {va : Nat → Nat} {leaf : Nat → Leaf} (m : Nat) :
    Covering ((List.range m).flatMap fun j => (wordAccess t va leaf j).pieces) t 0 (4 * m) (fun i => va (i / 4) + i % 4)
      fun i => (leaf (i / 4)).pa (va (i / 4)) + i % 4 := by
  induction m with
  | zero => exact Covering.nil
  | succ m ih =>
    rw [List.range_succ, List.flatMap_append, List.flatMap_singleton]
    refine ih.append ?_
    rw [Nat.zero_add]
    refine (Covering.of_linePieces _ _ _).congr (fun i hlo hhi => ?_) fun i hlo hhi => ?_ <;>
      rw [show i / 4 = m by omega, show i - 4 * m = i % 4 by omega]

/-- Words that all lie in their pages pass together. -/
theorem State.checkParts_words {va : Nat → Nat} {leaf : Nat → Leaf} {m : Nat}
    (h : ∀ j < m, s.lookup w g k (va j) = .hit (leaf j) ∧ 4 ≤ (leaf j).size - va j % (leaf j).size) :
    ∃ v, s.checkParts w g k t ((List.range m).map fun j => (4 * j, va j, 4)) =
      .good ⟨t, v, (List.range m).flatMap fun j => (wordAccess t va leaf j).pieces⟩ := by
  have hparts : ((List.range m).map fun j => (4 * j, va j, 4)).map (s.checkPart w g k t) =
      (List.range m).map fun j => AccRes.good (wordAccess t va leaf j) := by
    rw [List.map_map]
    refine List.map_congr_left fun j hj => ?_
    obtain ⟨hl, hroom⟩ := h j (List.mem_range.mp hj)
    exact State.checkPart_of_room hl hroom
  unfold State.checkParts
  dsimp only
  rw [hparts, foldl_join_good]
  exact ⟨_, rfl⟩

/-- One whose parts pass is under write-back, whatever their pages say (R114). -/
theorem State.checkPriv_of_good {b v : Nat} {ps : List (Piece × Attr)} (hb : b % n = 0)
    (h : s.checkParts w g (if k == .read then .write else k) t (privParts w.privbase t b n) = .good ⟨t, v, ps⟩) :
    s.checkPriv w g k t b n = .good ⟨t, v, ps.map fun p => (p.1, { p.2 with cp := 0 })⟩ := by
  simp only [State.checkPriv, hb, bne_self_eq_false, Bool.false_eq_true, if_false, h]

/-- One whose words lie in their pages covers its thread's words of the warp's lines (R113). -/
theorem State.checkPriv_covers {b : Nat} {va : Nat → Nat} {leaf : Nat → Leaf} (hn : n ∈ [1, 2, 4, 8, 16]) (hb : b % n = 0)
    (hva : ∀ j, va j = w.privbase + (b / 4 + j) * 128 + t * 4 + b % 4)
    (h : ∀ j, 4 * j < n →
      s.lookup w g (if k == .read then .write else k) (va j) = .hit (leaf j) ∧ va j % (leaf j).size + min n 4 ≤ (leaf j).size) :
    ∃ a, s.checkPriv w g k t b n = .good a ∧
      a.covers t n (fun i => va (i / 4) + i % 4) fun i => (leaf (i / 4)).pa (va (i / 4)) + i % 4 := by
  have hsize : 0 < n ∧ (n ≤ 4 ∨ n = 4 * (n / 4) ∧ n % 4 = 0 ∧ 4 < n) := by
    simp only [List.mem_cons, List.not_mem_nil, or_false] at hn
    omega
  obtain ⟨hpos, hnarrow | ⟨hwhole, hword, hwide⟩⟩ := hsize
  · obtain ⟨hl, hroom⟩ := h 0 hpos
    have hparts : privParts w.privbase t b n = [(0, va 0, n)] := by
      rw [privParts, if_pos hnarrow, hva, Nat.add_zero]
    have hgood := State.checkParts_of_good (t := t) (off := 0) (State.checkPart_of_room (len := n) hl (by omega))
    refine ⟨_, State.checkPriv_of_good hb (hparts ▸ hgood), Covering.covers (Covering.map_attr (fun at_ => { at_ with cp := 0 }) ?_)⟩
    refine (Covering.of_linePieces _ _ _).congr (fun i _ hi => ?_) fun i _ hi => ?_ <;>
      rw [show i / 4 = 0 by omega, show i % 4 = i by omega, Nat.sub_zero]
  · have haligned : b % 4 = 0 := Nat.mod_eq_zero_of_dvd ((Nat.dvd_of_mod_eq_zero hword).trans (Nat.dvd_of_mod_eq_zero hb))
    have hparts : privParts w.privbase t b n = (List.range (n / 4)).map fun j => (4 * j, va j, 4) := by
      rw [privParts, if_neg (Nat.not_le.mpr hwide)]
      refine List.map_congr_left fun j _ => ?_
      rw [hva, haligned, Nat.add_zero]
    obtain ⟨v, hgood⟩ := State.checkParts_words (s := s) (w := w) (g := g) (k := if k == .read then .write else k) (t := t) (m := n / 4)
      fun j hj => (h j (by omega)).imp_right fun _ => by omega
    refine ⟨_, State.checkPriv_of_good hb (hparts ▸ hgood), Covering.covers (Covering.map_attr (fun at_ => { at_ with cp := 0 }) ?_)⟩
    have hcover := Covering.words (t := t) (va := va) (leaf := leaf) (n / 4)
    rwa [← hwhole] at hcover

end

/-! ### The statement -/

/-- Settles O38: a global access is one part, so what it covers is what `checkPart` finds within its page or across two; a scratchpad access is
one piece; one in a thread's own space is a part for each word. The pieces of a run hold each of its bytes once (`Covering`). -/
theorem accessBytes : Obligations.AccessBytes := by
  unfold Obligations.AccessBytes
  intro s w x k n t al hn
  dsimp only
  rw [← Warp.ea_global w x t, ← Warp.ea_local w x t]
  generalize hea : w.ea x true true t = ea
  generalize hb : w.ea x false true t = b
  have hglobal (h : al = true → ea % n = 0) : s.checkPlain w (s.grp w) x 0 k n al t = s.checkParts w (s.grp w) k t [(0, ea, n)] := by
    have haligned : (al && ea % n != 0) = false := by
      cases al
      · rfl
      · simp [h rfl]
    simp only [State.checkPlain, beq_self_eq_true, hea, haligned, Bool.false_eq_true, if_false]
  have hspm : s.checkPlain w (s.grp w) x 1 k n al t = (s.grp w).checkSpm k t b n := hb ▸ rfl
  have hpriv : s.checkPlain w (s.grp w) x 2 k n al t = s.checkPriv w (s.grp w) k t b n := hb ▸ rfl
  refine ⟨?global, ?misaligned, ?misalignedLocal, ?scratchpad, ?own⟩
  case global =>
    intro l hl haligned
    rw [hglobal haligned]
    refine ⟨State.checkParts_covers hl, fun hroom m hm => ⟨State.checkParts_covers_alike hl hroom hm, fun hunlike => ?_⟩⟩
    exact State.checkParts_of_bad (State.checkPart_of_unlike hl hroom hm hunlike)
  case misaligned =>
    intro hal hmis
    simp only [State.checkPlain, beq_self_eq_true, hea, hal, Bool.true_and, bne_iff_ne, hmis, ne_eq, not_false_eq_true, if_true]
    rfl
  case misalignedLocal =>
    intro sp hsp hmis
    have hbne : (b % n != 0) = true := bne_iff_ne.mpr hmis
    rcases hsp with rfl | rfl
    · rw [hspm]
      exact if_pos hbne
    · rw [hpriv]
      exact if_pos hbne
  case scratchpad =>
    intro haligned
    rw [hspm]
    exact Group.checkSpm_covers haligned
  case own =>
    intro haligned leaf h
    rw [hpriv]
    exact State.checkPriv_covers hn haligned (fun _ => rfl) h

end Sys2Proof.Machine
end

section
/-!
SETTLED. A demotion whose spill area meets an error in a table (O49).
-/
namespace Sys2Proof.Machine

/-- A list of splits that the spill area does not take leaves the warp with a trap, and the table error that it comes from is counted (R73, R344). -/
theorem State.turnTo_of_spillFault {s : State} {w w1 : Warp} {c : Cause} (len : Nat)
    (h : s.spillFault w (s.grp w) (w.splits.map (·.mask)) (w1.splits.map (·.mask)) = some c) : s.turnTo w w1 len = s.trapFound w c := by
  simp only [State.turnTo, State.commitSplits, h]

/-- A demotion that is due goes on to what the demoted list leaves (R343). -/
theorem exec_rotDemotion_of_due {s : State} {id : WarpId} {w : Warp} (hw : s.warp? id = some w) (hdue : w.rotDue = true) :
    exec (.rotDemotion id) s = .next (s.turnTo w (w.demote 0) 0) := by
  show execRotDemotion id s = _
  simp only [execRotDemotion, hw, hdue, if_true]

/-! ### The counterexample -/

/-- A running split that has issued 4,096 instructions, and eight ready ones: one entry lies in the spill area. -/
def crowdedSplits : List Split :=
  ⟨0, .running, 1, 4096, 0⟩ :: (List.range 8).map fun i => ⟨0, .ready, 2 <<< i, 0, 0⟩

/-- A warp with them. -/
def crowdedWarp : Warp :=
  { id := ⟨0, 0, 0, 0⟩, grp := 0, widx := 0, vregs := 0, v := [], q := [], lr := VReg.uniform 0, s := [], p := [], k := 0, exec := 0, fflags := 0
    splits := crowdedSplits, ibufs := [], fetching := none, gld := 0, gst := 0, spm := 0, privbase := 0, wdlimit := 0, waitFrom := none
    progress := none, fails := [], readyAt := 0, held := false, joinCtr := none }

/-- Where the descriptor of its address space lies. -/
def rootDescriptor : Nat := 0x090000000000

/-- The machine with that warp, in a cycle in which a read of the descriptor meets an uncorrectable error. -/
def tableError : State := { State.reset with warps := [crowdedWarp], tableErrs := [(rootDescriptor, 7)] }

/-- What the read of the spill area comes to there: a failed walk, with the error that it has met. -/
def tableErrorCause : Cause :=
  { cls := 0, reason := rWALKERR, kind := 1, va := some 0, aux := auxOf rootDescriptor 7, err := some ⟨0, rootDescriptor, 7⟩ }

theorem tableError_spillFault : tableError.spillFault crowdedWarp (tableError.grp crowdedWarp) (crowdedWarp.splits.map (·.mask))
    ((crowdedWarp.demote 0).splits.map (·.mask)) = some tableErrorCause := by decide

/-- The uncorrectable errors that the controllers have counted. -/
def State.errorCounts (s : State) : List Nat := s.hbms.map (·.uncorrected)

/-- A trap alone counts none. -/
theorem State.trap_errorCounts (s : State) (w : Warp) (c : Cause) : (s.trap w c).errorCounts = s.errorCounts := rfl

/-- Such a fault counts one, in the stack that holds the descriptor. -/
theorem tableError_found : (tableError.found tableErrorCause).errorCounts = 1 :: List.replicate 8 0 := by decide

/-- Refutes O49: the last clause but one gives a demotion that the spill area faults the trap alone. Where the fault is an uncorrectable error that
the walk has met in a table, as one may in any cycle (log 3), the error is counted and reported too (R42, R43): here it lies in
the descriptor of the warp's address space. -/
theorem not_coreSteps : ¬ Obligations.CoreSteps := by
  unfold Obligations.CoreSteps
  intro h
  obtain ⟨-, -, -, -, -, -, -, -, -, -, hdemote, -⟩ := h
  obtain ⟨-, hfault, -⟩ := hdemote tableError ⟨0, 0, 0, 0⟩ crowdedWarp ⟨0, .running, 1, 4096, 0⟩ rfl rfl
  have hdue : 4096 ≤ 4096 ∧ ∃ q ∈ crowdedWarp.splits, q.st = .ready := by decide
  have hclaimed := hfault tableErrorCause hdue tableError_spillFault
  rw [exec_rotDemotion_of_due rfl (by decide), State.turnTo_of_spillFault 0 tableError_spillFault] at hclaimed
  have hstates := Host.Outcome.next.inj hclaimed
  have hcounts := congrArg State.errorCounts hstates
  rw [State.trapFound, State.trap_errorCounts, State.trap_errorCounts, tableError_found] at hcounts
  exact absurd hcounts (by decide)

end Sys2Proof.Machine
end

section
/-!
SETTLED. Two packets of one name: where the second goes down (O51).
-/
namespace Sys2Proof.Machine

/-- A packet named 0 that waits at a vertical port for a buffer of a tile. -/
def portPacket (tile : Nat) : Packet :=
  { pid := 0, core := ⟨0, 0⟩, rid := 0, resp := false, sys := false, wing := 0, smask := 0, via := tile, arrived := 0, loc := .edge, die := 0
    router := 0, merged := [], waiting := false, fault := false, data := [], value := 0, ok := false, hint := none }

/-- A state that lists two packets of that name, at the ports of two tiles. -/
def twinPackets : State := { State.reset with packets := [portPacket 1, portPacket 2] }

/-- Where each packet stands. -/
def State.places (s : State) : List Loc := s.packets.map (·.loc)

/-- Each of them goes down to its own tile. -/
theorem twinPackets_tileStep : (twinPackets.tileStep 0).places = [.tile 1, .tile 2] := by decide

/-- Refutes O51: `State.modPacket` changes every packet of a name, each by its own tile, and the third clause gives all of them the tile of the first
one. Two packets named 0 at different ports tell them apart. No run from reset reaches such a state, and the obligation does not leave it
out. -/
theorem not_fabricSteps : ¬ Obligations.FabricSteps := by
  unfold Obligations.FabricSteps
  intro h
  obtain ⟨-, -, hdown, -⟩ := h
  obtain ⟨hroom, -⟩ := hdown twinPackets 0 (portPacket 1) rfl rfl
  have hstates := Host.Outcome.next.inj (hroom (by decide))
  have hplaces := congrArg State.places hstates
  rw [twinPackets_tileStep] at hplaces
  exact absurd hplaces (by decide)

end Sys2Proof.Machine
end

section
/-!
SUPPORT (O52). What a home slice does to its lines and to the packets in the fabric: a response, the monitors of a line, a line replaced, and
bytes of one line written (R94, R105, R307).
-/
namespace Sys2Proof.Machine

/-! ### What these operations leave alone -/

@[simp] theorem State.modReq_packets (s : State) (c : CoreId) (rid : Nat) (f : Req → Req) : (s.modReq c rid f).packets = s.packets := rfl
@[simp] theorem State.modReq_l2 (s : State) (c : CoreId) (rid : Nat) (f : Req → Req) : (s.modReq c rid f).l2 = s.l2 := rfl

@[simp] theorem State.enqueueMem_packets (s : State) (pa : Nat) (r : MemReq) : (s.enqueueMem pa r).packets = s.packets := by
  unfold State.enqueueMem; split <;> rfl
@[simp] theorem State.enqueueMem_l2 (s : State) (pa : Nat) (r : MemReq) : (s.enqueueMem pa r).l2 = s.l2 := by
  unfold State.enqueueMem; split <;> rfl

@[simp] theorem State.l2WriteBack_packets (s : State) (l : L2Line) : (s.l2WriteBack l).packets = s.packets := by
  unfold State.l2WriteBack; dsimp only; split <;> simp
@[simp] theorem State.l2WriteBack_l2 (s : State) (l : L2Line) : (s.l2WriteBack l).l2 = s.l2 := by
  unfold State.l2WriteBack; dsimp only; split <;> simp

@[simp] theorem State.l2Set_packets (s : State) (l : L2Line) : (s.l2Set l).packets = s.packets := by
  unfold State.l2Set State.freshFree; dsimp only; (repeat' split) <;> simp

@[simp] theorem State.overflow_packets (s : State) (r : Req) : (s.overflow r).packets = s.packets := by
  unfold State.overflow; split <;> rfl
@[simp] theorem State.overflow_l2 (s : State) (r : Req) : (s.overflow r).l2 = s.l2 := by
  unfold State.overflow; split <;> rfl

@[simp] theorem State.respond_l2 (s : State) (pid : Nat) (f : Packet → Packet) : (s.respond pid f).l2 = s.l2 := by
  unfold State.respond
  split
  · rfl
  · exact (foldl_keeps State.l2 (fun _ _ => by rfl) _ _).trans rfl

@[simp] theorem State.pokeMonitors_l2 (s : State) (line : Nat) : (s.pokeMonitors line).l2 = s.l2 :=
  foldl_keeps State.l2 (fun t (m : Monitor) => t.respond_l2 m.pid _) ..

theorem State.l2Line?_of_l2 {s t : State} (h : t.l2 = s.l2) (line : Nat) : t.l2Line? line = s.l2Line? line := by
  unfold State.l2Line?
  rw [h]

theorem State.packet?_of_packets {s t : State} (h : t.packets = s.packets) (pid : Nat) : t.packet? pid = s.packet? pid := by
  unfold State.packet?
  rw [h]

/-! ### Packets -/

theorem State.packet?_pid {s : State} {pid : Nat} {p : Packet} (h : s.packet? pid = some p) : p.pid = pid := by
  simpa using List.find?_some h

theorem State.packet?_modPacket {s : State} {pid : Nat} {p : Packet} {f : Packet → Packet} (hf : ∀ x, (f x).pid = x.pid)
    (h : s.packet? pid = some p) : (s.modPacket pid f).packet? pid = some (f p) := by
  have hfind := find?_map_update (p := fun x : Packet => x.pid == pid) (f := f) (fun x hx => by rw [hf]; exact hx) s.packets
  exact hfind.trans (congrArg (Option.map f) h)

/-- A packet that has turned round with what `q` brings, for the core and request of `p` (R97). -/
def Packet.turned (p q : Packet) : Packet :=
  { q with
    core := p.core, rid := p.rid, resp := true, waiting := false, merged := [], die := p.core.die, router := routerOf p.core,
    hint := if p.core.die == p.die then q.hint else none
    via := firstTile p.die p.core.die, loc := injectLoc p.die p.router p.core.die (routerOf p.core) }

/-- A fold whose steps append to a list appends to it. -/
theorem foldl_appends {σ α β : Type} (view : σ → List β) {f : σ → α → σ} (hf : ∀ s a, ∃ l, view (f s a) = view s ++ l) (as : List α) (s : σ) :
    ∃ l, view (as.foldl f s) = view s ++ l := by
  induction as generalizing s with
  | nil => exact ⟨[], (List.append_nil _).symm⟩
  | cons a as ih =>
    obtain ⟨k, hk⟩ := hf s a
    obtain ⟨l, hl⟩ := ih (f s a)
    exact ⟨k ++ l, by rw [List.foldl_cons, hl, hk, List.append_assoc]⟩

/-- A response leaves the first packets as they stand but for the ones it turns round: what it adds stands behind them. -/
theorem State.packets_respond {s : State} {pid : Nat} {p : Packet} (f : Packet → Packet) (h : s.packet? pid = some p) :
    ∃ l, (s.respond pid f).packets = (s.packets.map fun o => if o.pid == pid then p.turned (f p) else o) ++ l := by
  unfold State.respond
  rw [h]
  dsimp only
  exact foldl_appends State.packets (fun _ _ => ⟨_, rfl⟩) _ _

theorem State.packet?_respond {s : State} {pid : Nat} {p : Packet} {f : Packet → Packet} (hf : (f p).pid = p.pid)
    (h : s.packet? pid = some p) : (s.respond pid f).packet? pid = some (p.turned (f p)) := by
  obtain ⟨l, hl⟩ := State.packets_respond f h
  have hpid : (f p).pid = pid := hf.trans (State.packet?_pid h)
  have hfind := find?_map_update (p := fun x : Packet => x.pid == pid) (f := fun _ => p.turned (f p))
    (fun _ _ => beq_iff_eq.mpr hpid) s.packets
  unfold State.packet? at *
  rw [hl, List.find?_append, hfind, h]
  rfl

theorem State.packet?_respond_of_ne {s : State} {k pid : Nat} {p : Packet} {f : Packet → Packet} (hf : ∀ x, (f x).pid = x.pid) (hk : k ≠ pid)
    (h : s.packet? pid = some p) : (s.respond k f).packet? pid = some p := by
  cases hq : s.packet? k with
  | none => simpa only [State.respond, hq] using h
  | some q =>
    obtain ⟨l, hl⟩ := State.packets_respond f hq
    have hqk : (f q).pid = k := (hf q).trans (State.packet?_pid hq)
    have hsame : ∀ x : Packet, ((if x.pid == k then q.turned (f q) else x).pid == pid) = (x.pid == pid) := fun x => by
      split
      next hx => rw [beq_iff_eq.mp hx, ← hqk]; rfl
      next => rfl
    have hfind := find?_map_of_unseen (p := fun x : Packet => x.pid == pid) (u := fun x => if x.pid == k then q.turned (f q) else x) hsame s.packets
    unfold State.packet? at *
    rw [hl, List.find?_append, hfind, h]
    simp [show p.pid = pid by simpa using List.find?_some h, hk.symm]

/-- The packet of a name is of a core's request. -/
def State.bears (s : State) (pid : Nat) (c : CoreId) (rid : Nat) : Prop := ∃ q, s.packet? pid = some q ∧ q.core = c ∧ q.rid = rid

section
variable {s : State} {pid rid : Nat} {c : CoreId} (h : s.bears pid c rid)
include h

theorem State.bears.of_packets {t : State} (ht : t.packets = s.packets) : t.bears pid c rid := by
  unfold State.bears at *
  rwa [State.packet?_of_packets ht]

theorem State.bears.respond (k : Nat) {f : Packet → Packet} (hf : ∀ x, (f x).pid = x.pid) : (s.respond k f).bears pid c rid := by
  obtain ⟨q, hq, hcore, hrid⟩ := h
  by_cases hk : k = pid
  · subst hk
    exact ⟨_, State.packet?_respond (hf q) hq, hcore, hrid⟩
  · exact ⟨q, State.packet?_respond_of_ne hf hk hq, hcore, hrid⟩

theorem State.bears.foldl {α : Type} {f : State → α → State} (hf : ∀ t x, t.bears pid c rid → (f t x).bears pid c rid) (l : List α) :
    (l.foldl f s).bears pid c rid := by
  induction l generalizing s with
  | nil => exact h
  | cons x l ih => exact ih (hf s x h)

theorem State.bears.pokeMonitors (line : Nat) : (s.pokeMonitors line).bears pid c rid := by
  refine State.bears.foldl ?_ (fun _ _ ht => ht.respond _ ?_) _
  · exact h.of_packets rfl
  · exact fun _ => rfl

theorem State.bears.l2Merge (line wg : Nat) (bs : LineBytes) : (s.l2Merge line wg bs).bears pid c rid :=
  (h.of_packets (State.l2Set_packets ..)).pokeMonitors line

theorem State.bears.homeWrite (src slot wg cp line : Nat) (bs : LineBytes) : (s.homeWrite src slot wg cp line bs).bears pid c rid := by
  unfold State.homeWrite State.l2Through
  split
  · exact h
  · split
    · exact h.l2Merge ..
    · refine State.bears.pokeMonitors ?_ line
      refine State.bears.of_packets ?_ (State.enqueueMem_packets ..)
      split
      · exact h
      · exact h.of_packets (State.l2Set_packets ..)

theorem State.bears.homeSetWord (src slot wg cp pa n : Nat) (x : DWord) : (s.homeSetWord src slot wg cp pa n x).bears pid c rid :=
  h.foldl (fun _ _ ht => ht.homeWrite ..) _
end

/-- The packet of a name has turned round for the core and request of `p`, with what `f` says. -/
def State.turnedFor (t : State) (pid : Nat) (p : Packet) (f : Packet → Prop) : Prop :=
  ∃ q, t.packet? pid = some q ∧ q.resp = true ∧ q.waiting = false ∧ q.core = p.core ∧ q.rid = p.rid ∧ q.die = p.core.die ∧
    q.router = routerOf p.core ∧ f q

/-- A packet that is answered has turned round, whatever else the answer brings. -/
theorem State.bears.turnedFor {s : State} {pid : Nat} {p : Packet} (h : s.bears pid p.core p.rid) {f : Packet → Packet} {P : Packet → Prop}
    (hf : ∀ x, (f x).pid = x.pid) (hP : ∀ x y, P (Packet.turned x (f y))) : (s.respond pid f).turnedFor pid p P := by
  obtain ⟨q, hq, hcore, hrid⟩ := h
  exact ⟨_, State.packet?_respond (hf q) hq, rfl, rfl, hcore, hrid, by rw [← hcore]; rfl, by rw [← hcore]; rfl, hP q q⟩

theorem State.bears_of_packet? {s : State} {pid : Nat} {p : Packet} (h : s.packet? pid = some p) : s.bears pid p.core p.rid := ⟨p, h, rfl, rfl⟩

/-! ### A line of L2 -/

theorem State.l2Line?_line {s : State} {line : Nat} {l : L2Line} (h : s.l2Line? line = some l) : l.line = line := by
  simpa using List.find?_some h

/-- A line put into L2 is what L2 holds of it. -/
theorem State.l2Line?_l2Set (s : State) (l : L2Line) : (s.l2Set l).l2Line? l.line = some l := by
  unfold State.l2Set
  split
  next hold =>
    obtain ⟨o, ho⟩ := Option.isSome_iff_exists.mp hold
    have hfind := find?_map_update (p := fun x : L2Line => x.line == l.line) (f := fun _ => l) (fun _ _ => beq_self_eq_true _) s.l2
    exact hfind.trans (congrArg (Option.map _) ho)
  next =>
    dsimp only
    (repeat' split) <;> exact List.find?_cons_of_pos (beq_self_eq_true l.line)

theorem State.l2Fill_line (s : State) (line wg : Nat) (p : Nat → Bool) : (s.l2Fill line wg p).line = line := by
  show ((s.l2Line? line).getD (s.l2Empty line wg)).line = line
  cases h : s.l2Line? line with
  | none => rfl
  | some l => exact State.l2Line?_line h

theorem State.length_l2Fill_data (s : State) (line wg : Nat) (p : Nat → Bool) : (s.l2Fill line wg p).data.length = 128 := by
  simp [State.l2Fill]

/-! ### Bytes of a line -/

/-- Bytes at places of their own in a line. -/
def LineBytes.Apart (bs : LineBytes) : Prop := (bs.map Prod.fst).Nodup ∧ ∀ c ∈ bs, c.1 < 128

theorem LineBytes.Apart.filter {bs : LineBytes} (h : LineBytes.Apart bs) (p : Nat × Byte → Bool) : LineBytes.Apart (bs.filter p) :=
  ⟨h.1.sublist (List.filter_sublist.map _), fun c hc => h.2 c (List.mem_filter.mp hc).1⟩

/-- The last bytes written at each place of a line stand apart. -/
theorem lastBytes_apart (bs : LineBytes) : LineBytes.Apart (lastBytes bs) := by
  have hmem : ∀ {i : Nat} {c : Nat × Byte}, c ∈ ((bs.filter fun c => c.1 == i).getLast?.map fun c => (i, c.2)) → c.1 = i := fun hc => by
    obtain ⟨_, _, rfl⟩ := Option.map_eq_some_iff.mp hc
    rfl
  refine ⟨?_, fun c hc => ?_⟩
  · rw [List.Nodup, List.pairwise_map]
    refine List.Pairwise.filterMap _ (fun i j hij c hc d hd => ?_) List.nodup_range
    rwa [hmem hc, hmem hd]
  · obtain ⟨i, hi, hci⟩ := List.mem_filterMap.mp hc
    rw [hmem hci]
    exact List.mem_range.mp hi

theorem getD_putBytes_of_forall_ne {bs : LineBytes} {i : Nat} (h : ∀ c ∈ bs, c.1 ≠ i) (data : List Byte) :
    (putBytes data bs).getD i 0 = data.getD i 0 := by
  induction bs generalizing data with
  | nil => rfl
  | cons c bs ih =>
    obtain ⟨hc, hbs⟩ := List.forall_mem_cons.mp h
    refine (ih hbs _).trans ?_
    simp [List.getD_eq_getElem?_getD, List.getElem?_set_ne hc]

/-- Each of some bytes at places of their own reads back from the line that they were put into. -/
theorem getD_putBytes {bs : LineBytes} (h : LineBytes.Apart bs) {data : List Byte} (hlen : data.length = 128) {c : Nat × Byte} (hc : c ∈ bs) :
    (putBytes data bs).getD c.1 0 = c.2 := by
  obtain ⟨hnodup, hlt⟩ := h
  induction bs generalizing data with
  | nil => exact absurd hc List.not_mem_nil
  | cons d bs ih =>
    obtain ⟨hd, hnodup'⟩ := List.nodup_cons.mp hnodup
    obtain ⟨hdlt, hlt'⟩ := List.forall_mem_cons.mp hlt
    rcases List.mem_cons.mp hc with rfl | hcb
    · refine (getD_putBytes_of_forall_ne (fun x hx hxc => hd (List.mem_map.mpr ⟨x, hx, hxc⟩)) _).trans ?_
      rw [List.getD_eq_getElem?_getD, List.getElem?_set_self (hlen ▸ hdlt), Option.getD_some]
    · exact ih (by simp [hlen]) hcb hnodup' hlt'

/-! ### Bytes written at home -/

/-- L2 holds a line with some bytes in it. -/
def State.l2Shows (s : State) (line : Nat) (bs : LineBytes) : Prop := ∃ l, s.l2Line? line = some l ∧ ∀ c ∈ bs, l.data.getD c.1 0 = c.2

theorem State.l2Shows.of_l2 {s t : State} {line : Nat} {bs : LineBytes} (h : s.l2Shows line bs) (ht : t.l2 = s.l2) : t.l2Shows line bs := by
  unfold State.l2Shows at *
  rwa [State.l2Line?_of_l2 ht]

/-- A line put into L2 shows the bytes that its data were given. -/
theorem State.l2Shows_l2Set (s : State) {l : L2Line} {line : Nat} (hl : l.line = line) {data : List Byte} {bs cs : LineBytes}
    (hdata : l.data = putBytes data cs) (hlen : data.length = 128) (hcs : LineBytes.Apart cs) (hbs : ∀ c ∈ bs, c ∈ cs) :
    (s.l2Set l).l2Shows line bs :=
  ⟨l, hl ▸ s.l2Line?_l2Set l, fun c hc => hdata ▸ getD_putBytes hcs hlen (hbs c hc)⟩

/-- Bytes merged into a line stand in L2 (R105). -/
theorem State.l2Shows_l2Merge (s : State) (line wg : Nat) {bs : LineBytes} (h : LineBytes.Apart bs) : (s.l2Merge line wg bs).l2Shows line bs := by
  refine State.l2Shows.of_l2 ?_ (State.pokeMonitors_l2 ..)
  refine State.l2Shows_l2Set s ?_ rfl (s.length_l2Fill_data line wg (touches bs)) h fun _ hc => hc
  exact s.l2Fill_line line wg (touches bs)

/-- Bytes written through a line that holds their places stand in L2 too (R105). -/
theorem State.l2Shows_l2Through {s : State} {line : Nat} {l : L2Line} (hl : s.l2Line? line = some l) (hlen : l.data.length = 128) {bs : LineBytes}
    (h : LineBytes.Apart bs) (hhas : ∀ c ∈ bs, l.has c.1 = true) (src slot wg : Nat) (uncached : Bool) (ack : Option Nat) :
    (s.l2Through src slot wg line uncached bs ack).l2Shows line bs := by
  unfold State.l2Through
  rw [hl]
  refine State.l2Shows.of_l2 ?_ ((State.pokeMonitors_l2 ..).trans (State.enqueueMem_l2 ..))
  refine State.l2Shows_l2Set s ?_ rfl hlen (h.filter _) fun c hc => List.mem_filter.mpr ⟨hc, hhas c hc⟩
  exact (State.l2Line?_line hl :)

theorem State.l2Shows_homeWrite {s : State} {line : Nat} {l : L2Line} (hl : s.l2Line? line = some l) (hlen : l.data.length = 128) {bs : LineBytes}
    (h : LineBytes.Apart bs) (hhas : ∀ c ∈ bs, l.has c.1 = true) (src slot wg cp : Nat) : (s.homeWrite src slot wg cp line bs).l2Shows line bs := by
  unfold State.homeWrite
  split
  next hempty => exact ⟨l, hl, fun c hc => by rw [List.isEmpty_iff.mp hempty] at hc; exact absurd hc List.not_mem_nil⟩
  next =>
    split
    · exact s.l2Shows_l2Merge line wg h
    · exact State.l2Shows_l2Through hl hlen h hhas ..

/-- A byte of a number. -/
theorem getD_leBytes {k n : Nat} (h : k < n) (x : Nat) : (leBytes n x).getD k 0 = BitVec.ofNat 8 (x / 256 ^ k) := by
  induction n generalizing k x with
  | zero => omega
  | succ n ih =>
    cases k with
    | zero => simp [leBytes]
    | succ k =>
      rw [leBytes, List.getD_cons_succ, ih (by omega), Nat.div_div_eq_div_mul, pow_succ']

/-- The bytes of an aligned word lie in one line. -/
theorem splitLines_word {pa n : Nat} (hn : n = 4 ∨ n = 8) (h : pa % n = 0) {bs : List Byte} (hlen : bs.length = n) :
    splitLines pa bs = [(lineOf pa, (List.range n).map fun j => (pa % 128 + j, bs.getD j 0))] := by
  have hempty : bs.isEmpty = false := by
    rw [List.isEmpty_eq_false_iff, ← List.length_pos_iff]
    omega
  have hroom : pa % 128 + n ≤ 128 := by rcases hn with rfl | rfl <;> omega
  have hone : (pa + n - 1) / 128 - pa / 128 + 1 = 1 := by omega
  have hlo : max pa (pa / 128 * 128) = pa := by omega
  have hhi : min (pa + n) (pa / 128 * 128 + 128) - pa = n := by omega
  simp only [splitLines, hempty, hlen, hone, Bool.false_eq_true, if_false, List.range_one, List.map_cons, List.map_nil,
    Nat.add_zero, hlo, hhi, lineOf]
  congr 2
  refine List.map_congr_left fun j _ => ?_
  rw [show pa + j - pa / 128 * 128 = pa % 128 + j by omega, show pa + j - pa = j by omega]

/-- An aligned word written at home stands in the line that holds it (R296). -/
theorem State.l2Line?_homeSetWord {s : State} {pa n : Nat} (hn : n = 4 ∨ n = 8) (h : pa % n = 0) {l : L2Line}
    (hl : s.l2Line? (lineOf pa) = some l) (hlen : l.data.length = 128) (hhas : l.has (pa % 128) = true) (src slot wg cp : Nat) (x : DWord) :
    ∃ l', (s.homeSetWord src slot wg cp pa n x).l2Line? (lineOf pa) = some l' ∧
      ∀ k, k < n → l'.data.getD (pa % 128 + k) 0 = BitVec.ofNat 8 (x.toNat / 256 ^ k) := by
  have hroom : pa % 128 + n ≤ 128 := by rcases hn with rfl | rfl <;> omega
  obtain ⟨bs, hbs⟩ : ∃ bs : LineBytes, bs = (List.range n).map fun j => (pa % 128 + j, (leBytes n x.toNat).getD j 0) := ⟨_, rfl⟩
  have hapart : LineBytes.Apart bs := by
    rw [hbs]
    refine ⟨?_, fun c hc => ?_⟩
    · rw [List.map_map]
      exact List.nodup_range.map fun i j hij => Nat.add_left_cancel hij
    · obtain ⟨j, hj, rfl⟩ := List.mem_map.mp hc
      have := List.mem_range.mp hj
      show pa % 128 + j < 128
      omega
  have hin : ∀ c ∈ bs, l.has c.1 = true := fun c hc => by
    rw [hbs] at hc
    obtain ⟨j, hj, rfl⟩ := List.mem_map.mp hc
    have := List.mem_range.mp hj
    have hgran : (pa % 128 + j) / 16 = pa % 128 / 16 := by rcases hn with rfl | rfl <;> omega
    show l.valid.getD ((pa % 128 + j) / 16) false = true
    rw [hgran]
    exact hhas
  obtain ⟨l', hl', hshow⟩ := State.l2Shows_homeWrite hl hlen hapart hin src slot wg cp
  refine ⟨l', ?_, fun k hk => ?_⟩
  · unfold State.homeSetWord State.homePuts
    rw [splitLines_word hn h (length_leBytes ..), ← hbs]
    exact hl'
  · rw [← getD_leBytes hk]
    exact hshow _ (hbs ▸ List.mem_map.mpr ⟨k, List.mem_range.mpr hk, rfl⟩)

end Sys2Proof.Machine
end

section
/-!
SUPPORT (O52). The operations of an atomic unit (R294, R297, R304): FP32 sums round to nearest, the smaller and the larger of two FP32 values go
by their places, and of two integers by their values.
-/
namespace Sys2Proof.Machine

/-! ### FP32 sums -/

/-- What rounding answers is a pattern of the format. -/
theorem roundF_lt {f : FFmt} (hf : f.Shaped) (x : FVal) : (roundF f 0 false x).1 < 2 ^ f.width := by
  have hinf := f.infBits_lt
  have hwidth : 2 ^ f.width = 2 ^ (f.eb + f.mb) + 2 ^ (f.eb + f.mb) := by
    rw [FFmt.width, Nat.add_assoc, Nat.add_comm, pow_succ, Nat.mul_two]
  have hsign : ∀ neg, f.signBit neg ≤ 2 ^ (f.eb + f.mb) := fun neg => by cases neg <;> simp [FFmt.signBit]
  cases x with
  | nan q =>
    have hquiet : 2 ^ (f.mb - 1) ≤ 2 ^ (f.eb + f.mb) := Nat.pow_le_pow_right two_pos (by omega)
    show f.infBits + 2 ^ (f.mb - 1) < _
    omega
  | inf neg =>
    have := hsign neg
    show f.signBit neg + f.infBits < _
    omega
  | fin neg m e =>
    obtain ⟨n, hn, hr, -⟩ := roundF_near hf neg m e
    have := hsign neg
    omega

theorem fp32_roundF_lt (x : FVal) : (roundF fp32 0 false x).1 < 2 ^ 32 := roundF_lt fp32_shaped x

theorem FVal.eq_nan_of_isNan {x : FVal} (h : x.isNan = true) : ∃ q, x = .nan q := by
  cases x with
  | nan q => exact ⟨q, rfl⟩
  | inf | fin => exact absurd h Bool.false_ne_true

/-- A sum with a NaN is the NaN that rounds to the canonical one. -/
theorem addF_of_isNan (md : ℕ) {x y : FVal} (h : (x.isNan || y.isNan) = true) : (addF md x y).1 = .nan false := by
  rcases Bool.or_eq_true _ _ ▸ h with hx | hy
  · obtain ⟨q, rfl⟩ := FVal.eq_nan_of_isNan hx
    rfl
  · obtain ⟨q, rfl⟩ := FVal.eq_nan_of_isNan hy
    cases x <;> rfl

/-- An atomic FP32 add answers the sum of the two values, rounded to nearest. -/
theorem AOp.toNat_add_f32 (old z : DWord) :
    (AOp.add.apply .f32 old z).toNat = (roundF fp32 0 false (addF 0 (unpackF fp32 false old.lo.toNat) (unpackF fp32 false z.lo.toNat)).1).1 := by
  refine (BitVec.toNat_ofNat ..).trans (Nat.mod_eq_of_lt ?_)
  exact (fp32_roundF_lt _).trans (by norm_num)

theorem AOp.add_f32_of_nan {old z : DWord} (h : (fp32.isNan old.lo.toNat || fp32.isNan z.lo.toNat ||
    (fp32.isInf old.lo.toNat && fp32.isInf z.lo.toNat && fp32.neg old.lo.toNat != fp32.neg z.lo.toNat)) = true) :
    (AOp.add.apply .f32 old z).toNat = 0x7FC00000 := by
  have hsum : (addF 0 (unpackF fp32 false old.lo.toNat) (unpackF fp32 false z.lo.toNat)).1 = .nan false := by
    rcases Bool.or_eq_true _ _ ▸ h with hnan | hinf
    · exact addF_of_isNan 0 (by rwa [unpackF_isNan, unpackF_isNan])
    · obtain ⟨⟨ha, hb⟩, hsigns⟩ : (fp32.isInf old.lo.toNat = true ∧ fp32.isInf z.lo.toNat = true) ∧ _ := by
        simpa only [Bool.and_eq_true] using hinf
      rw [unpackF_inf ha, unpackF_inf hb, addF, if_neg (by simpa using hsigns)]
  rw [AOp.toNat_add_f32, hsum]
  rfl

theorem AOp.add_f32_rounded {old z : DWord} (ha : f32Finite old.lo.toNat = true) (hb : f32Finite z.lo.toNat = true) :
    (AOp.add.apply .f32 old z).toNat < 2 ^ 32 ∧
      RoundedTo 0 (f32Units old.lo.toNat + f32Units z.lo.toNat) 1 (AOp.add.apply .f32 old z).toNat := by
  rw [AOp.toNat_add_f32]
  exact ⟨fp32_roundF_lt _, foldElem_sum (mode := 0) (.inl rfl) 0 (acc := ⟨old.lo.toNat, false, false⟩) ha hb⟩

/-! ### The smaller and the larger of two FP32 values -/

/-- Patterns of one place are one pattern. -/
theorem FFmt.place_injective (f : FFmt) {a b : ℕ} (ha : a < 2 ^ f.width) (hb : b < 2 ^ f.width) (h : f.place a = f.place b) : a = b := by
  rw [← f.signBit_add_mag ha, ← f.signBit_add_mag hb]
  unfold FFmt.place at h
  cases hna : f.neg a <;> cases hnb : f.neg b <;> simp only [hna, hnb, if_true, Bool.false_eq_true, if_false] at h
  · rw [show f.mag a = f.mag b by omega]
  · omega
  · omega
  · rw [show f.mag a = f.mag b by omega]

/-- MIN and MAX of two patterns: a number goes before a NaN, and of two numbers their places decide (R211). -/
theorem minmaxF_eq {f : FFmt} (hf : f.Shaped) (isMax : Bool) {a b : ℕ} (ha : a < 2 ^ f.width) (hb : b < 2 ^ f.width) :
    (minmaxF f false false isMax a b).1 =
      if (f.isNan a && f.isNan b) = true then f.nanBits else if f.isNan a = true then b else if f.isNan b = true then a
      else if (decide (f.place a < f.place b) == !isMax) = true then a else b := by
  unfold minmaxF
  simp only [unpackF_isNan, Bool.and_false, Bool.or_false]
  cases hna : f.isNan a with
  | true =>
    cases hnb : f.isNan b with
    | true => rfl
    | false => exact roundF_unpackF hf hb hnb
  | false =>
    cases hnb : f.isNan b with
    | true => exact roundF_unpackF hf ha hna
    | false =>
      simp only [le_unpackF hf hna hnb, le_unpackF hf hnb hna, Bool.false_and, Bool.false_eq_true, if_false, decide_eq_true_eq]
      have hround : ∀ (p : Prop) [Decidable p], (roundF f 0 false (if p then unpackF f false a else unpackF f false b)).1 = if p then a else b :=
        fun p _ => by split <;> [exact roundF_unpackF hf ha hna; exact roundF_unpackF hf hb hnb]
      cases isMax with
      | true =>
        simp only [if_true, hround, Bool.not_true, beq_false, Bool.not_eq_true', decide_eq_false_iff_not, not_lt]
      | false =>
        simp only [Bool.false_eq_true, if_false, hround, Bool.not_false, beq_true, decide_eq_true_eq]
        rcases lt_trichotomy (f.place a) (f.place b) with h | h | h
        · rw [if_pos h.le, if_pos h]
        · rw [if_pos h.le, if_neg h.not_lt]
          exact f.place_injective ha hb h
        · rw [if_neg h.not_ge, if_neg h.not_gt]

/-- An atomic FP32 MIN or MAX answers it. -/
theorem toNat_ofNat_minmaxF (isMax : Bool) (old z : DWord) :
    (BitVec.ofNat 64 (minmaxF fp32 false false isMax old.lo.toNat z.lo.toNat).1).toNat =
      if (fp32.isNan old.lo.toNat && fp32.isNan z.lo.toNat) = true then 0x7FC00000 else if fp32.isNan old.lo.toNat = true then z.lo.toNat
      else if fp32.isNan z.lo.toNat = true then old.lo.toNat
      else if (decide (fp32.place old.lo.toNat < fp32.place z.lo.toNat) == !isMax) = true then old.lo.toNat else z.lo.toNat := by
  have ha := old.lo.isLt
  have hb := z.lo.isLt
  have hnan : fp32.nanBits = 0x7FC00000 := by decide
  rw [minmaxF_eq fp32_shaped isMax ha hb, hnan]
  refine (BitVec.toNat_ofNat ..).trans (Nat.mod_eq_of_lt ?_)
  repeat' split
  all_goals omega

/-! ### Integers -/

theorem Ty.toZ_min {ty : Ty} (h : ty ≠ .f32) (old z : DWord) : ty.toZ (AOp.min.apply ty old z) = min (ty.toZ old) (ty.toZ z) := by
  have happly : AOp.min.apply ty old z = if ty.toZ z < ty.toZ old then z else old := by
    cases ty
    case f32 => exact absurd rfl h
    all_goals rfl
  rw [happly]
  split <;> omega

theorem Ty.toZ_max {ty : Ty} (h : ty ≠ .f32) (old z : DWord) : ty.toZ (AOp.max.apply ty old z) = max (ty.toZ old) (ty.toZ z) := by
  have happly : AOp.max.apply ty old z = if ty.toZ old < ty.toZ z then z else old := by
    cases ty
    case f32 => exact absurd rfl h
    all_goals rfl
  rw [happly]
  split <;> omega

theorem AOp.toNat_min_u32 (old z : DWord) : (AOp.min.apply .u32 old z).lo.toNat = Min.min old.lo.toNat z.lo.toNat := by
  have h : ((AOp.min.apply .u32 old z).lo.toNat : ℤ) = Min.min (old.lo.toNat : ℤ) z.lo.toNat := Ty.toZ_min (ty := .u32) nofun old z
  exact_mod_cast h

theorem AOp.toNat_max_u32 (old z : DWord) : (AOp.max.apply .u32 old z).lo.toNat = Max.max old.lo.toNat z.lo.toNat := by
  have h : ((AOp.max.apply .u32 old z).lo.toNat : ℤ) = Max.max (old.lo.toNat : ℤ) z.lo.toNat := Ty.toZ_max (ty := .u32) nofun old z
  exact_mod_cast h

theorem AOp.toNat_min_u64 (old z : DWord) : (AOp.min.apply .u64 old z).toNat = Min.min old.toNat z.toNat := by
  have h : ((AOp.min.apply .u64 old z).toNat : ℤ) = Min.min (old.toNat : ℤ) z.toNat := Ty.toZ_min (ty := .u64) nofun old z
  exact_mod_cast h

theorem AOp.toNat_max_u64 (old z : DWord) : (AOp.max.apply .u64 old z).toNat = Max.max old.toNat z.toNat := by
  have h : ((AOp.max.apply .u64 old z).toNat : ℤ) = Max.max (old.toNat : ℤ) z.toNat := Ty.toZ_max (ty := .u64) nofun old z
  exact_mod_cast h

@[simp] theorem Word.lo_toD (x : Word) : x.toD.lo = x := by
  simp [Word.toD, DWord.lo]

theorem AOp.lo_add_word {ty : Ty} (h : ty = .s32 ∨ ty = .u32) (old z : DWord) : (AOp.add.apply ty old z).lo = old.lo + z.lo := by
  rcases h with rfl | rfl <;> exact Word.lo_toD _

theorem AOp.add_dword {ty : Ty} (h : ty = .s64 ∨ ty = .u64) (old z : DWord) : AOp.add.apply ty old z = old + z := by
  rcases h with rfl | rfl <;> rfl

theorem AOp.apply_cas (cmp : DWord) (ty : Ty) (old z : DWord) : (AOp.cas cmp).apply ty old z = if old = cmp then z else old := by
  simp [AOp.apply]

theorem toNat_cadd_apply (ty : Ty) (old z : DWord) : (AOp.cadd.apply ty old z).toNat = min (old.toNat + z.toNat) (2 ^ 64 - 1) := by
  refine (BitVec.toNat_ofNat ..).trans (Nat.mod_eq_of_lt ?_)
  exact (Nat.min_le_right ..).trans_lt (by norm_num)

end Sys2Proof.Machine
end

section
/-!
SUPPORT (O52). Runs of requests at an atomic unit: when a run has arrived, and which other run is served before it (R296, log 8).
-/
namespace Sys2Proof.Machine

/-- The largest of some numbers. -/
theorem foldl_max_eq_iff {l : List ℕ} (h : l ≠ []) {n : ℕ} : l.foldl max 0 = n ↔ (∀ a ∈ l, a ≤ n) ∧ n ∈ l := by
  rw [List.foldl_eq_foldr, and_comm, ← List.maximum_eq_coe_iff, ← List.foldr_max_of_ne_nil h]
  exact WithBot.coe_inj.symm

/-- A run has arrived with its last request. -/
theorem State.runArrival_eq_some_iff {s : State} {run : List Req} (hne : run ≠ []) {n : ℕ} :
    s.runArrival run = some n ↔
      (∀ q ∈ run, ∃ x, s.arrived? q = some x ∧ x.arrived ≤ n) ∧ ∃ q ∈ run, ∃ x, s.arrived? q = some x ∧ x.arrived = n := by
  have hmem : ∀ a, a ∈ (run.filterMap fun q => (s.arrived? q).map (·.arrived)) ↔ ∃ q ∈ run, ∃ x, s.arrived? q = some x ∧ x.arrived = a := fun a => by
    simp only [List.mem_filterMap, Option.map_eq_some_iff]
  unfold State.runArrival
  by_cases hall : (run.all fun q => (s.arrived? q).isSome) = true
  · rw [if_pos hall, Option.some_inj]
    have hhere : ∀ q ∈ run, ∃ x, s.arrived? q = some x := fun q hq => Option.isSome_iff_exists.mp (List.all_eq_true.mp hall q hq)
    have hsome : (run.filterMap fun q => (s.arrived? q).map (·.arrived)) ≠ [] := by
      obtain ⟨q, hq⟩ := List.exists_mem_of_ne_nil _ hne
      obtain ⟨x, hx⟩ := hhere q hq
      exact List.ne_nil_of_mem ((hmem _).mpr ⟨q, hq, x, hx, rfl⟩)
    rw [foldl_max_eq_iff hsome, hmem]
    refine and_congr_left fun _ => ⟨fun hle q hq => ?_, fun hle a ha => ?_⟩
    · obtain ⟨x, hx⟩ := hhere q hq
      exact ⟨x, hx, hle _ ((hmem _).mpr ⟨q, hq, x, hx, rfl⟩)⟩
    · obtain ⟨q, hq, x, hx, rfl⟩ := (hmem a).mp ha
      obtain ⟨y, hy, hyn⟩ := hle q hq
      rwa [Option.some_inj.mp (hx.symm.trans hy)]
  · rw [if_neg hall]
    refine ⟨nofun, fun ⟨hhere, _⟩ => absurd (List.all_eq_true.mpr fun q hq => ?_) hall⟩
    obtain ⟨x, hx, -⟩ := hhere q hq
    exact Option.isSome_iff_exists.mpr ⟨x, hx⟩

/-- A run is served later than another that has reached the unit of its slice before it. -/
theorem State.earlier_eq_true_iff (s : State) (run : List Req) (word : ℕ) : s.earlier run word = true ↔
    ∃ p ∈ s.packets, p.loc = .home ∧ p.resp = false ∧ (∀ m ∈ s.monitors, m.pid ≠ p.pid) ∧
      ∃ q mine before, s.req? p.core p.rid = some q ∧ q.atAtomicUnit = true ∧ s.homeDie q.line = s.homeDie word ∧
        sliceOf q.line = sliceOf word ∧ (∀ x ∈ run, ¬ (x.core = q.core ∧ x.rid = q.rid)) ∧
        s.runArrival run = some mine ∧ s.runArrival (s.runOf q) = some before ∧ before < mine := by
  unfold State.earlier
  rw [List.any_eq_true]
  refine exists_congr fun p => and_congr_right fun _ => ?_
  simp only [Bool.and_eq_true, beq_iff_eq, Bool.not_eq_true', List.any_eq_false, and_assoc]
  refine and_congr_right fun _ => and_congr_right fun _ => and_congr_right fun _ => ?_
  cases hq : s.req? p.core p.rid with
  | none => simp
  | some q =>
    cases hmine : s.runArrival run with
    | none => simp
    | some mine => cases hbefore : s.runArrival (s.runOf q) <;> simp [and_assoc, hbefore]

end Sys2Proof.Machine
end

section
/-!
SUPPORT (O52). The steps of a home: a slice's service of a read or a store, an atomic unit's of a run, and a CWAIT's way back to its core and out
again (R94, R105, R296, R307, R421, R422).
-/
namespace Sys2Proof.Machine

theorem State.mem_of_stored {s t : State} (h : t.stored = s.stored) : t.mem = s.mem := congrArg Prod.fst h

theorem exec_l2Request (pid : Nat) (s : State) : exec (.l2Request pid) s = .next (s.l2Serve pid) := rfl
theorem exec_atomicUnitService (pid : Nat) (s : State) : exec (.atomicUnitService pid) s = .next (s.atomicService pid) := rfl
theorem exec_cwaitAnswer (pid : Nat) (s : State) : exec (.cwaitAnswer pid) s = .next (s.cwaitAnswer pid) := rfl
theorem exec_cwaitRetry (c : CoreId) (rid : Nat) (s : State) : exec (.cwaitRetry c rid) s = .next (s.cwaitRetry c rid) := rfl

/-! ### What a home answers -/

/-- A step refuses a packet's request for the sake of an address: neither memory nor L2 changes. -/
def State.Refuses (s : State) (i : Instr) (pid : Nat) (p : Packet) (pa : Nat) : Prop :=
  ∃ t, exec i s = .next t ∧ t.mem = s.mem ∧ t.l2 = s.l2 ∧ t.turnedFor pid p fun q => q.fault = true ∧ q.value = auxOf pa 0

/-- A step asks memory for what a packet's request reads, and the packet waits (R28, R94). -/
def State.Asks (s : State) (i : Instr) (pid : Nat) (p : Packet) (r : Req) : Prop :=
  ∃ q, exec i s = .next ((s.enqueueMem r.line q).modPacket pid fun x => { x with waiting := true }) ∧ q.kind = 0 ∧
    q.src = r.core.die ∧ q.slot = s.slotOf r ∧ q.wg = p.wing ∧ q.line = lineOf (canonPA r.line) ∧ q.ack = some pid ∧
    q.sectors = p.smask ∧ (r.gran ≠ none → isStackPA r.line = true → q.gran = r.gran) ∧
    (r.gran = none → (r.cp ≠ 2 ∨ r.atAtomicUnit = true) → p.merged = [] → s.bypass r.line = false → q.gran = none)

/-- The granule form is for uncached accesses only (R28). -/
theorem oneGranule_of_cached (pa : Nat) (offs : List Nat) : oneGranule pa false offs = none := by
  cases offs <;> rfl

section
variable {s : State} {i : Instr} {pid : Nat} {p : Packet} {r : Req}

theorem State.refuses_of_refuse (hp : s.packet? pid = some p) {pa : Nat} (h : exec i s = .next (s.refuse p pa)) : s.Refuses i pid p pa := by
  obtain rfl := State.packet?_pid hp
  exact ⟨_, h, State.mem_of_stored (State.refuse_stored ..), State.respond_l2 ..,
    (State.bears_of_packet? hp).turnedFor (fun _ => rfl) fun _ _ => ⟨rfl, rfl⟩⟩

theorem State.asks_of_askMemory (hp : s.packet? pid = some p) (hr : s.req? p.core p.rid = some r) (h : exec i s = .next (s.askMemory p r)) :
    s.Asks i pid p r := by
  obtain rfl := State.packet?_pid hp
  refine ⟨_, h, rfl, rfl, rfl, rfl, rfl, rfl, rfl, fun hgran hstack => ?_, fun hgran hcached hmerged hup => ?_⟩
  · exact if_pos (by rw [hstack, Bool.and_true, Option.isSome_iff_ne_none]; exact hgran)
  · have hreqs : s.reqsOf p = [r] := by simp [State.reqsOf, hmerged, hr]
    have huncached : (s.bypass r.line || (s.reqsOf p).all fun q => !q.atAtomicUnit && q.cp == 2 && q.kind != .prefL2) = false := by
      rw [hup, hreqs]
      rcases hcached with hcp | hatomic
      · simp [hcp]
      · simp [hatomic]
    dsimp only
    rw [if_neg (by simp [hgran]), huncached]
    exact oneGranule_of_cached ..
end

/-! ### A home slice -/

/-- L2 holds some granules of a line. -/
def State.l2Holds (s : State) (line : Nat) (gs : List Nat) : Bool := (s.l2Line? line).any fun l => gs.all fun g => l.valid.getD g false

/-- A request's packet stands at its home, to be served. -/
structure State.Stands (s : State) (pid : Nat) (p : Packet) (r : Req) : Prop where
  packet : s.packet? pid = some p
  asks : p.resp = false
  awake : p.waiting = false
  home : p.loc = .home
  req : s.req? p.core p.rid = some r

section
variable {s : State} {pid : Nat} {p : Packet} {r : Req} (h : s.Stands pid p r)
include h

/-- The slice answers a read of what it holds, and asks memory for the rest (R94). -/
theorem State.Stands.l2Serve_read (hk : r.kind = .load ∨ r.kind = .prefL1 ∨ r.kind = .prefL2) (hup : ¬ s.memDown r.line = true) :
    s.l2Serve pid =
      if (s.l2Holds r.line (granulesOf r.gran p.smask) && !s.bypass r.line) = true then s.answerRead p r (s.devLine r.line)
      else s.askMemory p r := by
  unfold State.l2Holds
  rcases hk with hk | hk | hk <;> simp only [State.l2Serve, h.packet, h.asks, h.awake, h.home, h.req, hk, hup] <;>
    cases s.l2Line? r.line <;> rfl

/-- It merges a store under write-back, and passes on one under write-through (R105). -/
theorem State.Stands.l2Serve_store (hk : r.kind = .store) (hup : ¬ s.memDown r.line = true) :
    s.l2Serve pid =
      if (r.cp == 0 && !s.bypass r.line) = true then (s.l2Merge r.line p.wing (lastBytes r.storeBytes)).respond pid id
      else (s.modPacket pid fun x => { x with waiting := true }).l2Through r.core.die (s.slotOf r) p.wing r.line (r.cp == 2)
        (lastBytes r.storeBytes) (some pid) := by
  simp only [State.l2Serve, h.packet, h.asks, h.awake, h.home, h.req, hk, hup]
  rfl

/-- Memory that is fenced or revoked refuses both (R414, R422). -/
theorem State.Stands.l2Serve_down (hk : r.kind = .load ∨ r.kind = .prefL1 ∨ r.kind = .prefL2 ∨ r.kind = .store)
    (hdown : s.memDown r.line = true) : s.l2Serve pid = s.refuse p r.line := by
  rcases hk with hk | hk | hk | hk <;> simp only [State.l2Serve, h.packet, h.asks, h.awake, h.home, h.req, hk, hdown] <;> rfl

theorem State.Stands.refuses_l2Request (hk : r.kind = .load ∨ r.kind = .prefL1 ∨ r.kind = .prefL2 ∨ r.kind = .store)
    (hdown : s.memDown r.line = true) : s.Refuses (.l2Request pid) pid p r.line :=
  State.refuses_of_refuse h.packet (by rw [exec_l2Request, h.l2Serve_down hk hdown])

theorem State.Stands.answers_read (hk : r.kind = .load ∨ r.kind = .prefL1 ∨ r.kind = .prefL2) (hup : ¬ s.memDown r.line = true)
    (hserve : ¬ s.bypass r.line = true) {l : L2Line} (hl : s.l2Line? r.line = some l)
    (hvalid : ∀ g ∈ granulesOf r.gran p.smask, l.valid.getD g false = true) :
    ∃ t, exec (.l2Request pid) s = .next t ∧ t.mem = s.mem ∧ t.turnedFor pid p fun q => q.data = s.devLine r.line := by
  have hholds : s.l2Holds r.line (granulesOf r.gran p.smask) = true := by
    rw [State.l2Holds, hl]
    exact List.all_eq_true.mpr hvalid
  have hanswer : s.l2Serve pid = s.answerRead p r (s.devLine r.line) := by
    rw [h.l2Serve_read hk hup, if_pos (by simp [hholds, hserve])]
  refine ⟨_, by rw [exec_l2Request, hanswer], State.mem_of_stored (State.answerRead_stored ..), ?_⟩
  unfold State.answerRead
  obtain rfl := State.packet?_pid h.packet
  refine State.bears.turnedFor ?_ (fun _ => rfl) fun _ _ => rfl
  refine (State.bears_of_packet? h.packet).of_packets ?_
  (repeat' split) <;> rfl

/-- What L2 does not hold, or may not answer, memory is asked for (R94, R421). -/
theorem State.Stands.asks_read (hk : r.kind = .load ∨ r.kind = .prefL1 ∨ r.kind = .prefL2) (hup : ¬ s.memDown r.line = true)
    (hgone : s.bypass r.line = true ∨ s.l2Line? r.line = none ∨
      ∃ l, s.l2Line? r.line = some l ∧ ∃ g ∈ granulesOf r.gran p.smask, l.valid.getD g false = false) : s.Asks (.l2Request pid) pid p r := by
  refine State.asks_of_askMemory h.packet h.req ?_
  rw [exec_l2Request, h.l2Serve_read hk hup, if_neg]
  rcases hgone with haside | hnone | ⟨l, hl, g, hg, hinvalid⟩
  · simp [haside]
  · simp [State.l2Holds, hnone]
  · rw [State.l2Holds, hl, Bool.and_eq_true, Option.any_some, List.all_eq_true]
    exact fun hall => Bool.false_ne_true (hinvalid.symm.trans (hall.1 g hg))

theorem State.Stands.merges_store (hk : r.kind = .store) (hup : ¬ s.memDown r.line = true) (hserve : ¬ s.bypass r.line = true) (hcp : r.cp = 0) :
    ∃ t l, exec (.l2Request pid) s = .next t ∧ t.mem = s.mem ∧ (t.turnedFor pid p fun _ => True) ∧ t.l2Line? r.line = some l ∧
      ∀ c ∈ lastBytes r.storeBytes, l.data.getD c.1 0 = c.2 := by
  have hmerge : s.l2Serve pid = (s.l2Merge r.line p.wing (lastBytes r.storeBytes)).respond pid id := by
    rw [h.l2Serve_store hk hup, if_pos (by simp [hcp, hserve])]
  obtain ⟨l, hl, hbytes⟩ := s.l2Shows_l2Merge r.line p.wing (lastBytes_apart r.storeBytes)
  refine ⟨_, l, by rw [exec_l2Request, hmerge], State.mem_of_stored (by simp), ?_, ?_, hbytes⟩
  · exact ((State.bears_of_packet? h.packet).l2Merge ..).turnedFor (fun _ => rfl) fun _ _ => trivial
  · rwa [State.l2Line?_of_l2 (State.respond_l2 ..)]

theorem State.Stands.passes_store (hk : r.kind = .store) (hup : ¬ s.memDown r.line = true) (hpass : s.bypass r.line = true ∨ r.cp ≠ 0) :
    exec (.l2Request pid) s = .next ((s.modPacket pid fun x => { x with waiting := true }).l2Through r.core.die (s.slotOf r) p.wing
      r.line (r.cp == 2) (lastBytes r.storeBytes) (some pid)) := by
  rw [exec_l2Request, h.l2Serve_store hk hup, if_neg]
  rcases hpass with haside | hcp
  · simp [haside]
  · simp [hcp]

/-! ### An atomic unit -/

/-- The requests of a run that stand at their home performed in turn (R296). -/
def State.performRun (s : State) (run : List Req) : State :=
  run.foldl (fun st q => match st.atHome q with | some x => st.atomServe q x | none => st) s

/-- A unit refuses where memory does, and where L2 stands aside all but a counter's read; it asks memory for that, and for a word that L2 does
not hold; else it performs the run, once all of it stands there and no other is due before (R296, R421, R422). -/
theorem State.Stands.atomicService_eq (hk : r.atAtomicUnit = true) :
    s.atomicService pid =
      if (s.memDown r.line || (s.bypass r.line && r.kind != .cread)) = true then s.refuse p r.wordPA
      else if s.bypass r.line = true then s.askMemory p r
      else if (!(s.l2Line? r.line).any fun l => l.has (r.wordPA % 128)) = true then s.askMemory p r
      else if (((s.runOf r).all fun q => (s.atHome q).isSome) && !s.earlier (s.runOf r) r.wordPA) = true then s.performRun (s.runOf r)
      else s := by
  simp only [State.atomicService, h.packet, h.asks, h.awake, h.home, h.req, hk]
  cases s.l2Line? r.line <;> rfl

theorem State.Stands.refuses_atomic (hk : r.atAtomicUnit = true) (hdown : s.memDown r.line = true ∨ (s.bypass r.line = true ∧ r.kind ≠ .cread)) :
    s.Refuses (.atomicUnitService pid) pid p r.wordPA := by
  refine State.refuses_of_refuse h.packet ?_
  rw [exec_atomicUnitService, h.atomicService_eq hk, if_pos]
  rcases hdown with hd | ⟨ha, hkind⟩
  · simp [hd]
  · simp [ha, hkind]

theorem State.Stands.asks_counter (hup : ¬ s.memDown r.line = true) (haside : s.bypass r.line = true) (hk : r.kind = .cread) :
    s.Asks (.atomicUnitService pid) pid p r := by
  refine State.asks_of_askMemory h.packet h.req ?_
  rw [exec_atomicUnitService, h.atomicService_eq (by rw [Req.atAtomicUnit, hk]), if_neg (by simp [hup, hk]), if_pos haside]

theorem State.Stands.asks_word (hk : r.atAtomicUnit = true) (hup : ¬ s.memDown r.line = true) (hserve : ¬ s.bypass r.line = true)
    (habsent : ∀ l, s.l2Line? r.line = some l → l.has (r.wordPA % 128) = false) : s.Asks (.atomicUnitService pid) pid p r := by
  refine State.asks_of_askMemory h.packet h.req ?_
  rw [exec_atomicUnitService, h.atomicService_eq hk, if_neg (by simp [hup, hserve]), if_neg hserve, if_pos]
  rw [Bool.not_eq_true', Option.any_eq_false]
  exact fun l hl => Bool.not_eq_true _ ▸ habsent l hl

/-- A unit whose slice holds the word. -/
theorem State.Stands.atomicService_held (hk : r.atAtomicUnit = true) (hup : ¬ s.memDown r.line = true) (hserve : ¬ s.bypass r.line = true)
    {l : L2Line} (hl : s.l2Line? r.line = some l) (hhas : l.has (r.wordPA % 128) = true) :
    s.atomicService pid =
      if (((s.runOf r).all fun q => (s.atHome q).isSome) && !s.earlier (s.runOf r) r.wordPA) = true then s.performRun (s.runOf r) else s := by
  rw [h.atomicService_eq hk, if_neg (by simp [hup, hserve]), if_neg hserve, if_neg (by simp [hl, hhas])]

theorem State.Stands.waits_for_run (hk : r.atAtomicUnit = true) (hup : ¬ s.memDown r.line = true) (hserve : ¬ s.bypass r.line = true)
    {l : L2Line} (hl : s.l2Line? r.line = some l) (hhas : l.has (r.wordPA % 128) = true)
    (hwait : (∃ q ∈ s.runOf r, s.atHome q = none) ∨ s.earlier (s.runOf r) r.wordPA = true) : exec (.atomicUnitService pid) s = .next s := by
  rw [exec_atomicUnitService, h.atomicService_held hk hup hserve hl hhas, if_neg]
  rcases hwait with ⟨q, hq, hnone⟩ | hearlier
  · rw [Bool.and_eq_true, List.all_eq_true]
    exact fun hall => by simpa [hnone] using hall.1 q hq
  · simp [hearlier]

theorem State.Stands.performs_run (hk : r.atAtomicUnit = true) (hup : ¬ s.memDown r.line = true) (hserve : ¬ s.bypass r.line = true)
    {l : L2Line} (hl : s.l2Line? r.line = some l) (hhas : l.has (r.wordPA % 128) = true)
    (hall : ∀ q ∈ s.runOf r, s.atHome q ≠ none) (hfirst : s.earlier (s.runOf r) r.wordPA = false) :
    exec (.atomicUnitService pid) s = .next (s.performRun (s.runOf r)) := by
  have hcond : (((s.runOf r).all fun q => (s.atHome q).isSome) && !s.earlier (s.runOf r) r.wordPA) = true := by
    rw [hfirst, Bool.not_false, Bool.and_true, List.all_eq_true]
    exact fun q hq => Option.isSome_iff_ne_none.mpr (hall q hq)
  rw [exec_atomicUnitService, h.atomicService_held hk hup hserve hl hhas, if_pos hcond]
end

end Sys2Proof.Machine
end

section
/-!
SETTLED. Home slices, atomic units and monitors (O52).
-/
namespace Sys2Proof.Machine

/-! ### One request at its unit -/

/-- The width of an atomic's word: a counter has 8 bytes (R304). -/
def AOp.width (op : AOp) (ty : Ty) : Nat := if op = .cadd then 8 else ty.bytes

theorem AOp.width_eq (op : AOp) (ty : Ty) : op.width ty = 4 ∨ op.width ty = 8 := by
  unfold AOp.width
  split
  · exact .inr rfl
  · cases ty <;> decide

/-- Whether a compare-and-swap finds what it compares with; other operations always succeed (R297). -/
def AOp.succeeds (op : AOp) (old : DWord) : Bool := match op with | .cas cmp => old == cmp | _ => true

section
variable {s : State} {r : Req} {p : Packet}

/-- The state in which an atomic has written its word, and its issuer has been charged with an add that saturated (R296, R305). -/
def State.atomWritten (s : State) (r : Req) (p : Packet) (op : AOp) (ty : Ty) (z : DWord) : State :=
  let old := s.homeWord r.wordPA (op.width ty)
  let written := s.homeSetWord r.core.die (s.slotOf r) p.wing r.cp r.wordPA (op.width ty) (op.apply ty old z)
  if (op == .cadd && 2 ^ 64 ≤ old.toNat + z.toNat) = true then written.overflow r else written

theorem State.atomServe_atom {op : AOp} {ty : Ty} {z : DWord} {ret : Bool} (hk : r.kind = .atom op ty z ret) :
    s.atomServe r p = (s.atomWritten r p op ty z).respond p.pid fun x =>
      { x with value := s.homeWord r.wordPA (op.width ty), ok := op.succeeds (s.homeWord r.wordPA (op.width ty)) } := by
  simp only [State.atomServe, hk]
  cases op <;> rfl

theorem State.atomWritten_l2 (op : AOp) (ty : Ty) (z : DWord) :
    (s.atomWritten r p op ty z).l2 = (s.homeSetWord r.core.die (s.slotOf r) p.wing r.cp r.wordPA (op.width ty)
      (op.apply ty (s.homeWord r.wordPA (op.width ty)) z)).l2 := by
  unfold State.atomWritten
  dsimp only
  split
  · exact State.overflow_l2 ..
  · rfl

theorem State.bears.atomWritten {pid rid : Nat} {c : CoreId} (h : s.bears pid c rid) (op : AOp) (ty : Ty) (z : DWord) :
    (s.atomWritten r p op ty z).bears pid c rid := by
  unfold State.atomWritten
  dsimp only
  split
  · exact (h.homeSetWord ..).of_packets (State.overflow_packets ..)
  · exact h.homeSetWord ..

/-- An atomic answers the old value, and its word holds the new one (R296). -/
theorem State.atomServe_performs {op : AOp} {ty : Ty} {z : DWord} {ret : Bool} (hp : s.packet? p.pid = some p) (hk : r.kind = .atom op ty z ret)
    {l : L2Line} (hl : s.l2Line? (lineOf r.wordPA) = some l) (hlen : l.data.length = 128) (hhas : l.has (r.wordPA % 128) = true)
    (haligned : r.wordPA % op.width ty = 0) :
    (∃ q, (s.atomServe r p).packet? p.pid = some q ∧ q.resp = true ∧ q.value = s.homeWord r.wordPA (op.width ty) ∧
      q.ok = op.succeeds (s.homeWord r.wordPA (op.width ty))) ∧
    ∃ l', (s.atomServe r p).l2Line? (lineOf r.wordPA) = some l' ∧ ∀ k, k < op.width ty →
      l'.data.getD (r.wordPA % 128 + k) 0 =
        BitVec.ofNat 8 ((op.apply ty (s.homeWord r.wordPA (op.width ty)) z).toNat / 256 ^ k) := by
  rw [State.atomServe_atom hk]
  constructor
  · obtain ⟨q, hq, -, -⟩ := (State.bears_of_packet? hp).atomWritten (r := r) (p := p) op ty z
    exact ⟨_, State.packet?_respond rfl hq, rfl, rfl, rfl⟩
  · obtain ⟨l', hl', hbytes⟩ := State.l2Line?_homeSetWord (op.width_eq ty) haligned hl hlen hhas r.core.die (s.slotOf r) p.wing r.cp
      (op.apply ty (s.homeWord r.wordPA (op.width ty)) z)
    exact ⟨l', by rw [State.l2Line?_of_l2 ((State.respond_l2 ..).trans (State.atomWritten_l2 op ty z)), hl'], hbytes⟩

/-- A CWAIT whose counter has come is answered (R307). -/
theorem State.atomServe_cwait_of_le (hp : s.packet? p.pid = some p) {z : DWord} (hk : r.kind = .cwait z) (hcome : z.toNat ≤ s.devNat r.wordPA 8) :
    ∃ q, (s.atomServe r p).packet? p.pid = some q ∧ q.resp = true ∧ q.ok = true := by
  have hserve : s.atomServe r p = s.respond p.pid fun x => { x with ok := true } := by
    simp only [State.atomServe, hk, if_pos hcome]
  rw [hserve]
  exact ⟨_, State.packet?_respond rfl hp, rfl, rfl⟩

/-- Another is monitored where its slice has a monitor free, and told to retry where it has none (R307). -/
theorem State.atomServe_cwait_of_lt (hp : s.packet? p.pid = some p) {z : DWord} (hk : r.kind = .cwait z) (hearly : s.devNat r.wordPA 8 < z.toNat) :
    let held := (s.monitors.filter fun m => s.homeDie m.pa == p.die && sliceOf m.pa == sliceOf r.wordPA).length
    (held < 32 → (s.atomServe r p).monitors = s.monitors ++ [⟨r.wordPA, z, p.pid⟩] ∧
      (s.atomServe r p).packet? p.pid = some { p with waiting := true }) ∧
    (32 ≤ held → ∃ q, (s.atomServe r p).packet? p.pid = some q ∧ q.resp = true ∧ q.ok = false) := by
  refine ⟨fun hfree => ?_, fun hfull => ?_⟩
  · have hserve : s.atomServe r p =
        { (s.modPacket p.pid fun x => { x with waiting := true }) with monitors := s.monitors ++ [⟨r.wordPA, z, p.pid⟩] } := by
      simp only [State.atomServe, hk, if_neg hearly.not_ge, if_pos hfree]
    rw [hserve]
    exact ⟨rfl, State.packet?_modPacket (fun _ => rfl) hp⟩
  · have hserve : s.atomServe r p = s.respond p.pid fun x => { x with ok := false } := by
      simp only [State.atomServe, hk, if_neg hearly.not_ge, if_neg hfull.not_gt]
    rw [hserve]
    exact ⟨_, State.packet?_respond rfl hp, rfl, rfl⟩

/-- A counter's read answers its value. -/
theorem State.atomServe_cread (hp : s.packet? p.pid = some p) (hk : r.kind = .cread) :
    ∃ q, (s.atomServe r p).packet? p.pid = some q ∧ q.resp = true ∧ q.value = s.homeWord r.wordPA 8 := by
  have hserve : s.atomServe r p = s.respond p.pid fun x => { x with value := s.homeWord r.wordPA 8 } := by
    simp only [State.atomServe, hk]
  rw [hserve]
  exact ⟨_, State.packet?_respond rfl hp, rfl, rfl⟩
end

/-! ### A CWAIT's way back and out again -/

/-- What becomes of a CWAIT whose answer has come (R306, R307). -/
theorem State.cwaitAnswer_eq {s : State} {pid : Nat} {p : Packet} {r : Req} {z : DWord} (h : s.returned? pid = some (p, r)) (hk : r.kind = .cwait z) :
    s.cwaitAnswer pid =
      if p.fault = true then (((s.dropPacket pid).cwaitRefused r p.value).endReq r).settle r.core
      else if p.ok = true then ((s.dropPacket pid).endReq r).settle r.core
      else (s.dropPacket pid).modReq r.core r.rid fun q => { q with stage := .retry (s.clk + 64) } := by
  simp only [State.cwaitAnswer, h, hk]

/-- A refused CWAIT's trap is pending at its core: class 0, precise, at its own instruction (R421). -/
theorem State.core_cwaitRefused {s : State} {r : Req} {o : Outst} {z : DWord} (hk : r.kind = .cwait z) (hc : s.hasCore r.core)
    (ho : (s.core r.core).outst.find? (fun x => x.iid == r.iid) = some o) (aux : DWord) :
    ∃ t, (s.cwaitRefused r aux).core r.core = (s.core r.core).pend s.clk t ∧ t.trapRec.cls = 0 ∧ t.trapRec.deferred = false ∧
      t.trapRec.kind = 3 ∧ t.trapRec.pc = o.pc ∧ t.trapRec.aux = aux := by
  have hkind : r.kind.access.no = 3 := by rw [hk]; rfl
  unfold State.cwaitRefused
  rw [ho]
  exact ⟨_, State.core_modCore_self (hc.of_cores rfl), rfl, rfl, hkind, rfl, rfl⟩

/-- A request that leaves for its home is one more packet, for its slice there (R86, R94). -/
theorem State.packets_sendReq (s : State) (r : Req) : ∃ p, (s.sendReq r).packets = s.packets ++ [p] ∧ p.core = r.core ∧ p.rid = r.rid ∧
    p.resp = false ∧ p.die = s.homeDie r.line ∧ p.router = homeRouter r.line := ⟨_, rfl, rfl, rfl, rfl, rfl, rfl⟩

/-- A CWAIT told to retry is sent again once its time has come (R307). -/
theorem State.cwaitRetry_eq {s : State} {c : CoreId} {rid n : Nat} {r : Req} (hr : s.req? c rid = some r) (hst : r.stage = .retry n) :
    s.cwaitRetry c rid = if n ≤ s.clk then s.sendReq r else s := by
  simp only [State.cwaitRetry, hr, hst]

/-! ### The obligation -/

/-- Settles O52, clause by clause: the slice's service, the unit's, when a run has arrived and what goes before it, one request at its unit, the
operations, and a CWAIT's way back and out again. -/
theorem homeSteps : Obligations.HomeSteps := by
  unfold Obligations.HomeSteps
  refine ⟨fun s pid p r hp hresp hwait hloc hr => ?slices, State.earlier_eq_true_iff, fun _ _ _ hne => State.runArrival_eq_some_iff hne,
    fun s r p hp => ?units, fun old z => ?operations, fun s pid p r z hret hk => ?answers, fun s c rid n r hr hst => ?retries⟩
  case slices =>
    have h : s.Stands pid p r := ⟨hp, hresp, hwait, hloc, hr⟩
    refine ⟨fun hread => ?_, fun hstore => ?_, fun hatomic => ?_⟩
    · exact ⟨h.refuses_l2Request (hread.imp_right fun h => h.imp_right .inl), fun l hup hserve hl => h.answers_read hread hup hserve hl,
        h.asks_read hread⟩
    · exact ⟨h.refuses_l2Request (.inr (.inr (.inr hstore))), h.merges_store hstore, h.passes_store hstore⟩
    · exact ⟨h.refuses_atomic hatomic, h.asks_counter, h.asks_word hatomic, fun l hup hserve hl hhas =>
        ⟨h.waits_for_run hatomic hup hserve hl hhas, h.performs_run hatomic hup hserve hl hhas⟩⟩
  case units =>
    exact ⟨fun op ty z ret l hk hl hlen hhas => State.atomServe_performs hp hk hl hlen hhas, fun z hk => State.atomServe_cwait_of_le hp hk,
      fun z hk => State.atomServe_cwait_of_lt hp hk, State.atomServe_cread hp⟩
  case operations =>
    exact ⟨AOp.add_f32_of_nan, AOp.add_f32_rounded, toNat_ofNat_minmaxF false old z, toNat_ofNat_minmaxF true old z,
      fun _ h => AOp.lo_add_word h old z, fun _ h => AOp.add_dword h old z, AOp.toNat_min_u32 old z, AOp.toNat_max_u32 old z,
      Ty.toZ_min (ty := .s32) nofun old z, Ty.toZ_max (ty := .s32) nofun old z, AOp.toNat_min_u64 old z, AOp.toNat_max_u64 old z,
      Ty.toZ_min (ty := .s64) nofun old z, Ty.toZ_max (ty := .s64) nofun old z,
      fun ty cmp => ⟨rfl, rfl, rfl, rfl, AOp.apply_cas cmp ty old z, toNat_cadd_apply ty old z⟩⟩
  case answers =>
    rw [exec_cwaitAnswer, State.cwaitAnswer_eq hret hk]
    refine ⟨fun hfault o ho hc => ?_, fun hfault hok => ?_, fun hfault hok => ?_⟩
    · obtain ⟨t, hcore, hcls, hdeferred, hkind, hpc, haux⟩ := State.core_cwaitRefused hk (s := s.dropPacket pid) (hc.of_cores rfl) ho p.value
      refine ⟨_, t, by rw [if_pos hfault], ?_, hcls, hdeferred, hkind, hpc, haux⟩
      rw [hcore]
      rfl
    · rw [if_neg (by simp [hfault]), if_pos hok]
    · rw [if_neg (by simp [hfault]), if_neg (by simp [hok])]
  case retries =>
    rw [exec_cwaitRetry, State.cwaitRetry_eq hr hst]
    refine ⟨fun hearly => by rw [if_neg hearly.not_ge], fun hdue => ?_⟩
    obtain ⟨q, hq⟩ := s.packets_sendReq r
    exact ⟨_, q, by rw [if_pos hdue], hq⟩

end Sys2Proof.Machine
end

section
/-!
SETTLED. What an outstanding RED carries for a destination (O37).
-/
namespace Sys2Proof.Machine

/-- RED.add.s32 of zero to address 0, under pt; its D field, which a RED does not use, holds 0x000 (R173). -/
def idleRed : LongOp := ⟨⟨false, 7⟩, false, .v 0, .zr, .zr, .zr, 0, 0, none⟩

/-- The curator core of die 0, with the first page of address space 0 in its translation cache. -/
def redCore : Core :=
  { Core.reset ⟨0, 16⟩ with gens := [(0, 0)], tlb := [⟨0, 0, 0, ⟨0x090000000000, 65536, 0, 0, false, false, 0, false, false, false⟩⟩] }

/-- A warp there whose thread 0 alone is active. -/
def redWarp : Warp := { crowdedWarp with id := ⟨0, 16, 0, 0⟩, exec := 1, splits := [⟨0, .running, 1, 0, 0⟩] }

/-- The machine with that warp in the issuing slot. -/
def redState : State := { State.reset with cores := [redCore], warps := [redWarp], cur := redWarp.id }

/-- What thread 0's access comes to. -/
def redAcc : Acc := ⟨0, 0, [(⟨0, 0, 0, 0x090000000000, 4, []⟩, ⟨0, 0, false⟩)]⟩

theorem redState_check : redState.checkAtom redWarp (redState.grp redWarp) idleRed 4 true 0 = .good redAcc := by decide

/-- The RED is met there, with a form that names no destination. -/
theorem redState_ready : ∃ f, MemReady (.red idleRed) redState redWarp idleRed f ([redAcc].map .good) ∧ f.dst = .zr ∧
    f.waits redState redWarp [redAcc] = [] := by
  have hissues : redState.issues redWarp 0x92 idleRed := ⟨⟨rfl, rfl⟩, by decide⟩
  have hthreads : threadsOf (redWarp.active idleRed.g) = [0] := by decide
  refine ⟨_, ⟨0x92, rfl, rfl, hissues, ⟨redCore, List.mem_singleton.mpr rfl, rfl⟩, rfl, by decide, by decide, fun _ => rfl, fun _ => rfl, ?_⟩, rfl, rfl⟩
  rw [hthreads]
  exact congrArg (fun r => [r]) redState_check

/-- The model keeps the D field as it stands, and 0x000 is v0. -/
theorem redState_outst : ∃ t, exec (.red idleRed) redState = .next t ∧ (t.core redWarp.id.coreId).outst.map (·.dst) = [.v 0] :=
  ⟨_, rfl, by decide⟩

/-- Refutes O37: the first clause has the core hold an outstanding instruction with the destination of `memOf`, which for RED is zr. The model's
RED holds its own D field there, 0x000 in every legal RED, which is v0. Nothing reads the destination of a RED, whose answers bring no data:
it is the statement alone that goes wrong, and it does so for every RED that launches in a core with no instruction outstanding. -/
theorem not_memoryInstructionsIssue : ¬ Obligations.MemoryInstructionsIssue := by
  unfold Obligations.MemoryInstructionsIssue
  intro h
  obtain ⟨hlaunch, -⟩ := h
  obtain ⟨f, hready, hdst, hwaits⟩ := redState_ready
  obtain ⟨t, hrun, houtst⟩ := redState_outst
  obtain ⟨t', -, -, hclaimed, -, -, -, -, -, -, -, -, -, -, o, ho, -, -, -, hodst, -⟩ :=
    hlaunch _ _ _ _ _ _ hready rfl hwaits ⟨redAcc, List.mem_singleton.mpr rfl, nofun⟩
  obtain rfl := Host.Outcome.next.inj (hrun.symm.trans hclaimed)
  have hmem := List.mem_map_of_mem (f := Outst.dst) ho
  rw [houtst, hodst, hdst] at hmem
  exact absurd hmem (by decide)

end Sys2Proof.Machine
end

section
/-!
SUPPORT (O40). How a memory instruction begins: S and an s destination are judged, and then its count and the checks of its active threads decide
whether it traps, waits or goes on (R102, R103, R109, R281, R295).
-/
namespace Sys2Proof.Machine

/-- An instruction that issues is judged legal, and its own effect follows. -/
theorem State.issue_of_issues {s : State} {w : Warp} {opc : BitVec 8} {x : LongOp} (h : s.issues w opc x) (f : Warp → Result) :
    s.issue opc x f = f w := by
  obtain ⟨⟨hwarp, hrunning⟩, hlegal⟩ := h
  have hruns : w.running.isNone = false := by simpa using hrunning
  simp [State.issue, hwarp, hruns, hlegal]

/-! ### The checks of the active threads (R103) -/

/-- The first check that fails decides. -/
theorem checkAll_of_bad (accs : List Acc) (c : Cause) (rest : List AccRes) : checkAll (accs.map .good ++ .bad c :: rest) = .bad c := by
  induction accs with
  | nil => rfl
  | cons a accs ih => simp [checkAll, ih]

section
variable {s : State} {w : Warp} {x : LongOp} {cls : Cls} {check : Group → Nat → AccRes} {go : Group → List Acc → Result}
  (hactive : w.active x.g ≠ 0)
include hactive

theorem State.perThread_of_full (hfull : 63 ≤ w.count cls) :
    s.perThread w x cls check go = .next (s.block w (.room (.count cls)) w.phase) := by
  rw [State.perThread, if_neg (by simpa using hactive), if_pos hfull]

variable (hroom : w.count cls < 63)
include hroom

theorem State.perThread_of_bad {c : Cause} (h : checkAll ((threadsOf (w.active x.g)).map (check (s.grp w))) = .bad c) :
    s.perThread w x cls check go = .next (s.trap w c) := by
  rw [State.perThread, if_neg (by simpa using hactive), if_neg hroom.not_ge, h]

theorem State.perThread_of_wait {vas fmts : List Nat} (h : checkAll ((threadsOf (w.active x.g)).map (check (s.grp w))) = .wait vas fmts) :
    s.perThread w x cls check go = .next (s.waitWalk w (s.grp w) vas fmts w.phase) := by
  rw [State.perThread, if_neg (by simpa using hactive), if_neg hroom.not_ge, h]

end

/-! ### The instructions -/

section
variable {s : State} {w : Warp} {opc : BitVec 8} {x : LongOp}

theorem State.atomic_eq_perThread {cls : Cls} (hdest : cls = .gld → selIsS x.d = false) (hphase : w.phase = 0) (offset : Bool) (form : LdForm)
    (kind : Nat → ReqKind) :
    ∃ go, s.atomic w x cls offset form kind = s.perThread w x cls (fun g => s.checkAtom w g x (tyCode (tyOf x.fn)).bytes offset) go := by
  have hshape : ¬ (cls == .gld && selIsS x.d) = true := by simpa using hdest
  exact ⟨_, (if_neg hshape).trans (if_neg (by simp [hphase]))⟩

/-- A memory instruction traps where S stands off the whole-instruction path, and else makes the checks of its active threads; where it could
be on that path, this supposes it at its accesses, and an atomic that answers without an s destination. -/
theorem exec_memory {i : Instr} {f : MemForm} (hlong : i.long? = some (opc, x)) (hf : memOf i = some f) (hissues : s.issues w opc x)
    (hpast : f.whole s w = true → w.atAccess i ∧ ((∃ y, i = .atom y ∨ i = .atomcas y) → selIsS x.d = false)) :
    ∃ go, exec i s = if (x.w && !f.whole s w && w.active x.g != 0) = true then .next (s.trap w causeAddr)
      else s.perThread w x f.cls (f.check s w) go := by
  have hrun := State.issue_of_issues hissues
  have hunset {go : Group → List Acc → Result} (hwhole : f.whole s w = true) (h : exec i s = s.perThread w x f.cls (f.check s w) go) :
      ∃ go, exec i s = if (x.w && !f.whole s w && w.active x.g != 0) = true then .next (s.trap w causeAddr)
        else s.perThread w x f.cls (f.check s w) go :=
    ⟨go, h.trans (if_neg (by simp [hwhole])).symm⟩
  unfold memOf at hf
  split at hf <;> cases hf <;> cases hlong
  -- LD, LD.dec, ST, ST.enc and PREF judge S themselves
  case h_1 | h_2 | h_3 | h_4 | h_6 => exact ⟨_, (hrun _).trans rfl⟩
  -- LDG, CCTL and STREL
  case h_5 => exact hunset rfl ((hrun _).trans (by unfold State.gather; rfl))
  case h_7 => exact hunset rfl ((hrun _).trans rfl)
  case h_12 => exact hunset rfl ((hrun _).trans (by unfold State.storeRelease; rfl))
  -- ATOM and ATOMCAS, then RED
  case h_8 | h_9 =>
    obtain ⟨hphase, hdest⟩ := hpast rfl
    obtain ⟨go, hgo⟩ := State.atomic_eq_perThread (cls := .gld) (fun _ => hdest (by simp)) hphase _ _ _
    exact hunset rfl ((hrun _).trans hgo)
  case h_10 =>
    obtain ⟨hphase, -⟩ := hpast rfl
    obtain ⟨go, hgo⟩ := State.atomic_eq_perThread (x := x) (cls := .gst) (fun h => nomatch h) hphase _ _ _
    exact hunset rfl ((hrun _).trans hgo)
  -- LDACQ
  case h_11 =>
    have hphase : w.phase ≠ 2 := (hpast rfl).1
    exact hunset rfl ((hrun _).trans (if_neg (by simpa using hphase)))

/-- Where S does not stand off that path, the checks come first. -/
theorem exec_memory_of_whole {i : Instr} {f : MemForm} (hlong : i.long? = some (opc, x)) (hf : memOf i = some f) (hissues : s.issues w opc x)
    (hwhole : x.w = true → f.whole s w = true) (hat : w.atAccess i) (hdest : (∃ y, i = .atom y ∨ i = .atomcas y) → selIsS x.d = false) :
    ∃ go, exec i s = s.perThread w x f.cls (f.check s w) go := by
  obtain ⟨go, hrun⟩ := exec_memory hlong hf hissues fun _ => ⟨hat, hdest⟩
  refine ⟨go, hrun.trans (if_neg ?_)⟩
  cases hS : x.w <;> simp [hS, hwhole]

end

section
variable {i : Instr} {s : State} {w : Warp} {x : LongOp} {f : MemForm} {rs : List AccRes} (h : MemReady i s w x f rs)
include h

theorem MemReady.exec_of_bad {c : Cause} (hc : checkAll rs = .bad c) : exec i s = .next (s.trap w c) := by
  obtain ⟨opc, hlong, hf, hissues, -, hat, hactive, hroom, hwhole, hdest, hchecks⟩ := h
  obtain ⟨go, hrun⟩ := exec_memory_of_whole hlong hf hissues hwhole hat hdest
  exact hrun.trans (State.perThread_of_bad hactive hroom (by rw [hchecks, hc]))

theorem MemReady.exec_of_wait {vas fmts : List Nat} (hc : checkAll rs = .wait vas fmts) :
    exec i s = .next (s.waitWalk w (s.grp w) vas fmts w.phase) := by
  obtain ⟨opc, hlong, hf, hissues, -, hat, hactive, hroom, hwhole, hdest, hchecks⟩ := h
  obtain ⟨go, hrun⟩ := exec_memory_of_whole hlong hf hissues hwhole hat hdest
  exact hrun.trans (State.perThread_of_wait hactive hroom (by rw [hchecks, hc]))

end

end Sys2Proof.Machine
end

section
/-!
SUPPORT (O40). What a wait for walks and format reads leaves as it was: memory, every core's scratchpad and requests, and the warp's registers.
-/
namespace Sys2Proof.Machine

/-! ### A split that waits in the middle of its instruction -/

theorem Split.stalls_of_wait {wt : Wait} (h : wt.stalls = true) (p : Split) (phase : Nat) :
    ({ p with st := .blocked wt, phase := phase } : Split).stalls = true := by
  cases wt with
  | batch n => cases h
  | _ => exact h

/-- Such a wait stops the whole warp: no other split is chosen, and the warp stays as its blocked split leaves it. -/
theorem State.block_of_stalls (s : State) (w : Warp) {wt : Wait} (h : wt.stalls = true) (hrunning : w.running.isSome = true) (phase : Nat) :
    ∃ since, s.block w wt phase =
      s.setWarp { (w.modRunning fun p => { p with st := .blocked wt, phase := phase }) with readyAt := s.clk + 1, waitFrom := since } := by
  let u : Warp := { (w.modRunning fun p => { p with st := .blocked wt, phase := phase }) with readyAt := s.clk + 1 }
  have hnone : u.running = none := by
    refine List.find?_eq_none.mpr fun q hq => ?_
    obtain ⟨p, -, rfl⟩ := List.mem_map.mp hq
    by_cases hp : p.st = .running <;> simp [hp]
  have hstalls : u.splits.any Split.stalls = true := by
    obtain ⟨p, hp⟩ := Option.isSome_iff_exists.mp hrunning
    have hst := List.find?_some (p := fun p : Split => p.st == .running) hp
    refine List.any_eq_true.mpr ⟨_, List.mem_map_of_mem (List.mem_of_find?_eq_some hp), ?_⟩
    rw [if_pos hst]
    exact Split.stalls_of_wait h p phase
  have hschedule : u.schedule w.runPos = u := if_pos (by simp [hstalls])
  have hturned : u.turned s.clk = u := if_pos (by simp [hnone])
  have hwatch : (u.watchFrom s.clk).running = none := hnone
  refine ⟨(u.watchFrom s.clk).waitFrom, ?_⟩
  show s.setWarp (if (((u.schedule w.runPos).turned s.clk).watchFrom s.clk).running.isSome then _ else _) = _
  rw [hschedule, hturned, hwatch]
  rfl

/-! ### Units after an update that a reader does not see -/

/-- What an update keeps of every unit reads as before of the one that a search finds. -/
theorem view_find?_map_of_kept {α β : Type} {q : α → Bool} {u : α → α} {view : α → β} (hq : ∀ x, q (u x) = q x) (hv : ∀ x, view (u x) = view x)
    (l : List α) (d : α) : view (((l.map u).find? q).getD d) = view ((l.find? q).getD d) := by
  rw [find?_map_of_unseen hq]
  cases l.find? q <;> simp [hv]

theorem State.warp?_modWarp_self {s : State} {id : WarpId} {w : Warp} {f : Warp → Warp} (hid : ∀ x, (f x).id = x.id) (h : s.warp? id = some w) :
    (s.modWarp id f).warp? id = some (f w) :=
  (find?_map_update (p := fun x : Warp => x.id == id) (fun x hx => by rw [hid]; exact hx) s.warps).trans (congrArg (Option.map f) h)

theorem State.core_modCore_of_kept {β : Type} (view : Core → β) {f : Core → Core} (s : State) (c d : CoreId)
    (hid : ∀ k, (f k).id = k.id := by intro; rfl) (hv : ∀ k, view (f k) = view k := by intro; rfl) :
    view ((s.modCore c f).core d) = view (s.core d) :=
  view_find?_map_of_kept (fun k => by split <;> simp [hid]) (fun k => by split <;> simp [hv]) _ _

theorem State.memQueue_modBuffer {f : Buffer → Buffer} (hid : ∀ b, (f b).id = b.id) (hq : ∀ b, (f b).queue = b.queue) (s : State) (n pa : Nat) :
    (s.modBuffer n f).memQueue pa = s.memQueue pa := by
  unfold State.memQueue
  split
  · exact view_find?_map_of_kept (view := Buffer.queue) (fun b => by split <;> simp [hid]) (fun b => by split <;> simp [hq]) _ _
  · rfl

theorem State.memQueue_modStack {f : Stack → Stack} (hid : ∀ k, (f k).id = k.id) (hc : ∀ k, (f k).chans = k.chans) (s : State) (n pa : Nat) :
    (s.modStack n f).memQueue pa = s.memQueue pa := by
  unfold State.memQueue
  split
  · rfl
  · have hchans : ((s.modStack n f).stack (stackDie pa)).chans = (s.stack (stackDie pa)).chans :=
      view_find?_map_of_kept (view := Stack.chans) (fun k => by split <;> simp [hid]) (fun k => by split <;> simp [hc]) _ _
    rw [hchans]

/-- What of a wing says which memory it owns and under which keys. -/
def Wing.keys (w : Wing) : WingSt × BitVec 8 × BitVec 9 × Option (Nat × Nat) × List (Nat × Nat) := (w.st, w.bufs, w.dies, w.pair, w.pairsSeen)

theorem State.epochOf_modWing {f : Wing → Wing} (hf : ∀ w, (f w).keys = w.keys) (s : State) (n pa : Nat) :
    (s.modWing n f).epochOf pa = s.epochOf pa := by
  have hkept : ∀ w : Wing, (if w.id == n then f w else w).keys = w.keys := fun w => by split <;> simp [hf]
  simp only [Wing.keys, Prod.mk.injEq] at hkept
  have howner : (s.modWing n f).ownerOf pa = (s.ownerOf pa).map fun w => if w.id == n then f w else w :=
    find?_map_of_unseen (fun w => by
      obtain ⟨hst, hbufs, hdies, -, -⟩ := hkept w
      simp only [Wing.holds, hst, hbufs, hdies]) _
  unfold State.epochOf
  rw [howner]
  cases s.ownerOf pa with
  | none => rfl
  | some w =>
    obtain ⟨-, -, -, hpair, hseen⟩ := hkept w
    simp only [Option.map_some, hpair, hseen]

/-- A byte at its home is what L2, memory, its queues and the keys in force say. -/
theorem State.devByte_congr {s t : State} (hl2 : t.l2 = s.l2) (hmem : t.mem = s.mem) (hqueues : ∀ pa, t.memQueue pa = s.memQueue pa)
    (hepochs : ∀ pa, t.epochOf pa = s.epochOf pa) (a : Nat) : t.devByte a = s.devByte a := by
  simp only [State.devByte, State.l2Line?, State.memByte, State.dramByte, hl2, hmem, hqueues, hepochs]

/-! ### Walks and format reads (R69, R73, R78) -/

/-- What the start of walks for a warp leaves as it was: what a byte at its home is read from, every core's scratchpad and requests, and the
warp but for the walks that it knows to have failed. -/
structure State.WalkFrame (s t : State) (id : WarpId) : Prop where
  l2 : t.l2 = s.l2
  mem : t.mem = s.mem
  queues : ∀ pa, t.memQueue pa = s.memQueue pa
  epochs : ∀ pa, t.epochOf pa = s.epochOf pa
  cores : ∀ c, (t.core c).spm = (s.core c).spm ∧ (t.core c).reqs = (s.core c).reqs
  warp : ∀ w, s.warp? id = some w → ∃ l, t.warp? id = some { w with fails := l }

namespace State.WalkFrame

variable {s t u : State} {id : WarpId}

theorem refl (s : State) (id : WarpId) : s.WalkFrame s id :=
  ⟨rfl, rfl, fun _ => rfl, fun _ => rfl, fun _ => ⟨rfl, rfl⟩, fun w h => ⟨w.fails, h⟩⟩

theorem trans (h : s.WalkFrame t id) (h' : t.WalkFrame u id) : s.WalkFrame u id where
  l2 := h'.l2.trans h.l2
  mem := h'.mem.trans h.mem
  queues pa := (h'.queues pa).trans (h.queues pa)
  epochs pa := (h'.epochs pa).trans (h.epochs pa)
  cores c := ⟨(h'.cores c).1.trans (h.cores c).1, (h'.cores c).2.trans (h.cores c).2⟩
  warp w hw := by
    obtain ⟨l, hl⟩ := h.warp w hw
    obtain ⟨m, hm⟩ := h'.warp _ hl
    exact ⟨m, hm⟩

theorem foldl {α : Type} {f : State → α → State} (hf : ∀ (s : State) a, s.WalkFrame (f s a) id) (l : List α) (s : State) :
    s.WalkFrame (l.foldl f s) id :=
  List.foldlRecOn (motive := fun t => s.WalkFrame t id) l f (refl s id) fun t h a _ => trans h (hf t a)

theorem report (s : State) (id : WarpId) (wing : Nat) (body : List Nat) : s.WalkFrame (s.report wing body) id := by
  unfold State.report
  split
  · exact { refl s id with epochs := State.epochOf_modWing (fun w => by split <;> rfl) s wing }
  · exact { refl s id with }

theorem modBuffer {f : Buffer → Buffer} (s : State) (id : WarpId) (n : Nat) (hid : ∀ b, (f b).id = b.id := by intro; rfl)
    (hq : ∀ b, (f b).queue = b.queue := by intro; rfl) : s.WalkFrame (s.modBuffer n f) id :=
  { refl s id with queues := State.memQueue_modBuffer hid hq s n }

theorem modStack {f : Stack → Stack} (s : State) (id : WarpId) (n : Nat) (hid : ∀ k, (f k).id = k.id := by intro; rfl)
    (hc : ∀ k, (f k).chans = k.chans := by intro; rfl) : s.WalkFrame (s.modStack n f) id :=
  { refl s id with queues := State.memQueue_modStack hid hc s n }

/-- An error in a table that a walk meets is counted and reported, and no more (R42, R73). -/
theorem found (s : State) (id : WarpId) (c : Cause) : s.WalkFrame (s.found c) id := by
  unfold State.found
  split
  · unfold State.uncorrectable
    split
    · exact trans (modBuffer ..) (report ..)
    · exact trans (modStack ..) (report ..)
  · exact refl ..

theorem walkFailed (s : State) (id : WarpId) (f : WalkFail) : s.WalkFrame (s.walkFailed id f) id :=
  { refl s id with warp := fun _ hw => ⟨_, State.warp?_modWarp_self (fun _ => rfl) hw⟩ }

theorem startWalk (s : State) (c : CoreId) (id : WarpId) (asid va : Nat) : s.WalkFrame (s.startWalk c id asid va) id := by
  have hfree : s.WalkFrame s.freshFree.2 id := { refl s id with }
  simp only [State.startWalk]
  split
  · exact hfree.trans ((found ..).trans (walkFailed ..))
  · exact hfree.trans { refl _ id with }

theorem startFmtRead (s : State) (w : Warp) (g : Group) (idx : Nat) (id : WarpId) : s.WalkFrame (s.startFmtRead w g idx) id :=
  { refl s id with
    cores := fun c => ⟨State.core_modCore_of_kept Core.spm s g.core c, State.core_modCore_of_kept Core.reqs s g.core c⟩ }

theorem waitWalk (s : State) (w : Warp) (g : Group) (vas fmts : List Nat) (phase : Nat) :
    (s.block w .walk phase).WalkFrame (s.waitWalk w g vas fmts phase) w.id := by
  unfold State.waitWalk
  refine trans ?walks (foldl (fun t i => startFmtRead t w g i w.id) ..)
  split
  · exact refl ..
  · exact foldl (fun t a => startWalk t g.core w.id g.asid a) ..

end State.WalkFrame

/-- A warp that waits for walks and format reads has its running split blocked at its instruction and its registers as they were; memory and
every core's requests stay. -/
theorem State.waitWalk_spec {s : State} {w : Warp} (h : s.stands w) (g : Group) (vas fmts : List Nat) (phase : Nat) :
    ∃ w', (s.waitWalk w g vas fmts phase).warp? s.cur = some w' ∧ w.sameRegs w' ∧
      w'.splits = w.stepped (fun p => { p with st := .blocked .walk, phase := phase }) ∧ s.sameBytes (s.waitWalk w g vas fmts phase) ∧
      ∀ c, ((s.waitWalk w g vas fmts phase).core c).reqs = (s.core c).reqs := by
  obtain ⟨hwarp, hrunning⟩ := h
  have hid := State.warp?_id hwarp
  have hframe := State.WalkFrame.waitWalk s w g vas fmts phase
  obtain ⟨since, hblock⟩ := s.block_of_stalls w (wt := .walk) rfl hrunning phase
  rw [hblock, hid] at hframe
  obtain ⟨l, hl⟩ := hframe.warp _ (State.setWarp_self hwarp hid)
  refine ⟨_, hl, ⟨fun _ _ => rfl, fun _ _ => rfl, fun _ => rfl, rfl, rfl, rfl, rfl⟩, rfl,
    ⟨State.devByte_congr hframe.l2 hframe.mem hframe.queues hframe.epochs, fun c a => ?_⟩, fun c => (hframe.cores c).2⟩
  unfold State.spmByte
  rw [(hframe.cores c).1]
  rfl

end Sys2Proof.Machine
end

section
/-!
SETTLED. Where memory instructions trap or wait before any access leaves (O40).
-/
namespace Sys2Proof.Machine

/-- Settles O40: each clause is the place in the instruction's beginning where it stops, at S, at an s destination, at its count or at the
checks of its active threads; a wait for walks touches nothing that the last clause names. -/
theorem memoryTraps : Obligations.MemoryTraps := by
  unfold Obligations.MemoryTraps
  refine ⟨?failed, ?offPath, ?nonuniform, ?shape, ?full, ?uncached⟩
  case failed => exact fun i s w x f accs c rest h => h.exec_of_bad (checkAll_of_bad accs c rest)
  case offPath =>
    intro i s w opc x f hlong hf hissues hS hactive hoff
    obtain ⟨go, hrun⟩ := exec_memory hlong hf hissues fun hon => absurd hon (by simp [hoff])
    exact hrun.trans (if_pos (by simpa [hS, hoff] using hactive))
  case nonuniform =>
    intro s w x hissues hoperands
    exact (State.issue_of_issues hissues _).trans (if_pos (by rw [hoperands, Bool.not_false]))
  case shape =>
    intro i s w opc x hi hlong hissues hs
    rcases hi with rfl | rfl <;> cases hlong
    · exact (State.issue_of_issues hissues _).trans (if_pos (by simp [hs]))
    · exact (State.issue_of_issues hissues _).trans (if_pos (by simp [hs]))
  case full =>
    intro i s w opc x f hlong hf hissues hat hactive hfull hwhole hdest
    obtain ⟨go, hrun⟩ := exec_memory_of_whole hlong hf hissues hwhole hat hdest
    exact hrun.trans (State.perThread_of_full hactive hfull)
  case uncached =>
    intro i s w x f rs vas fmts h hwait
    have hstands : s.stands w := by
      obtain ⟨opc, -, -, hissues, -⟩ := h
      exact hissues.1
    obtain ⟨w', hwarp, hregs, hsplits, ⟨hdev, hspm⟩, hreqs⟩ := State.waitWalk_spec hstands (s.grp w) vas fmts w.phase
    exact ⟨_, w', h.exec_of_wait hwait, hwarp, hregs, hsplits, hdev, hspm, hreqs _⟩

end Sys2Proof.Machine
end

section
/-!
SETTLED. The entries that the engines' commands make (O42).
-/
namespace Sys2Proof.Machine

/-- A group of core 0 of die 0 with 512 bytes of scratchpad. -/
def playGroup : Group := { Group.nobody ⟨0, 0⟩ 0 with wing := 0, res := ⟨1, 1, 0, 0, 1, 0⟩ }

/-- The page of its address 0: raw memory of die 1. -/
def playPage : Leaf := ⟨0x0A0000000000, 65536, 0, 0, false, false, 0, false, false, false⟩

/-- A RED of the group that rests in the core's combining buffer, to the first word of that page. -/
def restingRed : CombEntry := ⟨0x0A0000000000, 4, .add, .u32, 0, 0, 0, 0, 0⟩

/-- The core of that group, with the page and the RED. -/
def playCore : Core := { Core.reset ⟨0, 0⟩ with gens := [(0, 0)], tlb := [⟨0, 0, 0, playPage⟩], comb := [restingRed] }

/-- A warp of that group with one active thread. -/
def playWarp : Warp := { crowdedWarp with exec := 1, splits := [⟨0, .running, 1, 0, 0⟩] }

/-- BINPLAY at scratchpad offset 0 under kt, of a command of zeros: arena, target, status and words at 0, region 0, no counter. -/
def zeroPlay : LongOp := ⟨⟨false, 7⟩, false, .v 0, .zr, .v 0, .v 0, 0, 0, none⟩

/-- The machine in which that warp issues, with an arena header in the page of one region with one slot, while the uncore of die 1 is in reset. -/
def playState : State :=
  { State.reset with
    cores := [playCore], warps := [playWarp], cur := playWarp.id, groups := [playGroup]
    mem := [(0x0A0000000000, 1), (0x0A0000000004, 1), (0x0A0000000008, 4)]
    wings := [{ Wing.reset 0 with st := .active, dies := 3 }], dies := [Die.reset 0, { Die.reset 1 with uncore := .reset }] }

theorem playState_issues : playState.issues playWarp 0xD4 zeroPlay := ⟨⟨rfl, rfl⟩, by decide⟩

/-- Its command, as its scratchpad holds it. -/
def playCmd : PlayCmd := PlayCmd.parse (playState.cmdBytes playWarp zeroPlay 48)

theorem playState_met : CommandMet playState playWarp zeroPlay 8 48 (playCmd.ctrKind, playCmd.ctr) := by
  refine ⟨⟨⟨playCore, List.mem_singleton.mpr rfl, rfl⟩, by decide⟩, by decide, by decide, by decide, by decide, by decide⟩

theorem playState_pages : playState.engPages (playState.grp playWarp).whoIs .read playCmd.abase 16 = .ok [(0, 16, playPage)] := by decide

theorem playState_reject : playCmd.reject (Arena.parse (playState.engRead (playState.grp playWarp).core [(0, 16, playPage)]).2)
    (playState.grp playWarp) = none := by decide

/-- A command that is met and whose own checks pass, with room for it after them, enters its queue (R127, R300). -/
theorem State.command_of_good {s s1 : State} {w : Warp} {x : LongOp} {n size : Nat} {ctr : List Byte → Nat × CtrRef} {hdr : List Nat}
    (trapT : Bool) {more : Group → List Byte → CmdRes} (h : CommandMet s w x n size (ctr (s.cmdBytes w x size))) (hacts : w.actsK x.g = true)
    (hmore : more (s.grp w) (s.cmdBytes w x size) = .good s1 hdr) (hroom : ((s1.core (s.grp w).core).queue n).length < queueDepth n) :
    s.command w x n size trapT ctr more = .next (s1.enqueueEntry w x (s.grp w) n (s.cmdBytes w x size) hdr false trapT) := by
  obtain ⟨-, hat, hin, hlanded, hctr, -⟩ := h
  unfold State.command
  refine (if_neg (ne_true_of_eq_false (bne_eq_false_iff_eq.mpr hat))).trans ?_
  refine (if_neg (ne_true_of_eq_false (congrArg not hin))).trans ?_
  refine (if_neg (ne_true_of_eq_false (congrArg (fun l => !l.isEmpty) hlanded))).trans ?_
  show (match s.checkCtr (s.grp w) (ctr (s.cmdBytes w x size)).1 (ctr (s.cmdBytes w x size)).2 n with | some c => _ | none => _) = _
  rw [hctr, hacts]
  show (match more (s.grp w) (s.cmdBytes w x size) with | .bad .. => _ | .wait .. => _ | .good .. => _) = _
  rw [hmore]
  exact if_neg (by omega)

/-- BINPLAY of a command that is met, with the arena's header as memory holds it, enters the binning queue (R129, R316). -/
theorem exec_binplay_of_good {s : State} {w : Warp} {x : LongOp} (hissues : s.issues w 0xD4 x) {c : PlayCmd}
    (hc : PlayCmd.parse (s.cmdBytes w x 48) = c) (h : CommandMet s w x 8 48 (c.ctrKind, c.ctr)) (hacts : w.actsK x.g = true) {ps : Pages}
    (hpages : s.engPages (s.grp w).whoIs .read c.abase 16 = .ok ps) (hown : s.ownWrites w.id false (runsOf ps) = []) {a : Arena}
    (ha : Arena.parse (s.engRead (s.grp w).core ps).2 = a) (hreject : c.reject a (s.grp w) = none)
    (hroom : (((s.engPull (s.grp w).core ps).core (s.grp w).core).queue 8).length < queueDepth 8) :
    exec (.binplay x) s = .next ((s.engPull (s.grp w).core ps).enqueueEntry w x (s.grp w) 8 (s.cmdBytes w x 48) [a.nreg, a.cap, a.shift]
      false false) := by
  subst hc ha
  refine (State.issue_of_issues hissues _).trans (State.command_of_good false h hacts ?_ hroom)
  dsimp only
  rw [hpages]
  dsimp only
  rw [hown]
  show (match (PlayCmd.parse (s.cmdBytes w x 48)).reject (Arena.parse (s.engRead (s.grp w).core ps).2) (s.grp w) with
    | some r => _ | none => _) = _
  rw [hreject]
  rfl

/-- It enters its queue, and the RED that it sends out on the way is refused: its group is charged. -/
theorem exec_zeroPlay : ∃ t, exec (.binplay zeroPlay) playState = .next t ∧ t.groups.map (·.deferred.length) = [1] :=
  ⟨_, exec_binplay_of_good playState_issues rfl playState_met (by decide) playState_pages (by decide) rfl playState_reject (by decide), by decide⟩

/-- Refutes O42: BINPLAY reads its arena's header, and a RED that rests in the core's combining buffer to one of the header's words leaves
before the read (R332). Where it is refused (here its home die's uncore is in reset), it charges its group (R421), whose deferred record the
statement has as it was. -/
theorem not_engineCommands : ¬ Obligations.EngineCommands := by
  unfold Obligations.EngineCommands
  intro h
  obtain ⟨-, hplay, -⟩ := h
  obtain ⟨t, hrun, hgroups⟩ := exec_zeroPlay
  obtain ⟨-, hacts⟩ := hplay playState playWarp zeroPlay playState_issues playState_met
  obtain ⟨-, hgood, -⟩ := hacts _ (by decide) playState_pages
  obtain ⟨t', -, hclaimed, -, -, -, -, -, -, -, -, -, -, -, -, -, hkept⟩ := hgood (by decide) playState_reject
  obtain rfl := Host.Outcome.next.inj (hrun.symm.trans hclaimed)
  rw [hkept] at hgroups
  exact absurd hgroups (by decide)

end Sys2Proof.Machine
end

section
/-!
SETTLED. The slots that ROUTE's threads claim (O43).
-/
namespace Sys2Proof.Machine

/-! ### A home slice that is full -/

/-- Of a full slice whose lines are all alike, that line leaves, and is written back first (R16, R94). -/
theorem State.l2Set_of_alike {s : State} {l v : L2Line} (h : ∀ o ∈ s.l2, o = v) (hfull : 1024 ≤ s.l2.length) (hline : v.line ≠ l.line)
    (hhome : v.home = l.home) (hslice : sliceOf v.line = sliceOf l.line) :
    s.l2Set l = { s.freshFree.2.l2WriteBack v with l2 := [l] } := by
  have hnone : s.l2Line? l.line = none := List.find?_eq_none.mpr fun o ho => by rw [h o ho]; simpa using hline
  have hpeers : (s.l2.filter fun o => o.home == l.home && sliceOf o.line == sliceOf l.line) = s.l2 :=
    List.filter_eq_self.mpr fun o ho => by rw [h o ho]; simp [hhome, hslice]
  have hvictim : ∀ k : Nat, s.l2[k % s.l2.length]? = some v := fun k => by
    have hk := Nat.mod_lt k (show s.l2.length > 0 by omega)
    rw [List.getElem?_eq_getElem hk, h _ (List.getElem_mem hk)]
  have hleft : ((s.freshFree.2.l2WriteBack v).l2.filter fun o => o.line != v.line) = [] := by
    rw [State.l2WriteBack_l2]
    exact List.filter_eq_nil_iff.mpr fun o ho => by rw [h o ho]; simp
  unfold State.l2Set
  rw [hnone, if_neg (by decide)]
  dsimp only
  rw [hpeers, if_neg (by omega), hvictim]
  dsimp only
  rw [hleft]

/-- A byte that L2 does not hold is as memory holds it. -/
theorem State.devByte_of_absent {s : State} {pa : Nat} (h : ∀ l, s.l2Line? (lineOf pa) = some l → l.has (pa % 128) = false) :
    s.devByte pa = s.memByte pa := by
  unfold State.devByte
  cases hl : s.l2Line? (lineOf pa) with
  | none => rfl
  | some l => exact if_neg (by simp [h l hl])

theorem State.devBytes_of_absent {s : State} {pa n : Nat}
    (h : ∀ i < n, ∀ l, s.l2Line? (lineOf (pa + i)) = some l → l.has ((pa + i) % 128) = false) :
    s.devBytes pa n = (List.range n).map fun i => s.memByte (pa + i) :=
  List.map_congr_left fun i hi => State.devByte_of_absent (h i (List.mem_range.mp hi))

/-- An aligned word written through its page is written in the line that holds it. -/
theorem State.writePages_word {s : State} {w : Who} {va n : Nat} {l : Leaf} (hn : n = 4 ∨ n = 8) (h : l.pa va % n = 0) {bs : List Byte}
    (hlen : bs.length = n) : s.writePages w [(va, n, l)] bs = s.homeWrite w.core.die w.slot l.wg l.cp (lineOf (l.pa va))
      ((List.range n).map fun j => (l.pa va % 128 + j, bs.getD j 0)) := by
  simp only [State.writePages, State.homePuts, List.take_of_length_le hlen.le, splitLines_word hn h hlen, List.foldl_cons, List.foldl_nil]

/-! ### A thread of ROUTE whose slot moves between its claim and its append -/

/-- The thread claims its slot, and cannot write it. -/
theorem State.routeThread_of_fault {s s1 : State} {g : Group} {w : Warp} {x : LongOp} {h : RouteHdr} {rbase t k : Nat} {ps : Pages} {c : Cause}
    (hclaim : s.routeClaim g h rbase (w.src x.lit .i32 x.b t).lo.toNat t = .ok (s1, k, false))
    (hread : s1.threadPages g .read t (expertVA rbase (w.src x.lit .i32 x.b t).lo.toNat + 8) 8 = .ok ps)
    (happend : (s1.engPull g.core ps).appendPages g t (leNat ((s1.engPull g.core ps).readPages ps) + 4 * k) 4 = .error c) :
    s.routeThread g w x h rbase t none = .fault s1 w ⟨t, some k, false⟩ c := by
  unfold State.routeThread
  simp only [hclaim, hread, State.engRead, happend, Bool.false_eq_true, if_false]

/-- Where the first thread faults, the warp keeps that thread's progress and traps. -/
theorem State.serial_of_fault {s s1 : State} {w w1 : Warp} {x : LongOp} {f : State → Warp → Nat → Option (Nat × Bool) → ThreadRes}
    {q : Progress} {c : Cause} {t : Nat} {ts : List Nat} (hprogress : w.progress = none) (hts : threadsOf (w.active x.g) = t :: ts)
    (hf : f s w t none = .fault s1 w1 q c) :
    s.serial w x f = .next ((s1.setWarp { w1 with progress := some q }).trap { w1 with progress := some q } c) := by
  simp only [State.serial, hprogress, hts, Option.getD_none, Option.map_none, Nat.zero_le, decide_true, List.filter_true, runThreads, hf]

/-! ### The counterexample -/

/-- The page of address 0: write-back memory of buffer 0, by a leaf whose base lies 8 bytes into a granule. -/
def oddPage : Leaf := ⟨0x200000000008, 65536, 0, 0, false, false, 0, false, false, false⟩

/-- The line of the first expert's entry by the view of buffers 0 and 1, dirty and all ones. -/
def otherView : L2Line := ⟨0x280000000080, 0, List.replicate 8 true, List.replicate 8 true, List.replicate 128 0xFF, none, 0⟩

/-- As many of it as a slice holds. -/
@[irreducible] def fullSlice : List L2Line := List.replicate 1024 otherView

theorem mem_fullSlice {l : L2Line} (h : l ∈ fullSlice) : l = otherView := by
  unfold fullSlice at h
  exact List.eq_of_mem_replicate h

theorem length_fullSlice : fullSlice.length = 1024 := by
  unfold fullSlice
  exact List.length_replicate

/-- The core, with that page. -/
def routeCore : Core := { Core.reset ⟨0, 0⟩ with gens := [(0, 0)], tlb := [⟨0, 0, 0, oddPage⟩] }

/-- Its group. -/
def routeGroup : Group := { Group.nobody ⟨0, 0⟩ 0 with wing := 0 }

/-- Its warp, with thread 0 active and registers of zeros. -/
def routeWarp : Warp :=
  { crowdedWarp with
    q := List.replicate 8 (VReg.uniform 0), s := List.replicate 64 0, p := List.replicate 7 0, exec := 1, splits := [⟨0, .running, 1, 0, 0⟩] }

/-- ROUTE of token 0 to expert 0 by the header at address 0, under pt. -/
def zeroRoute : LongOp := ⟨⟨false, 7⟩, false, .zr, .zr, .zr, .zr, 0, 0, none⟩

/-- The machine in which that warp issues. The header names one expert, of capacity 1, and no residual slot; the expert's list is at address 0.
The home slice of the expert's entry is full of its line by the other view. -/
def routeState : State :=
  { State.reset with
    cores := [routeCore], warps := [routeWarp], cur := routeWarp.id, groups := [routeGroup]
    mem := [(0x200000000008, 1), (0x20000000008C, 1)], l2 := fullSlice
    wings := [{ Wing.reset 0 with st := .active, dies := 1, bufs := 1 }] }

theorem routeState_issues : routeState.issues routeWarp 0xD5 zeroRoute := ⟨⟨rfl, rfl⟩, by decide⟩

theorem active_zeroRoute (v : Nat) : (routeWarp.active zeroRoute.g).getLsbD v = decide (v = 0) := by
  rw [show routeWarp.active zeroRoute.g = 1#32 by decide, BitVec.getLsbD_one]
  simp

theorem routeState_pages : routeState.engPages (routeState.grp routeWarp).whoIs .read 0 16 = .ok [(0, 16, oddPage)] := rfl

/-- The core holds the page, for every access to the entry and to the list's first slot. -/
theorem routeState_atomic : routeState.heldBy routeGroup.whoIs .atomic 128 8 oddPage := by
  refine ⟨⟨(0, 0), by decide, rfl⟩, rfl, rfl, by decide, by rfl, fun _ => by rfl⟩

theorem routeState_read : routeState.heldBy routeGroup.whoIs .read 136 8 oddPage := by
  refine ⟨⟨(0, 0), by decide, rfl⟩, rfl, rfl, by decide, by rfl, fun _ => by rfl⟩

theorem routeState_write : routeState.heldBy routeGroup.whoIs .write 0 4 oddPage := by
  refine ⟨⟨(0, 0), by decide, rfl⟩, rfl, rfl, by decide, by rfl, fun _ => by rfl⟩

/-- L2 holds no line of the page. -/
theorem routeState_absent {line : Nat} (h : line ≠ otherView.line) : routeState.l2Line? line = none :=
  List.find?_eq_none.mpr fun o ho => by
    rw [mem_fullSlice ho]
    simpa using h.symm

theorem routeState_devBytes {pa n : Nat} (h : pa + n ≤ otherView.line) :
    routeState.devBytes pa n = (List.range n).map fun i => routeState.memByte (pa + i) :=
  State.devBytes_of_absent fun i hi l hl => by
    rw [routeState_absent (by unfold lineOf; omega)] at hl
    cases hl

theorem routeState_header : (routeState.engRead ⟨0, 0⟩ [(0, 16, oddPage)]).2 = 1 :: List.replicate 15 0 := by
  show routeState.devBytes 0x200000000008 16 ++ [] = _
  rw [routeState_devBytes (by decide)]
  decide

/-- The expert's count, of capacity 1 and none taken. -/
theorem routeState_expert {va : Nat} (h : va = 128) : routeState.devNat (oddPage.pa va) 8 = 2 ^ 32 := by
  subst h
  show leNat (routeState.devBytes 0x200000000088 8) = _
  rw [routeState_devBytes (by decide)]
  decide

/-- The address of its list. -/
theorem routeState_list {va : Nat} (h : va = 136) : routeState.devNat (oddPage.pa va) 8 = 0 := by
  subst h
  show leNat (routeState.devBytes 0x200000000090 8) = _
  rw [routeState_devBytes (by decide)]
  decide

/-- The bytes of the entry that the claim writes, by offset in its line: capacity 1, of which 1 is taken. -/
def claimBytes : LineBytes := (List.range 8).map fun j => (8 + j, (leBytes 8 (2 ^ 32 + 1)).getD j 0)

/-- The line of the expert's entry as the claim leaves it in L2: only its first granule is there. -/
def claimedLine : L2Line :=
  let l := routeState.l2Fill 0x200000000080 0 (touches claimBytes)
  { l with data := putBytes l.data claimBytes, dirty := l.dirty.mapIdx fun g d => d || touches claimBytes g }

/-- The machine after the claim: the line by the other view has left its slice for the buffer's queue. -/
def claimedState : State := { routeState.freshFree.2.l2WriteBack otherView with l2 := [claimedLine] }

theorem claimedLine_line : claimedLine.line = 0x200000000080 := State.l2Fill_line routeState _ 0 (touches claimBytes)

theorem claimedLine_home : claimedLine.home = 0 := by
  show ((routeState.l2Line? 0x200000000080).getD (routeState.l2Empty 0x200000000080 0)).home = 0
  rw [routeState_absent (by decide)]
  rfl

theorem routeState_l2Merge : routeState.l2Merge 0x200000000080 0 claimBytes = claimedState := by
  have hset : routeState.l2Set claimedLine = claimedState := by
    refine State.l2Set_of_alike (fun _ => mem_fullSlice) length_fullSlice.ge ?_ claimedLine_home.symm ?_
    · rw [claimedLine_line]; decide
    · rw [claimedLine_line]; decide
  show (routeState.l2Set claimedLine).pokeMonitors 0x200000000080 = _
  rw [hset]
  rfl

theorem routeState_claim :
    routeState.engAtomic routeGroup.whoIs [(128, 8, oddPage)] (fun v => if v % 2 ^ 32 < v / 2 ^ 32 then v + 1 else v) 8 = (claimedState, 2 ^ 32) := by
  have hidle : (routeState.combFlush ⟨0, 0⟩ fun e => coversWord [(128, 8, oddPage)] e.pa e.width).l1Purge ⟨0, 0⟩ 0x200000000080 = routeState :=
    rfl
  have hpa : pagesPA [(128, 8, oddPage)] = 0x200000000088 := by decide
  have hcount : routeState.devNat 0x200000000088 8 = 2 ^ 32 := by
    rw [← hpa]
    exact routeState_expert (va := 128) rfl
  unfold State.engAtomic
  rw [show routeGroup.whoIs.core = ⟨0, 0⟩ from rfl, hpa, show lineOf 0x200000000088 = 0x200000000080 from rfl, hidle]
  dsimp only
  rw [hcount, State.writePages_word (.inr rfl) (by decide) (length_leBytes ..)]
  refine congrArg (·, _) ((if_neg (by decide)).trans ((if_pos (by decide)).trans routeState_l2Merge))

/-- The granule of the list's address is not in it. -/
theorem claimedLine_has {i : Nat} (h : 16 ≤ i) : claimedLine.has i = false := by
  have hvalid : claimedLine.valid = true :: List.replicate 7 false := by
    show (((routeState.l2Line? 0x200000000080).getD (routeState.l2Empty 0x200000000080 0)).valid.mapIdx fun g v => v || touches claimBytes g) = _
    rw [routeState_absent (by decide)]
    decide
  unfold L2Line.has
  rw [hvalid, show i / 16 = i / 16 - 1 + 1 by omega, List.getD_cons_succ]
  exact List.getElem?_getD_replicate_default_eq false 7 _

/-- The list's address is now read from the line that left: all ones. -/
theorem claimedState_list : claimedState.readPages [(136, 8, oddPage)] = List.replicate 8 0xFF := by
  show claimedState.devBytes 0x200000000090 8 ++ [] = _
  rw [State.devBytes_of_absent]
  · decide
  · intro i hi l hl
    obtain rfl := List.mem_singleton.mp (List.mem_of_find?_eq_some hl)
    exact claimedLine_has (by omega)

theorem routeState_routeClaim : routeState.routeClaim routeGroup ⟨1, 0, 0⟩ 0 0 0 = .ok (claimedState, 0, false) := by
  unfold State.routeClaim
  rw [if_pos (by decide), show routeState.threadPages routeGroup .atomic 0 (expertVA 0 0) 8 = .ok [(128, 8, oddPage)] from rfl]
  dsimp only
  rw [routeState_claim]
  rfl

/-- The cause of the append's fault: its address is not canonical. -/
def appendCause : Cause := { cls := 1, reason := 2, thread := 0, kind := Kind.atomic.no, va := some (2 ^ 64 - 1) }

theorem routeState_routeThread : routeState.routeThread routeGroup routeWarp zeroRoute ⟨1, 0, 0⟩ 0 0 none =
    .fault claimedState routeWarp ⟨0, some 0, false⟩ appendCause := by
  refine State.routeThread_of_fault (ps := [(136, 8, oddPage)]) routeState_routeClaim rfl ?_
  rw [show claimedState.engPull routeGroup.core [(136, 8, oddPage)] = claimedState from rfl, claimedState_list]
  rfl

/-- The warp, which holds the slot that its thread has claimed. -/
def heldWarp : Warp := { routeWarp with progress := some ⟨0, some 0, false⟩ }

theorem exec_zeroRoute : exec (.route zeroRoute) routeState =
    .next ((claimedState.setWarp heldWarp).trap heldWarp appendCause) := by
  have hread : routeState.engRead routeGroup.core [(0, 16, oddPage)] = (routeState, 1 :: List.replicate 15 0) := Prod.ext rfl routeState_header
  refine (State.issue_of_issues routeState_issues fun w => routeState.routeInstr w zeroRoute).trans ?_
  unfold State.routeInstr
  rw [if_neg (by decide), if_neg (by decide), if_neg (by decide), show routeState.grp routeWarp = routeGroup from rfl,
    show routeState.engPages routeGroup.whoIs .read (routeWarp.usrc zeroRoute.lit .d64 zeroRoute.a).toNat 16 = .ok [(0, 16, oddPage)] from
      routeState_pages]
  dsimp only
  rw [hread]
  refine (if_neg (by decide)).trans ?_
  refine State.serial_of_fault (t := 0) (ts := []) rfl (by decide) ?_
  exact routeState_routeThread

/-- Refutes O43: the claim of an expert's slot writes the count of its entry, and where the home slice is full of the same bytes by another view,
a line of that view leaves L2 for memory. The list's address, which the thread reads next, is then another, and the append faults there, so
that the warp keeps its progress; the statement has the address as it was before the claim. -/
theorem not_binAndRoute : ¬ Obligations.BinAndRoute := by
  unfold Obligations.BinAndRoute
  intro h
  obtain ⟨-, -, -, -, -, -, hroute⟩ := h
  have hclaims := hroute routeState routeWarp zeroRoute [(0, 16, oddPage)] routeState_issues rfl rfl rfl (by decide) rfl routeState_pages
    (by decide)
  rw [show (routeState.engRead (routeState.grp routeWarp).core [(0, 16, oddPage)]).2 = _ from routeState_header] at hclaims
  obtain ⟨-, hplaced⟩ := hclaims (by decide)
  obtain ⟨hplaced, -⟩ := hplaced 0 oddPage active_zeroRoute (by decide) rfl rfl routeState_atomic routeState_read (by decide) (by decide)
  dsimp only at hplaced
  rw [routeState_expert (by decide), routeState_list (by decide)] at hplaced
  obtain ⟨t, w', hrun, hwarp, ⟨-, hdone, -⟩, -⟩ := hplaced (by decide) ⟨oddPage, routeState_write⟩
  obtain rfl := Host.Outcome.next.inj (exec_zeroRoute.symm.trans hrun)
  have hstands : claimedState.warp? routeState.cur = some routeWarp := rfl
  obtain rfl := Option.some.inj ((State.setWarp_self (u := heldWarp) hstands rfl).symm.trans hwarp)
  cases hdone

end Sys2Proof.Machine
end

section
/-!
SUPPORT (O54). The shared queues of a core: what a queue is after it or another was changed, the entry at a queue's head, and the
places of a fence's marks.
-/
namespace Sys2Proof.Machine

/-! ### A queue after a change -/

@[simp] theorem Core.modQueue_id (k : Core) (n : Nat) (f : List QItem → List QItem) : (k.modQueue n f).id = k.id := by
  unfold Core.modQueue; (repeat' split) <;> rfl

@[simp] theorem Core.modQueue_fences (k : Core) (n : Nat) (f : List QItem → List QItem) : (k.modQueue n f).fences = k.fences := by
  unfold Core.modQueue; (repeat' split) <;> rfl

theorem Core.queue_modQueue_self (k : Core) (n : Nat) {f : List QItem → List QItem} (hf : f [] = []) :
    (k.modQueue n f).queue n = f (k.queue n) := by
  unfold Core.queue Core.modQueue
  split
  · rfl
  · split
    · rfl
    · show (k.chans.mapIdx fun i q => if i == n then f q else q).getD n [] = f (k.chans.getD n [])
      rw [List.getD_eq_getElem?_getD, List.getD_eq_getElem?_getD, List.getElem?_mapIdx]
      cases k.chans[n]? with
      | none => exact hf.symm
      | some q => simp

theorem Core.queue_modQueue_of_ne (k : Core) {n m : Nat} (h : m ≠ n) (f : List QItem → List QItem) :
    (k.modQueue n f).queue m = k.queue m := by
  unfold Core.modQueue
  split
  next hn =>
    have hm : m ≠ 8 := fun hm => h (hm.trans (beq_iff_eq.mp hn).symm)
    simp [Core.queue, hm]
  · split
    next hn =>
      have hm : m ≠ 9 := fun hm => h (hm.trans (beq_iff_eq.mp hn).symm)
      simp [Core.queue, hm]
    · unfold Core.queue
      refine if_congr Iff.rfl rfl (if_congr Iff.rfl rfl ?_)
      show (k.chans.mapIdx fun i q => if i == n then f q else q).getD m [] = k.chans.getD m []
      rw [List.getD_eq_getElem?_getD, List.getD_eq_getElem?_getD, List.getElem?_mapIdx]
      cases k.chans[m]? with
      | none => rfl
      | some q => simp [h]

/-! ### The head of a queue -/

theorem Core.headEntry_iff {k : Core} {n : Nat} {e : EngEntry} : k.headEntry n = some e ↔ ∃ r, k.queue n = .entry e :: r := by
  unfold Core.headEntry
  rcases k.queue n with _ | ⟨i, r⟩
  · simp
  · cases i <;> simp

/-- A core with an entry in a queue is there. -/
theorem State.hasCore_of_head {s : State} {c : CoreId} {n : Nat} {e : EngEntry} (h : (s.core c).headEntry n = some e) : s.hasCore c := by
  by_contra hc
  obtain ⟨r, hr⟩ := Core.headEntry_iff.mp h
  rw [State.core_of_not_hasCore hc] at hr
  have hempty : (Core.reset c).queue n = [] := by
    unfold Core.queue
    split
    · rfl
    · split
      · rfl
      · show (List.replicate 8 ([] : List QItem)).getD n [] = []
        rw [List.getD_eq_getElem?_getD]
        exact List.getElem?_getD_replicate_default_eq ..
  rw [hempty] at hr
  cases hr

/-- What a head entry that may go on is: the queue holds it, it is not stopped, and its group is there. -/
theorem State.headOf_iff {s : State} {c : CoreId} {n : Nat} {g : Group} {e : EngEntry} :
    s.headOf c n = some (g, e) ↔ (s.core c).headEntry n = some e ∧ e.stopped = false ∧ s.group? c e.slot = some g := by
  unfold State.headOf
  constructor
  · intro h
    split at h
    · cases h
    next e' he =>
      split at h
      · cases h
      next hs =>
        obtain ⟨g', hg, heq⟩ := Option.map_eq_some_iff.mp h
        cases heq
        exact ⟨he, Bool.eq_false_of_not_eq_true hs, hg⟩
  · rintro ⟨he, hs, hg⟩
    simp [he, hs, hg]

theorem State.group?_some {s : State} {c : CoreId} {n : Nat} {g : Group} (h : s.group? c n = some g) : g.core = c ∧ g.slot = n := by
  simpa using List.find?_some h

/-- The core, group and slot of a head entry. -/
theorem State.headOf_spec {s : State} {c : CoreId} {n : Nat} {g : Group} {e : EngEntry} (h : s.headOf c n = some (g, e)) :
    s.hasCore c ∧ g.core = c ∧ e.slot = g.slot ∧ s.group? c g.slot = some g ∧ ∃ r, (s.core c).queue n = .entry e :: r := by
  obtain ⟨he, -, hg⟩ := State.headOf_iff.mp h
  obtain ⟨hcore, hslot⟩ := State.group?_some hg
  exact ⟨State.hasCore_of_head he, hcore, hslot.symm, by rw [hslot]; exact hg, Core.headEntry_iff.mp he⟩

section
variable {s : State} {c : CoreId} {n : Nat}

theorem State.queue_modQueue_self (h : s.hasCore c) {f : List QItem → List QItem} (hf : f [] = []) :
    ((s.modQueue c n f).core c).queue n = f ((s.core c).queue n) := by
  rw [State.modQueue, State.core_modCore_self h fun k => Core.modQueue_id k n f]
  exact Core.queue_modQueue_self _ n hf

theorem State.headEntry_setHead {e e' : EngEntry} (h : (s.core c).headEntry n = some e) : ((s.setHead c n e').core c).headEntry n = some e' := by
  obtain ⟨r, hr⟩ := Core.headEntry_iff.mp h
  refine Core.headEntry_iff.mpr ⟨r, ?_⟩
  unfold State.setHead
  rw [State.queue_modQueue_self (State.hasCore_of_head h) rfl, hr]

end

end Sys2Proof.Machine
end

section
/-!
SUPPORT (O54). The steps of a copy channel's head entry but its delivery, and guarded-off entries (R121, R124, R127, R129).
-/
namespace Sys2Proof.Machine

section
variable {s : State} {c : CoreId} {n : Nat} {g : Group} {e : EngEntry} (hhead : s.headOf c n = some (g, e))
include hhead

/-- A channel takes up its head entry where it has not, the guard was true and what is before it is over. -/
theorem State.copyStart_of_head (hn : n < 8) : s.copyStart c n =
    if e.off || e.started || !(s.core c).needsOver e.needs then s else s.setHead c n { e with started := true } := by
  rw [State.copyStart, if_neg (Nat.not_le.mpr hn), hhead]

theorem State.copyComplete_of_head (hn : n < 8) : s.copyComplete c n =
    if e.started && (CopyCmd.parse e.cmd).total ≤ e.done && s.landed g then s.completeEntry g n e else s := by
  rw [State.copyComplete, if_neg (Nat.not_le.mpr hn), hhead]

theorem State.guardedOff_of_head (hn : n < 10) : s.guardedOff c n e.slot =
    if e.off && (s.core c).needsOver e.needs then s.completeEntry g n e else s := by
  have hmx : (n == 10) = false := by simp; omega
  rw [State.guardedOff, hmx, if_neg Bool.false_ne_true, if_neg (by omega), hhead]
  simp

end

theorem State.binplay_of_done {s : State} {c : CoreId} {g : Group} {e : EngEntry} (hhead : s.headOf c 8 = some (g, e)) (hoff : e.off = false)
    (hneeds : (s.core c).needsOver e.needs = true) (hdone : e.done ≠ 0) (ecc : Ecc) : s.binplay c ecc = s.completeEntry g 8 e := by
  simp [State.binplay, hhead, hoff, hneeds, hdone]

theorem State.guardedOff_of_mx {s : State} {c : CoreId} {g : Group} {m : MxEntry} {q : List MxEntry} (hgroup : s.group? c g.slot = some g)
    (hq : g.mxq = m :: q) (hoff : m.off = true) : s.guardedOff c 10 g.slot = s.popMx c g.slot := by
  simp [State.guardedOff, hgroup, hq, hoff]

/-- Memory has taken what a group's engines wrote: no unacknowledged write of its slot waits at a stack or a buffer. -/
theorem State.landed_iff {s : State} {g : Group} : s.landed g = true ↔
    ∀ m : MemReq, m.kind ≠ 0 → m.ack = none → m.src = g.core.die → m.slot = g.whoIs.slot →
      (∀ k ∈ s.hbms, ∀ ch ∈ k.chans, m ∉ ch.queue) ∧ ∀ b ∈ s.buffers, m ∉ b.queue := by
  simp only [State.landed, Bool.and_eq_true, Bool.not_eq_true', List.any_eq_false, List.any_eq_true, bne_iff_ne, beq_iff_eq,
    Option.isNone_iff_eq_none]
  constructor
  · rintro ⟨hstacks, hbuffers⟩ m hkind hack hsrc hslot
    have hours := And.intro (And.intro (And.intro hkind hack) hsrc) hslot
    exact ⟨fun k hk ch hch hm => hstacks k hk ⟨ch, hch, m, hm, hours⟩, fun b hb hm => hbuffers b hb ⟨m, hm, hours⟩⟩
  · intro h
    constructor
    · rintro k hk ⟨ch, hch, m, hm, ⟨⟨hkind, hack⟩, hsrc⟩, hslot⟩
      exact (h m hkind hack hsrc hslot).1 k hk ch hch hm
    · rintro b hb ⟨m, hm, ⟨⟨hkind, hack⟩, hsrc⟩, hslot⟩
      exact (h m hkind hack hsrc hslot).2 b hb hm

end Sys2Proof.Machine
end

section
/-!
SUPPORT (O54). A replay's updates of the target's words, in order (R132).
-/
namespace Sys2Proof.Machine

theorem sextN_toNat (w : Word) : sextN w.toNat 32 = w.toInt := by
  have hw := w.isLt
  unfold sextN
  rw [BitVec.toInt_eq_toNat_cond]
  simp only [Nat.reduceBEq, bne, Bool.not_false, Bool.true_and, decide_eq_true_eq]
  split <;> split <;> omega

/-! ### One update -/

theorem playOp_add (w : Word) (v : Nat) : BitVec.ofNat 32 (playOp 1 w.toNat v) = w + BitVec.ofNat 32 v := by
  refine BitVec.eq_of_toNat_eq ?_
  show (w.toNat + v) % 2 ^ 32 % 2 ^ 32 = _
  simp

section
variable {v : Nat} (hv : v < 2 ^ 32) (w : Word)
include hv

theorem playOp_max : (BitVec.ofNat 32 (playOp 2 w.toNat v)).toInt = max w.toInt (BitVec.ofNat 32 v).toInt := by
  have hval := sextN_toNat (BitVec.ofNat 32 v)
  rw [BitVec.toNat_ofNat, Nat.mod_eq_of_lt hv] at hval
  rw [playOp, sextN_toNat, hval]
  split
  next h => exact (max_eq_right h.le).symm
  next h => rw [BitVec.ofNat_toNat, BitVec.setWidth_eq, max_eq_left (not_lt.mp h)]

theorem playOp_min : (BitVec.ofNat 32 (playOp 3 w.toNat v)).toInt = min w.toInt (BitVec.ofNat 32 v).toInt := by
  have hval := sextN_toNat (BitVec.ofNat 32 v)
  rw [BitVec.toNat_ofNat, Nat.mod_eq_of_lt hv] at hval
  show (BitVec.ofNat 32 (if sextN v 32 < sextN w.toNat 32 then v else w.toNat)).toInt = _
  rw [sextN_toNat, hval]
  split
  next h => exact (min_eq_right h.le).symm
  next h => rw [BitVec.ofNat_toNat, BitVec.setWidth_eq, min_eq_left (not_lt.mp h)]

end

/-! ### All of a region's -/

theorem length_playAll (op shift : Nat) (es : List (Nat × Nat)) (ws : List Word) : (playAll op shift es ws).length = ws.length := by
  induction es generalizing ws with
  | nil => rfl
  | cons e es ih => rw [playAll, ih, List.length_set]

theorem playAll_append (op shift : Nat) (es fs : List (Nat × Nat)) (ws : List Word) :
    playAll op shift (es ++ fs) ws = playAll op shift fs (playAll op shift es ws) := by
  induction es generalizing ws with
  | nil => rfl
  | cons e es ih => exact ih _

/-- One update of a word, by an entry. -/
def playWord (op : Nat) (w : Word) (e : Nat × Nat) : Word := BitVec.ofNat 32 (playOp op w.toNat e.2)

/-- A word takes the updates of the entries that name it, in order. -/
theorem getD_playAll (op shift : Nat) (es : List (Nat × Nat)) {ws : List Word} {i : Nat} (hi : i < ws.length) :
    (playAll op shift es ws).getD i 0 = (es.filter fun e => e.1 % 2 ^ shift == i).foldl (playWord op) (ws.getD i 0) := by
  induction es generalizing ws with
  | nil => rfl
  | cons e es ih =>
    rw [playAll, ih (by rwa [List.length_set])]
    by_cases h : e.1 % 2 ^ shift = i
    · rw [List.filter_cons_of_pos (by simpa using h), List.foldl_cons]
      congr 1
      rw [h, List.getD_eq_getElem _ _ (by rwa [List.length_set]), List.getElem_set_self]
      rfl
    · rw [List.filter_cons_of_neg (by simpa using h)]
      congr 1
      simp only [List.getD_eq_getElem?_getD, List.getElem?_set_ne h]

theorem foldl_playWord_add (es : List (Nat × Nat)) (w : Word) :
    es.foldl (playWord 1) w = (es.map fun e => BitVec.ofNat 32 e.2).foldl (· + ·) w := by
  rw [List.foldl_map]
  congr 1
  funext w e
  exact playOp_add w e.2

/-- Where each update takes the better of the word and its value, the last word is the best of all. -/
theorem toInt_foldl_playWord {op : Nat} {best : Int → Int → Int}
    (hop : ∀ (w : Word) (v : Nat), v < 2 ^ 32 → (BitVec.ofNat 32 (playOp op w.toNat v)).toInt = best w.toInt (BitVec.ofNat 32 v).toInt)
    {es : List (Nat × Nat)} (hes : ∀ e ∈ es, e.2 < 2 ^ 32) (w : Word) :
    (es.foldl (playWord op) w).toInt = ((es.map fun e => BitVec.ofNat 32 e.2).map BitVec.toInt).foldl best w.toInt := by
  induction es generalizing w with
  | nil => rfl
  | cons e es ih =>
    rw [List.foldl_cons, ih fun x hx => hes x (.tail _ hx), playWord, hop w e.2 (hes e (.head _))]
    rfl

/-- The words of a target after a replay's updates (R132). -/
theorem playAll_words {op shift : Nat} {es : List (Nat × Nat)} {ws : List Word} {i : Nat} (hlen : ws.length = 2 ^ shift) (hi : i < 2 ^ shift)
    (hes : ∀ e ∈ es, e.2 < 2 ^ 32) :
    let mine := (es.filter fun e => e.1 % 2 ^ shift == i).map fun e => BitVec.ofNat 32 e.2
    let out := (playAll op shift es ws).getD i 0
    (op = 1 → out = mine.foldl (· + ·) (ws.getD i 0)) ∧
    (op = 2 → out.toInt = (mine.map BitVec.toInt).foldl max (ws.getD i 0).toInt) ∧
    (op = 3 → out.toInt = (mine.map BitVec.toInt).foldl min (ws.getD i 0).toInt) := by
  have hout := getD_playAll op shift es (hi.trans_eq hlen.symm)
  have hmine : ∀ e ∈ es.filter fun e => e.1 % 2 ^ shift == i, e.2 < 2 ^ 32 := fun e he => hes e (List.mem_filter.mp he).1
  refine ⟨?add, ?max, ?min⟩
  case add => rintro rfl; exact hout.trans (foldl_playWord_add ..)
  case max => rintro rfl; rw [hout]; exact toInt_foldl_playWord (fun w _ h => playOp_max h w) hmine _
  case min => rintro rfl; rw [hout]; exact toInt_foldl_playWord (fun w _ h => playOp_min h w) hmine _

end Sys2Proof.Machine
end

section
/-!
SUPPORT (O54). The queues and fences of the cores and the counters of the groups as one value, and what of a release leaves it as it is.
-/
namespace Sys2Proof.Machine

/-- A core's shared queues and fences. -/
def Core.queues (k : Core) : CoreId × List (List QItem) × List QItem × List QItem × List Fence := (k.id, k.chans, k.binq, k.poolq, k.fences)

/-- A group's place and counters. -/
def Group.counters (g : Group) : CoreId × Nat × List DWord := (g.core, g.slot, g.ctrs)

/-- The shared queues and fences of all cores, and the local counters of all groups. -/
def State.engines (s : State) : List (CoreId × List (List QItem) × List QItem × List QItem × List Fence) × List (CoreId × Nat × List DWord) :=
  (s.cores.map Core.queues, s.groups.map Group.counters)

@[simp] theorem State.mk_engines (clk agenda cur free tableErrs names mem l2 monitors packets hbms buffers dies cores groups warps cats ends wings
    regions qps ports raises docent out) :
    (State.mk clk agenda cur free tableErrs names mem l2 monitors packets hbms buffers dies cores groups warps cats ends wings
      regions qps ports raises docent out).engines = (cores.map Core.queues, groups.map Group.counters) := rfl

@[simp] theorem State.map_engines (s : State) : (s.cores.map Core.queues, s.groups.map Group.counters) = s.engines := rfl

theorem map_update_of_kept {α β : Type} {view : α → β} {f : α → α} (hf : ∀ x, view (f x) = view x) (p : α → Bool) (l : List α) :
    (l.map fun x => if p x then f x else x).map view = l.map view := by
  rw [List.map_map]
  refine List.map_congr_left fun x _ => ?_
  simp only [Function.comp_apply]
  split
  · exact hf x
  · rfl

theorem State.modCore_engines (s : State) (c : CoreId) {f : Core → Core} (hf : ∀ k, (f k).queues = k.queues := by intro; rfl) :
    (s.modCore c f).engines = s.engines :=
  congrArg (·, s.groups.map Group.counters) (map_update_of_kept hf (fun k => k.id == c) s.cores)

theorem State.modGroup_engines (s : State) (c : CoreId) (n : Nat) {f : Group → Group} (hf : ∀ g, (f g).counters = g.counters := by intro; rfl) :
    (s.modGroup c n f).engines = s.engines :=
  congrArg (s.cores.map Core.queues, ·) (map_update_of_kept hf (fun g => g.core == c && g.slot == n) s.groups)

theorem State.foldl_engines {α : Type} {f : State → α → State} (hf : ∀ t x, (f t x).engines = t.engines) (l : List α) (s : State) :
    (l.foldl f s).engines = s.engines := foldl_keeps State.engines hf l s

/-! ### What the value says -/

theorem view_find? {α β : Type} {view : α → β} {p : α → Bool} {q : β → Bool} (hq : ∀ x, q (view x) = p x) {l m : List α}
    (h : m.map view = l.map view) : (m.find? p).map view = (l.find? p).map view := by
  have hp : q ∘ view = p := funext hq
  rw [← hp, ← List.find?_map, ← List.find?_map, h]

theorem State.core_of_engines {s t : State} (h : t.engines = s.engines) (c : CoreId) : (t.core c).queues = (s.core c).queues := by
  have hfind := view_find? (p := fun k : Core => k.id == c) (q := fun v => v.1 == c) (fun _ => rfl) (congrArg Prod.fst h)
  unfold State.core
  generalize t.cores.find? _ = a at hfind
  generalize s.cores.find? _ = b at hfind
  cases a <;> cases b <;> simp_all

theorem State.queue_of_engines {s t : State} (h : t.engines = s.engines) (c : CoreId) (n : Nat) : (t.core c).queue n = (s.core c).queue n := by
  obtain ⟨-, hchans, hbin, hpool, -⟩ : _ ∧ _ := by simpa only [Core.queues, Prod.mk.injEq] using State.core_of_engines h c
  unfold Core.queue
  rw [hchans, hbin, hpool]

theorem State.hasCore_of_engines {s t : State} (h : t.engines = s.engines) {c : CoreId} (hc : s.hasCore c) : t.hasCore c := by
  obtain ⟨k, hk, rfl⟩ := hc
  have hmem : k.queues ∈ t.cores.map Core.queues := by
    rw [show t.cores.map Core.queues = s.cores.map Core.queues from congrArg Prod.fst h]
    exact List.mem_map_of_mem hk
  obtain ⟨x, hx, hxk⟩ := List.mem_map.mp hmem
  exact ⟨x, hx, congrArg Prod.fst hxk⟩

theorem State.group?_of_engines {s t : State} (h : t.engines = s.engines) {c : CoreId} {n : Nat} {g : Group} (hg : s.group? c n = some g) :
    ∃ g', t.group? c n = some g' ∧ g'.ctrs = g.ctrs := by
  have hfind := view_find? (p := fun x : Group => x.core == c && x.slot == n) (q := fun v => v.1 == c && v.2.1 == n) (fun _ => rfl)
    (congrArg Prod.snd h)
  have hview : (t.group? c n).map Group.counters = some g.counters := hfind.trans (congrArg (Option.map Group.counters) hg)
  obtain ⟨g', hg', hctrs⟩ := Option.map_eq_some_iff.mp hview
  exact ⟨g', hg', congrArg (·.2.2) hctrs⟩

/-! ### Memory -/

@[simp] theorem State.modReq_engines (s : State) (c : CoreId) (rid : Nat) (f : Req → Req) : (s.modReq c rid f).engines = s.engines :=
  s.modCore_engines c
@[simp] theorem State.modBuffer_engines (s : State) (n : Nat) (f : Buffer → Buffer) : (s.modBuffer n f).engines = s.engines := rfl
@[simp] theorem State.modStack_engines (s : State) (d : Nat) (f : Stack → Stack) : (s.modStack d f).engines = s.engines := rfl
@[simp] theorem State.fresh_engines (s : State) : s.fresh.2.engines = s.engines := rfl
@[simp] theorem State.freshFree_engines (s : State) : s.freshFree.2.engines = s.engines := rfl

@[simp] theorem State.enqueueMem_engines (s : State) (pa : Nat) (r : MemReq) : (s.enqueueMem pa r).engines = s.engines := by
  unfold State.enqueueMem; split <;> rfl

@[simp] theorem State.l2WriteBack_engines (s : State) (l : L2Line) : (s.l2WriteBack l).engines = s.engines := by
  dsimp only [State.l2WriteBack]
  split
  · rfl
  · exact State.enqueueMem_engines ..

@[simp] theorem State.l2Set_engines (s : State) (l : L2Line) : (s.l2Set l).engines = s.engines := by
  dsimp only [State.l2Set]
  (repeat' split) <;> simp

@[simp] theorem State.respond_engines (s : State) (pid : Nat) (f : Packet → Packet) : (s.respond pid f).engines = s.engines := by
  unfold State.respond
  split
  · rfl
  · exact (State.foldl_engines (fun t m => by simp [State.fresh]) ..).trans rfl

@[simp] theorem State.pokeMonitors_engines (s : State) (line : Nat) : (s.pokeMonitors line).engines = s.engines :=
  State.foldl_engines (fun _ _ => State.respond_engines ..) ..

@[simp] theorem State.l2Merge_engines (s : State) (line wg : Nat) (bs : LineBytes) : (s.l2Merge line wg bs).engines = s.engines := by
  simp only [State.l2Merge, State.pokeMonitors_engines, State.l2Set_engines]

@[simp] theorem State.l2Through_engines (s : State) (src slot wg line : Nat) (uncached : Bool) (bs : LineBytes) (ack : Option Nat) :
    (s.l2Through src slot wg line uncached bs ack).engines = s.engines := by
  dsimp only [State.l2Through]
  rw [State.pokeMonitors_engines, State.enqueueMem_engines]
  split
  · rfl
  · exact State.l2Set_engines ..

@[simp] theorem State.homeWrite_engines (s : State) (src slot wg cp line : Nat) (bs : LineBytes) :
    (s.homeWrite src slot wg cp line bs).engines = s.engines := by
  unfold State.homeWrite
  (repeat' split) <;> simp

@[simp] theorem State.homePuts_engines (s : State) (src slot wg cp pa : Nat) (bs : List Byte) :
    (s.homePuts src slot wg cp pa bs).engines = s.engines :=
  State.foldl_engines (fun _ _ => State.homeWrite_engines ..) ..

/-! ### L1 and the combining buffer -/

@[simp] theorem State.leave_engines (s : State) (c : CoreId) (line : Nat) (bs : LineBytes) : (s.leave c line bs).engines = s.engines := by
  unfold State.leave
  split
  · rfl
  · exact s.modCore_engines c

@[simp] theorem State.l1Home_engines (s : State) (c : CoreId) (l : L1Line) (p : L1Byte → Bool) : (s.l1Home c l p).engines = s.engines := by
  unfold State.l1Home
  rw [State.modCore_engines, State.homeWrite_engines, State.leave_engines]

@[simp] theorem State.l1Flush_engines (s : State) (c : CoreId) (p : L1Byte → Bool) : (s.l1Flush c p).engines = s.engines :=
  State.foldl_engines (fun t l => by split <;> simp) ..

@[simp] theorem State.l1Clean_engines (s : State) (c : CoreId) (set line : Nat) : (s.l1Clean c set line).engines = s.engines := by
  unfold State.l1Clean
  (repeat' split) <;> simp

@[simp] theorem State.l1Drop_engines (s : State) (c : CoreId) (set line : Nat) : (s.l1Drop c set line).engines = s.engines := s.modCore_engines c

@[simp] theorem State.l1Purge_engines (s : State) (c : CoreId) (line : Nat) : (s.l1Purge c line).engines = s.engines := by
  unfold State.l1Purge
  rw [State.foldl_engines fun t o => by rw [State.l1Drop_engines, State.l1Clean_engines], State.modCore_engines]

@[simp] theorem State.deferTrap_engines (s : State) (c : CoreId) (slot : Nat) (i : Issuer) (cause : Cause) (late : Bool) :
    (s.deferTrap c slot i cause late).engines = s.engines := s.modGroup_engines c slot

@[simp] theorem State.groupCheck_engines (s : State) (die slot : Nat) (cause : Cause) : (s.groupCheck die slot cause).engines = s.engines := by
  unfold State.groupCheck
  split
  · rfl
  · exact State.deferTrap_engines ..

@[simp] theorem State.combSend_engines (s : State) (c : CoreId) (e : CombEntry) : (s.combSend c e).engines = s.engines := by
  unfold State.combSend
  rw [State.modCore_engines]
  split <;> simp [State.homeSetWord, State.l1Older]

@[simp] theorem State.combFlush_engines (s : State) (c : CoreId) (p : CombEntry → Bool) : (s.combFlush c p).engines = s.engines :=
  State.foldl_engines (fun _ _ => State.combSend_engines ..) ..

/-- A release writes memory only. -/
@[simp] theorem State.releaseActs_engines (s : State) (c : CoreId) (wide : Bool) : (s.releaseActs c wide).engines = s.engines := by
  unfold State.releaseActs
  rw [State.modCore_engines]
  split <;> simp

end Sys2Proof.Machine
end

section
/-!
SUPPORT (O54). Fences leaving the queues, and what a failed access leaves of its group's entries and fences (R126, R128, R450).
-/
namespace Sys2Proof.Machine

/-! ### Several queues changed alike -/

section
variable {s : State} {c : CoreId} {F : List QItem → List QItem}

theorem State.hasCore.modQueue (h : s.hasCore c) (n : Nat) (f : List QItem → List QItem) : (s.modQueue c n f).hasCore c :=
  State.hasCore.modCore h fun k => Core.modQueue_id k n f

theorem State.hasCore_foldl_modQueue (h : s.hasCore c) (ns : List Nat) : (ns.foldl (fun st n => st.modQueue c n F) s).hasCore c := by
  induction ns generalizing s with
  | nil => exact h
  | cons n ns ih => exact ih (h.modQueue n F)

theorem State.queue_foldl_modQueue (h : s.hasCore c) (hF : F [] = []) {ns : List Nat} (hns : ns.Nodup) (m : Nat) :
    ((ns.foldl (fun st n => st.modQueue c n F) s).core c).queue m = if m ∈ ns then F ((s.core c).queue m) else (s.core c).queue m := by
  induction ns generalizing s with
  | nil => rfl
  | cons n ns ih =>
    obtain ⟨hn, hns⟩ := List.nodup_cons.mp hns
    rw [List.foldl_cons, ih (h.modQueue n F) hns, State.modQueue, State.core_modCore_self h fun k => Core.modQueue_id k n F]
    by_cases hm : m = n
    · subst hm
      rw [if_neg hn, if_pos List.mem_cons_self, Core.queue_modQueue_self _ _ hF]
    · rw [Core.queue_modQueue_of_ne _ hm]
      simp [hm]

theorem State.fences_foldl_modQueue (ns : List Nat) (d : CoreId) :
    ((ns.foldl (fun st n => st.modQueue c n F) s).core d).fences = (s.core d).fences :=
  foldl_keeps (fun t => (State.core t d).fences) (fun t n => State.core_modCore_of_kept Core.fences t c d (fun k => Core.modQueue_id k n F)
    fun k => Core.modQueue_fences k n F) ns s

theorem State.groups_foldl_modQueue (ns : List Nat) : (ns.foldl (fun st n => st.modQueue c n F) s).groups = s.groups :=
  foldl_keeps State.groups (f := fun st n => st.modQueue c n F) (fun _ _ => rfl) ns s

end

/-! ### A fence leaves -/

theorem Core.queue_withFences (k : Core) (fs : List Fence) (n : Nat) : { k with fences := fs }.queue n = k.queue n := rfl

/-- The queues of a core without a fence's marks. -/
def State.unmark (s : State) (c : CoreId) (f : Fence) : State :=
  (List.range 10).foldl (fun st n => st.modQueue c n fun q => q.filter (· != .fence f.fid)) s

theorem State.dropFence_eq (s : State) (c : CoreId) (f : Fence) : s.dropFence c f =
    ((s.unmark c f).modGroup c f.slot fun g => { g with mxq := g.mxq.filter fun m => m.fence != some f.fid }).modCore c fun k =>
      { k with fences := k.fences.filter fun o => o.fid != f.fid } := rfl

theorem State.unmark_groups (s : State) (c : CoreId) (f : Fence) : (s.unmark c f).groups = s.groups := State.groups_foldl_modQueue _

theorem State.fences_unmark (s : State) (c : CoreId) (f : Fence) : ((s.unmark c f).core c).fences = (s.core c).fences := by
  unfold State.unmark
  rw [State.fences_foldl_modQueue]

section
variable {s : State} {c : CoreId} (hc : s.hasCore c)
include hc

theorem State.hasCore_unmark (f : Fence) : (s.unmark c f).hasCore c := State.hasCore_foldl_modQueue hc _

theorem State.queue_unmark (f : Fence) {n : Nat} (hn : n < 10) :
    ((s.unmark c f).core c).queue n = ((s.core c).queue n).filter (· != .fence f.fid) := by
  unfold State.unmark
  rw [State.queue_foldl_modQueue hc List.filter_nil List.nodup_range n, if_pos (List.mem_range.mpr hn)]

theorem State.hasCore_dropFence (f : Fence) : (s.dropFence c f).hasCore c := by
  rw [State.dropFence_eq]
  exact (State.hasCore.of_cores (State.modGroup_cores ..) (State.hasCore_unmark hc f)).modCore

theorem State.core_dropFence (f : Fence) : (s.dropFence c f).core c =
    { (s.unmark c f).core c with fences := ((s.unmark c f).core c).fences.filter fun o => o.fid != f.fid } := by
  rw [State.dropFence_eq, State.core_modCore_self (State.hasCore.of_cores (State.modGroup_cores ..) (State.hasCore_unmark hc f)),
    State.core_of_cores (State.modGroup_cores ..)]

theorem State.queue_dropFence (f : Fence) {n : Nat} (hn : n < 10) :
    ((s.dropFence c f).core c).queue n = ((s.core c).queue n).filter (· != .fence f.fid) := by
  rw [State.core_dropFence hc, Core.queue_withFences, State.queue_unmark hc f hn]

theorem State.fences_dropFence (f : Fence) : ((s.dropFence c f).core c).fences = (s.core c).fences.filter fun o => o.fid != f.fid := by
  rw [State.core_dropFence hc, State.fences_unmark]

/-! ### Fences leave one after another -/

theorem State.hasCore_dropFences (fs : List Fence) : (fs.foldl (fun st f => st.dropFence c f) s).hasCore c := by
  induction fs generalizing s with
  | nil => exact hc
  | cons f fs ih =>
    rw [List.foldl_cons]
    exact ih (State.hasCore_dropFence hc f)

theorem State.queue_dropFences (fs : List Fence) {n : Nat} (hn : n < 10) :
    ((fs.foldl (fun st f => st.dropFence c f) s).core c).queue n = ((s.core c).queue n).filter fun x => !(fs.any fun o => x == .fence o.fid) := by
  induction fs generalizing s with
  | nil => exact (List.filter_true _).symm
  | cons f fs ih =>
    rw [List.foldl_cons, ih (State.hasCore_dropFence hc f), State.queue_dropFence hc f hn, List.filter_filter]
    refine List.filter_congr fun x _ => ?_
    rw [List.any_cons, Bool.not_or, Bool.and_comm]
    rfl

theorem State.fences_dropFences (fs : List Fence) :
    ((fs.foldl (fun st f => st.dropFence c f) s).core c).fences = (s.core c).fences.filter fun o => !(fs.any fun f => o.fid == f.fid) := by
  induction fs generalizing s with
  | nil => exact (List.filter_true _).symm
  | cons f fs ih =>
    rw [List.foldl_cons, ih (State.hasCore_dropFence hc f), State.fences_dropFence hc f, List.filter_filter]
    refine List.filter_congr fun o _ => ?_
    rw [List.any_cons, Bool.not_or, Bool.and_comm]
    rfl

end

theorem State.group?_of_groups {s t : State} (h : t.groups = s.groups) (c : CoreId) (n : Nat) : t.group? c n = s.group? c n := by
  unfold State.group?
  rw [h]

theorem State.group?_dropFences {s : State} {c : CoreId} {n : Nat} {g : Group} (hg : s.group? c n = some g) {fs : List Fence}
    (hfs : ∀ f ∈ fs, f.slot = n) : (fs.foldl (fun st f => st.dropFence c f) s).group? c n =
      some { g with mxq := g.mxq.filter fun m => !(fs.any fun f => m.fence == some f.fid) } := by
  induction fs generalizing s g with
  | nil =>
    refine hg.trans ?_
    rw [show g.mxq.filter (fun m => !(([] : List Fence).any fun f => m.fence == some f.fid)) = g.mxq from List.filter_true _]
  | cons f fs ih =>
    have hdrop : (s.dropFence c f).group? c n = some { g with mxq := g.mxq.filter fun m => m.fence != some f.fid } := by
      have hbefore := (State.group?_of_groups (State.unmark_groups s c f) c n).trans hg
      obtain rfl := hfs f (.head _)
      rw [State.dropFence_eq, State.group?_of_groups (State.modCore_groups ..)]
      exact State.group?_modGroup (f := fun u => { u with mxq := u.mxq.filter fun m => m.fence != some f.fid }) (fun _ => ⟨rfl, rfl⟩) hbefore
    rw [List.foldl_cons, ih hdrop fun o ho => hfs o (.tail _ ho), List.filter_filter]
    congr 2
    refine List.filter_congr fun m _ => ?_
    rw [List.any_cons, Bool.not_or, Bool.and_comm]
    rfl

/-! ### A trap charged to an entry's issuer -/

theorem State.found_cores (s : State) (x : Cause) : (s.found x).cores = s.cores := by
  unfold State.found
  split
  · exact State.uncorrectable_cores ..
  · rfl

theorem State.found_groups (s : State) (x : Cause) : (s.found x).groups = s.groups := by
  unfold State.found
  split
  · unfold State.uncorrectable State.report
    (repeat' split) <;> rfl
  · rfl

theorem State.core_engTrap (s : State) (g : Group) (i : Issuer) (x : Cause) (c : CoreId) : (s.engTrap g i x).core c = s.core c :=
  State.core_of_cores (State.found_cores s x) c

theorem State.hasCore_engTrap {s : State} {c : CoreId} (h : s.hasCore c) (g : Group) (i : Issuer) (x : Cause) : (s.engTrap g i x).hasCore c :=
  State.hasCore.of_cores (State.found_cores s x) h

/-- The trap that an engine's failed access charges to its group (R450). -/
def State.engPend (s : State) (g : Group) (i : Issuer) (x : Cause) : PendTrap :=
  { slot := g.slot, age := i.age, trapRec := mkRecord i true x, late := false, since := (s.found x).clk }

theorem State.group?_engTrap {s : State} {g : Group} (hg : s.group? g.core g.slot = some g) (i : Issuer) (x : Cause) :
    (s.engTrap g i x).group? g.core g.slot = some { g with deferred := g.deferred ++ [s.engPend g i x] } :=
  State.group?_modGroup (f := fun u => { u with deferred := u.deferred ++ [s.engPend g i x] }) (fun _ => ⟨rfl, rfl⟩)
    ((State.group?_of_groups (State.found_groups s x) ..).trans hg)

end Sys2Proof.Machine
end

section
/-!
SUPPORT (O54). The end of an entry: its counter add, its place in the queue, and what is discarded behind a failed access (R124 to R126, R320).
-/
namespace Sys2Proof.Machine

/-! ### A failed access -/

/-- The group's fences that have a mark in a queue. -/
def State.fencesIn (s : State) (g : Group) (n : Nat) : List Fence :=
  (s.core g.core).fences.filter fun f => f.slot == g.slot && f.mask.getLsbD n

theorem State.mem_fencesIn {s : State} {g : Group} {n : Nat} {o : Fence} :
    o ∈ s.fencesIn g n ↔ o ∈ (s.core g.core).fences ∧ o.slot = g.slot ∧ o.mask.getLsbD n = true := by
  simp [State.fencesIn]

section
variable {s : State} {g : Group} {n : Nat} {e : EngEntry} {f : Cause}

theorem State.engFail_of_page (h : f.cls = 1) : s.engFail g n e f = (s.engTrap g e.who f).setHead g.core n { e with stopped := true } :=
  if_pos (beq_iff_eq.mpr h)

theorem State.engFail_of_other (h : f.cls ≠ 1) : s.engFail g n e f =
    ((s.fencesIn g n).foldl (fun st o => st.dropFence g.core o) (s.engTrap g e.who f)).discardQueue g.core n g.slot := by
  refine (if_neg fun hcls => h (beq_iff_eq.mp hcls)).trans ?_
  rw [State.discardFences, State.core_engTrap]
  rfl

/-- Whether a queue's item is none of a group's entries. -/
def QItem.notOf (slot : Nat) : QItem → Bool
  | .entry e => e.slot != slot
  | .fence _ => true

theorem State.discardQueue_eq (s : State) (c : CoreId) (n slot : Nat) :
    s.discardQueue c n slot = s.modQueue c n fun q => q.filter (QItem.notOf slot) := rfl

theorem State.discardQueue_groups (s : State) (c : CoreId) (n slot : Nat) : (s.discardQueue c n slot).groups = s.groups := rfl

section
variable (hgroup : s.group? g.core g.slot = some g)
include hgroup

theorem State.group?_engFail_of_page (h : f.cls = 1) : (s.engFail g n e f).group? g.core g.slot =
    some { g with deferred := g.deferred ++ [s.engPend g e.who f] } := by
  rw [State.engFail_of_page h]
  exact State.group?_engTrap hgroup e.who f

theorem State.group?_engFail_of_other (h : f.cls ≠ 1) : (s.engFail g n e f).group? g.core g.slot =
    some { g with
      deferred := g.deferred ++ [s.engPend g e.who f]
      mxq := g.mxq.filter fun m => !((s.fencesIn g n).any fun o => m.fence == some o.fid) } := by
  rw [State.engFail_of_other h, State.group?_of_groups (State.discardQueue_groups ..),
    State.group?_dropFences (State.group?_engTrap hgroup e.who f) fun o ho => (State.mem_fencesIn.mp ho).2.1]

/-- The group after a failed access: it has one more deferred trap, and its matrix queue loses marks of fences at most, and those only where
the entry is discarded. -/
theorem State.group?_engFail : ∃ q, (s.engFail g n e f).group? g.core g.slot =
      some { g with deferred := g.deferred ++ [s.engPend g e.who f], mxq := q } ∧
    (f.cls = 1 → q = g.mxq) ∧ ∀ m ∈ g.mxq, m.fence = none → m ∈ q := by
  by_cases h : f.cls = 1
  · exact ⟨g.mxq, State.group?_engFail_of_page hgroup h, fun _ => rfl, fun m hm _ => hm⟩
  · refine ⟨_, State.group?_engFail_of_other hgroup h, fun hcls => absurd hcls h, fun m hm hmark => List.mem_filter.mpr ⟨hm, ?_⟩⟩
    simp [hmark]

end

section
variable (hhead : (s.core g.core).headEntry n = some e)
include hhead

/-- A page that fails its checks stops the entry where it stands (R126). -/
theorem State.queue_engFail_of_page (h : f.cls = 1) :
    ((s.engFail g n e f).core g.core).queue n = .entry { e with stopped := true } :: ((s.core g.core).queue n).drop 1 := by
  obtain ⟨r, hr⟩ := Core.headEntry_iff.mp hhead
  rw [State.engFail_of_page h, State.setHead, State.queue_modQueue_self (State.hasCore_engTrap (State.hasCore_of_head hhead) ..) rfl,
    State.core_engTrap, hr]
  rfl

/-- Any other failure discards the group's entries of the queue, and every mark of its fences there (R126, R128). -/
theorem State.queue_engFail_of_other (hn : n < 10) (h : f.cls ≠ 1) : ((s.engFail g n e f).core g.core).queue n =
    (((s.core g.core).queue n).filter fun x => !((s.fencesIn g n).any fun o => x == .fence o.fid)).filter (QItem.notOf g.slot) := by
  have hcore := State.hasCore_engTrap (State.hasCore_of_head hhead) g e.who f
  rw [State.engFail_of_other h, State.discardQueue_eq, State.queue_modQueue_self (State.hasCore_dropFences hcore _) rfl,
    State.queue_dropFences hcore _ hn, State.core_engTrap]

theorem State.fences_engFail_of_other (h : f.cls ≠ 1) : ((s.engFail g n e f).core g.core).fences =
    (s.core g.core).fences.filter fun o => !((s.fencesIn g n).any fun x => o.fid == x.fid) := by
  have hcore := State.hasCore_engTrap (State.hasCore_of_head hhead) g e.who f
  rw [State.engFail_of_other h, State.discardQueue_eq, State.modQueue,
    State.core_modCore_self (State.hasCore_dropFences hcore _) fun k => Core.modQueue_id .., Core.modQueue_fences,
    State.fences_dropFences hcore, State.core_engTrap]

theorem State.entry_mem_engFail (hn : n < 10) (h : f.cls ≠ 1) (x : EngEntry) :
    .entry x ∈ ((s.engFail g n e f).core g.core).queue n ↔ .entry x ∈ (s.core g.core).queue n ∧ x.slot ≠ g.slot := by
  rw [State.queue_engFail_of_other hhead hn h]
  simp [QItem.notOf]

theorem State.fence_mem_engFail (hn : n < 10) (h : f.cls ≠ 1) (fid : Nat) :
    .fence fid ∈ ((s.engFail g n e f).core g.core).queue n ↔
      .fence fid ∈ (s.core g.core).queue n ∧ ∀ o ∈ s.fencesIn g n, o.fid ≠ fid := by
  rw [State.queue_engFail_of_other hhead hn h]
  simp only [List.mem_filter, QItem.notOf, and_true, Bool.not_eq_true', List.any_eq_false, beq_iff_eq, QItem.fence.injEq, ne_comm, ne_eq]

theorem State.fences_of_engFail (h : f.cls ≠ 1) : ∀ o ∈ ((s.engFail g n e f).core g.core).fences,
    o ∈ (s.core g.core).fences ∧ o ∉ s.fencesIn g n := by
  rw [State.fences_engFail_of_other hhead h]
  intro o ho
  obtain ⟨hmem, hout⟩ := List.mem_filter.mp ho
  refine ⟨hmem, fun hin => ?_⟩
  simp only [Bool.not_eq_true', List.any_eq_false, beq_iff_eq] at hout
  exact hout o hin rfl

end
end

/-! ### The counter add -/

theorem bytesNat_lt (bs : List Byte) (off n : Nat) : bytesNat bs off n < 256 ^ n :=
  (leNat_lt _).trans_le (Nat.pow_le_pow_right (by omega) (List.length_take_le ..))

/-- The amounts of commands are words. -/
theorem EngEntry.counter_lt (e : EngEntry) (n : Nat) : (e.counter n).2 < 2 ^ 32 := by
  unfold EngEntry.counter
  split
  · exact bytesNat_lt _ 40 4
  · split
    · exact bytesNat_lt _ 52 4
    · exact bytesNat_lt _ 40 4

section
variable {s : State} {g : Group} {n : Nat} {e : EngEntry}

theorem State.completeEntry_of_ok {t : State} (h : s.engineAdd g (e.counter n).1 (e.counter n).2 e.who = .ok t) :
    s.completeEntry g n e = t.popHead g.core n := by
  simp only [State.completeEntry, h]

theorem State.completeEntry_of_error {x : Cause} (h : s.engineAdd g (e.counter n).1 (e.counter n).2 e.who = .error x) :
    s.completeEntry g n e = s.engFail g n e x := by
  simp only [State.completeEntry, h]

theorem State.engineAdd_of_unmapped {va : Nat} {x : Cause} (h : s.engPages g.whoIs .atomic va 8 = .error x) (amt : Nat) (i : Issuer) :
    s.engineAdd g (.glob va) amt i = .error x := by
  simp only [State.engineAdd, h]

end

/-- An engine's add of a local counter: the counter saturates, and the queues stay. -/
theorem State.localAdd_spec {s : State} {c : CoreId} {slot : Nat} {g : Group} (hgroup : s.group? c slot = some g) (b : Nat) (amt : DWord) (i : Issuer)
    (engine : Bool) : (s.localAdd c slot b amt i engine).cores = s.cores ∧
      ∃ g', (s.localAdd c slot b amt i engine).group? c slot = some g' ∧
        g'.ctrs = g.ctrs.set b (BitVec.ofNat 64 (min ((g.ctrs.getD b 0).toNat + amt.toNat) (2 ^ 64 - 1))) := by
  have hadd := State.group?_modGroup (f := fun x : Group =>
    { x with ctrs := x.ctrs.set b (BitVec.ofNat 64 (min ((g.ctrs.getD b 0).toNat + amt.toNat) (2 ^ 64 - 1))) }) (fun _ => ⟨rfl, rfl⟩) hgroup
  unfold State.localAdd
  rw [hgroup]
  dsimp only
  split
  · exact ⟨rfl, _, State.group?_modGroup (fun _ => ⟨rfl, rfl⟩) hadd, rfl⟩
  · exact ⟨rfl, _, hadd, rfl⟩

/-- An entry of a local counter adds its amount there and leaves its queue. -/
theorem State.completeEntry_of_local {s : State} {g : Group} {n : Nat} {e : EngEntry} {b : Nat} (hgroup : s.group? g.core g.slot = some g)
    (hhead : (s.core g.core).headEntry n = some e) (hctr : (e.counter n).1 = .loc b) :
    ((s.completeEntry g n e).core g.core).queue n = ((s.core g.core).queue n).drop 1 ∧
      ∃ g', (s.completeEntry g n e).group? g.core g.slot = some g' ∧
        g'.ctrs = g.ctrs.set b (BitVec.ofNat 64 (min ((g.ctrs.getD b 0).toNat + (e.counter n).2) (2 ^ 64 - 1))) := by
  have hkept := s.releaseActs_engines g.core true
  obtain ⟨g1, hgroup1, hctrs1⟩ := State.group?_of_engines hkept hgroup
  obtain ⟨hcores, g', hgroup', hctrs'⟩ := State.localAdd_spec hgroup1 b (BitVec.ofNat 64 (e.counter n).2) e.who true
  have hamt : (BitVec.ofNat 64 (e.counter n).2).toNat = (e.counter n).2 := by
    rw [BitVec.toNat_ofNat, Nat.mod_eq_of_lt ((e.counter_lt n).trans (by decide))]
  rw [State.completeEntry_of_ok (t := (s.releaseActs g.core true).localAdd g.core g.slot b (BitVec.ofNat 64 (e.counter n).2) e.who true)
    (by rw [hctr]; rfl)]
  refine ⟨?_, g', hgroup', by rw [hctrs', hctrs1, hamt]⟩
  have hcore := State.hasCore_of_engines hkept (State.hasCore_of_head hhead)
  rw [State.popHead, State.queue_modQueue_self (State.hasCore.of_cores hcores hcore) rfl, State.core_of_cores hcores, State.queue_of_engines hkept]

end Sys2Proof.Machine
end

section
/-!
SUPPORT (O54). The completion of a queue fence (R125, R126, R128).
-/
namespace Sys2Proof.Machine

/-- What must hold before a fence completes: its warp's earlier accesses are over, and its mark heads each queue that it names (R128). -/
def State.fenceHeads (s : State) (c : CoreId) (f : Fence) (g : Group) : Prop :=
  (s.core c).needsOver f.needs = true ∧ (∀ n, n < 10 → f.mask.getLsbD n = true → ((s.core c).queue n).head? = some (.fence f.fid)) ∧
    (f.mask.getLsbD 10 = true → ∃ m q, g.mxq = m :: q ∧ m.fence = some f.fid)

/-- A core with a fence is there. -/
theorem State.hasCore_of_fence {s : State} {c : CoreId} {f : Fence} (h : f ∈ (s.core c).fences) : s.hasCore c := by
  by_contra hc
  rw [State.core_of_not_hasCore hc] at h
  cases h

theorem mem_fenceQueues {mask : BitVec 11} {n : Nat} : n ∈ fenceQueues mask ↔ n < 11 ∧ mask.getLsbD n = true := by
  simp [fenceQueues]

section
variable {s : State} {c : CoreId} {f : Fence} {g : Group} (hgroup : s.group? c f.slot = some g)
include hgroup

theorem State.fenceAtHead_ten : s.fenceAtHead f c 10 = true ↔ ∃ m q, g.mxq = m :: q ∧ m.fence = some f.fid := by
  simp only [State.fenceAtHead, hgroup, BEq.rfl, if_true, Option.bind_some, beq_iff_eq]
  cases g.mxq with
  | nil => simp
  | cons m q => simp

theorem State.fenceReady_iff : s.fenceReady c f = true ↔ s.fenceHeads c f g := by
  have hqueues : ∀ n, n ≠ 10 → (s.fenceAtHead f c n = true ↔ ((s.core c).queue n).head? = some (.fence f.fid)) := fun n hn => by
    simp [State.fenceAtHead, hn]
  simp only [State.fenceReady, State.fenceHeads, Bool.and_eq_true, List.all_eq_true, mem_fenceQueues]
  refine and_congr_right fun _ => ⟨fun h => ⟨fun n hn hmask => (hqueues n (by omega)).mp (h n ⟨by omega, hmask⟩), fun hmask =>
    (State.fenceAtHead_ten hgroup).mp (h 10 ⟨by omega, hmask⟩)⟩, fun ⟨hshared, hmx⟩ n ⟨hn, hmask⟩ => ?_⟩
  by_cases h10 : n = 10
  · subst h10
    exact (State.fenceAtHead_ten hgroup).mpr (hmx hmask)
  · exact (hqueues n h10).mpr (hshared n (by omega) hmask)

theorem State.fence_may_complete (htraps : ∀ d ∈ g.deferred, d.trapRec.pc ≠ f.who.pc) (h : s.fenceHeads c f g) :
    (!s.fenceReady c f || g.deferred.any fun t => t.trapRec.pc == f.who.pc) = false := by
  have hno : (g.deferred.any fun t => t.trapRec.pc == f.who.pc) = false :=
    List.any_eq_false.mpr fun d hd => by simpa using htraps d hd
  rw [(State.fenceReady_iff hgroup).mpr h, hno]
  rfl

variable (hfence : (s.core c).fences.find? (fun x => x.fid == f.fid) = some f)
include hfence

theorem State.fenceComplete_of_wait (h : ¬ s.fenceHeads c f g) : s.fenceComplete c f.fid = s := by
  have hwait : s.fenceReady c f = false := Bool.eq_false_of_not_eq_true fun hready => h ((State.fenceReady_iff hgroup).mp hready)
  simp [State.fenceComplete, hfence, hgroup, hwait]

variable (htraps : ∀ d ∈ g.deferred, d.trapRec.pc ≠ f.who.pc) (h : s.fenceHeads c f g)
include htraps h

theorem State.fenceComplete_of_ok {s1 : State} (hadd : s.engineAdd g f.ctr f.amt f.who = .ok s1) :
    s.fenceComplete c f.fid = s1.dropFence c f := by
  simp [State.fenceComplete, hfence, hgroup, State.fence_may_complete hgroup htraps h, hadd]

theorem State.fenceComplete_of_error {x : Cause} (hadd : s.engineAdd g f.ctr f.amt f.who = .error x) : s.fenceComplete c f.fid =
    if x.cls = 1 then s.engTrap g f.who x else ((s.engTrap g f.who x).discardBehind g f).dropFence c f := by
  simp [State.fenceComplete, hfence, hgroup, State.fence_may_complete hgroup htraps h, hadd]

end

/-! ### What is discarded behind a fence whose add fails -/

/-- A queue without a group's entries behind a fence's mark. -/
def cutBehind (f : Fence) (slot : Nat) (q : List QItem) : List QItem :=
  let i := q.idxOf (.fence f.fid)
  q.take (i + 1) ++ (q.drop (i + 1)).filter (QItem.notOf slot)

theorem idxOf_append_cons {α : Type} [BEq α] [LawfulBEq α] {a : α} {pre : List α} (h : a ∉ pre) (post : List α) :
    (pre ++ a :: post).idxOf a = pre.length := by
  rw [List.idxOf_append_of_notMem h, List.idxOf_cons_self, Nat.add_zero]

theorem drop_behind {α : Type} (pre post : List α) (a : α) : (pre ++ a :: post).drop (pre.length + 1) = post := by
  rw [List.drop_append, List.drop_eq_nil_of_le (by omega), Nat.add_sub_cancel_left, List.nil_append, List.drop_one, List.tail_cons]

theorem cutBehind_append {f : Fence} {slot : Nat} {pre post : List QItem} (h : .fence f.fid ∉ pre) :
    cutBehind f slot (pre ++ .fence f.fid :: post) = pre ++ .fence f.fid :: post.filter (QItem.notOf slot) := by
  have htake : (pre ++ QItem.fence f.fid :: post).take (pre.length + 1) = pre ++ [QItem.fence f.fid] := by
    rw [List.take_length_add_append]
    rfl
  rw [cutBehind, idxOf_append_cons h, htake, drop_behind, List.append_assoc, List.singleton_append]

section
variable {s : State} {g : Group} {f : Fence}

/-- The shared queues cut behind a fence. -/
def State.cutQueues (s : State) (g : Group) (f : Fence) : State :=
  ((fenceQueues f.mask).filter (· != 10)).foldl (fun st n => st.modQueue g.core n (cutBehind f g.slot)) s

theorem State.discardBehind_eq (s : State) (g : Group) (f : Fence) : s.discardBehind g f =
    (s.fencesBehind g f).foldl (fun st o => st.dropFence g.core o)
      (if f.mask.getLsbD 10 then
        (s.cutQueues g f).modGroup g.core g.slot fun u => { u with mxq := u.mxq.take ((u.mxq.findIdx fun e => e.fence == some f.fid) + 1) }
      else s.cutQueues g f) := rfl

theorem State.mem_of_fencesBehind {o : Fence} (h : o ∈ s.fencesBehind g f) : o ∈ (s.core g.core).fences ∧ o.slot = g.slot := by
  obtain ⟨hmem, hbehind⟩ := List.mem_filter.mp h
  exact ⟨hmem, beq_iff_eq.mp (Bool.and_eq_true_iff.mp hbehind).1⟩

variable {n : Nat} {pre post : List QItem} (hn : n < 10) (hmask : f.mask.getLsbD n = true)
  (hqueue : (s.core g.core).queue n = pre ++ .fence f.fid :: post) (hpre : .fence f.fid ∉ pre)
include hn hmask hqueue hpre

theorem State.fencesBehind_of_mem {o : Fence} (ho : o ∈ (s.core g.core).fences) (hslot : o.slot = g.slot) (hpost : .fence o.fid ∈ post) :
    o ∈ s.fencesBehind g f := by
  refine List.mem_filter.mpr ⟨ho, ?_⟩
  rw [hslot, BEq.rfl, Bool.true_and]
  refine List.any_eq_true.mpr ⟨n, mem_fenceQueues.mpr ⟨by omega, hmask⟩, ?_⟩
  have hten : (n == 10) = false := by simp; omega
  rw [hten, if_neg Bool.false_ne_true, hqueue]
  dsimp only
  rw [idxOf_append_cons hpre, drop_behind]
  simpa using hpost

theorem State.queue_discardBehind (hcore : s.hasCore g.core) : ((s.discardBehind g f).core g.core).queue n =
    (pre ++ .fence f.fid :: post.filter (QItem.notOf g.slot)).filter fun x => !((s.fencesBehind g f).any fun o => x == .fence o.fid) := by
  have hnodup : ((fenceQueues f.mask).filter (· != 10)).Nodup := (List.nodup_range.filter _).filter _
  have hnamed : n ∈ (fenceQueues f.mask).filter (· != 10) :=
    List.mem_filter.mpr ⟨mem_fenceQueues.mpr ⟨by omega, hmask⟩, by simp; omega⟩
  have hcut : ((s.cutQueues g f).core g.core).queue n = pre ++ .fence f.fid :: post.filter (QItem.notOf g.slot) := by
    rw [State.cutQueues, State.queue_foldl_modQueue hcore rfl hnodup, if_pos hnamed, hqueue, cutBehind_append hpre]
  have hcores : ∀ p : Bool, (if p then (s.cutQueues g f).modGroup g.core g.slot fun u =>
      { u with mxq := u.mxq.take ((u.mxq.findIdx fun e => e.fence == some f.fid) + 1) } else s.cutQueues g f).cores = (s.cutQueues g f).cores :=
    fun p => by cases p <;> rfl
  rw [State.discardBehind_eq, State.queue_dropFences (State.hasCore.of_cores (hcores _) (State.hasCore_foldl_modQueue hcore _)) _ hn,
    State.core_of_cores (hcores _), hcut]

end

end Sys2Proof.Machine
end

section
/-!
SUPPORT (O54). Reads that meet no error, and the replay of a region (R132).
-/
namespace Sys2Proof.Machine

theorem State.engCheck_good (s : State) (reads : Pages) : (s.engCheck reads .good).check = .good := rfl

theorem State.cause_engCheck_good (s : State) (reads : Pages) : (s.engCheck reads .good).cause = none := rfl

theorem State.engChecked_good (s : State) (reads : Pages) : s.engChecked (s.engCheck reads .good) = s := rfl

section
variable {s : State} {c : CoreId} {g : Group} {e : EngEntry} (hhead : s.headOf c 8 = some (g, e)) (hoff : e.off = false)
  (hneeds : (s.core c).needsOver e.needs = true) (hdone : e.done = 0)
include hhead hoff hneeds hdone

/-- A replay some of whose pages fail their checks. -/
theorem State.binplay_of_unmapped {f : Cause} (h : s.playPages g (.parse e.cmd) ⟨e.hdr.getD 0 1, e.hdr.getD 1 1, e.hdr.getD 2 4⟩ = .error f)
    (ecc : Ecc) : s.binplay c ecc = s.engFail g 8 e f := by
  simp only [State.binplay, hhead, hoff, hneeds, hdone, h, Bool.not_true, Bool.or_self, Bool.false_eq_true, if_false, bne_self_eq_false]

section
variable {p : PlayPages} (h : s.playPages g (.parse e.cmd) ⟨e.hdr.getD 0 1, e.hdr.getD 1 1, e.hdr.getD 2 4⟩ = .ok p)
include h

/-- A replay that meets an uncorrectable error. -/
theorem State.binplay_of_cause {ecc : Ecc} {f : Cause} (hcause : (s.engCheck (p.count ++ p.target ++ p.slots) ecc).cause = some f) :
    s.binplay c ecc = (s.engChecked (s.engCheck (p.count ++ p.target ++ p.slots) ecc)).engFail g 8 e f := by
  simp only [State.binplay, hhead, hoff, hneeds, hdone, h, hcause, Bool.not_true, Bool.or_self, Bool.false_eq_true, if_false, bne_self_eq_false]

/-- A replay that meets none: it is performed, and its add made. -/
theorem State.binplay_of_pages : s.binplay c .good =
    (((s.play g (.parse e.cmd) ⟨e.hdr.getD 0 1, e.hdr.getD 1 1, e.hdr.getD 2 4⟩ p .good).useBanks g (e.playRuns (.parse e.cmd))).setHead c 8
      { e with done := 1 }).completeEntry g 8 { e with done := 1 } := by
  simp only [State.binplay, hhead, hoff, hneeds, hdone, h, State.cause_engCheck_good, State.engCheck_good, State.engChecked_good, Bool.not_true,
    Bool.or_self, Bool.false_eq_true, if_false, bne_self_eq_false]

end
end

end Sys2Proof.Machine
end

section
/-!
SUPPORT (O54). The shape of a delivery unit, and where a delivery goes by what its sources say (R121 to R123, R126).
-/
namespace Sys2Proof.Machine

/-! ### The unit -/

/-- A unit is not empty before the entry's end, lies in one 64-byte piece of the destination, and does not pass the end (R121). -/
theorem CopyCmd.unitAt_spec {cmd : CopyCmd} {k : Nat} (h : k < cmd.total) :
    0 < cmd.unitAt k ∧ cmd.unitAt k ≤ 64 - cmd.dstAt k % 64 ∧ k + cmd.unitAt k ≤ cmd.total := by
  have hpiece : cmd.dstAt k % 64 < 64 := Nat.mod_lt _ (by omega)
  have hrow : k % cmd.rowBytes < cmd.rowBytes := by
    refine Nat.mod_lt _ (Nat.pos_of_ne_zero fun hzero => ?_)
    rw [CopyCmd.total, hzero, Nat.mul_zero] at h
    omega
  unfold CopyCmd.unitAt
  dsimp only
  generalize cmd.dstAt k % 64 = a at *
  split <;> omega

/-! ### The sources -/

theorem goodPrefix_ok (bs : List SrcByte) : goodPrefix (bs.map .ok) = (bs, none) := by
  induction bs with
  | nil => rfl
  | cons b bs ih => simp [goodPrefix, ih]

theorem goodPrefix_of_error {l : List (Except Cause SrcByte)} {f : Cause} (h : l.head? = some (.error f)) : goodPrefix l = ([], some f) := by
  cases l with
  | nil => cases h
  | cons x l =>
    obtain rfl := Option.some.inj h
    rfl

theorem State.engCheck_nil (s : State) (ecc : Ecc) : (s.engCheck [] ecc).check = .good := by
  cases ecc <;> rfl

section
variable {s : State} {reads : Pages} {ecc : Ecc} (h : (s.engCheck reads ecc).check = .good)
include h

theorem EngCheck.cause_of_good : (s.engCheck reads ecc).cause = none := by
  rw [EngCheck.cause, h]
  rfl

theorem State.engChecked_of_good : s.engChecked (s.engCheck reads ecc) = s := by
  rw [State.engChecked, h]
  rfl

theorem State.asRead_of_good (t : State) : t.asRead (s.engCheck reads ecc).check = t := by
  rw [h]
  rfl

end

/-! ### A delivery -/

/-- The head entry of a channel and its group's write-pointer after a unit of `n` bytes is performed (R123). -/
def State.moveHead (s : State) (c : CoreId) (ch : Nat) (g : Group) (e : EngEntry) (n : Nat) (fmt : Option (Nat × Option Fmt)) : State :=
  (s.setHead c ch { e with done := e.done + n, srcFmt := fmt }).modGroup c g.slot fun u =>
    { u with wptr := u.wptr.set ch (u.wptr.getD ch 0 + BitVec.ofNat 64 n) }

theorem EngEntry.goes_on {e : EngEntry} (hstarted : e.started = true) (hmore : e.done < (CopyCmd.parse e.cmd).total) :
    (!e.started || decide ((CopyCmd.parse e.cmd).total ≤ e.done)) = false := by
  simp [hstarted, hmore]

section
variable {s : State} {c : CoreId} {ch : Nat} {g : Group} {e : EngEntry} {ecc : Ecc} (hch : ch < 8) (hhead : s.headOf c ch = some (g, e))
include hch hhead

theorem State.deliver_of_over (h : (CopyCmd.parse e.cmd).total ≤ e.done) : s.deliver c ch ecc = s := by
  simp [State.deliver, hhead, Nat.not_le.mpr hch, h]

variable (hstarted : e.started = true) (hmore : e.done < (CopyCmd.parse e.cmd).total)
include hstarted hmore

/-- The first source byte fails its checks: the entry stops before it. -/
theorem State.deliver_of_bad {f : Cause} (h : (s.copySource g e e.done ((CopyCmd.parse e.cmd).unitAt e.done)).head? = some (.error f)) :
    s.deliver c ch ecc = s.engFail g ch e f := by
  have hnone := s.engCheck_nil ecc
  simp only [State.deliver, hhead, Nat.not_le.mpr hch, EngEntry.goes_on hstarted hmore, goodPrefix_of_error h, List.flatMap_nil,
    State.asRead_of_good hnone, EngCheck.cause_of_good hnone, State.engChecked_of_good hnone, Bool.false_eq_true, if_false]

variable {bs : List SrcByte} (hsrc : s.copySource g e e.done ((CopyCmd.parse e.cmd).unitAt e.done) = bs.map .ok)
include hsrc

/-- An uncorrectable error in the sources. -/
theorem State.deliver_of_cause {f : Cause} (h : (s.engCheck (bs.flatMap (·.pages)) ecc).cause = some f) :
    s.deliver c ch ecc = (s.engChecked (s.engCheck (bs.flatMap (·.pages)) ecc)).engFail g ch e f := by
  simp only [State.deliver, hhead, Nat.not_le.mpr hch, EngEntry.goes_on hstarted hmore, hsrc, goodPrefix_ok, h, Bool.false_eq_true, if_false]

variable (hgood : (s.engCheck (bs.flatMap (·.pages)) ecc).check = .good)
include hgood

/-- A unit into the scratchpad. -/
theorem State.deliver_to_spm (hdst : (CopyCmd.parse e.cmd).dspm = true) : s.deliver c ch ecc =
    (((s.engPull c (bs.flatMap (·.pages))).grpSpmPuts g ((CopyCmd.parse e.cmd).dstAt e.done)
      (bs.map fun b => b.val (s.engPull c (bs.flatMap (·.pages))))).useBanks g ((CopyCmd.parse e.cmd).spmRuns e.done)).moveHead c ch g e bs.length
        (if (CopyCmd.parse e.cmd).dec == 0 then none else (s.entryFmt g e).toOption) := by
  simp only [State.deliver, hhead, Nat.not_le.mpr hch, EngEntry.goes_on hstarted hmore, hsrc, goodPrefix_ok, State.asRead_of_good hgood,
    EngCheck.cause_of_good hgood, State.engChecked_of_good hgood, hdst, Bool.false_eq_true, if_false,
    if_true, List.length_map, State.moveHead]

variable (hdst : (CopyCmd.parse e.cmd).dspm = false)
include hdst

/-- A unit into pages that fail their checks. -/
theorem State.deliver_to_unmapped {f : Cause} (h : s.engPages g.whoIs .write ((CopyCmd.parse e.cmd).dstAt e.done) bs.length = .error f) :
    s.deliver c ch ecc = s.engFail g ch e f := by
  simp only [State.deliver, hhead, Nat.not_le.mpr hch, EngEntry.goes_on hstarted hmore, hsrc, goodPrefix_ok, State.asRead_of_good hgood,
    EngCheck.cause_of_good hgood, State.engChecked_of_good hgood, hdst, h, Bool.false_eq_true, if_false,
    List.length_map]

/-- A unit into memory. -/
theorem State.deliver_to_pages {ps : Pages} (h : s.engPages g.whoIs .write ((CopyCmd.parse e.cmd).dstAt e.done) bs.length = .ok ps) :
    s.deliver c ch ecc = (((s.engPull c (bs.flatMap (·.pages))).engWrite g.whoIs ps
      (bs.map fun b => b.val (s.engPull c (bs.flatMap (·.pages))))).useBanks g ((CopyCmd.parse e.cmd).spmRuns e.done)).moveHead c ch g e bs.length
        (if (CopyCmd.parse e.cmd).dec == 0 then none else (s.entryFmt g e).toOption) := by
  simp only [State.deliver, hhead, Nat.not_le.mpr hch, EngEntry.goes_on hstarted hmore, hsrc, goodPrefix_ok, State.asRead_of_good hgood,
    EngCheck.cause_of_good hgood, State.engChecked_of_good hgood, hdst, h, Bool.false_eq_true, if_false,
    List.length_map, State.moveHead]

end

end Sys2Proof.Machine
end

section
/-!
SUPPORT (O54). What a delivery unit leaves: the scratchpad, memory, the head entry and the group's write-pointer (R121, R123).
-/
namespace Sys2Proof.Machine

/-! ### Reads that pull nothing -/

theorem State.combFlush_of_none {s : State} {c : CoreId} {p : CombEntry → Bool} (h : (s.core c).comb.filter p = []) : s.combFlush c p = s := by
  rw [State.combFlush, h]
  rfl

theorem State.engPull_nil (s : State) (c : CoreId) : s.engPull c [] = s := by
  have hwords : (s.core c).comb.filter (fun e => coversWord [] e.pa e.width) = [] := List.filter_eq_nil_iff.mpr fun _ _ => Bool.false_ne_true
  have hlines : (s.core c).l1.filter (fun l => coversLine [] l.line) = [] := List.filter_eq_nil_iff.mpr fun _ _ => Bool.false_ne_true
  simp only [State.engPull, State.combFlush_of_none hwords, hlines, List.foldl_nil]

/-- A core that caches and combines nothing has nothing to pull. -/
theorem State.engPull_of_idle {s : State} {c : CoreId} (hcomb : (s.core c).comb = []) (hl1 : (s.core c).l1 = []) (ps : Pages) :
    s.engPull c ps = s := by
  simp only [State.engPull, State.combFlush_of_none (by rw [hcomb]; rfl : (s.core c).comb.filter (fun e => coversWord ps e.pa e.width) = []), hl1,
    List.filter_nil, List.foldl_nil]

/-! ### The sources -/

theorem State.copySource_of_plain {s : State} {g : Group} {e : EngEntry} {k n : Nat} (hdec : (CopyCmd.parse e.cmd).dec = 0) {b : Nat → SrcByte}
    (hb : ∀ i < n, s.plainByte g (.parse e.cmd) (k + i) = .ok (b i)) :
    s.copySource g e k n = ((List.range n).map b).map .ok := by
  rw [State.copySource, hdec, List.map_map]
  exact List.map_congr_left fun i hi => hb i (List.mem_range.mp hi)

/-- A source byte in the group's scratchpad. -/
def spmSource (g : Group) (cmd : CopyCmd) (k : Nat) : SrcByte := ⟨[], fun st => st.spmByte g.core (g.spmBase + cmd.srcAt k)⟩

theorem State.plainByte_of_spm {cmd : CopyCmd} (h : cmd.sspm = true) (s : State) (g : Group) (k : Nat) :
    s.plainByte g cmd k = .ok (spmSource g cmd k) := if_pos h

/-- A source byte in memory. -/
def memSource (cmd : CopyCmd) (l : Leaf) (k : Nat) : SrcByte :=
  ⟨[(cmd.srcAt k, 1, l)], fun st => (st.readPages [(cmd.srcAt k, 1, l)]).headD 0⟩

theorem State.plainByte_of_mem {cmd : CopyCmd} (h : cmd.sspm = false) {s : State} {g : Group} {k : Nat} {l : Leaf}
    (hl : s.engPages g.whoIs .read (cmd.srcAt k) 1 = .ok [(cmd.srcAt k, 1, l)]) : s.plainByte g cmd k = .ok (memSource cmd l k) := by
  rw [State.plainByte, h, if_neg Bool.false_ne_true, hl]
  rfl

theorem pages_spmSource (g : Group) (cmd : CopyCmd) (k : Nat → Nat) (ns : List Nat) :
    (ns.map fun i => spmSource g cmd (k i)).flatMap (·.pages) = [] := by
  rw [List.flatMap_map]
  exact List.flatMap_eq_nil_iff.mpr fun _ _ => rfl

theorem pages_memSource (cmd : CopyCmd) (l : Nat → Leaf) (k : Nat → Nat) (ns : List Nat) :
    (ns.map fun i => memSource cmd (l i) (k i)).flatMap (·.pages) = ns.map fun i => (cmd.srcAt (k i), 1, l i) := by
  rw [List.flatMap_map]
  exact List.map_eq_flatMap.symm

/-! ### After the unit -/

section
variable (s : State) (c : CoreId) (ch : Nat) (g : Group) (e : EngEntry) (n : Nat) (fmt : Option (Nat × Option Fmt))

theorem State.devByte_moveHead (a : Nat) : (s.moveHead c ch g e n fmt).devByte a = s.devByte a := rfl

theorem State.spmByte_moveHead (d : CoreId) (a : Nat) : (s.moveHead c ch g e n fmt).spmByte d a = s.spmByte d a := by
  have hspm := State.core_modCore_of_kept Core.spm s c d
    (f := fun k => k.modQueue ch fun q => match q with | _ :: r => .entry { e with done := e.done + n, srcFmt := fmt } :: r | [] => [])
    (fun k => Core.modQueue_id ..) fun k => Core.modQueue_spm ..
  exact congrArg (memGet spmUnlisted · a) hspm

variable {s c ch g}

theorem State.headEntry_moveHead {e' : EngEntry} (h : (s.core c).headEntry ch = some e') :
    ((s.moveHead c ch g e n fmt).core c).headEntry ch = some { e with done := e.done + n, srcFmt := fmt } :=
  State.headEntry_setHead h

theorem State.group?_moveHead (h : s.group? c g.slot = some g) : (s.moveHead c ch g e n fmt).group? c g.slot =
    some { g with wptr := g.wptr.set ch (g.wptr.getD ch 0 + BitVec.ofNat 64 n) } :=
  State.group?_modGroup (f := fun u => { u with wptr := u.wptr.set ch (u.wptr.getD ch 0 + BitVec.ofNat 64 n) }) (fun _ => ⟨rfl, rfl⟩)
    h

end

section
variable {s : State} {g : Group} (hcore : s.hasCore g.core)

include hcore

theorem State.spmByte_grpSpmPuts_inside (hmem : s.memOk = true) (off : Nat) {bs : List Byte} {k : Nat} (hk : k < bs.length) :
    (s.grpSpmPuts g off bs).spmByte g.core (g.spmBase + off + k) = bs.getD k 0 := by
  rw [State.spmByte, State.core_grpSpmPuts hcore, memGet_memPuts (State.core_spm_wf hmem hcore), if_pos (by omega), Nat.add_sub_cancel_left]

theorem State.spmByte_grpSpmPuts_outside (hmem : s.memOk = true) {off : Nat} {bs : List Byte} {d : CoreId} {a : Nat}
    (ha : d = g.core → a < g.spmBase + off ∨ g.spmBase + off + bs.length ≤ a) : (s.grpSpmPuts g off bs).spmByte d a = s.spmByte d a := by
  by_cases hd : d = g.core
  · subst hd
    rw [State.spmByte, State.core_grpSpmPuts hcore]
    exact memGet_memPuts_of_outside (State.core_spm_wf hmem hcore) (ha rfl)
  · unfold State.spmByte State.grpSpmPuts State.spmPuts
    rw [State.core_modCore_of_ne hd]

end

end Sys2Proof.Machine
end

section
/-!
SUPPORT (O54). A delivery unit into the scratchpad, and the elements that are decoded on their way there (R121, R122).
-/
namespace Sys2Proof.Machine

/-- The machine after a unit of bytes is delivered to the scratchpad. -/
def State.spmUnit (s : State) (c : CoreId) (ch : Nat) (g : Group) (e : EngEntry) (off : Nat) (bs : List Byte) (runs : SpmRuns)
    (fmt : Option (Nat × Option Fmt)) : State :=
  ((s.grpSpmPuts g off bs).useBanks g runs).moveHead c ch g e bs.length fmt

theorem State.devByte_useBanks (s : State) (g : Group) (runs : SpmRuns) (a : Nat) : (s.useBanks g runs).devByte a = s.devByte a := rfl

theorem State.devByte_grpSpmPuts (s : State) (g : Group) (off : Nat) (bs : List Byte) (a : Nat) : (s.grpSpmPuts g off bs).devByte a = s.devByte a :=
  rfl

section
variable {s : State} {c : CoreId} {ch : Nat} {g : Group} {e : EngEntry} (hhead : s.headOf c ch = some (g, e)) (off : Nat) (bs : List Byte)
  (runs : SpmRuns) (fmt : Option (Nat × Option Fmt))

theorem State.devByte_spmUnit (a : Nat) : (s.spmUnit c ch g e off bs runs fmt).devByte a = s.devByte a := by
  rw [State.spmUnit, State.devByte_moveHead, State.devByte_useBanks, State.devByte_grpSpmPuts]

include hhead

theorem State.headEntry_spmUnit : ((s.spmUnit c ch g e off bs runs fmt).core c).headEntry ch =
    some { e with done := e.done + bs.length, srcFmt := fmt } := by
  refine State.headEntry_moveHead e bs.length fmt (e' := e) ?_
  rw [State.useBanks, State.core_modCore_of_kept (fun k => k.headEntry ch)]
  exact (State.core_modCore_of_kept (fun k => k.headEntry ch) s g.core c).trans (State.headOf_iff.mp hhead).1

theorem State.group?_spmUnit : (s.spmUnit c ch g e off bs runs fmt).group? c g.slot =
    some { g with wptr := g.wptr.set ch (g.wptr.getD ch 0 + BitVec.ofNat 64 bs.length) } := by
  obtain ⟨-, -, -, hgroup, -⟩ := State.headOf_spec hhead
  exact State.group?_moveHead e bs.length fmt (s := (s.grpSpmPuts g off bs).useBanks g runs) hgroup

variable (hmem : s.memOk = true)
include hmem

theorem State.spmByte_spmUnit_inside {k : Nat} (hk : k < bs.length) :
    (s.spmUnit c ch g e off bs runs fmt).spmByte c (g.spmBase + off + k) = bs.getD k 0 := by
  obtain ⟨hcore, rfl, -, -, -⟩ := State.headOf_spec hhead
  rw [State.spmUnit, State.spmByte_moveHead, State.spmByte_useBanks (State.hasCore.grpSpmPuts hcore off bs),
    State.spmByte_grpSpmPuts_inside hcore hmem off hk]

theorem State.spmByte_spmUnit_outside {d : CoreId} {a : Nat} (ha : d = c → a < g.spmBase + off ∨ g.spmBase + off + bs.length ≤ a) :
    (s.spmUnit c ch g e off bs runs fmt).spmByte d a = s.spmByte d a := by
  obtain ⟨hcore, rfl, -, -, -⟩ := State.headOf_spec hhead
  rw [State.spmUnit, State.spmByte_moveHead, State.spmByte_useBanks (State.hasCore.grpSpmPuts hcore off bs),
    State.spmByte_grpSpmPuts_outside hcore hmem ha]

end

/-! ### Elements under DEC -/

theorem CopyCmd.elemBytes_of_dec {c : CopyCmd} (h : c.dec = 1 ∨ c.dec = 2) : c.elemBytes = if c.dec = 1 then 4 else 2 := by
  rcases h with h | h <;> simp [CopyCmd.elemBytes, h]

theorem CopyCmd.mod_elemBytes_lt (c : CopyCmd) (k : Nat) : k % c.elemBytes < 4 := by
  unfold CopyCmd.elemBytes
  split <;> omega

/-- The element that a destination byte belongs to, in its row. -/
def CopyCmd.elemAt (c : CopyCmd) (k : Nat) : Nat := k % c.rowBytes / c.elemBytes

/-- The address of its code of `cb` bits. -/
def CopyCmd.codeVA (c : CopyCmd) (cb k : Nat) : Nat := c.src + k / c.rowBytes * c.sstride + c.elemAt k * cb / 8

/-- Its code, as a page holds it. -/
def CopyCmd.codeAt (c : CopyCmd) (cb : Nat) (l : Leaf) (k : Nat) (st : State) : Nat :=
  st.devNat (l.pa (c.codeVA cb k)) (max 1 (cb / 8)) / 2 ^ (c.elemAt k * cb % 8) % 2 ^ cb

theorem State.leNat_readPages_one (st : State) (va n : Nat) (l : Leaf) : leNat (st.readPages [(va, n, l)]) = st.devNat (l.pa va) n := by
  show leNat (st.devBytes (l.pa va) n ++ []) = _
  rw [List.append_nil]
  rfl

/-- A destination byte of an element without a block scale. -/
def decSource (c : CopyCmd) (f : Option Fmt) (l : Leaf) (k : Nat) : SrcByte :=
  let cb := fmtBits f c.raw
  let ps : Pages := [(c.codeVA cb k, max 1 (cb / 8), l)]
  ⟨ps, fun st => (leBytes 4 (decodeElem f c.raw c.dec 127 (leNat (st.readPages ps) / 2 ^ (c.elemAt k * cb % 8) % 2 ^ cb))).getD
    (k % c.rowBytes % c.elemBytes) 0⟩

theorem val_decSource (c : CopyCmd) (f : Option Fmt) (l : Leaf) (k : Nat) (st : State) :
    (decSource c f l k).val st =
      BitVec.ofNat 8 (decodeElem f c.raw c.dec 127 (c.codeAt (fmtBits f c.raw) l k st) / 256 ^ (k % c.rowBytes % c.elemBytes)) := by
  show (leBytes 4 _).getD _ 0 = _
  rw [getD_leBytes (c.mod_elemBytes_lt _), State.leNat_readPages_one]
  rfl

theorem State.decByte_of_page {s : State} {g : Group} {cmd : CopyCmd} {n : Nat} {f : Option Fmt} {k : Nat} {l : Leaf}
    (hpage : s.engPages g.whoIs .read (cmd.codeVA (fmtBits f cmd.raw) k) (max 1 (fmtBits f cmd.raw / 8)) =
      .ok [(cmd.codeVA (fmtBits f cmd.raw) k, max 1 (fmtBits f cmd.raw / 8), l)])
    (hfmt : l.fmt = n) (hblk : ∀ ft, f = some ft → ft.blk = 0) : s.decByte g cmd n f k = .ok (decSource cmd f l k) := by
  unfold State.decByte
  dsimp only
  erw [hpage]
  cases f with
  | none => simp [hfmt]; rfl
  | some ft => simp [hfmt, hblk ft rfl]; rfl

theorem State.copySource_of_decoded {s : State} {g : Group} {e : EngEntry} {k n fn : Nat} {f : Option Fmt} (hdec : (CopyCmd.parse e.cmd).dec ≠ 0)
    (hfmt : s.entryFmt g e = .ok (fn, f)) {b : Nat → SrcByte} (hb : ∀ i < n, s.decByte g (.parse e.cmd) fn f (k + i) = .ok (b i)) :
    s.copySource g e k n = ((List.range n).map b).map .ok := by
  simp only [State.copySource, beq_iff_eq, hdec, if_false, hfmt, List.map_map]
  exact List.map_congr_left fun i hi => hb i (List.mem_range.mp hi)

end Sys2Proof.Machine
end

section
/-!
SUPPORT (O54). The delivery units by source and destination: scratchpad and memory, plain and decoded (R120 to R123).
-/
namespace Sys2Proof.Machine

section
variable {s : State} {g : Group} {e : EngEntry} (hdec : (CopyCmd.parse e.cmd).dec = 0)
include hdec

theorem State.copySource_of_spm (hsrc : (CopyCmd.parse e.cmd).sspm = true) : s.copySource g e e.done ((CopyCmd.parse e.cmd).unitAt e.done) =
    ((List.range ((CopyCmd.parse e.cmd).unitAt e.done)).map fun i => spmSource g (.parse e.cmd) (e.done + i)).map .ok :=
  State.copySource_of_plain hdec fun _ _ => State.plainByte_of_spm hsrc ..

theorem State.copySource_of_mem (hsrc : (CopyCmd.parse e.cmd).sspm = false) {l : Nat → Leaf}
    (hpages : ∀ k, k < (CopyCmd.parse e.cmd).unitAt e.done → s.engPages g.whoIs .read ((CopyCmd.parse e.cmd).srcAt (e.done + k)) 1 =
      .ok [((CopyCmd.parse e.cmd).srcAt (e.done + k), 1, l k)]) :
    s.copySource g e e.done ((CopyCmd.parse e.cmd).unitAt e.done) =
      ((List.range ((CopyCmd.parse e.cmd).unitAt e.done)).map fun i => memSource (.parse e.cmd) (l i) (e.done + i)).map .ok :=
  State.copySource_of_plain hdec fun i hi => State.plainByte_of_mem hsrc (hpages i hi)

end

/-- Bytes of the scratchpad meet no error of memory. -/
theorem State.check_of_spm (s : State) (g : Group) (cmd : CopyCmd) (k : Nat → Nat) (ns : List Nat) (ecc : Ecc) :
    (s.engCheck ((ns.map fun i => spmSource g cmd (k i)).flatMap (·.pages)) ecc).check = .good := by
  rw [pages_spmSource]
  exact s.engCheck_nil ecc

section
variable {s : State} {c : CoreId} {ch : Nat} {g : Group} {e : EngEntry} {ecc : Ecc} (hch : ch < 8) (hhead : s.headOf c ch = some (g, e))
  (hstarted : e.started = true) (hmore : e.done < (CopyCmd.parse e.cmd).total)
include hch hhead hstarted hmore

section
variable (hdec : (CopyCmd.parse e.cmd).dec = 0)
include hdec

/-! ### From the scratchpad -/

section
variable (hsrc : (CopyCmd.parse e.cmd).sspm = true)
include hsrc

theorem State.deliver_spm_to_spm (hdst : (CopyCmd.parse e.cmd).dspm = true) : s.deliver c ch ecc =
    s.spmUnit c ch g e ((CopyCmd.parse e.cmd).dstAt e.done)
      ((List.range ((CopyCmd.parse e.cmd).unitAt e.done)).map fun k => s.spmByte g.core (g.spmBase + (CopyCmd.parse e.cmd).srcAt (e.done + k)))
      ((CopyCmd.parse e.cmd).spmRuns e.done) none := by
  rw [State.deliver_to_spm hch hhead hstarted hmore (State.copySource_of_spm hdec hsrc) (State.check_of_spm ..) hdst, pages_spmSource,
    State.engPull_nil, State.spmUnit, hdec, List.map_map, List.length_map, List.length_map]
  rfl

variable (hdst : (CopyCmd.parse e.cmd).dspm = false)
include hdst

theorem State.deliver_spm_to_unmapped {f : Cause}
    (h : s.engPages g.whoIs .write ((CopyCmd.parse e.cmd).dstAt e.done) ((CopyCmd.parse e.cmd).unitAt e.done) = .error f) :
    s.deliver c ch ecc = s.engFail g ch e f :=
  State.deliver_to_unmapped hch hhead hstarted hmore (State.copySource_of_spm hdec hsrc) (State.check_of_spm ..) hdst
    (by rw [List.length_map, List.length_range, h])

theorem State.deliver_spm_to_pages {ps : Pages}
    (h : s.engPages g.whoIs .write ((CopyCmd.parse e.cmd).dstAt e.done) ((CopyCmd.parse e.cmd).unitAt e.done) = .ok ps) :
    s.deliver c ch ecc = ((s.engWrite g.whoIs ps ((List.range ((CopyCmd.parse e.cmd).unitAt e.done)).map fun k =>
      s.spmByte g.core (g.spmBase + (CopyCmd.parse e.cmd).srcAt (e.done + k)))).useBanks g ((CopyCmd.parse e.cmd).spmRuns e.done)).moveHead c ch g e
        ((CopyCmd.parse e.cmd).unitAt e.done) none := by
  rw [State.deliver_to_pages hch hhead hstarted hmore (State.copySource_of_spm hdec hsrc) (State.check_of_spm ..) hdst
    (by rw [List.length_map, List.length_range, h]), pages_spmSource, State.engPull_nil, hdec, List.map_map, List.length_map, List.length_range]
  rfl

end

/-! ### From memory -/

section
variable (hsrc : (CopyCmd.parse e.cmd).sspm = false) {l : Nat → Leaf}
  (hpages : ∀ k, k < (CopyCmd.parse e.cmd).unitAt e.done → s.engPages g.whoIs .read ((CopyCmd.parse e.cmd).srcAt (e.done + k)) 1 =
    .ok [((CopyCmd.parse e.cmd).srcAt (e.done + k), 1, l k)])
include hsrc hpages

theorem State.deliver_mem_of_cause {f : Cause}
    (h : (s.engCheck ((List.range ((CopyCmd.parse e.cmd).unitAt e.done)).map fun k => ((CopyCmd.parse e.cmd).srcAt (e.done + k), 1, l k)) ecc).cause =
      some f) :
    s.deliver c ch ecc = (s.engChecked (s.engCheck ((List.range ((CopyCmd.parse e.cmd).unitAt e.done)).map fun k =>
      ((CopyCmd.parse e.cmd).srcAt (e.done + k), 1, l k)) ecc)).engFail g ch e f := by
  rw [← pages_memSource] at h ⊢
  exact State.deliver_of_cause hch hhead hstarted hmore (State.copySource_of_mem hdec hsrc hpages) h

theorem State.deliver_mem_to_spm (hdst : (CopyCmd.parse e.cmd).dspm = true) (hcomb : (s.core c).comb = []) (hl1 : (s.core c).l1 = []) :
    s.deliver c ch .good = s.spmUnit c ch g e ((CopyCmd.parse e.cmd).dstAt e.done)
      ((List.range ((CopyCmd.parse e.cmd).unitAt e.done)).map fun k => s.devByte ((l k).pa ((CopyCmd.parse e.cmd).srcAt (e.done + k))))
      ((CopyCmd.parse e.cmd).spmRuns e.done) none := by
  rw [State.deliver_to_spm hch hhead hstarted hmore (State.copySource_of_mem hdec hsrc hpages) rfl hdst, State.engPull_of_idle hcomb hl1,
    State.spmUnit, hdec, List.map_map, List.length_map, List.length_map]
  rfl

variable (hdst : (CopyCmd.parse e.cmd).dspm = false)
include hdst

theorem State.deliver_mem_to_unmapped {f : Cause}
    (h : s.engPages g.whoIs .write ((CopyCmd.parse e.cmd).dstAt e.done) ((CopyCmd.parse e.cmd).unitAt e.done) = .error f) :
    s.deliver c ch .good = s.engFail g ch e f :=
  State.deliver_to_unmapped hch hhead hstarted hmore (State.copySource_of_mem hdec hsrc hpages) rfl hdst
    (by rw [List.length_map, List.length_range, h])

theorem State.deliver_mem_to_pages {ps : Pages}
    (h : s.engPages g.whoIs .write ((CopyCmd.parse e.cmd).dstAt e.done) ((CopyCmd.parse e.cmd).unitAt e.done) = .ok ps) :
    let u := s.engPull c ((List.range ((CopyCmd.parse e.cmd).unitAt e.done)).map fun k => ((CopyCmd.parse e.cmd).srcAt (e.done + k), 1, l k))
    s.deliver c ch .good = ((u.engWrite g.whoIs ps ((List.range ((CopyCmd.parse e.cmd).unitAt e.done)).map fun k =>
      u.devByte ((l k).pa ((CopyCmd.parse e.cmd).srcAt (e.done + k))))).useBanks g []).moveHead c ch g e
        ((CopyCmd.parse e.cmd).unitAt e.done) none := by
  have hruns : (CopyCmd.parse e.cmd).spmRuns e.done = [] := by simp [CopyCmd.spmRuns, hsrc, hdst]
  intro u
  rw [State.deliver_to_pages hch hhead hstarted hmore (State.copySource_of_mem hdec hsrc hpages) rfl hdst
    (by rw [List.length_map, List.length_range, h]), pages_memSource, hdec, hruns, List.map_map, List.length_map, List.length_range]
  rfl

end
end

/-! ### Under DEC -/

/-- A unit of decoded elements. -/
theorem State.deliver_decoded {fn : Nat} {f : Option Fmt} {l : Nat → Leaf} (hdec : (CopyCmd.parse e.cmd).dec ≠ 0)
    (hdst : (CopyCmd.parse e.cmd).dspm = true) (hfmt : s.entryFmt g e = .ok (fn, f)) (hblk : ∀ ft, f = some ft → ft.blk = 0)
    (hcomb : (s.core c).comb = []) (hl1 : (s.core c).l1 = [])
    (hpages : ∀ k, k < (CopyCmd.parse e.cmd).unitAt e.done →
      s.engPages g.whoIs .read ((CopyCmd.parse e.cmd).codeVA (fmtBits f (CopyCmd.parse e.cmd).raw) (e.done + k))
        (max 1 (fmtBits f (CopyCmd.parse e.cmd).raw / 8)) =
        .ok [((CopyCmd.parse e.cmd).codeVA (fmtBits f (CopyCmd.parse e.cmd).raw) (e.done + k),
          max 1 (fmtBits f (CopyCmd.parse e.cmd).raw / 8), l k)] ∧
      (l k).fmt = fn) :
    s.deliver c ch .good = s.spmUnit c ch g e ((CopyCmd.parse e.cmd).dstAt e.done)
      ((List.range ((CopyCmd.parse e.cmd).unitAt e.done)).map fun k => (decSource (.parse e.cmd) f (l k) (e.done + k)).val s)
      ((CopyCmd.parse e.cmd).spmRuns e.done) (some (fn, f)) := by
  have hsrc := State.copySource_of_decoded (k := e.done) (n := (CopyCmd.parse e.cmd).unitAt e.done) hdec hfmt
    fun i hi => State.decByte_of_page (hpages i hi).1 (hpages i hi).2 hblk
  rw [State.deliver_to_spm hch hhead hstarted hmore hsrc rfl hdst, State.engPull_of_idle hcomb hl1, State.spmUnit,
    if_neg (by simpa using hdec), hfmt, List.map_map, List.length_map, List.length_map]
  rfl

end

end Sys2Proof.Machine
end

section
/-!
SETTLED. The copy channels, the binning queue, fences, and the failures of their entries (O54).
-/
namespace Sys2Proof.Machine

theorem getD_map_range {α : Type} (v : Nat → α) {n k : Nat} (h : k < n) (d : α) : ((List.range n).map v).getD k d = v k := by
  simp [List.getD_eq_getElem?_getD, h]

/-- Settles O54: each clause is what its step's lemma says, with the delivery taken by source and destination, a failed access by its class,
and the queues behind a fence by the place of its mark. -/
theorem engineSteps : Obligations.EngineSteps := by
  unfold Obligations.EngineSteps
  refine ⟨?start, ?deliver, ?complete, ?matrix, ?entry, ?fence, ?play, ?words⟩
  case start =>
    intro s c n g e hn hhead hoff
    have hstep : exec (.copyEntryStart c n) s = .next (if e.off || e.started || !(s.core c).needsOver e.needs then s else
        s.setHead c n { e with started := true }) := congrArg Host.Outcome.next (State.copyStart_of_head hhead hn)
    refine ⟨fun hstarted hneeds => ?_, fun h => ?_⟩
    · rw [hstep, hoff, hstarted, hneeds]
      rfl
    · rw [hstep, hoff]
      rcases h with h | h <;> simp [h]
  case deliver =>
    intro s c ch ecc g e hch hhead hstarted hmem _ cmd n dest i moved delivered
    obtain ⟨hcore, hgc, -, -, -⟩ := State.headOf_spec hhead
    have hstep : ∀ {t : State}, s.deliver c ch ecc = t → exec i s = .next t := congrArg Host.Outcome.next
    refine ⟨fun hover => hstep (State.deliver_of_over hch hhead hover), fun hmore => ?_⟩
    obtain ⟨hpos, hpiece, hend⟩ := CopyCmd.unitAt_spec hmore
    have hlen : ∀ v : Nat → Byte, ((List.range n).map v).length = n := fun v => by rw [List.length_map, List.length_range]
    have hdelivered : ∀ (v : Nat → Byte) (runs : SpmRuns), delivered (s.spmUnit c ch g e dest ((List.range n).map v) runs none) :=
        fun v runs => by
      have hentry := State.headEntry_spmUnit hhead dest ((List.range n).map v) runs none
      have hgroup := State.group?_spmUnit hhead dest ((List.range n).map v) runs none
      rw [hlen] at hentry hgroup
      exact ⟨hentry, hgroup⟩
    have hinside : ∀ (v : Nat → Byte) (runs : SpmRuns) fmt k, k < n →
        (s.spmUnit c ch g e dest ((List.range n).map v) runs fmt).spmByte c (g.spmBase + dest + k) = v k := fun v runs fmt k hk => by
      rw [State.spmByte_spmUnit_inside hhead dest _ runs fmt hmem (by rwa [hlen]), getD_map_range v hk]
    refine ⟨hpos, hpiece, hend, ?bad, ?spmToSpm, ?spmToMem, ?memToMem, ?decoded, ?memToSpm⟩
    case bad => exact fun f hbad _ => hstep (State.deliver_of_bad hch hhead hstarted hmore hbad)
    case spmToSpm =>
      intro hdec hsrc hdst
      refine ⟨_, hstep (State.deliver_spm_to_spm hch hhead hstarted hmore hdec hsrc hdst), hdelivered _ _, fun a =>
        State.devByte_spmUnit .., fun k hk => ?_, fun d a ha =>
        State.spmByte_spmUnit_outside hhead dest _ _ none hmem fun hd => by rw [hlen]; exact ha hd⟩
      rw [hinside _ _ _ k hk, hgc]
    case spmToMem =>
      rintro hdec hsrc hdst rfl
      refine ⟨fun f hf => hstep (State.deliver_spm_to_unmapped hch hhead hstarted hmore hdec hsrc hdst hf), fun ps hps => ?_⟩
      have hrun := hstep (State.deliver_spm_to_pages hch hhead hstarted hmore hdec hsrc hdst hps)
      rwa [hgc] at hrun
    case memToMem =>
      rintro l hdec hsrc hdst rfl hpages
      exact ⟨fun f hf => hstep (State.deliver_mem_to_unmapped hch hhead hstarted hmore hdec hsrc hpages hdst hf), fun ps hps =>
        hstep (State.deliver_mem_to_pages hch hhead hstarted hmore hdec hsrc hpages hdst hps)⟩
    case decoded =>
      rintro l fn f hdec hsrc hdst rfl hfmt hblk hcomb hl1 cb size elem va code value hpages
      have hsize : cmd.elemBytes = size := CopyCmd.elemBytes_of_dec hdec
      have hrow : cmd.rowBytes = cmd.rowLen * size := by rw [CopyCmd.rowBytes, hsize]
      have hva : ∀ k, cmd.codeVA cb (e.done + k) = va k := fun k => by rw [CopyCmd.codeVA, CopyCmd.elemAt, hrow, hsize]
      have hcode : ∀ k, cmd.codeAt cb (l k) (e.done + k) s = code k := fun k => by rw [CopyCmd.codeAt, CopyCmd.elemAt, hva, hrow, hsize]
      have hvalue : ∀ k, decodeElem f cmd.raw cmd.dec 127 (code k) = if cmd.dec = 1 then value k else f32To bf16 (value k) := fun k => by
        rcases hdec with h | h <;> rw [h] <;> rfl
      have hrun := State.deliver_decoded hch hhead hstarted hmore (by rcases hdec with h | h <;> simp [cmd, h]) hdst hfmt hblk hcomb hl1
        fun k hk => by rw [hva]; exact hpages k hk
      refine ⟨_, hstep hrun, fun a => State.devByte_spmUnit .., ?_, fun k hk => ?_⟩
      · rw [State.headEntry_spmUnit hhead, hlen]
      · rw [hinside _ _ _ k hk, val_decSource, hcode, hvalue, hrow, hsize]
    case memToSpm =>
      intro l hdec hsrc hdst hpages ck
      refine ⟨fun f hf => hstep (State.deliver_mem_of_cause hch hhead hstarted hmore hdec hsrc hpages hf), ?_⟩
      rintro rfl hcomb hl1
      exact ⟨_, hstep (State.deliver_mem_to_spm hch hhead hstarted hmore hdec hsrc hpages hdst hcomb hl1), hdelivered _ _,
        fun a => State.devByte_spmUnit .., hinside _ _ _⟩
  case complete =>
    intro s c n g e hhead written
    have hlanded : s.landed g = true ↔ written := State.landed_iff
    have hcomplete : ∀ hn : n < 8, exec (.copyEntryComplete c n) s = .next (if e.started && (CopyCmd.parse e.cmd).total ≤ e.done &&
        s.landed g then s.completeEntry g n e else s) := fun hn => congrArg Host.Outcome.next (State.copyComplete_of_head hhead hn)
    have hoff : ∀ hn : n < 10, exec (.guardedOffEntry c n e.slot) s = .next (if e.off && (s.core c).needsOver e.needs then
        s.completeEntry g n e else s) := fun hn => congrArg Host.Outcome.next (State.guardedOff_of_head hhead hn)
    refine ⟨?ended, ?waits, ?offEnded, ?offWaits, ?played⟩
    case ended =>
      intro hn hstarted hdone hwritten
      rw [hcomplete hn, hstarted, decide_eq_true hdone, hlanded.mpr hwritten]
      rfl
    case waits =>
      intro hn hstarted h
      rw [hcomplete hn]
      refine congrArg Host.Outcome.next (if_neg fun hall => ?_)
      simp only [Bool.and_eq_true, decide_eq_true_eq, hlanded] at hall
      rcases h with h | h
      · omega
      · exact h hall.2
    case offEnded =>
      intro hn hguard hneeds
      rw [hoff hn, hguard, hneeds]
      rfl
    case offWaits =>
      intro hn hguard hneeds
      rw [hoff hn, hguard, hneeds]
      rfl
    case played =>
      rintro rfl hguard hneeds hdone ecc
      exact congrArg Host.Outcome.next (State.binplay_of_done hhead hguard hneeds hdone ecc)
  case matrix => exact fun s c g m q hgroup hq hoff => congrArg Host.Outcome.next (State.guardedOff_of_mx hgroup hq hoff)
  case entry =>
    intro s g n e hn hgroup hhead hslot
    refine ⟨?noCounter, fun b hctr => State.completeEntry_of_local hgroup hhead hctr, ?unmapped, ?failed⟩
    case noCounter => exact fun hctr => State.completeEntry_of_ok (by rw [hctr]; rfl)
    case unmapped => exact fun va f hctr hf => State.completeEntry_of_error (by rw [hctr]; exact State.engineAdd_of_unmapped hf ..)
    case failed =>
      intro f t named
      have hnamed : ∀ o, o ∈ s.fencesIn g n ↔ named o := fun o => State.mem_fencesIn
      obtain ⟨q, hgroup', hpage, hmarks⟩ := State.group?_engFail (n := n) (e := e) (f := f) hgroup
      refine ⟨⟨_, _, hgroup', rfl, rfl, rfl, rfl, rfl, rfl, hpage, hmarks⟩, State.queue_engFail_of_page hhead, fun hcls =>
        ⟨State.entry_mem_engFail hhead hn hcls, fun o ho => ?_, fun fid => ?_⟩⟩
      · obtain ⟨hmem, hout⟩ := State.fences_of_engFail hhead hcls o ho
        exact ⟨hmem, fun h => hout ((hnamed o).mpr h)⟩
      · simpa only [hnamed] using State.fence_mem_engFail hhead hn hcls fid
  case fence =>
    intro s c f g hfence hgroup htraps i heads
    obtain ⟨rfl, hslot⟩ := State.group?_some hgroup
    have hstep : ∀ {t : State}, s.fenceComplete g.core f.fid = t → exec i s = .next t := congrArg Host.Outcome.next
    have hcore : s.hasCore g.core := State.hasCore_of_fence (List.mem_of_find?_eq_some hfence)
    refine ⟨?waits, ?added, ?failed, ?behind, ?none⟩
    case waits => exact fun h => hstep (State.fenceComplete_of_wait hgroup hfence h)
    case added => exact fun s1 h hadd => hstep (State.fenceComplete_of_ok hgroup hfence htraps h hadd)
    case failed =>
      intro x h hadd
      have hrun := hstep (State.fenceComplete_of_error hgroup hfence htraps h hadd)
      exact ⟨fun hcls => by rwa [if_pos hcls] at hrun, fun hcls => by rwa [if_neg hcls] at hrun⟩
    case behind =>
      intro n pre post hn hmask hqueue hpre
      exact ⟨fun o ho hslot hpost => State.fencesBehind_of_mem hn hmask hqueue hpre ho hslot hpost, fun o ho => State.mem_of_fencesBehind ho,
        State.queue_discardBehind hn hmask hqueue hpre hcore⟩
    case none =>
      intro h hctr
      exact ⟨_, hstep (State.fenceComplete_of_ok hgroup hfence htraps h (by rw [hctr]; rfl)), fun n hn => State.queue_dropFence hcore f hn,
        State.fences_dropFence hcore f⟩
  case play =>
    intro s c g e hhead hoff hneeds hdone cmd a fin
    exact ⟨fun p hp => ⟨fun ecc f hf => congrArg Host.Outcome.next (State.binplay_of_cause hhead hoff hneeds hdone hp hf),
      congrArg Host.Outcome.next (State.binplay_of_pages hhead hoff hneeds hdone hp)⟩,
      fun f ecc hf => congrArg Host.Outcome.next (State.binplay_of_unmapped hhead hoff hneeds hdone hf ecc)⟩
  case words =>
    intro op shift es fs ws i hlen hi hes
    exact ⟨length_playAll .., playAll_append .., playAll_words hlen hi hes⟩

end Sys2Proof.Machine
end

section
/-!
SUPPORT (O11, O13 to O16). The ALU and the SFU: one meaning for all their instructions.
-/
namespace Sys2Proof.Machine

/-- Every instruction of the ALU or the SFU issues its operation, and moves past its own words. -/
theorem exec_of_aluOf {s : State} {i : Instr} {opc : BitVec 8} {x : LongOp} {op : Alu} (hl : i.long? = some (opc, x)) (ha : aluOf i = some op) :
    exec i s = s.issueAlu (longLen x) opc x op := by
  cases i
  case iadd | isub | imul | imulh | imad | imin | imax | iabs | ineg | idiv | lea | iset | sel | mov | idp4 | plop | andB | orB | xorB | btab | notB
      | shl | shr | sar | shf | bfe | bfi | popc | clz | ctz | brev | fadd | fsub | fmul | ffma | fmin | fmax | fset | fclass | frnd | fdot2 |
      fscale | cvt | rcp | rsq | sqrt | exp2 | log2 | sin | cos | tanh | fdiv =>
    cases hl; cases ha; rfl
  case cvtpk y | cvtupk y =>
    obtain ⟨hty, hop⟩ := Option.ite_none_right_eq_some.mp ha
    cases hl; cases hop
    exact if_pos hty
  all_goals cases ha

/-- An instruction that is met completes. -/
theorem AluReady.exec_eq {s : State} {w : Warp} {i : Instr} {x : LongOp} {op : Alu} (h : AluReady s w i x op) :
    exec i s = .next (s.retire (op.after w x) (longLen x) (op.cycles w x)) := by
  obtain ⟨opc, hl, ha, hiss, -, hfit⟩ := h
  rw [exec_of_aluOf hl ha, issueAlu_next _ hiss hfit]

theorem AluReady.warp?_cur {s : State} {w : Warp} {i : Instr} {x : LongOp} {op : Alu} (h : AluReady s w i x op) : s.warp? s.cur = some w := by
  obtain ⟨opc, -, -, ⟨hstands, -⟩, -, -⟩ := h
  exact hstands.1

/-- Settles O11: what the instruction runs is `issueAlu`, and one that is met retires. -/
theorem aluCompletes : Obligations.AluCompletes := by
  intro i s w x op h
  exact h.exec_eq

/-- Settles O14: the destination of a legal instruction can be written, and holds what `retire_after_holds` says. -/
theorem aluWritesDestination : Obligations.AluWritesDestination := by
  intro i s w x op h hp
  have hregs : w.regsOk = true := by obtain ⟨opc, -, -, -, hregs, -⟩ := h; exact hregs
  obtain ⟨w', hw', hflags, hsdst, hdst⟩ := retire_after_holds (longLen x) (op.cycles w x) h.warp?_cur hp (h.dstOk hp) hregs
  refine ⟨_, w', h.exec_eq, hw', hflags, fun hs => hsdst hs ?_, hdst⟩
  simp [Alu.once, hp, hs]

end Sys2Proof.Machine
end

section
/-!
SUPPORT (O15). What an ALU instruction leaves alone in its warp.
-/
namespace Sys2Proof.Machine

section
variable (w : Warp) {n k u : Nat} {m : Mask}

theorem Warp.setV_write_get {sh : Shape} {f : Nat → Word} (hu : u < 32) (h : m.getLsbD u = false ∨ n ≠ k) :
    ((w.setV k ((w.getV k).write m sh f)).getV n).get u = (w.getV n).get u := by
  rcases Nat.lt_or_ge k w.v.length with hk | hk
  · rw [Warp.getV_setV _ _ hk]
    split
    next hn =>
      subst hn
      rw [VReg.write_get _ _ _ _ hu, h.resolve_right (absurd rfl), if_neg Bool.false_ne_true]
    · rfl
  · rw [Warp.setV, List.set_eq_of_length_le hk]

theorem Warp.setQ_write_get {sh : Shape} {f : Nat → Word} (hu : u < 32) (h : m.getLsbD u = false ∨ n ≠ k) :
    ((w.setQ k ((w.getQ k).write m sh f)).getQ n).get u = (w.getQ n).get u := by
  rcases Nat.lt_or_ge k w.q.length with hk | hk
  · rw [Warp.getQ_setQ _ _ hk]
    split
    next hn =>
      subst hn
      rw [VReg.write_get _ _ _ _ hu, h.resolve_right (absurd rfl), if_neg Bool.false_ne_true]
    · rfl
  · rw [Warp.setQ, List.set_eq_of_length_le hk]

theorem Warp.getS_setS_of_ne {y : Word} (h : n ≠ k) : (w.setS k y).getS n = w.getS n := by
  simp only [Warp.getS, Warp.setS, List.getD_eq_getElem?_getD, List.getElem?_set_ne h.symm]

theorem Warp.setP_getP_getLsbD {y : Mask} (h : m.getLsbD u = false ∨ n ≠ k) : ((w.setP k m y).getP n).getLsbD u = (w.getP n).getLsbD u := by
  unfold Warp.setP
  split
  · rfl
  next hk =>
    simp only [Warp.getP, List.getD_eq_getElem?_getD]
    split
    · rfl
    next hn =>
      by_cases hnk : n = k
      · subst hnk
        rcases Nat.lt_or_ge n w.p.length with hlen | hlen
        · simpa [hlen, h.resolve_right (absurd rfl)] using BitVec.lt_of_getLsbD
        · rw [List.set_eq_of_length_le hlen]
      · rw [List.getElem?_set_ne (Ne.symm hnk)]

variable {d : Sel} {wide : Bool} {sh : Shape} {f : Nat → DWord}

/-- A v register keeps what a thread holds in it, unless the thread writes, and it is the destination or its odd half. -/
theorem Warp.writeDst_getV_get (hu : u < 32) {i : Fin 192}
    (h : m.getLsbD u = false ∨ (d ≠ .v i ∧ ∀ h : 0 < i.val, wide = true → d ≠ .v ⟨i.val - 1, by omega⟩)) :
    ((w.writeDst d wide m sh f).getV i.val).get u = (w.getV i.val).get u := by
  cases d with
  | v j =>
    have heven : m.getLsbD u = false ∨ i.val ≠ j.val := h.imp_right fun hd hij => hd.1 (congrArg _ (Fin.ext hij.symm))
    cases wide with
    | false => exact w.setV_write_get hu heven
    | true =>
      have hodd : m.getLsbD u = false ∨ i.val ≠ j.val + 1 := h.imp_right fun hd hij => by
        refine hd.2 (by omega) rfl (congrArg _ (Fin.ext ?_))
        show j.val = i.val - 1
        omega
      exact (Warp.setV_write_get _ hu hodd).trans (w.setV_write_get hu heven)
  | s j => cases wide <;> rfl
  | _ => rfl

theorem Warp.writeDst_getQ_get (hu : u < 32) {i : Fin 8} (h : m.getLsbD u = false ∨ d ≠ .q i) :
    ((w.writeDst d wide m sh f).getQ i.val).get u = (w.getQ i.val).get u := by
  cases d with
  | q j => exact w.setQ_write_get hu (h.imp_right fun hd hij => hd (congrArg _ (Fin.ext hij.symm)))
  | v j => cases wide <;> rfl
  | s j => cases wide <;> rfl
  | _ => rfl

theorem Warp.writeDst_lr_get (hu : u < 32) (h : m.getLsbD u = false ∨ selIsS d = true) :
    (w.writeDst d wide m sh f).lr.get u = w.lr.get u := by
  have hwrite (r : VReg) {g : Nat → Word} (hm : m.getLsbD u = false) : (r.write m sh g).get u = r.get u := by
    rw [VReg.write_get _ _ _ _ hu, hm, if_neg Bool.false_ne_true]
  cases d with
  | s j => cases wide <;> rfl
  | lr =>
    have hm := h.resolve_right (by decide)
    exact (hwrite _ hm).trans (hwrite _ hm)
  | v j =>
    have hm := h.resolve_right Bool.false_ne_true
    cases wide <;> exact hwrite _ hm
  | _ => exact hwrite _ (h.resolve_right Bool.false_ne_true)

theorem Warp.writeDst_getS {i : Fin 64} (h : d ≠ .s i ∧ ∀ h : 0 < i.val, wide = true → d ≠ .s ⟨i.val - 1, by omega⟩) :
    (w.writeDst d wide m sh f).getS i.val = w.getS i.val := by
  cases d with
  | s j =>
    have heven : i.val ≠ j.val := fun hij => h.1 (congrArg _ (Fin.ext hij.symm))
    cases wide with
    | false => exact w.getS_setS_of_ne heven
    | true =>
      have hodd : i.val ≠ j.val + 1 := fun hij => by
        refine h.2 (by omega) rfl (congrArg _ (Fin.ext ?_))
        show j.val = i.val - 1
        omega
      exact (Warp.getS_setS_of_ne _ hodd).trans (w.getS_setS_of_ne heven)
  | v j => cases wide <;> rfl
  | _ => rfl

end

/-- What an ALU instruction does to its warp: nothing, where no thread writes; else it writes the flags and either a predicate, or another
destination under a tag that is general unless all 32 threads write (R144, R145, R148). -/
theorem Alu.after_cases (op : Alu) (w : Warp) (x : LongOp) :
    op.after w x = w ∨
    (op.pdst = true ∧ ∃ fl y, op.after w x = (w.orFlags fl).setP (predNo x.d) (op.threads w x) y) ∨
    (op.pdst = false ∧ ∃ fl sh, (sh = .general ∨ (op.threads w x = BitVec.allOnes 32 ∧ sh = op.shape w x)) ∧
      op.after w x = (w.orFlags fl).writeDst x.d op.wide (op.threads w x) sh fun t => (op.result w x t).1) := by
  unfold Alu.after
  dsimp only
  split
  · exact .inl rfl
  · cases hp : op.pdst with
    | true => exact .inr (.inl ⟨rfl, _, _, by rw [Alu.write, hp]; rfl⟩)
    | false =>
      refine .inr (.inr ⟨rfl, _, _, ?_, by rw [Alu.write, hp]; rfl⟩)
      split
      next hall => exact .inr ⟨by simpa using hall, rfl⟩
      · exact .inl rfl

section
variable (op : Alu) (w : Warp) (x : LongOp)

/-- EXEC, the tile predicates, the counts of outstanding instructions and VREGS stay. -/
theorem Alu.after_frame : (op.after w x).exec = w.exec ∧ (op.after w x).k = w.k ∧ (op.after w x).gld = w.gld ∧ (op.after w x).gst = w.gst ∧
    (op.after w x).spm = w.spm ∧ (op.after w x).vregs = w.vregs := by
  rcases op.after_cases w x with h | ⟨-, fl, y, h⟩ | ⟨-, fl, sh, -, h⟩ <;> rw [h]
  · exact ⟨rfl, rfl, rfl, rfl, rfl, rfl⟩
  · simp [Warp.orFlags]
  · simp [Warp.orFlags]

theorem Alu.after_getV_get {i : Fin 192} {u : Nat} (hu : u < 32) (h : (op.threads w x).getLsbD u = false ∨ op.pdst = true ∨
      (x.d ≠ .v i ∧ ∀ h : 0 < i.val, op.wide = true → x.d ≠ .v ⟨i.val - 1, by omega⟩)) :
    ((op.after w x).getV i.val).get u = (w.getV i.val).get u := by
  rcases op.after_cases w x with he | ⟨-, fl, y, he⟩ | ⟨hp, fl, sh, -, he⟩ <;> rw [he]
  · simp [Warp.getV, Warp.orFlags]
  · simp only [hp, Bool.false_eq_true, false_or] at h
    exact Warp.writeDst_getV_get _ hu h

theorem Alu.after_getQ_get {i : Fin 8} {u : Nat} (hu : u < 32) (h : (op.threads w x).getLsbD u = false ∨ op.pdst = true ∨ x.d ≠ .q i) :
    ((op.after w x).getQ i.val).get u = (w.getQ i.val).get u := by
  rcases op.after_cases w x with he | ⟨-, fl, y, he⟩ | ⟨hp, fl, sh, -, he⟩ <;> rw [he]
  · simp [Warp.getQ, Warp.orFlags]
  · simp only [hp, Bool.false_eq_true, false_or] at h
    exact Warp.writeDst_getQ_get _ hu h

theorem Alu.after_lr_get {u : Nat} (hu : u < 32) (h : (op.threads w x).getLsbD u = false ∨ op.pdst = true ∨ selIsS x.d = true) :
    (op.after w x).lr.get u = w.lr.get u := by
  rcases op.after_cases w x with he | ⟨-, fl, y, he⟩ | ⟨hp, fl, sh, -, he⟩ <;> rw [he]
  · simp [Warp.orFlags]
  · simp only [hp, Bool.false_eq_true, false_or] at h
    exact Warp.writeDst_lr_get _ hu h

theorem Alu.after_getS {i : Fin 64} (h : op.pdst = true ∨ (x.d ≠ .s i ∧ ∀ h : 0 < i.val, op.wide = true → x.d ≠ .s ⟨i.val - 1, by omega⟩)) :
    (op.after w x).getS i.val = w.getS i.val := by
  rcases op.after_cases w x with he | ⟨-, fl, y, he⟩ | ⟨hp, fl, sh, -, he⟩ <;> rw [he]
  · simp [Warp.getS, Warp.orFlags]
  · simp only [hp, Bool.false_eq_true, false_or] at h
    exact Warp.writeDst_getS _ h

theorem Alu.after_getP_getLsbD {n u : Nat} (h : (op.threads w x).getLsbD u = false ∨ op.pdst = false ∨ predNo x.d ≠ n) :
    ((op.after w x).getP n).getLsbD u = (w.getP n).getLsbD u := by
  rcases op.after_cases w x with he | ⟨hp, fl, y, he⟩ | ⟨-, fl, sh, -, he⟩ <;> rw [he]
  · simp only [hp, Bool.true_eq_false, false_or] at h
    exact Warp.setP_getP_getLsbD _ (h.imp_right Ne.symm)
  · simp [Warp.getP, Warp.orFlags]

end

/-- Settles O15: the machine changes as `retire` does, and the warp as `after` does. -/
theorem aluFrame : Obligations.AluFrame := by
  intro i s w x op h
  have hid : (op.after w x).id = s.cur := by rw [Alu.after_id, State.warp?_id h.warp?_cur]
  obtain ⟨hexec, hk, hgld, hgst, hspm, hvregs⟩ := op.after_frame w x
  refine ⟨_, _, h.exec_eq, State.retire_self _ _ h.warp?_cur hid, fun id hne => State.retire_other _ _ _ _ (by rwa [hid]),
    fun _ => rfl, fun _ _ => rfl, rfl, rfl, rfl, rfl, rfl, rfl, hexec, hk, hgld, hgst, hspm, hvregs, ?_, ?_, ?_, ?_, ?_⟩
  · exact fun n u hu => op.after_getV_get w x hu
  · exact fun n u hu => op.after_getQ_get w x hu
  · exact fun u hu => op.after_lr_get w x hu
  · exact fun n => op.after_getS w x
  · exact fun n u => op.after_getP_getLsbD w x

end Sys2Proof.Machine
end

section
/-!
SUPPORT (O16). What a shape tag tells about the values of 32 threads, and the sums, products and shifts of such values (R145, R146).
-/
namespace Sys2Proof.Machine

/-- A shape tells the values of the 32 threads: thread t has base + stride × t (R145). -/
def Shape.Tells (sh : Shape) (f : Nat → Word) : Prop :=
  match sh with
  | .general => True
  | .uniform b => ∀ t < 32, f t = b
  | .affine b st => ∀ t < 32, f t = b + st * BitVec.ofNat 32 t

theorem VReg.tagTrue_iff {r : VReg} : r.tagTrue = true ↔ r.tag.Tells r.get := by
  obtain ⟨tag, vals⟩ := r
  cases tag <;> simp [VReg.tagTrue, Shape.Tells]

theorem Shape.Tells.congr {sh : Shape} {f g : Nat → Word} (h : sh.Tells f) (hfg : ∀ t < 32, g t = f t) : sh.Tells g := by
  cases sh with
  | general => trivial
  | uniform b => exact fun t ht => (hfg t ht).trans (h t ht)
  | affine b st => exact fun t ht => (hfg t ht).trans (h t ht)

/-- A tag whose base is taken from thread 0 still tells what it told. -/
theorem Shape.Tells.based {sh : Shape} {f : Nat → Word} (h : sh.Tells f) : (sh.based (f 0)).Tells f := by
  cases sh with
  | uniform b => exact fun t ht => (h t ht).trans (h 0 (by decide)).symm
  | general => exact h
  | affine b st => exact h

/-- Uniform and affine alike: the values lie on the line of the shape's base and stride. -/
theorem Shape.Tells.line {sh : Shape} {f : Nat → Word} (h : sh.Tells f) (hg : sh.isGeneral = false) {t : Nat} (ht : t < 32) :
    f t = sh.base + sh.stride * BitVec.ofNat 32 t := by
  cases sh with
  | general => cases hg
  | uniform b => simpa [Shape.base, Shape.stride] using h t ht
  | affine b st => exact h t ht

theorem Shape.tells_mk' {b st : Word} {f : Nat → Word} (h : ∀ t < 32, f t = b + st * BitVec.ofNat 32 t) : (Shape.mk' b st).Tells f := by
  unfold Shape.mk'
  split
  next hst =>
    intro t ht
    simpa [eq_of_beq hst] using h t ht
  · exact h

@[simp] theorem Shape.mk'_base (b st : Word) : (Shape.mk' b st).base = b := by unfold Shape.mk'; split <;> rfl
@[simp] theorem Shape.mk'_stride (b st : Word) : (Shape.mk' b st).stride = st := by
  unfold Shape.mk'
  split
  next h => exact (eq_of_beq h).symm
  · rfl

@[simp] theorem Shape.mk'_isGeneral (b st : Word) : (Shape.mk' b st).isGeneral = false := by unfold Shape.mk'; split <;> rfl

theorem Shape.stride_of_isU {sh : Shape} (h : sh.isU = true) : sh.stride = 0 := by
  cases sh with
  | uniform b => rfl
  | general => rfl
  | affine b st => cases h

/-- A product of which one factor alone is affine has a shape. -/
theorem affMul_isGeneral {a b : Shape} (ga : a.isGeneral = false) (gb : b.isGeneral = false) (h : (a.isAffine != b.isAffine) = true) :
    (affMul a b).isGeneral = false := by
  cases b with
  | general => cases gb
  | uniform y => exact Shape.mk'_isGeneral ..
  | affine y z =>
    cases a with
    | general => cases ga
    | uniform x => exact Shape.mk'_isGeneral ..
    | affine x v => cases h

section
variable {a b c : Shape} {f g h : Nat → Word} (ha : a.Tells f) (hb : b.Tells g) (hc : c.Tells h)
  (ga : a.isGeneral = false) (gb : b.isGeneral = false) (gc : c.isGeneral = false)
include ha ga

theorem tells_affNeg : (Shape.mk' (-a.base) (-a.stride)).Tells fun t => -f t := by
  refine Shape.tells_mk' fun t ht => ?_
  rw [ha.line ga ht]
  ring

include hb gb

theorem tells_affAdd : (affAdd a b).Tells fun t => f t + g t := by
  refine Shape.tells_mk' fun t ht => ?_
  rw [ha.line ga ht, hb.line gb ht]
  ring

theorem tells_affSub : (affSub a b).Tells fun t => f t - g t := by
  refine Shape.tells_mk' fun t ht => ?_
  rw [ha.line ga ht, hb.line gb ht]
  ring

theorem tells_affMul : (affMul a b).Tells fun t => f t * g t := by
  unfold affMul
  split
  next hu =>
    refine Shape.tells_mk' fun t ht => ?_
    rw [ha.line ga ht, hb.line gb ht, Shape.stride_of_isU hu]
    ring
  · split
    next hu =>
      refine Shape.tells_mk' fun t ht => ?_
      rw [ha.line ga ht, hb.line gb ht, Shape.stride_of_isU hu]
      ring
    · trivial

theorem tells_affShl : (affShl a b).Tells fun t => f t <<< ((g t).setWidth 8).toNat := by
  unfold affShl
  split
  next hu =>
    refine Shape.tells_mk' fun t ht => ?_
    rw [ha.line ga ht, hb.line gb ht, Shape.stride_of_isU hu, zero_mul, add_zero]
    simp only [BitVec.shiftLeft_eq_mul_twoPow]
    ring
  · trivial

include hc gc

theorem tells_affMad : (affMad a b c).Tells fun t => f t * g t + h t := by
  unfold affMad
  split
  next hne =>
    exact tells_affAdd (tells_affMul ha hb ga gb) hc (affMul_isGeneral ga gb hne) gc
  · trivial

end

end Sys2Proof.Machine
end

section
/-!
SUPPORT (O16). The shapes of sources and results (R146): a result's shape tells its values.
-/
namespace Sys2Proof.Machine

/-! ### Registers -/

/-- Every tag of a warp says the truth: register by register. -/
theorem Warp.tagsTrue_iff {w : Warp} :
    w.tagsTrue = true ↔ (∀ r ∈ w.v, r.tagTrue = true) ∧ (∀ r ∈ w.q, r.tagTrue = true) ∧ w.lr.tagTrue = true := by
  simp only [Warp.tagsTrue, Bool.and_eq_true, List.all_eq_true, and_assoc]

theorem VReg.uniform_tagTrue (b : Word) : (VReg.uniform b).tagTrue = true := by
  refine VReg.tagTrue_iff.mpr fun t ht => ?_
  simp [VReg.get, VReg.uniform, List.getD_eq_getElem?_getD, ht, -List.reduceReplicate]

theorem tagTrue_getD {l : List VReg} (h : ∀ r ∈ l, r.tagTrue = true) (n : Nat) : (l.getD n (VReg.uniform 0)).tagTrue = true := by
  rcases Nat.lt_or_ge n l.length with hn | hn
  · rw [List.getD_eq_getElem _ _ hn]
    exact h _ (List.getElem_mem hn)
  · rw [List.getD_eq_default _ _ hn]
    exact VReg.uniform_tagTrue 0

section
variable {w : Warp} (h : w.tagsTrue = true)
include h

theorem Warp.getV_tagTrue (n : Nat) : (w.getV n).tagTrue = true := tagTrue_getD (Warp.tagsTrue_iff.mp h).1 n
theorem Warp.getQ_tagTrue (n : Nat) : (w.getQ n).tagTrue = true := tagTrue_getD (Warp.tagsTrue_iff.mp h).2.1 n
theorem Warp.lr_tagTrue : w.lr.tagTrue = true := (Warp.tagsTrue_iff.mp h).2.2

theorem Warp.setV_tagsTrue {n : Nat} {r : VReg} (hr : r.tagTrue = true) : (w.setV n r).tagsTrue = true := by
  obtain ⟨hv, hq, hlr⟩ := Warp.tagsTrue_iff.mp h
  refine Warp.tagsTrue_iff.mpr ⟨fun y hy => ?_, hq, hlr⟩
  rcases List.mem_or_eq_of_mem_set hy with hy | rfl
  · exact hv y hy
  · exact hr

theorem Warp.setQ_tagsTrue {n : Nat} {r : VReg} (hr : r.tagTrue = true) : (w.setQ n r).tagsTrue = true := by
  obtain ⟨hv, hq, hlr⟩ := Warp.tagsTrue_iff.mp h
  refine Warp.tagsTrue_iff.mpr ⟨hv, fun y hy => ?_, hlr⟩
  rcases List.mem_or_eq_of_mem_set hy with hy | rfl
  · exact hq y hy
  · exact hr

theorem Warp.setLr_tagsTrue {r : VReg} (hr : r.tagTrue = true) : (w.setLr r).tagsTrue = true := by
  obtain ⟨hv, hq, -⟩ := Warp.tagsTrue_iff.mp h
  exact Warp.tagsTrue_iff.mpr ⟨hv, hq, hr⟩

end

/-! ### Writes -/

/-- A register written in some threads is general, or written in all 32 with values that its shape tells: its tag says the truth. -/
def WriteTells (m : Mask) (sh : Shape) (f : Nat → Word) : Prop := sh = .general ∨ (m = BitVec.allOnes 32 ∧ (sh.based (f 0)).Tells f)

theorem VReg.write_tagTrue {m : Mask} {sh : Shape} {f : Nat → Word} (h : WriteTells m sh f) (r : VReg) : (r.write m sh f).tagTrue = true := by
  rcases h with rfl | ⟨rfl, htells⟩
  · rfl
  · refine VReg.tagTrue_iff.mpr (htells.congr fun t ht => ?_)
    rw [VReg.write_get _ _ _ _ ht, if_pos (BitVec.getLsbD_allOnes.trans (decide_eq_true ht))]

theorem Warp.writeDst_tagsTrue {w : Warp} (h : w.tagsTrue = true) {d : Sel} {wide : Bool} {m : Mask} {sh : Shape} {f : Nat → DWord}
    (hlo : WriteTells m sh fun t => (f t).lo) (hhi : wide = true → WriteTells m sh fun t => (f t).hi) :
    (w.writeDst d wide m sh f).tagsTrue = true := by
  cases d with
  | v n =>
    have heven := Warp.setV_tagsTrue h (VReg.write_tagTrue hlo (w.getV n.val)) (n := n.val)
    refine Warp.setLr_tagsTrue ?_ (VReg.write_tagTrue hlo _)
    cases wide with
    | false => exact heven
    | true => exact Warp.setV_tagsTrue heven (VReg.write_tagTrue (hhi rfl) _)
  | q n => exact Warp.setLr_tagsTrue (Warp.setQ_tagsTrue h (VReg.write_tagTrue hlo _)) (VReg.write_tagTrue hlo _)
  | lr => exact Warp.setLr_tagsTrue (Warp.setLr_tagsTrue h (VReg.write_tagTrue hlo _)) (VReg.write_tagTrue hlo _)
  | s n => cases wide <;> exact h
  | _ => exact Warp.setLr_tagsTrue h (VReg.write_tagTrue hlo _)

/-! ### Sources -/

theorem Shape.Tells.const {sh : Shape} {f : Nat → Word} (h : sh.Tells f) (hu : sh.isU = true) {t : Nat} (ht : t < 32) : f t = f 0 := by
  cases sh with
  | uniform b => exact (h t ht).trans (h 0 (by decide)).symm
  | general => cases hu
  | affine b st => cases hu

theorem Shape.isU_of_pair {a b : Shape} (h : (a.pair b).isU = true) : a.isU = true ∧ b.isU = true := by
  cases a <;> cases b <;> first | exact ⟨rfl, rfl⟩ | cases h

/-- pt holds in every thread (R141). -/
theorem Warp.src_pt (w : Warp) (lit : Option Word) {t : Nat} (ht : t < 32) : w.src lit .pred (.v 7) t = 1 := by
  show (if (BitVec.allOnes 32).getLsbD t then (1 : DWord) else 0) = 1
  rw [if_pos (BitVec.getLsbD_allOnes.trans (decide_eq_true ht))]

section
variable {w : Warp} (h : w.tagsTrue = true) (lit : Option Word)
include h

theorem Warp.getV_tells (n : Nat) : (w.getV n).tag.Tells (w.getV n).get := VReg.tagTrue_iff.mp (Warp.getV_tagTrue h n)
theorem Warp.getQ_tells (n : Nat) : (w.getQ n).tag.Tells (w.getQ n).get := VReg.tagTrue_iff.mp (Warp.getQ_tagTrue h n)
theorem Warp.lr_tells : w.lr.tag.Tells w.lr.get := VReg.tagTrue_iff.mp (Warp.lr_tagTrue h)

/-- A source that is no pair: its shape tells its words. -/
theorem Warp.shapeOf_tells {k : Src} (hk : k ≠ .d64) (s : Sel) : (w.shapeOf lit k s).Tells fun t => (w.src lit k s t).lo := by
  cases k with
  | none => exact fun _ _ => rfl
  | d64 => exact absurd rfl hk
  | pred =>
    show (if s == .v 7 then Shape.uniform 1 else .general).Tells _
    split
    next hs =>
      intro t ht
      simp only [eq_of_beq hs, Warp.src_pt w lit ht]
      rfl
    · trivial
  | _ =>
    cases s with
    | v n => exact (Warp.getV_tells h n.val).congr fun _ _ => Word.lo_toD _
    | q n => exact (Warp.getQ_tells h n.val).congr fun _ _ => Word.lo_toD _
    | lr => exact (Warp.lr_tells h).congr fun _ _ => Word.lo_toD _
    | tix =>
      intro t _
      show (BitVec.ofNat 64 t).setWidth 32 = 0 + 1 * BitVec.ofNat 32 t
      rw [zero_add, one_mul, BitVec.setWidth_ofNat_of_le (by decide)]
    | _ => exact fun _ _ => rfl

/-- A uniform source has one value for all threads. -/
theorem Warp.src_of_isU {k : Src} {s : Sel} (hu : (w.shapeOf lit k s).isU = true) {t : Nat} (ht : t < 32) :
    w.src lit k s t = w.src lit k s 0 := by
  cases k with
  | none => rfl
  | d64 =>
    cases s with
    | v n =>
      obtain ⟨hlo, hhi⟩ := Shape.isU_of_pair hu
      exact congrArg₂ DWord.ofWords ((Warp.getV_tells h _).const hlo ht) ((Warp.getV_tells h _).const hhi ht)
    | _ => rfl
  | pred =>
    have hs : s = .v 7 := by
      change (if s == .v 7 then Shape.uniform 1 else .general).isU = true at hu
      split at hu
      next hs => exact eq_of_beq hs
      · cases hu
    rw [hs, Warp.src_pt w lit ht, Warp.src_pt w lit (by decide)]
  | _ =>
    cases s with
    | v n => exact congrArg Word.toD ((Warp.getV_tells h _).const hu ht)
    | q n => exact congrArg Word.toD ((Warp.getQ_tells h _).const hu ht)
    | lr => exact congrArg Word.toD ((Warp.lr_tells h).const hu ht)
    | tix => cases hu
    | _ => rfl

end

end Sys2Proof.Machine
end

section
/-!
SUPPORT (O16). The shapes of results (R146): which operations keep a line of values on a line.
-/
namespace Sys2Proof.Machine

/-! ### Exact integers and words -/

theorem bitsN_zero_left (n w : Nat) : bitsN n 0 w = n % 2 ^ w := by rw [bitsN, pow_zero, Nat.div_one]

/-- The one element of a 32-bit TYPE is the word, read as its sign says. -/
theorem ofInt_el {t : Nat} (ht : ewT t = 32) (a : DWord) : BitVec.ofInt 32 (el t a.toNat 0) = a.lo := by
  have hbits : bitsN a.toNat (32 * 0) 32 = a.lo.toNat := by
    rw [Nat.mul_zero, bitsN_zero_left, DWord.lo, BitVec.toNat_setWidth]
  simp only [el, ht, hbits]
  split
  · rw [sextN_toNat, BitVec.ofInt_toInt]
  · rw [BitVec.ofInt_natCast, BitVec.ofNat_toNat, BitVec.setWidth_eq]

/-- The result of an unpacked 32-bit form without `.sat`: the exact result in 32 bits. -/
theorem elemF_lo {t : Nat} (hne : neT t = 1) (hew : ewT t = 32) (f : Int → Int → Int → Int) (a b c : DWord) :
    (elemF t false f a b c).1.lo = BitVec.ofInt 32 (f (el t a.toNat 0) (el t b.toNat 0) (el t c.toNat 0)) := by
  simp only [elemF, hne, hew, putT, packEls, wrapN, List.range_succ, List.range_zero, List.nil_append, List.map_cons, List.map_nil,
    Bool.false_eq_true, if_false, DWord.lo]
  apply BitVec.eq_of_toNat_eq
  simp only [BitVec.toNat_setWidth, BitVec.toNat_ofNat, BitVec.toNat_ofInt]
  omega

/-- A 32-bit TYPE that is not packed has one element of 32 bits. -/
theorem oneElement {t : Nat} (hp : tyPacked t = false) (hw : ty64 t = false) : neT t = 1 ∧ ewT t = 32 := by
  simp only [tyPacked, Bool.or_eq_false_iff, Bool.and_eq_false_iff, decide_eq_false_iff_not, beq_eq_false_iff_ne] at hp
  obtain ⟨⟨h25, h9⟩, h10⟩ := hp
  have hne : t ≠ 2 ∧ t ≠ 3 ∧ t ≠ 4 ∧ t ≠ 5 := by omega
  simp [neT, ewT, hw, hne, h9, h10]

/-! ### Operations that keep lines -/

/-- Where the sources of an operation hold values that their shapes tell, its affine case tells its results (R146). -/
def Alu.KeepsLines (op : Alu) : Prop :=
  ∀ {sa sb sc : Shape} {fa fb fc : Nat → DWord}, sa.Tells (fun t => (fa t).lo) → sb.Tells (fun t => (fb t).lo) →
    sc.Tells (fun t => (fc t).lo) → sa.isGeneral = false → sb.isGeneral = false → sc.isGeneral = false →
    (op.aff sa sb sc).Tells fun t => (op.f (fa t) (fb t) (fc t)).1.lo

/-- An operation that has no affine case. -/
theorem Alu.keepsLines_of_general {op : Alu} (h : ∀ a b c, op.aff a b c = .general) : op.KeepsLines := by
  intro sa sb sc fa fb fc _ _ _ _ _ _
  rw [h]
  trivial

section
variable {x : LongOp} {sat : Bool}

theorem ewT_of_keepI (hk : keepI x sat = true) (hw : ty64 (tyOf x.fn) = false) : ewT (tyOf x.fn) = 32 := by
  simp only [keepI, Bool.and_eq_true, Bool.not_eq_true'] at hk
  exact (oneElement hk.2 hw).2

/-- What an element-wise instruction computes in words, where it may preserve shape. -/
theorem elemF_lo_of_keepI (hk : keepI x sat = true) (hw : ty64 (tyOf x.fn) = false) (f : Int → Int → Int → Int) (a b c : DWord) :
    (elemF (tyOf x.fn) sat f a b c).1.lo =
      BitVec.ofInt 32 (f (el (tyOf x.fn) a.toNat 0) (el (tyOf x.fn) b.toNat 0) (el (tyOf x.fn) c.toNat 0)) := by
  simp only [keepI, Bool.and_eq_true, Bool.not_eq_true'] at hk
  obtain ⟨hsat, hpacked⟩ := hk
  obtain ⟨hne, hew⟩ := oneElement hpacked hw
  rw [hsat, elemF_lo hne hew]

theorem aluIadd_keepsLines (hk : (aluIadd x).keep = true) (hw : (aluIadd x).wide = false) : (aluIadd x).KeepsLines := by
  intro sa sb sc fa fb fc ha hb hc ga gb gc
  have hk' : keepI x (true && fnBit3 x.fn) = true := hk
  have hw' : ty64 (tyOf x.fn) = false := hw
  have hew := ewT_of_keepI hk' hw'
  refine (tells_affAdd ha hb ga gb).congr fun t _ => (elemF_lo_of_keepI hk' hw' (fun a b _ => a + b) (fa t) (fb t) (fc t)).trans ?_
  rw [BitVec.ofInt_add, ofInt_el hew, ofInt_el hew]

theorem aluIsub_keepsLines (hk : (aluIsub x).keep = true) (hw : (aluIsub x).wide = false) : (aluIsub x).KeepsLines := by
  intro sa sb sc fa fb fc ha hb hc ga gb gc
  have hk' : keepI x (true && fnBit3 x.fn) = true := hk
  have hw' : ty64 (tyOf x.fn) = false := hw
  have hew := ewT_of_keepI hk' hw'
  refine (tells_affSub ha hb ga gb).congr fun t _ => (elemF_lo_of_keepI hk' hw' (fun a b _ => a - b) (fa t) (fb t) (fc t)).trans ?_
  rw [sub_eq_add_neg, BitVec.ofInt_add, BitVec.ofInt_neg, ofInt_el hew, ofInt_el hew, sub_eq_add_neg]

theorem aluImul_keepsLines (hk : (aluImul x).keep = true) (hw : (aluImul x).wide = false) : (aluImul x).KeepsLines := by
  intro sa sb sc fa fb fc ha hb hc ga gb gc
  have hk' : keepI x (true && fnBit3 x.fn) = true := hk
  have hw' : ty64 (tyOf x.fn) = false := hw
  have hew := ewT_of_keepI hk' hw'
  refine (tells_affMul ha hb ga gb).congr fun t _ => (elemF_lo_of_keepI hk' hw' (fun a b _ => a * b) (fa t) (fb t) (fc t)).trans ?_
  rw [BitVec.ofInt_mul, ofInt_el hew, ofInt_el hew]

theorem aluIneg_keepsLines (hk : (aluIneg x).keep = true) (hw : (aluIneg x).wide = false) : (aluIneg x).KeepsLines := by
  intro sa sb sc fa fb fc ha hb hc ga gb gc
  have hk' : keepI x (true && fnBit3 x.fn) = true := hk
  have hw' : ty64 (tyOf x.fn) = false := hw
  have hew := ewT_of_keepI hk' hw'
  refine (tells_affNeg ha ga).congr fun t _ => (elemF_lo_of_keepI hk' hw' (fun a _ _ => -a) (fa t) (fb t) (fc t)).trans ?_
  rw [BitVec.ofInt_neg, ofInt_el hew]

theorem aluImad_keepsLines (hk : (aluImad x).keep = true) (hw : (aluImad x).wide = false) : (aluImad x).KeepsLines := by
  intro sa sb sc fa fb fc ha hb hc ga gb gc
  unfold aluImad at hk hw ⊢
  dsimp only at hk hw ⊢
  split at hk
  next hwide =>
    rw [if_pos hwide] at hw
    cases hw
  next hwide =>
    rw [if_neg hwide] at hw ⊢
    have hew := ewT_of_keepI hk hw
    refine (tells_affMad ha hb hc ga gb gc).congr fun t _ => (elemF_lo_of_keepI hk hw (fun a b c => a * b + c) (fa t) (fb t) (fc t)).trans ?_
    rw [BitVec.ofInt_add, BitVec.ofInt_mul, ofInt_el hew, ofInt_el hew, ofInt_el hew]

theorem aluMov_keepsLines : (aluMov x).KeepsLines := fun ha _ _ _ _ _ => ha

theorem aluShl_keepsLines (ht : tyOf x.fn = 11) : (aluShl x).KeepsLines := by
  intro sa sb sc fa fb fc ha hb hc ga gb gc
  refine (tells_affShl ha hb ga gb).congr fun t _ => ?_
  have hcount : ((fb t).lo.setWidth 8).toNat = (fb t).toNat % 256 := by
    simp only [DWord.lo, BitVec.toNat_setWidth]
    omega
  rw [hcount]
  have hew : ewT (tyOf x.fn) = 32 := by rw [ht]; rfl
  apply BitVec.eq_of_toNat_eq
  simp only [aluShl, aluShift, hew, DWord.lo, BitVec.toNat_setWidth, BitVec.toNat_ofNat, BitVec.toNat_shiftLeft]
  omega

end

theorem tyOf_of_shl {x : LongOp} (hok : (rowOf 0x15 x.fn x.fn2).ok = true) (hw : (aluShl x).wide = false) : tyOf x.fn = 11 := by
  have hty : (tyOf x.fn == 11 || tyOf x.fn == 12) = true := by
    change ((tyOf x.fn == 11 || tyOf x.fn == 12) && _ && _ && _ && _) = true at hok
    simp only [Bool.and_eq_true] at hok
    exact hok.1.1.1.1
  have h12 : tyOf x.fn ≠ 12 := by
    intro h
    change ty64 (tyOf x.fn) = false at hw
    rw [h] at hw
    cases hw
  simpa [h12] using hty

/-- Every legal instruction that may preserve shape keeps lines on lines; most have no affine case (R146). -/
theorem keepsLines_of_aluOf {i : Instr} {opc : BitVec 8} {x : LongOp} {op : Alu} {lim : Limits} (hl : i.long? = some (opc, x))
    (ha : aluOf i = some op) (hr : longReason lim opc x = none) (hk : op.keep = true) (hw : op.wide = false) : op.KeepsLines := by
  obtain ⟨-, hok, -⟩ := longReason_none hr
  cases i
  case iadd => cases hl; cases ha; exact aluIadd_keepsLines hk hw
  case isub => cases hl; cases ha; exact aluIsub_keepsLines hk hw
  case imul => cases hl; cases ha; exact aluImul_keepsLines hk hw
  case ineg => cases hl; cases ha; exact aluIneg_keepsLines hk hw
  case imad => cases hl; cases ha; exact aluImad_keepsLines hk hw
  case mov => cases ha; exact aluMov_keepsLines
  case shl => cases hl; cases ha; exact aluShl_keepsLines (tyOf_of_shl hok hw)
  case imulh | imin | imax | iabs | idiv | lea | iset | sel | idp4 | plop | andB | orB | xorB | btab | notB
      | shr | sar | shf | bfe | bfi | popc | clz | ctz | brev | fadd | fsub | fmul | ffma | fmin | fmax | fset | fclass | frnd | fdot2 |
      fscale | cvt | rcp | rsq | sqrt | exp2 | log2 | sin | cos | tanh | fdiv =>
    cases ha
    exact Alu.keepsLines_of_general fun _ _ _ => rfl
  case cvtpk | cvtupk =>
    obtain ⟨-, hop⟩ := Option.ite_none_right_eq_some.mp ha
    cases hop
    exact Alu.keepsLines_of_general fun _ _ _ => rfl
  all_goals cases ha

/-! ### Results -/

/-- A result has no shape; or it is one for all threads; or it has a shape that tells its words, in a destination of one word (R146). -/
theorem Alu.shape_cases {op : Alu} {w : Warp} {x : LongOp} (h : w.tagsTrue = true) (hlines : op.keep = true → op.wide = false → op.KeepsLines) :
    op.shape w x = .general ∨ (op.shape w x = .uniform 0 ∧ ∀ t < 32, op.result w x t = op.result w x 0) ∨
    (op.wide = false ∧ (op.shape w x).Tells fun t => (op.result w x t).1.lo) := by
  unfold Alu.shape
  dsimp only
  split
  · exact .inl rfl
  next hgen =>
    simp only [Bool.or_eq_true, not_or, Bool.not_eq_true, Bool.not_eq_true', Bool.not_eq_false] at hgen
    obtain ⟨⟨⟨hkeep, ga⟩, gb⟩, gc⟩ := hgen
    split
    next hu =>
      simp only [Bool.and_eq_true] at hu
      obtain ⟨⟨ua, ub⟩, uc⟩ := hu
      refine .inr (.inl ⟨rfl, fun t ht => ?_⟩)
      rw [Alu.result, Alu.result, Warp.src_of_isU h x.lit ua ht, Warp.src_of_isU h x.lit ub ht, Warp.src_of_isU h x.lit uc ht]
    · split
      · exact .inl rfl
      next hword =>
        simp only [Bool.or_eq_true, beq_iff_eq, not_or, Bool.not_eq_true] at hword
        obtain ⟨⟨⟨⟨hwide, -⟩, ka⟩, kb⟩, kc⟩ := hword
        exact .inr (.inr ⟨hwide, hlines hkeep hwide (Warp.shapeOf_tells h x.lit ka x.a) (Warp.shapeOf_tells h x.lit kb x.b)
          (Warp.shapeOf_tells h x.lit kc x.c) ga gb gc⟩)

/-- What an ALU instruction writes under its shape has true tags. -/
theorem Alu.after_tagsTrue {op : Alu} {w : Warp} {x : LongOp} (h : w.tagsTrue = true)
    (hlines : op.keep = true → op.wide = false → op.KeepsLines) : (op.after w x).tagsTrue = true := by
  rcases op.after_cases w x with he | ⟨-, fl, y, he⟩ | ⟨-, fl, sh, hsh, he⟩ <;> rw [he]
  · exact h
  · unfold Warp.setP
    split <;> exact h
  · rcases hsh with rfl | ⟨hall, rfl⟩
    · exact Warp.writeDst_tagsTrue (w := w.orFlags fl) h (.inl rfl) fun _ => .inl rfl
    · rcases Alu.shape_cases h hlines with hs | ⟨hs, hconst⟩ | ⟨hwide, htells⟩
      · exact Warp.writeDst_tagsTrue (w := w.orFlags fl) h (.inl hs) fun _ => .inl hs
      · have huniform (part : DWord → Word) : (Shape.uniform (part (op.result w x 0).1)).Tells fun t => part (op.result w x t).1 :=
          fun t ht => congrArg (fun r => part r.1) (hconst t ht)
        rw [hs]
        exact Warp.writeDst_tagsTrue (w := w.orFlags fl) h (.inr ⟨hall, huniform _⟩) fun _ => .inr ⟨hall, huniform _⟩
      · exact Warp.writeDst_tagsTrue (w := w.orFlags fl) h (.inr ⟨hall, htells.based⟩) fun hw => by rw [hwide] at hw; cases hw

/-- Settles O16: a result's shape tells its values, and moving past the instruction writes no register. -/
theorem shapeTagsStayTrue : Obligations.ShapeTagsStayTrue := by
  intro i s w x op h htags
  have hid : (op.after w x).id = s.cur := by rw [Alu.after_id, State.warp?_id h.warp?_cur]
  refine ⟨_, _, h.exec_eq, State.retire_self _ _ h.warp?_cur hid, ?_⟩
  obtain ⟨opc, hl, ha, ⟨-, hlong⟩, -, -⟩ := h
  exact Alu.after_tagsTrue htags (keepsLines_of_aluOf hl ha (State.longCheck_none hlong).2)

end Sys2Proof.Machine
end

section
/-!
SETTLED. A step of the warp that may issue runs what the bytes at its program counter decode to (O4).
-/
namespace Sys2Proof.Machine

/-- A row that is no event carries no message: the operands of a message stand in events alone. -/
theorem ccpOf_of_not_isEvent {i : Instr} (h : isEvent i = false) : ccpOf i = none := by
  cases i
  case catload | catdrop | kick | genraise | preempt | mrreg | mrdrop | qpcreate | qpdestroy | resync | attest | wingset | slotset | fwload |
      wingquiesce | keyload | keyrevoke | mgmtrd | mgmtwr | portFrameReceive => cases h
  all_goals rfl

theorem roceQpOf_of_not_isEvent {i : Instr} (h : isEvent i = false) : roceQpOf i = none := by
  cases i
  case roceWrite | roceWriteImmediate | roceRead | descriptorComplete => cases h
  all_goals rfl

/-- An instruction row at the head of the agenda lets a warp issue (log 1). -/
theorem State.plan_of_row {s : State} {i : Instr} (hi : s.agenda.head? = some i) (hrow : isEvent i = false) :
    s.plan = ({ s with agenda := s.agenda.tail } : State).issueNext := by
  obtain ⟨rest, hag⟩ := List.head?_eq_some_iff.mp hi
  have hccp : s.ccpNext = none := by
    simp [State.ccpNext, hag, ccpOf_of_not_isEvent hrow]
  have hroce : s.roceWaits i = false := by
    simp [State.roceWaits, roceQpOf_of_not_isEvent hrow]
  simp [State.plan, hag, hccp, hroce, hrow]

/-- So does an empty agenda while no unit's step is enabled. -/
theorem State.plan_of_quiet {s : State} (hag : s.agenda = []) (hunit : s.unitEvent = none) (hlate : s.lateStep = none) :
    s.plan = ({ s with agenda := s.agenda.tail } : State).issueNext := by
  have htail : ({ s with agenda := s.agenda.tail } : State) = s := by rw [hag, List.tail_nil, ← hag]
  rw [htail]
  simp only [State.plan, State.unitPlan, hag, hunit, hlate]

/-- Settles O4: the plan lets a warp issue, and the picked warp's plan is to run what its bytes decode to. -/
theorem stepRunsDecoded : Obligations.StepRunsDecoded := by
  intro s w hquiet hpick hrot hblock
  have hplan : s.plan = ({ s with agenda := s.agenda.tail } : State).issueNext := by
    rcases hquiet with ⟨i, hi, hrow⟩ | ⟨hag, hunit, hlate⟩
    · exact State.plan_of_row hi hrow
    · exact State.plan_of_quiet hag hunit hlate
  simp only [step, hplan, State.issueNext, hpick, State.issueFrom, hrot, hblock, Bool.false_eq_true, if_false, beq_iff_eq]

end Sys2Proof.Machine
end

section
/-!
SUPPORT (O13). Issue of a legal instruction, and what a branch runs in its long and its short form.
-/
namespace Sys2Proof.Machine

section
variable {s : State} {w : Warp} {opc : BitVec 8} {x : LongOp}

theorem State.stands.running_isNone (h : s.stands w) : w.running.isNone = false := by
  obtain ⟨-, hrun⟩ := h
  rw [← Option.not_isSome, hrun, Bool.not_true]

theorem State.issueShortCtl_of_issuesShort {sopc : BitVec 6} {y : ShortOp} (h : s.issuesShort w sopc y) (f : Warp → LongOp → Result) :
    s.issueShortCtl sopc y f = f w (shortLong sopc y) := by
  obtain ⟨hstands, hlegal⟩ := h
  have hrun := hstands.running_isNone
  obtain ⟨hw, -⟩ := hstands
  simp only [State.issueShortCtl, hw, hrun, hlegal, Bool.false_eq_true, if_false]

theorem exec_of_crossOf {i : Instr} {op : Cross} (hl : i.long? = some (opc, x)) (hc : crossOf i = some op) :
    exec i s = s.issueCross opc x op := by
  cases i
  case shfl | poll | redx | redxi | scan | matchT | elect | isect | brank | treestep => cases hl; cases hc; rfl
  all_goals cases hc

/-! ### Targets -/

/-- The target of a word offset, taken in 56 bits, is the exact sum's remainder (R352). -/
theorem Warp.relTarget_eq (w : Warp) (x : LongOp) :
    w.relTarget x = (((w.pc : Int) + 4 * (w.word x x.a 0).toInt) % 2 ^ 56).toNat := by
  have hsum : BitVec.ofNat 64 w.pc + 4 * (w.word x x.a 0).signExtend 64 = BitVec.ofInt 64 ((w.pc : Int) + 4 * (w.word x x.a 0).toInt) := by
    rw [BitVec.ofInt_add, BitVec.ofInt_mul, BitVec.ofInt_natCast]
    rfl
  show (BitVec.ofNat 64 w.pc + 4 * (w.word x x.a 0).signExtend 64).toNat % 2 ^ 56 = _
  rw [hsum, BitVec.toNat_ofInt]
  omega

theorem Warp.target_of_pair (h : targetInPair opc x = true) : w.target opc x = fun t => (w.src x.lit .d64 x.a t).toNat := by
  funext t
  rw [Warp.target, if_pos h]

theorem Warp.target_of_offset (h : targetInPair opc x = false) : w.target opc x = fun _ => w.relTarget x := by
  funext t
  rw [Warp.target, h, if_neg Bool.false_ne_true, Warp.relTarget_eq]

theorem call_fn2 {lim : Limits} (h : longReason lim 0x72 x = none) : x.fn2 = 0 ∨ x.fn2 = 1 := by
  obtain ⟨-, hok, -⟩ := longReason_none h
  change (x.fn == 0 && decide (x.fn2.toNat < 2)) = true at hok
  simp only [Bool.and_eq_true, decide_eq_true_eq] at hok
  obtain ⟨-, hlt⟩ := hok
  bv_omega

/-- BRA, BRX, CALL and RET run one branch, with the target that R352 to R354 give each thread. -/
theorem exec_of_controlReady {i : Instr} {len : Nat} (h : ControlReady s w i opc x len) (hopc : opc ∈ [0x70, 0x71, 0x72, 0x73]) :
    ∃ lnk cost, exec i s = s.branch w x len (targetInPair opc x) (w.target opc x) lnk cost := by
  rcases h with ⟨hl, hiss, rfl⟩ | ⟨sopc, y, r, hsh, hrow, rfl, hiss, rfl, rfl⟩
  · have hrun := fun f => State.issue_of_issues hiss f
    cases i
    case bra =>
      cases hl
      exact ⟨_, _, by rw [Warp.target_of_offset rfl]; exact hrun _⟩
    case brx | ret =>
      cases hl
      exact ⟨_, _, by rw [Warp.target_of_pair rfl]; exact hrun _⟩
    case call =>
      cases hl
      obtain ⟨-, hlegal⟩ := hiss
      rcases call_fn2 (State.longCheck_none hlegal).2 with hfn | hfn
      · have hoff : targetInPair 0x72 x = false := by rw [targetInPair, hfn]; rfl
        rw [hoff, Warp.target_of_offset hoff]
        exact ⟨_, _, (hrun _).trans (if_pos (by rw [hfn]; rfl))⟩
      · have hpair : targetInPair 0x72 x = true := by rw [targetInPair, hfn]; rfl
        rw [hpair, Warp.target_of_pair hpair]
        exact ⟨_, _, (hrun _).trans (if_neg (by rw [hfn]; decide))⟩
    all_goals cases hl
    all_goals exact absurd hopc (by decide)
  · cases i
    case retShort =>
      cases hsh
      cases hrow
      refine ⟨none, w.pairCost (shortLong 0x26 y) (shortLong 0x26 y).a, ?_⟩
      rw [Warp.target_of_pair rfl]
      exact State.issueShortCtl_of_issuesShort hiss fun w y => s.ret w y 4
    all_goals cases hsh
    all_goals cases hrow
    all_goals exact absurd hopc (by decide)

/-! ### Branches that trap -/

theorem one_lt_length_of_mem {α : Type} {l : List α} {a b : α} (ha : a ∈ l) (hb : b ∈ l) (hab : a ≠ b) : 1 < l.length := by
  match l with
  | [c] => exact absurd ((List.mem_singleton.mp ha).trans (List.mem_singleton.mp hb).symm) hab
  | _ :: _ :: _ => simp

/-- With the S bit, a split whose threads disagree on the guard or on the target where it passes (R346). -/
theorem State.branch_of_disagreement {len cost : Nat} {reg : Bool} {tgt : Nat → Nat} {lnk : Option Sel} (hw : x.w = true)
    (h : (w.passing x ≠ 0 ∧ w.passing x ≠ w.splitMask) ∨
      ∃ t u, (w.passing x).getLsbD t = true ∧ (w.passing x).getLsbD u = true ∧ tgt t ≠ tgt u) :
    s.branch w x len reg tgt lnk cost = .next (s.trap w causeBranch) := by
  have hcond : (!(w.passing x == 0 || w.passing x == w.splitMask) || decide (1 < (((threadsOf (w.passing x)).map tgt).eraseDups).length)) = true := by
    rcases h with ⟨h0, hm⟩ | ⟨t, u, ht, hu, hne⟩
    · rw [beq_false_of_ne h0, beq_false_of_ne hm]
      rfl
    · have hmem {v : Nat} (hv : (w.passing x).getLsbD v = true) : tgt v ∈ ((threadsOf (w.passing x)).map tgt).eraseDups :=
        List.mem_eraseDups.mpr (List.mem_map_of_mem (mem_threadsOf.mpr hv))
      simp [one_lt_length_of_mem (hmem ht) (hmem hu) hne]
  unfold State.branch
  simp only [hw, if_true, Bool.true_and]
  exact if_pos hcond

/-- Without it, a target that is no multiple of 4, at the lowest thread that branches to one (R352). -/
theorem State.branch_of_misaligned {len cost t : Nat} {tgt : Nat → Nat} {lnk : Option Sel} (hw : x.w = false)
    (ht : (w.branching x).getLsbD t = true) (hbad : tgt t % 4 ≠ 0)
    (hlow : ∀ u, u < t → (w.branching x).getLsbD u = true → tgt u % 4 = 0) :
    s.branch w x len true tgt lnk cost = .next (s.trap w { cls := 3, reason := rTARGET, thread := t }) := by
  have hmask : w.splitMask &&& w.guard x.g &&& w.exec = w.branching x := by rw [Warp.branching, hw]; rfl
  have hfind : (threadsOf (w.branching x)).find? (fun u => tgt u % 4 != 0) = some t := by
    rw [threadsOf, List.find?_filter, List.find?_range_eq_some]
    refine ⟨by simp [ht, hbad], List.mem_range.mpr (BitVec.lt_of_getLsbD ht), fun u hu => ?_⟩
    by_cases hb : (w.branching x).getLsbD u = true
    · simp [hlow u hu hb]
    · simp [hb]
  unfold State.branch
  simp only [hw, hmask, hfind, Bool.false_eq_true, if_false, if_true, Bool.false_and]

end

/-- Settles O13: the ALU and the cross-thread unit refuse at issue, and a branch at the threads that disagree or at the lowest
misaligned target. -/
theorem operandTraps : Obligations.OperandTraps := by
  refine ⟨?shape, ?cross, ?disagree, ?misaligned⟩
  case shape =>
    intro i s w opc x op hl ha hiss hfit
    rw [exec_of_aluOf hl ha, issueAlu_trap _ hiss hfit]
    rfl
  case cross =>
    intro i s w opc x op hl hc hiss hd hs
    rw [exec_of_crossOf hl hc, State.issueCross, State.issue_of_issues hiss]
    exact if_pos (by rw [hd, hs]; rfl)
  case disagree =>
    intro i s w opc x len hready hopc hw hdis
    obtain ⟨lnk, cost, hrun⟩ := exec_of_controlReady hready hopc
    rw [hrun, State.branch_of_disagreement hw hdis]
    rfl
  case misaligned =>
    intro i s w opc x len t hready hopc hpair hw ht hbad hlow
    obtain ⟨lnk, cost, hrun⟩ := exec_of_controlReady hready hopc
    rw [hrun, hpair, State.branch_of_misaligned hw ht hbad hlow]

end Sys2Proof.Machine
end

section
/-!
SUPPORT (O9). What leaves every warp as it is.
-/
namespace Sys2Proof.Machine

@[simp] theorem State.ite_warps (p : Prop) [Decidable p] (s t : State) : (if p then s else t).warps = if p then s.warps else t.warps :=
  apply_ite State.warps p s t

theorem State.warps_of_ite {p : Prop} [Decidable p] {t u : State} {l : List Warp} (ht : t.warps = l) (hu : u.warps = l) :
    (if p then t else u).warps = l := by
  split
  · exact ht
  · exact hu

@[simp] theorem State.foldl_warps {α : Type} {f : State → α → State} (hf : ∀ t x, (f t x).warps = t.warps) (l : List α) (s : State) :
    (l.foldl f s).warps = s.warps := by
  induction l generalizing s with
  | nil => rfl
  | cons x l ih => simp [ih, hf]

/-! ### Units, traps and reports -/

@[simp] theorem State.pickUnused_warps (s : State) (used : List Nat) (lo n : Nat) : (s.pickUnused used lo n).2.warps = s.warps := by
  simp [State.pickUnused]

@[simp] theorem State.report_warps (s : State) (wing : Nat) (body : List Nat) : (s.report wing body).warps = s.warps := by simp [State.report]

/-! ### Memory side -/

@[simp] theorem State.countCorrected_warps (s : State) (pa : Nat) : (s.countCorrected pa).warps = s.warps := by simp [State.countCorrected]

@[simp] theorem State.uncorrectable_warps (s : State) (wing pa : Nat) (syn : BitVec 16) : (s.uncorrectable wing pa syn).warps = s.warps := by
  simp [State.uncorrectable]

@[simp] theorem State.found_warps (s : State) (c : Cause) : (s.found c).warps = s.warps := by unfold State.found; split <;> simp

@[simp] theorem State.trapFound_warps (s : State) (w : Warp) (c : Cause) : (s.trapFound w c).warps = s.warps := by simp [State.trapFound]

@[simp] theorem State.enqueueMem_warps (s : State) (pa : Nat) (r : MemReq) : (s.enqueueMem pa r).warps = s.warps := by simp [State.enqueueMem]

@[simp] theorem State.l2WriteBack_warps (s : State) (l : L2Line) : (s.l2WriteBack l).warps = s.warps := by simp [State.l2WriteBack]

@[simp] theorem State.l2Set_warps (s : State) (l : L2Line) : (s.l2Set l).warps = s.warps := by dsimp only [State.l2Set]; (repeat' split) <;> simp

@[simp] theorem State.modPacket_warps (s : State) (pid : Nat) (f : Packet → Packet) : (s.modPacket pid f).warps = s.warps := by
  simp [State.modPacket]

@[simp] theorem State.dropPacket_warps (s : State) (pid : Nat) : (s.dropPacket pid).warps = s.warps := by simp [State.dropPacket]

@[simp] theorem State.modReq_warps (s : State) (c : CoreId) (rid : Nat) (f : Req → Req) : (s.modReq c rid f).warps = s.warps := by
  simp [State.modReq]

@[simp] theorem State.dropReq_warps (s : State) (c : CoreId) (rid : Nat) : (s.dropReq c rid).warps = s.warps := by simp [State.dropReq]

@[simp] theorem State.forsake_warps (s : State) (pid : Nat) : (s.forsake pid).warps = s.warps := by simp [State.forsake]

@[simp] theorem State.respond_warps (s : State) (pid : Nat) (f : Packet → Packet) : (s.respond pid f).warps = s.warps := by
  unfold State.respond; split <;> simp

@[simp] theorem State.pokeMonitors_warps (s : State) (line : Nat) : (s.pokeMonitors line).warps = s.warps := by simp [State.pokeMonitors]

@[simp] theorem State.l2Merge_warps (s : State) (line wg : Nat) (bs : LineBytes) : (s.l2Merge line wg bs).warps = s.warps := by
  simp [State.l2Merge]

@[simp] theorem State.l2Through_warps (s : State) (src slot wg line : Nat) (uncached : Bool) (bs : LineBytes) (ack : Option Nat) :
    (s.l2Through src slot wg line uncached bs ack).warps = s.warps := by
  unfold State.l2Through; split <;> simp

@[simp] theorem State.homeWrite_warps (s : State) (src slot wg cp line : Nat) (bs : LineBytes) :
    (s.homeWrite src slot wg cp line bs).warps = s.warps := by
  simp [State.homeWrite]

@[simp] theorem State.homePuts_warps (s : State) (src slot wg cp pa : Nat) (bs : List Byte) :
    (s.homePuts src slot wg cp pa bs).warps = s.warps := by
  simp [State.homePuts]

/-! ### Translation -/

@[simp] theorem State.writePages_warps (s : State) (w : Who) (ps : Pages) (bs : List Byte) : (s.writePages w ps bs).warps = s.warps := by
  induction ps generalizing s bs with
  | nil => rfl
  | cons p ps ih => simp [State.writePages, ih]

@[simp] theorem State.startFmtRead_warps (s : State) (w : Warp) (g : Group) (idx : Nat) : (s.startFmtRead w g idx).warps = s.warps := by
  simp [State.startFmtRead]

/-! ### The L1 and the combining buffer -/

@[simp] theorem State.leave_warps (s : State) (c : CoreId) (line : Nat) (bs : LineBytes) : (s.leave c line bs).warps = s.warps := by
  simp [State.leave]

@[simp] theorem State.l1Home_warps (s : State) (c : CoreId) (l : L1Line) (p : L1Byte → Bool) : (s.l1Home c l p).warps = s.warps := by
  simp [State.l1Home]

@[simp] theorem State.l1Flush_warps (s : State) (c : CoreId) (p : L1Byte → Bool) : (s.l1Flush c p).warps = s.warps := by simp [State.l1Flush]

@[simp] theorem State.l1Older_warps (s : State) (c : CoreId) : (s.l1Older c).warps = s.warps := by simp [State.l1Older]

@[simp] theorem State.l1Clean_warps (s : State) (c : CoreId) (set line : Nat) : (s.l1Clean c set line).warps = s.warps := by
  unfold State.l1Clean; split <;> simp

@[simp] theorem State.l1Drop_warps (s : State) (c : CoreId) (set line : Nat) : (s.l1Drop c set line).warps = s.warps := by simp [State.l1Drop]

@[simp] theorem State.l1Purge_warps (s : State) (c : CoreId) (line : Nat) : (s.l1Purge c line).warps = s.warps := by simp [State.l1Purge]

@[simp] theorem State.adopt_warps (s : State) (r : Req) (warp : WarpId) : (s.adopt r warp).warps = s.warps := by unfold State.adopt; split <;> simp

@[simp] theorem State.l1Room_warps (s : State) (c : CoreId) (set : Nat) : (s.l1Room c set).warps = s.warps := by
  dsimp only [State.l1Room]; (repeat' split) <;> simp

@[simp] theorem State.l1Alloc_warps (s : State) (r : Req) (warp : WarpId) (wg : Nat) : (s.l1Alloc r warp wg).warps = s.warps := by
  simp [State.l1Alloc]

@[simp] theorem State.l1Map_warps (s : State) (c : CoreId) (set line : Nat) (f : Nat → L1Byte → L1Byte) :
    (s.l1Map c set line f).warps = s.warps := by
  simp [State.l1Map]

@[simp] theorem State.l1Merge_warps (s : State) (c : CoreId) (set line : Nat) (bs : LineBytes) (dirty : Bool) :
    (s.l1Merge c set line bs dirty).warps = s.warps := by
  simp [State.l1Merge]

@[simp] theorem State.l1Install_warps (s : State) (r : Req) (warp : WarpId) (wg : Nat) (secs : List Nat) (data : List Byte) :
    (s.l1Install r warp wg secs data).warps = s.warps := by
  dsimp only [State.l1Install]; split <;> simp

@[simp] theorem State.homeSetWord_warps (s : State) (src slot wg cp pa w : Nat) (x : DWord) :
    (s.homeSetWord src slot wg cp pa w x).warps = s.warps := by
  simp [State.homeSetWord]

@[simp] theorem State.homeAdd_warps (s : State) (src slot wg cp pa : Nat) (amt : DWord) : (s.homeAdd src slot wg cp pa amt).1.warps = s.warps := by
  simp [State.homeAdd]

@[simp] theorem State.groupCheck_warps (s : State) (die slot : Nat) (cause : Cause) : (s.groupCheck die slot cause).warps = s.warps := by
  unfold State.groupCheck; split <;> simp

@[simp] theorem State.combSend_warps (s : State) (c : CoreId) (e : CombEntry) : (s.combSend c e).warps = s.warps := by simp [State.combSend]

@[simp] theorem State.combFlush_warps (s : State) (c : CoreId) (p : CombEntry → Bool) : (s.combFlush c p).warps = s.warps := by
  simp [State.combFlush]

@[simp] theorem State.combTouch_warps (s : State) (c : CoreId) (pa len : Nat) : (s.combTouch c pa len).warps = s.warps := by simp [State.combTouch]

@[simp] theorem State.combPut_warps (s : State) (c : CoreId) (e : CombEntry) : (s.combPut c e).warps = s.warps := by
  dsimp only [State.combPut]; (repeat' split) <;> simp

@[simp] theorem State.releaseActs_warps (s : State) (c : CoreId) (wide : Bool) : (s.releaseActs c wide).warps = s.warps := by
  simp [State.releaseActs]

@[simp] theorem State.acquireActs_warps (s : State) (c : CoreId) (wide : Bool) : (s.acquireActs c wide).warps = s.warps := by
  simp [State.acquireActs]

@[simp] theorem State.promoted_warps (s : State) (c : CoreId) : (s.promoted c).warps = s.warps := by simp [State.promoted]

@[simp] theorem State.privOut_warps (s : State) (w : WarpId) (keep : Bool) : (s.privOut w keep).warps = s.warps := by simp [State.privOut]

/-! ### Requests of a core -/

@[simp] theorem State.leaveLane_warps (s : State) (c : CoreId) (o : Outst) : (s.leaveLane c o).warps = s.warps := by simp [State.leaveLane]

@[simp] theorem State.grantQuad_warps (s : State) (c : CoreId) (q : Nat) : (s.grantQuad c q).warps = s.warps := by
  dsimp only [State.grantQuad]; split <;> simp

@[simp] theorem State.grantPorts_warps (s : State) (c : CoreId) : (s.grantPorts c).warps = s.warps := by simp [State.grantPorts]

@[simp] theorem State.machineCheck_warps (s : State) (r : Req) (aux : DWord) : (s.machineCheck r aux).warps = s.warps := by
  unfold State.machineCheck; split <;> simp

@[simp] theorem State.sendReq_warps (s : State) (r : Req) : (s.sendReq r).warps = s.warps := by simp [State.sendReq]

@[simp] theorem State.sendRead_warps (s : State) (r : Req) : (s.sendRead r).warps = s.warps := by simp [State.sendRead]

@[simp] theorem State.combTouchAll_warps (s : State) (r : Req) : (s.combTouchAll r).warps = s.warps := by simp [State.combTouchAll]

@[simp] theorem State.joinFill_warps (s : State) (r o : Req) : (s.joinFill r o).warps = s.warps := by unfold State.joinFill; split <;> simp

@[simp] theorem State.takeHits_warps (s : State) (r : Req) (l : L1Line) : (s.takeHits r l).warps = s.warps := by simp [State.takeHits]

@[simp] theorem State.missLoad_warps (s : State) (r : Req) : (s.missLoad r).warps = s.warps := by unfold State.missLoad; (repeat' split) <;> simp

@[simp] theorem State.sendWrite_warps (s : State) (r : Req) : (s.sendWrite r).warps = s.warps := by simp [State.sendWrite]

@[simp] theorem State.localAdd_warps (s : State) (c : CoreId) (slot ctr : Nat) (amt : DWord) (who : Issuer) (engine : Bool) :
    (s.localAdd c slot ctr amt who engine).warps = s.warps := by
  unfold State.localAdd; split <;> simp

@[simp] theorem State.releaseHeld_warps (s : State) (c : CoreId) (h : Held) : (s.releaseHeld c h).warps = s.warps := by
  unfold State.releaseHeld; (repeat' split) <;> simp

/-! ### Ordering -/

@[simp] theorem State.scalesSent_warps (s : State) (w : Warp) (x : LongOp) (accs : List Acc) : (s.scalesSent w x accs).warps = s.warps := by
  simp [State.scalesSent]

@[simp] theorem State.hold_warps (s : State) (w : Warp) (g : Group) (needs : List Nat) (wide : Bool) (iid : Nat) :
    (s.hold w g needs wide iid).warps = s.warps := by
  simp [State.hold]

/-! ### Splits -/

@[simp] theorem State.privPut_warps (s : State) (w : Warp) (g : Group) (pa va : Nat) (wg : Nat) (bs : List Byte) :
    (s.privPut w g pa va wg bs).warps = s.warps := by
  simp [State.privPut]

theorem State.spillOut_warps {s t : State} {w : Warp} {g : Group} (h : s.spillOut w g = .ok t) : t.warps = s.warps := by
  dsimp only [State.spillOut] at h
  split at h
  · cases h; rfl
  · split at h <;> cases h
    refine State.foldl_warps (fun u c => ?_) _ _
    split <;> simp

/-! ### Events of a core -/

@[simp] theorem State.checked_warps (s : State) (wing : Nat) (k : Check) : (s.checked wing k).warps = s.warps := by
  unfold State.checked; split <;> simp

@[simp] theorem State.setWalk_warps (s : State) (die i : Nat) (k : Option Walk) : (s.setWalk die i k).warps = s.warps := by simp [State.setWalk]

@[simp] theorem State.predictFrom_warps (s : State) (c : CoreId) (line : Nat) (hint : Option Nat) :
    (s.predictFrom c line hint).warps = s.warps := by
  unfold State.predictFrom; split <;> simp

@[simp] theorem State.probe_warps (s : State) (c : CoreId) (rid : Nat) : (s.probe c rid).warps = s.warps := by
  unfold State.probe; (repeat' split) <;> simp

@[simp] theorem State.promotionRequest_warps (s : State) (c issuer : CoreId) : (s.promotionRequest c issuer).warps = s.warps := by
  simp [State.promotionRequest]

/-! ### Counters -/

/-! ### Engines -/

@[simp] theorem State.engChecked_warps (s : State) (k : EngCheck) : (s.engChecked k).warps = s.warps := by simp [State.engChecked]

@[simp] theorem State.engPull_warps (s : State) (c : CoreId) (ps : Pages) : (s.engPull c ps).warps = s.warps := by simp [State.engPull]

@[simp] theorem State.engRead_warps (s : State) (c : CoreId) (ps : Pages) : (s.engRead c ps).1.warps = s.warps := by simp [State.engRead]

@[simp] theorem State.engWrite_warps (s : State) (w : Who) (ps : Pages) (bs : List Byte) : (s.engWrite w ps bs).warps = s.warps := by
  simp [State.engWrite]

@[simp] theorem State.engTrap_warps (s : State) (g : Group) (i : Issuer) (c : Cause) : (s.engTrap g i c).warps = s.warps := by simp [State.engTrap]

theorem State.engineAdd_warps {s t : State} {g : Group} {r : CtrRef} {amt : Nat} {i : Issuer} (h : s.engineAdd g r amt i = .ok t) :
    t.warps = s.warps := by
  dsimp only [State.engineAdd] at h
  cases r with
  | none => cases h; rfl
  | loc b => cases h; simp
  | glob va =>
    dsimp only at h
    split at h
    · cases h
    · split at h <;> cases h
      · rfl
      · split <;> simp

@[simp] theorem State.modQueue_warps (s : State) (c : CoreId) (n : Nat) (f : List QItem → List QItem) : (s.modQueue c n f).warps = s.warps := by
  simp [State.modQueue]

@[simp] theorem State.setHead_warps (s : State) (c : CoreId) (n : Nat) (e : EngEntry) : (s.setHead c n e).warps = s.warps := by
  simp [State.setHead]

@[simp] theorem State.popHead_warps (s : State) (c : CoreId) (n : Nat) : (s.popHead c n).warps = s.warps := by simp [State.popHead]

@[simp] theorem State.discardQueue_warps (s : State) (c : CoreId) (n slot : Nat) : (s.discardQueue c n slot).warps = s.warps := by
  simp [State.discardQueue]

@[simp] theorem State.dropFence_warps (s : State) (c : CoreId) (f : Fence) : (s.dropFence c f).warps = s.warps := by simp [State.dropFence]

@[simp] theorem State.discardFences_warps (s : State) (g : Group) (n : Nat) : (s.discardFences g n).warps = s.warps := by
  simp [State.discardFences]

@[simp] theorem State.engFail_warps (s : State) (g : Group) (n : Nat) (e : EngEntry) (c : Cause) : (s.engFail g n e c).warps = s.warps := by
  simp [State.engFail]

@[simp] theorem State.completeEntry_warps (s : State) (g : Group) (n : Nat) (e : EngEntry) : (s.completeEntry g n e).warps = s.warps := by
  dsimp only [State.completeEntry]
  split
  next h => simp [State.engineAdd_warps h]
  · simp

/-! ### Binning and routing -/

@[simp] theorem State.engAtomic_warps (s : State) (w : Who) (ps : Pages) (f : Nat → Nat) (n : Nat) : (s.engAtomic w ps f n).1.warps = s.warps := by
  simp [State.engAtomic]

theorem State.routeClaim_warps {s u : State} {g : Group} {h : RouteHdr} {rbase e t slot : Nat} {resid : Bool}
    (hr : s.routeClaim g h rbase e t = .ok (u, slot, resid)) : u.warps = s.warps := by
  unfold State.routeClaim at hr
  dsimp only at hr
  split at hr
  · split at hr
    · cases hr
    · rw [apply_ite (· = _)] at hr
      split at hr
      · simp only [Except.ok.injEq, Prod.mk.injEq] at hr
        simp [← hr.1]
      · split at hr
        · cases hr
        · simp only [Except.ok.injEq, Prod.mk.injEq] at hr
          simp [← hr.1]
  · split at hr
    · cases hr
    · simp only [Except.ok.injEq, Prod.mk.injEq] at hr
      simp [← hr.1]

/-! ### Copy channels and fences -/

@[simp] theorem State.copyStart_warps (s : State) (c : CoreId) (ch : Nat) : (s.copyStart c ch).warps = s.warps := by
  unfold State.copyStart; (repeat' split) <;> simp

@[simp] theorem State.copyComplete_warps (s : State) (c : CoreId) (ch : Nat) : (s.copyComplete c ch).warps = s.warps := by
  unfold State.copyComplete; (repeat' split) <;> simp

@[simp] theorem State.discardBehind_warps (s : State) (g : Group) (f : Fence) : (s.discardBehind g f).warps = s.warps := by
  simp [State.discardBehind]

@[simp] theorem State.fenceComplete_warps (s : State) (c : CoreId) (fid : Nat) : (s.fenceComplete c fid).warps = s.warps := by
  dsimp only [State.fenceComplete]
  split
  · rfl
  · split
    · simp
    · split
      · rfl
      · split
        next h => simp [State.engineAdd_warps h]
        · split <;> simp

@[simp] theorem State.popMx_warps (s : State) (c : CoreId) (slot : Nat) : (s.popMx c slot).warps = s.warps := by simp [State.popMx]

@[simp] theorem State.guardedOff_warps (s : State) (c : CoreId) (queue slot : Nat) : (s.guardedOff c queue slot).warps = s.warps := by
  unfold State.guardedOff; (repeat' split) <;> simp

/-! ### Pooling -/

@[simp] theorem State.poolComplete_warps (s : State) (g : Group) (e : EngEntry) : (s.poolComplete g e).warps = s.warps := by
  simp [State.poolComplete]

@[simp] theorem State.freeBytes_warps (s : State) (n : Nat) : (s.freeBytes n).1.warps = s.warps := by simp [State.freeBytes]

/-! ### Matrix queues -/

@[simp] theorem State.pushMx_warps (s : State) (g : Group) (e : MxEntry) : (s.pushMx g e).warps = s.warps := by simp [State.pushMx]

@[simp] theorem State.pushBatch_warps (s : State) (g : Group) (e : MxEntry) : (s.pushBatch g e).warps = s.warps := by simp [State.pushBatch]

@[simp] theorem State.modWindow_warps (s : State) (c : CoreId) (eid : Nat) (f : Window → Window) : (s.modWindow c eid f).warps = s.warps := by
  simp [State.modWindow]

/-! ### The matrix engine -/

@[simp] theorem State.feedWindows_warps (s : State) (c : CoreId) : (s.feedWindows c).warps = s.warps := by
  refine State.foldl_warps (fun t v => ?_) _ _
  split <;> simp

@[simp] theorem State.mxFail_warps (s : State) (g : Group) (e : MxEntry) (c : Cause) : (s.mxFail g e c).warps = s.warps := by simp [State.mxFail]

@[simp] theorem State.mxDone_warps (s : State) (g : Group) : (s.mxDone g).warps = s.warps := by simp [State.mxDone]

@[simp] theorem State.beginRun_warps (s : State) (c : CoreId) (r : MxRun) : (s.beginRun c r).warps = s.warps := by simp [State.beginRun]

@[simp] theorem State.endWindow_warps (s : State) (c : CoreId) (eid : Nat) : (s.endWindow c eid).warps = s.warps := by
  unfold State.endWindow; split <;> simp

@[simp] theorem State.tileWrite_warps (s : State) (c : CoreId) : (s.tileWrite c).warps = s.warps := by unfold State.tileWrite; split <;> simp

@[simp] theorem State.rowDrop_warps (s : State) (c : CoreId) (lane : Nat) : (s.rowDrop c lane).warps = s.warps := by
  unfold State.rowDrop; split <;> simp

@[simp] theorem State.blockStart_warps (s : State) (c : CoreId) (b : Nat) : (s.blockStart c b).warps = s.warps := by
  unfold State.blockStart; (repeat' split) <;> simp

/-! ### Groups -/

@[simp] theorem State.mail_warps (s : State) (die : Nat) (b : List Byte) : (s.mail die b).warps = s.warps := by simp [State.mail]

theorem State.pickUnused_warps_of_eq {s t : State} {used : List Nat} {lo n : Nat} {k : Option Nat} (h : s.pickUnused used lo n = (k, t)) :
    t.warps = s.warps := by
  simpa [h] using s.pickUnused_warps used lo n

@[simp] theorem State.newSlot_warps (s : State) (c : CoreId) : (s.newSlot c).2.warps = s.warps := by
  dsimp only [State.newSlot]
  split <;> next h => exact State.pickUnused_warps_of_eq h

@[simp] theorem State.notify_warps (s : State) (c : CoreId) (b : List Byte) : (s.notify c b).warps = s.warps := by simp [State.notify]

@[simp] theorem State.endGroup_warps (s : State) (g : Group) (killed : Bool) : (s.endGroup g killed).warps = s.warps := by simp [State.endGroup]

@[simp] theorem State.groupEnd_warps (s : State) (c : CoreId) (slot : Nat) : (s.groupEnd c slot).warps = s.warps := by
  unfold State.groupEnd; split <;> simp

@[simp] theorem State.dropWaits_warps (s : State) (c : CoreId) (slot : Nat) : (s.dropWaits c slot).warps = s.warps := by simp [State.dropWaits]

@[simp] theorem State.dropEntries_warps (s : State) (c : CoreId) (slot : Nat) : (s.dropEntries c slot).warps = s.warps := by
  simp [State.dropEntries]

@[simp] theorem State.dropHeldAdds_warps (s : State) (c : CoreId) (slot : Nat) : (s.dropHeldAdds c slot).warps = s.warps := by
  simp [State.dropHeldAdds]

/-! ### Launch -/

/-! ### Traps and pre-emption -/

@[simp] theorem State.softTrap_warps (s : State) (w : Warp) (x : LongOp) (cls : Nat) : (s.softTrap w x cls).warps = s.warps := by
  simp [State.softTrap]

@[simp] theorem State.raiseDeferred_warps (s : State) (c : CoreId) (slot : Nat) : (s.raiseDeferred c slot).warps = s.warps := by
  unfold State.raiseDeferred; split <;> simp

@[simp] theorem State.requestPreempt_warps (s : State) (c : CoreId) (slot cause : Nat) : (s.requestPreempt c slot cause).warps = s.warps := by
  simp [State.requestPreempt]

/-! ### Generation raises -/

@[simp] theorem State.startRaise_warps (s : State) (die asid : Nat) (warp : Option WarpId) (ccp : Option (Nat × Nat)) :
    (s.startRaise die asid warp ccp).warps = s.warps := by
  simp [State.startRaise]

@[simp] theorem State.receiveGen_warps (s : State) (c : CoreId) (r : Raise) : (s.receiveGen c r).warps = s.warps := by simp [State.receiveGen]

@[simp] theorem State.broadcast_warps (s : State) (c : CoreId) : (s.broadcast c).warps = s.warps := by simp [State.broadcast]

@[simp] theorem State.send_warps (s : State) (o : Out) : (s.send o).warps = s.warps := by simp [State.send]

@[simp] theorem State.l1AllHome_warps (s : State) : (s.l1AllHome).warps = s.warps := by simp [State.l1AllHome]

@[simp] theorem State.raiseEnd_warps (s : State) : (s.raiseEnd).warps = s.warps := by unfold State.raiseEnd; (repeat' split) <;> simp

/-! ### Contexts -/

@[simp] theorem State.sendMail_warps (s : State) (die : Nat) (b : List Byte) : (s.sendMail die b).warps = s.warps := by simp [State.sendMail]

@[simp] theorem State.takeEntries_warps (s : State) (c : CoreId) (slot : Nat) : (s.takeEntries c slot).warps = s.warps := by
  simp [State.takeEntries]

theorem State.saveWarps_warps {s t : State} {g : Group} {ws : List Warp} (h : s.saveWarps g ws = .ok t) : t.warps = s.warps := by
  induction ws generalizing s with
  | nil => cases h; rfl
  | cons w ws ih =>
    unfold State.saveWarps at h
    split at h
    · cases h
    next hs => simpa [State.spillOut_warps hs] using ih h

@[simp] theorem State.swapStuck_warps (s : State) (g : Group) (cause : Nat) (f : AccFail) : (s.swapStuck g cause f).warps = s.warps := by
  simp [State.swapStuck]

@[simp] theorem State.restoreRecs_warps (s : State) (g : Group) (recs : List (List Byte)) : (s.restoreRecs g recs).warps = s.warps := by
  simp [State.restoreRecs]

@[simp] theorem State.pullVA_warps (s : State) (w : Who) (va n : Nat) : (s.pullVA w va n).warps = s.warps := by unfold State.pullVA; split <;> simp

@[simp] theorem State.imageHome_warps (s : State) (w : Who) (f : Nat) : (s.imageHome w f).warps = s.warps := by
  dsimp only [State.imageHome]; split <;> simp

/-! ### Catalogues -/

@[simp] theorem State.frame_warps (s : State) (port : Nat) (k : FrameKind) : (s.frame port k).warps = s.warps := by simp [State.frame]

@[simp] theorem State.ccpDrop_warps (s : State) (m : Ccp) : (s.ccpDrop m).warps = s.warps := by simp [State.ccpDrop]

@[simp] theorem State.ccpAccept_warps (s : State) (m : Ccp) : (s.ccpAccept m).warps = s.warps := by simp [State.ccpAccept]

@[simp] theorem State.reply_warps (s : State) (m : Ccp) (code : Nat) (body : List Nat) : (s.reply m code body).warps = s.warps := by
  simp [State.reply]

theorem State.ccp_warps {s : State} {m : Ccp} {ty : Nat} {f : State → State} (hf : ∀ t, (f t).warps = t.warps) :
    (s.ccp m ty f).warps = s.warps := by
  dsimp only [State.ccp]
  (repeat' split) <;> simp [hf]

theorem State.ccpActive_warps {s : State} {m : Ccp} {ty : Nat} {f : State → State} (hf : ∀ t, (f t).warps = t.warps) :
    (s.ccpActive m ty f).warps = s.warps := by
  refine State.ccp_warps fun t => ?_
  dsimp only
  split <;> simp [hf]

@[simp] theorem State.unlisted_warps (s : State) (m : Ccp) : (s.unlisted m).warps = s.warps := State.ccp_warps fun t => by simp

@[simp] theorem State.catload_warps (s : State) (m : Ccp) (image : List Byte) : (s.catload m image).warps = s.warps := by
  refine State.ccpActive_warps fun t => ?_
  dsimp only
  split
  · simp
  · split
    · simp
    · split <;> next h => simp [State.pickUnused_warps_of_eq h]

@[simp] theorem State.kick_warps (s : State) (m : Ccp) (cat kickSeq : Nat) (patches : List Patch) :
    (s.kick m cat kickSeq patches).warps = s.warps := by
  refine State.ccpActive_warps fun t => ?_
  dsimp only
  (repeat' split) <;> simp

@[simp] theorem State.sendPacket_warps (s : State) (wing cat : Nat) : (s.sendPacket wing cat).warps = s.warps := by
  unfold State.sendPacket; (repeat' split) <;> simp

theorem State.unitAdd_warps {s t : State} {asid wing va : Nat} {amt : DWord} {spill : Bool} (h : s.unitAdd asid wing va amt = .ok (t, spill)) :
    t.warps = s.warps := by
  unfold State.unitAdd at h
  split at h
  · cases h
  · split at h <;> cases h
    · rfl
    · simp

@[simp] theorem State.unitReport_warps (s : State) (wing : Nat) (src : RepSrc) (place : Nat) (c : Cause) :
    (s.unitReport wing src place c).warps = s.warps := by
  simp [State.unitReport]

@[simp] theorem State.doneAdd_warps (s : State) (c : Catalogue) : (s.doneAdd c).warps = s.warps := by
  dsimp only [State.doneAdd]
  split
  · rfl
  · split
    · simp
    next h => split <;> simp [State.unitAdd_warps h]

@[simp] theorem State.sendDone_warps (s : State) (wing seq status node : Nat) : (s.sendDone wing seq status node).warps = s.warps := by
  simp [State.sendDone]

@[simp] theorem State.replayEnd_warps (s : State) (wing cat : Nat) : (s.replayEnd wing cat).warps = s.warps := by
  unfold State.replayEnd; (repeat' split) <;> simp

/-! ### The fabric -/

@[simp] theorem State.mergeInto_warps (s : State) (a b : Packet) : (s.mergeInto a b).warps = s.warps := by simp [State.mergeInto]

@[simp] theorem State.arrive_warps (s : State) (pid : Nat) : (s.arrive pid).warps = s.warps := by simp [State.arrive]

@[simp] theorem State.meshStep_warps (s : State) (pid granted : Nat) (merge : Bool) : (s.meshStep pid granted merge).warps = s.warps := by
  dsimp only [State.meshStep]; (repeat' split) <;> simp

@[simp] theorem State.tileStep_warps (s : State) (pid : Nat) : (s.tileStep pid).warps = s.warps := by
  unfold State.tileStep; (repeat' split) <;> simp

@[simp] theorem State.slotStep_warps (s : State) : (s.slotStep).warps = s.warps := by simp [State.slotStep]

@[simp] theorem State.sendReports_warps (s : State) : (s.sendReports).warps = s.warps := by simp [State.sendReports]

@[simp] theorem State.askMemory_warps (s : State) (p : Packet) (r : Req) : (s.askMemory p r).warps = s.warps := by simp [State.askMemory]

@[simp] theorem State.answerRead_warps (s : State) (p : Packet) (r : Req) (data : List Byte) : (s.answerRead p r data).warps = s.warps := by
  unfold State.answerRead; split <;> simp

@[simp] theorem State.refuse_warps (s : State) (p : Packet) (pa : Nat) : (s.refuse p pa).warps = s.warps := by simp [State.refuse]

@[simp] theorem State.l2Serve_warps (s : State) (pid : Nat) : (s.l2Serve pid).warps = s.warps := by unfold State.l2Serve; (repeat' split) <;> simp

@[simp] theorem State.overflow_warps (s : State) (r : Req) : (s.overflow r).warps = s.warps := by unfold State.overflow; split <;> simp

@[simp] theorem State.atomServe_warps (s : State) (r : Req) (p : Packet) : (s.atomServe r p).warps = s.warps := by
  cases hk : r.kind <;> simp only [State.atomServe, hk]
  case atom => simp
  case cwait => (repeat' split) <;> simp
  case cread => simp

@[simp] theorem State.atomicService_warps (s : State) (pid : Nat) : (s.atomicService pid).warps = s.warps := by
  dsimp only [State.atomicService]
  iterate 2 (split; · rfl)
  iterate 4 (split; · simp)
  exact State.warps_of_ite (by simp) (State.warps_of_ite (State.foldl_warps (fun t q => by split <;> simp) _ _) rfl)

@[simp] theorem State.cwaitRetry_warps (s : State) (c : CoreId) (rid : Nat) : (s.cwaitRetry c rid).warps = s.warps := by
  unfold State.cwaitRetry; (repeat' split) <;> simp

@[simp] theorem State.l2Forget_warps (s : State) (m : MemReq) : (s.l2Forget m).warps = s.warps := by simp [State.l2Forget]

@[simp] theorem State.scrub_warps (s : State) (n : Nat) (e : Ecc) : (s.scrub n e).warps = s.warps := by dsimp only [State.scrub]; split <;> simp

@[simp] theorem State.maintenance_warps (s : State) (n : Nat) (refreshDone : Bool) (e : Ecc) (_overwritten : Bool) :
    (s.maintenance n refreshDone e _overwritten).warps = s.warps := by
  simp [State.maintenance]

@[simp] theorem State.fenceReport_warps (s : State) (owner : Option Wing) (src : RepSrc) (place : Nat) :
    (s.fenceReport owner src place).warps = s.warps := by
  simp [State.fenceReport]

@[simp] theorem State.fenceStack_warps (s : State) (n : Nat) : (s.fenceStack n).warps = s.warps := by simp [State.fenceStack]

@[simp] theorem State.fenceBuffer_warps (s : State) (n : Nat) : (s.fenceBuffer n).warps = s.warps := by simp [State.fenceBuffer]

@[simp] theorem State.stackTemp_warps (s : State) (n celsius : Nat) : (s.stackTemp n celsius).warps = s.warps := by simp [State.stackTemp]

@[simp] theorem State.bufferScrub_warps (s : State) (n : Nat) (e : Ecc) : (s.bufferScrub n e).warps = s.warps := by simp [State.bufferScrub]

/-! ### Ports -/

@[simp] theorem State.nak_warps (s : State) (qp : Nat) : (s.nak qp).warps = s.warps := by simp [State.nak]

@[simp] theorem State.place_warps (s : State) (w : Who) (va : Nat) (data : List Byte) : (s.place w va data).1.warps = s.warps := by
  simp [State.place]

@[simp] theorem State.roceDone_warps (s : State) (q : Qp) (len : Nat) (data : List Byte) : (s.roceDone q len data).warps = s.warps := by
  simp [State.roceDone]

@[simp] theorem State.roceFault_warps (s : State) (q : Qp) (c : Cause) : (s.roceFault q c).warps = s.warps := by simp [State.roceFault]

@[simp] theorem State.placed_warps (s : State) (q : Qp) (m : Placing) : (s.placed q m).warps = s.warps := by
  unfold State.placed
  split
  · split
    · simp
    next h => split <;> simp [State.unitAdd_warps h]
  · simp

theorem State.place_warps_of_eq {s t : State} {w : Who} {va : Nat} {data : List Byte} {c : Option Cause} (h : s.place w va data = (t, c)) :
    t.warps = s.warps := by
  simpa [h] using s.place_warps w va data

@[simp] theorem State.placeNext_warps (s : State) (qp : Nat) : (s.placeNext qp).warps = s.warps := by
  dsimp only [State.placeNext]
  split
  · rfl
  · split
    · rfl
    · split
      next h => simp [State.place_warps_of_eq h]
      next h => split <;> simp [State.place_warps_of_eq h]

theorem State.roce_warps {s : State} {qp : Nat} {f : Qp → State} (hf : ∀ q, (f q).warps = s.warps) : (s.roce qp f).warps = s.warps := by
  dsimp only [State.roce]
  (repeat' split) <;> simp [hf]

@[simp] theorem State.roceWrite_warps (s : State) (qp rkey va : Nat) (data : List Byte) (imm : Option Word) :
    (s.roceWrite qp rkey va data imm).warps = s.warps := by
  refine State.roce_warps fun q => ?_
  split <;> simp

@[simp] theorem State.roceRead_warps (s : State) (qp rkey va len : Nat) : (s.roceRead qp rkey va len).warps = s.warps := by
  refine State.roce_warps fun q => ?_
  (repeat' split) <;> simp

@[simp] theorem State.finish_warps (s : State) (qp status : Nat) : (s.finish qp status).warps = s.warps := by
  dsimp only [State.finish]
  split
  · rfl
  · split
    · simp [apply_ite State.warps]
    next h => split <;> simp [State.unitAdd_warps h, apply_ite State.warps]

@[simp] theorem State.finishKnown_warps (s : State) (qp n : Nat) : (s.finishKnown qp n).warps = s.warps := by
  induction n generalizing s with
  | zero => rfl
  | succ n ih => unfold State.finishKnown; split <;> simp [ih]

@[simp] theorem State.finishAll_warps (s : State) (qp : Nat) : (s.finishAll qp).warps = s.warps := by simp [State.finishAll]

@[simp] theorem State.enlist_warps (s : State) (qp : Nat) (d : SendDesc) : (s.enlist qp d).warps = s.warps := by simp [State.enlist]

@[simp] theorem State.perform_warps (s : State) (q : Qp) (b : List Byte) : (s.perform q b).warps = s.warps := by
  dsimp only [State.perform]; (repeat' split) <;> simp

@[simp] theorem State.takeDescriptor_warps (s : State) (qp : Nat) : (s.takeDescriptor qp).warps = s.warps := by
  dsimp only [State.takeDescriptor]; (repeat' split) <;> simp

@[simp] theorem State.completeDescriptor_warps (s : State) (qp : Nat) (nak : Bool) (data : List Byte) :
    (s.completeDescriptor qp nak data).warps = s.warps := by
  unfold State.completeDescriptor
  split
  · rfl
  · refine State.roce_warps fun q => ?_
    split
    · rfl
    · split
      · simp
      · split
        · split <;> next h => simp [State.place_warps_of_eq h]
        · simp

@[simp] theorem State.qpCreate_warps (s : State) (m : Ccp) (b) : (s.qpCreate m b).warps = s.warps := by
  refine State.ccpActive_warps fun t => ?_
  dsimp only
  iterate 4 (split; · simp)
  split <;> next h => simp [State.pickUnused_warps_of_eq h]

@[simp] theorem State.mrReg_warps (s : State) (m : Ccp) (b : MrBody) : (s.mrReg m b).warps = s.warps := by
  refine State.ccpActive_warps fun t => ?_
  dsimp only
  split
  · simp
  · split
    · simp
    · split <;> next h => simp [State.pickUnused_warps_of_eq h]

/-! ### Wings and keys -/

@[simp] theorem State.l2Leave_warps (s : State) (p : L2Line → Bool) : (s.l2Leave p).warps = s.warps := by simp [State.l2Leave]

@[simp] theorem State.curatorWings_warps (s : State) : (s.curatorWings).warps = s.warps := by simp [State.curatorWings]

@[simp] theorem State.beginZeroing_warps (s : State) (dies : BitVec 9) (bufs : BitVec 8) : (s.beginZeroing dies bufs).warps = s.warps := by
  simp [State.beginZeroing]

@[simp] theorem State.freeWing_warps (s : State) (n : Nat) : (s.freeWing n).warps = s.warps := by simp [State.freeWing]

@[simp] theorem State.wingSet_warps (s : State) (m : Ccp) (b : WingBody) : (s.wingSet m b).warps = s.warps := by
  refine State.ccp_warps fun t => ?_
  dsimp only
  (repeat' split) <;> simp

@[simp] theorem State.dropQueued_warps (s : State) (wing : Nat) : (s.dropQueued wing).warps = s.warps := by simp [State.dropQueued]

@[simp] theorem State.closeQps_warps (s : State) (wing : Nat) : (s.closeQps wing).warps = s.warps := by simp [State.closeQps]

@[simp] theorem State.wingQuiesce_warps (s : State) (m : Ccp) (b : Nat) : (s.wingQuiesce m b).warps = s.warps := by
  refine State.ccp_warps fun t => ?_
  (repeat' split) <;> simp

@[simp] theorem State.wingQuiesced_warps (s : State) (wing : Nat) : (s.wingQuiesced wing).warps = s.warps := by simp [State.wingQuiesced]

@[simp] theorem State.slotSet_warps (s : State) (m : Ccp) (b) : (s.slotSet m b).warps = s.warps := by
  refine State.ccp_warps fun t => ?_
  (repeat' split) <;> simp

@[simp] theorem State.keyLoad_warps (s : State) (m : Ccp) (b : Wrapped) (r : Bool) : (s.keyLoad m b r).warps = s.warps := by
  refine State.ccp_warps fun t => ?_
  dsimp only
  (repeat' split) <;> simp

@[simp] theorem State.killReplay_warps (s : State) (c : Catalogue) (node : Nat) : (s.killReplay c node).warps = s.warps := by
  unfold State.killReplay; split <;> simp

@[simp] theorem State.killReplays_warps (s : State) (wing : Nat) (groups : List Group) : (s.killReplays wing groups).warps = s.warps := by
  simp [State.killReplays]

@[simp] theorem State.l1Empty_warps (s : State) (c : CoreId) : (s.l1Empty c).warps = s.warps := by simp [State.l1Empty]

@[simp] theorem State.dropNotices_warps (s : State) (d : Nat) : (s.dropNotices d).warps = s.warps := rfl

/-! ### Management -/

@[simp] theorem State.refuseMonitors_warps (s : State) (d : Nat) : (s.refuseMonitors d).warps = s.warps := by simp [State.refuseMonitors]

@[simp] theorem State.stopUncore_warps (s : State) (d : Nat) (to_ : Domain) : (s.stopUncore d to_).warps = s.warps := by simp [State.stopUncore]

@[simp] theorem State.failQp_warps (s : State) (q : Qp) : (s.failQp q).warps = s.warps := by simp [State.failQp]

@[simp] theorem State.binRow_warps (s : State) (r : Nat × Nat × Nat) : (s.binRow r).warps = s.warps := by simp [State.binRow]

@[simp] theorem State.clearCounts_warps (s : State) (n : Nat) : (s.clearCounts n).warps = s.warps := by simp [State.clearCounts]

@[simp] theorem State.clearFull_warps (s : State) (n : Nat) : (s.clearFull n).warps = s.warps := by simp [State.clearFull]

/-! ### Streams -/

@[simp] theorem State.memRead_warps (s : State) (m : MemReq) (e : Ecc) : (s.memRead m e).warps = s.warps := by
  dsimp only [State.memRead]; (repeat' split) <;> simp

@[simp] theorem State.poolView_warps (s : State) (c : CoreId) (view : Nat) (ecc : Ecc) : (s.poolView c view ecc).warps = s.warps := by
  dsimp only [State.poolView]; (repeat' split) <;> simp
/-- What each step of a fold keeps of a result that is no error, the fold keeps. -/

theorem State.loadRows_warps {s t : State} {g : Group} {glob : Bool} {a pitch : Nat} {k : Check} {rows : List (List Byte)}
    (h : s.loadRows g glob a pitch k = .ok (t, rows)) : t.warps = s.warps := by
  refine foldl_ok (P := fun c => c.1.warps = s.warps) (fun r i b hb => ?_) h rfl
  split at hb
  · cases hb
  · refine ⟨_, rfl, fun hst => ?_⟩
    split at hb
    · split at hb <;> cases hb
      simpa using hst
    · cases hb; exact hst

theorem State.mmvResult_warps {s t : State} {g : Group} {e : MxEntry} {k : Check} {rows : List (Nat × List Word)} {n : Nat}
    (h : s.mmvResult g e k = .ok (t, rows, n)) : t.warps = s.warps := by
  dsimp only [State.mmvResult] at h
  iterate 3 (split at h; · cases h)
  split at h
  · cases h
  iterate 2 (split at h; · cases h)
  cases h; simp

@[simp] theorem State.mmvStream_warps (s : State) (c : CoreId) (ecc : Ecc) : (s.mmvStream c ecc).warps = s.warps := by
  dsimp only [State.mmvStream]
  split
  · rfl
  · split
    · rfl
    · split
      · simp
      · split
        · simp
        next h => simp [State.mmvResult_warps h]

end Sys2Proof.Machine
end

section
/-!
SUPPORT (O9). What writes memory, scratchpads and tiles leaves every warp as it is.
-/
namespace Sys2Proof.Machine

@[simp] theorem State.dramPut_warps (s : State) (pa : Nat) (b : Byte) : (s.dramPut pa b).warps = s.warps := rfl
@[simp] theorem State.dramScramble_warps (s : State) (pa : Nat) : (s.dramScramble pa).warps = s.warps := by
  dsimp only [State.dramScramble]
  simp only [State.foldl_warps, implies_true]

@[simp] theorem State.dramPuts_warps (s : State) (pa : Nat) (bs : List Byte) : (s.dramPuts pa bs).warps = s.warps := by
  induction bs generalizing s pa with
  | nil => rfl
  | cons b bs ih => simp [State.dramPuts, ih]

@[simp] theorem State.dramZero_warps (s : State) (p : Nat → Bool) : (s.dramZero p).warps = s.warps := rfl
@[simp] theorem State.spmPuts_warps (s : State) (c : CoreId) (a : Nat) (bs : List Byte) : (s.spmPuts c a bs).warps = s.warps := rfl
@[simp] theorem State.grpSpmPuts_warps (s : State) (g : Group) (off : Nat) (bs : List Byte) : (s.grpSpmPuts g off bs).warps = s.warps := rfl
@[simp] theorem State.asRead_warps (s : State) (k : Check) : (s.asRead k).warps = s.warps := by
  unfold State.asRead
  split
  · exact State.foldl_warps (fun _ _ => State.foldl_warps (fun _ _ => State.dramPut_warps ..) _ _) _ _
  · rfl

@[simp] theorem State.memWrite_warps (s : State) (m : MemReq) (e : Ecc) : (s.memWrite m e).warps = s.warps := by
  dsimp only [State.memWrite]
  (repeat' split) <;> simp

@[simp] theorem State.memPerform_warps (s : State) (m : MemReq) (e : Ecc) : (s.memPerform m e).warps = s.warps := by
  unfold State.memPerform; split <;> simp

@[simp] theorem State.serveAll_warps (s : State) (dies : BitVec 9) (bufs : BitVec 8) : (s.serveAll dies bufs).warps = s.warps := by
  simp [State.serveAll]

@[simp] theorem State.revoked_warps (s : State) (wing : Nat) : (s.revoked wing).warps = s.warps := by
  dsimp only [State.revoked]
  (repeat' split) <;> simp

theorem State.lateStep_warps {s t : State} (h : s.lateStep = some t) : t.warps = s.warps := by
  unfold State.lateStep at h
  split at h
  · cases h; simp
  · obtain ⟨w, -, rfl⟩ := Option.map_eq_some_iff.mp h
    simp

@[simp] theorem State.hbmServe_warps (s : State) (n ch : Nat) (e : Ecc) : (s.hbmServe n ch e).warps = s.warps := by
  dsimp only [State.hbmServe]; split <;> simp

@[simp] theorem State.bufferServe_warps (s : State) (n : Nat) (e : Ecc) : (s.bufferServe n e).warps = s.warps := by
  unfold State.bufferServe; split <;> simp

@[simp] theorem State.stackZeroed_warps (s : State) (d : Nat) : (s.stackZeroed d).warps = s.warps := by
  dsimp only [State.stackZeroed]; split <;> simp

@[simp] theorem State.bufferZeroed_warps (s : State) (d : Nat) : (s.bufferZeroed d).warps = s.warps := by
  dsimp only [State.bufferZeroed]; split <;> simp

@[simp] theorem State.deliver_warps (s : State) (c : CoreId) (ch : Nat) (ecc : Ecc) : (s.deliver c ch ecc).warps = s.warps := by
  dsimp only [State.deliver]; (repeat' split) <;> simp

@[simp] theorem State.play_warps (s : State) (g : Group) (c : PlayCmd) (a : Arena) (p : PlayPages) (ck : Check) :
    (s.play g c a p ck).warps = s.warps := by
  simp [State.play]

@[simp] theorem State.binplay_warps (s : State) (c : CoreId) (ecc : Ecc) : (s.binplay c ecc).warps = s.warps := by
  dsimp only [State.binplay]; (repeat' split) <;> simp

@[simp] theorem State.bagDone_warps (s : State) (g : Group) (e : EngEntry) (c : PoolCmd) (status code : Nat) :
    (s.bagDone g e c status code).warps = s.warps := by
  simp only [State.bagDone]; split <;> simp

theorem State.bagWrite_warps {s t : State} {g : Group} {c : PoolCmd} {b : Nat} {bs : List Byte} (h : s.bagWrite g c b bs = .ok t) :
    t.warps = s.warps := by
  dsimp only [State.bagWrite] at h
  split at h
  · cases h; rfl
  · split at h <;> cases h
    simp

@[simp] theorem State.takeBag_warps (s : State) (c : CoreId) : (s.takeBag c).warps = s.warps := by
  dsimp only [State.takeBag]
  split
  · rfl
  · split
    · rfl
    · split
      · simp
      · split
        · simp
        · split
          · split
            · simp
            next hw => simp [State.bagWrite_warps hw]
          · (repeat' split) <;> simp

@[simp] theorem State.combine_warps (s : State) (c : CoreId) : (s.combine c).warps = s.warps := by
  unfold State.combine
  split
  · dsimp only
    split
    · rfl
    · split
      · split
        · simp
        next hw => simp [State.bagWrite_warps hw]
      · split
        · simp
        next hw => simp [State.bagWrite_warps hw]
  · rfl

@[simp] theorem State.storeRows_warps (s : State) (g : Group) (glob bf : Bool) (a pitch : Nat) (rows : List (Nat × List Word)) :
    (s.storeRows g glob bf a pitch rows).1.warps = s.warps := by
  induction rows generalizing s with
  | nil => rfl
  | cons r rows ih =>
    dsimp only [State.storeRows]
    (repeat' split) <;> simp [ih]

theorem State.mxBegin_warps (s : State) (g : Group) (e : MxEntry) (ecc : Ecc) : ∀ t ∈ (s.mxBegin g e ecc).states, t.warps = s.warps := by
  unfold State.mxBegin
  dsimp only
  split
  · split <;> simp [MxStart.states]
  · simp [MxStart.states]
  · simp [MxStart.states]
  · split
    · simp [MxStart.states]
    · split
      · simp [MxStart.states]
      next hl => simp [MxStart.states, State.loadRows_warps hl]
  · split <;> simp [MxStart.states]
  · simp [MxStart.states]

@[simp] theorem State.mxStart_warps (s : State) (c : CoreId) (ecc : Ecc) : (s.mxStart c ecc).warps = s.warps := by
  unfold State.mxStart
  split
  · rfl
  next g e _ =>
    split
    · rfl
    · have hstart := State.mxBegin_warps (s.useBanks g (s.mxRuns g e)) g e ecc
      dsimp only
      split
      next heq => simpa using hstart _ (by rw [heq]; exact List.mem_singleton_self _)
      next heq => simpa using hstart _ (by rw [heq]; exact List.mem_singleton_self _)
      · simp
      next heq => simpa using hstart _ (by rw [heq]; exact List.mem_singleton_self _)

end Sys2Proof.Machine
end

section
/-!
SUPPORT (O9). How many registers a warp has, and the writes that keep the numbers.
-/
namespace Sys2Proof.Machine

/-- VREGS, and the numbers of v, q, s and predicate registers that the warp holds. -/
def Warp.sizes (w : Warp) : Nat × Nat × Nat × Nat × Nat := (w.vregs, w.v.length, w.q.length, w.s.length, w.p.length)

@[simp] theorem Warp.mk_sizes (id grp widx vregs v q lr s p k exec fflags splits ibufs fetching gld gst spm privbase wdlimit waitFrom progress
    fails readyAt held joinCtr age takes ahead lag born) :
    (Warp.mk id grp widx vregs v q lr s p k exec fflags splits ibufs fetching gld gst spm privbase wdlimit waitFrom progress
      fails readyAt held joinCtr age takes ahead lag born).sizes = (vregs, v.length, q.length, s.length, p.length) := by
  rw [Warp.sizes]

@[simp] theorem Warp.lengths_eq_sizes (w : Warp) : (w.vregs, w.v.length, w.q.length, w.s.length, w.p.length) = w.sizes := by rw [Warp.sizes]
@[simp] theorem Warp.ite_sizes (p : Prop) [Decidable p] (w x : Warp) : (if p then w else x).sizes = if p then w.sizes else x.sizes :=
  apply_ite Warp.sizes p w x

@[simp] theorem Warp.foldl_sizes {α : Type} {f : Warp → α → Warp} (hf : ∀ u a, (f u a).sizes = u.sizes) (l : List α) (w : Warp) :
    (l.foldl f w).sizes = w.sizes := by
  induction l generalizing w with
  | nil => rfl
  | cons a l ih => simp [ih, hf]

/-! ### Register writes -/

@[simp] theorem Warp.setV_sizes (w : Warp) (n : Nat) (r : VReg) : (w.setV n r).sizes = w.sizes := by simp [Warp.setV]
@[simp] theorem Warp.setQ_sizes (w : Warp) (n : Nat) (r : VReg) : (w.setQ n r).sizes = w.sizes := by simp [Warp.setQ]
@[simp] theorem Warp.setLr_sizes (w : Warp) (r : VReg) : (w.setLr r).sizes = w.sizes := by simp [Warp.setLr]
@[simp] theorem Warp.setS_sizes (w : Warp) (n : Nat) (x : Word) : (w.setS n x).sizes = w.sizes := by simp [Warp.setS]
@[simp] theorem Warp.setSd_sizes (w : Warp) (n : Nat) (x : DWord) : (w.setSd n x).sizes = w.sizes := by simp [Warp.setSd]
@[simp] theorem Warp.setP_sizes (w : Warp) (n : Nat) (m x : Mask) : (w.setP n m x).sizes = w.sizes := by simp [Warp.setP]
@[simp] theorem Warp.setK_sizes (w : Warp) (n : Nat) (b : Bool) : (w.setK n b).sizes = w.sizes := by simp [Warp.setK]
@[simp] theorem Warp.orFlags_sizes (w : Warp) (f : Flags) : (w.orFlags f).sizes = w.sizes := by simp [Warp.orFlags]
@[simp] theorem Warp.writeLr_sizes (w : Warp) (m : Mask) (sh : Shape) (f : Nat → DWord) : (w.writeLr m sh f).sizes = w.sizes := by simp [Warp.writeLr]
@[simp] theorem Warp.writeReg_sizes (w : Warp) (d : Sel) (wide : Bool) (m : Mask) (sh : Shape) (f : Nat → DWord) :
    (w.writeReg d wide m sh f).sizes = w.sizes := by
  cases d with
  | v n => dsimp only [Warp.writeReg]; split <;> simp only [Warp.setV_sizes]
  | q n => exact Warp.setQ_sizes ..
  | s n => dsimp only [Warp.writeReg]; split <;> simp only [Warp.setSd_sizes, Warp.setS_sizes]
  | _ => rfl

@[simp] theorem Warp.writeDst_sizes (w : Warp) (d : Sel) (wide : Bool) (m : Mask) (sh : Shape) (f : Nat → DWord) :
    (w.writeDst d wide m sh f).sizes = w.sizes := by
  cases d <;> simp [Warp.writeDst]

@[simp] theorem Warp.writePair_sizes (w : Warp) (d : Sel) (x : DWord) : (w.writePair d x).sizes = w.sizes := by simp [Warp.writePair]
@[simp] theorem Warp.writeAll_sizes (w : Warp) (d : Sel) (wide : Bool) (x : DWord) : (w.writeAll d wide x).sizes = w.sizes := by simp [Warp.writeAll]
@[simp] theorem Warp.writeOne_sizes (w : Warp) (d : Sel) (wide : Bool) (t : Nat) (x : DWord) : (w.writeOne d wide t x).sizes = w.sizes := by
  simp [Warp.writeOne]

@[simp] theorem Warp.writeS_sizes (w : Warp) (d : Sel) (x : Word) : (w.writeS d x).sizes = w.sizes := by unfold Warp.writeS; split <;> simp
@[simp] theorem Warp.setPred_sizes (w : Warp) (pd t : Nat) (b : Bool) : (w.setPred pd t b).sizes = w.sizes := by simp [Warp.setPred]
@[simp] theorem Warp.setSys_sizes (w : Warp) (name : Nat) (a : Word) : (w.setSys name a).sizes = w.sizes := by unfold Warp.setSys; split <;> rfl

/-! ### Scheduling -/

@[simp] theorem Warp.modRunning_sizes (w : Warp) (f : Split → Split) : (w.modRunning f).sizes = w.sizes := by simp [Warp.modRunning]
@[simp] theorem Warp.watchFrom_sizes (w : Warp) (clk : Nat) : (w.watchFrom clk).sizes = w.sizes := by simp [Warp.watchFrom]
@[simp] theorem Warp.prefetched_sizes (w : Warp) : w.prefetched.sizes = w.sizes := by simp [Warp.prefetched]
@[simp] theorem Warp.schedule_sizes (w : Warp) (i : Nat) : (w.schedule i).sizes = w.sizes := by
  unfold Warp.schedule; (repeat' split) <;> rfl

@[simp] theorem Warp.turned_sizes (w : Warp) (clk : Nat) : (w.turned clk).sizes = w.sizes := by simp [Warp.turned]
@[simp] theorem Warp.chosen_sizes (w : Warp) (clk : Nat) : (w.chosen clk).sizes = w.sizes := by simp [Warp.chosen]
@[simp] theorem Warp.wakeSleep_sizes (w : Warp) (clk : Nat) : (w.wakeSleep clk).sizes = w.sizes := by simp [Warp.wakeSleep]
@[simp] theorem Warp.wakeBatch_sizes (w : Warp) (n clk : Nat) : (w.wakeBatch n clk).sizes = w.sizes := by simp [Warp.wakeBatch]
@[simp] theorem Warp.ask_sizes (w : Warp) (base : Nat) : (w.ask base).sizes = w.sizes := by simp [Warp.ask]
@[simp] theorem State.wake_sizes (s : State) (w : Warp) : (s.wake w).sizes = w.sizes := by simp [State.wake]
@[simp] theorem State.lagged_sizes (s : State) (w : Warp) : (s.lagged w).sizes = w.sizes := by simp [State.lagged]
theorem State.eligible_sizes {s : State} {w x : Warp} (h : s.eligible w = some x) : x.sizes = w.sizes := by
  unfold State.eligible at h
  split at h
  · cases h
  extract_lets y at h
  have hy : y.sizes = w.sizes := s.wake_sizes w
  clear_value y
  split at h
  · cases h
  split at h
  · cases h
  split at h
  · cases h; exact hy
  split at h <;> cases h
  exact hy

@[simp] theorem Warp.divide_sizes (w : Warp) (parts : List (Nat × Mask)) : (w.divide parts).sizes = w.sizes := by
  dsimp only [Warp.divide]; split <;> rfl

@[simp] theorem Warp.link_sizes (w : Warp) (d : Option Sel) (t : Mask) (ret : Nat) : (w.link d t ret).sizes = w.sizes := by
  unfold Warp.link; split <;> simp

@[simp] theorem Warp.reconv_sizes (w : Warp) (token len : Nat) : (w.reconv token len).sizes = w.sizes := by simp [Warp.reconv]
@[simp] theorem Warp.demote_sizes (w : Warp) (len : Nat) : (w.demote len).sizes = w.sizes := by unfold Warp.demote; split <;> simp
@[simp] theorem Warp.exitSplit_sizes (w : Warp) : w.exitSplit.sizes = w.sizes := by simp [Warp.exitSplit]

/-! ### Instructions -/

@[simp] theorem Warp.execOp_sizes (w : Warp) (x : LongOp) : (w.execOp x).sizes = w.sizes := by
  dsimp only [Warp.execOp]; (repeat' split) <;> simp

@[simp] theorem Warp.kset_sizes (w : Warp) (x : LongOp) : (w.kset x).sizes = w.sizes := by simp [Warp.kset]
@[simp] theorem Warp.kmov_sizes (w : Warp) (x : LongOp) : (w.kmov x).sizes = w.sizes := by
  unfold Warp.kmov; (repeat' split) <;> simp

@[simp] theorem Alu.write_sizes (op : Alu) (w : Warp) (x : LongOp) (m : Mask) (sh : Shape) : (op.write w x m sh).sizes = w.sizes := by
  simp [Alu.write]

theorem Alu.issue_sizes {op : Alu} {w u : Warp} {x : LongOp} {cost : Nat} (h : op.issue w x = some (u, cost)) : u.sizes = w.sizes := by
  dsimp only [Alu.issue] at h
  split at h
  · split at h <;> cases h
    exact op.write_sizes ..
  · cases h
    simp

@[simp] theorem Cross.write_sizes (op : Cross) (w : Warp) (x : LongOp) (m : Mask) : (op.write w x m).sizes = w.sizes := by
  dsimp only [Cross.write]; split <;> simp

@[simp] theorem Warp.addCount_sizes (w : Warp) (c : Cls) (up : Bool) : (w.addCount c up).sizes = w.sizes := by cases c <;> rfl
@[simp] theorem Warp.loadWord_sizes (w : Warp) (n t : Nat) (x : Word) : (w.loadWord n t x).sizes = w.sizes := by simp [Warp.loadWord]
@[simp] theorem Warp.loadWords_sizes (w : Warp) (n t : Nat) (xs : List Word) : (w.loadWords n t xs).sizes = w.sizes := by
  induction xs generalizing w n with
  | nil => rfl
  | cons x xs ih => simp [Warp.loadWords, ih]

@[simp] theorem Warp.receive_sizes (w : Warp) (o : Outst) (t : Nat) (bs : List Byte) : (w.receive o t bs).sizes = w.sizes := by
  dsimp only [Warp.receive]; split <;> simp

@[simp] theorem Warp.receiveWords_sizes (w : Warp) (o : Outst) (t n : Nat) (got : List Piece) : (w.receiveWords o t n got).sizes = w.sizes := by
  refine Warp.foldl_sizes (fun u i => ?_) _ _
  split <;> simp

@[simp] theorem Warp.receiveThread_sizes (w : Warp) (o : Outst) (got : List Piece) (t : Nat) : (w.receiveThread o got t).sizes = w.sizes := by
  have hwhole : (match gotBytes got t (o.form.len t) with | some bs => w.receive o t bs | none => w).sizes = w.sizes := by
    split <;> simp
  dsimp only [Warp.receiveThread]
  split
  · split
    · simp
    · exact hwhole
  · exact hwhole

@[simp] theorem Warp.makeGeneral_sizes (w : Warp) (d : Sel) (n : Nat) : (w.makeGeneral d n).sizes = w.sizes := by
  cases d with
  | v n => exact Warp.foldl_sizes (fun _ _ => Warp.setV_sizes ..) _ _
  | q n => exact Warp.setQ_sizes ..
  | _ => rfl

@[simp] theorem Warp.runThread_sizes (w : Warp) (x : LongOp) (r : RunForm) (t : Nat) : (w.runThread x r t).sizes = w.sizes := by
  simp [Warp.runThread]

/-! ### What a warp needs -/

/-- VREGS v registers at least, 8 q, 64 s and 7 predicate registers. -/
def SizesOk : Nat × Nat × Nat × Nat × Nat → Prop := fun (vregs, v, q, s, p) => vregs ≤ v ∧ q = 8 ∧ s = 64 ∧ p = 7

theorem Warp.regsOk_iff {w : Warp} : w.regsOk = true ↔ SizesOk w.sizes := by
  simp only [Warp.regsOk, SizesOk, Warp.sizes, and_assoc, Bool.and_eq_true, decide_eq_true_eq, beq_iff_eq]

theorem length_startRegs (params : List Word) (gidx ngroups widx warps : Nat) : (startRegs params gidx ngroups widx warps).length = 64 := by
  simp [startRegs]

theorem SizesOk.create {sregs : List Word} (hs : sregs.length = 64) (id : WarpId) (grp widx vregs entry privbase clk : Nat) (held : Bool)
    (join : Option Nat) : SizesOk (Warp.create id grp widx vregs entry privbase clk sregs held join).sizes := by
  simp [Warp.create, SizesOk, hs]

theorem SizesOk.child {w : Warp} (h : SizesOk w.sizes) (g : Group) (id : WarpId) (widx n entry clk ctr : Nat) :
    SizesOk (w.child g id widx n entry clk ctr).sizes := by
  obtain ⟨-, -, hs, -⟩ := h
  exact SizesOk.create (by simpa using hs) ..

theorem SizesOk.ofRecord (c : CoreId) (grp clk : Nat) (b : List Byte) (more : List Split) (d : WarpSide) :
    SizesOk (Warp.ofRecord c grp clk b more d).sizes := by
  simp [Warp.ofRecord, SizesOk]

/-- The numbers of registers of the warps of a list. -/
def sizesOf (l : List Warp) : List (Nat × Nat × Nat × Nat × Nat) := l.map Warp.sizes

/-- Every entry is that of a warp with the registers that it needs. -/
structure RegsOk (l : List (Nat × Nat × Nat × Nat × Nat)) : Prop where
  all : ∀ z ∈ l, SizesOk z

theorem RegsOk_iff {l : List (Nat × Nat × Nat × Nat × Nat)} : RegsOk l ↔ ∀ z ∈ l, SizesOk z := ⟨RegsOk.all, RegsOk.mk⟩
theorem RegsOk_sizesOf_iff {l : List Warp} : RegsOk (sizesOf l) ↔ ∀ w ∈ l, SizesOk w.sizes := RegsOk_iff.trans List.forall_mem_map
@[simp] theorem sizesOf_nil : sizesOf [] = [] := rfl
@[simp] theorem RegsOk_nil : RegsOk [] := ⟨List.forall_mem_nil _⟩
@[simp] theorem RegsOk_cons {z : Nat × Nat × Nat × Nat × Nat} {l : List (Nat × Nat × Nat × Nat × Nat)} :
    RegsOk (z :: l) ↔ SizesOk z ∧ RegsOk l := by
  simp only [RegsOk_iff, List.forall_mem_cons]

@[simp] theorem RegsOk_append {l m : List (Nat × Nat × Nat × Nat × Nat)} : RegsOk (l ++ m) ↔ RegsOk l ∧ RegsOk m := by
  simp only [RegsOk_iff, List.forall_mem_append]

@[simp] theorem sizesOf_append (l m : List Warp) : sizesOf (l ++ m) = sizesOf l ++ sizesOf m := List.map_append
@[simp] theorem sizesOf_ite (p : Prop) [Decidable p] (l m : List Warp) : sizesOf (if p then l else m) = if p then sizesOf l else sizesOf m :=
  apply_ite sizesOf p l m

@[simp] theorem RegsOk_ite (p : Prop) [Decidable p] (l m : List (Nat × Nat × Nat × Nat × Nat)) :
    RegsOk (if p then l else m) = if p then RegsOk l else RegsOk m := apply_ite RegsOk p l m

@[simp] theorem sizesOf_map {f : Warp → Warp} (hf : ∀ w, (f w).sizes = w.sizes) (l : List Warp) : sizesOf (l.map f) = sizesOf l := by
  rw [sizesOf, List.map_map]
  exact List.map_congr_left fun w _ => hf w

@[simp] theorem RegsOk.filter {l : List Warp} (h : RegsOk (sizesOf l)) (p : Warp → Bool) : RegsOk (sizesOf (l.filter p)) :=
  RegsOk_sizesOf_iff.mpr fun w hw => RegsOk_sizesOf_iff.mp h w (List.mem_of_mem_filter hw)

end Sys2Proof.Machine
end

section
/-!
SUPPORT (O9). What leaves the numbers of registers of every warp as they are.
-/
namespace Sys2Proof.Machine

@[simp] theorem State.foldl_sizes {α : Type} {f : State → α → State} (hf : ∀ t x, sizesOf (f t x).warps = sizesOf t.warps) (l : List α) (s : State) :
    sizesOf (l.foldl f s).warps = sizesOf s.warps := by
  induction l generalizing s with
  | nil => rfl
  | cons x l ih => simp [ih, hf]

@[simp] theorem State.modWarp_sizes (s : State) (id : WarpId) (f : Warp → Warp) (hf : ∀ w, (f w).sizes = w.sizes) :
    sizesOf (s.modWarp id f).warps = sizesOf s.warps := by
  simp [State.modWarp, hf]

@[simp] theorem State.retireAt_sizes (s : State) (id : WarpId) (len cost : Nat) : sizesOf (s.retireAt id len cost).warps = sizesOf s.warps := by
  simp [State.retireAt]

@[simp] theorem State.walkFailed_sizes (s : State) (w : WarpId) (f : WalkFail) : sizesOf (s.walkFailed w f).warps = sizesOf s.warps := by
  simp [State.walkFailed]

@[simp] theorem State.startWalk_sizes (s : State) (c : CoreId) (w : WarpId) (asid va : Nat) :
    sizesOf (s.startWalk c w asid va).warps = sizesOf s.warps := by
  dsimp only [State.startWalk]; split <;> simp

@[simp] theorem State.startWalks_sizes (s : State) (w : Warp) (g : Group) (vas : List Nat) :
    sizesOf (s.startWalks w g vas).warps = sizesOf s.warps := by
  simp [State.startWalks]

@[simp] theorem State.launch_sizes (s : State) (w : Warp) (g : Group) (o : ReqOpts) (shape : ReqShape) (whole : Bool) (cls : Cls) (dst : Sel)
    (form : LdForm) (accs : List Acc) : sizesOf (s.launch w g o shape whole cls dst form accs).1.warps = sizesOf s.warps := by
  simp [State.launch]

@[simp] theorem State.finishReq_sizes (s : State) (c : CoreId) (iid : Nat) : sizesOf (s.finishReq c iid).warps = sizesOf s.warps := by
  unfold State.finishReq; split <;> simp

@[simp] theorem State.endReq_sizes (s : State) (r : Req) : sizesOf (s.endReq r).warps = sizesOf s.warps := by simp [State.endReq]
@[simp] theorem State.receive_sizes (s : State) (r : Req) : sizesOf (s.receive r).warps = sizesOf s.warps := by
  unfold State.receive; split <;> simp

@[simp] theorem State.spmServe_sizes (s : State) (r : Req) : sizesOf (s.spmServe r).warps = sizesOf s.warps := by
  unfold State.spmServe; split <;> simp

@[simp] theorem State.serveBanks_sizes (s : State) (c : CoreId) : sizesOf (s.serveBanks c).warps = sizesOf s.warps := by
  refine State.foldl_sizes (fun t b => ?_) _ _
  split <;> simp

@[simp] theorem State.enterLoad_sizes (s : State) (r : Req) : sizesOf (s.enterLoad r).warps = sizesOf s.warps := by
  dsimp only [State.enterLoad]; split <;> simp

@[simp] theorem State.enterStore_sizes (s : State) (r : Req) : sizesOf (s.enterStore r).warps = sizesOf s.warps := by
  dsimp only [State.enterStore]; (repeat' split) <;> simp

@[simp] theorem State.enterOther_sizes (s : State) (r : Req) : sizesOf (s.enterOther r).warps = sizesOf s.warps := by
  unfold State.enterOther; (repeat' split) <;> simp

@[simp] theorem State.enterReq_sizes (s : State) (r : Req) : sizesOf (s.enterReq r).warps = sizesOf s.warps := by
  unfold State.enterReq; split <;> simp

@[simp] theorem State.pump_sizes (s : State) (c : CoreId) : sizesOf (s.pump c).warps = sizesOf s.warps := by
  refine State.foldl_sizes (fun t rid => ?_) _ _
  (repeat' split) <;> simp

@[simp] theorem State.moveOn_sizes (s : State) (c : CoreId) : sizesOf (s.moveOn c).warps = sizesOf s.warps := by simp [State.moveOn]
@[simp] theorem State.takeLine_sizes (s : State) (data : List Byte) (q : Req) : sizesOf (s.takeLine data q).warps = sizesOf s.warps := by
  simp [State.takeLine]

@[simp] theorem State.fill_sizes (s : State) (r : Req) (secs : List Nat) (data : List Byte) (hint : Option Nat) :
    sizesOf (s.fill r secs data hint).warps = sizesOf s.warps := by
  simp [State.fill]

@[simp] theorem State.fillFault_sizes (s : State) (r : Req) (aux : DWord) : sizesOf (s.fillFault r aux).warps = sizesOf s.warps := by
  simp [State.fillFault]

@[simp] theorem State.casPred_sizes (s : State) (r : Req) (ok : Bool) : sizesOf (s.casPred r ok).warps = sizesOf s.warps := by
  unfold State.casPred; (repeat' split) <;> simp

@[simp] theorem State.counterDone_sizes (s : State) (w : Warp) (x : LongOp) (acq : Bool) :
    sizesOf (s.counterDone w x acq).warps = sizesOf s.warps := by
  simp [State.counterDone]

@[simp] theorem State.wakeBatch_sizes (s : State) (c : CoreId) (slot n : Nat) : sizesOf (s.wakeBatch c slot n).warps = sizesOf s.warps := by
  simp [State.wakeBatch]

@[simp] theorem State.batchComplete_sizes (s : State) (c : CoreId) (slot : Nat) : sizesOf (s.batchComplete c slot).warps = sizesOf s.warps := by
  dsimp only [State.batchComplete]
  split
  · rfl
  · split
    · rfl
    · split
      · simp
      next h => simp [State.engineAdd_warps h]

@[simp] theorem State.cancelCwait_sizes (s : State) (r : Req) : sizesOf (s.cancelCwait r).warps = sizesOf s.warps := by
  unfold State.cancelCwait; split <;> simp

@[simp] theorem State.holdGroup_sizes (s : State) (g : Group) (cause : Nat) (t : TrapRec) :
    sizesOf (s.holdGroup g cause t).warps = sizesOf s.warps := by
  simp [State.holdGroup]

@[simp] theorem State.curatorTrap_sizes (s : State) (c : CoreId) (t : PendTrap) : sizesOf (s.curatorTrap c t).warps = sizesOf s.warps := by
  simp [State.curatorTrap]

@[simp] theorem State.preemptStop_sizes (s : State) (c : CoreId) (slot : Nat) : sizesOf (s.preemptStop c slot).warps = sizesOf s.warps := by
  unfold State.preemptStop; (repeat' split) <;> simp

@[simp] theorem State.release_sizes (s : State) (wing cat : Nat) : sizesOf (s.release wing cat).warps = sizesOf s.warps := by
  unfold State.release; split <;> simp

@[simp] theorem State.cwaitRefused_sizes (s : State) (r : Req) (aux : DWord) : sizesOf (s.cwaitRefused r aux).warps = sizesOf s.warps := by
  unfold State.cwaitRefused; split <;> simp

@[simp] theorem State.portTurn_sizes (s : State) (c : CoreId) (t : Takes) (q : Nat) : sizesOf (s.portTurn c t q).warps = sizesOf s.warps := by
  dsimp only [State.portTurn]; split <;> simp

@[simp] theorem State.walkRead_sizes (s : State) (die i : Nat) (e : Ecc) : sizesOf (s.walkRead die i e).warps = sizesOf s.warps := by
  dsimp only [State.walkRead]; (repeat' split) <;> simp

@[simp] theorem State.formatRead_sizes (s : State) (c : CoreId) (e : Ecc) : sizesOf (s.formatRead c e).warps = sizesOf s.warps := by
  dsimp only [State.formatRead]; (repeat' split) <;> simp

end Sys2Proof.Machine
end

section
/-!
SUPPORT (O9). What stores, adds and drops warps: every warp keeps the registers that it needs.
-/
namespace Sys2Proof.Machine

theorem RegsOk.foldl {α : Type} {f : State → α → State} {l : List α}
    (hf : ∀ t, ∀ x ∈ l, RegsOk (sizesOf t.warps) → RegsOk (sizesOf (f t x).warps)) {s : State} (h : RegsOk (sizesOf s.warps)) :
    RegsOk (sizesOf (l.foldl f s).warps) := by
  induction l generalizing s with
  | nil => exact h
  | cons x l ih =>
    exact ih (fun t y hy => hf t y (List.mem_cons_of_mem x hy)) (hf s x List.mem_cons_self h)

theorem RegsOk.createdWarps {f : Nat → Nat × Nat → Warp} (hf : ∀ i p, SizesOk (f i p).sizes) (place : List (Nat × Nat)) :
    RegsOk (sizesOf (place.mapIdx f)) := by
  refine RegsOk_sizesOf_iff.mpr fun w hw => ?_
  obtain ⟨i, hi, rfl⟩ := List.mem_mapIdx.mp hw
  exact hf ..

theorem RegsOk.restoreWarps {s : State} {g : Group} {res : Res} {recs : List (List Byte)} {ws : List Warp} (hr : s.restoreWarps g res recs = .ok ws) :
    RegsOk (sizesOf ws) := by
  induction recs generalizing ws with
  | nil => cases hr; simp
  | cons b bs ih =>
    dsimp only [State.restoreWarps] at hr
    split at hr
    · cases hr
    · split at hr <;> cases hr
      next hws => exact RegsOk_cons.mpr ⟨.ofRecord .., ih hws⟩

@[simp] theorem RegsOk.warm (s : State) : RegsOk (sizesOf s.warm.warps) := RegsOk_nil

section
variable {s : State} (h : RegsOk (sizesOf s.warps))
include h

theorem RegsOk.of_warp? {id : WarpId} {w : Warp} (hw : s.warp? id = some w) : SizesOk w.sizes :=
  RegsOk_sizesOf_iff.mp h w (List.mem_of_find?_eq_some hw)

theorem RegsOk.of_eq {t : State} (ht : sizesOf t.warps = sizesOf s.warps) : RegsOk (sizesOf t.warps) := by rwa [ht]

@[simp] theorem RegsOk.setWarp {w : Warp} (hw : SizesOk w.sizes) : RegsOk (sizesOf (s.setWarp w).warps) := by
  refine RegsOk_sizesOf_iff.mpr <| List.forall_mem_map.mpr fun u hu => ?_
  split
  · exact hw
  · exact RegsOk_sizesOf_iff.mp h u hu

@[simp] theorem RegsOk.retire {w : Warp} (hw : SizesOk w.sizes) (len cost : Nat) : RegsOk (sizesOf (s.retire w len cost).warps) := by
  simp [State.retire, h, hw]

@[simp] theorem RegsOk.block {w : Warp} (hw : SizesOk w.sizes) (wt : Wait) (phase : Nat) : RegsOk (sizesOf (s.block w wt phase).warps) := by
  unfold State.block
  extract_lets i w1 w2
  have hw2 : w2.sizes = w.sizes := by simp [w2, w1]
  clear_value w2
  exact h.setWarp (by simpa [hw2])

@[simp] theorem RegsOk.blockAt (id : WarpId) (wt : Wait) (phase : Nat) : RegsOk (sizesOf (s.blockAt id wt phase).warps) := by
  unfold State.blockAt
  split
  · exact h
  next hw => exact h.block (h.of_warp? hw) ..

@[simp] theorem RegsOk.waitWalk {w : Warp} (hw : SizesOk w.sizes) (g : Group) (vas fmts : List Nat) (phase : Nat) :
    RegsOk (sizesOf (s.waitWalk w g vas fmts phase).warps) := by
  simp [State.waitWalk, h, hw]

@[simp] theorem RegsOk.reapWarp (w : Warp) : RegsOk (sizesOf (s.reapWarp w).warps) := by
  unfold State.reapWarp
  (repeat' split) <;> simp [h]

@[simp] theorem RegsOk.reap (c : CoreId) : RegsOk (sizesOf (s.reap c).warps) := RegsOk.foldl (fun _ w _ ht => ht.reapWarp w) h
@[simp] theorem RegsOk.settle (c : CoreId) : RegsOk (sizesOf (s.settle c).warps) := RegsOk.reap (h.of_eq (by simp)) c
@[simp] theorem RegsOk.startPromote {w : Warp} (hw : SizesOk w.sizes) (g : Group) (cores : List CoreId) :
    RegsOk (sizesOf (s.startPromote w g cores).warps) := RegsOk.block (by simpa) hw ..

@[simp] theorem RegsOk.notLegal {w : Warp} (hw : SizesOk w.sizes) (opc : BitVec 8) (x : LongOp) (reason : Nat) :
    RegsOk (sizesOf (s.notLegal w opc x reason).warps) := by
  dsimp only [State.notLegal]
  (repeat' split) <;> simp [h, hw]

@[simp] theorem RegsOk.commitSplits (old : Warp) {new : Warp} (hw : SizesOk new.sizes) (cost lag : Nat) :
    RegsOk (sizesOf (s.commitSplits old new cost lag).warps) := by
  dsimp only [State.commitSplits]
  split
  · simpa
  · refine RegsOk.setWarp ?_ (by simpa)
    split
    · exact h
    · split
      next hs => rwa [State.spillOut_warps hs]
      · exact h

@[simp] theorem RegsOk.turnTo (w : Warp) {w1 : Warp} (hw : SizesOk w1.sizes) (len : Nat) : RegsOk (sizesOf (s.turnTo w w1 len).warps) :=
  h.commitSplits _ hw ..

@[simp] theorem RegsOk.sleep {w : Warp} (hw : SizesOk w.sizes) (x : LongOp) : RegsOk (sizesOf (s.sleep w x).warps) := by
  simp [State.sleep, h, hw]

@[simp] theorem RegsOk.fetchReturn (id : WarpId) (e : Ecc) : RegsOk (sizesOf (s.fetchReturn id e).warps) := by
  unfold State.fetchReturn
  split
  · exact h
  next w hw =>
    have hok := h.of_warp? hw
    dsimp only
    (repeat' split) <;> simp [h, hok]

@[simp] theorem RegsOk.windowClose (c : CoreId) : RegsOk (sizesOf (s.windowClose c).warps) := by
  dsimp only [State.windowClose]
  split
  · exact h
  · split
    · exact h
    · exact RegsOk.settle (by simpa) _

@[simp] theorem RegsOk.l1Fill (pid : Nat) : RegsOk (sizesOf (s.l1Fill pid).warps) := by
  unfold State.l1Fill
  (repeat' split) <;> simp [h]

@[simp] theorem RegsOk.sectorReturn (r : Req) : RegsOk (sizesOf (s.sectorReturn r).warps) := by
  unfold State.sectorReturn
  split <;> simp [h]

@[simp] theorem RegsOk.loadReturn (c : CoreId) (rid : Nat) : RegsOk (sizesOf (s.loadReturn c rid).warps) := by
  unfold State.loadReturn
  (repeat' split) <;> simp [h]

@[simp] theorem RegsOk.ack (pid : Nat) : RegsOk (sizesOf (s.ack pid).warps) := by
  unfold State.ack
  split <;> simp [h]

@[simp] theorem RegsOk.probeAnswer (c : CoreId) (rid : Nat) : RegsOk (sizesOf (s.probeAnswer c rid).warps) := by
  unfold State.probeAnswer
  (repeat' split) <;> simp [h]

@[simp] theorem RegsOk.holdLocal (w : Warp) (g : Group) (wide : Bool) (ctr : Nat) (amt : DWord) :
    RegsOk (sizesOf (s.holdLocal w g wide ctr amt).warps) := RegsOk.settle (by simpa) _

@[simp] theorem RegsOk.enqueueEntry {w : Warp} (hw : SizesOk w.sizes) (x : LongOp) (g : Group) (n : Nat) (cmd : List Byte) (hdr : List Nat)
    (off trapT : Bool) : RegsOk (sizesOf (s.enqueueEntry w x g n cmd hdr off trapT).warps) := by
  simp [State.enqueueEntry, h, hw]

/-! ### Groups -/

@[simp] theorem RegsOk.createGroup (c : CoreId) (wing : Nat) (p : WorkPkt) (r : Res) (place : List (Nat × Nat)) (base : Nat) :
    RegsOk (sizesOf (s.createGroup c wing p r place base).1.warps) := by
  simp only [State.createGroup, State.newSlot_warps, sizesOf_append, RegsOk_append]
  exact ⟨h, .createdWarps (fun _ _ => .create (length_startRegs ..) ..) _⟩

@[simp] theorem RegsOk.retireWarps (c : CoreId) (slot : Nat) : RegsOk (sizesOf (s.retireWarps c slot).warps) := by
  simp [State.retireWarps, h]

@[simp] theorem RegsOk.killGroup (g : Group) (rep : Option TrapRec) : RegsOk (sizesOf (s.killGroup g rep).warps) := by
  unfold State.killGroup
  (repeat' split) <;> simp [h]

@[simp] theorem RegsOk.killGroups (p : Group → Bool) (rep : Option TrapRec) : RegsOk (sizesOf (s.killGroups p rep).warps) :=
  RegsOk.foldl (fun _ g _ ht => ht.killGroup g rep) h

@[simp] theorem RegsOk.killCohort (wing cat node : Nat) : RegsOk (sizesOf (s.killCohort wing cat node).warps) := h.killGroups ..
@[simp] theorem RegsOk.spawn (c : CoreId) (p : WorkPkt) : RegsOk (sizesOf (s.spawn c p).1.warps) := by
  dsimp only [State.spawn]
  (repeat' split) <;> simp [h]

@[simp] theorem RegsOk.countCohort (wing : Nat) (p : WorkPkt) : RegsOk (sizesOf (s.countCohort wing p).warps) := by
  dsimp only [State.countCohort]
  (repeat' split) <;> simp [h]

theorem RegsOk.fork {t : State} {w : Warp} (hw : SizesOk w.sizes) {g : Group} {count entry ctr : Nat} (hf : s.fork w g count entry ctr = some t) :
    RegsOk (sizesOf t.warps) := by
  dsimp only [State.fork] at hf
  split at hf
  · cases hf
  · obtain ⟨place, -, rfl⟩ := Option.map_eq_some_iff.mp hf
    simp only [sizesOf_append, RegsOk_append]
    refine ⟨h, RegsOk_sizesOf_iff.mpr fun u hu => ?_⟩
    obtain ⟨i, hi, rfl⟩ := List.mem_mapIdx.mp hu
    exact hw.child ..

@[simp] theorem RegsOk.deliver' (g : Group) (t : PendTrap) : RegsOk (sizesOf (s.deliver' g t).warps) := by
  dsimp only [State.deliver']
  split
  · simp [h]
  · exact RegsOk.killGroup (by simpa) ..

@[simp] theorem RegsOk.settleTraps (c : CoreId) (l : List PendTrap) (slot : Nat) : RegsOk (sizesOf (s.settleTraps c l slot).warps) := by
  dsimp only [State.settleTraps]
  (repeat' split) <;> simp [h]

@[simp] theorem RegsOk.coreStop (c : CoreId) : RegsOk (sizesOf (s.coreStop c).warps) := by
  unfold State.coreStop
  split
  · dsimp only
    split
    · exact h
    · split
      · simp [h]
      · exact RegsOk.foldl (fun _ n _ ht => ht.settleTraps ..) (by simpa)
  · exact h

@[simp] theorem RegsOk.watchdog (id : WarpId) : RegsOk (sizesOf (s.watchdog id).warps) := by
  unfold State.watchdog
  split
  · exact h
  next hw =>
    have hok := h.of_warp? hw
    (repeat' split) <;> simp [h, hok]

@[simp] theorem RegsOk.swapTo (g : Group) (cause frame : Nat) : RegsOk (sizesOf (s.swapTo g cause frame).warps) := by
  dsimp only [State.swapTo]
  split
  · simp [h]
  next hs =>
    split
    · simp [h]
    · simp [State.saveWarps_warps hs, h]

@[simp] theorem RegsOk.swapOut (c : CoreId) (slot : Nat) : RegsOk (sizesOf (s.swapOut c slot).warps) := by
  unfold State.swapOut
  split
  · exact h
  · split
    · split
      · exact h
      · split
        · simpa
        · exact RegsOk.swapTo (by simpa) ..
    · exact h

@[simp] theorem RegsOk.stopReplay (wing cat status node : Nat) : RegsOk (sizesOf (s.stopReplay wing cat status node).warps) :=
  RegsOk.killGroups (by simpa) ..

@[simp] theorem RegsOk.dispatch (wing cat : Nat) : RegsOk (sizesOf (s.dispatch wing cat).warps) := by
  unfold State.dispatch
  (repeat' split) <;> simp [h]

@[simp] theorem RegsOk.nodeEnd (unit : Nat) : RegsOk (sizesOf (s.nodeEnd unit).warps) := by
  dsimp only [State.nodeEnd]
  split
  · exact h
  · split
    · exact RegsOk.stopReplay (by simpa) ..
    · simpa

@[simp] theorem RegsOk.cwaitAnswer (pid : Nat) : RegsOk (sizesOf (s.cwaitAnswer pid).warps) := by
  unfold State.cwaitAnswer
  (repeat' split) <;> simp [h]

theorem RegsOk.restore {t : State} {st : Word} {g : Group} {hd : Header} {img : List Byte} (hr : s.restore g hd img = .ok (t, st)) :
    RegsOk (sizesOf t.warps) := by
  dsimp only [State.restore] at hr
  split at hr
  · cases hr; exact h
  · split at hr <;> cases hr
    next hws => simp [h, RegsOk.restoreWarps hws]

theorem RegsOk.restoreCopy {t : State} {st : Word} {c : CoreId} {hd : Header} (hr : s.restoreCopy c hd = .ok (t, st)) : RegsOk (sizesOf t.warps) := by
  dsimp only [State.restoreCopy] at hr
  split at hr
  · cases hr; exact h
  · split at hr <;> cases hr
    split
    · exact h
    next hre _ => exact RegsOk.restore (s := { (s.freeBytes _).1 with groups := _ }) (by simpa) hre

/-! ### Resets -/

@[simp] theorem RegsOk.resetCore (c : CoreId) : RegsOk (sizesOf (s.resetCore c).warps) := by simp [State.resetCore, h]
@[simp] theorem RegsOk.resetCores (d : Nat) : RegsOk (sizesOf (s.resetCores d).warps) := by
  rw [State.resetCores, State.modDie_warps]
  exact RegsOk.foldl (fun _ c _ ht => ht.resetCore c) h

@[simp] theorem RegsOk.dieZeroed (d : Nat) : RegsOk (sizesOf (s.dieZeroed d).warps) := by
  dsimp only [State.dieZeroed]
  split <;> simp [h]

@[simp] theorem RegsOk.mgmtWrite (r : MgmtReg) (v : DWord) : RegsOk (sizesOf (s.mgmtWrite r v).warps) := by
  cases r
  case hmcfg n => simp [State.mgmtWrite, h]
  case hmstat n => simp [State.mgmtWrite, h]
  case reset => simp [State.mgmtWrite, h]
  case hmerr | powerCap | descBase => exact h

@[simp] theorem RegsOk.fenceCore (c : CoreId) : RegsOk (sizesOf (s.fenceCore c).warps) := by
  unfold State.fenceCore
  split
  · simpa
  · split
    · exact h
    · simpa using RegsOk.killGroups (by simpa) ..
@[simp] theorem RegsOk.revoke (wing who seq : Nat) : RegsOk (sizesOf (s.revoke wing who seq).warps) := by simp [State.revoke, h]
@[simp] theorem RegsOk.stopCores (d : Nat) (to_ : Domain) (rep : Option TrapRec) : RegsOk (sizesOf (s.stopCores d to_ rep).warps) := by
  simp [State.stopCores, h]

@[simp] theorem RegsOk.fenceDie (d : Nat) : RegsOk (sizesOf (s.fenceDie d).warps) := by simp [State.fenceDie, h]
@[simp] theorem RegsOk.fenceUnit (u : Unit') : RegsOk (sizesOf (s.fenceUnit u).warps) := by cases u <;> simp [State.fenceUnit, h]
@[simp] theorem RegsOk.loadCurator (d : Nat) : RegsOk (sizesOf (s.loadCurator d).warps) := by
  dsimp only [State.loadCurator]
  split
  · exact h
  · simpa using (h.resetCore _).createGroup ..

@[simp] theorem RegsOk.stage1 (failed : List Unit') (slowRows : List (Nat × Nat × Nat)) : RegsOk (sizesOf (s.stage1 failed slowRows).warps) := by
  have hfail : RegsOk (sizesOf (failed.foldl State.fenceUnit s).warps) := RegsOk.foldl (fun _ u _ ht => ht.fenceUnit u) h
  dsimp only [State.stage1]
  split
  · exact h
  · refine RegsOk.foldl (fun _ d _ ht => ht.loadCurator d) ?_
    split <;> simpa using hfail

/-! ### A lane cycle -/

theorem RegsOk.coreCycle (c : CoreId) : RegsOk (sizesOf (s.coreCycle c).warps) := by
  simp [State.coreCycle, h]

theorem RegsOk.endWaits {w : Warp} (hw : SizesOk w.sizes) : RegsOk (sizesOf (s.endWaits w).warps) := by
  dsimp only [State.endWaits]
  split
  · exact h
  · refine RegsOk.setWarp (h.of_eq ?_) (by simpa)
    refine State.foldl_sizes (fun t x => ?_) _ _
    split <;> simp

theorem RegsOk.tick : RegsOk (sizesOf s.tick.warps) := by
  have hcores : RegsOk (sizesOf ((s.cores.map (·.id)).foldl State.coreCycle s).warps) := RegsOk.foldl (fun _ c _ ht => ht.coreCycle c) h
  have hends := RegsOk.foldl (fun _ w hw ht => RegsOk.endWaits ht (RegsOk_sizesOf_iff.mp hcores w hw)) hcores
  simpa [State.tick] using hends
end

end Sys2Proof.Machine
end

section
/-!
SUPPORT (O9). The shapes of an instruction: every warp keeps the registers that it needs over each.
-/
namespace Sys2Proof.Machine

/-- An outcome leaves every warp the registers that it needs, where it leaves a state. -/
def RegsResult : Result → Prop
  | .next t => RegsOk (sizesOf t.warps)
  | .fault _ => True
  | .refused _ => True

@[simp] theorem RegsResult_next {t : State} : RegsResult (.next t) ↔ RegsOk (sizesOf t.warps) := Iff.rfl
@[simp] theorem RegsResult_fault {f : Fault} : RegsResult (.fault f) := trivial

theorem RegsResult.ite {p : Prop} [Decidable p] {r q : Result} (hr : RegsResult r) (hq : RegsResult q) : RegsResult (if p then r else q) := by
  split
  · exact hr
  · exact hq

/-- The warp that a thread's work leaves. -/
def ThreadRes.warp : ThreadRes → Warp
  | .done _ w => w
  | .fault _ w _ _ => w

/-- A thread's work leaves the warps of the state as they are, and its own warp the registers that it has. -/
def ThreadRes.keeps (s : State) (w : Warp) (r : ThreadRes) : Prop := r.state.warps = s.warps ∧ r.warp.sizes = w.sizes

theorem State.binThread_keeps (s : State) (g : Group) (w : Warp) (x : LongOp) (a : Arena) (abase t : Nat) (claim : Option Nat) :
    (s.binThread g w x a abase t claim).keeps s w := by
  dsimp only [State.binThread]
  (repeat' split) <;> simp [ThreadRes.keeps, ThreadRes.state, ThreadRes.warp]

theorem State.routeThread_keeps (s : State) (g : Group) (w : Warp) (x : LongOp) (h : RouteHdr) (rbase t : Nat) (claim : Option (Nat × Bool)) :
    (s.routeThread g w x h rbase t claim).keeps s w := by
  dsimp only [State.routeThread]
  split
  · (repeat' split) <;> simp [ThreadRes.keeps, ThreadRes.state, ThreadRes.warp]
  · split
    · exact ⟨rfl, rfl⟩
    next hc => (repeat' split) <;> simp [ThreadRes.keeps, ThreadRes.state, ThreadRes.warp, State.routeClaim_warps hc]

theorem runThreads_keeps {f : State → Warp → Nat → Option (Nat × Bool) → ThreadRes} (hf : ∀ s w t cl, (f s w t cl).keeps s w)
    (s : State) (w : Warp) (cl : Option (Nat × Bool)) (ts : List Nat) : (runThreads f s w cl ts).keeps s w := by
  induction ts generalizing s w cl with
  | nil => exact ⟨rfl, rfl⟩
  | cons t ts ih =>
    have hthread := hf s w t cl
    unfold runThreads
    split
    next s1 w1 heq =>
      obtain ⟨hs1, hw1⟩ := heq ▸ hthread
      obtain ⟨hs2, hw2⟩ := ih s1 w1 none
      exact ⟨hs2.trans hs1, hw2.trans hw1⟩
    · exact hthread

section
variable {s : State} (h : RegsOk (sizesOf s.warps))
include h

/-! ### The shapes of an instruction -/

theorem RegsResult.issue {opc : BitVec 8} {x : LongOp} {f : Warp → Result} (hf : ∀ w : Warp, SizesOk w.sizes → RegsResult (f w)) :
    RegsResult (s.issue opc x f) := by
  unfold State.issue
  split
  · simp
  next w hw =>
    refine .ite (by simp) ?_
    split
    · simpa
    · exact hf w (h.of_warp? hw)

theorem RegsResult.issueWarp {opc : BitVec 8} {x : LongOp} {f : Warp → Result} (hf : ∀ w : Warp, SizesOk w.sizes → RegsResult (f w)) :
    RegsResult (s.issueWarp opc x f) :=
  .issue h fun w hw => .ite (hf w hw) (h.retire hw ..)

theorem RegsResult.issueCurator {opc : BitVec 8} {x : LongOp} {f : Warp → Result} (hf : ∀ w : Warp, SizesOk w.sizes → RegsResult (f w)) :
    RegsResult (s.issueCurator opc x f) :=
  .issueWarp h fun w hw => .ite (hf w hw) (by simpa)

theorem RegsResult.issueAlu {len : Nat} {opc : BitVec 8} {x : LongOp} {op : Alu} : RegsResult (s.issueAlu len opc x op) := by
  refine .issue h fun w hw => ?_
  split
  · simpa
  next hi => exact h.retire (by rwa [Alu.issue_sizes hi]) ..

theorem RegsResult.issueShort {sopc : BitVec 6} {x : ShortOp} {opc : BitVec 8} {op : LongOp → Alu} : RegsResult (s.issueShort sopc x opc op) := by
  unfold State.issueShort
  (repeat' split) <;> simp [h, RegsResult.issueAlu]

theorem RegsResult.issueCross {opc : BitVec 8} {x : LongOp} {op : Cross} : RegsResult (s.issueCross opc x op) :=
  .issue h fun w hw => .ite (by simpa) (.ite (h.retire hw ..) (h.retire (by simpa) ..))

theorem RegsResult.issueShortCtl {sopc : BitVec 6} {x : ShortOp} {f : Warp → LongOp → Result}
    (hf : ∀ (w : Warp) (y : LongOp), SizesOk w.sizes → RegsResult (f w y)) : RegsResult (s.issueShortCtl sopc x f) := by
  unfold State.issueShortCtl
  split
  · simp
  next w hw =>
    refine .ite (by simp) ?_
    split
    · simpa
    · exact hf w _ (h.of_warp? hw)

section
variable {w : Warp} (hw : SizesOk w.sizes)
include hw

theorem RegsResult.control {x : LongOp} {len : Nat} {f : Result} (hf : RegsResult f) : RegsResult (s.control w x len f) :=
  .ite hf (h.retire hw ..)

theorem RegsResult.perThread {x : LongOp} {cls : Cls} {check : Group → Nat → AccRes} {go : Group → List Acc → Result}
    (hgo : ∀ g accs, RegsResult (go g accs)) : RegsResult (s.perThread w x cls check go) := by
  unfold State.perThread
  dsimp only
  (repeat' split) <;> simp [h, hw, hgo]

theorem RegsResult.counterAccess {x : LongOp} {cls : Cls} {k : Kind} {go : Group → List Acc → Result}
    (hgo : ∀ g accs, RegsResult (go g accs)) : RegsResult (s.counterAccess w x cls k go) := by
  unfold State.counterAccess
  dsimp only
  (repeat' split) <;> simp [h, hw, hgo]

theorem RegsResult.localCounter {ctr : Nat} {go : Group → DWord → Result} (hgo : ∀ g v, RegsResult (go g v)) :
    RegsResult (s.localCounter w ctr go) := .ite (by simpa) (.ite (h.block hw ..) (hgo ..))

theorem RegsResult.packetAt {k : Kind} {off : Nat} {go : Group → Result} (hgo : ∀ g, RegsResult (go g)) :
    RegsResult (s.packetAt w k off go) := .ite (by simpa) (.ite (by simpa) (.ite (h.block hw ..) (hgo _)))

theorem RegsResult.command {x : LongOp} {n size : Nat} {trapT : Bool} {ctr : List Byte → Nat × CtrRef} {more : Group → List Byte → CmdRes}
    (hmore : ∀ g b, ∀ t ∈ (more g b).states, t.warps = s.warps) : RegsResult (s.command w x n size trapT ctr more) := by
  have hchecks : ∀ off g b, ∀ t ∈ (if off = true then CmdRes.good s [] else more g b).states, RegsOk (sizesOf t.warps) := fun off g b => by
    split
    · simpa [CmdRes.states]
    · exact fun t ht => by rwa [hmore g b t ht]
  unfold State.command
  dsimp only
  refine .ite (by simpa) (.ite (by simpa) (.ite (h.block hw ..) ?_))
  split
  · simpa
  split
  next hr => simpa using hchecks _ _ _ _ (by rw [hr]; exact List.mem_singleton_self _)
  · exact h.block hw ..
  next hr =>
    have hs1 := hchecks _ _ _ _ (by rw [hr]; exact List.mem_singleton_self _)
    exact .ite (hs1.block hw ..) (hs1.enqueueEntry hw ..)

theorem RegsResult.serial {x : LongOp} {f : State → Warp → Nat → Option (Nat × Bool) → ThreadRes}
    (hf : ∀ s w t cl, (f s w t cl).keeps s w) : RegsResult (s.serial w x f) := by
  unfold State.serial
  dsimp only
  split
  next s1 w1 hr =>
    have hkeeps : (ThreadRes.done s1 w1).keeps s w := hr ▸ runThreads_keeps hf s w _ _
    obtain ⟨hs1, hw1⟩ : s1.warps = s.warps ∧ w1.sizes = w.sizes := hkeeps
    exact RegsOk.retire (by rwa [hs1]) (by simpa [hw1]) ..
  next s1 w1 q c hr =>
    have hkeeps : (ThreadRes.fault s1 w1 q c).keeps s w := hr ▸ runThreads_keeps hf s w _ _
    obtain ⟨hs1, hw1⟩ : s1.warps = s.warps ∧ w1.sizes = w.sizes := hkeeps
    simpa using RegsOk.setWarp (s := s1) (by rwa [hs1]) (w := { w1 with progress := some q }) (by simpa [hw1])
end

theorem RegsResult.tileInstr {opc : BitVec 8} {x : LongOp} {idxs : List Nat} {a b c : Src}
    {reject : Group → List (Option Fmt) → DWord → DWord → DWord → Option Nat} : RegsResult (s.tileInstr opc x idxs a b c reject) := by
  refine .issue h fun w hw => ?_
  dsimp only
  (repeat' split) <;> simp [h, hw]

theorem RegsResult.runForm {w : Warp} (hw : SizesOk w.sizes) {x : LongOp} {r : RunForm} : RegsResult (s.runForm w x r) :=
  .ite (by simpa) (.ite (by simpa) (.ite (h.retire hw ..) (h.retire (by simpa) ..)))

theorem RegsResult.runEntry {w : Warp} (hw : SizesOk w.sizes) {opc : BitVec 8} {x : LongOp} : RegsResult (s.runEntry w opc x) := by
  unfold State.runEntry
  dsimp only
  refine .ite (by simpa) ?_
  split
  · split
    · simpa
    · exact h.waitWalk hw ..
  · simpa
  · split
    · simpa
    · exact .runForm h hw

theorem RegsResult.issueRun {opc : BitVec 8} {x : LongOp} : RegsResult (s.issueRun opc x) := by
  unfold State.issueRun
  split
  · simp
  next w hw =>
    refine .ite (by simp) ?_
    split
    · exact h.notLegal (h.of_warp? hw) ..
    · exact .runEntry h (h.of_warp? hw)

section
variable {w : Warp} (hw : SizesOk w.sizes)
include hw

theorem RegsResult.branch {x : LongOp} {len : Nat} {reg : Bool} {tgt : Nat → Nat} {lnk : Option Sel} {cost : Nat} :
    RegsResult (s.branch w x len reg tgt lnk cost) := by
  unfold State.branch
  dsimp only
  refine .ite (by simpa) ?_
  split
  · simpa
  · exact h.commitSplits _ (by simpa) ..

/-! ### Memory instructions -/

theorem RegsResult.loadPlain {x : LongOp} : RegsResult (s.loadPlain w x) := .ite (by simpa) (.perThread h hw fun g accs => by simpa)
theorem RegsResult.loadDec {x : LongOp} : RegsResult (s.loadDec w x) := .ite (by simpa) (.perThread h hw fun g accs => by simpa)
theorem RegsResult.storePlain {x : LongOp} : RegsResult (s.storePlain w x) := .ite (by simpa) (.perThread h hw fun g accs => by simpa)
theorem RegsResult.storeEnc {x : LongOp} : RegsResult (s.storeEnc w x) :=
  .ite (by simpa) (.perThread h hw fun g accs => .ite (h.block hw ..) (by simpa))

theorem RegsResult.loadUniform {x : LongOp} : RegsResult (s.loadUniform w x) := by
  refine .ite (by simpa) (.ite (h.block hw ..) ?_)
  split <;> simp [h, hw]

theorem RegsResult.gather {x : LongOp} : RegsResult (s.gather w x) := by
  unfold State.gather
  exact .perThread h hw fun g accs => by simpa

theorem RegsResult.lineOps {x : LongOp} {kind : ReqKind} {cls : Cls} {whole : Bool} : RegsResult (s.lineOps w x kind cls whole) :=
  .perThread h hw fun g accs => .ite (by simpa) (by simpa)

theorem RegsResult.prefetch {x : LongOp} : RegsResult (s.prefetch w x) := .ite (by simpa) (.lineOps h hw)
theorem RegsResult.atomic {x : LongOp} {cls : Cls} {offset : Bool} {form : LdForm} {kind : Nat → ReqKind} :
    RegsResult (s.atomic w x cls offset form kind) := by
  refine .ite (by simpa) (.ite (by simpa) (.perThread h hw fun g accs => ?_))
  dsimp only
  refine .ite (RegsOk.blockAt ?_ ..) ?_
  · split <;> simpa
  · split <;> simpa

theorem RegsResult.fence {x : LongOp} : RegsResult (s.fence w x) := by
  refine .ite (h.block hw ..) ?_
  (repeat' split) <;> simpa

theorem RegsResult.promote {x : LongOp} : RegsResult (s.promote w x) := .ite (h.startPromote hw ..) (by simpa)
theorem RegsResult.loadAcquire {x : LongOp} : RegsResult (s.loadAcquire w x) := by
  refine .ite (by simpa) (.perThread h hw fun g accs => .ite (h.startPromote hw ..) (RegsOk.blockAt ?_ ..))
  split <;> simpa

theorem RegsResult.storeRelease {x : LongOp} : RegsResult (s.storeRelease w x) := by
  unfold State.storeRelease
  exact .perThread h hw fun g accs => by simpa

/-! ### Control -/

theorem RegsResult.exit {x : LongOp} {len : Nat} : RegsResult (s.exit w x len) :=
  .ite (h.retire (by simpa) ..) (.ite (RegsOk.reap (by simp [h, hw]) _) (h.turnTo _ (by simpa) _))

theorem RegsResult.yield {x : LongOp} {len : Nat} : RegsResult (s.yield w x len) := .control h hw (h.turnTo _ (by simpa) _)
theorem RegsResult.waitc {x : LongOp} : RegsResult (s.waitc w x) := .ite (h.retire hw ..) (h.block hw ..)
theorem RegsResult.nop {len : Nat} : RegsResult (s.nop w len) := h.retire hw ..
theorem RegsResult.ret {x : LongOp} {len : Nat} : RegsResult (s.ret w x len) := by
  unfold State.ret
  exact .branch h hw

/-! ### Counters -/

theorem RegsResult.caddGlobal {x : LongOp} : RegsResult (s.caddGlobal w x) := by
  unfold State.caddGlobal
  refine .counterAccess h hw fun g accs => ?_
  dsimp only
  split <;> simpa

theorem RegsResult.caddLocal {x : LongOp} : RegsResult (s.caddLocal w x) := by
  unfold State.caddLocal
  refine .localCounter h hw fun g v => ?_
  dsimp only
  split <;> simp [h]

theorem RegsResult.cwaitGlobal {x : LongOp} : RegsResult (s.cwaitGlobal w x) :=
  .counterAccess h hw fun g accs => RegsOk.blockAt (by simpa) ..

theorem RegsResult.cwaitLocal {x : LongOp} : RegsResult (s.cwaitLocal w x) := by
  unfold State.cwaitLocal
  exact .localCounter h hw fun g v => .ite (by simpa) (h.block hw ..)

theorem RegsResult.creadGlobal {x : LongOp} : RegsResult (s.creadGlobal w x) :=
  .ite (h.retire hw ..) (.counterAccess h hw fun g accs => RegsOk.blockAt (by simpa) ..)

theorem RegsResult.creadLocal {x : LongOp} : RegsResult (s.creadLocal w x) := .localCounter h hw fun g v => h.retire (by simpa) ..
theorem RegsResult.bar {x : LongOp} : RegsResult (s.bar w x) := by
  unfold State.bar
  exact .localCounter h hw fun g v => by simp [h]

theorem RegsResult.barsig {x : LongOp} : RegsResult (s.barsig w x) := by
  unfold State.barsig
  exact .localCounter h hw fun g v => by simp [h]

/-! ### Engines -/

theorem RegsResult.qfence {x : LongOp} : RegsResult (s.qfence w x) := by
  unfold State.qfence
  dsimp only
  split
  · simpa
  refine .ite (by simpa) (.ite (h.block hw ..) (.ite ?_ (.ite (h.block hw ..) ?_)))
  · split
    next ha => simpa [State.engineAdd_warps ha]
    · simpa
  · split <;> simpa

theorem RegsResult.binInstr {x : LongOp} : RegsResult (s.binInstr w x) := by
  refine .ite (h.retire hw ..) (.ite (h.block hw ..) ?_)
  split
  · simpa
  · exact .ite (by simpa) (.serial (by simpa) hw fun _ _ _ _ => State.binThread_keeps ..)

theorem RegsResult.routeInstr {x : LongOp} : RegsResult (s.routeInstr w x) := by
  refine .ite (by simpa) (.ite (h.retire hw ..) (.ite (h.block hw ..) ?_))
  split
  · simpa
  · exact .ite (by simpa) (.serial (by simpa) hw fun _ _ _ _ => State.routeThread_keeps ..)

theorem RegsResult.mbatch {x : LongOp} : RegsResult (s.mbatch w x) := by
  unfold State.mbatch
  dsimp only
  split
  · simpa
  · exact .ite (h.block hw ..) (.ite (h.block hw ..) (RegsOk.retire (by simpa) (by simpa) ..))

theorem RegsResult.mwait {x : LongOp} : RegsResult (s.mwait w x) := .ite (h.retire hw ..) (h.block hw ..)
theorem RegsResult.mmalOpen {x : LongOp} {g : Group} : RegsResult (s.mmalOpen w x g) := by
  unfold State.mmalOpen
  dsimp only
  (repeat' split) <;> simp [h, hw]

theorem RegsResult.mmal {x : LongOp} : RegsResult (s.mmal w x) := by
  unfold State.mmal
  dsimp only
  split
  · exact .mmalOpen h hw
  · (repeat' split) <;> simp [h, hw]

/-! ### The curator -/

theorem RegsResult.mbxrd {x : LongOp} {off : Nat} {g : Group} : RegsResult (s.mbxrd w x off g) := by
  unfold State.mbxrd
  dsimp only
  split
  · exact RegsOk.retire (by simpa) (by simpa) ..
  · exact .ite (RegsOk.retire (by simpa) (by simpa) ..) (RegsOk.block (by simpa) hw ..)

theorem RegsResult.fwd {x : LongOp} {off die : Nat} {g : Group} : RegsResult (s.fwd w x off die g) :=
  .ite (by simpa) (.ite (RegsOk.retire (by simpa) hw ..) (h.block hw ..))

theorem RegsResult.tret {x : LongOp} {go : State → Header → List Byte → CoreId → Result}
    (hgo : ∀ t hd img c, RegsOk (sizesOf t.warps) → RegsResult (go t hd img c)) : RegsResult (s.tret w x go) := by
  unfold State.tret
  dsimp only
  refine .ite (by simpa) ?_
  split
  · simpa
  · exact .ite (RegsOk.retire (by simpa) (by simpa) ..) (hgo _ _ _ _ (by simpa))
end

theorem RegsResult.tretDone {w : Warp} {x : LongOp} {st : Word} : RegsResult (s.tretDone w x st) := by simpa [State.tretDone]
end

end Sys2Proof.Machine
end

section
/-!
SETTLED. Every step keeps the registers of every warp (O9).
-/
namespace Sys2Proof.Machine

theorem mem_of_oldest {l : List Warp} {w : Warp} (h : oldest l = some w) : w ∈ l := by
  induction l using List.reverseRecOn generalizing w with
  | nil => cases h
  | append_singleton l x ih =>
    rw [oldest, List.foldl_append, List.foldl_cons, List.foldl_nil, ← oldest] at h
    split at h
    · cases h
      exact List.mem_append_right l List.mem_cons_self
    · split at h
      · cases h
        exact List.mem_append_right l List.mem_cons_self
      · exact List.mem_append_left _ (ih h)

theorem RegsOk.ite_state {p : Prop} [Decidable p] {t u : State} (ht : RegsOk (sizesOf t.warps)) (hu : RegsOk (sizesOf u.warps)) :
    RegsOk (sizesOf (if p then t else u).warps) := by
  split
  · exact ht
  · exact hu

section
variable {s : State} (h : RegsOk (sizesOf s.warps))
include h

theorem RegsOk.ccp {m : Ccp} {ty : Nat} {f : State → State} (hf : ∀ t, RegsOk (sizesOf t.warps) → RegsOk (sizesOf (f t).warps)) :
    RegsOk (sizesOf (s.ccp m ty f).warps) := by
  have haccept := hf (s.ccpAccept m) (by simpa)
  unfold State.ccp
  dsimp only
  (repeat' split) <;> simp [h, haccept]

theorem RegsOk.keyRevoke (m : Ccp) (wing : Nat) : RegsOk (sizesOf (s.keyRevoke m wing).warps) :=
  h.ccp fun t ht => by (repeat' split) <;> simp [ht]

theorem RegsResult.execZeroingComplete {u : Unit'} : RegsResult (execZeroingComplete u s) := by
  cases u
  case die d => exact h.dieZeroed d
  case stack d => exact h.of_eq (by simp)
  case buffer n => exact h.of_eq (by simp)

theorem RegsResult.execIllegalEncoding {x : Illegal} : RegsResult (execIllegalEncoding x s) := by
  unfold Machine.execIllegalEncoding
  split
  · simp
  next w hw =>
    refine .ite (by simp) ?_
    split
    · exact h.notLegal (h.of_warp? hw) ..
    · simpa

theorem RegsResult.execCopy {x : LongOp} : RegsResult (execCopy x s) := by
  refine .issue h fun w hw => .command h hw fun g b => ?_
  split <;> simp [CmdRes.states]

theorem RegsResult.execBinplay {x : LongOp} : RegsResult (execBinplay x s) := by
  refine .issue h fun w hw => .command h hw fun g b => ?_
  dsimp only
  (repeat' split) <;> simp [CmdRes.states]

theorem RegsResult.execEmbpool {x : LongOp} : RegsResult (execEmbpool x s) := by
  refine .issue h fun w hw => .command h hw fun g b => ?_
  split <;> simp [CmdRes.states]

theorem RegsResult.execFork {x : LongOp} : RegsResult (execFork x s) := by
  refine .issueWarp h fun w hw => .ite (by simpa) (.ite (by simpa) ?_)
  split
  · exact h.retire (by simpa) ..
  next hf => simpa using h.fork hw hf

theorem RegsResult.execSpawn {x : LongOp} : RegsResult (execSpawn x s) := by
  refine .issueCurator h fun w hw => .packetAt h hw fun g => ?_
  dsimp only
  split <;> simp [h]

theorem RegsResult.execTretRes {x : LongOp} : RegsResult (execTretRes x s) := by
  refine .issueCurator h fun w hw => .tret h hw fun t hd img c ht => ?_
  split
  · refine .ite (.tretDone ht) ?_
    split
    · simpa
    next hr => exact .tretDone (ht.restoreCopy hr)
  · refine .ite (.tretDone ht) (.ite (.tretDone ht) ?_)
    split
    · simpa
    next hr => exact .tretDone (ht.restore hr)

theorem RegsResult.execTretKill {x : LongOp} : RegsResult (execTretKill x s) := by
  refine .issueCurator h fun w hw => .tret h hw fun t hd img c ht => ?_
  split
  · exact .tretDone ht
  · exact .tretDone (ht.killGroup ..)

theorem RegsResult.execRotDemotion {id : WarpId} : RegsResult (execRotDemotion id s) := by
  unfold Machine.execRotDemotion
  split
  · exact h
  next w hw =>
    have hok := h.of_warp? hw
    exact .ite_state (h.turnTo _ (by simpa) _) h

theorem RegsResult.execStackFence {u : Unit'} : RegsResult (execStackFence u s) := by
  refine RegsOk.ite_state ?_ h
  cases u <;> simpa

theorem RegsResult.execPortFrameReceive {port : Nat} {kind : FrameKind} : RegsResult (execPortFrameReceive port kind s) := by
  unfold Machine.execPortFrameReceive
  split <;> simpa

theorem RegsResult.execGetsys {x : LongOp} : RegsResult (execGetsys x s) :=
  .issueWarp h fun w hw => .ite (by simpa) (.ite (.ite (by simpa) (h.retire (by simpa) ..)) (h.retire (by simpa) ..))

theorem RegsResult.execSetsysAsgen {x : LongOp} : RegsResult (execSetsysAsgen x s) :=
  .issueCurator h fun w hw => .ite (h.retire hw ..) (.ite (by simpa) (RegsOk.blockAt (by simpa) ..))

theorem RegsResult.execSetsysCtxpush {x : LongOp} : RegsResult (execSetsysCtxpush x s) :=
  .issueCurator h fun w hw => .ite (h.block hw ..) (RegsOk.retire (by simpa) hw ..)

/-- Whatever an instruction or event does, every warp keeps the registers that it needs. -/
theorem RegsResult.exec (i : Instr) : RegsResult (exec i s) := by
  cases i
  case movShort | iaddShort | isubShort | imulShort | iminShort | imaxShort | inegShort | iabsShort | andShort | orShort | xorShort | notShort |
      shlShort | shrShort | sarShort | popcShort | clzShort | ctzShort | brevShort | faddShort | fsubShort | fmulShort | fminShort | fmaxShort |
      faddPackedShort | fmulPackedShort | rcpShort | rsqShort | sqrtShort | exp2Short | log2Short | sinShort | cosShort | tanhShort | cvtShort =>
    exact .issueShort h
  case iadd | isub | imul | imulh | imad | imin | imax | iabs | ineg | idiv | lea | iset | sel | mov | idp4 | plop | andB | orB | xorB | btab | notB
      | shl | shr | sar | shf | bfe | bfi | popc | clz | ctz | brev | fadd | fsub | fmul | ffma | fmin | fmax | fset | fclass | frnd | fdot2 |
      fscale | cvt | rcp | rsq | sqrt | exp2 | log2 | sin | cos | tanh | fdiv =>
    exact .issueAlu h
  case cvtpk | cvtupk => exact .ite (.issueAlu h) (.issueRun h)
  case shfl | poll | redx | redxi | scan | matchT | elect | isect | brank | treestep => exact .issueCross h
  case kset | kmov => exact .issue h fun w hw => h.retire (by simpa) ..
  case illegalEncoding x => exact .execIllegalEncoding h
  case bra | brx => exact .issue h fun w hw => .branch h hw
  case ret => exact .issue h fun w hw => .ret h hw
  case call => exact .issue h fun w hw => .ite (.branch h hw) (.branch h hw)
  case reconv => exact .issue h fun w hw => .control h hw (h.turnTo _ (by simpa) _)
  case execMask => exact .issue h fun w hw => .control h hw (h.retire (by simpa) ..)
  case sleep => exact .issue h fun w hw => .control h hw (h.sleep hw _)
  case waitc => exact .issue h fun w hw => .control h hw (.waitc h hw)
  case yield => exact .issue h fun w hw => .yield h hw
  case exit => exact .issue h fun w hw => .exit h hw
  case nop => exact .issue h fun w hw => .nop h hw
  case trap | bkpt => exact .issueWarp h fun w hw => h.of_eq (by simp)
  case setsys | time => exact .issueWarp h fun w hw => h.retire (by simpa) ..
  case ld => exact .issue h fun w hw => .loadPlain h hw
  case ldDec => exact .issue h fun w hw => .loadDec h hw
  case st => exact .issue h fun w hw => .storePlain h hw
  case stEnc => exact .issue h fun w hw => .storeEnc h hw
  case ldu => exact .issue h fun w hw => .loadUniform h hw
  case ldg => exact .issue h fun w hw => .gather h hw
  case pref => exact .issue h fun w hw => .prefetch h hw
  case cctl => exact .issue h fun w hw => .lineOps h hw
  case atom | atomcas | red => exact .issue h fun w hw => .atomic h hw
  case ldacq => exact .issue h fun w hw => .loadAcquire h hw
  case strel => exact .issue h fun w hw => .storeRelease h hw
  case mmal => exact .issue h fun w hw => .mmal h hw
  case bin => exact .issue h fun w hw => .binInstr h hw
  case route => exact .issue h fun w hw => .routeInstr h hw
  case fence => exact .issueWarp h fun w hw => .fence h hw
  case promote => exact .issueWarp h fun w hw => .promote h hw
  case bar => exact .issueWarp h fun w hw => .bar h hw
  case barsig => exact .issueWarp h fun w hw => .barsig h hw
  case mbatch => exact .issueWarp h fun w hw => .mbatch h hw
  case mwait => exact .issueWarp h fun w hw => .mwait h hw
  case cadd => exact .issueWarp h fun w hw => .ite (.caddGlobal h hw) (.caddLocal h hw)
  case cwait => exact .issueWarp h fun w hw => .ite (.cwaitGlobal h hw) (.cwaitLocal h hw)
  case cread => exact .issueWarp h fun w hw => .ite (.creadGlobal h hw) (.creadLocal h hw)
  case copy => exact .execCopy h
  case binplay => exact .execBinplay h
  case embpool => exact .execEmbpool h
  case cptr => exact .issue h fun w hw => .ite (h.retire (by simpa) ..) (h.retire hw ..)
  case qfence => exact .issue h fun w hw => .ite (.qfence h hw) (h.retire hw ..)
  case mma => unfold Machine.exec Machine.execMma; exact .tileInstr h
  case mmv => unfold Machine.exec Machine.execMmv; exact .tileInstr h
  case mzero => unfold Machine.exec Machine.execMzero; exact .tileInstr h
  case mlda => unfold Machine.exec Machine.execMlda; exact .tileInstr h
  case msta => unfold Machine.exec Machine.execMsta; exact .tileInstr h
  case nopShort => unfold Machine.exec Machine.execNopShort; exact .issueShortCtl h fun w y hw => .nop h hw
  case yieldShort => unfold Machine.exec Machine.execYieldShort; exact .issueShortCtl h fun w y hw => .yield h hw
  case exitShort => unfold Machine.exec Machine.execExitShort; exact .issueShortCtl h fun w y hw => .exit h hw
  case retShort => unfold Machine.exec Machine.execRetShort; exact .issueShortCtl h fun w y hw => .ret h hw
  case spawn => exact .execSpawn h
  case slotBoundary => exact .ite_state (h.of_eq (by simp)) (h.of_eq (by simp))
  case portFrameReceive => exact .execPortFrameReceive h
  case otherWarpsResume => exact h
  case fork => exact .execFork h
  case mbxrd => exact .issueCurator h fun w hw => .packetAt h hw fun g => .mbxrd h hw
  case fwd => exact .issueCurator h fun w hw => .packetAt h hw fun g => .fwd h hw
  case getsys => exact .execGetsys h
  case setsysAsgen => exact .execSetsysAsgen h
  case setsysCtxpush => exact .execSetsysCtxpush h
  case setsysPreempt => exact .issueCurator h fun w hw => h.of_eq (by simp)
  case tretRes => exact .execTretRes h
  case tretKill => exact .execTretKill h
  case rotDemotion id => exact .execRotDemotion h
  case stackFence u => exact .execStackFence h
  case zeroingComplete u => exact .execZeroingComplete h
  case mgmtwr m r v => exact h.ccp fun t ht => .ite_state (.mgmtWrite (by simpa) ..) (by simpa)
  case powerGood ok => exact RegsOk_nil
  case keyrevoke m w => exact h.keyRevoke ..
  case fetchBlockReturn w e => exact h.fetchReturn ..
  case coalescingWindowClose c => exact h.windowClose ..
  case l1FillReturn p => exact h.l1Fill ..
  case loadDataReturn c r => exact h.loadReturn ..
  case storeAck p => exact h.ack ..
  case peerProbeAnswer c r => exact h.probeAnswer ..
  case cwaitAnswer p => exact h.cwaitAnswer ..
  case nodeDispatch w c => exact h.dispatch ..
  case nodeEnd u => exact h.nodeEnd ..
  case coreStop c => exact h.coreStop ..
  case swapOut c n => exact h.swapOut ..
  case watchdog w => exact h.watchdog ..
  case coreFence c => exact h.fenceCore ..
  case warmReset => exact .warm s
  case stage1Reached f r => exact h.stage1 f r
  case dieFence d => exact h.fenceDie d
  case curatorReload d => exact .ite_state h (h.loadCurator d)
  case coreDomainResetEntry d => exact .ite_state (h.stopCores ..) h
  case coreDomainResetExit d => exact .ite_state (by simpa using h.resetCores d) h
  case junctionTemperatureSample d n => exact .ite_state (h.fenceDie d) (.ite_state (h.of_eq (by simp)) (.ite_state (h.of_eq (by simp)) h))
  case uncoreResetEntry | uncoreResetExit | powerCapExceeded | stage2Reached => exact .ite_state (h.of_eq (by simp)) h
  case portLinkFailure p => exact .ite_state (h.of_eq (by simp)) h
  case groupEndNotice | frameWaitResume | dcqcnRateReduction | roceWriteImmediate => exact h.of_eq (by (repeat' split) <;> simp)
  case catdrop | genraise | preempt | mrdrop | qpdestroy =>
    exact h.of_eq (congrArg sizesOf (State.ccpActive_warps fun t => by (repeat' split) <;> simp))
  case resync | mgmtrd | fwload | attest => exact h.of_eq (congrArg sizesOf (State.ccp_warps fun t => by (repeat' split) <;> simp))
  case walkEntryRead | formatEntryRead | combiningEntryAge | peerProbe | meshHop | interposerLinkCrossing | l2Request | atomicUnitService |
      cwaitRetry | maintenanceSlot | hbmTemperatureSample | bufferRefresh | bufferScrub | bufferPool | copyEntryStart | copyEntryComplete |
      qfenceEntryComplete | guardedOffEntry | tileWrite | collectorRowDrop | rowBlockStart | mmvStreamData | batchComplete | sleepExpiry |
      generationBroadcast | generationRaiseComplete | catload | kick | replayStart | workPacketSend | mailboxPacketArrival | cohortRelease |
      groupEnd | replayEnd | deferredTrap | preemptionStop | roceWrite | roceRead | sendDescriptorTake | descriptorComplete | mrreg | qpcreate |
      wingset | wingquiesce | wingQuiesced | slotset | keyload | hmcfgCntClr | filterFullClear | promotionRequest | hbmAccess | bufferAccess |
      bagTakeUp | partialVectorCombine | deliveryUnitPerformed | binplayEntry | matrixEntryStart | keyrevokeComplete =>
    exact h.of_eq (by simp)

/-! ### The plan of a step -/

theorem RegsOk.of_pickWarp {w : Warp} (hw : s.pickWarp = some w) : SizesOk w.sizes := by
  obtain ⟨u, hu, hel⟩ := List.mem_filterMap.mp (List.mem_of_mem_filter (mem_of_oldest hw))
  rw [State.eligible_sizes hel]
  exact RegsOk_sizesOf_iff.mp h u hu

theorem RegsOk.issueFrom {w : Warp} (hw : SizesOk w.sizes) : RegsOk (sizesOf (s.issueFrom w).state.warps) := by
  have hset : RegsOk (sizesOf (s.setWarp w).warps) := h.setWarp hw
  unfold State.issueFrom
  dsimp only
  split
  · exact hset
  · split
    · exact RegsOk.setWarp hset (by simpa)
    · simpa

theorem RegsOk.issueNext : RegsOk (sizesOf s.issueNext.state.warps) := by
  unfold State.issueNext
  split
  next hw => exact h.issueFrom (h.of_pickWarp hw)
  · exact h.tick

theorem RegsOk.unitPlan : RegsOk (sizesOf s.unitPlan.state.warps) := by
  unfold State.unitPlan
  split
  · exact h
  · split
    next hl => exact h.of_eq (congrArg sizesOf (State.lateStep_warps hl))
    · exact h.issueNext

theorem RegsOk.plan : RegsOk (sizesOf s.plan.state.warps) := by
  unfold State.plan
  split
  · exact h.unitPlan
  · split
    · exact h
    · split
      · exact h.unitPlan
      · dsimp only
        split
        · exact h
        · exact RegsOk.issueNext h

theorem RegsResult.step : RegsResult (step s) := by
  have hplan := h.plan
  unfold Machine.step
  split
  next i t hp => exact .exec (by simpa [hp] using hplan) i
  next t hp => simpa [hp] using hplan
end

theorem RegsOk_iff_regsOk {s : State} : RegsOk (sizesOf s.warps) ↔ ∀ w ∈ s.warps, w.regsOk = true := by
  simp only [RegsOk_sizesOf_iff, Warp.regsOk_iff]

/-- Settles O9: what a step creates or restores has the registers of R138 and R141, and every other write keeps how many a warp has. -/
theorem stepKeepsRegisters : Obligations.StepKeepsRegisters := by
  intro s t hs ht
  have hstep : RegsResult (step s) := .step (RegsOk_iff_regsOk.mpr hs)
  rw [ht] at hstep
  exact RegsOk_iff_regsOk.mp hstep

end Sys2Proof.Machine
end

section
/-!
SETTLED. The banks of a run in an allocation that does not begin on a row of the scratchpad (O56).
-/
namespace Sys2Proof.Machine

/-- MMV of one BF16 vector of 16 elements at offset 0 of its group's scratchpad, at the head of a matrix queue. -/
def vectorEntry : MxEntry :=
  { eid := 1, opc := 0xC2, x := ⟨⟨false, 7⟩, false, .v 0, .zr, .zr, .zr, 0, 0, none⟩, a := 0, b := 0, c := 0x00100000, off := false, batch := 0,
    fence := none, fmts := some [none], needs := [], stopped := false, who := ⟨⟨0, 0, 0, 0⟩, 0, 0, 0, 0⟩ }

/-- Its group, whose scratchpad begins at byte 15 of its core's. -/
def oddGroup : Group := { Group.nobody ⟨0, 0⟩ 0 with spmBase := 15, mxq := [vectorEntry] }

/-- The machine in which the engine of that core is free. -/
def oddState : State := { State.reset with cores := [Core.reset ⟨0, 0⟩], groups := [oddGroup] }

theorem oddState_nextTurn : oddState.nextTurn ⟨0, 0⟩ = some (oddGroup, vectorEntry) := rfl

/-- The vector is 32 bytes long, of which the last lies in bank 2. -/
theorem oddState_mxRuns : (0, 32) ∈ oddState.mxRuns oddGroup vectorEntry ∧ (oddGroup.spmBase + 0 + 31) / 16 % 32 = 2 := by decide

/-- The engine takes banks 0 and 1: `Group.banks` counts a run's rows from its offset in the allocation. -/
theorem oddState_busyBanks : ((oddState.useBanks oddGroup (oddState.mxRuns oddGroup vectorEntry)).core ⟨0, 0⟩).busyBanks = [0, 1] := by decide

/-- Refutes O56: the second clause has the engine use the bank of every byte that an entry reads as it starts, whatever byte its group's scratchpad
begins at. `Group.banks` counts the rows of a run by its offset in the allocation, so in one that does not begin on a multiple of 16 (R117 gives
none such, but the statement does not ask for it) a run that lies across one row more leaves out the last of its banks. -/
theorem not_matrixSteps : ¬ Obligations.MatrixSteps := by
  unfold Obligations.MatrixSteps
  intro h
  obtain ⟨-, hstart, -⟩ := h
  obtain ⟨-, hbanks, -⟩ := hstart oddState ⟨0, 0⟩ .good oddGroup vectorEntry oddState_nextTurn
  obtain ⟨hrun, hbank⟩ := oddState_mxRuns
  have hbusy := hbanks ⟨_, List.mem_singleton.mpr rfl, rfl⟩ 0 32 31 hrun (by decide)
  rw [hbank, oddState_busyBanks] at hbusy
  exact absurd hbusy (by decide)

end Sys2Proof.Machine
end


section
/-!
SUPPORT (O22). Rounding in every mode (R160): when a value goes past a magnitude of a scale, and the magnitude that it comes to.
-/
namespace Sys2Proof.Machine

/-! ### Past a magnitude -/

/-- Whether a mode rounds what has this sign away from zero. -/
def roundsAway (md : ℕ) (neg : Bool) : Bool := (md == 2 && neg) || (md == 3 && !neg)

/-- A value goes past `lo` to its neighbour `hi` or beyond: to nearest, past the middle, and from the middle where `lo` is odd; away from zero,
where it is not `lo` itself; toward zero, where it has reached `hi`. -/
def GoesPast (md : ℕ) (neg : Bool) (j : ℕ) (lo hi y : ℚ) : Prop :=
  if md = 0 then lo + hi < 2 * y ∨ (lo + hi = 2 * y ∧ j % 2 = 1) else if roundsAway md neg = true then lo < y else hi ≤ y

section
variable {md : ℕ} {neg : Bool} {j : ℕ} {lo hi y : ℚ}

theorem GoesPast.lt (h : GoesPast md neg j lo hi y) (hlt : lo < hi) : lo < y := by
  unfold GoesPast at h
  split_ifs at h with h0 h1
  · rcases h with h | h <;> linarith [h]
  · exact h
  · exact hlt.trans_le h

theorem goesPast_of_le (hlt : lo < hi) (h : hi ≤ y) : GoesPast md neg j lo hi y := by
  unfold GoesPast
  split_ifs with h0 h1
  · exact .inl (by linarith)
  · exact hlt.trans_le h
  · exact h

/-- The scale does not matter, nor does the number of `lo` but for its parity. -/
theorem goesPast_mul {c : ℚ} (hc : 0 < c) {i : ℕ} (hij : i % 2 = j % 2) : GoesPast md neg i (lo * c) (hi * c) (y * c) ↔ GoesPast md neg j lo hi y := by
  have hsum : lo * c + hi * c = (lo + hi) * c := by ring
  have hdbl : 2 * (y * c) = 2 * y * c := by ring
  unfold GoesPast
  rw [hsum, hdbl, hij, mul_lt_mul_iff_left₀ hc, mul_left_inj' hc.ne', mul_lt_mul_iff_left₀ hc, mul_le_mul_iff_left₀ hc]

end

/-- The number of a scale's magnitude that a value comes to: it goes past all below it, and not past it. -/
def Picks (u : ℕ → ℚ) (md : ℕ) (neg : Bool) (n : ℕ) (x : ℚ) : Prop :=
  (∀ j < n, GoesPast md neg j (u j) (u (j + 1)) x) ∧ ¬ GoesPast md neg n (u n) (u (n + 1)) x

section
variable {u : ℕ → ℚ} (hu : StrictMono u) {md : ℕ} {neg : Bool} {n k : ℕ} {x : ℚ}
include hu

/-- What goes past a magnitude goes past the lower ones. -/
theorem goesPast_of_lt (h : GoesPast md neg n (u n) (u (n + 1)) x) (hk : k < n) : GoesPast md neg k (u k) (u (k + 1)) x :=
  goesPast_of_le (hu k.lt_succ_self) ((hu.monotone hk).trans (h.lt (hu n.lt_succ_self)).le)

theorem picks_of_pred (hlo : ∀ j, n = j + 1 → GoesPast md neg j (u j) (u (j + 1)) x) (hhi : ¬ GoesPast md neg n (u n) (u (n + 1)) x) :
    Picks u md neg n x := by
  refine ⟨fun j hj => ?_, hhi⟩
  obtain ⟨i, rfl⟩ : ∃ i, n = i + 1 := ⟨n - 1, by omega⟩
  rcases (Nat.lt_succ_iff_lt_or_eq.mp hj) with h | rfl
  · exact goesPast_of_lt hu (hlo i rfl) h
  · exact hlo _ rfl

theorem Picks.le_iff (h : Picks u md neg n x) : k < n ↔ GoesPast md neg k (u k) (u (k + 1)) x := by
  obtain ⟨hlo, hhi⟩ := h
  refine ⟨hlo k, fun hk => ?_⟩
  by_contra hle
  rcases Nat.lt_or_eq_of_le (not_lt.mp hle) with hlt | rfl
  · exact hhi (goesPast_of_lt hu hk hlt)
  · exact hhi hk

/-- Between two neighbours a value comes to one of them. -/
theorem picks_of_floor (hlo : u k ≤ x) (hhi : x < u (k + 1)) {up : Bool} (hup : up = true ↔ GoesPast md neg k (u k) (u (k + 1)) x) :
    Picks u md neg (if up then k + 1 else k) x := by
  have hbelow : ∀ j, k = j + 1 → GoesPast md neg j (u j) (u (j + 1)) x := fun j hj => goesPast_of_le (hu j.lt_succ_self) (hj ▸ hlo)
  cases up with
  | true =>
    refine picks_of_pred hu (fun j hj => ?_) fun hpast => absurd (hpast.lt (hu (Nat.lt_succ_self _))) (not_lt.mpr hhi.le)
    obtain rfl : k = j := Nat.succ_injective hj
    exact hup.mp rfl
  | false => exact picks_of_pred hu hbelow fun hpast => Bool.false_ne_true (hup.mpr hpast)

/-- A magnitude comes to itself. -/
theorem picks_self : Picks u md neg n (u n) :=
  picks_of_pred hu (fun j hj => goesPast_of_le (hu j.lt_succ_self) (hj ▸ le_rfl)) fun hpast =>
    lt_irrefl _ (hpast.lt (hu n.lt_succ_self))

end

/-! ### To an integer -/

theorem natCast_strictMono : StrictMono (fun n : ℕ => (n : ℚ)) := Nat.strictMono_cast

/-- A power of two below 1. -/
theorem mul_two_zpow_of_neg (m : ℕ) {e : ℤ} (he : e < 0) : (m : ℚ) * 2 ^ e = (m : ℚ) / ((2 ^ (-e).toNat : ℕ) : ℚ) := by
  have h := two_zpow_toNat (a := 0) (b := e) he.le
  rw [zero_sub, zpow_zero] at h
  rw [eq_div_iff (by positivity), mul_assoc, mul_comm (2 ^ e : ℚ), h, mul_one]

/-- A quotient goes past its floor as its remainder says. -/
theorem roundUp_iff {md : ℕ} (hmd : md ≤ 3) (neg : Bool) {m d : ℕ} (hd : 0 < d) :
    roundUp md neg (m / d) (2 * (m % d)) d = true ↔ GoesPast md neg (m / d) ((m / d : ℕ) : ℚ) ((m / d + 1 : ℕ) : ℚ) ((m : ℚ) / d) := by
  have hd' : (0 : ℚ) < d := by exact_mod_cast hd
  have hm : (m : ℚ) / d = (m / d : ℕ) + ((m % d : ℕ) : ℚ) / d := by
    rw [eq_comm, ← mul_left_inj' hd'.ne', add_mul, div_mul_cancel₀ _ hd'.ne', div_mul_cancel₀ _ hd'.ne']
    exact_mod_cast Nat.div_add_mod' m d
  have hlt : (1 : ℚ) < 2 * (((m % d : ℕ) : ℚ) / d) ↔ d < 2 * (m % d) := by
    rw [← mul_div_assoc, lt_div_iff₀ hd', one_mul]; exact_mod_cast Iff.rfl
  have heq : (1 : ℚ) = 2 * (((m % d : ℕ) : ℚ) / d) ↔ d = 2 * (m % d) := by
    rw [← mul_div_assoc, eq_div_iff hd'.ne', one_mul]; exact_mod_cast Iff.rfl
  have hr0 : (0 : ℚ) < ((m % d : ℕ) : ℚ) / d ↔ m % d ≠ 0 := by
    rw [lt_div_iff₀ hd', zero_mul, Nat.cast_pos, Nat.pos_iff_ne_zero]
  have hr1 : ((m % d : ℕ) : ℚ) / d < 1 := (div_lt_one hd').mpr (by exact_mod_cast Nat.mod_lt m hd)
  have hpos := Nat.pos_iff_ne_zero.mp hd
  rw [hm]
  generalize ((m % d : ℕ) : ℚ) / d = r at *
  generalize m / d = k
  unfold GoesPast
  push_cast
  by_cases h0 : md = 0
  · subst h0
    have h1 : ((k : ℚ) + (k + 1) < 2 * (k + r)) ↔ d < 2 * (m % d) := by rw [← hlt]; constructor <;> intro h <;> linarith
    have h2 : ((k : ℚ) + (k + 1) = 2 * (k + r)) ↔ d = 2 * (m % d) := by rw [← heq]; constructor <;> intro h <;> linarith
    rw [if_pos rfl, h1, h2]
    simp only [roundUp, Bool.or_eq_true, Bool.and_eq_true, decide_eq_true_eq, beq_iff_eq, bne_iff_ne]
    omega
  · rw [if_neg h0]
    have haway : roundUp md neg k (2 * (m % d)) d = (roundsAway md neg && (m % d != 0)) := by
      have hrem : (2 * (m % d) != 0) = (m % d != 0) := by rw [Bool.eq_iff_iff]; simp
      interval_cases md <;> simp_all [roundUp, roundsAway]
    rw [haway]
    cases roundsAway md neg with
    | true => simp [← hr0]
    | false => simp [hr1]

/-- A value below a half goes past zero in the modes that round away from it. -/
theorem goesPast_zero_iff {md : ℕ} (hmd : md ≤ 3) {neg : Bool} {y : ℚ} (hpos : 0 < y) (hhalf : 2 * y < 1) :
    GoesPast md neg 0 0 1 y ↔ roundsAway md neg = true := by
  unfold GoesPast
  by_cases h0 : md = 0
  · subst h0
    simp only [if_true, roundsAway]
    constructor
    · rintro (h | h) <;> linarith [h]
    · simp
  · rw [if_neg h0]
    split
    next h => simp [h, hpos]
    next h => simp [h]; linarith

theorem roundUp_small {md : ℕ} (hmd : md ≤ 3) (neg : Bool) : roundUp md neg 0 2 8 = roundsAway md neg := by
  interval_cases md <;> cases neg <;> rfl

theorem roundInt_picks {md : ℕ} (hmd : md ≤ 3) (neg : Bool) (m : ℕ) (e : ℤ) :
    Picks (fun n : ℕ => (n : ℚ)) md neg (roundInt md neg m e).1 (m * 2 ^ e) ∧
      ((roundInt md neg m e).2 = true ↔ ((roundInt md neg m e).1 : ℚ) ≠ m * 2 ^ e) := by
  have hself : ∀ {n : ℕ} {y : ℚ}, (n : ℚ) = y → Picks (fun n : ℕ => (n : ℚ)) md neg n y ∧ (false = true ↔ (n : ℚ) ≠ y) := fun {n y} h =>
    ⟨h ▸ picks_self natCast_strictMono, by simp [h]⟩
  unfold roundInt
  by_cases hm : m = 0
  · rw [if_pos (by simpa using hm)]
    exact hself (by simp [hm])
  rw [if_neg (by simpa using hm)]
  by_cases he : 0 ≤ e
  · rw [if_pos he]
    refine hself ?_
    have h := two_zpow_toNat he
    rw [sub_zero, zpow_zero, mul_one] at h
    rw [Nat.cast_mul, h]
  rw [if_neg he]
  dsimp only
  by_cases hbig : (log2N m : ℤ) + e < -3
  · have hsmall : (m : ℚ) * 2 ^ e < 1 / 8 := by
      calc (m : ℚ) * 2 ^ e < 2 ^ ((log2N m : ℤ) + e + 1) := (log2N_bounds hm e).2
        _ ≤ 2 ^ (-3 : ℤ) := zpow_le_zpow_right₀ (by norm_num) (by omega)
        _ = 1 / 8 := by norm_num
    have hpos : (0 : ℚ) < m * 2 ^ e := by positivity
    rw [if_pos hbig]
    generalize (m : ℚ) * 2 ^ e = y at *
    have hup : roundUp md neg 0 2 8 = true ↔ GoesPast md neg 0 ((0 : ℕ) : ℚ) ((0 + 1 : ℕ) : ℚ) y := by
      rw [roundUp_small hmd, Nat.cast_zero, Nat.zero_add, Nat.cast_one, goesPast_zero_iff hmd hpos (by linarith)]
    have hpick := picks_of_floor natCast_strictMono (k := 0) (x := y) (by simpa using hpos.le) (by norm_num; linarith) hup
    refine ⟨hpick, iff_of_true rfl ?_⟩
    show (((if roundUp md neg 0 2 8 = true then 0 + 1 else 0 : ℕ)) : ℚ) ≠ y
    split
    · norm_num; linarith
    · norm_num; linarith
  · rw [if_neg hbig, mul_two_zpow_of_neg m (by omega)]
    obtain ⟨d, hd⟩ : ∃ d, 2 ^ (-e).toNat = d := ⟨_, rfl⟩
    have hpos : 0 < d := hd ▸ Nat.two_pow_pos _
    have hpos' : (0 : ℚ) < d := by exact_mod_cast hpos
    rw [hd]
    have hlo : ((m / d : ℕ) : ℚ) ≤ (m : ℚ) / d := Nat.cast_div_le
    have hhi : (m : ℚ) / d < ((m / d + 1 : ℕ) : ℚ) := by
      rw [div_lt_iff₀ hpos']; exact_mod_cast Nat.lt_mul_of_div_lt (Nat.lt_succ_self (m / d)) hpos
    have hexact : m % d = 0 ↔ ((m / d : ℕ) : ℚ) = (m : ℚ) / d := by
      rw [eq_div_iff hpos'.ne', ← Nat.cast_mul, Nat.cast_inj, Nat.mul_comm, ← Nat.dvd_iff_mod_eq_zero, Nat.dvd_iff_div_mul_eq, Nat.mul_comm]
    have hup := roundUp_iff hmd neg (m := m) hpos
    refine ⟨picks_of_floor natCast_strictMono hlo hhi hup, ?_⟩
    dsimp only
    rw [bne_iff_ne, Ne, hexact, not_iff_not]
    split
    next h => exact iff_of_false ((hup.mp h).lt (by exact_mod_cast Nat.lt_succ_self _)).ne hhi.ne'
    next h => exact Iff.rfl

/-! ### To a magnitude of a format -/

/-- The magnitudes of a format, in its units. -/
def FFmt.scale (f : FFmt) (n : ℕ) : ℚ := f.magUnits n

theorem FFmt.scale_strictMono (f : FFmt) : StrictMono f.scale := fun _ _ h => Nat.cast_lt.mpr (f.magUnits_strictMono h)

theorem FFmt.scale_block (f : FFmt) {E k : ℕ} (hlow : E = 0 ∨ 2 ^ f.mb ≤ k) (hk : k ≤ 2 ^ (f.mb + 1)) :
    f.scale (E * 2 ^ f.mb + k) = k * 2 ^ E := by
  rw [scale, f.magUnits_block hlow hk]
  push_cast
  rfl

/-- The steps of a block that a value in it comes to. -/
theorem picks_in_block {md : ℕ} {neg : Bool} {E b k : ℕ} {y : ℚ} (hy : Picks (fun n : ℕ => (n : ℚ)) md neg k y) (hlow : E = 0 ∨ 2 ^ b ≤ y)
    (hhigh : y < 2 ^ (b + 1)) : (E = 0 ∨ 2 ^ b ≤ k) ∧ k ≤ 2 ^ (b + 1) := by
  have hk : k ≤ 2 ^ (b + 1) := by
    rcases Nat.eq_zero_or_pos k with rfl | hpos
    · exact Nat.zero_le _
    · have hlt := ((hy.le_iff natCast_strictMono).mp (Nat.sub_lt hpos one_pos)).lt (natCast_strictMono (Nat.lt_succ_self _))
      have hlt' : ((k - 1 : ℕ) : ℚ) < ((2 ^ (b + 1) : ℕ) : ℚ) := by push_cast; exact hlt.trans hhigh
      have := Nat.cast_lt.mp hlt'
      omega
  refine ⟨hlow.imp_right fun h => ?_, hk⟩
  by_contra hlt
  refine hy.2 (goesPast_of_le (natCast_strictMono (Nat.lt_succ_self k)) (le_trans ?_ h))
  show ((k + 1 : ℕ) : ℚ) ≤ 2 ^ b
  exact_mod_cast Nat.succ_le_of_lt (not_le.mp hlt)

/-- A number of steps of width 2^E that a value comes to, and the magnitude that it comes to. -/
theorem FFmt.picks_block {f : FFmt} (hf : f.Shaped) {md : ℕ} {neg : Bool} {E k : ℕ} {y : ℚ} (hy : Picks (fun n : ℕ => (n : ℚ)) md neg k y)
    (hlow : E = 0 ∨ 2 ^ f.mb ≤ y) (hhigh : y < 2 ^ (f.mb + 1)) : Picks f.scale md neg (E * 2 ^ f.mb + k) (y * 2 ^ E) := by
  have hE : (0 : ℚ) < 2 ^ E := by positivity
  have heven : 2 ^ f.mb % 2 = 0 := by
    obtain ⟨a, ha⟩ : ∃ a, f.mb = a + 1 := ⟨f.mb - 1, by have := hf.2; omega⟩
    rw [ha, pow_succ, Nat.mul_mod_left]
  have hparity : ∀ i, (E * 2 ^ f.mb + i) % 2 = i % 2 := fun i => by rw [Nat.add_mod, Nat.mul_mod, heven]; simp
  have hstep : ∀ i, (E = 0 ∨ 2 ^ f.mb ≤ i) → i < 2 ^ (f.mb + 1) →
      (GoesPast md neg (E * 2 ^ f.mb + i) (f.scale (E * 2 ^ f.mb + i)) (f.scale (E * 2 ^ f.mb + i + 1)) (y * 2 ^ E) ↔
        GoesPast md neg i i ((i + 1 : ℕ) : ℚ) y) := fun i hi hlt => by
    rw [Nat.add_assoc, f.scale_block hi hlt.le, f.scale_block (hi.imp_right Nat.le_succ_of_le) hlt, goesPast_mul hE (hparity i)]
  obtain ⟨hk0, hk⟩ := picks_in_block hy hlow hhigh
  refine picks_of_pred f.scale_strictMono (fun j hj => ?_) fun hpast => ?_
  · by_cases hin : E = 0 ∨ 2 ^ f.mb < k
    · obtain ⟨i, rfl⟩ : ∃ i, k = i + 1 := ⟨k - 1, by rcases hin with rfl | h <;> omega⟩
      obtain rfl : j = E * 2 ^ f.mb + i := by omega
      exact (hstep i (hin.imp_right Nat.le_of_lt_succ) (by omega)).mpr ((hy.le_iff natCast_strictMono).mp i.lt_succ_self)
    · obtain ⟨hE0, hk1⟩ := not_or.mp hin
      have hk2 := hk0.resolve_left hE0
      refine goesPast_of_le (f.scale_strictMono j.lt_succ_self) ?_
      rw [← hj, f.scale_block hk0 hk]
      have hky : (k : ℚ) ≤ y := le_trans (by exact_mod_cast not_lt.mp hk1) (hlow.resolve_left hE0)
      gcongr
  · rcases hk.lt_or_eq with hlt | rfl
    · exact hy.2 ((hstep k hk0 hlt).mp hpast)
    · have hlt := hpast.lt (f.scale_strictMono (Nat.lt_succ_self _))
      rw [f.scale_block hk0 le_rfl, mul_lt_mul_iff_left₀ hE] at hlt
      push_cast at hlt
      linarith

/-- A value is tiny: rounded to the precision of a format without a bound on its exponent, it stays below the least normal value (R158). -/
def FFmt.TinyAt (f : FFmt) (md : ℕ) (neg : Bool) (x : ℚ) : Prop :=
  ¬ GoesPast md neg (2 ^ (f.mb + 1) - 1) ((2 ^ (f.mb + 1) - 1 : ℕ) : ℚ) ((2 ^ (f.mb + 1) - 1 + 1 : ℕ) : ℚ) (2 * x)

theorem two_pow_pred_add (n : ℕ) : 2 ^ n - 1 + 1 = 2 ^ n := Nat.sub_add_cancel Nat.one_le_two_pow

/-- What has reached the least normal value is not tiny. -/
theorem FFmt.not_tinyAt {f : FFmt} {md : ℕ} {neg : Bool} {x : ℚ} (h : 2 ^ f.mb ≤ x) : ¬ f.TinyAt md neg x := by
  refine not_not_intro (goesPast_of_le (natCast_strictMono (Nat.lt_succ_self _)) ?_)
  rw [two_pow_pred_add]
  push_cast
  rw [pow_succ]
  linarith

/-- What lies below half of it is. -/
theorem FFmt.tinyAt_of_lt {f : FFmt} {md : ℕ} {neg : Bool} {x : ℚ} (h : 2 * x < 2 ^ f.mb) : f.TinyAt md neg x := by
  intro hpast
  have hlt := hpast.lt (natCast_strictMono (Nat.lt_succ_self _))
  have hle : ((2 ^ f.mb : ℕ) : ℚ) ≤ ((2 ^ (f.mb + 1) - 1 : ℕ) : ℚ) := by
    have := Nat.one_le_two_pow (n := f.mb)
    exact_mod_cast (by rw [pow_succ]; omega : 2 ^ f.mb ≤ 2 ^ (f.mb + 1) - 1)
  push_cast at hle
  linarith

/-- The outcome of rounding to a format: none, where the value goes past the largest finite magnitude, or the magnitude that it comes to, with
whether that is inexact and whether it is tiny. -/
def FFmt.MagSpec (f : FFmt) (md : ℕ) (neg : Bool) (x : ℚ) : Option (ℕ × Bool × Bool) → Prop
  | none => GoesPast md neg (f.infBits - 1) (f.scale (f.infBits - 1)) (f.scale (f.infBits - 1 + 1)) x
  | some (n, inex, tiny) => Picks f.scale md neg n x ∧ n < f.infBits ∧ (inex = true ↔ f.scale n ≠ x) ∧ (tiny = true ↔ f.TinyAt md neg x)

/-- What is not tiny goes past the last half step below the least normal value. -/
theorem FFmt.tinyAt_iff_of_picks {f : FFmt} {md : ℕ} {neg : Bool} {k : ℕ} {x : ℚ} (h : Picks (fun n : ℕ => (n : ℚ)) md neg k (2 * x))
    (hx : x < 2 ^ f.mb) : f.TinyAt md neg x ↔ k ≠ 2 ^ (f.mb + 1) := by
  have hk : k ≤ 2 ^ (f.mb + 1) := by
    by_contra hlt
    have hle := ((h.le_iff natCast_strictMono).mp (not_le.mp hlt)).lt (natCast_strictMono (Nat.lt_succ_self _))
    push_cast at hle
    rw [pow_succ] at hle
    linarith
  have hpos := Nat.one_le_two_pow (n := f.mb + 1)
  rw [TinyAt, ← h.le_iff natCast_strictMono]
  omega

/-- A power of two in a format's units. -/
theorem FFmt.two_zpow_div_unit (f : FFmt) (E : ℤ) : (2 : ℚ) ^ E / f.unit = 2 ^ (E + f.lsb) := by
  rw [unit, ← zpow_sub₀ two_ne_zero, sub_neg_eq_add]

theorem FFmt.infBits_sub_one_div {f : FFmt} (hf : f.Shaped) : (f.infBits - 1) / 2 ^ f.mb = 2 ^ f.eb - 2 := by
  have hp : 0 < 2 ^ f.mb := Nat.two_pow_pos _
  rw [infBits_eq hf, Nat.add_sub_assoc hp, Nat.add_comm, Nat.add_mul_div_right _ _ hp, Nat.div_eq_of_lt (by omega), Nat.zero_add]

theorem roundMag_spec {f : FFmt} (hf : f.Shaped) {md : ℕ} (hmd : md ≤ 3) (neg : Bool) {m : ℕ} (hm : m ≠ 0) (e : ℤ) :
    f.MagSpec md neg (m * 2 ^ e / f.unit) (roundMag f.mb f.emin (f.infBits - 1) true md neg m e) := by
  have htop := FFmt.infBits_sub_one_div hf
  have hinf : f.infBits - 1 + 1 = f.infBits := Nat.sub_add_cancel (FFmt.infBits_pos hf)
  have hup := f.unit_pos
  obtain ⟨big, hbigdef⟩ : ∃ big, (log2N m : ℤ) + e = big := ⟨_, rfl⟩
  have hshift : ∀ g : ℤ, (m : ℚ) * 2 ^ e / f.unit = m * 2 ^ (e - g) * 2 ^ (g + f.lsb) := fun g => by
    rw [mul_div_assoc, f.two_zpow_div_unit, mul_assoc, ← zpow_add₀ two_ne_zero]
    congr 2; ring
  have hbounds : ∀ g : ℤ, (2 : ℚ) ^ (big - g) ≤ m * 2 ^ (e - g) ∧ (m : ℚ) * 2 ^ (e - g) < 2 ^ (big - g + 1) := fun g => by
    obtain ⟨h1, h2⟩ := log2N_bounds hm (e - g)
    rw [show (log2N m : ℤ) + (e - g) = big - g by omega] at h1 h2
    exact ⟨h1, h2⟩
  have hlsb := FFmt.lsb_eq hf
  unfold roundMag
  rw [hbigdef]
  dsimp only
  by_cases hbig : f.emin + ((f.infBits - 1) / 2 ^ f.mb : ℕ) + 1 < big
  · rw [if_pos hbig]
    refine goesPast_of_le (f.scale_strictMono (Nat.lt_succ_self _)) ?_
    rw [hinf]
    calc f.scale f.infBits = 2 ^ ((f.mb : ℤ) + (2 ^ f.eb - 2 : ℕ)) := by
          rw [FFmt.scale, FFmt.magUnits_infBits hf, zpow_add₀ two_ne_zero]; push_cast; simp only [zpow_natCast]
      _ ≤ 2 ^ (big + f.lsb) := zpow_le_zpow_right₀ (by norm_num) (by omega)
      _ = 2 ^ (big - e) * 2 ^ (e + f.lsb) := by rw [← zpow_add₀ two_ne_zero]; congr 1; ring
      _ ≤ m * 2 ^ (e - e) * 2 ^ (e + f.lsb) := by gcongr; exact (hbounds e).1
      _ = m * 2 ^ e / f.unit := (hshift e).symm
  · rw [if_neg hbig]
    obtain ⟨E, hE⟩ : ∃ E : ℕ, (max big f.emin - f.emin).toNat = E := ⟨_, rfl⟩
    have hBE : max big f.emin = f.emin + E := by omega
    have hx : (m : ℚ) * 2 ^ e / f.unit = m * 2 ^ (e - (max big f.emin - f.mb)) * 2 ^ E := by
      rw [hshift (max big f.emin - f.mb), show max big f.emin - f.mb + f.lsb = E by omega, zpow_natCast]
    obtain ⟨hlow, hhigh⟩ := hbounds (max big f.emin - f.mb)
    have hy1 : (m : ℚ) * 2 ^ (e - (max big f.emin - f.mb)) < 2 ^ (f.mb + 1) := by
      refine hhigh.trans_le ?_
      rw [← zpow_natCast]
      exact zpow_le_zpow_right₀ (by norm_num) (by push_cast; omega)
    have hy0 : E = 0 ∨ (2 : ℚ) ^ f.mb ≤ m * 2 ^ (e - (max big f.emin - f.mb)) := by
      rw [or_iff_not_imp_left]
      refine fun hE0 => le_trans ?_ hlow
      rw [← zpow_natCast]
      exact zpow_le_zpow_right₀ (by norm_num) (by omega)
    obtain ⟨hpick, hexact⟩ := roundInt_picks hmd neg m (e - (max big f.emin - f.mb))
    have hmag := FFmt.picks_block hf hpick hy0 hy1
    rw [← hx] at hmag
    rw [hE]
    generalize hk : (roundInt md neg m (e - (max big f.emin - f.mb))).1 = k at *
    by_cases htopc : f.infBits - 1 < E * 2 ^ f.mb + k
    · rw [if_pos htopc]
      exact (hmag.le_iff f.scale_strictMono).mp htopc
    · rw [if_neg htopc]
      have hpos := FFmt.infBits_pos hf
      refine ⟨hmag, by omega, ?inexact, ?tiny⟩
      case inexact =>
        obtain ⟨hk0, hk1⟩ := picks_in_block hpick hy0 hy1
        rw [hexact, f.scale_block hk0 hk1, hx, Ne, Ne, mul_left_inj' (by positivity)]
      case tiny =>
        have hxsub : big < f.emin → (m : ℚ) * 2 ^ e / f.unit < 2 ^ f.mb := fun hsub => by
          have hE0 : E = 0 := by omega
          refine (hx.trans (by rw [hE0, pow_zero, mul_one])).trans_lt (hhigh.trans_le ?_)
          rw [← zpow_natCast]
          exact zpow_le_zpow_right₀ (by norm_num) (by omega)
        by_cases hsub : big < f.emin
        · by_cases hnext : big + 1 = f.emin
          · have hdbl : (m : ℚ) * 2 ^ (e - (big - f.mb)) = 2 * (m * 2 ^ e / f.unit) := by
              rw [hshift (big - f.mb), show big - f.mb + f.lsb = -1 by omega]
              norm_num
              ring
            obtain ⟨hpick2, -⟩ := roundInt_picks hmd neg m (e - (big - f.mb))
            rw [hdbl] at hpick2
            rw [FFmt.tinyAt_iff_of_picks hpick2 (hxsub hsub)]
            simp [hsub, hnext]
          · refine iff_of_true (by simp [hsub, hnext]) (FFmt.tinyAt_of_lt ?_)
            have hlt := (hbounds (-(f.lsb : ℤ))).2
            rw [hshift (-(f.lsb : ℤ)), neg_add_cancel, zpow_zero, mul_one]
            calc 2 * ((m : ℚ) * 2 ^ (e - -(f.lsb : ℤ))) < 2 ^ (1 : ℤ) * 2 ^ (big - -(f.lsb : ℤ) + 1) := by rw [zpow_one]; gcongr
              _ = 2 ^ (big + f.lsb + 2) := by rw [← zpow_add₀ two_ne_zero]; congr 1; ring
              _ ≤ 2 ^ f.mb := by rw [← zpow_natCast]; exact zpow_le_zpow_right₀ (by norm_num) (by omega)
        · refine iff_of_false (by simp [hsub]) (FFmt.not_tinyAt ?_)
          rw [hx]
          have hone : (1 : ℚ) ≤ 2 ^ E := one_le_pow₀ (by norm_num)
          have hge : (2 : ℚ) ^ f.mb ≤ m * 2 ^ (e - (max big f.emin - f.mb)) := by
            refine le_trans ?_ hlow
            rw [← zpow_natCast]
            exact zpow_le_zpow_right₀ (by norm_num) (by omega)
          calc (2 : ℚ) ^ f.mb = 2 ^ f.mb * 1 := (mul_one _).symm
            _ ≤ m * 2 ^ (e - (max big f.emin - f.mb)) * 2 ^ E := by gcongr

end Sys2Proof.Machine
end


section
/-!
SUPPORT (O22). The pattern and the flags of a value rounded once (R158, R160): what `roundF` answers is what the statement says of the exact value.
-/
namespace Sys2Proof.Machine

/-! ### Result and flags by magnitude -/

/-- What rounding once a value of sign `neg` and magnitude `x` answers: a flushed zero, an overflow, or a finite pattern. -/
inductive FFmt.RoundsMag (f : FFmt) (ftz : Bool) (md : ℕ) (neg : Bool) (x : ℚ) : ℕ × Flags → Prop
  | flushed (htiny : f.TinyAt md neg x) (hftz : ftz = true) : RoundsMag f ftz md neg x (f.signBit neg, flUF ||| flNX)
  | overflow (hpast : GoesPast md neg (f.infBits - 1) (f.scale (f.infBits - 1)) (f.scale (f.infBits - 1 + 1)) x) :
      RoundsMag f ftz md neg x (f.signBit neg + (if overflowInf md neg = true then f.infBits else f.infBits - 1), flOF ||| flNX)
  | finite {n : ℕ} {tiny : Bool} (hpick : Picks f.scale md neg n x) (hn : n < f.infBits) (htiny : tiny = true ↔ f.TinyAt md neg x)
      (hftz : tiny = true → ftz = false) :
      RoundsMag f ftz md neg x (f.signBit neg + n, if f.scale n = x then 0 else if tiny = true then flUF ||| flNX else flNX)

section
variable {f : FFmt} {md : ℕ} {ftz neg : Bool} {m : ℕ} {e : ℤ} (hm : m ≠ 0)
include hm

theorem roundF_of_none (h : roundMag f.mb f.emin (f.infBits - 1) true md neg m e = none) :
    roundF f md ftz (.fin neg m e) = (f.signBit neg + (if overflowInf md neg then f.infBits else f.infBits - 1), flOF ||| flNX) := by
  cases m with
  | zero => exact absurd rfl hm
  | succ k => simp [roundF, h]

theorem roundF_of_some {n : ℕ} {inex tiny : Bool} (h : roundMag f.mb f.emin (f.infBits - 1) true md neg m e = some (n, inex, tiny)) :
    roundF f md ftz (.fin neg m e) =
      if tiny && ftz then (f.signBit neg, flUF ||| flNX) else (f.signBit neg + n, flagIf inex flNX ||| flagIf (inex && tiny) flUF) := by
  cases m with
  | zero => exact absurd rfl hm
  | succ k => simp [roundF, h]

theorem roundF_roundsMag (hf : f.Shaped) (hmd : md ≤ 3) : f.RoundsMag ftz md neg (m * 2 ^ e / f.unit) (roundF f md ftz (.fin neg m e)) := by
  have hspec := roundMag_spec hf hmd neg hm e
  generalize hr : roundMag f.mb f.emin (f.infBits - 1) true md neg m e = r at hspec
  match r with
  | none =>
    rw [roundF_of_none hm hr]
    exact .overflow hspec
  | some (n, inex, tiny) =>
    rw [roundF_of_some hm hr]
    obtain ⟨hpick, hn, hinex, htiny⟩ := hspec
    by_cases hflush : (tiny && ftz) = true
    · rw [if_pos hflush]
      obtain ⟨ht, hftz⟩ := Bool.and_eq_true_iff.mp hflush
      exact .flushed (htiny.mp ht) hftz
    · rw [if_neg hflush]
      have hfl : (flagIf inex flNX ||| flagIf (inex && tiny) flUF) =
          if f.scale n = m * 2 ^ e / f.unit then 0 else if tiny = true then flUF ||| flNX else flNX := by
        cases hi : inex with
        | false => rw [if_pos (not_not.mp fun hne => by simp [hinex.mpr hne] at hi)]; simp [flagIf]
        | true =>
          rw [if_neg (hinex.mp hi)]
          cases tiny <;> rfl
      rw [hfl]
      exact .finite hpick hn htiny fun ht => by simpa [ht] using hflush

end

/-- Two values that lie on one side of every magnitude, of every middle and of the bound of the tiny ones are rounded alike. -/
theorem FFmt.RoundsMag.congr {f : FFmt} {ftz : Bool} {md : ℕ} {neg : Bool} {x x' : ℚ} {r : ℕ × Flags} (h : f.RoundsMag ftz md neg x' r)
    (hpast : ∀ j, GoesPast md neg j (f.scale j) (f.scale (j + 1)) x' ↔ GoesPast md neg j (f.scale j) (f.scale (j + 1)) x)
    (htiny : f.TinyAt md neg x' ↔ f.TinyAt md neg x) (hexact : ∀ n, f.scale n = x' ↔ f.scale n = x) : f.RoundsMag ftz md neg x r := by
  cases h with
  | flushed ht hftz => exact .flushed (htiny.mp ht) hftz
  | overflow hp => exact .overflow ((hpast _).mp hp)
  | finite hp hn ht hftz =>
    simp only [hexact]
    exact .finite ⟨fun j hj => (hpast j).mp (hp.1 j hj), fun h => hp.2 ((hpast _).mpr h)⟩ hn (ht.trans htiny) hftz

/-! ### The statement's thresholds -/

theorem FFmt.magUnits_infBits_sub_one {f : FFmt} (hf : f.Shaped) : (f.magUnits (f.infBits - 1) : ℤ) = f.maxUnits := by
  have hmid := FFmt.midUnits_top hf
  have hinf : f.infBits - 1 + 1 = f.infBits := Nat.sub_add_cancel (FFmt.infBits_pos hf)
  obtain ⟨b, hb⟩ : ∃ b, f.eb = b + 2 := ⟨f.eb - 2, by have := hf.1; omega⟩
  obtain ⟨q, hq⟩ : ∃ q, 2 ^ f.eb = q + 3 := ⟨2 ^ f.eb - 3, by rw [hb, pow_add]; have := Nat.one_le_two_pow (n := b); omega⟩
  have hsucc : (f.magUnits f.infBits : ℤ) = f.maxUnits + f.topGap := by
    rw [FFmt.magUnits_infBits hf, maxUnits, topGap, hq]
    push_cast
    ring
  rw [midUnits, hinf] at hmid
  push_cast at hmid
  linarith

theorem FFmt.magUnits_infBits_eq {f : FFmt} (hf : f.Shaped) : (f.magUnits f.infBits : ℤ) = f.maxUnits + f.topGap := by
  have hmid := FFmt.midUnits_top hf
  rw [midUnits, Nat.sub_add_cancel (FFmt.infBits_pos hf)] at hmid
  push_cast at hmid
  rw [FFmt.magUnits_infBits_sub_one hf] at hmid
  linarith

/-- Comparisons of a whole number with the quotient of an exact value. -/
theorem cast_le_div {q : ℕ} (hq : 0 < q) (a z : ℤ) : (a : ℚ) ≤ |(z : ℚ)| / q ↔ a * q ≤ |z| := by
  rw [le_div_iff₀ (by exact_mod_cast hq)]
  exact_mod_cast Iff.rfl

theorem cast_lt_div {q : ℕ} (hq : 0 < q) (a z : ℤ) : (a : ℚ) < |(z : ℚ)| / q ↔ a * q < |z| := by
  rw [lt_div_iff₀ (by exact_mod_cast hq)]
  exact_mod_cast Iff.rfl

/-- From an odd magnitude, the middle goes up as well. -/
theorem goesPast_zero_of_odd {neg : Bool} {j : ℕ} (hj : j % 2 = 1) {lo hi y : ℚ} : GoesPast 0 neg j lo hi y ↔ lo + hi ≤ 2 * y := by
  rw [GoesPast, if_pos rfl, le_iff_lt_or_eq]
  simp [hj]

theorem goesPast_of_ne_zero {md : ℕ} (h : md ≠ 0) {neg : Bool} {j : ℕ} {lo hi y : ℚ} :
    GoesPast md neg j lo hi y ↔ if roundsAway md neg = true then lo < y else hi ≤ y := by
  rw [GoesPast, if_neg h]

theorem FFmt.odd_infBits_sub_one {f : FFmt} (hf : f.Shaped) : (f.infBits - 1) % 2 = 1 := by
  have := infBits_even hf
  have := infBits_pos hf
  omega

theorem FFmt.over_iff {f : FFmt} (hf : f.Shaped) {md : ℕ} (hmd : md ≤ 3) {z : ℤ} {q : ℕ} (hq : 0 < q) :
    f.over md z q = true ↔
      GoesPast md (decide (z < 0)) (f.infBits - 1) (f.scale (f.infBits - 1)) (f.scale (f.infBits - 1 + 1)) (|(z : ℚ)| / q) := by
  have hlo : f.scale (f.infBits - 1) = (f.maxUnits : ℚ) := by rw [FFmt.scale, ← magUnits_infBits_sub_one hf, Int.cast_natCast]
  have hhi : f.scale (f.infBits - 1 + 1) = ((f.maxUnits + f.topGap : ℤ) : ℚ) := by
    rw [Nat.sub_add_cancel (infBits_pos hf), FFmt.scale, ← magUnits_infBits_eq hf, Int.cast_natCast]
  rw [hlo, hhi]
  by_cases h0 : md = 0
  · subst h0
    have hmid : (f.maxUnits : ℚ) + ((f.maxUnits + f.topGap : ℤ) : ℚ) ≤ 2 * (|(z : ℚ)| / q) ↔ (2 * f.maxUnits + f.topGap) * q ≤ 2 * |z| := by
      rw [← mul_div_assoc, le_div_iff₀ (by exact_mod_cast hq), ← Int.cast_add, ← add_assoc, ← two_mul]
      exact_mod_cast Iff.rfl
    rw [goesPast_zero_of_odd (odd_infBits_sub_one hf), hmid]
    exact decide_eq_true_iff
  · rw [goesPast_of_ne_zero h0, cast_le_div hq, cast_lt_div hq]
    interval_cases md
    · exact absurd rfl h0
    · simp [FFmt.over, roundsAway]
    · by_cases h : z < 0 <;> simp [FFmt.over, roundsAway, h]
    · by_cases h : z < 0 <;> simp [FFmt.over, roundsAway, h]

theorem FFmt.tiny_iff (f : FFmt) {md : ℕ} (hmd : md ≤ 3) (z : ℤ) {q : ℕ} (hq : 0 < q) :
    f.tiny md z q = true ↔ f.TinyAt md (decide (z < 0)) (|(z : ℚ)| / q) := by
  have hq' : (0 : ℚ) < q := by exact_mod_cast hq
  have hodd : (2 ^ (f.mb + 1) - 1) % 2 = 1 := by
    have := Nat.one_le_two_pow (n := f.mb)
    rw [pow_succ]; omega
  have hlo : ((2 ^ (f.mb + 1) - 1 : ℕ) : ℚ) = 2 * 2 ^ f.mb - 1 := by
    rw [Nat.cast_sub Nat.one_le_two_pow]; push_cast; ring
  have hhi : ((2 ^ (f.mb + 1) - 1 + 1 : ℕ) : ℚ) = 2 * 2 ^ f.mb := by rw [two_pow_pred_add]; push_cast; ring
  unfold FFmt.TinyAt
  rw [hlo, hhi]
  by_cases h0 : md = 0
  · subst h0
    rw [goesPast_zero_of_odd hodd, not_le, ← mul_div_assoc, ← mul_div_assoc, div_lt_iff₀ hq']
    refine decide_eq_true_iff.trans ?_
    have hcast : ((4 * |z| : ℤ) : ℚ) < (((4 * 2 ^ f.mb - 1) * q : ℤ) : ℚ) ↔ 4 * |z| < (4 * 2 ^ f.mb - 1) * q := Int.cast_lt
    rw [← hcast]
    push_cast
    constructor <;> intro h <;> linarith
  · rw [goesPast_of_ne_zero h0, ← mul_div_assoc]
    have hlow : ¬ ((2 : ℚ) * 2 ^ f.mb ≤ 2 * |(z : ℚ)| / q) ↔ |z| < 2 ^ f.mb * q := by
      have hcast : ((|z| : ℤ) : ℚ) < ((2 ^ f.mb * q : ℤ) : ℚ) ↔ |z| < 2 ^ f.mb * q := Int.cast_lt
      rw [not_le, div_lt_iff₀ hq', ← hcast]
      push_cast
      constructor <;> intro h <;> linarith
    have hnear : ¬ ((2 : ℚ) * 2 ^ f.mb - 1 < 2 * |(z : ℚ)| / q) ↔ 2 * |z| ≤ (2 * 2 ^ f.mb - 1) * q := by
      rw [not_lt, div_le_iff₀ hq']
      exact_mod_cast Iff.rfl
    interval_cases md
    · exact absurd rfl h0
    · simpa [FFmt.tiny, roundsAway] using hlow.symm
    · by_cases h : z < 0
      · simpa [FFmt.tiny, roundsAway, h] using hnear.symm
      · simpa [FFmt.tiny, roundsAway, h] using hlow.symm
    · by_cases h : z < 0
      · simpa [FFmt.tiny, roundsAway, h] using hlow.symm
      · simpa [FFmt.tiny, roundsAway, h] using hnear.symm

end Sys2Proof.Machine
end


section
/-!
SUPPORT (O22). The directed modes (R160): the magnitude just below or just above an exact value makes the pattern that the statement asks for.
-/
namespace Sys2Proof.Machine

theorem FFmt.abs_units (f : FFmt) (y : ℕ) : |f.units y| = f.magUnits (f.mag y) := by
  rw [f.units_eq, abs_mul, Nat.abs_cast]
  cases f.neg y <;> simp

theorem FFmt.units_signBit_add (f : FFmt) (neg : Bool) {n : ℕ} (hn : n < 2 ^ (f.eb + f.mb)) :
    f.units (f.signBit neg + n) = (if neg then -1 else 1) * (f.magUnits n : ℤ) := by
  rw [f.units_eq, FFmt.mag_signBit_add hn, FFmt.neg_signBit_add hn]

theorem FFmt.isNan_signBit_add (f : FFmt) (neg : Bool) {n : ℕ} (hn : n ≤ f.infBits) : f.isNan (f.signBit neg + n) = false := by
  simp [FFmt.isNan, FFmt.mag_signBit_add (hn.trans_lt f.infBits_lt), hn]

theorem FFmt.isInf_signBit_add (f : FFmt) (neg : Bool) {n : ℕ} (hn : n ≤ f.infBits) : f.isInf (f.signBit neg + n) = true ↔ n = f.infBits := by
  simp [FFmt.isInf, FFmt.mag_signBit_add (hn.trans_lt f.infBits_lt)]

theorem FFmt.finite_signBit_add (f : FFmt) (neg : Bool) {n : ℕ} (hn : n < f.infBits) : f.finite (f.signBit neg + n) = true := by
  simp [FFmt.finite, FFmt.mag_signBit_add (hn.trans f.infBits_lt), hn]

theorem FFmt.signBit_add_lt (f : FFmt) (neg : Bool) {n : ℕ} (hn : n ≤ f.infBits) : f.signBit neg + n < 2 ^ f.width := by
  have hlt := hn.trans_lt f.infBits_lt
  have hw : 2 ^ f.width = 2 ^ (f.eb + f.mb) + 2 ^ (f.eb + f.mb) := by rw [width, Nat.add_assoc, Nat.add_comm, pow_succ]; omega
  rw [hw, signBit]
  split <;> omega

theorem FFmt.maxUnits_pos (f : FFmt) : 0 < f.maxUnits := by
  have h : (2 : ℤ) ≤ 2 ^ (f.mb + 1) := by exact_mod_cast Nat.le_self_pow (by omega) 2
  exact mul_pos (by linarith) (by rw [FFmt.topGap]; positivity)

section
variable {f : FFmt} (hf : f.Shaped) {md n q : ℕ} {z : ℤ} (hz : z ≠ 0) (hq : 0 < q)
include hq

/-- Toward zero: the largest magnitude that does not exceed the value's. -/
theorem roundedIn_of_toward (hmd : md = 1 ∨ (md = 2 ∧ 0 < z) ∨ (md = 3 ∧ z < 0)) (hn : n < f.infBits)
    (hle : ∀ j < f.infBits, (f.magUnits j : ℤ) * q ≤ |z| ↔ j ≤ n) : RoundedIn f md z q (f.signBit (decide (z < 0)) + n) := by
  have hlt := hn.trans f.infBits_lt
  have hq' : (0 : ℤ) < q := by exact_mod_cast hq
  have hunits := f.units_signBit_add (decide (z < 0)) hlt
  have hself := (hle n hn).mpr le_rfl
  have hmax : ∀ y, f.finite y = true → |f.units y * q| ≤ |z| → |f.units y| ≤ f.magUnits n := fun y hy h => by
    rw [abs_mul, f.abs_units, Nat.abs_cast] at h
    rw [f.abs_units]
    exact_mod_cast f.magUnits_strictMono.monotone ((hle _ (by simpa [FFmt.finite] using hy)).mp h)
  refine ⟨f.isNan_signBit_add _ hn.le, ?inf, fun _ => FFmt.neg_signBit_add hlt, fun _ => ?value⟩
  case inf =>
    rw [f.isInf_signBit_add _ hn.le]
    refine iff_of_false hn.ne ?_
    have hpos : 0 < f.maxUnits * q := mul_pos f.maxUnits_pos hq'
    rintro (⟨h, -⟩ | ⟨h, h'⟩ | ⟨h, h'⟩) <;> omega
  case value =>
    rw [hunits]
    have hM : (0 : ℤ) ≤ f.magUnits n := Nat.cast_nonneg _
    rcases hmd with rfl | ⟨rfl, hpos⟩ | ⟨rfl, hneg⟩
    · have habs : |(if decide (z < 0) = true then -1 else 1) * (f.magUnits n : ℤ)| = f.magUnits n := by
        rw [abs_mul, Nat.abs_cast]; split <;> simp
      refine ⟨?_, fun y _ hy h => ?_⟩
      · rwa [abs_mul, habs, Nat.abs_cast]
      · rw [habs]; exact hmax y hy h
    · rw [abs_of_pos hpos] at hself hmax
      rw [if_neg (by simpa using hpos.le), one_mul]
      refine ⟨hself, fun y _ hy h => ?_⟩
      rcases le_total (f.units y) 0 with hy0 | hy0
      · exact hy0.trans hM
      · exact (le_abs_self _).trans (hmax y hy (by rwa [abs_of_nonneg (mul_nonneg hy0 hq'.le)]))
    · rw [abs_of_neg hneg] at hself hmax
      rw [if_pos (by simpa using hneg)]
      refine ⟨by linarith, fun y _ hy h => ?_⟩
      rcases le_total 0 (f.units y) with hy0 | hy0
      · linarith
      · have := hmax y hy (by rw [abs_of_nonpos (mul_nonpos_of_nonpos_of_nonneg hy0 hq'.le)]; linarith)
        rw [abs_of_nonpos hy0] at this
        linarith

include hf hz

/-- Away from zero: the least magnitude that reaches the value's. -/
theorem roundedIn_of_away (hmd : roundsAway md (decide (z < 0)) = true) (hn : n ≤ f.infBits)
    (hle : ∀ j < f.infBits, |z| ≤ (f.magUnits j : ℤ) * q ↔ n ≤ j) : RoundedIn f md z q (f.signBit (decide (z < 0)) + n) := by
  have hlt := hn.trans_lt f.infBits_lt
  have hq' : (0 : ℤ) < q := by exact_mod_cast hq
  have hunits := f.units_signBit_add (decide (z < 0)) hlt
  have hmin : ∀ y, f.finite y = true → |z| ≤ |f.units y * q| → (f.magUnits n : ℤ) ≤ |f.units y| := fun y hy h => by
    rw [abs_mul, f.abs_units, Nat.abs_cast] at h
    rw [f.abs_units]
    exact_mod_cast f.magUnits_strictMono.monotone ((hle _ (by simpa [FFmt.finite] using hy)).mp h)
  have htop := hle (f.infBits - 1) (Nat.sub_lt (FFmt.infBits_pos hf) one_pos)
  rw [FFmt.magUnits_infBits_sub_one hf] at htop
  have hinf : n = f.infBits ↔ f.maxUnits * q < |z| := by
    rw [← not_le, htop]
    have := FFmt.infBits_pos hf
    omega
  have hmd' : (md = 2 ∧ z < 0) ∨ (md = 3 ∧ 0 < z) := by
    simp only [roundsAway, Bool.or_eq_true, Bool.and_eq_true, beq_iff_eq, decide_eq_true_eq, Bool.not_eq_true', decide_eq_false_iff_not] at hmd
    omega
  refine ⟨f.isNan_signBit_add _ hn, ?inf, fun _ => FFmt.neg_signBit_add hlt, fun hfin => ?value⟩
  case inf =>
    rw [f.isInf_signBit_add _ hn, hinf]
    have hpos : 0 < f.maxUnits * q := mul_pos f.maxUnits_pos hq'
    rcases hmd' with ⟨rfl, h⟩ | ⟨rfl, h⟩
    · rw [abs_of_neg h]; constructor
      · intro h'; exact .inr (.inl ⟨rfl, by linarith⟩)
      · rintro (⟨h', -⟩ | ⟨-, h'⟩ | ⟨h', -⟩) <;> omega
    · rw [abs_of_pos h]; constructor
      · intro h'; exact .inr (.inr ⟨rfl, h'⟩)
      · rintro (⟨h', -⟩ | ⟨h', -⟩ | ⟨-, h'⟩) <;> omega
  case value =>
    have hn' : n < f.infBits := hn.lt_of_ne fun h => by simp [(f.isInf_signBit_add (decide (z < 0)) hn).mpr h] at hfin
    have hself := (hle n hn').mpr le_rfl
    rw [hunits]
    have hM : (0 : ℤ) ≤ f.magUnits n := Nat.cast_nonneg _
    rcases hmd' with ⟨rfl, hneg⟩ | ⟨rfl, hpos⟩
    · rw [abs_of_neg hneg] at hself hmin
      rw [if_pos (by simpa using hneg)]
      refine ⟨by linarith, fun y _ hy h => ?_⟩
      have hy0 : f.units y ≤ 0 := by
        by_contra h0
        have := mul_pos (not_le.mp h0) hq'
        linarith
      have := hmin y hy (by rw [abs_of_nonpos (mul_nonpos_of_nonpos_of_nonneg hy0 hq'.le)]; linarith)
      rw [abs_of_nonpos hy0] at this
      linarith
    · rw [abs_of_pos hpos] at hself hmin
      rw [if_neg (by simpa using hpos.le), one_mul]
      refine ⟨hself, fun y _ hy h => ?_⟩
      have hy0 : 0 ≤ f.units y := by
        by_contra h0
        have := mul_neg_of_neg_of_pos (not_le.mp h0) hq'
        linarith
      have := hmin y hy (by rwa [abs_of_nonneg (mul_nonneg hy0 hq'.le)])
      rwa [abs_of_nonneg hy0] at this

end

/-! ### Near, just below and just above, from the magnitude picked -/

section
variable {f : FFmt} (hf : f.Shaped) {neg : Bool} {md n : ℕ} {x : ℚ}

/-- To nearest, the magnitude that a value comes to is near it. -/
theorem FFmt.near_of_picks (h : Picks f.scale 0 neg n x) : f.Near n x := by
  obtain ⟨hlo, hhi⟩ := h
  have hmid : ∀ j, (f.midUnits j : ℚ) = f.scale j + f.scale (j + 1) := fun j => by rw [midUnits]; push_cast; rfl
  refine FFmt.near_of_pred (fun j hj => ?_) fun _ => ?_
  · subst hj
    have hpast := hlo j j.lt_succ_self
    rw [GoesPast, if_pos rfl] at hpast
    rw [hmid]
    refine ⟨hpast.elim le_of_lt fun h => h.1.le, fun hodd => hpast.resolve_right fun h => ?_⟩
    omega
  · rw [GoesPast, if_pos rfl, not_or, not_and, not_lt] at hhi
    rw [hmid]
    exact ⟨hhi.1, fun hodd => lt_of_le_of_ne hhi.1 fun h => hhi.2 h.symm hodd⟩

include hf in
theorem FFmt.near_of_goesPast (h : GoesPast 0 neg (f.infBits - 1) (f.scale (f.infBits - 1)) (f.scale (f.infBits - 1 + 1)) x) :
    f.Near f.infBits x := by
  rw [goesPast_zero_of_odd (odd_infBits_sub_one hf)] at h
  refine FFmt.near_infBits hf le_rfl fun j hj => le_trans ?_ h
  have h1 : f.scale j ≤ f.scale (f.infBits - 1) := f.scale_strictMono.monotone (by omega)
  have h2 : f.scale (j + 1) ≤ f.scale (f.infBits - 1 + 1) := f.scale_strictMono.monotone (by omega)
  rw [midUnits]
  push_cast
  exact add_le_add h1 h2

theorem scale_le_iff_of_toward (h0 : md ≠ 0) (ht : roundsAway md neg = false) (hx : 0 ≤ x) (h : Picks f.scale md neg n x) (j : ℕ) :
    f.scale j ≤ x ↔ j ≤ n := by
  cases j with
  | zero => simpa [FFmt.scale] using hx
  | succ j =>
    have hiff := h.le_iff (k := j) f.scale_strictMono
    rw [goesPast_of_ne_zero h0, ht] at hiff
    exact hiff.symm

theorem le_scale_iff_of_away (h0 : md ≠ 0) (ha : roundsAway md neg = true) (h : Picks f.scale md neg n x) (j : ℕ) : x ≤ f.scale j ↔ n ≤ j := by
  have hiff := h.le_iff (k := j) f.scale_strictMono
  rw [goesPast_of_ne_zero h0, if_pos ha] at hiff
  rw [← not_lt, ← hiff, not_lt]

end

/-! ### The statement's rounding -/

/-- A mode rounds the magnitude of a value of a sign to nearest, away from zero, or toward it. -/
theorem mode_cases {md : ℕ} (hmd : md ≤ 3) {z : ℤ} (hz : z ≠ 0) : md = 0 ∨ (md ≠ 0 ∧ roundsAway md (decide (z < 0)) = true) ∨
    (md ≠ 0 ∧ roundsAway md (decide (z < 0)) = false ∧ (md = 1 ∨ (md = 2 ∧ 0 < z) ∨ (md = 3 ∧ z < 0))) := by
  simp only [roundsAway]
  rcases lt_or_gt_of_ne hz with h | h
  · interval_cases md <;> simp [h]
  · interval_cases md <;> simp [h, h.not_gt]

theorem overflowInf_eq (md : ℕ) (neg : Bool) : overflowInf md neg = (md == 0 || roundsAway md neg) := by
  simp only [overflowInf, roundsAway, Bool.or_assoc]

/-- The least normal magnitude is below the largest finite one. -/
theorem FFmt.two_pow_le_scale {f : FFmt} (hf : f.Shaped) : 2 ^ f.mb ≤ f.scale (f.infBits - 1) := by
  have heb : 2 ^ 2 ≤ 2 ^ f.eb := Nat.pow_le_pow_right two_pos hf.1
  have hp := Nat.one_le_two_pow (n := f.mb)
  have hinf : 2 * 2 ^ f.mb ≤ f.infBits := Nat.mul_le_mul_right _ (by omega)
  have hself : f.scale (2 ^ f.mb) = 2 ^ f.mb := by
    have h := f.scale_block (E := 0) (k := 2 ^ f.mb) (.inl rfl) (Nat.pow_le_pow_right two_pos (Nat.le_succ _))
    simpa using h
  rw [← hself]
  exact f.scale_strictMono.monotone (by omega)

section
variable {f : FFmt} (hf : f.Shaped) {ftz : Bool} {md q : ℕ} {z : ℤ} (hmd : md ≤ 3) (hz : z ≠ 0) (hq : 0 < q)

include hq in
theorem FFmt.scale_le_abs_iff (j : ℕ) : f.scale j ≤ |(z : ℚ)| / q ↔ (f.magUnits j : ℤ) * q ≤ |z| := by
  rw [← cast_le_div hq, Int.cast_natCast, FFmt.scale]

include hq in
theorem FFmt.abs_le_scale_iff (j : ℕ) : |(z : ℚ)| / q ≤ f.scale j ↔ |z| ≤ (f.magUnits j : ℤ) * q := by
  rw [← not_lt, ← not_lt, ← cast_lt_div hq, Int.cast_natCast, FFmt.scale]

include hq in
theorem FFmt.scale_eq_abs_iff {n : ℕ} (hn : n < f.infBits) :
    f.scale n = |(z : ℚ)| / q ↔ f.units (f.signBit (decide (z < 0)) + n) * q = z := by
  have habs : f.scale n = |(z : ℚ)| / q ↔ (f.magUnits n : ℤ) * q = |z| := by
    rw [le_antisymm_iff, FFmt.scale_le_abs_iff hq, FFmt.abs_le_scale_iff hq, le_antisymm_iff]
  rw [habs, f.units_signBit_add _ (hn.trans f.infBits_lt)]
  by_cases h : z < 0
  · rw [if_pos (by simpa using h), abs_of_neg h]
    constructor <;> intro <;> linarith
  · rw [if_neg (by simpa using h), abs_of_nonneg (not_lt.mp h), one_mul]

include hf hmd hz hq

theorem roundedIn_of_picks {n : ℕ} (hn : n < f.infBits) (hpick : Picks f.scale md (decide (z < 0)) n (|(z : ℚ)| / q)) :
    RoundedIn f md z q (f.signBit (decide (z < 0)) + n) := by
  rcases mode_cases hmd hz with rfl | ⟨h0, ha⟩ | ⟨h0, ht, hmd'⟩
  · exact roundedIn_of_near hf hn.le hq (FFmt.near_of_picks hpick) fun _ => rfl
  · exact roundedIn_of_away hf hz hq ha hn.le fun j _ => (FFmt.abs_le_scale_iff hq j).symm.trans (le_scale_iff_of_away h0 ha hpick j)
  · exact roundedIn_of_toward hq hmd' hn fun j _ =>
      (FFmt.scale_le_abs_iff hq j).symm.trans (scale_le_iff_of_toward h0 ht (by positivity) hpick j)

theorem roundedIn_of_overflow (h : GoesPast md (decide (z < 0)) (f.infBits - 1) (f.scale (f.infBits - 1)) (f.scale (f.infBits - 1 + 1)) (|(z : ℚ)| / q)) :
    RoundedIn f md z q (f.signBit (decide (z < 0)) + (if overflowInf md (decide (z < 0)) = true then f.infBits else f.infBits - 1)) := by
  have hpos := FFmt.infBits_pos hf
  rw [overflowInf_eq]
  rcases mode_cases hmd hz with rfl | ⟨h0, ha⟩ | ⟨h0, ht, hmd'⟩
  · exact roundedIn_of_near hf le_rfl hq (FFmt.near_of_goesPast hf h) fun _ => rfl
  · rw [goesPast_of_ne_zero h0, if_pos ha] at h
    rw [ha, Bool.or_true, if_pos rfl]
    refine roundedIn_of_away hf hz hq ha le_rfl fun j hj => (FFmt.abs_le_scale_iff hq j).symm.trans (iff_of_false ?_ (not_le.mpr hj))
    exact not_le.mpr ((f.scale_strictMono.monotone (by omega)).trans_lt h)
  · rw [goesPast_of_ne_zero h0, if_neg (by simp [ht])] at h
    rw [ht, Bool.or_false, if_neg (by simpa using h0)]
    refine roundedIn_of_toward hq hmd' (by omega) fun j hj => (FFmt.scale_le_abs_iff hq j).symm.trans (iff_of_true ?_ (by omega))
    exact (f.scale_strictMono.monotone (by omega)).trans h

/-- What rounding once by magnitude answers for a value z / q is what the statement says. -/
theorem FFmt.RoundsMag.rounds {neg0 : Bool} {res : ℕ × Flags} (h : f.RoundsMag ftz md (decide (z < 0)) (|(z : ℚ)| / q) res) :
    Rounds f ftz md z q neg0 res.1 res.2 := by
  have hover := f.over_iff hf hmd (z := z) hq
  have htiny := f.tiny_iff hmd z hq
  have hpos := FFmt.infBits_pos hf
  unfold Rounds
  rw [if_neg hz]
  cases h with
  | flushed ht hftz => rw [if_pos (by simp [hftz, htiny.mpr ht])]; exact ⟨rfl, rfl⟩
  | overflow hpast =>
    have hnot : f.tiny md z q = false := by
      rw [Bool.eq_false_iff, Ne, htiny]
      exact FFmt.not_tinyAt ((FFmt.two_pow_le_scale hf).trans (hpast.lt (f.scale_strictMono (Nat.lt_succ_self _))).le)
    rw [if_neg (by simp [hnot]), if_pos (hover.mpr hpast)]
    exact ⟨roundedIn_of_overflow hf hmd hz hq hpast, f.signBit_add_lt _ (by split <;> omega), rfl⟩
  | @finite n tiny hpick hn ht hftz =>
    have hnover : f.over md z q = false := by
      rw [Bool.eq_false_iff, Ne, hover, ← hpick.le_iff f.scale_strictMono]
      omega
    have htt : tiny = f.tiny md z q := by rw [Bool.eq_iff_iff, ht, htiny]
    rw [if_neg (by rw [← htt, Bool.and_eq_true]; exact fun ⟨h1, h2⟩ => by simp [h1] at hftz; simp [h2] at hftz)]
    refine ⟨roundedIn_of_picks hf hmd hz hq hn hpick, f.signBit_add_lt _ hn.le, ?_⟩
    simp only [hnover, FFmt.scale_eq_abs_iff hq hn, htt, Bool.false_eq_true, if_false]

end

/-- A finite result whose value is z / q units, rounded once. -/
theorem roundF_rounds {f : FFmt} (hf : f.Shaped) {ftz : Bool} {md q : ℕ} {z : ℤ} (hmd : md ≤ 3) (hq : 0 < q) {neg neg0 : Bool} {m : ℕ} {e : ℤ}
    (h : FVal.rat (.fin neg m e) * q = z * f.unit) (hsign : z = 0 → neg = neg0) :
    Rounds f ftz md z q neg0 (roundF f md ftz (.fin neg m e)).1 (roundF f md ftz (.fin neg m e)).2 := by
  have hq' : (0 : ℚ) < q := by exact_mod_cast hq
  have hu := f.unit_pos
  have hval : (0 : ℚ) ≤ m * 2 ^ e := by positivity
  by_cases hz : z = 0
  · obtain rfl : m = 0 := by
      rw [hz, Int.cast_zero, zero_mul, mul_eq_zero, or_iff_left hq'.ne', FVal.rat] at h
      have h2 : (2 : ℚ) ^ e ≠ 0 := by positivity
      cases neg <;> simpa [h2] using h
    rw [Rounds, if_pos hz, ← hsign hz]
    exact ⟨rfl, rfl⟩
  · have hm : m ≠ 0 := by
      rintro rfl
      refine hz ?_
      simpa [FVal.rat, hu.ne'] using h
    have hpos : (0 : ℚ) < m * 2 ^ e := by positivity
    have hneg : neg = decide (z < 0) := by
      have hiff : (z : ℚ) < 0 ↔ FVal.rat (.fin neg m e) < 0 := by
        rw [← mul_lt_mul_iff_left₀ hu, ← h, zero_mul]
        exact ⟨fun hlt => neg_of_mul_neg_left hlt hq'.le, fun hlt => mul_neg_of_neg_of_pos hlt hq'⟩
      rw [Bool.eq_iff_iff, decide_eq_true_iff, ← Int.cast_lt_zero (R := ℚ), hiff, FVal.rat]
      cases neg
      · simpa using hpos.le
      · simpa using hpos
    have habs : (m : ℚ) * 2 ^ e / f.unit = |(z : ℚ)| / q := by
      rw [div_eq_div_iff hu.ne' hq'.ne']
      have hz : |FVal.rat (.fin neg m e) * q| = |(z : ℚ) * f.unit| := by rw [h]
      rw [abs_mul, abs_mul, abs_of_pos hq', abs_of_pos hu] at hz
      rw [← hz, FVal.rat, abs_mul, abs_of_nonneg hval]
      cases neg <;> simp
    have hr := roundF_roundsMag (ftz := ftz) (neg := neg) (e := e) hm hf hmd
    rw [habs, hneg] at hr
    rw [hneg]
    exact hr.rounds hf hmd hz hq

end Sys2Proof.Machine
end


section
/-!
SUPPORT (O21, O22, O24). Operands and exact operations (R157 to R159, R207): what a pattern reads as, and what sums, products and fused
products answer of NaNs, infinities and the sign of zero.
-/
namespace Sys2Proof.Machine

/-! ### Operands -/

theorem fp16_shaped : fp16.Shaped := ⟨by decide, by decide⟩

theorem fmtOf_shaped (t : ℕ) : (fmtOf t).Shaped := by
  unfold fmtOf
  split
  · exact fp16_shaped
  · split
    · exact bf16_shaped
    · exact fp32_shaped

theorem FFmt.nanBits_eq {f : FFmt} : f.nanBits = f.infBits + 2 ^ (f.mb - 1) := rfl

theorem FFmt.nanBits_lt {f : FFmt} (hf : f.Shaped) : f.nanBits < 2 ^ (f.eb + f.mb) := by
  have hp : 2 ^ (f.mb - 1) < 2 ^ f.mb := Nat.pow_lt_pow_right (by norm_num) (by have := hf.2; omega)
  have hsum : f.infBits + 2 ^ f.mb = 2 ^ (f.eb + f.mb) := by
    rw [infBits, ← Nat.succ_mul, pow_add, Nat.succ_eq_add_one, Nat.sub_add_cancel Nat.one_le_two_pow]
  rw [nanBits]
  omega

/-- The canonical NaN is one. -/
theorem FFmt.isNan_nanBits {f : FFmt} (hf : f.Shaped) : f.isNan f.nanBits = true := by
  have hp := Nat.one_le_two_pow (n := f.mb - 1)
  rw [isNan, mag, Nat.mod_eq_of_lt (FFmt.nanBits_lt hf), decide_eq_true_iff, nanBits]
  omega

/-- No sign and number of at most infinity make the canonical NaN. -/
theorem FFmt.signBit_add_ne_nanBits {f : FFmt} (hf : f.Shaped) (neg : Bool) {n : ℕ} (hn : n ≤ f.infBits) : f.signBit neg + n ≠ f.nanBits :=
  fun h => by simpa [h, FFmt.isNan_nanBits hf] using f.isNan_signBit_add neg hn

/-- Below the least normal magnitude the exponent field is zero. -/
theorem FFmt.mag_lt_iff (f : FFmt) (b : ℕ) : f.mag b < 2 ^ f.mb ↔ bitsN b f.mb f.eb = 0 := by
  have hm : bitsN b 0 f.mb < 2 ^ f.mb := Nat.mod_lt _ (Nat.two_pow_pos _)
  rw [f.mag_eq]
  refine ⟨fun h => ?_, fun h => by simpa [h] using hm⟩
  by_contra h0
  have := Nat.le_mul_of_pos_left (2 ^ f.mb) (Nat.pos_of_ne_zero h0)
  omega

theorem unpackF_of_exp_zero {f : FFmt} (hf : f.Shaped) (ftz : Bool) {b : ℕ} (h : bitsN b f.mb f.eb = 0) :
    unpackF f ftz b = .fin (f.neg b) (if ftz then 0 else bitsN b 0 f.mb) (f.emin - f.mb) := by
  have htop : 2 ^ 2 ≤ 2 ^ f.eb := Nat.pow_le_pow_right two_pos hf.1
  have hne : ¬(0 == 2 ^ f.eb - 1) = true := by rw [beq_iff_eq]; omega
  unfold unpackF
  dsimp only
  rw [h, if_neg hne]
  rfl

theorem unpackF_of_exp_ne_zero {f : FFmt} (ftz : Bool) {b : ℕ} (h : bitsN b f.mb f.eb ≠ 0) : unpackF f ftz b = unpackF f false b := by
  have hne : ¬(bitsN b f.mb f.eb == 0) = true := by simpa using h
  unfold unpackF
  dsimp only
  rw [if_neg hne, if_neg hne]

/-- Under `.ftz`, an operand reads as the pattern that the statement gives. -/
theorem unpackF_asRead {f : FFmt} (hf : f.Shaped) (ftz : Bool) (b : ℕ) : unpackF f ftz b = unpackF f false (f.asRead ftz b) := by
  have hzero : f.mag (f.signBit (f.neg b)) = 0 := FFmt.mag_signBit_add (n := 0) (Nat.two_pow_pos _)
  have hneg : f.neg (f.signBit (f.neg b)) = f.neg b := FFmt.neg_signBit_add (n := 0) (Nat.two_pow_pos _)
  have hread : f.asRead ftz b = if ftz && f.isSub b then f.signBit (f.neg b) else b := rfl
  cases ftz with
  | false => rfl
  | true =>
    rw [hread, Bool.true_and]
    by_cases hexp : bitsN b f.mb f.eb = 0
    · have hlt := (f.mag_lt_iff b).mpr hexp
      have hsub : f.isSub b = decide (0 < f.mag b) := by simp [FFmt.isSub, hlt]
      have hmag : f.mag b = bitsN b 0 f.mb := by rw [f.mag_eq, hexp, Nat.zero_mul, Nat.zero_add]
      rw [unpackF_of_exp_zero hf _ hexp, hsub, hmag]
      by_cases hpos : 0 < bitsN b 0 f.mb
      · have hz := (f.mag_lt_iff (f.signBit (f.neg b))).mp (hzero ▸ Nat.two_pow_pos _)
        have hm : bitsN (f.signBit (f.neg b)) 0 f.mb = 0 := by rw [f.mag_eq, hz] at hzero; simpa using hzero
        rw [decide_eq_true hpos, if_pos rfl, if_pos rfl, unpackF_of_exp_zero hf _ hz, hneg, hm]
        rfl
      · rw [decide_eq_false hpos, if_pos rfl, if_neg Bool.false_ne_true, unpackF_of_exp_zero hf _ hexp, Nat.eq_zero_of_not_pos hpos]
        rfl
    · have hsub : f.isSub b = false := by
        have := (f.mag_lt_iff b).not.mpr hexp
        simp [FFmt.isSub, this]
      rw [hsub, unpackF_of_exp_ne_zero _ hexp]
      rfl

/-- What a pattern is: a NaN, an infinity or a finite value. -/
theorem unpackF_nan {f : FFmt} (hf : f.Shaped) {b : ℕ} (h : f.isNan b = true) : unpackF f false b = .nan (f.isSnan b) := by
  obtain ⟨he, hm⟩ := (f.class_iff b).2.2.mp h
  have hsnan : f.isSnan b = !bitN (bitsN b 0 f.mb) (f.mb - 1) := by
    have hlt : bitsN b 0 f.mb < 2 ^ f.mb := Nat.mod_lt _ (Nat.two_pow_pos _)
    have hp : 2 ^ f.mb = 2 * 2 ^ (f.mb - 1) := by rw [← pow_succ', Nat.sub_add_cancel hf.2]
    have hdiv : bitsN b 0 f.mb / 2 ^ (f.mb - 1) < 2 := by rw [Nat.div_lt_iff_lt_mul (Nat.two_pow_pos _), ← hp]; exact hlt
    have hiff : bitsN b 0 f.mb < 2 ^ (f.mb - 1) ↔ bitsN b 0 f.mb / 2 ^ (f.mb - 1) = 0 := by
      rw [Nat.div_eq_zero_iff_lt (Nat.two_pow_pos _)]
    rw [FFmt.isSnan, h, Bool.true_and, f.mag_eq, he, FFmt.nanBits, FFmt.infBits, bitN, Bool.eq_iff_iff, decide_eq_true_iff,
      Nat.add_lt_add_iff_left, hiff, Bool.not_eq_true', beq_eq_false_iff_ne]
    generalize bitsN b 0 f.mb / 2 ^ (f.mb - 1) = k at hdiv
    omega
  rw [hsnan]
  unfold unpackF
  dsimp only
  rw [if_pos (by simpa using he), if_neg (by simpa using hm)]

theorem FVal.isZero_of_rat {neg : Bool} {m : ℕ} {e : ℤ} : (FVal.fin neg m e).isZero = true ↔ FVal.rat (.fin neg m e) = 0 := by
  have h2 : (2 : ℚ) ^ e ≠ 0 := by positivity
  cases neg <;> simp [FVal.isZero, FVal.rat, h2]

/-- The reading of a pattern, class, sign and value. -/
structure FFmt.Reads (f : FFmt) (b : ℕ) (v : FVal) : Prop where
  isNan : v.isNan = f.isNan b
  isSnan : v.isSnan = f.isSnan b
  isInf : v.isInf = f.isInf b
  isZero : v.isZero = (f.mag b == 0)
  sign : f.isNan b = false → v.sign = f.neg b
  fin : f.finite b = true → ∃ m e, v = .fin (f.neg b) m e ∧ FVal.rat (.fin (f.neg b) m e) = f.units b * f.unit

theorem FFmt.units_eq_zero_iff (f : FFmt) (b : ℕ) : f.units b = 0 ↔ f.mag b = 0 := by
  have h : f.magUnits (f.mag b) = f.magUnits 0 ↔ f.mag b = 0 := f.magUnits_strictMono.injective.eq_iff
  rw [← abs_eq_zero, f.abs_units, Int.natCast_eq_zero, ← h, f.magUnits_zero]

theorem unpackF_reads {f : FFmt} (hf : f.Shaped) (b : ℕ) : f.Reads b (unpackF f false b) := by
  have hpos := FFmt.infBits_pos hf
  cases hn : f.isNan b with
  | true =>
    have hinf : f.isInf b = false := by
      simp only [FFmt.isNan, FFmt.isInf, decide_eq_true_eq, beq_eq_false_iff_ne] at hn ⊢
      omega
    have hzero : (f.mag b == 0) = false := by
      simp only [FFmt.isNan, decide_eq_true_eq, beq_eq_false_iff_ne] at hn ⊢
      omega
    rw [unpackF_nan hf hn]
    refine ⟨hn.symm, rfl, hinf.symm, hzero.symm, fun h => by simp [hn] at h, fun h => ?_⟩
    simp only [FFmt.isNan, FFmt.finite, decide_eq_true_eq] at hn h
    omega
  | false =>
    have hs : f.isSnan b = false := by rw [FFmt.isSnan, hn, Bool.false_and]
    rcases FFmt.finite_or_isInf hn with hfin | hinf
    · obtain ⟨m, e, hv, hval⟩ := unpackF_rat hf hfin
      have hinf : f.isInf b = false := by
        simp only [FFmt.finite, FFmt.isInf, decide_eq_true_eq, beq_eq_false_iff_ne] at hfin ⊢
        omega
      have hzero : (FVal.fin (f.neg b) m e).isZero = (f.mag b == 0) := by
        rw [Bool.eq_iff_iff, FVal.isZero_of_rat, hval, mul_eq_zero, or_iff_left f.unit_pos.ne', Int.cast_eq_zero, f.units_eq_zero_iff, beq_iff_eq]
      rw [hv]
      exact ⟨hn.symm, hs.symm, hinf.symm, hzero, fun _ => rfl, fun _ => ⟨m, e, rfl, hval⟩⟩
    · have hzero : (f.mag b == 0) = false := by
        simp only [FFmt.isInf, beq_iff_eq, beq_eq_false_iff_ne] at hinf ⊢
        omega
      rw [unpackF_inf hinf]
      refine ⟨hn.symm, hs.symm, hinf.symm, hzero.symm, fun _ => rfl, fun h => ?_⟩
      simp only [FFmt.isInf, FFmt.finite, decide_eq_true_eq, beq_iff_eq] at hinf h
      omega

/-- An operand under `.ftz`. -/
theorem unpackF_asRead_reads {f : FFmt} (hf : f.Shaped) (ftz : Bool) (b : ℕ) : f.Reads (f.asRead ftz b) (unpackF f ftz b) :=
  unpackF_asRead hf ftz b ▸ unpackF_reads hf _

theorem fel_reads (t : ℕ) (ftz : Bool) (x : DWord) (j : ℕ) : (fmtOf t).Reads ((fmtOf t).asRead ftz (fbits t x j)) (fel t ftz x j) :=
  unpackF_asRead_reads (fmtOf_shaped t) ftz _

end Sys2Proof.Machine
end


section
/-!
SUPPORT (O21, O22, O28). Exact sums, products and fused products (R159, R207) by what their operands are: when they are a NaN or an infinity,
with which flags, and the sign of a zero sum.
-/
namespace Sys2Proof.Machine

/-- Infinities of opposite sign. -/
def FVal.opposite (x y : FVal) : Bool := x.isInf && y.isInf && x.sign != y.sign

/-- Zero and infinity. -/
def FVal.infZero (x y : FVal) : Bool := (x.isInf && y.isZero) || (x.isZero && y.isInf)

@[simp] theorem FVal.isNan_negate (x : FVal) : x.negate.isNan = x.isNan := by cases x <;> rfl
@[simp] theorem FVal.isSnan_negate (x : FVal) : x.negate.isSnan = x.isSnan := by cases x <;> rfl
@[simp] theorem FVal.isInf_negate (x : FVal) : x.negate.isInf = x.isInf := by cases x <;> rfl
theorem FVal.sign_negate {x : FVal} (h : x.isNan = false) : x.negate.sign = !x.sign := by
  cases x with
  | nan s => cases h
  | inf s => rfl
  | fin s m e => rfl
theorem FVal.rat_negate (x : FVal) : x.negate.rat = -x.rat := by
  cases x with
  | nan s => exact neg_zero.symm
  | inf s => exact neg_zero.symm
  | fin s m e => cases s <;> simp [FVal.rat, FVal.negate]

/-- An operation's result by its operands: a NaN just where `nan`, the flags NV just where `nv`, and the infinity of sign `neg` where `inf`. -/
structure FVal.Special (r : FVal × Flags) (nan nv inf neg : Bool) : Prop where
  flags : r.2 = flagIf nv flNV
  isNan : r.1.isNan = nan
  isSnan : r.1.isSnan = false
  isInf : nan = false → r.1.isInf = inf
  infinity : nan = false → inf = true → r.1 = .inf neg

theorem FVal.special_fin (s : Bool) (m : ℕ) (e : ℤ) (neg : Bool) : FVal.Special (.fin s m e, 0) false false false neg :=
  ⟨rfl, rfl, rfl, fun _ => rfl, fun _ h => by cases h⟩

theorem addF_fin_flags (md : ℕ) (s t : Bool) (m n : ℕ) (e g : ℤ) (neg : Bool) :
    FVal.Special (addF md (.fin s m e) (.fin t n g)) false false false neg := by
  unfold addF
  dsimp only
  split_ifs <;> exact FVal.special_fin _ _ _ _

theorem addF_special (md : ℕ) (x y : FVal) : FVal.Special (addF md x y) (x.isNan || y.isNan || x.opposite y)
    (x.isSnan || y.isSnan || x.opposite y) (x.isInf || y.isInf) (if x.isInf then x.sign else y.sign) := by
  cases x with
  | nan a => cases y <;> exact ⟨by simp [addF, nvOf, FVal.opposite, FVal.isInf], rfl, rfl, nofun, nofun⟩
  | inf s =>
    cases y with
    | nan b => exact ⟨by simp [addF, nvOf, FVal.opposite, FVal.isInf], rfl, rfl, nofun, nofun⟩
    | inf t =>
      by_cases hst : s = t
      · have hadd : addF md (.inf s) (.inf t) = (.inf s, 0) := by simp [addF, hst]
        have hop : FVal.opposite (.inf s) (.inf t) = false := by simp [FVal.opposite, FVal.sign, hst]
        rw [hadd, hop]
        exact ⟨rfl, rfl, rfl, fun _ => rfl, fun _ _ => rfl⟩
      · have hadd : addF md (.inf s) (.inf t) = (.nan false, flNV) := by simp [addF, hst]
        have hop : FVal.opposite (.inf s) (.inf t) = true := by simp [FVal.opposite, FVal.isInf, FVal.sign, hst]
        rw [hadd, hop]
        exact ⟨rfl, rfl, rfl, nofun, nofun⟩
    | fin t n g => exact ⟨rfl, rfl, rfl, fun _ => rfl, fun _ _ => rfl⟩
  | fin s m e =>
    cases y with
    | nan b => exact ⟨by simp [addF, nvOf, FVal.opposite, FVal.isInf], rfl, rfl, nofun, nofun⟩
    | inf t => exact ⟨rfl, rfl, rfl, fun _ => rfl, fun _ _ => rfl⟩
    | fin t n g => exact addF_fin_flags md s t m n e g _

theorem mulF_special (x y : FVal) : FVal.Special (mulF x y) (x.isNan || y.isNan || x.infZero y)
    (x.isSnan || y.isSnan || x.infZero y) (x.isInf || y.isInf) (x.sign != y.sign) := by
  cases x with
  | nan a => cases y <;> exact ⟨by simp [mulF, nvOf, FVal.infZero, FVal.isInf, FVal.isZero], rfl, rfl, nofun, nofun⟩
  | inf s =>
    cases y with
    | nan b => exact ⟨by simp [mulF, nvOf, FVal.infZero, FVal.isInf, FVal.isZero], rfl, rfl, nofun, nofun⟩
    | inf t => exact ⟨rfl, rfl, rfl, fun _ => rfl, fun _ _ => rfl⟩
    | fin t n g =>
      by_cases hn : n = 0
      · subst hn; exact ⟨rfl, rfl, rfl, nofun, nofun⟩
      · have hmul : mulF (.inf s) (.fin t n g) = (.inf (s != t), 0) := by simp [mulF, hn]
        have hz : FVal.infZero (.inf s) (.fin t n g) = false := by simp [FVal.infZero, FVal.isZero, hn]
        rw [hmul, hz]
        exact ⟨rfl, rfl, rfl, fun _ => rfl, fun _ _ => rfl⟩
  | fin s m e =>
    cases y with
    | nan b => exact ⟨by simp [mulF, nvOf, FVal.infZero, FVal.isInf, FVal.isZero], rfl, rfl, nofun, nofun⟩
    | inf t =>
      by_cases hm : m = 0
      · subst hm; exact ⟨rfl, rfl, rfl, nofun, nofun⟩
      · have hmul : mulF (.fin s m e) (.inf t) = (.inf (s != t), 0) := by simp [mulF, hm]
        have hz : FVal.infZero (.fin s m e) (.inf t) = false := by simp [FVal.infZero, FVal.isZero, FVal.isInf, hm]
        rw [hmul, hz]
        exact ⟨rfl, rfl, rfl, fun _ => rfl, fun _ _ => rfl⟩
    | fin t n g =>
      have hz : FVal.infZero (.fin s m e) (.fin t n g) = false := by simp [FVal.infZero, FVal.isInf]
      rw [hz]
      exact FVal.special_fin _ _ _ _

/-- The zero sum of finite values has the sign that IEEE 754 gives it. -/
theorem addF_zero_sign (md : ℕ) (s t : Bool) (m n : ℕ) (e g : ℤ) {u : Bool} {k : ℕ} {i : ℤ}
    (h : (addF md (.fin s m e) (.fin t n g)).1 = .fin u k i) (hzero : FVal.rat (.fin s m e) + FVal.rat (.fin t n g) = 0) :
    u = zeroSign md s t := by
  have hiff : ∀ {s : Bool} {m : ℕ} {e : ℤ}, FVal.rat (.fin s m e) = 0 ↔ m = 0 := fun {s m e} => by
    rw [← FVal.isZero_of_rat, FVal.isZero, beq_iff_eq]
  unfold addF at h
  dsimp only at h
  by_cases hm : m = 0
  · have hn : n = 0 := hiff.mp (by rwa [hiff.mpr hm, zero_add] at hzero)
    rw [if_pos (by simp [hm, hn])] at h
    obtain ⟨rfl, -, -⟩ := FVal.fin.inj h
    simp [zeroSign]
  · have hn : n ≠ 0 := fun hn => hm (hiff.mp (by rwa [hiff.mpr hn, add_zero] at hzero))
    rw [if_neg (by simp [hm]), if_neg (by simpa using hm), if_neg (by simpa using hn)] at h
    have hsum := hzero
    rw [FVal.rat_fin (min_le_left e g) s m, FVal.rat_fin (min_le_right e g) t n, ← add_mul, ← Int.cast_add, mul_eq_zero,
      or_iff_left (by positivity), Int.cast_eq_zero] at hsum
    rw [if_pos (by simpa using hsum)] at h
    obtain ⟨rfl, -, -⟩ := FVal.fin.inj h
    have hne : s ≠ t := by
      rintro rfl
      have hpos : ∀ {a : ℕ} {e : ℤ}, a ≠ 0 → (0 : ℚ) < a * 2 ^ e := fun {a e} ha => by positivity
      have h1 := hpos (e := e) hm
      have h2 := hpos (e := g) hn
      simp only [FVal.rat, ← mul_add] at hzero
      cases s <;> simp at hzero <;> linarith
    rw [zeroSign, if_neg hne]

end Sys2Proof.Machine
end


section
/-!
SUPPORT (O21, O22). From an exact result to a pattern with its flags (R159, R161): what rounding keeps of NaNs, infinities and flags; and the
packing of element results.
-/
namespace Sys2Proof.Machine

/-! ### Rounding what is special -/

theorem FFmt.overflow_bits_le (f : FFmt) (md : ℕ) (neg : Bool) : (if overflowInf md neg then f.infBits else f.infBits - 1) ≤ f.infBits := by
  split <;> omega

/-- A finite value rounds to a sign with a magnitude, and raises no NV. -/
theorem roundF_fin (f : FFmt) (md : ℕ) (ftz neg : Bool) (m : ℕ) (e : ℤ) :
    (∃ n ≤ f.infBits, (roundF f md ftz (.fin neg m e)).1 = f.signBit neg + n) ∧ (roundF f md ftz (.fin neg m e)).2.getLsbD 4 = false := by
  by_cases hm : m = 0
  · subst hm
    exact ⟨⟨0, Nat.zero_le _, rfl⟩, (by decide : (0 : Flags).getLsbD 4 = false)⟩
  cases hr : roundMag f.mb f.emin (f.infBits - 1) true md neg m e with
  | none =>
    rw [roundF_of_none hm hr]
    exact ⟨⟨_, f.overflow_bits_le md neg, rfl⟩, (by decide : (flOF ||| flNX).getLsbD 4 = false)⟩
  | some r =>
    obtain ⟨n, inex, tiny⟩ := r
    have hn : n ≤ f.infBits - 1 := by
      unfold roundMag at hr
      dsimp only at hr
      split_ifs at hr with h1 h2
      obtain ⟨hn, -⟩ := Prod.mk.inj (Option.some.inj hr)
      omega
    rw [roundF_of_some hm hr]
    split
    · exact ⟨⟨0, Nat.zero_le _, rfl⟩, (by decide : (flUF ||| flNX).getLsbD 4 = false)⟩
    · have hflags : ∀ i t, (flagIf i flNX ||| flagIf (i && t) flUF).getLsbD 4 = false := by decide
      exact ⟨⟨n, by omega, rfl⟩, hflags inex tiny⟩

theorem roundF_bits_lt {f : FFmt} (hf : f.Shaped) (md : ℕ) (ftz : Bool) (v : FVal) : (roundF f md ftz v).1 < 2 ^ f.width := by
  cases v with
  | nan s =>
    refine (FFmt.nanBits_lt hf).trans_le (Nat.pow_le_pow_right two_pos ?_)
    rw [FFmt.width]; omega
  | inf s => exact f.signBit_add_lt s le_rfl
  | fin s m e =>
    obtain ⟨⟨n, hn, hr⟩, -⟩ := roundF_fin f md ftz s m e
    exact hr ▸ f.signBit_add_lt s hn

/-- Only a NaN gives the canonical NaN. -/
theorem roundF_eq_nanBits_iff {f : FFmt} (hf : f.Shaped) (md : ℕ) (ftz : Bool) (v : FVal) : (roundF f md ftz v).1 = f.nanBits ↔ v.isNan = true := by
  cases v with
  | nan s => exact iff_of_true rfl rfl
  | inf s => exact iff_of_false (FFmt.signBit_add_ne_nanBits hf s le_rfl) nofun
  | fin s m e =>
    obtain ⟨⟨n, hn, hr⟩, -⟩ := roundF_fin f md ftz s m e
    exact iff_of_false (hr ▸ FFmt.signBit_add_ne_nanBits hf s hn) nofun

theorem roundF_no_nv (f : FFmt) (md : ℕ) (ftz : Bool) (v : FVal) : (roundF f md ftz v).2.getLsbD 4 = false := by
  cases v with
  | nan s => exact (by decide : (0 : Flags).getLsbD 4 = false)
  | inf s => exact (by decide : (0 : Flags).getLsbD 4 = false)
  | fin s m e => exact (roundF_fin f md ftz s m e).2

/-- A NaN or an infinity rounds without a flag. -/
theorem roundF_flags_of_special (f : FFmt) (md : ℕ) (ftz : Bool) {v : FVal} (h : (v.isNan || v.isInf) = true) : (roundF f md ftz v).2 = 0 := by
  cases v with
  | nan s => rfl
  | inf s => rfl
  | fin s m e => cases h

/-- An exact result rounded, with the flags of both. -/
def FFmt.rounded (f : FFmt) (md : ℕ) (ftz : Bool) (r : FVal × Flags) : ℕ × Flags :=
  ((roundF f md ftz r.1).1, r.2 ||| (roundF f md ftz r.1).2)

theorem getLsbD_flagIf_nv (b : Bool) : (flagIf b flNV).getLsbD 4 = b := by cases b <;> rfl

section
variable {f : FFmt} (hf : f.Shaped) (md : ℕ) (ftz : Bool) {r : FVal × Flags} {nan nv inf neg : Bool} (h : FVal.Special r nan nv inf neg)
include h

include hf in
theorem FVal.Special.rounded_nan : nan = true ↔ (f.rounded md ftz r).1 = f.nanBits := by
  rw [FFmt.rounded, roundF_eq_nanBits_iff hf, h.isNan]

theorem FVal.Special.rounded_nv : (f.rounded md ftz r).2.getLsbD 4 = nv := by
  rw [FFmt.rounded, h.flags, BitVec.getLsbD_or, roundF_no_nv, Bool.or_false, getLsbD_flagIf_nv]

theorem FVal.Special.rounded_flags (hs : (nan || inf) = true) : (f.rounded md ftz r).2 = flagIf nv flNV := by
  have hspecial : (r.1.isNan || r.1.isInf) = true := by
    rw [h.isNan]
    cases hn : nan with
    | true => rfl
    | false => rw [h.isInf hn]; rwa [hn] at hs
  rw [FFmt.rounded, roundF_flags_of_special f md ftz hspecial, h.flags]
  exact BitVec.or_zero

theorem FVal.Special.rounded_inf (hn : nan = false) (hi : inf = true) : (f.rounded md ftz r).1 = f.signBit neg + f.infBits := by
  rw [FFmt.rounded, h.infinity hn hi]
  rfl

end

/-! ### Flags of several elements -/

theorem Flags.zero_or (a : Flags) : 0 ||| a = a := BitVec.zero_or
theorem Flags.or_zero (a : Flags) : a ||| 0 = a := BitVec.or_zero

theorem foldl_or_eq (a : Flags) (l : List Flags) : l.foldl (fun a b => a ||| b) a = a ||| orFlags l := by
  induction l generalizing a with
  | nil => exact (BitVec.or_zero).symm
  | cons b l ih => rw [orFlags, List.foldl_cons, List.foldl_cons, ih, ih, BitVec.or_assoc, Flags.zero_or]

@[simp] theorem orFlags_nil : orFlags [] = 0 := rfl

theorem orFlags_cons (a : Flags) (l : List Flags) : orFlags (a :: l) = a ||| orFlags l := by
  rw [orFlags, List.foldl_cons, foldl_or_eq, Flags.zero_or]

theorem orFlags_append (l k : List Flags) : orFlags (l ++ k) = orFlags l ||| orFlags k := by
  rw [orFlags, List.foldl_append, foldl_or_eq]
  rfl

theorem getLsbD_orFlags (l : List Flags) (k : ℕ) : (orFlags l).getLsbD k = l.any fun fl => fl.getLsbD k := by
  induction l with
  | nil => exact BitVec.getLsbD_zero
  | cons a l ih => rw [orFlags_cons, BitVec.getLsbD_or, ih, List.any_cons]

/-- Elements that raise NV or nothing raise NV or nothing together. -/
theorem orFlags_nv_or_zero {l : List Flags} (h : ∀ fl ∈ l, fl = 0 ∨ fl = flNV) : orFlags l = 0 ∨ orFlags l = flNV := by
  induction l with
  | nil => exact .inl rfl
  | cons a l ih =>
    rw [orFlags_cons]
    rcases h a List.mem_cons_self with ha | ha <;> rcases ih fun fl hfl => h fl (List.mem_cons_of_mem a hfl) with hl | hl <;> rw [ha, hl] <;> simp

/-! ### Packed elements -/

/-- A TYPE of the float instructions (R206). -/
def FloatTy (t : ℕ) : Prop := t = 8 ∨ t = 9 ∨ t = 10

theorem packEls_flags (w : ℕ) (l : List (ℕ × Flags)) : (packEls w l).2 = orFlags (l.map Prod.snd) := by
  induction l with
  | nil => rfl
  | cons a l ih =>
    rw [List.map_cons, orFlags_cons, ← ih]
    rfl

theorem floatEls_flags (t : ℕ) (g : ℕ → ℕ × Flags) : (floatEls t g).2 = orFlags ((List.range (neT t)).map fun j => (g j).2) := by
  show (packEls _ _).2 = _
  rw [packEls_flags, List.map_map]
  rfl

/-- One element of 32 bits, or two of 16. -/
theorem FloatTy.cases {t : ℕ} (ht : FloatTy t) : (neT t = 1 ∧ (fmtOf t).width = 32) ∨ (neT t = 2 ∧ (fmtOf t).width = 16) := by
  rcases ht with rfl | rfl | rfl <;> decide

section
variable {t : ℕ} (ht : FloatTy t) {g : ℕ → ℕ × Flags} (hg : ∀ j, (g j).1 < 2 ^ (fmtOf t).width)
include ht hg

theorem floatEls_sum : (floatEls t g).1 = BitVec.ofNat 64 (((List.range (neT t)).map fun j => (g j).1 * 2 ^ ((fmtOf t).width * j)).sum) := by
  show BitVec.ofNat 64 (packEls _ _).1 = _
  congr 1
  have h0 := hg 0
  have h1 := hg 1
  rcases ht.cases with ⟨hne, hw⟩ | ⟨hne, hw⟩ <;> rw [hw] at h0 h1 ⊢ <;>
    simp only [hne, packEls, List.range_succ, List.range_zero, List.nil_append, List.map_cons, List.map_nil, List.cons_append, List.sum_cons,
      List.sum_nil] <;> omega

theorem fbits_floatEls {j : ℕ} (hj : j < neT t) : fbits t (floatEls t g).1 j = (g j).1 := by
  rw [floatEls_sum ht hg, fbits, bitsN, BitVec.toNat_ofNat]
  have h0 := hg 0
  have h1 := hg 1
  rcases ht.cases with ⟨hne, hw⟩ | ⟨hne, hw⟩
  · obtain rfl : j = 0 := by omega
    rw [hw] at h0 ⊢
    simp only [hne, List.range_succ, List.range_zero, List.nil_append, List.map_cons, List.map_nil, List.sum_cons, List.sum_nil]
    omega
  · rw [hw] at h0 h1 ⊢
    simp only [hne, List.range_succ, List.range_zero, List.nil_append, List.map_cons, List.map_nil, List.cons_append, List.sum_cons, List.sum_nil]
    rw [hne] at hj
    interval_cases j <;> omega

end

end Sys2Proof.Machine
end


section
/-!
SUPPORT (O21, O22, O24). Float instructions that are met: their TYPEs, and what they leave in their destination.
-/
namespace Sys2Proof.Machine

/-! ### Legal forms -/

theorem AluReady.aluOf_eq {s : State} {w : Warp} {i : Instr} {x : LongOp} {op : Alu} (h : AluReady s w i x op) : aluOf i = some op := by
  obtain ⟨opc, -, ha, -⟩ := h
  exact ha

/-- The row of the encoding table lists the FN and FN2 of an instruction that is met. -/
theorem AluReady.row_ok {s : State} {w : Warp} {i : Instr} {x : LongOp} {op : Alu} {opc : BitVec 8} (h : AluReady s w i x op)
    (hl : i.long? = some (opc, x)) : (rowOf opc x.fn x.fn2).ok = true := by
  obtain ⟨opc', hl', -, ⟨-, hlong⟩, -⟩ := h
  obtain ⟨rfl, -⟩ := Prod.mk.inj (Option.some.inj (hl.symm.trans hl'))
  exact (longReason_none (State.longCheck_none hlong).2).2.1

theorem AluReady.yields {s : State} {w : Warp} {i : Instr} {x : LongOp} {op : Alu} (h : AluReady s w i x op) (hp : op.pdst = false) {wide : Bool}
    (hw : op.wide = wide) {z : ℕ → DWord} {fl : ℕ → Flags} (hz : ∀ u, op.result w x u = (z u, fl u)) :
    Yields i s w x.d (op.threads w x) wide z fl := by
  have hyields := aluWritesDestination i s w x op h hp
  have h1 : (fun u => (op.result w x u).1) = z := funext fun u => by rw [hz]
  have h2 : (fun u => (op.result w x u).2) = fl := funext fun u => by rw [hz]
  rwa [h1, h2, hw] at hyields

theorem fnRnd_le (fn : BitVec 8) : fnRnd fn ≤ 3 := by
  have := (fn.setWidth 2).isLt
  exact Nat.le_of_lt_succ this

/-- The element-wise instructions take a float TYPE. -/
theorem AluReady.floatTy {s : State} {w : Warp} {i : Instr} {x : LongOp} {op : Alu} (h : AluReady s w i x op)
    (hi : i = .fadd x ∨ i = .fsub x ∨ i = .fmul x ∨ i = .ffma x) : FloatTy (tyOf x.fn) := by
  have hrow : ((tyOf x.fn == 8 || tyOf x.fn == 9 || tyOf x.fn == 10) && !fnBit2 x.fn && x.fn2.toNat == 0) = true := by
    rcases hi with rfl | rfl | rfl | rfl
    · exact h.row_ok rfl
    · exact h.row_ok rfl
    · exact h.row_ok rfl
    · exact h.row_ok rfl
  simp only [Bool.and_eq_true, Bool.or_eq_true, beq_iff_eq] at hrow
  unfold FloatTy
  omega

theorem AluReady.fdot2_ty {s : State} {w : Warp} {x : LongOp} {op : Alu} (h : AluReady s w (.fdot2 x) x op) : tyOf x.fn = 9 ∨ tyOf x.fn = 10 := by
  have hrow : ((tyOf x.fn == 9 || tyOf x.fn == 10) && !fnBit2 x.fn && x.fn2.toNat == 0) = true := h.row_ok rfl
  simp only [Bool.and_eq_true, Bool.or_eq_true, beq_iff_eq] at hrow
  exact hrow.1.1

/-- The FP32 operand in the low word of a source. -/
theorem fel8_reads (ftz : Bool) (a : DWord) : fp32.Reads (fp32.asRead ftz a.lo.toNat) (fel 8 ftz a 0) := by
  have hlo : fbits 8 a 0 = a.lo.toNat := by
    show bitsN a.toNat 0 32 = _
    rw [bitsN_zero_left, DWord.lo, BitVec.toNat_setWidth]
  exact hlo ▸ fel_reads 8 ftz a 0

end Sys2Proof.Machine
end

section
/-!
SUPPORT (O21). NaNs, infinities and NV of the element-wise instructions and of FDOT2, by their operands' patterns.
-/
namespace Sys2Proof.Machine

/-- A value's attributes; its sign where it is an infinity. -/
structure FVal.Is (v : FVal) (nan snan inf neg : Bool) : Prop where
  isNan : v.isNan = nan
  isSnan : v.isSnan = snan
  isInf : v.isInf = inf
  sign : inf = true → v.sign = neg

theorem FVal.isInf_of_isNan {v : FVal} (h : v.isNan = true) : v.isInf = false := by cases v <;> first | rfl | cases h

theorem FFmt.isNan_of_isInf {f : FFmt} {b : ℕ} (h : f.isInf b = true) : f.isNan b = false := by
  simp only [FFmt.isInf, FFmt.isNan, beq_iff_eq, decide_eq_false_iff_not] at *
  omega

theorem FFmt.Reads.is {f : FFmt} {b : ℕ} {v : FVal} (h : f.Reads b v) : v.Is (f.isNan b) (f.isSnan b) (f.isInf b) (f.neg b) :=
  ⟨h.isNan, h.isSnan, h.isInf, fun hi => h.sign (FFmt.isNan_of_isInf hi)⟩

theorem FVal.Is.negate {v : FVal} {nan snan inf neg : Bool} (h : v.Is nan snan inf neg) : v.negate.Is nan snan inf (!neg) := by
  refine ⟨by rw [FVal.isNan_negate, h.isNan], by rw [FVal.isSnan_negate, h.isSnan], by rw [FVal.isInf_negate, h.isInf], fun hi => ?_⟩
  have hnan : v.isNan = false := by
    by_contra hne
    have := FVal.isInf_of_isNan (Bool.eq_true_of_not_eq_false hne)
    rw [h.isInf, hi] at this
    cases this
  rw [FVal.sign_negate hnan, h.sign hi]

theorem FVal.Special.is {r : FVal × Flags} {nan nv inf neg : Bool} (h : FVal.Special r nan nv inf neg) : r.1.Is nan false (inf && !nan) neg := by
  cases hn : nan with
  | true => exact ⟨hn ▸ h.isNan, h.isSnan, by rw [FVal.isInf_of_isNan (h.isNan.trans hn)]; simp, by simp⟩
  | false =>
    refine ⟨hn ▸ h.isNan, h.isSnan, by rw [h.isInf hn]; simp, fun hi => ?_⟩
    rw [h.infinity hn (by simpa using hi)]
    rfl

section
variable {x y : FVal} {nx sx ix gx ny sy iy gy : Bool} (hx : x.Is nx sx ix gx) (hy : y.Is ny sy iy gy)
include hx hy

theorem FVal.opposite_eq : x.opposite y = (ix && iy && gx != gy) := by
  rw [FVal.opposite, hx.isInf, hy.isInf]
  cases hi : ix with
  | false => rfl
  | true =>
    cases hj : iy with
    | false => rfl
    | true => rw [hx.sign hi, hy.sign hj]

theorem addF_special_of (md : ℕ) : FVal.Special (addF md x y) (nx || ny || (ix && iy && gx != gy)) (sx || sy || (ix && iy && gx != gy))
    (ix || iy) (if ix then gx else gy) := by
  have h := addF_special md x y
  rw [FVal.opposite_eq hx hy, hx.isNan, hy.isNan, hx.isSnan, hy.isSnan, hx.isInf, hy.isInf] at h
  refine ⟨h.flags, h.isNan, h.isSnan, h.isInf, fun hn hi => ?_⟩
  rw [h.infinity hn hi]
  congr 1
  cases hix : ix with
  | true => exact hx.sign hix
  | false => exact hy.sign (by simpa [hix] using hi)

end

/-- A product by its operands' patterns. -/
theorem mulF_special_of {f g : FFmt} {a b : ℕ} {x y : FVal} (hx : f.Reads a x) (hy : g.Reads b y) :
    FVal.Special (mulF x y) (f.isNan a || g.isNan b || ((f.isInf a && g.mag b == 0) || (f.mag a == 0 && g.isInf b)))
      (f.isSnan a || g.isSnan b || ((f.isInf a && g.mag b == 0) || (f.mag a == 0 && g.isInf b))) (f.isInf a || g.isInf b)
      (f.neg a != g.neg b) := by
  have h := mulF_special x y
  rw [FVal.infZero, hx.isNan, hy.isNan, hx.isSnan, hy.isSnan, hx.isInf, hy.isInf, hx.isZero, hy.isZero] at h
  refine ⟨h.flags, h.isNan, h.isSnan, h.isInf, fun hn hi => ?_⟩
  rw [h.infinity hn hi]
  simp only [Bool.or_eq_false_iff] at hn
  rw [hx.sign hn.1.1, hy.sign hn.1.2]

/-- A product and sum. -/
theorem fmaF_special_of {md : ℕ} {x y z : FVal} {np vp ip gp nz sz iz gz : Bool} (hp : FVal.Special (mulF x y) np vp ip gp)
    (hz : z.Is nz sz iz gz) :
    FVal.Special (fmaF md x y z) (np || nz || ((ip && !np) && iz && gp != gz)) (vp || sz || ((ip && !np) && iz && gp != gz))
      ((ip && !np) || iz) (if ip && !np then gp else gz) := by
  have h := addF_special_of hp.is hz md
  rw [Bool.false_or] at h
  refine ⟨?_, h.isNan, h.isSnan, h.isInf, h.infinity⟩
  show (mulF x y).2 ||| (addF md (mulF x y).1 z).2 = _
  rw [hp.flags, h.flags]
  have hor : ∀ a b, flagIf a flNV ||| flagIf b flNV = flagIf (a || b) flNV := by decide
  rw [hor, Bool.or_assoc]

/-- What the statement says of the elements of one operation: NaNs, NV and infinities. -/
theorem floatEls_rules {t : ℕ} (ht : FloatTy t) (md : ℕ) (ftz : Bool) {r : ℕ → FVal × Flags} {nan nv inf neg : ℕ → Bool}
    (h : ∀ j, FVal.Special (r j) (nan j) (nv j) (inf j) (neg j)) :
    let q := floatEls t fun j => (fmtOf t).rounded md ftz (r j)
    (q.2.getLsbD 4 = true ↔ ∃ j, j < neT t ∧ nv j = true) ∧ ((∀ j, j < neT t → (nan j || inf j) = true) → q.2 = 0 ∨ q.2 = flNV) ∧
      ∀ j, j < neT t → (nan j = true ↔ fbits t q.1 j = (fmtOf t).nanBits) ∧
        (nan j = false → inf j = true → fbits t q.1 j = (fmtOf t).signBit (neg j) + (fmtOf t).infBits) := by
  have hf := fmtOf_shaped t
  have hlt : ∀ j, ((fmtOf t).rounded md ftz (r j)).1 < 2 ^ (fmtOf t).width := fun j => roundF_bits_lt hf md ftz _
  dsimp only
  rw [floatEls_flags]
  refine ⟨?_, fun hs => ?_, fun j hj => ?_⟩
  · rw [getLsbD_orFlags]
    simp only [List.any_map, List.any_eq_true, List.mem_range, Function.comp_apply, (h _).rounded_nv]
  · refine orFlags_nv_or_zero fun fl hfl => ?_
    obtain ⟨j, hj, rfl⟩ := List.mem_map.mp hfl
    rw [(h j).rounded_flags md ftz (hs j (List.mem_range.mp hj))]
    cases nv j
    · exact .inl rfl
    · exact .inr rfl
  · rw [fbits_floatEls ht hlt hj]
    exact ⟨(h j).rounded_nan hf md ftz, (h j).rounded_inf md ftz⟩

end Sys2Proof.Machine
end


section
/-!
SUPPORT (O21). The three terms of FDOT2 (R208).
-/
namespace Sys2Proof.Machine

theorem FVal.Is.beq_inf {v : FVal} {nan snan inf neg : Bool} (h : v.Is nan snan inf neg) (sg : Bool) : (FVal.inf sg == v) = (inf && neg == sg) := by
  cases v with
  | nan s => rw [← h.isInf]; rfl
  | inf s =>
    obtain rfl : inf = true := h.isInf.symm
    rw [← h.sign rfl]
    cases s <;> cases sg <;> rfl
  | fin s m e => rw [← h.isInf]; rfl

/-- Whether one of three terms is the infinity of a sign. -/
def hasInf (i0 g0 i1 g1 ic gc sg : Bool) : Bool := (i0 && g0 == sg) || (i1 && g1 == sg) || (ic && gc == sg)

theorem opposed_eq {p m c : FVal} {np sp ip gp nm sm im gm nc sc ic gc : Bool} (hp : p.Is np sp ip gp) (hm : m.Is nm sm im gm)
    (hc : c.Is nc sc ic gc) : opposed [p, m, c] = (hasInf ip gp im gm ic gc true && hasInf ip gp im gm ic gc false) := by
  unfold opposed hasInf
  simp only [List.contains_cons, List.contains_nil, Bool.or_false, hp.beq_inf, hm.beq_inf, hc.beq_inf]
  simp only [Bool.or_assoc, Bool.and_comm]

/-- Adding two of the terms and then the third finds infinities of opposite sign just where the terms hold some, unless a NaN stands before. -/
theorem hasInf_sum : ∀ np ip gp nm im gm nc ic gc : Bool, (np && ip) = false → (nm && im) = false →
    let both := hasInf ip gp im gm ic gc true && hasInf ip gp im gm ic gc false
    let opp := im && ip && gm != gp
    let nan := nm || np || opp
    let inf := (im || ip) && !nan
    let neg := if im then gm else gp
    let opp' := inf && ic && neg != gc
    (nan || nc || opp') = (np || nm || nc || both) ∧ (opp || opp' || both) = both ∧
      ((np || nm || nc || both) = false →
        (inf || ic) = (hasInf ip gp im gm ic gc true || hasInf ip gp im gm ic gc false) ∧
          ((inf || ic) = true → (if inf then neg else gc) = hasInf ip gp im gm ic gc true)) := by
  decide

/-- What FDOT2 rounds: a NaN, NV and infinities by its terms. -/
theorem dot_special {md : ℕ} {a0 b0 a1 b1 c : FVal} {np vp ip gp nm vm im gm nc sc ic gc : Bool} (hp : FVal.Special (mulF a0 b0) np vp ip gp)
    (hm : FVal.Special (mulF a1 b1) nm vm im gm) (hc : c.Is nc sc ic gc) {tp tm : Bool} (htp : tp = (ip && !np))
    (htm : tm = (im && !nm)) :
    let p := mulF a0 b0
    let q := fmaF md a1 b1 p.1
    let r := addF md q.1 c
    let has := hasInf tp gp tm gm ic gc
    FVal.Special (r.1, p.2 ||| q.2 ||| r.2 ||| flagIf (opposed [p.1, (mulF a1 b1).1, c]) flNV) (np || nm || nc || (has true && has false))
      (vp || vm || sc || (has true && has false)) (has true || has false) (has true) := by
  subst htp htm
  intro p q r has
  have hq := fmaF_special_of (md := md) hm hp.is
  have hr := addF_special_of hq.is hc md
  have hop : opposed [p.1, (mulF a1 b1).1, c] = (has true && has false) := opposed_eq hp.is hm.is hc
  have hnot : ∀ n i : Bool, (n && (i && !n)) = false := by decide
  obtain ⟨hnan, hnv, hinf⟩ := hasInf_sum np (ip && !np) gp nm (im && !nm) gm nc ic gc (hnot np ip) (hnot nm im)
  refine ⟨?_, hr.isNan.trans hnan, hr.isSnan, fun hn => ?_, fun hn hi => ?_⟩
  · show p.2 ||| q.2 ||| r.2 ||| _ = _
    have hor : ∀ a b, flagIf a flNV ||| flagIf b flNV = flagIf (a || b) flNV := by decide
    rw [hp.flags, hq.flags, hr.flags, hop, hor, hor, hor]
    congr 1
    rw [← hnv]
    ac_rfl
  · rw [← (hinf hn).1]
    exact hr.isInf (hnan.trans hn)
  · have hi' := (hinf hn).1.trans hi
    exact (hr.infinity (hnan.trans hn) hi').trans (congrArg FVal.inf ((hinf hn).2 hi'))

end Sys2Proof.Machine
end


section
/-!
SETTLED. The NaN results, infinities and NV of the float arithmetic (O21).
-/
namespace Sys2Proof.Machine

/-- Where an operation's special results are put in other words. -/
theorem FVal.Special.congr {r : FVal × Flags} {nan nv inf neg nan' nv' inf' neg' : Bool} (h : FVal.Special r nan nv inf neg) (hnan : nan' = nan)
    (hnv : nv' = nv) (hinf : inf' = inf) (hneg : neg' = neg) : FVal.Special r nan' nv' inf' neg' := by
  rwa [hnan, hnv, hinf, hneg]

/-- An element of a source of its TYPE, under `.ftz`. -/
theorem srcEl_reads (w : Warp) (x : LongOp) (sel : Sel) (u j : ℕ) : (fmtOf (tyOf x.fn)).Reads
    ((fmtOf (tyOf x.fn)).asRead (fnBit3 x.fn) (fbits (tyOf x.fn) (w.src x.lit (srcF (tyOf x.fn)) sel u) j))
    (fel (tyOf x.fn) (fnBit3 x.fn) (w.src x.lit (srcF (tyOf x.fn)) sel u) j) := fel_reads ..

/-- The sign of an FADD's second operand, and of an FSUB's. -/
theorem fadd_beq (x : LongOp) (b : Bool) : (b == (Instr.fadd x == Instr.fadd x)) = b := by rw [beq_self_eq_true, beq_true]
theorem fsub_beq (x : LongOp) (b : Bool) : (b == (Instr.fsub x == Instr.fadd x)) = !b := by
  rw [beq_eq_false_iff_ne.mpr (by nofun : Instr.fsub x ≠ Instr.fadd x), beq_false]

theorem FVal.Is.of_neg {v : FVal} {nan snan inf neg neg' : Bool} (h : v.Is nan snan inf neg) (hneg : neg' = neg) : v.Is nan snan inf neg' :=
  hneg ▸ h

theorem inf_not_nan : ∀ i n z : Bool, (i && !n && !z) = (i && !(n || z)) := by decide

/-- A fused product and sum is a NaN, or raises NV, in the order in which the statement lists the causes: of operands `s`, of the addend `c` and
of zero times infinity `z`, then of opposite infinities. -/
theorem fma_causes : ∀ n s c z i ic opp : Bool, (s || c || z || (i && !n && !z && ic && opp)) = (s || z || c || (i && !(n || z) && ic && opp)) := by
  decide

/-- FDOT2's result and flags in the statement's words, `ht` and `hf` telling whether a term is a negative or a positive infinity. -/
theorem fp32_rules (md : ℕ) (ftz : Bool) {r : FVal × Flags} {nan nv ht hf : Bool} (h : FVal.Special r nan nv (ht || hf) ht)
    (hboth : (ht && hf) = true → nan = true) :
    let q := fp32.rounded md ftz r
    (q.2.getLsbD 4 = true ↔ nv = true) ∧ (nan = true ↔ BitVec.ofNat 64 q.1 = (0x7FC00000 : DWord)) ∧
      ((nan || ht || hf) = true → q.2 = 0 ∨ q.2 = flNV) ∧ (nan = false → ht = true → BitVec.ofNat 64 q.1 = (0xFF800000 : DWord)) ∧
      (nan = false → hf = true → BitVec.ofNat 64 q.1 = (0x7F800000 : DWord)) := by
  intro q
  have hlt : q.1 < 2 ^ 32 := roundF_bits_lt fp32_shaped md ftz _
  have hnan : BitVec.ofNat 64 q.1 = (0x7FC00000 : DWord) ↔ q.1 = fp32.nanBits := by
    rw [← BitVec.toNat_inj, BitVec.toNat_ofNat, Nat.mod_eq_of_lt (by omega)]
    exact Iff.rfl
  refine ⟨by rw [h.rounded_nv], by rw [hnan, h.rounded_nan fp32_shaped md ftz], fun hs => ?_, fun hn ht' => ?_, fun hn hf' => ?_⟩
  · rw [h.rounded_flags md ftz (by rwa [← Bool.or_assoc])]
    cases nv
    · exact .inl rfl
    · exact .inr rfl
  · rw [h.rounded_inf md ftz hn (by simp [ht']), ht']
    rfl
  · have htf : ht = false := by
      by_contra hne
      have := hboth (by simp [hf', hne])
      simp [hn] at this
    rw [h.rounded_inf md ftz hn (by simp [hf']), htf]
    rfl

/-- FDOT2 is a NaN, or raises NV, in the order in which the statement lists the causes of its two products and its addend. -/
theorem dot_nan_causes : ∀ n0 n1 c z0 z1 h : Bool, (n0 || n1 || c || (z0 || z1 || h)) = (n0 || z0 || (n1 || z1) || c || h) := by decide
theorem dot_nan_of_both : ∀ n0 n1 c z0 z1 h : Bool, h = true → (n0 || n1 || c || (z0 || z1 || h)) = true := by decide
theorem dot_nv_causes : ∀ a0 b0 a1 b1 c z0 z1 h : Bool,
    (a0 || b0 || a1 || b1 || c || (z0 || z1 || h)) = (a0 || b0 || z0 || (a1 || b1 || z1) || c || h) := by decide

/-- What an FDOT2 answers, in the order of the exact result's flags. -/
theorem fdot2_result (x : LongOp) (a b c : DWord) :
    let t := tyOf x.fn
    let ftz := fnBit3 x.fn
    let p := mulF (fel t ftz a 0) (fel t ftz b 0)
    let q := fmaF (fnRnd x.fn) (fel t ftz a 1) (fel t ftz b 1) p.1
    let r := addF (fnRnd x.fn) q.1 (fel 8 ftz c 0)
    let z := fp32.rounded (fnRnd x.fn) ftz (r.1, p.2 ||| q.2 ||| r.2 ||| flagIf (opposed [p.1, (mulF (fel t ftz a 1) (fel t ftz b 1)).1, fel 8 ftz c 0]) flNV)
    (aluFdot2 x).f a b c = (BitVec.ofNat 64 z.1, z.2) := by
  refine Prod.ext rfl ?_
  show _ ||| _ ||| _ ||| _ ||| _ = _ ||| _ ||| _ ||| _ ||| _
  rw [BitVec.or_assoc, BitVec.or_comm (roundF _ _ _ _).2, ← BitVec.or_assoc]

/-- Settles O21: an element rounds an exact result whose NaN, NV and infinity its operands decide, and FDOT2 adds up three terms. -/
theorem floatInvalid : Obligations.FloatInvalid := by
  refine ⟨fun i s w x op h => ⟨fun hi u => ?addSub, fun hi u => ?mul, fun hi u => ?fma⟩, fun s w x op h u => ?dot⟩
  case addSub =>
    have hty := h.floatTy (hi.elim .inl fun hi => .inr (.inl hi))
    rcases hi with rfl | rfl <;> obtain rfl := Option.some.inj h.aluOf_eq
    · exact floatEls_rules hty _ _ fun j => addF_special_of (srcEl_reads w x x.a u j).is ((srcEl_reads w x x.b u j).is.of_neg (fadd_beq x _)) _
    · exact floatEls_rules hty _ _ fun j =>
        addF_special_of (srcEl_reads w x x.a u j).is ((srcEl_reads w x x.b u j).is.negate.of_neg (fsub_beq x _)) _
  case mul =>
    subst hi
    have hty := h.floatTy (.inr (.inr (.inl rfl)))
    obtain rfl := Option.some.inj h.aluOf_eq
    exact floatEls_rules hty _ _ fun j => mulF_special_of (srcEl_reads w x x.a u j) (srcEl_reads w x x.b u j)
  case fma =>
    subst hi
    have hty := h.floatTy (.inr (.inr (.inr rfl)))
    obtain rfl := Option.some.inj h.aluOf_eq
    have hfma := fun j => fmaF_special_of (md := fnRnd x.fn) (mulF_special_of (srcEl_reads w x x.a u j) (srcEl_reads w x x.b u j))
      (srcEl_reads w x x.c u j).is
    exact floatEls_rules hty _ _ fun j =>
      (hfma j).congr (fma_causes ..) (fma_causes ..) (congrArg (· || _) (inf_not_nan ..)) (congrArg (fun c : Bool => if c then _ else _) (inf_not_nan ..))
  case dot =>
    obtain rfl := Option.some.inj h.aluOf_eq
    have hprod := fun j => mulF_special_of (srcEl_reads w x x.a u j) (srcEl_reads w x x.b u j)
    have hdot := dot_special (md := fnRnd x.fn) (hprod 0) (hprod 1) (fel8_reads (fnBit3 x.fn) (w.src x.lit .f32 x.c u)).is (inf_not_nan ..)
      (inf_not_nan ..)
    have hres : (aluFdot2 x).result w x u = _ := fdot2_result x _ _ _
    dsimp only
    rw [hres]
    exact fp32_rules _ _ (hdot.congr (dot_nan_causes ..) (dot_nv_causes ..) rfl rfl) (dot_nan_of_both _ _ _ _ _ _)

end Sys2Proof.Machine
end


section
/-!
SUPPORT (O22). Sticky bits (R222): a value that lies strictly between two multiples of a step finer than the format is rounded as their middle is.
-/
namespace Sys2Proof.Machine

/-! ### Values on one side of a threshold -/

/-- Two values on one side of a third. -/
def SameSide (c x y : ℚ) : Prop := (c < x ∧ c < y) ∨ (x < c ∧ y < c)

section
variable {c lo hi x y : ℚ}

theorem SameSide.lt_iff (h : SameSide c x y) : c < x ↔ c < y := by
  rcases h with ⟨h1, h2⟩ | ⟨h1, h2⟩
  · exact iff_of_true h1 h2
  · exact iff_of_false h1.not_gt h2.not_gt

theorem SameSide.ne (h : SameSide c x y) : c ≠ x ∧ c ≠ y := by
  rcases h with ⟨h1, h2⟩ | ⟨h1, h2⟩
  · exact ⟨h1.ne, h2.ne⟩
  · exact ⟨h1.ne', h2.ne'⟩

theorem SameSide.le_iff (h : SameSide c x y) : c ≤ x ↔ c ≤ y := by
  rw [le_iff_lt_or_eq, le_iff_lt_or_eq, h.lt_iff, or_iff_left h.ne.1, or_iff_left h.ne.2]

theorem SameSide.double (h : SameSide (c / 2) x y) : SameSide c (2 * x) (2 * y) := by
  rcases h with ⟨h1, h2⟩ | ⟨h1, h2⟩
  · exact .inl ⟨by linarith, by linarith⟩
  · exact .inr ⟨by linarith, by linarith⟩

/-- Values on one side of two neighbours and of their middle go past alike. -/
theorem goesPast_congr {md : ℕ} {neg : Bool} {j : ℕ} (hlo : SameSide lo x y) (hhi : SameSide hi x y) (hmid : SameSide ((lo + hi) / 2) x y) :
    GoesPast md neg j lo hi x ↔ GoesPast md neg j lo hi y := by
  have h2 := hmid.double
  simp only [GoesPast, h2.lt_iff, h2.ne.1, h2.ne.2, hlo.lt_iff, hhi.le_iff]

end

/-! ### Between two multiples of a fine step -/

/-- A number of few bits times a power of two does not lie strictly between two neighbouring multiples of another, which are of more bits. -/
theorem small_mul_zpow_outside {b c q : ℕ} (hc : c ≤ 2 ^ b) (hq : 2 ^ b ≤ q) (i d : ℤ) :
    (c : ℚ) * 2 ^ i ≤ q * 2 ^ d ∨ (q + 1) * 2 ^ d ≤ (c : ℚ) * 2 ^ i := by
  have hd : (0 : ℚ) < 2 ^ d := by positivity
  rcases le_or_gt i d with hid | hid
  · left
    have hpow : (2 : ℚ) ^ i ≤ 2 ^ d := zpow_le_zpow_right₀ (by norm_num) hid
    have hcq : (c : ℚ) ≤ q := by exact_mod_cast hc.trans hq
    exact mul_le_mul hcq hpow (by positivity) (by positivity)
  · obtain ⟨r, hr⟩ : ∃ r : ℕ, i = r + d := ⟨(i - d).toNat, by omega⟩
    have hval : (c : ℚ) * 2 ^ i = ((c * 2 ^ r : ℕ) : ℚ) * 2 ^ d := by
      rw [hr, zpow_add₀ two_ne_zero, zpow_natCast]; push_cast; ring
    rw [hval]
    rcases Nat.lt_or_ge q (c * 2 ^ r) with h | h
    · right
      gcongr
      exact_mod_cast h
    · left
      gcongr

/-- Two values strictly between such multiples are on one side of it. -/
theorem sameSide_of_between {b c q : ℕ} (hc : c ≤ 2 ^ b) (hq : 2 ^ b ≤ q) (i : ℤ) {d : ℤ} {x y : ℚ} (hx0 : q * 2 ^ d < x) (hx1 : x < (q + 1) * 2 ^ d)
    (hy0 : q * 2 ^ d < y) (hy1 : y < (q + 1) * 2 ^ d) : SameSide (c * 2 ^ i) x y := by
  rcases small_mul_zpow_outside hc hq i d with h | h
  · exact .inl ⟨h.trans_lt hx0, h.trans_lt hy0⟩
  · exact .inr ⟨hx1.trans_le h, hy1.trans_le h⟩

section
variable {f : FFmt}

/-- A magnitude, and the middle between it and the next, as numbers of few bits. -/
theorem FFmt.scale_eq_small (f : FFmt) (j : ℕ) : ∃ c : ℕ, c ≤ 2 ^ (f.mb + 2) ∧ ∃ i : ℤ, f.scale j = c * 2 ^ i := by
  obtain ⟨E, k, rfl, hlow, hk⟩ := f.exists_block j
  exact ⟨k, by rw [pow_succ]; omega, E, by rw [f.scale_block hlow hk.le, zpow_natCast]⟩

theorem FFmt.mid_eq_small (f : FFmt) (j : ℕ) : ∃ c : ℕ, c ≤ 2 ^ (f.mb + 2) ∧ ∃ i : ℤ, (f.scale j + f.scale (j + 1)) / 2 = c * 2 ^ i := by
  obtain ⟨E, k, rfl, hlow, hk⟩ := f.exists_block j
  refine ⟨2 * k + 1, by rw [pow_succ]; omega, E - 1, ?_⟩
  rw [Nat.add_assoc, f.scale_block hlow hk.le, f.scale_block (hlow.imp_right Nat.le_succ_of_le) hk, zpow_sub_one₀ two_ne_zero, zpow_natCast]
  push_cast
  ring

theorem FFmt.RoundsMag.of_between {ftz : Bool} {md : ℕ} {neg : Bool} {x y : ℚ} {q : ℕ} {d : ℤ} {r : ℕ × Flags} (h : f.RoundsMag ftz md neg y r)
    (hq : 2 ^ (f.mb + 2) ≤ q) (hx0 : q * 2 ^ d < x) (hx1 : x < (q + 1) * 2 ^ d) (hy0 : q * 2 ^ d < y) (hy1 : y < (q + 1) * 2 ^ d) :
    f.RoundsMag ftz md neg x r := by
  have hside : ∀ {c : ℕ}, c ≤ 2 ^ (f.mb + 2) → ∀ i : ℤ, SameSide (c * 2 ^ i) y x := fun hc i => sameSide_of_between hc hq i hy0 hy1 hx0 hx1
  have hscale : ∀ j, SameSide (f.scale j) y x := fun j => by
    obtain ⟨c, hc, i, hj⟩ := f.scale_eq_small j
    exact hj ▸ hside hc i
  have hmid : ∀ j, SameSide ((f.scale j + f.scale (j + 1)) / 2) y x := fun j => by
    obtain ⟨c, hc, i, hj⟩ := f.mid_eq_small j
    exact hj ▸ hside hc i
  refine h.congr (fun j => goesPast_congr (hscale j) (hscale _) (hmid j)) ?_ fun n => iff_of_false (hscale n).ne.1 (hscale n).ne.2
  have hpow : 2 ^ (f.mb + 2) = 2 * 2 ^ (f.mb + 1) := pow_succ' 2 (f.mb + 1)
  have hpos := Nat.one_le_two_pow (n := f.mb + 1)
  have hhalf : ∀ {c : ℕ}, c ≤ 2 ^ (f.mb + 2) → SameSide c (2 * y) (2 * x) := fun {c} hc => SameSide.double (by
    have := hside hc (-1)
    rwa [zpow_neg_one, ← div_eq_mul_inv] at this)
  have hquarter : ∀ {c : ℕ}, c ≤ 2 ^ (f.mb + 2) → SameSide ((c : ℚ) / 2) (2 * y) (2 * x) := fun {c} hc => SameSide.double (by
    have := hside hc (-2)
    rwa [show (2 : ℚ) ^ (-2 : ℤ) = 2⁻¹ * 2⁻¹ by norm_num, ← mul_assoc, ← div_eq_mul_inv, ← div_eq_mul_inv] at this)
  unfold FFmt.TinyAt
  rw [hpow] at hhalf hquarter
  generalize 2 ^ (f.mb + 1) = N at *
  refine not_congr (goesPast_congr (hhalf (c := N - 1) (by omega)) (hhalf (c := N - 1 + 1) (by omega)) ?_)
  have hsum := hquarter (c := N - 1 + (N - 1 + 1)) (by omega)
  rwa [Nat.cast_add] at hsum

/-- The middle of two multiples lies strictly between them. -/
theorem sticky_between (q : ℕ) (d : ℤ) : (q : ℚ) * 2 ^ d < (2 * q + 1 : ℕ) * 2 ^ (d - 1) ∧ ((2 * q + 1 : ℕ) : ℚ) * 2 ^ (d - 1) < (q + 1) * 2 ^ d := by
  have hd : (0 : ℚ) < 2 ^ d := by positivity
  have hval : ((2 * q + 1 : ℕ) : ℚ) * 2 ^ (d - 1) = q * 2 ^ d + 2 ^ d / 2 := by
    rw [zpow_sub_one₀ two_ne_zero]; push_cast; ring
  rw [hval]
  constructor <;> linarith

theorem sticky_exact (q : ℕ) (d : ℤ) : ((2 * q + 0 : ℕ) : ℚ) * 2 ^ (d - 1) = q * 2 ^ d := by
  rw [zpow_sub_one₀ two_ne_zero]; push_cast; ring

/-- A value of which the leading bits and a sticky bit are rounded, in units. -/
theorem roundF_sticky (hf : f.Shaped) {md : ℕ} (hmd : md ≤ 3) (ftz neg : Bool) {q : ℕ} (hq : 2 ^ (f.mb + 2) ≤ q) (d : ℤ) {x : ℚ} {exact : Bool}
    (hexact : exact = true → x * f.unit = q * 2 ^ d) (hbetween : exact = false → q * 2 ^ d < x * f.unit ∧ x * f.unit < (q + 1) * 2 ^ d) :
    f.RoundsMag ftz md neg x (roundF f md ftz (.fin neg (2 * q + if exact then 0 else 1) (d - 1))) := by
  have hu := f.unit_pos
  have hpos : 0 < q := (Nat.two_pow_pos _).trans_le hq
  have hr := roundF_roundsMag (f := f) (md := md) (ftz := ftz) (neg := neg) (m := 2 * q + if exact then 0 else 1) (e := d - 1) (by omega) hf hmd
  cases he : exact with
  | true =>
    rw [he, if_pos rfl, sticky_exact, ← hexact he, mul_div_cancel_right₀ _ hu.ne'] at hr
    rwa [if_pos rfl]
  | false =>
    rw [he, if_neg Bool.false_ne_true] at hr
    rw [if_neg Bool.false_ne_true]
    obtain ⟨h0, h1⟩ := hbetween he
    obtain ⟨g0, g1⟩ := sticky_between q d
    have hunit : ∀ a : ℚ, a * 2 ^ d / f.unit = a * 2 ^ (d + f.lsb) := fun a => by rw [mul_div_assoc, f.two_zpow_div_unit]
    refine hr.of_between (d := d + f.lsb) hq ?_ ?_ ?_ ?_
    · rw [← hunit, div_lt_iff₀ hu]; exact h0
    · rw [← hunit, lt_div_iff₀ hu]; exact h1
    · rw [← hunit, div_lt_div_iff_of_pos_right hu]; exact g0
    · rw [← hunit, div_lt_div_iff_of_pos_right hu]; exact g1

end

end Sys2Proof.Machine
end


section
/-!
SUPPORT (O22, O28). Finite operands: the exact results of sums, products and fused products, and their rounding (R158, R160, R207, R208).
-/
namespace Sys2Proof.Machine

/-- A finite result with its sign and its value. -/
def FVal.Finite (v : FVal) (neg : Bool) (r : ℚ) : Prop := ∃ m e, v = .fin neg m e ∧ FVal.rat (.fin neg m e) = r

theorem FFmt.Reads.finite {f : FFmt} {b : ℕ} {v : FVal} (h : f.Reads b v) (hb : f.finite b = true) : v.Finite (f.neg b) (f.units b * f.unit) := h.fin hb

section
variable {md : ℕ} {x y z : FVal} {s t u : Bool} {a b c : ℚ}

theorem FVal.Finite.negate (h : x.Finite s a) : x.negate.Finite (!s) (-a) := by
  obtain ⟨m, e, rfl, rfl⟩ := h
  exact ⟨m, e, rfl, FVal.rat_negate (.fin s m e)⟩

theorem FVal.Finite.is (h : x.Finite s a) : x.Is false false false s := by
  obtain ⟨m, e, rfl, -⟩ := h
  exact ⟨rfl, rfl, rfl, nofun⟩

theorem addF_finite (hx : x.Finite s a) (hy : y.Finite t b) :
    (addF md x y).2 = 0 ∧ ∃ u, (addF md x y).1.Finite u (a + b) ∧ (a + b = 0 → u = zeroSign md s t) := by
  obtain ⟨m, e, rfl, rfl⟩ := hx
  obtain ⟨n, g, rfl, rfl⟩ := hy
  obtain ⟨u, k, i, hadd, hval⟩ := addF_fin md s t m n e g
  exact ⟨(addF_fin_flags md s t m n e g false).flags, u, ⟨k, i, hadd, hval⟩, addF_zero_sign md s t m n e g hadd⟩

theorem mulF_finite (hx : x.Finite s a) (hy : y.Finite t b) : (mulF x y).2 = 0 ∧ (mulF x y).1.Finite (s != t) (a * b) := by
  obtain ⟨m, e, rfl, rfl⟩ := hx
  obtain ⟨n, g, rfl, rfl⟩ := hy
  exact ⟨rfl, _, _, (mulF_fin s t m n e g).1, (mulF_fin s t m n e g).2⟩

theorem fmaF_finite (hx : x.Finite s a) (hy : y.Finite t b) (hz : z.Finite u c) :
    (fmaF md x y z).2 = 0 ∧ ∃ v, (fmaF md x y z).1.Finite v (a * b + c) ∧ (a * b + c = 0 → v = zeroSign md (s != t) u) := by
  obtain ⟨hflags, hmul⟩ := mulF_finite hx hy
  obtain ⟨hflags', hadd⟩ := addF_finite (md := md) hmul hz
  refine ⟨?_, hadd⟩
  show (mulF x y).2 ||| (addF md (mulF x y).1 z).2 = 0
  rw [hflags, hflags']
  rfl

end

/-- An exact result without flags, rounded. -/
theorem FFmt.rounded_rounds {f : FFmt} (hf : f.Shaped) {md : ℕ} (hmd : md ≤ 3) (ftz : Bool) {r : FVal × Flags} {u neg0 : Bool} {v : ℚ}
    (hr : r.1.Finite u v) (hflags : r.2 = 0) {z : ℤ} {q : ℕ} (hq : 0 < q) (hv : v * q = z * f.unit) (hsign : v = 0 → u = neg0) :
    Rounds f ftz md z q neg0 (f.rounded md ftz r).1 (f.rounded md ftz r).2 := by
  obtain ⟨m, e, hr1, rfl⟩ := hr
  have hzero : z = 0 → FVal.rat (.fin u m e) = 0 := fun hz => by
    rw [hz, Int.cast_zero, zero_mul] at hv
    exact (mul_eq_zero.mp hv).resolve_right (by positivity)
  rw [FFmt.rounded, hflags, hr1, Flags.zero_or]
  exact roundF_rounds hf hmd hq hv fun hz => hsign (hzero hz)

/-- 2^lsb units make one. -/
theorem FFmt.unit_mul_two_pow (f : FFmt) : f.unit * 2 ^ f.lsb = 1 := by
  rw [FFmt.unit, ← zpow_natCast, ← zpow_add₀ two_ne_zero, neg_add_cancel, zpow_zero]

section
variable {f : FFmt} (hf : f.Shaped) {md : ℕ} (hmd : md ≤ 3) (ftz : Bool) {a b c : ℕ} {x y z : FVal} (hx : f.Reads a x) (hy : f.Reads b y)
  (hz : f.Reads c z) (ha : f.finite a = true) (hb : f.finite b = true) (hc : f.finite c = true)
include hf hmd hx hy ha hb

theorem add_rounds : Rounds f ftz md (f.units a + f.units b) 1 (zeroSign md (f.neg a) (f.neg b)) (f.rounded md ftz (addF md x y)).1
    (f.rounded md ftz (addF md x y)).2 := by
  obtain ⟨hflags, u, hfin, hsign⟩ := addF_finite (md := md) (hx.finite ha) (hy.finite hb)
  exact FFmt.rounded_rounds hf hmd ftz hfin hflags one_pos (by push_cast; ring) hsign

theorem sub_rounds : Rounds f ftz md (f.units a - f.units b) 1 (zeroSign md (f.neg a) (!f.neg b)) (f.rounded md ftz (addF md x y.negate)).1
    (f.rounded md ftz (addF md x y.negate)).2 := by
  obtain ⟨hflags, u, hfin, hsign⟩ := addF_finite (md := md) (hx.finite ha) (hy.finite hb).negate
  exact FFmt.rounded_rounds hf hmd ftz hfin hflags one_pos (by push_cast; ring) hsign

theorem mul_rounds : Rounds f ftz md (f.units a * f.units b) (2 ^ f.lsb) (f.neg a != f.neg b) (f.rounded md ftz (mulF x y)).1
    (f.rounded md ftz (mulF x y)).2 := by
  obtain ⟨hflags, hfin⟩ := mulF_finite (hx.finite ha) (hy.finite hb)
  refine FFmt.rounded_rounds hf hmd ftz hfin hflags (Nat.two_pow_pos _) ?_ fun _ => rfl
  push_cast
  linear_combination (f.units a * f.units b * f.unit) * f.unit_mul_two_pow

include hz hc

theorem fma_rounds : Rounds f ftz md (f.units a * f.units b + f.units c * 2 ^ f.lsb) (2 ^ f.lsb) (zeroSign md (f.neg a != f.neg b) (f.neg c))
    (f.rounded md ftz (fmaF md x y z)).1 (f.rounded md ftz (fmaF md x y z)).2 := by
  obtain ⟨hflags, u, hfin, hsign⟩ := fmaF_finite (md := md) (hx.finite ha) (hy.finite hb) (hz.finite hc)
  refine FFmt.rounded_rounds hf hmd ftz hfin hflags (Nat.two_pow_pos _) ?_ hsign
  push_cast
  linear_combination (f.units a * f.units b * f.unit) * f.unit_mul_two_pow

end

/-- The sum of two products and an FP32 value, rounded to FP32 (R208). -/
theorem dot_rounds {f : FFmt} {md : ℕ} (hmd : md ≤ 3) (ftz : Bool) {p q p' q' c : ℕ} {x y x' y' z : FVal} (hx : f.Reads p x) (hy : f.Reads q y)
    (hx' : f.Reads p' x') (hy' : f.Reads q' y') (hz : fp32.Reads c z) (hp : f.finite p = true) (hq : f.finite q = true) (hp' : f.finite p' = true)
    (hq' : f.finite q' = true) (hc : fp32.finite c = true) :
    let m := mulF x y
    let k := fmaF md x' y' m.1
    let r := addF md k.1 z
    m.2 ||| k.2 ||| r.2 = 0 ∧ opposed [m.1, (mulF x' y').1, z] = false ∧ ∃ neg0, Rounds fp32 ftz md ((f.units p * f.units q + f.units p' * f.units q') * 2 ^ 149 + fp32.units c * 2 ^ (2 * f.lsb))
      (2 ^ (2 * f.lsb)) neg0 (roundF fp32 md ftz r.1).1 (roundF fp32 md ftz r.1).2 := by
  intro m k r
  obtain ⟨hm2, hm⟩ := mulF_finite (hx.finite hp) (hy.finite hq)
  obtain ⟨hk2, u, hk, -⟩ := fmaF_finite (md := md) (hx'.finite hp') (hy'.finite hq') hm
  obtain ⟨hr2, v, hr, -⟩ := addF_finite (md := md) hk (hz.finite hc)
  have hflags : m.2 ||| k.2 ||| r.2 = 0 := by
    rw [hm2, hk2, hr2]
    rfl
  have hopp : opposed [m.1, (mulF x' y').1, z] = false := opposed_eq hm.is (mulF_finite (hx'.finite hp') (hy'.finite hq')).2.is (hz.finite hc).is
  refine ⟨hflags, hopp, v, ?_⟩
  have hpow : f.unit * f.unit * 2 ^ (2 * f.lsb) = 1 := by
    rw [two_mul, pow_add]
    linear_combination (f.unit * 2 ^ f.lsb + 1) * f.unit_mul_two_pow
  have hunit : fp32.unit * 2 ^ 149 = 1 := fp32.unit_mul_two_pow
  have h := FFmt.rounded_rounds fp32_shaped hmd ftz (r := (r.1, 0)) (neg0 := v) hr rfl (q := 2 ^ (2 * f.lsb)) (Nat.two_pow_pos _)
    (z := (f.units p * f.units q + f.units p' * f.units q') * 2 ^ 149 + fp32.units c * 2 ^ (2 * f.lsb)) (by
      push_cast
      linear_combination (f.units p' * f.units q' + f.units p * f.units q : ℚ) * hpow - (f.units p * f.units q + f.units p' * f.units q' : ℚ) * hunit)
    fun _ => rfl
  rwa [FFmt.rounded, Flags.zero_or] at h

/-- A value times a power of two, rounded (R209). -/
theorem scale_rounds {f : FFmt} (hf : f.Shaped) {md : ℕ} (hmd : md ≤ 3) (ftz : Bool) {a m : ℕ} {e : ℤ}
    (hval : FVal.rat (.fin (f.neg a) m e) = f.units a * f.unit) (n : ℤ) :
    Rounds f ftz md (f.units a * 2 ^ n.toNat) (2 ^ (-n).toNat) (f.neg a) (roundF f md ftz (.fin (f.neg a) m (e + n))).1
      (roundF f md ftz (.fin (f.neg a) m (e + n))).2 := by
  refine roundF_rounds hf hmd (Nat.two_pow_pos _) ?_ fun _ => rfl
  have hshift : FVal.rat (.fin (f.neg a) m (e + n)) = f.units a * f.unit * 2 ^ n := by
    rw [← hval, FVal.rat, FVal.rat, zpow_add₀ two_ne_zero]
    ring
  have hpow : (2 : ℚ) ^ n * ((2 ^ (-n).toNat : ℕ) : ℚ) = 2 ^ n.toNat := by
    rw [Nat.cast_pow, Nat.cast_ofNat, ← zpow_natCast, ← zpow_natCast, ← zpow_add₀ two_ne_zero]
    congr 1
    omega
  rw [hshift, mul_assoc, hpow]
  push_cast
  ring

end Sys2Proof.Machine
end


section
/-!
SUPPORT (O22). Quotients and square roots (R222): their leading bits with a sticky bit below.
-/
namespace Sys2Proof.Machine

/-- A finite operand's mantissa has at most one bit more than the format stores. -/
theorem unpackF_mantissa_lt {f : FFmt} {b : ℕ} {s : Bool} {m : ℕ} {e : ℤ} (h : unpackF f false b = .fin s m e) : m < 2 ^ (f.mb + 1) := by
  have hm : bitsN b 0 f.mb < 2 ^ f.mb := Nat.mod_lt _ (Nat.two_pow_pos _)
  have hpow : 2 ^ (f.mb + 1) = 2 ^ f.mb + 2 ^ f.mb := by rw [pow_succ, Nat.mul_two]
  unfold unpackF at h
  dsimp only at h
  simp only [Bool.false_eq_true, if_false] at h
  split_ifs at h <;> obtain ⟨-, rfl, -⟩ := FVal.fin.inj h <;> omega

/-- What a finite FP32 operand under `.ftz` is: its mantissa of 24 bits, its value. -/
theorem fel8_finite {ftz : Bool} {a : DWord} (h : f32Finite (fp32.asRead ftz a.lo.toNat) = true) :
    ∃ m e, fel 8 ftz a 0 = .fin (fp32.neg (fp32.asRead ftz a.lo.toNat)) m e ∧ m < 2 ^ 24 ∧
      (m : ℚ) * 2 ^ e = |(f32Units (fp32.asRead ftz a.lo.toNat) : ℚ)| * fp32.unit ∧
      FVal.rat (.fin (fp32.neg (fp32.asRead ftz a.lo.toNat)) m e) = f32Units (fp32.asRead ftz a.lo.toNat) * fp32.unit := by
  obtain ⟨m, e, hv, hval⟩ := (fel8_reads ftz a).fin h
  have hread : fel 8 ftz a 0 = unpackF fp32 false (fp32.asRead ftz (fbits 8 a 0)) := unpackF_asRead fp32_shaped ftz _
  refine ⟨m, e, hv, unpackF_mantissa_lt (f := fp32) (hread.symm.trans hv), ?_, hval⟩
  have habs := congrArg abs hval
  rw [abs_mul, abs_of_pos fp32.unit_pos] at habs
  rw [f32Units, ← habs, FVal.rat, abs_mul, abs_of_nonneg (by positivity : (0 : ℚ) ≤ m * 2 ^ e)]
  cases fp32.neg (fp32.asRead ftz a.lo.toNat) <;> simp

/-! ### Quotients -/

/-- A quotient's floor, its step and whether it is exact. -/
theorem div_between {N n : ℕ} (hn : 0 < n) {v : ℚ} {d : ℤ} (hv : v = (N : ℚ) / n * 2 ^ d) :
    (decide (N % n = 0) = true → v = (N / n : ℕ) * 2 ^ d) ∧
      (decide (N % n = 0) = false → ((N / n : ℕ) : ℚ) * 2 ^ d < v ∧ v < ((N / n : ℕ) + 1) * 2 ^ d) := by
  have hn' : (0 : ℚ) < n := by exact_mod_cast hn
  have hd : (0 : ℚ) < 2 ^ d := by positivity
  have hdm : ((n * (N / n) + N % n : ℕ) : ℚ) = N := by rw [Nat.div_add_mod]
  have hmod : N % n < n := Nat.mod_lt _ hn
  rw [hv]
  refine ⟨fun h => ?_, fun h => ⟨?_, ?_⟩⟩
  · congr 1
    rw [div_eq_iff hn'.ne', ← hdm, of_decide_eq_true h]
    push_cast
    ring
  · refine mul_lt_mul_of_pos_right ?_ hd
    rw [lt_div_iff₀ hn', ← hdm]
    have := of_decide_eq_false h
    exact_mod_cast (by rw [Nat.mul_comm]; omega)
  · refine mul_lt_mul_of_pos_right ?_ hd
    rw [div_lt_iff₀ hn', ← hdm]
    exact_mod_cast (by rw [Nat.succ_mul, Nat.mul_comm]; omega)

theorem divF_fin (md : ℕ) (ftz s t : Bool) {m n : ℕ} (e g : ℤ) (hm : m ≠ 0) (hn : n ≠ 0) : divF md ftz (.fin s m e) (.fin t n g) =
    roundF fp32 md ftz (.fin (s != t) (2 * (m * 2 ^ 60 / n) + if decide (m * 2 ^ 60 % n = 0) then 0 else 1) (e - g - 60 - 1)) := by
  have hexp : e - g - 61 = e - g - 60 - 1 := by ring
  have hexact : (m * 2 ^ 60 % n == 0) = decide (m * 2 ^ 60 % n = 0) := by rw [Bool.eq_iff_iff, beq_iff_eq, decide_eq_true_iff]
  rw [← hexp, ← hexact]
  unfold divF
  dsimp only
  rw [if_neg (by simpa using hn), if_neg (by simpa using hm)]

theorem divF_fin_zero (md : ℕ) (ftz s t : Bool) {n : ℕ} (e g : ℤ) (hn : n ≠ 0) :
    divF md ftz (.fin s 0 e) (.fin t n g) = (fp32.signBit (s != t), 0) := by
  unfold divF
  dsimp only
  rw [if_neg (by simpa using hn), if_pos (by simp)]

/-- A quotient of two values of signs `s` and `t`, rounded. -/
theorem divF_rounds {md : ℕ} (hmd : md ≤ 3) (ftz : Bool) {s t : Bool} {m n : ℕ} {e g ua ub : ℤ} (hm : (m : ℚ) * 2 ^ e = |(ua : ℚ)| * fp32.unit)
    (hn : (n : ℚ) * 2 ^ g = |(ub : ℚ)| * fp32.unit) (hs : ua ≠ 0 → s = decide (ua < 0)) (ht : t = decide (ub < 0)) (hub : ub ≠ 0) (hnlt : n < 2 ^ 24) :
    Rounds fp32 ftz md (ua * 2 ^ 149 * ub.sign) ub.natAbs (s != t) (divF md ftz (.fin s m e) (.fin t n g)).1
      (divF md ftz (.fin s m e) (.fin t n g)).2 := by
  have hu := fp32.unit_pos
  have hub' : (0 : ℚ) < |(ub : ℚ)| := abs_pos.mpr (by exact_mod_cast hub)
  have hn0 : n ≠ 0 := by
    rintro rfl
    rw [Nat.cast_zero, zero_mul, eq_comm, mul_eq_zero] at hn
    exact hn.elim hub'.ne' hu.ne'
  by_cases hua : ua = 0
  · obtain rfl : m = 0 := by
      rw [hua, Int.cast_zero, abs_zero, zero_mul, mul_eq_zero, Nat.cast_eq_zero] at hm
      exact hm.resolve_right (by positivity)
    rw [Rounds, if_pos (by rw [hua, zero_mul, zero_mul]), divF_fin_zero md ftz s t e g hn0]
    exact ⟨rfl, rfl⟩
  · have hua' : (0 : ℚ) < |(ua : ℚ)| := abs_pos.mpr (by exact_mod_cast hua)
    have hm0 : m ≠ 0 := by
      rintro rfl
      rw [Nat.cast_zero, zero_mul, eq_comm, mul_eq_zero] at hm
      exact hm.elim hua'.ne' hu.ne'
    have hz : ua * 2 ^ 149 * ub.sign ≠ 0 := mul_ne_zero (mul_ne_zero hua (by norm_num)) (by simpa using hub)
    have hsign : (s != t) = decide (ua * 2 ^ 149 * ub.sign < 0) := by
      rw [hs hua, ht]
      rcases lt_or_gt_of_ne hua with h1 | h1 <;> rcases lt_or_gt_of_ne hub with h2 | h2
      · simp [h1, h2, Int.sign_eq_neg_one_of_neg h2]; omega
      · simp [h1, h2.not_gt, Int.sign_eq_one_of_pos h2]; omega
      · simp [h1.not_gt, h2, Int.sign_eq_neg_one_of_neg h2]; omega
      · simp [h1.not_gt, h2.not_gt, Int.sign_eq_one_of_pos h2]; omega
    have hval : |((ua * 2 ^ 149 * ub.sign : ℤ) : ℚ)| / (ub.natAbs : ℕ) * fp32.unit = ((m * 2 ^ 60 : ℕ) : ℚ) / n * 2 ^ (e - g - 60) := by
      have hsgn : |((ub.sign : ℤ) : ℚ)| = 1 := by
        rcases lt_or_gt_of_ne hub with h2 | h2
        · simp [Int.sign_eq_neg_one_of_neg h2]
        · simp [Int.sign_eq_one_of_pos h2]
      have hnat : ((ub.natAbs : ℕ) : ℚ) = |(ub : ℚ)| := by rw [Nat.cast_natAbs, Int.cast_abs]
      have hunit : fp32.unit * 2 ^ 149 = 1 := fp32.unit_mul_two_pow
      have hquot : (m : ℚ) * 2 ^ e / (n * 2 ^ g) = |(ua : ℚ)| / |(ub : ℚ)| := by rw [hm, hn, mul_div_mul_right _ _ hu.ne']
      have h60 : (2 : ℚ) ^ (e - g - 60) = 2 ^ e / 2 ^ g / 2 ^ 60 := by
        rw [zpow_sub₀ two_ne_zero, zpow_sub₀ two_ne_zero]
        norm_num
      have hn' : (n : ℚ) ≠ 0 := by exact_mod_cast hn0
      have hg : (2 : ℚ) ^ g ≠ 0 := by positivity
      calc |((ua * 2 ^ 149 * ub.sign : ℤ) : ℚ)| / (ub.natAbs : ℕ) * fp32.unit = |(ua : ℚ)| / |(ub : ℚ)| * (fp32.unit * 2 ^ 149) := by
            rw [hnat, Int.cast_mul, Int.cast_mul, abs_mul, abs_mul, hsgn, Int.cast_pow, Int.cast_ofNat,
              abs_of_pos (by positivity : (0 : ℚ) < 2 ^ 149)]
            ring
        _ = (m : ℚ) * 2 ^ e / (n * 2 ^ g) := by rw [hunit, mul_one, hquot]
        _ = ((m * 2 ^ 60 : ℕ) : ℚ) / n * 2 ^ (e - g - 60) := by
            rw [h60]
            push_cast
            field_simp
            norm_num
    have hq : 2 ^ (fp32.mb + 2) ≤ m * 2 ^ 60 / n := by
      have hpos := Nat.pos_of_ne_zero hm0
      rw [Nat.le_div_iff_mul_le (Nat.pos_of_ne_zero hn0)]
      show 2 ^ 25 * n ≤ _
      omega
    obtain ⟨hexact, hbetween⟩ := div_between (Nat.pos_of_ne_zero hn0) hval
    rw [divF_fin md ftz s t e g hm0 hn0]
    have hr := roundF_sticky fp32_shaped hmd ftz (s != t) hq (e - g - 60) hexact hbetween
    rw [hsign] at hr ⊢
    exact hr.rounds fp32_shaped hmd hz (Int.natAbs_pos.mpr hub)

end Sys2Proof.Machine
end


section
/-!
SUPPORT (O22). Square roots (R222): the integer square root, and on which side of a threshold the rounded value lies.
-/
namespace Sys2Proof.Machine

theorem isqrtBits_spec (n : ℕ) : ∀ k r : ℕ, r * r ≤ n → n < (r + 2 ^ k) * (r + 2 ^ k) →
    isqrtBits n k r * isqrtBits n k r ≤ n ∧ n < (isqrtBits n k r + 1) * (isqrtBits n k r + 1)
  | 0, r, hlo, hhi => ⟨hlo, hhi⟩
  | k + 1, r, hlo, hhi => by
    rw [isqrtBits]
    refine isqrtBits_spec n k _ ?_ ?_
    · split
      next h => exact h
      next h => exact hlo
    · split
      next h => rwa [Nat.add_assoc, ← Nat.two_mul, ← pow_succ']
      next h => exact not_le.mp h

/-- The integer square root is the floor of the root. -/
theorem isqrt_spec (n : ℕ) : isqrt n * isqrt n ≤ n ∧ n < (isqrt n + 1) * (isqrt n + 1) := by
  unfold isqrt
  by_cases hn : n = 0
  · subst hn
    decide
  · rw [if_neg (by simpa using hn)]
    refine isqrtBits_spec n _ 0 (Nat.zero_le _) ?_
    have hlt : n < 2 ^ (log2N n + 1) := Nat.lt_log2_self
    rw [Nat.zero_add, ← pow_add]
    exact hlt.trans_le (Nat.pow_le_pow_right two_pos (by omega))

/-- A value stands to a square root as its square to the radicand. -/
def RootSide (c x N : ℚ) : Prop := (c < x ∧ c * c < N) ∨ (x < c ∧ N < c * c) ∨ (c = x ∧ c * c = N)

section
variable {c x N : ℚ} (h : RootSide c x N)
include h

theorem RootSide.le_iff : c ≤ x ↔ c * c ≤ N := by
  rcases h with ⟨h1, h2⟩ | ⟨h1, h2⟩ | ⟨h1, h2⟩
  · exact iff_of_true h1.le h2.le
  · exact iff_of_false h1.not_ge h2.not_ge
  · exact iff_of_true h1.le h2.le

theorem RootSide.ge_iff : x ≤ c ↔ N ≤ c * c := by
  rcases h with ⟨h1, h2⟩ | ⟨h1, h2⟩ | ⟨h1, h2⟩
  · exact iff_of_false h1.not_ge h2.not_ge
  · exact iff_of_true h1.le h2.le
  · exact iff_of_true h1.ge h2.ge

theorem RootSide.eq_iff : c = x ↔ c * c = N := by
  rw [le_antisymm_iff, h.le_iff, h.ge_iff, ← le_antisymm_iff]

end

/-- Thresholds of few bits stand so to the rounded root, be it exact or the middle of the step that the root lies in. -/
theorem rootSide_of_isqrt {b c q : ℕ} (hc : c ≤ 2 ^ b) (hq : 2 ^ b ≤ q) (i d : ℤ) {N : ℚ} {exact : Bool}
    (hexact : exact = true → N = (q * 2 ^ d) * (q * 2 ^ d))
    (hbetween : exact = false → (q * 2 ^ d) * (q * 2 ^ d) < N ∧ N < ((q + 1) * 2 ^ d) * ((q + 1) * 2 ^ d)) :
    RootSide (c * 2 ^ i) ((2 * q + if exact then 0 else 1 : ℕ) * 2 ^ (d - 1)) N := by
  have hcpos : (0 : ℚ) ≤ c * 2 ^ i := by positivity
  have hqpos : (0 : ℚ) ≤ q * 2 ^ d := by positivity
  have hqpos' : (0 : ℚ) ≤ (q + 1) * 2 ^ d := by positivity
  cases he : exact with
  | true =>
    rw [if_pos rfl, sticky_exact, hexact he]
    rcases lt_trichotomy ((c : ℚ) * 2 ^ i) (q * 2 ^ d) with h | h | h
    · exact .inl ⟨h, mul_self_lt_mul_self hcpos h⟩
    · exact .inr (.inr ⟨h, by rw [h]⟩)
    · exact .inr (.inl ⟨h, mul_self_lt_mul_self hqpos h⟩)
  | false =>
    rw [if_neg Bool.false_ne_true]
    obtain ⟨h0, h1⟩ := hbetween he
    obtain ⟨g0, g1⟩ := sticky_between q d
    rcases small_mul_zpow_outside hc hq i d with h | h
    · exact .inl ⟨h.trans_lt g0, (mul_self_le_mul_self hcpos h).trans_lt h0⟩
    · exact .inr (.inl ⟨g1.trans_le h, h1.trans_le (mul_self_le_mul_self hqpos' h)⟩)

/-- The rounded root: a magnitude that the rounded value picks, with NX where it is not the root. -/
theorem picks_of_root {f : FFmt} {md : ℕ} {ftz : Bool} {x N : ℚ} {r : ℕ × Flags} (h : f.RoundsMag ftz md false x r)
    (hside : ∀ c : ℕ, c ≤ 2 ^ (f.mb + 2) → ∀ i : ℤ, RootSide (c * 2 ^ i) x N) (hlow : 2 ^ f.mb * 2 ^ f.mb ≤ N)
    (hhigh : N ≤ f.scale (f.infBits - 1) * f.scale (f.infBits - 1)) :
    ∃ n < f.infBits, 0 < n ∧ Picks f.scale md false n x ∧ r = (n, if f.scale n * f.scale n = N then 0 else flNX) := by
  have hscale : ∀ j, RootSide (f.scale j) x N := fun j => by
    obtain ⟨c, hc, i, hj⟩ := f.scale_eq_small j
    exact hj ▸ hside c hc i
  have hx : 2 ^ f.mb ≤ x := by
    have hone := hside 1 Nat.one_le_two_pow f.mb
    rw [Nat.cast_one, one_mul, zpow_natCast] at hone
    exact hone.le_iff.mpr hlow
  have hntiny : ¬ f.TinyAt md false x := FFmt.not_tinyAt hx
  cases h with
  | flushed ht _ => exact absurd ht hntiny
  | overflow hpast => exact absurd (hpast.lt (f.scale_strictMono (Nat.lt_succ_self _))) ((hscale _).ge_iff.mpr hhigh).not_gt
  | @finite n tiny hpick hn ht _ =>
    refine ⟨n, hn, Nat.pos_of_ne_zero ?_, hpick, ?_⟩
    · rintro rfl
      refine hpick.2 (goesPast_of_le (f.scale_strictMono Nat.zero_lt_one) (le_trans ?_ hx))
      have hone : f.scale 1 = 1 := by
        have h := f.scale_block (E := 0) (k := 1) (.inl rfl) Nat.one_le_two_pow
        simpa using h
      rw [Nat.zero_add, hone]
      exact one_le_pow₀ one_le_two
    · have htiny : ¬ tiny = true := ht.not.mpr hntiny
      simp only [(hscale n).eq_iff, if_neg htiny]
      exact Prod.ext (Nat.zero_add n) rfl

section
variable {f : FFmt} {md n : ℕ} {x N : ℚ} (hside : ∀ c : ℕ, c ≤ 2 ^ (f.mb + 2) → ∀ i : ℤ, RootSide (c * 2 ^ i) x N)
include hside

theorem rootSide_scale (j : ℕ) : RootSide (f.scale j) x N := by
  obtain ⟨c, hc, i, hj⟩ := f.scale_eq_small j
  exact hj ▸ hside c hc i

theorem rootSide_mid (j : ℕ) : RootSide ((f.scale j + f.scale (j + 1)) / 2) x N := by
  obtain ⟨c, hc, i, hj⟩ := f.mid_eq_small j
  exact hj ▸ hside c hc i

/-- To nearest, no other magnitude is nearer to the root. -/
theorem root_nearest (hpick : Picks f.scale 0 false n x) (j : ℕ) :
    (j < n → (f.scale n + f.scale j) * (f.scale n + f.scale j) ≤ 4 * N) ∧ (n < j → 4 * N ≤ (f.scale n + f.scale j) * (f.scale n + f.scale j)) := by
  have hpos : ∀ j, (0 : ℚ) ≤ f.scale j := fun j => Nat.cast_nonneg _
  refine ⟨fun hj => ?_, fun hj => ?_⟩
  · obtain ⟨i, rfl⟩ : ∃ i, n = i + 1 := ⟨n - 1, by omega⟩
    have hle : (f.scale i + f.scale (i + 1)) / 2 ≤ x := by
      have hpast := hpick.1 i i.lt_succ_self
      rw [GoesPast, if_pos rfl] at hpast
      rcases hpast with h | ⟨h, -⟩ <;> linarith
    have hsq := (rootSide_mid hside i).le_iff.mp hle
    have hji : f.scale j ≤ f.scale i := f.scale_strictMono.monotone (by omega)
    have := mul_self_le_mul_self (add_nonneg (hpos (i + 1)) (hpos j)) (by linarith : f.scale (i + 1) + f.scale j ≤ f.scale i + f.scale (i + 1))
    linarith
  · have hle : x ≤ (f.scale n + f.scale (n + 1)) / 2 := by
      have hnot := hpick.2
      rw [GoesPast, if_pos rfl, not_or, not_lt] at hnot
      linarith [hnot.1]
    have hsq := (rootSide_mid hside n).ge_iff.mp hle
    have hji : f.scale (n + 1) ≤ f.scale j := f.scale_strictMono.monotone hj
    have := mul_self_le_mul_self (add_nonneg (hpos n) (hpos (n + 1))) (by linarith : f.scale n + f.scale (n + 1) ≤ f.scale n + f.scale j)
    linarith

/-- Toward zero, it is the largest magnitude that does not exceed the root. -/
theorem root_toward (h0 : md ≠ 0) (ht : roundsAway md false = false) (hx : 0 ≤ x) (hpick : Picks f.scale md false n x) (j : ℕ) :
    f.scale n * f.scale n ≤ N ∧ (n < j → N < f.scale j * f.scale j) := by
  have hle := fun j => (rootSide_scale hside j).le_iff.symm.trans (scale_le_iff_of_toward h0 ht hx hpick j)
  exact ⟨(hle n).mpr le_rfl, fun hj => not_le.mp fun h => absurd ((hle j).mp h) (not_le.mpr hj)⟩

/-- Up, it is the least magnitude that reaches the root. -/
theorem root_away (h0 : md ≠ 0) (ha : roundsAway md false = true) (hpick : Picks f.scale md false n x) (j : ℕ) :
    N ≤ f.scale n * f.scale n ∧ (j < n → f.scale j * f.scale j < N) := by
  have hge := fun j => (rootSide_scale hside j).ge_iff.symm.trans (le_scale_iff_of_away h0 ha hpick j)
  exact ⟨(hge n).mpr le_rfl, fun hj => not_le.mp fun h => absurd ((hge j).mp h) (not_le.mpr hj)⟩

end

/-! ### The statement's square root -/

theorem sqrtF_fin (md : ℕ) (ftz : Bool) {m : ℕ} (hm : m ≠ 0) (e : ℤ) :
    let sh : ℕ := if e % 2 = 0 then 60 else 61
    let n := m * 2 ^ sh
    sqrtF md ftz (.fin false m e) =
      roundF fp32 md ftz (.fin false (2 * isqrt n + if decide (isqrt n * isqrt n = n) then 0 else 1) ((e - sh) / 2 - 1)) := by
  cases m with
  | zero => exact absurd rfl hm
  | succ m =>
    simp only [sqrtF, Bool.false_eq_true, if_false, beq_iff_eq, decide_eq_true_eq]

/-- The rounded root of a positive operand, by magnitude. -/
theorem sqrtF_picks {md : ℕ} (hmd : md ≤ 3) (ftz : Bool) {m : ℕ} {e ua : ℤ} (hm : (m : ℚ) * 2 ^ e = ua * fp32.unit) (hpos : 0 < ua)
    (hle : (ua : ℚ) ≤ fp32.scale (fp32.infBits - 1)) :
    ∃ n x, n < fp32.infBits ∧ 0 < n ∧ 0 ≤ x ∧ Picks fp32.scale md false n x ∧
      (∀ c : ℕ, c ≤ 2 ^ (fp32.mb + 2) → ∀ i : ℤ, RootSide (c * 2 ^ i) x (ua * 2 ^ 149)) ∧
      sqrtF md ftz (.fin false m e) = (n, if fp32.scale n * fp32.scale n = ua * 2 ^ 149 then 0 else flNX) := by
  have hu := fp32.unit_pos
  have hua : (1 : ℚ) ≤ ua := by exact_mod_cast hpos
  have hm0 : m ≠ 0 := by
    rintro rfl
    rw [Nat.cast_zero, zero_mul] at hm
    have : 0 < (ua : ℚ) * fp32.unit := by positivity
    linarith
  have hsqrt := sqrtF_fin md ftz hm0 e
  dsimp only at hsqrt
  obtain ⟨sh, hsh, hshift⟩ : ∃ sh : ℕ, (if e % 2 = 0 then 60 else 61) = sh ∧ 60 ≤ sh ∧ 2 * ((e - sh) / 2) = e - sh := by
    split
    · exact ⟨60, rfl, le_rfl, by push_cast; omega⟩
    · exact ⟨61, rfl, by norm_num, by push_cast; omega⟩
  obtain ⟨hsh60, heven⟩ := hshift
  rw [hsh] at hsqrt
  obtain ⟨hlo, hhi⟩ := isqrt_spec (m * 2 ^ sh)
  have hbig : 2 ^ 60 ≤ m * 2 ^ sh := Nat.le_mul_of_pos_left _ (Nat.pos_of_ne_zero hm0) |>.trans' (Nat.pow_le_pow_right two_pos hsh60)
  have hq : 2 ^ (fp32.mb + 2) ≤ isqrt (m * 2 ^ sh) := by
    by_contra hlt
    have hsmall : isqrt (m * 2 ^ sh) + 1 ≤ 2 ^ 25 := not_le.mp hlt
    have := Nat.mul_le_mul hsmall hsmall
    omega
  have hN : (ua : ℚ) * 2 ^ 149 = ((m * 2 ^ sh : ℕ) : ℚ) * (2 ^ ((e - sh) / 2 + 149) * 2 ^ ((e - sh) / 2 + 149)) := by
    have hunit : fp32.unit * 2 ^ 149 = 1 := fp32.unit_mul_two_pow
    have hpow : ((2 : ℚ) ^ sh) * (2 ^ ((e - sh) / 2 + 149) * 2 ^ ((e - sh) / 2 + 149)) = 2 ^ e * (2 ^ 149 * 2 ^ 149) := by
      have h149 : (2 : ℚ) ^ 149 = 2 ^ (149 : ℤ) := by rw [← zpow_natCast]; rfl
      rw [h149, ← zpow_natCast, ← zpow_add₀ two_ne_zero, ← zpow_add₀ two_ne_zero, ← zpow_add₀ two_ne_zero, ← zpow_add₀ two_ne_zero]
      congr 1
      omega
    rw [Nat.cast_mul, Nat.cast_pow, Nat.cast_ofNat, mul_assoc, hpow, ← mul_assoc, hm]
    linear_combination (-(ua : ℚ) * 2 ^ 149) * hunit
  generalize m * 2 ^ sh = N' at *
  generalize isqrt N' = q at *
  generalize hd : (e - sh) / 2 = d at *
  have hside : ∀ c : ℕ, c ≤ 2 ^ (fp32.mb + 2) → ∀ i : ℤ,
      RootSide (c * 2 ^ i) ((2 * q + if decide (q * q = N') then 0 else 1 : ℕ) * 2 ^ (d + 149 - 1)) (ua * 2 ^ 149) := fun c hc i => by
    have hpow : (0 : ℚ) < 2 ^ (d + 149) * 2 ^ (d + 149) := by positivity
    refine rootSide_of_isqrt hc hq i _ (fun h => ?_) fun h => ?_
    · rw [hN, ← of_decide_eq_true h]
      push_cast
      ring
    · have hne := of_decide_eq_false h
      have h1 : ((q * q : ℕ) : ℚ) < N' := by exact_mod_cast lt_of_le_of_ne hlo hne
      have h2 : (N' : ℚ) < (((q + 1) * (q + 1) : ℕ) : ℚ) := by exact_mod_cast hhi
      rw [hN]
      push_cast at h1 h2
      constructor
      · calc (q : ℚ) * 2 ^ (d + 149) * (q * 2 ^ (d + 149)) = q * q * (2 ^ (d + 149) * 2 ^ (d + 149)) := by ring
          _ < _ := mul_lt_mul_of_pos_right h1 hpow
      · calc (N' : ℚ) * (2 ^ (d + 149) * 2 ^ (d + 149)) < (q + 1) * (q + 1) * (2 ^ (d + 149) * 2 ^ (d + 149)) := mul_lt_mul_of_pos_right h2 hpow
          _ = _ := by ring
  have hqpos : 0 < q := (Nat.two_pow_pos _).trans_le hq
  have hr := roundF_roundsMag (f := fp32) (md := md) (ftz := ftz) (neg := false) (m := 2 * q + if decide (q * q = N') then 0 else 1) (e := d - 1)
    (by omega) fp32_shaped hmd
  rw [mul_div_assoc, fp32.two_zpow_div_unit, show d - 1 + (fp32.lsb : ℤ) = d + 149 - 1 by rw [show (fp32.lsb : ℤ) = 149 from rfl]; ring] at hr
  have hS : (2 : ℚ) ^ 149 ≤ fp32.scale (fp32.infBits - 1) := by
    rw [FFmt.scale, ← Int.cast_natCast, FFmt.magUnits_infBits_sub_one fp32_shaped]
    exact_mod_cast (by decide : (2 : ℤ) ^ 149 ≤ fp32.maxUnits)
  obtain ⟨n, hn, hn0, hpick, hres⟩ := picks_of_root hr hside (by
      refine le_trans ?_ (le_mul_of_one_le_left (by positivity) hua)
      exact_mod_cast (by decide : 2 ^ fp32.mb * 2 ^ fp32.mb ≤ 2 ^ 149)) (mul_le_mul hle hS (by positivity) (by positivity))
  exact ⟨n, _, hn, hn0, by positivity, hpick, hside, by rw [hsqrt, hres]⟩

theorem f32Units_of_not_neg {k : ℕ} (h : fp32.neg k = false) : f32Units k = (fp32.magUnits (fp32.mag k) : ℤ) := by
  rw [f32Units, fp32.units_eq, h, if_neg Bool.false_ne_true, one_mul]

/-- How a rounded root `y` of `n` stands to another value `o` of its format: no nearer to the root, or not between them (R222). -/
def RootRounded (md : ℕ) (n y o : ℤ) : Prop :=
  match md with
  | 0 => (o < y → (y + o) * (y + o) ≤ 4 * n) ∧ (y < o → 4 * n ≤ (y + o) * (y + o))
  | 1 | 2 => y * y ≤ n ∧ (y < o → n < o * o)
  | _ => n ≤ y * y ∧ (o < y → o * o < n)

/-- The square root of a positive value in the statement's words (R222). -/
theorem sqrtF_rounds {md : ℕ} (hmd : md ≤ 3) (ftz : Bool) {m : ℕ} {e ua : ℤ} (hm : (m : ℚ) * 2 ^ e = ua * fp32.unit) (hpos : 0 < ua)
    (hle : (ua : ℚ) ≤ fp32.scale (fp32.infBits - 1)) :
    let r := sqrtF md ftz (.fin false m e)
    let n := ua * 2 ^ 149
    let y := f32Units r.1
    r.1 < 2 ^ 32 ∧ f32Finite r.1 = true ∧ 0 < y ∧ (r.2 = if y * y = n then 0 else flNX) ∧
      ∀ k, k < 2 ^ 32 → f32Finite k = true → fp32.neg k = false → RootRounded md n y (f32Units k) := by
  obtain ⟨n, x, hn, hn0, hx, hpick, hside, hres⟩ := sqrtF_picks hmd ftz hm hpos hle
  dsimp only
  rw [hres]
  dsimp only
  have hbits : n = fp32.signBit false + n := (Nat.zero_add n).symm
  have hy : f32Units n = (fp32.magUnits n : ℤ) := by
    have h := fp32.units_signBit_add false (hn.trans fp32.infBits_lt)
    rw [← hbits, if_neg Bool.false_ne_true, one_mul] at h
    exact h
  have hcast : ∀ a b : ℕ, ((fp32.magUnits a : ℤ) < fp32.magUnits b ↔ a < b) := fun a b => by
    rw [Nat.cast_lt, fp32.magUnits_strictMono.lt_iff_lt]
  rw [hy]
  refine ⟨?_, ?_, ?_, ?_, fun k _ hk hneg => ?_⟩
  · exact hbits ▸ fp32.signBit_add_lt false hn.le
  · exact hbits ▸ fp32.finite_signBit_add false hn
  · exact (fp32.magUnits_zero ▸ (hcast 0 n).mpr hn0 :)
  · have hiff : fp32.scale n * fp32.scale n = ua * 2 ^ 149 ↔ (fp32.magUnits n : ℤ) * fp32.magUnits n = ua * 2 ^ 149 := by
      rw [FFmt.scale]; exact_mod_cast Iff.rfl
    simp only [hiff]
  · have hnear := root_nearest hside (n := n)
    have htoward := root_toward hside (n := n) (md := md)
    have haway := root_away hside (n := n) (md := md)
    unfold FFmt.scale at hnear htoward haway
    rw [f32Units_of_not_neg hneg]
    interval_cases md <;> simp only [RootRounded, hcast]
    · exact_mod_cast hnear hpick (fp32.mag k)
    · exact_mod_cast htoward one_ne_zero rfl hx hpick (fp32.mag k)
    · exact_mod_cast htoward two_ne_zero rfl hx hpick (fp32.mag k)
    · exact_mod_cast haway three_ne_zero rfl hpick (fp32.mag k)

/-- A finite pattern's value is no larger than the largest finite one. -/
theorem f32Units_le {a : ℕ} (ha : f32Finite a = true) : (f32Units a : ℚ) ≤ fp32.scale (fp32.infBits - 1) := by
  have hfin : fp32.mag a < fp32.infBits := of_decide_eq_true ha
  refine le_trans ?_ (fp32.scale_strictMono.monotone (Nat.le_sub_one_of_lt hfin))
  rw [f32Units, FFmt.scale, ← Int.cast_natCast, ← fp32.abs_units]
  exact_mod_cast le_abs_self _

end Sys2Proof.Machine
end


section
/-!
SETTLED. One rounding of the float arithmetic's exact results (O22).
-/
namespace Sys2Proof.Machine

/-- What an element-wise instruction that rounds `g` of each element leaves. -/
theorem AluReady.yields_elements {s : State} {w : Warp} {i : Instr} {x : LongOp} {op : Alu} (h : AluReady s w i x op) (hty : FloatTy (tyOf x.fn))
    (hp : op.pdst = false) (hw : op.wide = false) {r : ℕ → ℕ → FVal × Flags}
    (hres : ∀ u, op.result w x u = floatEls (tyOf x.fn) fun j => (fmtOf (tyOf x.fn)).rounded (fnRnd x.fn) (fnBit3 x.fn) (r u j)) :
    Yields i s w x.d (op.threads w x) false
      (fun u => BitVec.ofNat 64 (((List.range (neT (tyOf x.fn))).map fun j =>
        ((fmtOf (tyOf x.fn)).rounded (fnRnd x.fn) (fnBit3 x.fn) (r u j)).1 * 2 ^ ((fmtOf (tyOf x.fn)).width * j)).sum))
      (fun u => orFlags ((List.range (neT (tyOf x.fn))).map fun j => ((fmtOf (tyOf x.fn)).rounded (fnRnd x.fn) (fnBit3 x.fn) (r u j)).2)) :=
  h.yields hp hw fun u => by
    rw [hres u]
    exact Prod.ext (floatEls_sum hty fun j => roundF_bits_lt (fmtOf_shaped _) _ _ _) (floatEls_flags _ _)

/-- The conversions of integers to FP32 are legal without `.ftz` (R214). -/
theorem AluReady.cvt_int {s : State} {w : Warp} {x : LongOp} {op : Alu} (h : AluReady s w (.cvt x) x op) (hst : x.fn2.toNat % 16 ≤ 7) :
    tyOf x.fn = 8 ∧ fnBit3 x.fn = false := by
  have hrow : (rowFloat 0x30 x.fn x.fn2.toNat).ok = true := h.row_ok rfl
  simp only [rowFloat, Bool.and_eq_true, Bool.or_eq_true, beq_iff_eq, Bool.not_eq_true', decide_eq_true_eq] at hrow
  obtain ⟨-, (((⟨⟨⟨h8, -⟩, hftz⟩, -⟩ | ⟨⟨-, hs⟩, -⟩) | ⟨⟨-, hs⟩, -⟩) | ⟨⟨-, hs⟩, -⟩) | ⟨⟨-, hs⟩, -⟩⟩ := hrow
  · exact ⟨h8, hftz⟩
  all_goals omega

/-- FSCALE in the statement's words (R209). -/
theorem fscaleF_rounds {md : ℕ} (hmd : md ≤ 3) {ftz : Bool} {a : DWord} (ha : f32Finite (fp32.asRead ftz a.lo.toNat) = true) (b : DWord) :
    let n := b.lo.toInt
    let r := fscaleF md ftz (fel 8 ftz a 0) (sextN b.toNat 32)
    Rounds fp32 ftz md (f32Units (fp32.asRead ftz a.lo.toNat) * 2 ^ n.toNat) (2 ^ (-n).toNat) (fp32.neg (fp32.asRead ftz a.lo.toNat)) r.1 r.2 := by
  obtain ⟨m, e, hx, -, -, hval⟩ := fel8_finite ha
  have hn : sextN b.toNat 32 = b.lo.toInt := by
    rw [← sextN_toNat, DWord.lo, BitVec.toNat_setWidth, sextN, sextN, Nat.mod_mod]
  have hr : fscaleF md ftz (.fin (fp32.neg (fp32.asRead ftz a.lo.toNat)) m e) b.lo.toInt =
      roundF fp32 md ftz (.fin (fp32.neg (fp32.asRead ftz a.lo.toNat)) m (e + b.lo.toInt)) := by
    cases m with
    | zero => rfl
    | succ m => rfl
  rw [hx, hn, hr]
  exact scale_rounds fp32_shaped hmd ftz hval _

/-- FDIV in the statement's words (R222). -/
theorem div_rounds {md : ℕ} (hmd : md ≤ 3) {ftz : Bool} {a b : DWord} (ha : f32Finite (fp32.asRead ftz a.lo.toNat) = true)
    (hb : f32Finite (fp32.asRead ftz b.lo.toNat) = true) (hb0 : f32Units (fp32.asRead ftz b.lo.toNat) ≠ 0) :
    let ua := f32Units (fp32.asRead ftz a.lo.toNat)
    let ub := f32Units (fp32.asRead ftz b.lo.toNat)
    let r := divF md ftz (fel 8 ftz a 0) (fel 8 ftz b 0)
    Rounds fp32 ftz md (ua * 2 ^ 149 * ub.sign) ub.natAbs (fp32.neg (fp32.asRead ftz a.lo.toNat) != fp32.neg (fp32.asRead ftz b.lo.toNat)) r.1 r.2 := by
  obtain ⟨m, e, hx, -, hm, -⟩ := fel8_finite ha
  obtain ⟨n, g, hy, hnlt, hn, -⟩ := fel8_finite hb
  rw [hx, hy]
  exact divF_rounds hmd ftz hm hn FFmt.neg_of_units_ne_zero (FFmt.neg_of_units_ne_zero hb0) hb0 hnlt

/-- A positive operand. -/
theorem fel8_positive {ftz : Bool} {a : DWord} (ha : f32Finite (fp32.asRead ftz a.lo.toNat) = true)
    (hpos : 0 < f32Units (fp32.asRead ftz a.lo.toNat)) :
    ∃ m e, fel 8 ftz a 0 = .fin false m e ∧ (m : ℚ) * 2 ^ e = f32Units (fp32.asRead ftz a.lo.toNat) * fp32.unit := by
  obtain ⟨m, e, hx, -, hm, -⟩ := fel8_finite ha
  have hneg : fp32.neg (fp32.asRead ftz a.lo.toNat) = false := by
    rw [FFmt.neg_of_units_ne_zero hpos.ne']
    exact decide_eq_false hpos.not_gt
  rw [hneg] at hx
  rw [abs_of_pos (by exact_mod_cast hpos)] at hm
  exact ⟨m, e, hx, hm⟩

/-- Exact terms without flags and without opposite infinities leave the flags of the rounding. -/
theorem dot_flags {a b c : Flags} {o : Bool} (h : a ||| b ||| c = 0) (ho : o = false) (d : Flags) : a ||| b ||| c ||| d ||| flagIf o flNV = d := by
  rw [h, ho, Flags.zero_or]
  exact Flags.or_zero d

/-- An integer, rounded (R215). -/
theorem int_rounds {md : ℕ} (hmd : md ≤ 3) (ftz : Bool) (v : ℤ) : Rounds fp32 ftz md (v * 2 ^ 149) 1 false
    (roundF fp32 md ftz (.fin (decide (v < 0)) v.natAbs 0)).1 (roundF fp32 md ftz (.fin (decide (v < 0)) v.natAbs 0)).2 := by
  have hunit : fp32.unit * 2 ^ 149 = 1 := fp32.unit_mul_two_pow
  refine roundF_rounds fp32_shaped hmd one_pos ?_ fun hz => ?_
  · rw [FVal.rat_natAbs]
    push_cast
    linear_combination -(v : ℚ) * hunit
  · obtain rfl : v = 0 := (mul_eq_zero.mp hz).resolve_right (by norm_num)
    rfl

theorem cvtVal_of_int {x : LongOp} (h8 : tyOf x.fn = 8) (hst : x.fn2.toNat % 16 ≤ 7) (a : DWord) :
    let v := el (x.fn2.toNat % 16) a.toNat 0
    let r := roundF fp32 (fnRnd x.fn) false (.fin (v < 0) v.natAbs 0)
    cvtVal x a = (BitVec.ofNat 64 r.1, r.2) := by
  unfold cvtVal
  dsimp only
  rw [if_pos (by simp [h8, hst])]

/-- Settles O22: an element's exact result is rounded once, and quotients and roots through their leading bits and a sticky bit. -/
theorem floatRounding : Obligations.FloatRounding := by
  have hmd := fnRnd_le
  refine ⟨fun i s w x op h hi => ?elements, fun i s w x op h hi => ?single⟩
  case elements =>
    have hty := h.floatTy hi
    have hf := fmtOf_shaped (tyOf x.fn)
    rcases hi with rfl | rfl | rfl | rfl <;> obtain rfl := Option.some.inj h.aluOf_eq
    · refine ⟨_, _, h.yields_elements hty rfl rfl fun u => rfl, fun u j _ => ⟨fun _ ha hb => ?_, nofun, nofun, nofun⟩⟩
      exact add_rounds hf (hmd _) _ (srcEl_reads w x x.a u j) (srcEl_reads w x x.b u j) ha hb
    · refine ⟨_, _, h.yields_elements hty rfl rfl fun u => rfl, fun u j _ => ⟨nofun, fun _ ha hb => ?_, nofun, nofun⟩⟩
      exact sub_rounds hf (hmd _) _ (srcEl_reads w x x.a u j) (srcEl_reads w x x.b u j) ha hb
    · refine ⟨_, _, h.yields_elements hty rfl rfl fun u => rfl, fun u j _ => ⟨nofun, nofun, fun _ ha hb => ?_, nofun⟩⟩
      exact mul_rounds hf (hmd _) _ (srcEl_reads w x x.a u j) (srcEl_reads w x x.b u j) ha hb
    · refine ⟨_, _, h.yields_elements hty rfl rfl fun u => rfl, fun u j _ => ⟨nofun, nofun, nofun, fun _ ha hb hc => ?_⟩⟩
      exact fma_rounds hf (hmd _) _ (srcEl_reads w x x.a u j) (srcEl_reads w x x.b u j) (srcEl_reads w x x.c u j) ha hb hc
  case single =>
    rcases hi with rfl | rfl | rfl | rfl | ⟨rfl, hst⟩ <;> have hop := Option.some.inj h.aluOf_eq <;> subst hop
    · refine ⟨_, _, h.yields rfl rfl fun u => rfl, fun u => ⟨fun _ hpq hc => ?_, nofun, nofun, nofun, nofun⟩⟩
      have hread := fun sel j => srcEl_reads w x sel u j
      obtain ⟨hflags, hopp, neg0, hr⟩ := dot_rounds (hmd x.fn) (fnBit3 x.fn) (hread x.a 0) (hread x.b 0) (hread x.a 1) (hread x.b 1)
        (fel8_reads _ (w.src x.lit .f32 x.c u)) (hpq 0 two_pos).1 (hpq 0 two_pos).2 (hpq 1 one_lt_two).1 (hpq 1 one_lt_two).2 hc
      exact ⟨neg0, (dot_flags hflags hopp _).symm ▸ hr⟩
    · refine ⟨_, _, h.yields rfl rfl fun u => rfl, fun u => ⟨nofun, fun _ ha => ?_, nofun, nofun, nofun⟩⟩
      exact fscaleF_rounds (hmd _) ha _
    · refine ⟨_, _, h.yields rfl rfl fun u => rfl, fun u => ⟨nofun, nofun, fun _ ha hb hb0 => ?_, nofun, nofun⟩⟩
      exact div_rounds (hmd _) ha hb hb0
    · refine ⟨_, _, h.yields rfl rfl fun u => rfl, fun u => ⟨nofun, nofun, nofun, nofun, fun _ ha hpos => ?_⟩⟩
      obtain ⟨m, e, hx, hm⟩ := fel8_positive ha hpos
      have hr := sqrtF_rounds (hmd x.fn) (fnBit3 x.fn) hm hpos (f32Units_le ha)
      rw [← hx] at hr
      exact hr
    · obtain ⟨h8, hftz⟩ := h.cvt_int hst
      refine ⟨_, _, h.yields rfl ?_ fun u => cvtVal_of_int h8 hst _, fun u => ⟨nofun, nofun, nofun, fun _ => ?_, nofun⟩⟩
      · show ty64 (tyOf x.fn) = false
        rw [h8]
        rfl
      · have hsrc : (aluCvt x).a = srcI (x.fn2.toNat % 16) := if_pos hst
        rw [hftz, hsrc]
        exact int_rounds (hmd _) false _

end Sys2Proof.Machine
end


section
/-!
SUPPORT (O24). Exact conversions (R215, R220) and rounding to integers (R210, R215).
-/
namespace Sys2Proof.Machine

/-! ### Values that a format holds -/

/-- A value comes to one magnitude. -/
theorem Picks.unique {u : ℕ → ℚ} (hu : StrictMono u) {md : ℕ} {neg : Bool} {n k : ℕ} {x : ℚ} (hn : Picks u md neg n x) (hk : Picks u md neg k x) :
    n = k := by
  have hiff : ∀ j, j < n ↔ j < k := fun j => (hn.le_iff hu).trans (hk.le_iff hu).symm
  have h1 := hiff n
  have h2 := hiff k
  omega

/-- A value of at most one bit more than the format stores, times a power of two, is a magnitude. -/
theorem FFmt.exists_scale (f : FFmt) : ∀ (E k : ℕ), k ≤ 2 ^ (f.mb + 1) → ∃ n, f.scale n = k * 2 ^ E
  | 0, k, hk => ⟨0 * 2 ^ f.mb + k, f.scale_block (.inl rfl) hk⟩
  | E + 1, k, hk => by
    by_cases hlow : 2 ^ f.mb ≤ k
    · exact ⟨(E + 1) * 2 ^ f.mb + k, f.scale_block (.inr hlow) hk⟩
    · obtain ⟨n, hn⟩ := FFmt.exists_scale f E (2 * k) (by rw [pow_succ]; omega)
      refine ⟨n, hn.trans ?_⟩
      push_cast
      ring

/-- A value that is a finite magnitude is not changed by rounding, and raises no flag. -/
theorem roundF_exact {f : FFmt} (hf : f.Shaped) {md : ℕ} (hmd : md ≤ 3) (neg : Bool) {m n : ℕ} {e : ℤ} (hn : n < f.infBits)
    (h : (m : ℚ) * 2 ^ e = f.scale n * f.unit) : roundF f md false (.fin neg m e) = (f.signBit neg + n, 0) := by
  have hu := f.unit_pos
  by_cases hm : m = 0
  · subst hm
    rw [Nat.cast_zero, zero_mul, eq_comm, mul_eq_zero, or_iff_left hu.ne'] at h
    have hzero : f.scale 0 = 0 := by rw [FFmt.scale, f.magUnits_zero, Nat.cast_zero]
    obtain rfl : n = 0 := f.scale_strictMono.injective (h.trans hzero.symm)
    rfl
  · have hr := roundF_roundsMag (ftz := false) (neg := neg) (e := e) hm hf hmd
    rw [h, mul_div_cancel_right₀ _ hu.ne'] at hr
    generalize roundF f md false (.fin neg m e) = r at hr ⊢
    cases hr with
    | flushed _ hftz => cases hftz
    | overflow hpast =>
      have hlt := hpast.lt (f.scale_strictMono (Nat.lt_succ_self _))
      exact absurd (f.scale_strictMono.monotone (Nat.le_sub_one_of_lt hn)) (not_le.mpr hlt)
    | finite hpick hk _ _ =>
      obtain rfl := hpick.unique f.scale_strictMono (picks_self f.scale_strictMono)
      rw [if_pos rfl]

/-! ### To a signed integer -/

/-- z / one rounded to an integer in a mode (R210, R215). -/
def intRounded (md : ℕ) (z one : ℤ) : ℤ :=
  match md with
  | 0 => if 2 * (z % one) < one then z / one else if one < 2 * (z % one) then z / one + 1 else z / one + (z / one) % 2
  | 1 => z.tdiv one
  | 2 => z / one
  | _ => -(-z / one)

/-- By magnitude: the floor, or one more where the remainder has it so. -/
theorem roundInt_eq_floor {md : ℕ} (hmd : md ≤ 3) {neg : Bool} {m Z d : ℕ} {e : ℤ} (hd : 0 < d) (h : (m : ℚ) * 2 ^ e = (Z : ℚ) / d) :
    (roundInt md neg m e).1 = if roundUp md neg (Z / d) (2 * (Z % d)) d then Z / d + 1 else Z / d := by
  obtain ⟨hpick, -⟩ := roundInt_picks hmd neg m e
  have hd' : (0 : ℚ) < d := by exact_mod_cast hd
  rw [h] at hpick
  refine hpick.unique natCast_strictMono (picks_of_floor natCast_strictMono Nat.cast_div_le ?_ (roundUp_iff hmd neg hd))
  rw [div_lt_iff₀ hd']
  exact_mod_cast Nat.lt_mul_of_div_lt (Nat.lt_succ_self (Z / d)) hd

/-- When the rules of R160 go up, in words. -/
theorem roundUp_zero (neg : Bool) (q r d : ℕ) : roundUp 0 neg q (2 * r) d = true ↔ d < 2 * r ∨ (2 * r = d ∧ r ≠ 0 ∧ q % 2 = 1) := by
  simp only [roundUp, Bool.or_eq_true, Bool.and_eq_true, decide_eq_true_eq, beq_iff_eq, bne_iff_ne]
  omega

theorem roundUp_exact (md : ℕ) (neg : Bool) (q d : ℕ) : roundUp md neg q 0 d = false := by
  unfold roundUp
  split <;> simp

theorem roundUp_two (neg : Bool) (q r d : ℕ) : roundUp 2 neg q (2 * r) d = true ↔ neg = true ∧ r ≠ 0 := by simp [roundUp]
theorem roundUp_three (neg : Bool) (q r d : ℕ) : roundUp 3 neg q (2 * r) d = true ↔ neg = false ∧ r ≠ 0 := by simp [roundUp]

section
variable {d : ℕ} (q r : ℕ) (hr : r < d)
include hr

/-- Floors and remainders of a value of quotient `q` and remainder `r`, and of its negative. -/
theorem natCast_ediv_emod : ((q * d + r : ℕ) : ℤ) / d = q ∧ ((q * d + r : ℕ) : ℤ) % d = r := by
  rw [← Int.natCast_ediv, ← Int.natCast_emod, Nat.add_comm, Nat.add_mul_div_right _ _ (by omega), Nat.div_eq_of_lt hr, Nat.add_mul_mod_self_right,
    Nat.mod_eq_of_lt hr, Nat.zero_add]
  exact ⟨rfl, rfl⟩

theorem neg_natCast_ediv_emod : -((q * d + r : ℕ) : ℤ) / d = (if r = 0 then -(q : ℤ) else -q - 1) ∧
    -((q * d + r : ℕ) : ℤ) % d = if r = 0 then 0 else (d : ℤ) - r := by
  have hd : (d : ℤ) ≠ 0 := by omega
  by_cases h0 : r = 0
  · have hz : -((q * d + r : ℕ) : ℤ) = -(q : ℤ) * d := by rw [h0]; push_cast; ring
    rw [if_pos h0, if_pos h0, hz]
    exact ⟨Int.mul_ediv_cancel _ hd, Int.mul_emod_left _ _⟩
  · have hz : -((q * d + r : ℕ) : ℤ) = ((d : ℤ) - r) + (-q - 1) * d := by push_cast; ring
    rw [if_neg h0, if_neg h0, hz, Int.add_mul_ediv_right _ _ hd, Int.add_mul_emod_self_right, Int.ediv_eq_zero_of_lt (by omega) (by omega),
      Int.emod_eq_of_lt (by omega) (by omega), zero_add]
    exact ⟨rfl, rfl⟩

/-- A non-negative integer, rounded. -/
theorem intRounded_natCast {md : ℕ} (hmd : md ≤ 3) :
    intRounded md ((q * d + r : ℕ) : ℤ) d = ((if roundUp md false q (2 * r) d then q + 1 else q : ℕ) : ℤ) := by
  obtain ⟨hdiv, hmod⟩ := natCast_ediv_emod q r hr
  obtain ⟨hneg, -⟩ := neg_natCast_ediv_emod q r hr
  interval_cases md
  · simp only [intRounded, hdiv, hmod, roundUp_zero]
    split_ifs <;> omega
  · simp only [intRounded, Int.tdiv_eq_ediv_of_nonneg (Int.natCast_nonneg _), hdiv, roundUp]
    rfl
  · simp only [intRounded, hdiv, roundUp_two]
    rfl
  · simp only [intRounded, hneg, roundUp_three, true_and]
    split_ifs <;> omega

/-- A negative one. -/
theorem intRounded_neg {md : ℕ} (hmd : md ≤ 3) :
    intRounded md (-((q * d + r : ℕ) : ℤ)) d = -((if roundUp md true q (2 * r) d then q + 1 else q : ℕ) : ℤ) := by
  obtain ⟨hdiv, -⟩ := natCast_ediv_emod q r hr
  obtain ⟨hneg, hmod⟩ := neg_natCast_ediv_emod q r hr
  interval_cases md
  · simp only [intRounded, hneg, hmod, roundUp_zero]
    split_ifs <;> omega
  · simp only [intRounded, Int.neg_tdiv, Int.tdiv_eq_ediv_of_nonneg (Int.natCast_nonneg _), hdiv, roundUp]
    rfl
  · simp only [intRounded, hneg, roundUp_two, true_and]
    split_ifs <;> omega
  · simp only [intRounded, neg_neg, hdiv, roundUp_three]
    rfl

end

/-- A value z / one rounded by magnitude is the signed integer, with whether it is exact. -/
theorem roundInt_signed {md : ℕ} (hmd : md ≤ 3) {neg : Bool} {m d : ℕ} {e z : ℤ} (hd : 0 < d) (h : (m : ℚ) * 2 ^ e = |(z : ℚ)| / d)
    (hneg : z ≠ 0 → neg = decide (z < 0)) :
    (if neg then -((roundInt md neg m e).1 : ℤ) else ((roundInt md neg m e).1 : ℤ)) = intRounded md z d ∧
      ((roundInt md neg m e).2 = true ↔ intRounded md z d * d ≠ z) := by
  have habs : |(z : ℚ)| = (z.natAbs : ℕ) := by rw [Nat.cast_natAbs, Int.cast_abs]
  have hd' : (d : ℚ) ≠ 0 := by exact_mod_cast hd.ne'
  rw [habs] at h
  have hfloor := roundInt_eq_floor hmd (neg := neg) hd h
  obtain ⟨-, hinex⟩ := roundInt_picks hmd neg m e
  have hr : z.natAbs % d < d := Nat.mod_lt _ hd
  have hdm : z.natAbs / d * d + z.natAbs % d = z.natAbs := Nat.div_add_mod' _ _
  have hmain : (if neg then -((roundInt md neg m e).1 : ℤ) else ((roundInt md neg m e).1 : ℤ)) = intRounded md z d := by
    rw [hfloor]
    have hpos := intRounded_natCast (z.natAbs / d) (z.natAbs % d) hr hmd
    have hnegative := intRounded_neg (z.natAbs / d) (z.natAbs % d) hr hmd
    rw [hdm] at hpos hnegative
    rcases lt_trichotomy z 0 with hz | hz | hz
    · rw [hneg hz.ne, decide_eq_true hz, if_pos rfl, ← hnegative]
      congr 1; omega
    · subst hz
      rw [Int.natAbs_zero, Nat.zero_div, Nat.zero_mod, Nat.mul_zero, roundUp_exact, if_neg Bool.false_ne_true] at hpos
      rw [Int.natAbs_zero, Nat.zero_div, Nat.zero_mod, Nat.mul_zero, roundUp_exact, if_neg Bool.false_ne_true]
      exact (by simp : _ = ((0 : ℕ) : ℤ)).trans hpos.symm
    · rw [hneg hz.ne', decide_eq_false hz.not_gt, if_neg Bool.false_ne_true, ← hpos]
      congr 1; omega
  refine ⟨hmain, ?_⟩
  rw [hinex, h, ← hmain, Ne, Ne, eq_div_iff hd', not_iff_not]
  generalize (roundInt md neg m e).1 = k
  have hnat : (k : ℚ) * d = (z.natAbs : ℕ) ↔ k * d = z.natAbs := by exact_mod_cast Iff.rfl
  have hint : k * d = z.natAbs ↔ (k : ℤ) * d = |z| := by rw [← Int.natCast_natAbs]; exact_mod_cast Iff.rfl
  rw [hnat, hint]
  rcases lt_trichotomy z 0 with hz | hz | hz
  · rw [hneg hz.ne, decide_eq_true hz, if_pos rfl, abs_of_neg hz, neg_mul]
    constructor <;> intro <;> linarith
  · subst hz
    cases neg <;> simp
  · rw [hneg hz.ne', decide_eq_false hz.not_gt, if_neg Bool.false_ne_true, abs_of_pos hz]

end Sys2Proof.Machine
end


section
/-!
SUPPORT (O24). FRND, CVT to integers, and the conversions between float formats on one value (R210, R215, R217, R220).
-/
namespace Sys2Proof.Machine

theorem FFmt.Reads.eq_nan {f : FFmt} {b : ℕ} {v : FVal} (h : f.Reads b v) (hb : f.isNan b = true) : v = .nan (f.isSnan b) := by
  obtain ⟨q, rfl⟩ := FVal.eq_nan_of_isNan (h.isNan.trans hb)
  rw [← h.isSnan]
  rfl

theorem FFmt.Reads.eq_inf {f : FFmt} {b : ℕ} {v : FVal} (h : f.Reads b v) (hb : f.isInf b = true) : v = .inf (f.neg b) := by
  have hinf := h.isInf.trans hb
  cases v with
  | nan s => cases hinf
  | fin s m e => cases hinf
  | inf s => exact congrArg FVal.inf (h.sign (FFmt.isNan_of_isInf hb))

theorem flagIf_eq (b : Bool) (fl : Flags) : flagIf b fl = if b = true then fl else 0 := rfl

/-! ### FRND -/

/-- A number of at most 24 bits times a power of two no larger than the largest finite value, as an FP32 value. -/
theorem roundF_natCast (neg : Bool) {c E : ℕ} (hc : c ≤ 2 ^ 24) (hle : ((c * 2 ^ E : ℕ) : ℚ) * 2 ^ 149 ≤ fp32.scale (fp32.infBits - 1)) :
    ∃ n < fp32.infBits, (fp32.magUnits n : ℤ) = (c * 2 ^ E : ℕ) * 2 ^ 149 ∧ roundF fp32 0 false (.fin neg (c * 2 ^ E) 0) = (fp32.signBit neg + n, 0) := by
  obtain ⟨n, hn⟩ := fp32.exists_scale (E + 149) c hc
  have hval : fp32.scale n = ((c * 2 ^ E : ℕ) : ℚ) * 2 ^ 149 := by rw [hn, pow_add]; push_cast; ring
  have hlt : n < fp32.infBits := by
    have := (fp32.scale_strictMono.le_iff_le).mp (hval.trans_le hle)
    have := FFmt.infBits_pos fp32_shaped
    omega
  have hunit : fp32.unit * 2 ^ 149 = 1 := fp32.unit_mul_two_pow
  refine ⟨n, hlt, ?_, roundF_exact fp32_shaped (Nat.zero_le _) neg hlt ?_⟩
  · rw [FFmt.scale] at hval
    exact_mod_cast hval
  · rw [hval, zpow_zero]
    linear_combination (-((c * 2 ^ E : ℕ) : ℚ)) * hunit

theorem two_pow_le_scale_top : (2 : ℚ) ^ 173 ≤ fp32.scale (fp32.infBits - 1) := by
  rw [FFmt.scale, ← Int.cast_natCast, FFmt.magUnits_infBits_sub_one fp32_shaped]
  exact_mod_cast (by decide : (2 : ℤ) ^ 173 ≤ fp32.maxUnits)

/-- An FP32 value rounded to an integer is an FP32 value again. -/
theorem roundInt_natCast {md : ℕ} (hmd : md ≤ 3) (neg : Bool) {m : ℕ} {e : ℤ} (hm : m < 2 ^ 24)
    (hle : (m : ℚ) * 2 ^ e * 2 ^ 149 ≤ fp32.scale (fp32.infBits - 1)) :
    ∃ c E : ℕ, c ≤ 2 ^ 24 ∧ (roundInt md neg m e).1 = c * 2 ^ E ∧ ((c * 2 ^ E : ℕ) : ℚ) * 2 ^ 149 ≤ fp32.scale (fp32.infBits - 1) := by
  obtain ⟨hpick, -⟩ := roundInt_picks hmd neg m e
  rcases lt_or_ge e 0 with he | he
  · have hx : (m : ℚ) * 2 ^ e ≤ m := mul_le_of_le_one_right (Nat.cast_nonneg m) (zpow_le_one_of_nonpos₀ one_le_two he.le)
    have hk : (roundInt md neg m e).1 ≤ m := by
      by_contra hlt
      exact absurd ((hpick.1 m (not_le.mp hlt)).lt (natCast_strictMono m.lt_succ_self)) (not_lt.mpr hx)
    refine ⟨(roundInt md neg m e).1, 0, hk.trans hm.le, by rw [pow_zero, Nat.mul_one], le_trans ?_ two_pow_le_scale_top⟩
    have hk' : ((roundInt md neg m e).1 : ℚ) ≤ 2 ^ 24 := by exact_mod_cast hk.trans hm.le
    rw [pow_zero, Nat.mul_one, show (2 : ℚ) ^ 173 = 2 ^ 24 * 2 ^ 149 by rw [← pow_add]]
    exact mul_le_mul_of_nonneg_right hk' (by positivity)
  · have hval : (m : ℚ) * 2 ^ e = ((m * 2 ^ e.toNat : ℕ) : ℚ) := by
      have h := two_zpow_toNat he
      rw [sub_zero, zpow_zero, mul_one] at h
      rw [Nat.cast_mul, h]
    rw [hval] at hpick hle
    exact ⟨m, e.toNat, hm.le, hpick.unique natCast_strictMono (picks_self natCast_strictMono), hle⟩

theorem fp32_asRead_lt (ftz : Bool) (a : Word) : fp32.asRead ftz a.toNat < 2 ^ fp32.width := by
  unfold FFmt.asRead
  split
  · exact fp32.signBit_add_lt (n := 0) _ (Nat.zero_le _)
  · exact a.isLt

theorem abs_f32Units_le {a : ℕ} (ha : f32Finite a = true) : |(f32Units a : ℚ)| ≤ fp32.scale (fp32.infBits - 1) := by
  have hfin : fp32.mag a < fp32.infBits := of_decide_eq_true ha
  rw [f32Units, ← Int.cast_abs, fp32.abs_units, Int.cast_natCast]
  exact fp32.scale_strictMono.monotone (Nat.le_sub_one_of_lt hfin)

/-- FRND in the statement's words (R210). -/
theorem frnd_integral {md : ℕ} (hmd : md ≤ 3) (ftz : Bool) (v : DWord) :
    let a := fp32.asRead ftz v.lo.toNat
    let r := frndF md (fel 8 ftz v 0)
    (fp32.isNan a = true → r.1 = 0x7FC00000 ∧ r.2 = if fp32.isSnan a then flNV else 0) ∧ (fp32.isInf a = true → r.1 = a ∧ r.2 = 0) ∧
      (f32Finite a = true → r.2 = 0 ∧ r.1 < 2 ^ 32 ∧ f32Finite r.1 = true ∧ fp32.neg r.1 = fp32.neg a ∧
        f32Units r.1 = 2 ^ 149 * intRounded md (f32Units a) (2 ^ 149)) := by
  intro a r
  have hread : fp32.Reads a (fel 8 ftz v 0) := fel8_reads ftz v
  refine ⟨fun hn => ?_, fun hi => ?_, fun hf => ?_⟩
  · have hr : r = nanRes fp32 (.nan (fp32.isSnan a)) := by show frndF md _ = _; rw [hread.eq_nan hn]; rfl
    rw [hr]
    exact ⟨rfl, rfl⟩
  · have hr : r = (fp32.signBit (fp32.neg a) + fp32.infBits, 0) := by show frndF md _ = _; rw [hread.eq_inf hi]; rfl
    rw [hr, ← beq_iff_eq.mp hi]
    exact ⟨fp32.signBit_add_mag (fp32_asRead_lt ftz v.lo), rfl⟩
  · obtain ⟨m, e, hx, hmlt, hm, -⟩ := fel8_finite hf
    have hunit : fp32.unit * 2 ^ 149 = 1 := fp32.unit_mul_two_pow
    have hval : (m : ℚ) * 2 ^ e * 2 ^ 149 = |(f32Units a : ℚ)| := by rw [hm, mul_assoc, hunit, mul_one]
    have hle : (m : ℚ) * 2 ^ e * 2 ^ 149 ≤ fp32.scale (fp32.infBits - 1) := hval.trans_le (abs_f32Units_le hf)
    have hdiv : (m : ℚ) * 2 ^ e = |(f32Units a : ℚ)| / (2 ^ 149 : ℕ) := by rw [eq_div_iff (by positivity), Nat.cast_pow, Nat.cast_ofNat, hval]
    obtain ⟨c, E, hc, hk, hle'⟩ := roundInt_natCast hmd (fp32.neg a) hmlt hle
    obtain ⟨n, hn, hunits, hround⟩ := roundF_natCast (fp32.neg a) hc hle'
    obtain ⟨hsigned, -⟩ := roundInt_signed hmd (Nat.two_pow_pos 149) hdiv (FFmt.neg_of_units_ne_zero (f := fp32) (b := a))
    have hr : r = (fp32.signBit (fp32.neg a) + n, 0) := by
      show frndF md _ = _
      rw [hx]
      show ((roundF fp32 0 false (.fin _ (roundInt md _ m e).1 0)).1, 0) = _
      rw [hk, hround]
    rw [hr]
    refine ⟨rfl, fp32.signBit_add_lt _ hn.le, fp32.finite_signBit_add _ hn, FFmt.neg_signBit_add (hn.trans fp32.infBits_lt), ?_⟩
    rw [f32Units, fp32.units_signBit_add _ (hn.trans fp32.infBits_lt), hunits, ← hk]
    rw [Nat.cast_pow, Nat.cast_ofNat] at hsigned
    rw [← hsigned]
    split <;> ring

/-! ### CVT to an integer -/

theorem cvtToInt_fin {dt md : ℕ} {s : Bool} {m : ℕ} {e y : ℤ} (hy : (if s then -((roundInt md s m e).1 : ℤ) else ((roundInt md s m e).1 : ℤ)) = y) :
    cvtToInt dt md (.fin s m e) =
      if y < loT dt then (loT dt, flNV) else if hiT dt < y then (hiT dt, flNV) else (y, flagIf (roundInt md s m e).2 flNX) := by
  subst hy
  rfl

/-- CVT to an integer in the statement's words (R215). -/
theorem cvtToInt_saturated {md : ℕ} (hmd : md ≤ 3) (ftz : Bool) (dt : ℕ) (v : DWord) :
    let a := fp32.asRead ftz v.lo.toNat
    let r := cvtToInt dt md (fel 8 ftz v 0)
    (fp32.isNan a = true → r.1 = 0 ∧ r.2 = flNV) ∧ (fp32.isInf a = true → r.1 = (if fp32.neg a then loT dt else hiT dt) ∧ r.2 = flNV) ∧
      (f32Finite a = true →
        let y := intRounded md (f32Units a) (2 ^ 149)
        r.1 = (if y < loT dt then loT dt else if hiT dt < y then hiT dt else y) ∧
          r.2 = if y < loT dt ∨ hiT dt < y then flNV else if y * 2 ^ 149 = f32Units a then 0 else flNX) := by
  intro a r
  have hread : fp32.Reads a (fel 8 ftz v 0) := fel8_reads ftz v
  refine ⟨fun hn => ?_, fun hi => ?_, fun hf => ?_⟩
  · have hr : r = (0, flNV) := by show cvtToInt dt md _ = _; rw [hread.eq_nan hn]; rfl
    rw [hr]
    exact ⟨rfl, rfl⟩
  · have hr : r = (if fp32.neg a then loT dt else hiT dt, flNV) := by show cvtToInt dt md _ = _; rw [hread.eq_inf hi]; rfl
    rw [hr]
    exact ⟨rfl, rfl⟩
  · obtain ⟨m, e, hx, -, hm, -⟩ := fel8_finite hf
    have hunit : fp32.unit * 2 ^ 149 = 1 := fp32.unit_mul_two_pow
    have hdiv : (m : ℚ) * 2 ^ e = |(f32Units a : ℚ)| / (2 ^ 149 : ℕ) := by
      rw [eq_div_iff (by positivity), Nat.cast_pow, Nat.cast_ofNat, hm, mul_assoc, hunit, mul_one]
    obtain ⟨hsigned, hinex⟩ := roundInt_signed hmd (Nat.two_pow_pos 149) hdiv (FFmt.neg_of_units_ne_zero (f := fp32) (b := a))
    rw [Nat.cast_pow, Nat.cast_ofNat] at hsigned hinex
    intro y
    have hr : r = if y < loT dt then (loT dt, flNV) else if hiT dt < y then (hiT dt, flNV) else (y, flagIf (roundInt md (fp32.neg a) m e).2 flNX) := by
      show cvtToInt dt md _ = _
      rw [hx, cvtToInt_fin hsigned]
    have hfl : flagIf (roundInt md (fp32.neg a) m e).2 flNX = if y * 2 ^ 149 = f32Units a then 0 else flNX := by
      simp only [flagIf_eq, hinex, ite_not, y]
    rw [hr, hfl]
    by_cases hlo : y < loT dt
    · simp [hlo]
    · by_cases hhi : hiT dt < y
      · simp [hlo, hhi]
      · simp [hlo, hhi]

/-! ### Between float formats -/

/-- A value converted to a format that may not hold it, in the statement's words (R215, R217). -/
theorem cvtF_narrows {g f : FFmt} (hf : f.Shaped) {md : ℕ} (hmd : md ≤ 3) (ftz : Bool) {e : ℕ} {v : FVal} (h : g.Reads e v) :
    let r := cvtF f md ftz v
    (g.isNan e = true → r.1 = f.nanBits ∧ r.2 = if g.isSnan e then flNV else 0) ∧
      (g.isInf e = true → r.1 = f.signBit (g.neg e) + f.infBits ∧ r.2 = 0) ∧
      (g.finite e = true → Rounds f ftz md (g.units e * 2 ^ f.lsb) (2 ^ g.lsb) (g.neg e) r.1 r.2) := by
  refine ⟨fun hn => ?_, fun hi => ?_, fun hfin => ?_⟩
  · rw [h.eq_nan hn]
    exact ⟨rfl, rfl⟩
  · rw [h.eq_inf hi]
    exact ⟨rfl, rfl⟩
  · obtain ⟨m, x, hv, hval⟩ := h.fin hfin
    rw [hv]
    refine roundF_rounds hf hmd (Nat.two_pow_pos _) ?_ fun _ => rfl
    rw [hval]
    push_cast
    linear_combination (g.units e : ℚ) * g.unit_mul_two_pow - (g.units e : ℚ) * f.unit_mul_two_pow

/-- The finite values of a format are FP32 values. -/
def FFmt.Narrow (g : FFmt) : Prop :=
  g.Shaped ∧ g.mb ≤ 23 ∧ g.lsb ≤ 149 ∧ g.maxUnits * 2 ^ (149 - g.lsb) ≤ fp32.maxUnits

theorem fp16_narrow : fp16.Narrow := ⟨fp16_shaped, by decide, by decide, by decide⟩
theorem bf16_narrow : bf16.Narrow := ⟨bf16_shaped, by decide, by decide, by decide⟩

/-- A value of such a format, in units of FP32. -/
theorem FFmt.Narrow.scale {g : FFmt} (hg : g.Narrow) {j : ℕ} (hj : j < g.infBits) :
    ∃ n < fp32.infBits, (fp32.magUnits n : ℤ) = g.magUnits j * 2 ^ (149 - g.lsb) := by
  obtain ⟨hshape, hmb, hlsb, htop⟩ := hg
  obtain ⟨E, k, hjk, hlow, hk⟩ := g.exists_block j
  obtain ⟨n, hn⟩ := fp32.exists_scale (E + (149 - g.lsb)) k (hk.le.trans (Nat.pow_le_pow_right two_pos (Nat.succ_le_succ hmb)))
  have hval : (fp32.magUnits n : ℤ) = g.magUnits j * 2 ^ (149 - g.lsb) := by
    rw [hjk, g.magUnits_block hlow hk.le]
    rw [FFmt.scale, pow_add, ← mul_assoc] at hn
    exact_mod_cast hn
  refine ⟨n, ?_, hval⟩
  have hmax : (g.magUnits j : ℤ) ≤ g.maxUnits := by
    rw [← FFmt.magUnits_infBits_sub_one hshape]
    exact_mod_cast g.magUnits_strictMono.monotone (Nat.le_sub_one_of_lt hj)
  have hle : (fp32.magUnits n : ℤ) ≤ fp32.magUnits (fp32.infBits - 1) := by
    rw [hval, FFmt.magUnits_infBits_sub_one fp32_shaped]
    exact (mul_le_mul_of_nonneg_right hmax (by positivity)).trans htop
  have hle' := fp32.magUnits_strictMono.le_iff_le.mp (Int.ofNat_le.mp hle)
  have := FFmt.infBits_pos fp32_shaped
  omega

/-- A value converted to FP32 from a format that it holds, in the statement's words (R215, R220). -/
theorem cvtF_wides {g : FFmt} (hg : g.Narrow) {e : ℕ} {v : FVal} (h : g.Reads e v) :
    let r := cvtF fp32 0 false v
    (g.isNan e = true → r.1 = 0x7FC00000 ∧ r.2 = if g.isSnan e then flNV else 0) ∧
      (g.isInf e = true → r.1 = fp32.signBit (g.neg e) + 0x7F800000 ∧ r.2 = 0) ∧
      (g.finite e = true → r.1 < 2 ^ 32 ∧ f32Finite r.1 = true ∧ fp32.neg r.1 = g.neg e ∧ f32Units r.1 = g.units e * 2 ^ (149 - g.lsb) ∧ r.2 = 0) := by
  refine ⟨fun hn => ?_, fun hi => ?_, fun hfin => ?_⟩
  · rw [h.eq_nan hn]
    exact ⟨rfl, rfl⟩
  · rw [h.eq_inf hi]
    exact ⟨rfl, rfl⟩
  · obtain ⟨m, x, hv, hval⟩ := h.fin hfin
    obtain ⟨n, hn, hunits⟩ := hg.scale (of_decide_eq_true hfin)
    have hr : cvtF fp32 0 false (.fin (g.neg e) m x) = (fp32.signBit (g.neg e) + n, 0) := by
      refine roundF_exact fp32_shaped (Nat.zero_le _) _ hn ?_
      have habs := congrArg abs hval
      rw [FVal.rat, abs_mul, abs_of_nonneg (by positivity : (0 : ℚ) ≤ m * 2 ^ x), abs_mul, abs_of_pos g.unit_pos, ← Int.cast_abs, g.abs_units] at habs
      have hm : (m : ℚ) * 2 ^ x = (g.magUnits (g.mag e) : ℤ) * g.unit := by
        rw [← habs]
        cases g.neg e <;> simp
      have hunit : g.unit = 2 ^ (149 - g.lsb) * fp32.unit := by
        have h1 := g.unit_mul_two_pow
        have h2 : fp32.unit * 2 ^ 149 = 1 := fp32.unit_mul_two_pow
        have h3 : (2 : ℚ) ^ 149 = 2 ^ (149 - g.lsb) * 2 ^ g.lsb := by rw [← pow_add, Nat.sub_add_cancel hg.2.2.1]
        rw [h3] at h2
        have hp : (2 : ℚ) ^ g.lsb ≠ 0 := by positivity
        refine mul_right_cancel₀ hp ?_
        linear_combination h1 - h2
      rw [hm, hunit, FFmt.scale, ← Int.cast_natCast (fp32.magUnits n), hunits]
      push_cast
      ring
    rw [hv, hr]
    refine ⟨fp32.signBit_add_lt _ hn.le, fp32.finite_signBit_add _ hn, FFmt.neg_signBit_add (hn.trans fp32.infBits_lt), ?_, rfl⟩
    rw [f32Units, fp32.units_signBit_add _ (hn.trans fp32.infBits_lt), hunits, g.units_eq, mul_assoc]

end Sys2Proof.Machine
end


section
/-!
SETTLED. FRND, CVT to integers, and the conversions between float formats (O24).
-/
namespace Sys2Proof.Machine

/-- The format of a float TYPE's half, and of a kind of CVTPK and CVTUPK. -/
theorem fmtOf_half {st : ℕ} (h : st = 9 ∨ st = 10) : fmtOf st = (if st = 9 ∨ st = 0 then fp16 else bf16) ∧ (fmtOf st).Narrow := by
  rcases h with rfl | rfl
  · exact ⟨rfl, fp16_narrow⟩
  · exact ⟨rfl, bf16_narrow⟩

theorem fel_reads_of {t : ℕ} {g : FFmt} (h : fmtOf t = g) (ftz : Bool) (a : DWord) (j : ℕ) :
    g.Reads (g.asRead ftz (a.toNat / 2 ^ (g.width * j) % 2 ^ g.width)) (fel t ftz a j) := by
  subst h
  exact fel_reads t ftz a j

theorem packFmt {t : ℕ} (h : t = 0 ∨ t = 1) :
    (if t == 0 then fp16 else bf16) = (if t = 9 ∨ t = 0 then fp16 else bf16) ∧
      fmtOf (if t == 0 then 9 else 10) = (if t = 9 ∨ t = 0 then fp16 else bf16) ∧ (if t = 9 ∨ t = 0 then fp16 else bf16).Narrow := by
  rcases h with rfl | rfl
  · exact ⟨rfl, rfl, fp16_narrow⟩
  · exact ⟨rfl, rfl, bf16_narrow⟩

/-- CVT by its source and destination (R214, R215). -/
theorem cvtVal_toInt {x : LongOp} (hst : x.fn2.toNat % 16 = 8) (a : DWord) :
    let r := cvtToInt (tyOf x.fn) (fnRnd x.fn) (fel 8 (fnBit3 x.fn) a 0)
    cvtVal x a = (BitVec.ofInt 64 r.1, r.2) := by
  unfold cvtVal
  dsimp only
  rw [if_neg (by simp [hst]), if_pos (by simp [hst])]

theorem cvtVal_widen {x : LongOp} (hdt : tyOf x.fn = 8) (hst : x.fn2.toNat % 16 = 9 ∨ x.fn2.toNat % 16 = 10) (a : DWord) :
    let r := cvtF fp32 0 false (fel (x.fn2.toNat % 16) (fnBit3 x.fn) a (fnBit2 x.fn).toNat)
    cvtVal x a = (BitVec.ofNat 64 r.1, r.2) := by
  have hbit : ∀ b : Bool, (if b = true then 1 else 0) = b.toNat := by decide
  unfold cvtVal
  dsimp only
  rw [if_neg (by simp; omega), if_neg (by simp; omega), if_pos (by simp [hdt]), hbit]

theorem cvtVal_half {x : LongOp} (hdt : tyOf x.fn = 9 ∨ tyOf x.fn = 10) (hst : x.fn2.toNat % 16 = 9 ∨ x.fn2.toNat % 16 = 10) (a : DWord) :
    cvtVal x a = floatEls (tyOf x.fn) fun j => cvtF (fmtOf (tyOf x.fn)) (fnRnd x.fn) (fnBit3 x.fn) (fel (x.fn2.toNat % 16) (fnBit3 x.fn) a j) := by
  unfold cvtVal
  dsimp only
  rw [if_neg (by simp; omega), if_neg (by simp; omega), if_neg (by simp; omega)]

theorem cvtF_lt {f : FFmt} (hf : f.Shaped) (md : ℕ) (ftz : Bool) (v : FVal) : (cvtF f md ftz v).1 < 2 ^ f.width := by
  cases v with
  | nan s => exact roundF_bits_lt hf md ftz (.nan s)
  | inf s => exact roundF_bits_lt hf md ftz (.inf s)
  | fin s m e => exact roundF_bits_lt hf md ftz (.fin s m e)

/-- Two packed elements of 16 bits. -/
theorem floatEls_pair {t : ℕ} (ht : t = 9 ∨ t = 10) {g : ℕ → ℕ × Flags} (hg : ∀ j, (g j).1 < 2 ^ (fmtOf t).width) :
    floatEls t g = (BitVec.ofNat 64 ((g 0).1 + 2 ^ 16 * (g 1).1), (g 0).2 ||| (g 1).2) := by
  refine Prod.ext ?_ ?_
  · rw [floatEls_sum (.inr ht) hg]
    rcases ht with rfl | rfl <;> simp [neT, List.range_succ, fmtOf, FFmt.width, fp16, bf16, Nat.mul_comm]
  · rw [floatEls_flags]
    rcases ht with rfl | rfl <;> simp [neT, List.range_succ, orFlags]

/-- Settles O24: rounding to an integer is by magnitude what the statement says of the signed value, and a conversion rounds once or not at all. -/
theorem floatConversions : Obligations.FloatConversions := by
  have hmd := fnRnd_le
  refine ⟨fun s w x op h => ?frnd, fun s w x op h hst => ?toInt, fun i s w x op h => ⟨fun hi hdt hst => ?widen, fun hi hdt => ?half, fun hi hpk => ?pack, fun hi hpk => ?unpack⟩⟩
  case frnd =>
    obtain rfl := Option.some.inj h.aluOf_eq
    exact ⟨_, _, h.yields rfl rfl fun u => rfl, fun u => frnd_integral (hmd _) (fnBit3 x.fn) (w.src x.lit .f32 x.a u)⟩
  case toInt =>
    obtain rfl := Option.some.inj h.aluOf_eq
    have hsrc : (aluCvt x).a = .f32 := by
      show srcCvt (x.fn2.toNat % 16) = _
      rw [hst]
      rfl
    refine ⟨_, _, h.yields rfl rfl fun u => cvtVal_toInt hst _, fun u => ?_⟩
    rw [hsrc]
    exact cvtToInt_saturated (hmd _) (fnBit3 x.fn) (tyOf x.fn) (w.src x.lit .f32 x.a u)
  case widen =>
    subst hi
    obtain rfl := Option.some.inj h.aluOf_eq
    obtain ⟨hhalf, hnarrow⟩ := fmtOf_half hst
    rw [hhalf] at hnarrow
    have hsrc : (aluCvt x).a = srcF (x.fn2.toNat % 16) := if_neg (by omega)
    have hwide : (aluCvt x).wide = false := by
      show ty64 (tyOf x.fn) = false
      rw [hdt]
      rfl
    refine ⟨_, _, h.yields rfl hwide fun u => cvtVal_widen hdt hst _, fun u => ?_⟩
    rw [hsrc]
    exact cvtF_wides hnarrow (fel_reads_of hhalf _ _ _)
  case half =>
    subst hi
    obtain rfl := Option.some.inj h.aluOf_eq
    have hst : x.fn2.toNat % 16 = 9 ∨ x.fn2.toNat % 16 = 10 := by omega
    have hdt' : tyOf x.fn = 9 ∨ tyOf x.fn = 10 := by omega
    have hsrc : (aluCvt x).a = srcF (x.fn2.toNat % 16) := if_neg (by omega)
    have hwide : (aluCvt x).wide = false := by
      show ty64 (tyOf x.fn) = false
      rcases hdt' with hdt | hdt <;> rw [hdt] <;> rfl
    have hlt := fun (a : DWord) j => cvtF_lt (fmtOf_shaped (tyOf x.fn)) (fnRnd x.fn) (fnBit3 x.fn) (fel (x.fn2.toNat % 16) (fnBit3 x.fn) a j)
    let conv (u j : ℕ) := cvtF (fmtOf (tyOf x.fn)) (fnRnd x.fn) (fnBit3 x.fn) (fel (x.fn2.toNat % 16) (fnBit3 x.fn) (w.src x.lit (aluCvt x).a x.a u) j)
    refine ⟨fun u j => (conv u j).1, fun u j => (conv u j).2,
      h.yields rfl hwide fun u => (cvtVal_half hdt' hst _).trans (floatEls_pair hdt' (hlt _)), fun u j _ => ?_⟩
    show _ ∧ _ ∧ _
    dsimp only [conv]
    rw [hsrc, (fmtOf_half hdt').1]
    exact cvtF_narrows ((fmtOf_half hdt').1 ▸ fmtOf_shaped _) (hmd _) _ (fel_reads_of (fmtOf_half hst).1 _ _ _)
  case pack =>
    subst hi
    have hle : tyOf x.fn ≤ 1 := by omega
    obtain rfl := Option.some.inj ((if_pos hle).symm.trans h.aluOf_eq)
    obtain ⟨hfmt, -, hnarrow⟩ := packFmt hpk
    let conv (u j : ℕ) := cvtF (if tyOf x.fn = 9 ∨ tyOf x.fn = 0 then fp16 else bf16) (fnRnd x.fn) (fnBit3 x.fn)
      (fel 8 (fnBit3 x.fn) (w.src x.lit .f32 (if j = 0 then x.a else x.b) u) 0)
    have hres : ∀ u, (aluCvtpk x).result w x u = (BitVec.ofNat 64 ((conv u 0).1 + 2 ^ 16 * (conv u 1).1), (conv u 0).2 ||| (conv u 1).2) := fun u => by
      dsimp only [conv]
      rw [← hfmt]
      rfl
    have hread := fun (sel : Sel) u => fel_reads_of (t := 8) (g := fp32) rfl (fnBit3 x.fn) (w.src x.lit .f32 sel u) 0
    exact ⟨fun u j => (conv u j).1, fun u j => (conv u j).2, h.yields rfl rfl hres, fun u =>
      ⟨cvtF_narrows hnarrow.1 (hmd _) _ (hread x.a u), cvtF_narrows hnarrow.1 (hmd _) _ (hread x.b u)⟩⟩
  case unpack =>
    subst hi
    have hle : tyOf x.fn ≤ 1 := by omega
    obtain rfl := Option.some.inj ((if_pos hle).symm.trans h.aluOf_eq)
    obtain ⟨-, hfmt, hnarrow⟩ := packFmt hpk
    have hsrc : (aluCvtupk x).a = if tyOf x.fn = 0 then .f16 else .bf16 := by
      show srcF (if tyOf x.fn == 0 then 9 else 10) = _
      rcases hpk with h0 | h1
      · rw [h0]; rfl
      · rw [h1]; rfl
    let conv (u j : ℕ) := cvtF fp32 0 false (fel (if tyOf x.fn == 0 then 9 else 10) (fnBit3 x.fn) (w.src x.lit (aluCvtupk x).a x.a u) j)
    refine ⟨fun u j => (conv u j).1, fun u j => (conv u j).2, h.yields rfl rfl fun u => rfl, fun u j _ => ?_⟩
    dsimp only [conv]
    rw [hsrc]
    exact cvtF_wides hnarrow (fel_reads_of hfmt _ _ _)

end Sys2Proof.Machine
end


section
/-!
SUPPORT (O28). What a cross-thread instruction leaves in its destination, in lr and in the flags (R144, R162, R225, R227).
-/
namespace Sys2Proof.Machine

theorem Warp.writeDst_of_not_s (w : Warp) {d : Sel} (h : selIsS d = false) (wide : Bool) (m : Mask) (sh : Shape) (f : ℕ → DWord) :
    w.writeDst d wide m sh f = (w.writeReg d wide m sh f).writeLr m sh f := by
  cases d with
  | s n => cases h
  | _ => rfl

/-- The shapes with which a register and lr are written do not matter to what they hold. -/
theorem Warp.writeReg_writeLr_holds {w : Warp} {d : Sel} {wide : Bool} {m : Mask} {sh sh' : Shape} {f : ℕ → DWord} (hd : DstOk w d wide)
    (hr : w.regsOk = true) (hs : selIsS d = false) {t : ℕ} (ht : m.getLsbD t = true) :
    ((w.writeReg d wide m sh f).writeLr m sh' f).lr.get t = (f t).lo ∧
      (d = .zr ∨ ((w.writeReg d wide m sh f).writeLr m sh' f).dst d wide t = fitted wide (f t)) := by
  refine ⟨Warp.writeLr_get _ _ _ _ ht, ?_⟩
  have hold := ((Warp.writeDst_holds (sh := sh) (f := f) hd hr).2 hs t ht).2
  rw [Warp.writeDst_of_not_s w hs] at hold
  by_cases hlr : d = .lr
  · subst hlr
    obtain rfl : wide = false := hd
    exact .inr (congrArg Word.toD (Warp.writeLr_get _ _ _ _ ht))
  · rwa [Warp.dst_writeLr _ _ _ _ _ _ _ hlr] at hold ⊢

theorem Warp.writeReg_fflags (w : Warp) (d : Sel) (wide : Bool) (m : Mask) (sh : Shape) (f : ℕ → DWord) :
    (w.writeReg d wide m sh f).fflags = w.fflags := by cases d <;> cases wide <;> rfl

theorem Warp.writeReg_id (w : Warp) (d : Sel) (wide : Bool) (m : Mask) (sh : Shape) (f : ℕ → DWord) :
    (w.writeReg d wide m sh f).id = w.id := by cases d <;> cases wide <;> rfl

theorem threadsOf_zero : threadsOf 0 = [] := by decide

variable {s : State} {w : Warp} {i : Instr} {x : LongOp} {op : Cross}

theorem CrossReady.row_ok {opc : BitVec 8} (h : CrossReady s w i x op) (hopc : i.long? = some (opc, x)) :
    (rowOf opc x.fn x.fn2).ok = true := by
  obtain ⟨opc', hopc', -, ⟨-, hlong⟩, -⟩ := h
  obtain ⟨rfl, -⟩ := Prod.mk.inj (Option.some.inj (hopc'.symm.trans hopc))
  exact (longReason_none (State.longCheck_none hlong).2).2.1

theorem CrossReady.crossOf_eq (h : CrossReady s w i x op) : crossOf i = some op := by
  obtain ⟨opc, -, hc, -⟩ := h
  exact hc

/-- The result in thread t, from the sources as the instruction reads them. -/
def Cross.value (op : Cross) (w : Warp) (x : LongOp) (m : Mask) (t : ℕ) : DWord :=
  (op.res m (w.src x.lit op.a x.a) (w.src x.lit op.b x.b) (w.src x.lit op.c x.c) t).1

/-- Without a predicate destination the warp after the instruction has its flags, the destination and lr written. -/
theorem Cross.write_eq (hd : op.hasD = true) (hp : op.pd = none) (m : Mask) :
    ∃ sh, op.write w x m = ((w.orFlags (op.flags m (w.src x.lit op.a x.a))).writeReg x.d op.wide m sh (op.value w x m)).writeLr m .general
      (op.value w x m) := by
  unfold Cross.write
  dsimp only
  rw [hp, if_pos hd]
  exact ⟨_, rfl⟩

theorem CrossReady.yields {opc : BitVec 8} (h : CrossReady s w i x op) (hopc : i.long? = some (opc, x)) (hd : op.hasD = true)
    (hp : op.pd = none) (hrow : (rowOf opc x.fn x.fn2).d = fD op.wide) {z : ℕ → DWord} {fl : ℕ → Flags}
    (hz : ∀ t, (w.active x.g).getLsbD t = true → op.value w x (w.active x.g) t = z t)
    (hfl : op.flags (w.active x.g) (w.src x.lit op.a x.a) = orFlags ((threadsOf (w.active x.g)).map fl)) :
    Yields i s w x.d (w.active x.g) op.wide z fl := by
  obtain ⟨opc', hl, hc, hiss, hregs, hshape⟩ := h
  obtain ⟨rfl, -⟩ := Prod.mk.inj (Option.some.inj (hl.symm.trans hopc))
  have hs : selIsS x.d = false := by simpa [hd] using hshape
  have hdst : DstOk w x.d op.wide := by
    have hfield := (longReason_none (State.longCheck_none hiss.2).2).1.1
    rw [hrow] at hfield
    exact dstOk_of_fine hfield
  have hwarp : s.warp? s.cur = some w := hiss.1.1
  have hexec : exec i s = if w.active x.g == 0 then .next (s.retire w (longLen x) 1)
      else .next (s.retire (op.write w x (w.active x.g)) (longLen x) (op.cycles w x (countOf (w.active x.g)))) := by
    rw [exec_of_crossOf hl hc, State.issueCross, State.issue_of_issues hiss]
    dsimp only
    rw [hshape, if_neg Bool.false_ne_true]
  by_cases hm : w.active x.g = 0
  · rw [if_pos (beq_iff_eq.mpr hm)] at hexec
    refine ⟨_, _, hexec, State.retire_self _ _ hwarp (State.warp?_id hwarp), ?_, fun hsel => absurd hsel (by simp [hs]), fun _ u hu => ?_⟩
    · rw [hm, threadsOf_zero]
      exact (Flags.or_zero _).symm
    · rw [hm] at hu
      simp at hu
  · rw [if_neg (by simpa using hm)] at hexec
    obtain ⟨sh, hwrite⟩ := op.write_eq (w := w) (x := x) hd hp (w.active x.g)
    have hid : (op.write w x (w.active x.g)).id = s.cur := by
      rw [hwrite, Warp.writeLr_id, Warp.writeReg_id, Warp.orFlags_id]
      exact State.warp?_id hwarp
    refine ⟨_, _, hexec, State.retire_self _ _ hwarp hid, ?_, fun hsel => absurd hsel (by simp [hs]), fun _ u hu => ?_⟩
    · show (op.write w x (w.active x.g)).fflags = _
      rw [hwrite, Warp.writeLr_fflags, Warp.writeReg_fflags, ← hfl]
      rfl
    · rw [← hz u hu]
      have hold := Warp.writeReg_writeLr_holds (w := w.orFlags (op.flags (w.active x.g) (w.src x.lit op.a x.a))) (sh := sh)
        (sh' := .general) (f := op.value w x (w.active x.g)) hdst hregs hs hu
      rw [← hwrite] at hold
      exact hold

end Sys2Proof.Machine
end


section
/-!
SUPPORT (O28). The running folds of REDX and SCAN, thread by thread in ascending order (R233, R235).
-/
namespace Sys2Proof.Machine

/-! ### The threads of a mask below a bound -/

section Threads
variable {m : Mask} {t u n : ℕ}

theorem mem_threadsBelow : u ∈ threadsBelow m n ↔ m.getLsbD u = true ∧ u < n := by
  rw [threadsBelow, List.mem_filter, mem_threadsOf, decide_eq_true_eq]

theorem threadsBelow_eq (hn : n ≤ 32) : threadsBelow m n = (List.range n).filter m.getLsbD := by
  have hrange : ∀ n ≤ 32, (List.range 32).filter (fun u => decide (u < n)) = List.range n := by decide
  rw [threadsBelow, threadsOf, List.filter_comm, hrange n hn]

theorem threadsBelow_all : threadsBelow m 32 = threadsOf m := threadsBelow_eq le_rfl

theorem threadsBelow_zero : threadsBelow m 0 = [] := threadsBelow_eq (Nat.zero_le _)

theorem threadsBelow_succ (ht : t < 32) : threadsBelow m (t + 1) = threadsBelow m t ++ if m.getLsbD t then [t] else [] := by
  rw [threadsBelow_eq (by omega), threadsBelow_eq (by omega), List.range_succ, List.filter_append]
  cases h : m.getLsbD t <;> simp [h]

theorem threadsBelow_succ_of_mem (ht : m.getLsbD t = true) : threadsBelow m (t + 1) = threadsBelow m t ++ [t] := by
  rw [threadsBelow_succ (BitVec.lt_of_getLsbD ht), if_pos ht]

/-- No thread lies between the last one below `n` and `n`. -/
theorem threadsBelow_last (h : (threadsBelow m n).getLast? = some u) : threadsBelow m (u + 1) = threadsBelow m n := by
  obtain ⟨l, hl⟩ := List.getLast?_eq_some_iff.mp h
  obtain ⟨-, hun⟩ := mem_threadsBelow.mp (hl ▸ List.mem_append_right l (List.mem_singleton_self u))
  have hsorted : (threadsBelow m n).Pairwise (· < ·) := (List.pairwise_lt_range.filter _).filter _
  rw [hl, List.pairwise_append] at hsorted
  refine List.filter_congr fun v hv => decide_eq_decide.mpr ⟨fun h => by omega, fun hvn => ?_⟩
  have hmem : v ∈ l ++ [u] := hl ▸ mem_threadsBelow.mpr ⟨mem_threadsOf.mp hv, hvn⟩
  rcases List.mem_append.mp hmem with hv | hv
  · have := hsorted.2.2 v hv u (List.mem_singleton_self u)
    omega
  · have := List.mem_singleton.mp hv
    omega

theorem lowestOf_eq_iff (ht : m.getLsbD t = true) : t = lowestOf m ↔ threadsBelow m t = [] := by
  have hsorted : (threadsOf m).Pairwise (· < ·) := List.pairwise_lt_range.filter _
  have hmem := mem_threadsOf.mpr ht
  have hnil : threadsBelow m t = [] ↔ ∀ u ∈ threadsOf m, ¬ u < t := by
    rw [threadsBelow, List.filter_eq_nil_iff]
    simp
  rw [hnil, lowestOf]
  cases hl : threadsOf m with
  | nil => rw [hl] at hmem; cases hmem
  | cons a l =>
    rw [hl, List.pairwise_cons] at hsorted
    rw [hl] at hmem
    show t = a ↔ _
    constructor
    · rintro rfl u hu
      rcases List.mem_cons.mp hu with rfl | hu
      · exact lt_irrefl _
      · exact (hsorted.1 u hu).asymm
    · intro hall
      rcases List.mem_cons.mp hmem with h | h
      · exact h
      · exact absurd (hsorted.1 t h) (hall a List.mem_cons_self)

end Threads

/-! ### The running folds -/

/-- The value after a thread and the flags that it raises, from the value before it, if there is one. -/
def foldNext (g : Word → Word → Word × Flags) (v : Word) : Option Word → Word × Flags
  | none => (v, 0)
  | some c => g c v

/-- The fold over a list of threads, from the value before them. -/
def foldTo (g : Word → Word → Word × Flags) (v : ℕ → Word) (l : List ℕ) (acc : Option Word) : Option Word :=
  l.foldl (fun acc u => some (foldNext g (v u) acc).1) acc

/-- The fold over the active threads below a thread. -/
def foldBelow (g : Word → Word → Word × Flags) (v : ℕ → Word) (m : Mask) (n : ℕ) : Option Word := foldTo g v (threadsBelow m n) none

section Runs
variable {op t : ℕ} {ftz : Bool} {md : ℕ} {a : ℕ → DWord} {g : Word → Word → Word × Flags} {v : ℕ → Word}

theorem foldRun_cons (u : ℕ) (us : List ℕ) (acc : Option Word) :
    foldRun op t ftz md a (u :: us) acc =
      let r := foldNext (foldStep op t ftz md) (a u).lo acc
      ((u, acc.getD 0, r.1) :: (foldRun op t ftz md a us (some r.1)).1, r.2 ||| (foldRun op t ftz md a us (some r.1)).2) := by
  cases acc <;> rfl

theorem foldRun_concat (u : ℕ) (l : List ℕ) (acc : Option Word) :
    foldRun op t ftz md a (l ++ [u]) acc =
      let before := foldTo (foldStep op t ftz md) (fun u => (a u).lo) l acc
      let r := foldNext (foldStep op t ftz md) (a u).lo before
      ((foldRun op t ftz md a l acc).1 ++ [(u, before.getD 0, r.1)], (foldRun op t ftz md a l acc).2 ||| r.2) := by
  induction l generalizing acc with
  | nil =>
    rw [List.nil_append, foldRun_cons]
    dsimp only [foldRun, foldTo, List.foldl]
    rw [Flags.or_zero, Flags.zero_or]
    rfl
  | cons b l ih =>
    rw [List.cons_append, foldRun_cons, foldRun_cons]
    dsimp only
    rw [ih]
    dsimp only [foldTo, List.foldl]
    rw [BitVec.or_assoc, List.cons_append]

variable {m : Mask} {k : ℕ}

/-- Each thread's entry holds the fold over the threads below it and the fold up to itself. -/
theorem foldRun_threadsBelow {n : ℕ} (hn : n ≤ 32) :
    foldRun op t ftz md a (threadsBelow m n) none =
      let g := foldStep op t ftz md
      let v := fun u => (a u).lo
      ((threadsBelow m n).map fun u => (u, (foldBelow g v m u).getD 0, (foldNext g (v u) (foldBelow g v m u)).1),
        orFlags ((threadsBelow m n).map fun u => (foldNext g (v u) (foldBelow g v m u)).2)) := by
  induction n with
  | zero =>
    rw [threadsBelow_zero]
    rfl
  | succ n ih =>
    rw [threadsBelow_succ hn]
    split
    · rw [foldRun_concat, ih (by omega)]
      dsimp only
      rw [List.map_append, List.map_append, orFlags_append, List.map_singleton, List.map_singleton, orFlags_cons, orFlags_nil, Flags.or_zero]
      rfl
    · rw [List.append_nil]
      exact ih (by omega)

theorem foldBelow_succ (hk : m.getLsbD k = true) : foldBelow g v m (k + 1) = some (foldNext g (v k) (foldBelow g v m k)).1 := by
  rw [foldBelow, threadsBelow_succ_of_mem hk, foldTo, List.foldl_append]
  rfl

/-- The fold of a list from its first value on, where it raises no flags (R233). -/
theorem foldTo_none {f : Word → Word → Word} (hg : ∀ c y, g c y = (f c y, 0)) (l : List ℕ) :
    foldTo g v l none = if l = [] then none else some (foldFrom f (l.map v)) := by
  have hsome (l : List ℕ) (c : Word) : foldTo g v l (some c) = some ((l.map v).foldl f c) := by
    induction l generalizing c with
    | nil => rfl
    | cons u l ih =>
      rw [List.map_cons, List.foldl_cons, ← ih]
      show foldTo g v l (some (g c (v u)).1) = _
      rw [hg]
  cases l with
  | nil => rfl
  | cons u l => exact hsome l (v u)

end Runs

end Sys2Proof.Machine
end


section
/-!
SUPPORT (O28). One step of a fold: exact on integers and bits, and on FP32 the rules of FADD, FMIN and FMAX (R233).
-/
namespace Sys2Proof.Machine

/-! ### Integers and bits -/

theorem el_signed (v : Word) : el 0 v.toNat 0 = v.toInt := by
  show sextN (bitsN v.toNat 0 32) 32 = _
  rw [show bitsN v.toNat 0 32 = v.toNat by simp [bitsN, Nat.mod_eq_of_lt v.isLt], sextN_toNat]

theorem el_unsigned (v : Word) : el 1 v.toNat 0 = v.toNat := by
  show ((bitsN v.toNat 0 32 : ℕ) : ℤ) = _
  rw [show bitsN v.toNat 0 32 = v.toNat by simp [bitsN, Nat.mod_eq_of_lt v.isLt]]

theorem el_lt_iff {t : ℕ} (ht : t = 0 ∨ t = 1) (a b : Word) :
    el t a.toNat 0 < el t b.toNat 0 ↔ (if t = 0 then a.slt b else a.ult b) = true := by
  rcases ht with rfl | rfl
  · rw [el_signed, el_signed, if_pos rfl, BitVec.slt_iff_toInt_lt]
  · rw [el_unsigned, el_unsigned, if_neg (by decide), BitVec.ult_iff_toNat_lt, Nat.cast_lt]

/-- The TYPEs of R228 for the folds whose values are no floats: integers for the sum, the least and the greatest value, bits for the others. -/
def IntFold (o t : ℕ) : Prop := (o ≤ 2 ∧ (t = 0 ∨ t = 1)) ∨ (2 < o ∧ t = 11)

variable {o t : ℕ}

theorem foldStep_int (h : IntFold o t) (ftz : Bool) (md : ℕ) (c y : Word) : foldStep o t ftz md c y = (foldOp o t c y, 0) := by
  rcases h with ⟨ho, ht⟩ | ⟨ho, -⟩
  · have h8 : (t == 8) = false := by simp; omega
    interval_cases o
    · simp only [foldStep, foldOp, h8, Bool.false_eq_true, if_false]
    · simp only [foldStep, foldOp, h8, Bool.false_eq_true, if_false, el_lt_iff ht]
    · simp only [foldStep, foldOp, h8, Bool.false_eq_true, if_false, el_lt_iff ht]
  · obtain ⟨n, rfl⟩ := Nat.exists_eq_add_of_le' ho
    rcases n with _ | _ | n <;> rfl

theorem foldIdentity_eq (h : IntFold o t) : foldIdentity o t = foldUnit o t := by
  rcases h with ⟨ho, ht⟩ | ⟨ho, -⟩
  · rcases ht with rfl | rfl <;> interval_cases o <;> decide
  · obtain ⟨n, rfl⟩ := Nat.exists_eq_add_of_le' ho
    rcases n with _ | _ | n <;> rfl

theorem foldOk_iff {fn : BitVec 8} (h : foldOk fn o = true) : (tyOf fn = 8 ∧ o ≤ 2) ∨ (tyOf fn ≠ 8 ∧ IntFold o (tyOf fn)) := by
  unfold IntFold
  simp only [foldOk, Bool.and_eq_true] at h
  obtain ⟨⟨⟨-, hty⟩, -⟩, -⟩ := h
  split at hty
  · simp only [Bool.or_eq_true, beq_iff_eq] at hty
    omega
  · simp only [Bool.and_eq_true, beq_iff_eq, decide_eq_true_eq] at hty
    omega

theorem foldOk_le {fn : BitVec 8} (h : foldOk fn o = true) : o ≤ 5 := by
  simp only [foldOk, Bool.and_eq_true] at h
  obtain ⟨⟨⟨-, hty⟩, -⟩, -⟩ := h
  split at hty
  · omega
  · simp only [Bool.and_eq_true, decide_eq_true_eq] at hty
    exact hty.1

/-! ### FP32 -/

section Float
variable (ftz : Bool) (md : ℕ) (c y : Word)

/-- The operands as `.ftz` reads them. -/
theorem fp32_unpackF_reads : fp32.Reads (fp32.asRead ftz c.toNat) (unpackF fp32 ftz c.toNat) := unpackF_asRead_reads fp32_shaped ftz _

theorem toNat_ofNat_fp32 {n : ℕ} (h : n < 2 ^ fp32.width) : (BitVec.ofNat 32 n).toNat = n := by
  rw [BitVec.toNat_ofNat]
  exact Nat.mod_eq_of_lt h

theorem FFmt.signBit_add_infBits {f : FFmt} {a : ℕ} (ha : a < 2 ^ f.width) (hi : f.isInf a = true) : f.signBit (f.neg a) + f.infBits = a := by
  rw [← beq_iff_eq.mp hi, f.signBit_add_mag ha]

theorem quiet_of_not_nan {f : FFmt} {a b : ℕ} (h : (f.isNan a || f.isNan b) = false) : (f.isSnan a || f.isSnan b) = false := by
  obtain ⟨ha, hb⟩ := Bool.or_eq_false_iff.mp h
  rw [FFmt.isSnan, FFmt.isSnan, ha, hb]
  rfl

theorem minmaxF_asRead {f : FFmt} (hf : f.Shaped) (ftz isMax : Bool) (a b : ℕ) :
    minmaxF f ftz false isMax a b = minmaxF f false false isMax (f.asRead ftz a) (f.asRead ftz b) := by
  rw [minmaxF, unpackF_asRead hf ftz a, unpackF_asRead hf ftz b]
  rfl

theorem minmaxF_flags (f : FFmt) (ftz nanMode isMax : Bool) (a b : ℕ) :
    (minmaxF f ftz nanMode isMax a b).2 = nvOf (unpackF f ftz a) (unpackF f ftz b) := by
  unfold minmaxF
  dsimp only
  split_ifs <;> rfl

theorem foldStep_sum_eq :
    (foldStep 0 8 ftz md c y).1.toNat = (fp32.rounded md ftz (addF md (unpackF fp32 ftz c.toNat) (unpackF fp32 ftz y.toNat))).1 ∧
    (foldStep 0 8 ftz md c y).2 = (fp32.rounded md ftz (addF md (unpackF fp32 ftz c.toNat) (unpackF fp32 ftz y.toNat))).2 :=
  ⟨toNat_ofNat_fp32 (roundF_bits_lt fp32_shaped md ftz _), rfl⟩

/-- An FP32 sum is rounded once, and NaNs and infinities follow R159. -/
def SumStep (ftz : Bool) (md a b r : ℕ) (fl : Flags) : Prop :=
  let nan := fp32.isNan a || fp32.isNan b
  let snan := fp32.isSnan a || fp32.isSnan b
  let opp := fp32.isInf a && fp32.isInf b && fp32.neg a != fp32.neg b
  (fp32.finite a = true → fp32.finite b = true →
    Rounds fp32 ftz md (fp32.units a + fp32.units b) 1 (zeroSign md (fp32.neg a) (fp32.neg b)) r fl) ∧
  ((nan || opp) = true → r = 0x7FC00000 ∧ fl = if snan || opp then flNV else 0) ∧
  ((nan || opp) = false → (fp32.isInf a = true → r = a ∧ fl = 0) ∧ (fp32.isInf b = true → r = b ∧ fl = 0))

/-- The lesser or the greater of two FP32 values is that of FMIN and FMAX. -/
def MinMaxStep (isMax : Bool) (a b r : ℕ) (fl : Flags) : Prop :=
  r = (if fp32.isNan a && fp32.isNan b then 0x7FC00000 else if fp32.isNan a then b else if fp32.isNan b then a
    else if decide (fp32.place a < fp32.place b) == !isMax then a else b) ∧
  fl = if fp32.isSnan a || fp32.isSnan b then flNV else 0

variable {md} in
theorem foldStep_sum (hmd : md ≤ 3) :
    SumStep ftz md (fp32.asRead ftz c.toNat) (fp32.asRead ftz y.toNat) (foldStep 0 8 ftz md c y).1.toNat (foldStep 0 8 ftz md c y).2 := by
  obtain ⟨hr, hfl⟩ := foldStep_sum_eq ftz md c y
  have hc := fp32_unpackF_reads ftz c
  have hy := fp32_unpackF_reads ftz y
  have ha_lt := fp32_asRead_lt ftz c
  have hb_lt := fp32_asRead_lt ftz y
  rw [hr, hfl]
  generalize fp32.asRead ftz c.toNat = a at *
  generalize fp32.asRead ftz y.toNat = b at *
  have hspecial := addF_special_of hc.is hy.is md
  refine ⟨fun ha hb => add_rounds fp32_shaped hmd ftz hc hy ha hb, fun hnan => ⟨?_, ?_⟩, fun hnan => ?_⟩
  · exact (hspecial.rounded_nan fp32_shaped md ftz).mp hnan
  · exact hspecial.rounded_flags md ftz (by rw [hnan]; rfl)
  · obtain ⟨hquiet, hopp⟩ := Bool.or_eq_false_iff.mp hnan
    have hinf (hi : (fp32.isInf a || fp32.isInf b) = true) := hspecial.rounded_inf (f := fp32) md ftz hnan hi
    have hflags (hi : (fp32.isInf a || fp32.isInf b) = true) := hspecial.rounded_flags (f := fp32) md ftz (by rw [hi, Bool.or_true])
    rw [quiet_of_not_nan hquiet, hopp] at hflags
    constructor
    · intro hi
      have hany : (fp32.isInf a || fp32.isInf b) = true := by rw [hi, Bool.true_or]
      refine ⟨(hinf hany).trans ?_, hflags hany⟩
      rw [if_pos hi, FFmt.signBit_add_infBits ha_lt hi]
    · intro hi
      have hany : (fp32.isInf a || fp32.isInf b) = true := by rw [hi, Bool.or_true]
      have hsign : (if fp32.isInf a then fp32.neg a else fp32.neg b) = fp32.neg b := by
        split
        case isTrue hia => simpa [hia, hi] using hopp
        case isFalse => rfl
      refine ⟨(hinf hany).trans ?_, hflags hany⟩
      rw [hsign, FFmt.signBit_add_infBits hb_lt hi]

theorem foldStep_minmax (isMax : Bool) :
    MinMaxStep isMax (fp32.asRead ftz c.toNat) (fp32.asRead ftz y.toNat) (foldStep (if isMax then 2 else 1) 8 ftz md c y).1.toNat
      (foldStep (if isMax then 2 else 1) 8 ftz md c y).2 := by
  have hstep : foldStep (if isMax then 2 else 1) 8 ftz md c y =
      (BitVec.ofNat 32 (minmaxF fp32 ftz false isMax c.toNat y.toNat).1, (minmaxF fp32 ftz false isMax c.toNat y.toNat).2) := by
    cases isMax <;> rfl
  have hresult := minmaxF_eq fp32_shaped isMax (fp32_asRead_lt ftz c) (fp32_asRead_lt ftz y)
  rw [← minmaxF_asRead fp32_shaped] at hresult
  rw [hstep]
  refine ⟨(toNat_ofNat_fp32 ?_).trans hresult, ?_⟩
  · rw [hresult]
    have hc := fp32_asRead_lt ftz c
    have hy := fp32_asRead_lt ftz y
    split_ifs
    · decide
    all_goals assumption
  · rw [minmaxF_flags, nvOf, (fp32_unpackF_reads ftz c).isSnan, (fp32_unpackF_reads ftz y).isSnan]
    rfl

end Float

end Sys2Proof.Machine
end


section
/-!
SUPPORT (O28). The results of REDX and SCAN by their running folds (R233, R235), and the best pair of REDXI (R234).
-/
namespace Sys2Proof.Machine

/-! ### REDX and SCAN -/

theorem foldRun_threadsOf (op t : ℕ) (ftz : Bool) (md : ℕ) (a : ℕ → DWord) (m : Mask) :
    foldRun op t ftz md a (threadsOf m) none =
      let g := foldStep op t ftz md
      let v := fun u => (a u).lo
      ((threadsOf m).map fun u => (u, (foldBelow g v m u).getD 0, (foldNext g (v u) (foldBelow g v m u)).1),
        orFlags ((threadsOf m).map fun u => (foldNext g (v u) (foldBelow g v m u)).2)) := by
  rw [← threadsBelow_all]
  exact foldRun_threadsBelow le_rfl

/-- The first entry that names a thread of the list is that thread's own. -/
theorem find?_map_mk {α : Type} (F : ℕ → α) {l : List ℕ} {t : ℕ} (h : t ∈ l) :
    (l.map fun u => (u, F u)).find? (fun e => e.1 == t) = some (t, F t) := by
  induction l with
  | nil => cases h
  | cons u l ih =>
    rw [List.map_cons, List.find?_cons]
    cases hu : u == t with
    | true => rw [beq_iff_eq.mp hu]
    | false =>
      have hne : t ≠ u := fun e => by simp [e] at hu
      exact ih ((List.mem_cons.mp h).resolve_left hne)

section Folds
variable {w : Warp} {x : LongOp} {m : Mask}

/-- The step of the fold that REDX and SCAN name. -/
def foldStepOf (x : LongOp) (o : ℕ) : Word → Word → Word × Flags := foldStep o (tyOf x.fn) (fnBit3 x.fn) (fnRnd x.fn)

/-- A thread's value of the source of a fold. -/
def Warp.folded (w : Warp) (x : LongOp) (t : ℕ) : Word := (w.src x.lit (srcFold (tyOf x.fn)) x.a t).lo

/-- A thread's fold up to itself, with the flags of its step. -/
def Warp.foldAt (w : Warp) (x : LongOp) (o : ℕ) (m : Mask) (t : ℕ) : Word × Flags :=
  foldNext (foldStepOf x o) (w.folded x t) (foldBelow (foldStepOf x o) (w.folded x) m t)

theorem Warp.foldAt_first (o : ℕ) {t : ℕ} (h : threadsBelow m t = []) : w.foldAt x o m t = (w.folded x t, 0) := by
  rw [Warp.foldAt, foldBelow, h]
  rfl

/-- The fold over the threads below one that is not the first is that of the last of them. -/
theorem Warp.foldBelow_last (o : ℕ) {t u : ℕ} (h : (threadsBelow m t).getLast? = some u) :
    foldBelow (foldStepOf x o) (w.folded x) m t = some (w.foldAt x o m u).1 := by
  have hu := (mem_threadsBelow.mp (List.mem_of_getLast? h)).1
  have hsame : foldBelow (foldStepOf x o) (w.folded x) m t = foldBelow (foldStepOf x o) (w.folded x) m (u + 1) := by
    rw [foldBelow, foldBelow, threadsBelow_last h]
  rw [hsame, foldBelow_succ hu]
  rfl

theorem Warp.foldAt_next (o : ℕ) {t u : ℕ} (h : (threadsBelow m t).getLast? = some u) :
    w.foldAt x o m t = foldStepOf x o (w.foldAt x o m u).1 (w.folded x t) := by
  rw [Warp.foldAt, Warp.foldBelow_last o h]
  rfl

theorem redx_value (t : ℕ) : (crossRedx x).value w x m t =
    Word.toD (((threadsOf m).getLast?.map fun u => (w.foldAt x x.fn2.toNat m u).1).getD 0) := by
  simp only [Cross.value, crossRedx, foldRun_threadsOf, List.getLast?_map, Option.map_map]
  rfl

theorem redx_flags : (crossRedx x).flags m (w.src x.lit (crossRedx x).a x.a) =
    orFlags ((threadsOf m).map fun u => (w.foldAt x x.fn2.toNat m u).2) := by
  simp only [crossRedx, foldRun_threadsOf]
  rfl

theorem scan_value {t : ℕ} (ht : m.getLsbD t = true) : (crossScan x).value w x m t =
    let o := x.fn2.toNat % 8
    Word.toD (if x.fn2.getLsbD 3 then
      if threadsBelow m t = [] then foldIdentity o (tyOf x.fn) else (foldBelow (foldStepOf x o) (w.folded x) m t).getD 0
      else (w.foldAt x o m t).1) := by
  simp only [Cross.value, crossScan, foldRun_threadsOf, find?_map_mk _ (mem_threadsOf.mpr ht), beq_iff_eq, lowestOf_eq_iff ht]
  rfl

theorem scan_flags : (crossScan x).flags m (w.src x.lit (crossScan x).a x.a) =
    orFlags ((threadsOf m).map fun u => (w.foldAt x (x.fn2.toNat % 8) m u).2) := by
  simp only [crossScan, foldRun_threadsOf]
  rfl

end Folds

/-! ### The best pair -/

/-- The best of the offers 0 to n. -/
def bestOffer {α : Type} (beats : α → α → Bool) (offer : ℕ → α) (n : ℕ) : α :=
  (List.range n).foldl (fun acc u => if beats (offer (u + 1)) acc then offer (u + 1) else acc) (offer 0)

theorem bestOffer_succ {α : Type} (beats : α → α → Bool) (offer : ℕ → α) (n : ℕ) :
    bestOffer beats offer (n + 1) = if beats (offer (n + 1)) (bestOffer beats offer n) then offer (n + 1) else bestOffer beats offer n := by
  rw [bestOffer, List.range_succ, List.foldl_append]
  rfl

section Best
variable {α : Type} {beats : α → α → Bool} {offer : ℕ → α}

theorem bestOffer_mem (n : ℕ) : ∃ t, t < n + 1 ∧ offer t = bestOffer beats offer n := by
  induction n with
  | zero => exact ⟨0, Nat.one_pos, rfl⟩
  | succ n ih =>
    rw [bestOffer_succ]
    split
    · exact ⟨n + 1, Nat.lt_succ_self _, rfl⟩
    · obtain ⟨t, ht, he⟩ := ih
      exact ⟨t, ht.trans (Nat.lt_succ_self _), he⟩

/-- No offer beats the best one, where beating is a strict order. -/
theorem bestOffer_unbeaten (hirrefl : ∀ p, beats p p = false) (htrans : ∀ p q r, beats r p = true → beats q p = false → beats q r = false) (n : ℕ) :
    ∀ t < n + 1, beats (offer t) (bestOffer beats offer n) = false := by
  induction n with
  | zero =>
    intro t ht
    obtain rfl := Nat.lt_one_iff.mp ht
    exact hirrefl _
  | succ n ih =>
    intro t ht
    rw [bestOffer_succ]
    rcases Nat.lt_succ_iff_lt_or_eq.mp ht with hlt | rfl
    · split
      case isTrue hnew => exact htrans _ _ _ hnew (ih t hlt)
      case isFalse => exact ih t hlt
    · split
      case isTrue => exact hirrefl _
      case isFalse hold => simpa using hold

end Best

/-- A pair's value is read as its TYPE says; of equal values the smaller index is the better one. -/
theorem pairBeats_iff {isMax : Bool} {ty : ℕ} {p q : Word × Word} : pairBeats isMax ty p q = true ↔
    (el ty p.1.toNat 0 = el ty q.1.toNat 0 ∧ p.2.toNat < q.2.toNat) ∨
      (if isMax then el ty q.1.toNat 0 < el ty p.1.toNat 0 else el ty p.1.toNat 0 < el ty q.1.toNat 0) := by
  unfold pairBeats
  by_cases heq : el ty p.1.toNat 0 = el ty q.1.toNat 0
  · simp [heq]
  · cases isMax <;> simp [heq]

theorem pairBeats_irrefl (isMax : Bool) (ty : ℕ) (p : Word × Word) : pairBeats isMax ty p p = false := by
  simp [pairBeats]

theorem pairBeats_trans (isMax : Bool) (ty : ℕ) (p q r : Word × Word) (hr : pairBeats isMax ty r p = true)
    (hq : pairBeats isMax ty q p = false) : pairBeats isMax ty q r = false := by
  rw [← Bool.not_eq_true, pairBeats_iff] at *
  cases isMax
  · simp only [Bool.false_eq_true, if_false] at *
    omega
  · simp only [if_true] at *
    omega

/-- A pair that is not beaten by another: its value is no worse, and of equal values its index is no larger. -/
theorem le_of_unbeaten {isMax : Bool} {ty : ℕ} {p q : Word × Word} (h : pairBeats isMax ty q p = false) :
    (if isMax then el ty q.1.toNat 0 ≤ el ty p.1.toNat 0 else el ty p.1.toNat 0 ≤ el ty q.1.toNat 0) ∧
      (q.1 = p.1 → p.2.toNat ≤ q.2.toNat) := by
  rw [← Bool.not_eq_true, pairBeats_iff] at h
  obtain ⟨hindex, hvalue⟩ := not_or.mp h
  refine ⟨?_, fun heq => not_lt.mp fun hlt => hindex ⟨by rw [heq], hlt⟩⟩
  cases isMax
  · exact not_lt.mp hvalue
  · exact not_lt.mp hvalue

theorem pairIdentity_eq {ty : ℕ} (ht : ty = 0 ∨ ty = 1) (isMax : Bool) :
    pairIdentity isMax ty = (BitVec.ofInt 32 (if isMax then loT ty else hiT ty), 0xFFFFFFFF) := by
  rcases ht with rfl | rfl <;> cases isMax <;> decide

theorem el_eq_value {ty : ℕ} (ht : ty = 0 ∨ ty = 1) (v : Word) : el ty v.toNat 0 = if ty = 0 then v.toInt else v.toNat := by
  rcases ht with rfl | rfl
  · exact el_signed v
  · exact el_unsigned v

/-- What a thread offers to REDXI. -/
def Warp.offer (w : Warp) (x : LongOp) (m : Mask) (t : ℕ) : Word × Word :=
  if inMask m t then (w.word x x.a t, w.word x x.b t) else pairIdentity (x.fn2 == 1) (tyOf x.fn)

theorem redxi_value (w : Warp) (x : LongOp) (m : Mask) (t : ℕ) : (crossRedxi x).value w x m t =
    let best := bestOffer (pairBeats (x.fn2 == 1) (tyOf x.fn)) (w.offer x m) 31
    DWord.ofWords best.1 best.2 := rfl

end Sys2Proof.Machine
end


section
/-!
SETTLED. O28: the folds of REDX and SCAN, and the best pair of REDXI.
-/
namespace Sys2Proof.Machine

section
variable {s : State} {w : Warp} {i : Instr} {x : LongOp} {op : Cross}

/-- REDX and SCAN name a fold that their TYPE has (R228). -/
theorem CrossReady.foldOk (h : CrossReady s w i x op) (hi : i = .redx x ∨ i = .scan x) : foldOk x.fn (x.fn2.toNat % 8) = true := by
  rcases hi with rfl | rfl
  · have hok : Machine.foldOk x.fn x.fn2.toNat = true := h.row_ok (opc := 0x52) rfl
    rwa [Nat.mod_eq_of_lt (by have := foldOk_le hok; omega)]
  · have hok : (decide (x.fn2.toNat < 16) && Machine.foldOk x.fn (x.fn2.toNat % 8)) = true := h.row_ok (opc := 0x54) rfl
    exact (Bool.and_eq_true_iff.mp hok).2

theorem CrossReady.redx_op (h : CrossReady s w (.redx x) x op) : x.fn2.toNat % 8 = x.fn2.toNat := by
  have hok : Machine.foldOk x.fn x.fn2.toNat = true := h.row_ok (opc := 0x52) rfl
  have := foldOk_le hok
  omega

theorem Warp.folded_int (h : tyOf x.fn ≠ 8) : w.folded x = w.word x x.a := by
  funext t
  rw [Warp.folded, srcFold, if_neg (by simpa using h)]
  rfl

theorem Warp.folded_float (h : tyOf x.fn = 8) (t : ℕ) : w.folded x t = (w.src x.lit .f32 x.a t).lo := by
  rw [Warp.folded, h]
  rfl

section
variable {o : ℕ} (h : IntFold o (tyOf x.fn)) {m : Mask} {t : ℕ}
include h

theorem foldBelow_int (v : ℕ → Word) (n : ℕ) : foldBelow (foldStepOf x o) v m n =
    if threadsBelow m n = [] then none else some (foldFrom (foldOp o (tyOf x.fn)) ((threadsBelow m n).map v)) :=
  foldTo_none (fun c y => foldStep_int h _ _ c y) _

theorem Warp.foldAt_int (ht : m.getLsbD t = true) :
    (w.foldAt x o m t).1 = foldFrom (foldOp o (tyOf x.fn)) ((threadsBelow m (t + 1)).map (w.folded x)) := by
  have hsucc := foldBelow_succ (g := foldStepOf x o) (v := w.folded x) ht
  have hne : threadsBelow m (t + 1) ≠ [] := by simp [threadsBelow_succ_of_mem ht]
  rw [foldBelow_int h, if_neg hne] at hsucc
  exact (Option.some.inj hsucc).symm

theorem Warp.foldAt_int_flags : (w.foldAt x o m t).2 = 0 := by
  unfold Warp.foldAt
  cases foldBelow (foldStepOf x o) (w.folded x) m t with
  | none => rfl
  | some c => exact congrArg Prod.snd (foldStep_int h _ _ c _)

theorem Warp.foldAt_last_int : ((threadsOf m).getLast?.map fun u => (w.foldAt x o m u).1).getD 0 =
    foldFrom (foldOp o (tyOf x.fn)) ((threadsOf m).map (w.folded x)) := by
  cases hlast : (threadsOf m).getLast? with
  | none => rw [List.getLast?_eq_none_iff.mp hlast]; rfl
  | some u =>
    have hall : threadsBelow m (u + 1) = threadsOf m := (threadsBelow_last (n := 32) (by rwa [threadsBelow_all])).trans threadsBelow_all
    rw [← hall]
    exact Warp.foldAt_int h (mem_threadsOf.mp (List.mem_of_getLast? hlast))

end

theorem orFlags_map_zero (l : List ℕ) : orFlags (l.map fun _ => 0) = 0 := by
  induction l with
  | nil => rfl
  | cons u l ih => rw [List.map_cons, orFlags_cons, ih, Flags.zero_or]

theorem Word.toD_eq_ofNat (c : Word) : Word.toD c = BitVec.ofNat 64 c.toNat := by
  rw [BitVec.ofNat_toNat]
  rfl

section
variable {m : Mask} {t u : ℕ} (hty : tyOf x.fn = 8) (hlast : (threadsBelow m t).getLast? = some u)
include hty hlast

theorem Warp.foldAt_sum {o : ℕ} (ho : o = 0) :
    SumStep (fnBit3 x.fn) (fnRnd x.fn) (fp32.asRead (fnBit3 x.fn) (w.foldAt x o m u).1.toNat)
      (fp32.asRead (fnBit3 x.fn) (w.src x.lit .f32 x.a t).lo.toNat) (w.foldAt x o m t).1.toNat (w.foldAt x o m t).2 := by
  rw [Warp.foldAt_next _ hlast, ← Warp.folded_float hty, ho, foldStepOf, hty]
  exact foldStep_sum _ _ _ (fnRnd_le _)

theorem Warp.foldAt_minmax {o : ℕ} {isMax : Bool} (ho : o = if isMax then 2 else 1) :
    MinMaxStep isMax (fp32.asRead (fnBit3 x.fn) (w.foldAt x o m u).1.toNat)
      (fp32.asRead (fnBit3 x.fn) (w.src x.lit .f32 x.a t).lo.toNat) (w.foldAt x o m t).1.toNat (w.foldAt x o m t).2 := by
  rw [Warp.foldAt_next _ hlast, ← Warp.folded_float hty, ho, foldStepOf, hty]
  exact foldStep_minmax _ _ _ _ isMax

end

/-- The identity of a fold of FP32 values (R235). -/
theorem foldIdentity_float {o : ℕ} (ho : o ≤ 2) :
    (foldIdentity o 8).toNat = if o = 0 then 0x80000000 else if o = 1 then 0x7F800000 else 0xFF800000 := by
  interval_cases o <;> rfl

theorem CrossReady.redxi_ty (h : CrossReady s w (.redxi x) x op) : tyOf x.fn = 0 ∨ tyOf x.fn = 1 := by
  have hok : ((x.fn == 0 || x.fn == 0x10) && decide (x.fn2.toNat < 2)) = true := h.row_ok (opc := 0x53) rfl
  simp only [Bool.and_eq_true, Bool.or_eq_true, beq_iff_eq] at hok
  rcases hok.1 with hfn | hfn <;> rw [hfn] <;> decide

end

/-- Settles O28: REDX and SCAN by the running folds of the active threads, REDXI by the best of its 32 offers. -/
theorem foldsAndBestPair : Obligations.FoldsAndBestPair := by
  unfold Obligations.FoldsAndBestPair
  refine ⟨fun i s w x op h hty => ⟨fun hi => ?redx, fun hi => ?scan⟩, fun i s w x op h hty hi => ?float, fun s w x op h => ?best⟩
  case redx =>
    subst hi
    have hint := ((foldOk_iff (h.foldOk (.inl rfl))).resolve_left fun hf => hty hf.1).2
    rw [h.redx_op] at hint
    obtain rfl := Option.some.inj h.crossOf_eq
    refine h.yields rfl rfl rfl rfl (fun t _ => ?_) (redx_flags.trans ?_)
    · rw [redx_value, Warp.foldAt_last_int hint, Warp.folded_int hty]
    · simp only [Warp.foldAt_int_flags hint]
  case scan =>
    subst hi
    have hint := ((foldOk_iff (h.foldOk (.inr rfl))).resolve_left fun hf => hty hf.1).2
    obtain rfl := Option.some.inj h.crossOf_eq
    refine h.yields rfl rfl rfl rfl (fun t ht => ?_) (scan_flags.trans ?_)
    · rw [scan_value ht]
      dsimp only
      rw [Warp.foldAt_int hint ht, foldBelow_int hint, foldIdentity_eq hint, Warp.folded_int hty]
      congr 2
      split <;> rfl
    · simp only [Warp.foldAt_int_flags hint]
  case float =>
    have ho2 : x.fn2.toNat % 8 ≤ 2 := ((foldOk_iff (h.foldOk hi)).resolve_right fun hint => hint.1 hty).2
    refine ⟨fun t => (w.foldAt x (x.fn2.toNat % 8) (w.active x.g) t).1.toNat, fun t => (w.foldAt x (x.fn2.toNat % 8) (w.active x.g) t).2,
      fun t _ hfirst => ?first, fun u t _ hlast => ⟨fun ho => Warp.foldAt_sum hty hlast ho, fun ho => ?minmax⟩, fun hi => ?redxf, fun hi => ?scanf⟩
    case first =>
      dsimp only
      rw [Warp.foldAt_first _ hfirst, Warp.folded_float hty]
      exact ⟨rfl, rfl⟩
    case minmax =>
      rcases ho with ho | ho
      · have hstep := Warp.foldAt_minmax (w := w) (isMax := false) hty hlast ho
        dsimp only
        rw [ho] at hstep ⊢
        exact hstep
      · have hstep := Warp.foldAt_minmax (w := w) (isMax := true) hty hlast ho
        dsimp only
        rw [ho] at hstep ⊢
        exact hstep
    case redxf =>
      subst hi
      obtain rfl := Option.some.inj h.crossOf_eq
      rw [h.redx_op]
      refine h.yields rfl rfl rfl rfl (fun t _ => ?_) redx_flags
      rw [redx_value, Word.toD_eq_ofNat]
      cases (threadsOf (w.active x.g)).getLast? <;> rfl
    case scanf =>
      subst hi
      obtain rfl := Option.some.inj h.crossOf_eq
      refine h.yields rfl rfl rfl rfl (fun t ht => ?_) scan_flags
      rw [scan_value ht, Word.toD_eq_ofNat, hty]
      congr 1
      dsimp only
      rw [← foldIdentity_float ho2]
      split
      case isFalse => rfl
      case isTrue =>
        cases hlast : (threadsBelow (w.active x.g) t).getLast? with
        | none =>
          rw [if_pos (List.getLast?_eq_none_iff.mp hlast)]
          rfl
        | some u =>
          rw [if_neg (fun hnil => by rw [hnil] at hlast; cases hlast), Warp.foldBelow_last _ hlast]
          rfl
  case best =>
    obtain rfl := Option.some.inj h.crossOf_eq
    have hvalue := el_eq_value h.redxi_ty
    have hoffer : ∀ t, w.offer x (w.active x.g) t = if (w.active x.g).getLsbD t then (w.word x x.a t, w.word x x.b t)
        else (BitVec.ofInt 32 (if x.fn2 == 1 then loT (tyOf x.fn) else hiT (tyOf x.fn)), 0xFFFFFFFF) := fun t => by
      rw [← pairIdentity_eq h.redxi_ty]
      rfl
    dsimp only
    simp only [← hoffer, ← hvalue]
    refine ⟨bestOffer (pairBeats (x.fn2 == 1) (tyOf x.fn)) (w.offer x (w.active x.g)) 31, bestOffer_mem 31, fun t ht => ?_,
      h.yields rfl rfl rfl rfl (fun t _ => redxi_value w x _ t) ?_⟩
    · exact le_of_unbeaten (bestOffer_unbeaten (pairBeats_irrefl _ _) (pairBeats_trans _ _) 31 t ht)
    · exact (orFlags_map_zero _).symm

end Sys2Proof.Machine
end
